-- ==== Sys2Proof/Word.lean ====
section
/-! DEFINITION. The word types of the module's register file and message formats. -/

namespace Sys2Proof

/-- One byte of a message, a packet or a memory. -/
abbrev Byte := BitVec 8

/-- One BAR0 register (spec/02_control_interface.md R48: every register is 32 bits wide). -/
abbrev Word := BitVec 32

end Sys2Proof
end

