-- ==== Sys2Proof/Config.lean ====
section
/-! DEFINITION. Config: what one implementation fixes, and the free values. Every constant here is opaque: no
proof can see its value, so a claim holds whatever it is. -/

namespace Sys2Proof

/-- The free value of the spec's open values (notes/assumptions/3.md): nothing constrains it. A meaning applies it
to the plain counter `free` of the state and advances the counter. -/
opaque Config.freeValue : Nat → Nat

/-- The serial number as 16 ASCII bytes, zero-padded (sys.identify; the spec gives no value). -/
opaque Config.serialText : List Byte

/-- Bits [47:3] of the casting identity, from the module serial number (spec/07_hub_and_casting.md R224). -/
opaque Config.serialNumber : Nat

/-- The ordering code as 16 ASCII bytes (sys.identify). -/
opaque Config.orderingCode : List Byte

/-- DEV_ID.REV, the module revision (spec/02_control_interface.md R48: reset value "—"). -/
opaque Config.revision : BitVec 16

/-- The boot ROM version (sys.identify). -/
opaque Config.bootRomVersion : Word

/-- The device code that the header of an image names, and its minimum module revision: the spec gives no header
layout (spec/02_control_interface.md R85). -/
opaque Config.imageDevice : List Byte → Nat
opaque Config.imageMinRev : List Byte → Nat

/-- Q in 0.01 dB of a window with a BER of 0, or of 1/2 or more, from its errors and bits: spec/05_fec_engine.md R174 gives it none. -/
opaque Config.unstatedQ : Nat → Nat → Int

/-- Means and conversions whose rounding the spec does not state: whether one that is not whole is rounded up, by purpose and
operands. -/
opaque Config.roundsUp : Nat → List Int → Bool

/-- The power in 0.01 dBm that an output code of a photodiode channel stands for (spec/14_monitor_converters.md R406: no
responsivity given). -/
opaque Config.photoPower : Nat → Int → Int

/-- The temperature of a thermistor at a ratio for which the formula gives none: a ratio of 0 or less, or of 1 or more, or a vanishing
denominator (spec/15_thermal_and_calibration.md R421). -/
opaque Config.unstatedTemp : Int → Int

/-- The factory calibration record of an item and object: offset and gain (spec/15_thermal_and_calibration.md R430:
measured at manufacture). -/
opaque Config.factoryOffset : Nat → Nat → Nat → Nat → Int
opaque Config.factoryGain : Nat → Nat → Nat → Nat → Int

/-- The factory X/Y skew correction of a port, in 0.05 ps (spec/03_line_transmit.md R100). -/
opaque Config.factoryXySkew : Nat → Int

/-- 1 % of the full scale of a monitor channel in the unit of its reading, where that unit is not linear in the input
(spec/15_thermal_and_calibration.md R431: no value given). -/
opaque Config.channelOffsetLimit : Nat → Nat

/-- What a signed 16-bit field shows of a margin that it cannot hold: no rule states it. -/
opaque Config.wideMargin : Int → Int

/-- What a margin field of one unit shows while that unit has no margin (spec/01_module_architecture.md R27). -/
opaque Config.noMargin : Nat → Int

/-- Bytes of the control cells of the capability and cue channel, by purpose and place: the channel belongs to the
control firmware, and the spec gives its content no layout (spec/06_line_frame.md R207). -/
opaque Config.controlByte : Nat → Nat → Byte

/-- The admissible sequences of the shaping of class Fk, by the magnitudes of their points, and the order of sequences of one energy:
the spec names the shaping and gives neither (spec/03_line_transmit.md R94). -/
opaque Config.admissible : Nat → List (Nat × Nat) → Bool
opaque Config.tieOrder : Nat → List (Int × Int) → Nat

/-- The ADC level in 0.01 dBFS that a received power of 0 dBm gives at a TIA gain of 0 dB (spec/04_line_receive.md R110 gives the
level that the gain holds, and no relation of power to level). -/
opaque Config.adcLevel : Int

/-- What the foreground calibration numbered `n` sets for a slice, by its place in the port and quantity: skew in 0.5 fs, gain in 0.001
dB, offset in 0.01 LSB, and the three taps of its bandwidth filter (spec/04_line_receive.md R115: measured). -/
opaque Config.sliceCal : Nat → Nat → Nat → Int

/-- The detection limit of the blind dispersion scan (spec/04_line_receive.md R126: no value given). -/
opaque Config.scanLimit : Nat

/-- The arithmetic of the LDPC decoder that the spec does not state (spec/05_fec_engine.md R160): whether a magnitude whose 0.75 is
not whole is rounded up, what an 8-bit message holds of a value beyond its range, and the hard decision of a value of zero. -/
opaque Config.scaleRoundsUp : Nat → Bool
opaque Config.overflowMessage : Int → Int
opaque Config.undecidedBit : Bool

/-- The normalization of the casting decoder's messages: the spec gives no factor (spec/07_hub_and_casting.md R225). -/
opaque Config.castScale : Nat → Nat

/-- The words of cue-core data SRAM that the control firmware writes once it runs: the spec does not say which
(spec/11_bulk_memory.md R330). -/
opaque Config.firmwareWrites : Nat → Bool

/-- A byte of PM history as BAR2 table 0x05 shows it, of what the history holds: the spec gives the table no layout
(spec/06_line_frame.md R211). -/
opaque Config.pmHistoryByte (α : Type) : α → Nat → Byte

/-- The region of a delay line that a slot-frame's bytes are written into, by tributary, departure, subcarrier and slot: the place
of a line's ring is open (spec/11_bulk_memory.md R341). -/
opaque Config.delayRegion : Nat → Nat → Nat → Nat → Nat

/-- A region of PM history holds a closed bin, with so many 15-minute and 24-hour bins kept: the layout is open
(spec/06_line_frame.md R211). -/
opaque Config.pmRegion : Nat → Nat → Nat → Bool

/-- A word of PM history is written when a bin that began at this second closes, a day's or not: the layout is open
(spec/06_line_frame.md R211). -/
opaque Config.pmRewrites : Nat → Bool → Nat → Bool

end Sys2Proof
end

