-- ==== Sys2Proof/Syntax.lean ====
section
/-! DEFINITION. Syntax of the module's commands: the operand types, and `Instr`, one constructor for each row of
the table of operations and events. A mailbox command carries the number of the mailbox that holds its request;
a time-driven row carries the timecode instant at which it happens, in units of 2^-16 ns; a row that a detector
or a far end drives carries what was observed. -/

namespace Sys2Proof

/-- The two management paths (spec/02_control_interface.md R44 to R47). -/
inductive Path where
  | pcie | i2c
  deriving DecidableEq, Repr

/-- An access that writes registers: an aligned word over PCIe, or an I2C transaction at a 7-bit address, of a 16-bit register
offset and data bytes (R46, R48/02). -/
inductive Access where
  | pcie (off : Nat) (val : Word)
  | i2c (addr off : Nat) (data : List Byte)
  deriving DecidableEq, Repr

/-- The stream-FIFO crossings of spec/01_module_architecture.md R17, with the port, host lane or pair lane. -/
inductive Stream where
  | adcToCore (p : Nat) | coreToDac (p : Nat)
  | hostRx (l : Nat) | hostTx (l : Nat)
  | pairRx (l : Nat) | pairTx (l : Nat)
  deriving DecidableEq, Repr

/-- The small FIFOs (R19): monitor-converter output, management traffic, event ingress, and the two queues that
R206 and R295 put under the same rule. -/
inductive Small where
  | monitor (n : Nat) | management | eventIngress | keyChannel | timestamp
  deriving DecidableEq, Repr

/-- The merged-event crossings of R16 (R21). -/
inductive Merged where
  | adcOverload (p a : Nat) | dacClip (p a : Nat) | rsSymbols (l : Nat) | pairSymbols (l : Nat)
  deriving DecidableEq, Repr

/-- The hold-and-flag crossings of R16 (R22). -/
inductive Hold where
  | sliceTrims (p : Nat) | dacTrims (p : Nat) | laneTaps (l : Nat) | timecode | loopSettings
  | leaseFrame | heartbeat | i2cIn | i2cOut | monSettings (n : Nat)
  deriving DecidableEq, Repr

/-- A FIFO crossing that the reset pointer handshake can empty (R23): stream, small, or one of the credit FIFOs of R16, into
the core (`out` false) or out of it. -/
inductive Fifo where
  | stream (x : Stream) | small (x : Small) | bulkPhy (s : Nat) (out : Bool) | pcie (out : Bool)
  deriving DecidableEq, Repr

/-- What a 1 ms refresh of a subcarrier measures (spec/04_line_receive.md R146, R150): EVM in 0.01 %, frequency
offset in MHz, DGD in 0.1 ps, PDL in 0.01 dB, residual dispersion in ps/nm; and what its loops came to in that time: the mean
of its timing error detector in 1/64 symbol, its symbol clock offset in 0.01 ppm (R137), and the 100 complex taps that least mean
squares left, filters XX, XY, YX and YY in order (R135). -/
structure LinkObs where
  evm : Nat
  freq : Int
  dgd : Nat
  pdl : Nat
  resid : Int
  ted : Int
  clk : Int
  taps : List (Int × Int)
  deriving DecidableEq, Repr

/-- The scores of a blind dispersion scan (spec/04_line_receive.md R126): of its 500 ps/nm steps through the window, from the lower
end, then of the 20 ps/nm steps about the best one, from 500 ps/nm below it. -/
structure CdScores where
  coarse : List Nat
  fine : List Nat
  deriving DecidableEq, Repr

/-- A codeword at the decoder pool (spec/05_fec_engine.md R160, R164, R166, R172): its 21,540 LLRs of 6 bits in position order,
the start of its frame in the far end's timecode, in ticks, the iterations completed when its read point cuts it short (none: it
had not left the input store), whether the independent checker finds a nonzero syndrome, and whether the message memory has an
uncorrectable error. -/
structure DecodeObs where
  llrs : List Int
  start : Nat
  cut : Option Nat
  checker : Bool
  memUe : Bool
  deriving DecidableEq, Repr

/-- What is measured of a frame beside its codewords (spec/06_line_frame.md R185, R202): the arrival timecode of its symbol
time 0 in ticks, and its pilot correlation in 0.01. -/
structure FrameObs where
  arr : Nat
  corr : Nat
  deriving DecidableEq, Repr

/-- A training frame as received on a lane (spec/08_host_lanes.md R244 to R247, R259), with what the lane's own
receiver asks for next (`want`, a request of R246; `rxDone`: it needs no further change). `cdr` says that the CDR is locked, `missing`
that the K28.5 is missing or carries a code or disparity error. -/
structure TrainFrame where
  cdr : Bool
  missing : Bool
  crcOk : Bool
  typ : Nat
  req : BitVec 16
  stat : BitVec 16
  ready : Bool
  ack : Bool
  count : Nat
  record : List Byte
  want : BitVec 16
  rxDone : Bool
  deriving DecidableEq, Repr

/-- A lane-marker position as received (R249, R252 to R256): whether the marker is there and correctable, its
width code, logical lane and BSN, and the largest skew in blocks to the other lanes of its port. -/
structure MarkerObs where
  ok : Bool
  width : Nat
  logical : Nat
  bsn : Nat
  skew : Nat
  deriving DecidableEq, Repr

/-- A packet arriving from the host (spec/09_service_path.md R265, R257): its shim, its bytes without the shim,
the gap in bytes before it, the logical lane of its last block, and that lane's block
count of it (spec/13_pair_redundancy.md R388). -/
structure HostPacket where
  shim : Word
  body : List Byte
  gap : Nat
  lane : Nat
  count : Nat
  deriving DecidableEq, Repr

/-- A class announcement from the far end (spec/12_timing_and_cues.md R375): boundary in ticks, mask and classes
of the 16 subcarriers, or the cancellation of an earlier one. -/
structure Announce where
  boundary : Nat
  mask : Nat
  classes : List Nat
  cancel : Bool
  deriving DecidableEq, Repr

/-- What the pair-link exchange shows (spec/13_pair_redundancy.md R380): up or down, the partner's identity,
highest pair generation, highest link generation, ingress delay D, rehearsal period and health. -/
structure PairExchange where
  up : Bool
  ident : Nat
  gen : Nat
  linkGen : Nat
  d : Nat
  period : Nat
  healthy : Bool
  deriving DecidableEq, Repr

/-- What a hub decides on what its leaves send (spec/07_hub_and_casting.md R233, R235, R236): a JOIN, KEEPALIVE or LEAVE of an identity, the
end of a number held without a grant, a silent leaf, and an average of a leaf's offset with the body of the ADJUST it brings, if any. -/
inductive HubDecision where
  | join (ident : Nat) (record : List Byte)
  | keepalive (ident : Nat)
  | leave (ident : Nat)
  | numberEnds (leaf : Nat)
  | silent (leaf : Nat)
  | average (leaf : Nat) (off : Int) (adjust : List Byte)
  deriving DecidableEq, Repr

/-- Minimum, sum, count and maximum of a gauge (spec/06_line_frame.md R213). -/
structure Gauge where
  lo : Int := 0
  sum : Int := 0
  n : Nat := 0
  hi : Int := 0
  deriving DecidableEq, Repr

/-- The counts and gauges of an object in a PM bin (spec/06_line_frame.md R209 to R213). -/
structure PmBin where
  cleared : Bool := false
  partialBin : Bool := false
  secs : Nat := 0
  bbe : Nat := 0
  es : Nat := 0
  ses : Nat := 0
  uas : Nat := 0
  corr : Nat := 0
  unc : Nat := 0
  gauges : List Gauge := []
  lost : Bool := false                   -- spec/11_bulk_memory.md R337: its word is uncorrectable: reads as zeros, irregular
  deriving DecidableEq, Repr

/-- A mirror record from the lead (R393). -/
inductive MirrorRecord where
  | hub (p at_ : Nat) (decision : HubDecision)
  | command (op tag gen at_ : Nat) (payload : List Byte)
  | commandDone (op tag code : Nat)
  | cuePlace (i kind object time period tag : Nat)
  | cueCancel (i : Nat)
  | label (n : Nat) (entry : List Byte)
  | counters (set txPackets txBytes rxPackets rxBytes : Nat)
  | protection (sc value : Nat)
  | ltune (p : Nat) (c : Int)
  | pmBins (kind obj : Nat) (b15 b24 : PmBin)
  | pmEvent (code src : Nat) (data : List Byte)
  | admission (t : Nat) (taken : Bool)
  | lease (time : Nat)
  | versions (p version : Nat)
  deriving DecidableEq, Repr

/-- The lead's context state (R321): packet number, H and window of both slots, both KCVs. -/
structure ContextMirror where
  ctx : Nat
  pn : Nat
  h0 : Nat
  h1 : Nat
  w0 : Nat
  w1 : Nat
  kcv0 : Nat
  kcv1 : Nat
  deriving DecidableEq, Repr

/-- The lead's schedule for one frame (R394): subcarrier, departure of the frame in ticks, the key-channel cell,
the control cell, the status byte and the protection value. -/
structure Schedule where
  sc : Nat
  dep : Nat
  key : List Byte
  ctl : List Byte
  status : Byte
  pc : Word
  deriving DecidableEq, Repr

/-- A continuity digest (R396): kind 1 transmit, 2 receive, 3 state; subcarrier, value and codeword mask. -/
structure Digest where
  kind : Nat
  sc : Nat
  value : Word
  mask : Nat
  deriving DecidableEq, Repr

/-- What the lead sends over the pair link (R387, R393, R394): a mirror record, context state, a schedule, the record of a commit window,
or a tributary's empty point (R398). -/
inductive PairMessage where
  | record (r : MirrorRecord)
  | context (m : ContextMirror)
  | schedule (e : Schedule)
  | commit (k : Nat) (idx : List (Nat × Nat))
  | emptyPoint (t k : Nat)
  deriving DecidableEq, Repr

/-- One modulator result (spec/14_monitor_converters.md R411, R415): the input x as a fraction, and whether a clipped clock lies in the
output's span. -/
structure MonObs where
  num : Int
  den : Nat
  clip : Bool
  deriving DecidableEq, Repr

/-- The address of a calibrated value (spec/15_thermal_and_calibration.md, cal.read): channel or port; lane,
polarization or ADC; slice. -/
structure CalAddr where
  obj : Nat
  sub : Nat
  slice : Nat
  deriving DecidableEq, Repr

/-- The state of a pipeline at a sample (spec/17_pace_and_counters.md R453, R454): it holds a finished token, it
works on a token whose result is discarded, it works on or passes a used token; none of them: it has no token. -/
structure SlotObs where
  held : Bool
  waste : Bool
  busy : Bool
  deriving DecidableEq, Repr

/-- A traced unit (R456, R458): the units that advanced since the last record, its object, the timecode of stage
0, its further stages as offsets in 0.0625 ns, label, tributary, length or iterations, and outcome. -/
structure TracerObs where
  units : Nat
  object : Nat
  tc0 : Nat
  stages : List (Option Nat)
  label : Nat
  trib : Nat
  len : Nat
  outcome : Nat
  refused : Bool
  deriving DecidableEq, Repr


/-- The commands of the module: one constructor for each row of spec/opcode_table.json. A constructor's
docstring gives the row's rule and its summary. -/
inductive Instr where
  /-- REGISTER_WRITE (R11). A write to a BAR0 register that has no behaviour of its own stores the writable fields, clears RW1C bits written with 1 and ignores RSV and RO fields. -/
  | registerWrite (a : Access)
  /-- DOORBELL_WRITE (R53). A write of 1 to bit n of DOORBELL submits mailbox MBn, or sets MB_OVERRUN bit n when MBn is busy, done or owned by the other path. -/
  | doorbellWrite (path : Path) (val : Word)
  /-- MB_OWNER_WRITE (R57). An I2C write to I2C_OWNS_MB7 takes or returns ownership of MB7; a PCIe write to it is ignored. -/
  | mbOwnerWrite (path : Path) (val : Word)
  /-- MB7_OWNER_TIMEOUT (R57). After 10 s with no I2C transaction while MB7 is neither busy nor done, ownership of MB7 returns to PCIe. -/
  | mb7OwnerTimeout
  /-- INT_STATUS_CLEAR (R71). A write of 1s to INT_STATUS clears those cause bits, unless a cause sets a bit in the same access, which then stays set and raises its vector again. -/
  | intStatusClear (val : Word) (causes : Word)
  /-- EVR_ENABLE (R64). Setting EVR_CTRL.ENABLE from 0 to 1 captures the ring base, zeroes HEAD and TAIL, starts a first pass with PHASE 1, abandons old entries and starts writing the backlog. -/
  | evrEnable
  /-- EVR_DISABLE (R65). Clearing EVR_CTRL.ENABLE stops delivery, so events wait in the backlog. -/
  | evrDisable
  /-- EVR_TAIL_WRITE (R65). A write of EVR_TAIL consumes written entries when the index lies from TAIL forward to HEAD, and is otherwise ignored. -/
  | evrTailWrite (val : Word)
  /-- TC_SEC_LO_READ (R50). A read of TC_SEC_LO captures all 96 bits of the timecode for that path, which the other timecode registers then return. -/
  | tcSecLoRead (path : Path)
  /-- KEY_STAGE_WRITE (R73). A write to KEY_SALT or KEY_DATA0-7 stages key material and restarts the 1 s staging timer. -/
  | keyStageWrite (off : Nat) (val : Word)
  /-- KEY_INSTALL (R72). A write of KEY_CMD.INSTALL captures KEY_SEL, key and salt, erases the staging and sets PENDING, or is refused with BUSY while an installation is pending. -/
  | keyInstall (clear : Bool)
  /-- KEY_CLEAR (R72). A write of KEY_CMD.CLEAR erases the staged key, the staged salt and KEY_SEL. -/
  | keyClear
  /-- KEY_INSTALL_DONE (R302). Within 2 us of INSTALL, the captured key is placed into the current or the next slot, or refused with RANGE, DENIED or NORES; RESULT is set and PENDING clears. -/
  | keyInstallDone
  /-- KEY_STAGE_TIMEOUT (R73). A staged key not installed within 1 s of the last staging write is erased, and RESULT becomes TIMEOUT. -/
  | keyStageTimeout
  /-- BAR2_WRITE (R75). A write to BAR2 is discarded and counted in the saturating counter WIN_WRITES. -/
  | bar2Write (off : Nat) (val : Word)
  /-- UNKNOWN_OPCODE (R58). A submitted message with an unknown opcode, a wrong LENGTH or a nonzero required-zero byte completes with BADARG and changes nothing. -/
  | unknownOpcode (mb : Nat)
  /-- SYS_IDENTIFY (R78). sys.identify returns the ordering code, serial number, revision and versions of the images and of the boot ROM, and the supported generations. -/
  | sysIdentify (mb : Nat)
  /-- SYS_STATUS (R61). sys.status returns stage, role, CFG_GEN, temperatures, pace margin, rails, power and counts. -/
  | sysStatus (mb : Nat)
  /-- SYS_RESET (R82). sys.reset with the confirmation writes its response and schedules a reset equal to RESET_N 1 ms later. -/
  | sysReset (mb : Nat)
  /-- SYS_RESET_DELAY_END (R82). 1 ms after an OK sys.reset response, the module performs a reset equal to RESET_N. -/
  | sysResetDelayEnd (role : Bool)
  /-- SYS_QUIET (R83). sys.quiet enters module quiet, taking every port dark, or leaves it and restores each port. -/
  | sysQuiet (mb : Nat) (los : List Int)
  /-- SYS_EVMASK (R84). sys.evmask sets an event code to be suppressed or delivered and returns the previous setting. -/
  | sysEvmask (mb : Nat)
  /-- SYS_ECHO (R59). sys.echo returns its payload unchanged. -/
  | sysEcho (mb : Nat)
  /-- FW_INFO (R79). fw.info returns the state of both flash slots and of the update session. -/
  | fwInfo (mb : Nat)
  /-- FW_BEGIN (R79). fw.begin opens an update session and clears the staging area, or discards an open session when FORCE is set. -/
  | fwBegin (mb : Nat)
  /-- FW_WRITE (R79). fw.write stages up to 224 bytes of the image at an offset in the bulk-memory staging area. -/
  | fwWrite (mb : Nat)
  /-- FW_VERIFY (R85). fw.verify checks completeness, CRC-32, device code and minimum revision of the staged image and marks the session verified. -/
  | fwVerify (mb : Nat)
  /-- FW_ACTIVATE (R86). fw.activate programs the verified image into the slot not marked active, then reads it back, then moves the active mark, or completes DEFERRED. -/
  | fwActivate (mb : Nat) (same : Bool)
  /-- FW_ACTIVATE_DONE (R86). The last page of a deferred activation completes; the slot is marked active, or failed on a read-back mismatch, and COMMAND_DONE is posted. -/
  | fwActivateDone (same : Bool)
  /-- FW_RESTART (R87). fw.restart writes its response and starts a warm restart within 1 ms, or is refused on a lead or when the active slot is not valid. -/
  | fwRestart (mb : Nat)
  /-- WARM_RESTART_START (R80). The control firmware restarts; STAGE becomes RESTART, mailboxes answer BUSY and the datapath continues under its last settings. -/
  | warmRestartStart
  /-- WARM_RESTART_DONE (R80). The restarted firmware reaches READY within 800 ms, posts FW_RESTARTED and releases the held events. -/
  | warmRestartDone
  /-- VIN_RISE_UVLO (R465). VIN rising through the UVLO on threshold starts the soft start and the rail sequence of a power-on. -/
  | vinRiseUvlo (vin : Nat) (role : Bool) (addr : Nat)
  /-- SOFT_START_ABORT (R465). VIN falling below the UVLO off threshold before PWR_GOOD turns every rail off without a power-fail path. -/
  | softStartAbort (vin : Nat)
  /-- RAILS_IN_REGULATION (R465). With every always-on rail in regulation and the hold-up store charged, PWR_GOOD is asserted, power-fail detection is armed and the boot ROM starts. -/
  | railsInRegulation
  /-- BOOT_THERMAL_WAIT (R426). After a power cycle that cleared a thermal latch, a test every 10 ms holds the boot ROM in ROM until the hottest die reads below 140.0 C. -/
  | bootThermalWait
  /-- BOOT_IMAGE_CHECK (R78). The boot ROM checks the header and CRC-32 of the active image and falls back to the other image, setting FALLBACK, when it fails. -/
  | bootImageCheck (ok : Bool)
  /-- BOOT_LOAD_DONE (R77). The image is copied into instruction SRAM and checked, STAGE becomes LOAD and then INIT, and the cue cores start the firmware. -/
  | bootLoadDone
  /-- BOOT_READY (R77). The firmware completes initialisation, STAGE becomes READY and BOOT_DONE is queued in the backlog. -/
  | bootReady (calOk : Bool)
  /-- BOOT_WATCHDOG (R78). An image that does not reach READY within 2.0 s is marked failed and the boot restarts with the other image, or enters RECOVERY when both have failed. -/
  | bootWatchdog
  /-- RESET_N_ASSERT (R469). A low level on RESET_N that lasts 1 us is a reset; all ports are held dark. -/
  | resetNAssert (lowNs : Nat)
  /-- RESET_N_RELEASE (R469). Release of RESET_N after a reset starts the boot sequence, with fates per the retention table. -/
  | resetNRelease (role : Bool)
  /-- POWER_FAIL_DETECT (R466). VIN below the power-fail threshold for the qualification time deasserts PWR_GOOD, clears healthy, closes the attenuators, drops LEN, freezes the log and sheds rails. -/
  | powerFailDetect (vin : Nat)
  /-- POWER_FAIL_PATH_END (R467). At the end of the power-fail path the module awaits VIN and either powers on or performs a reset equal to RESET_N, restoring the shed rails. -/
  | powerFailPathEnd (vin : Nat) (role : Bool) (addr : Nat)
  /-- OV_SHUTDOWN (R462). VIN at or above the OV threshold for 10 us opens the input switch, which leads to the power-fail path. -/
  | ovShutdown (vin : Nat)
  /-- OV_RECOVER (R462). VIN below 76.0 V for 100 ms closes the input switch and the module powers up. -/
  | ovRecover (vin : Nat) (role : Bool) (addr : Nat)
  /-- VIN_WARN_TIMER (R461). VIN outside 36-75 V for 1 ms raises VIN_WARN; VIN within 36.5-74.5 V for 1 ms releases it. -/
  | vinWarnTimer (vin : Nat)
  /-- CORE_RAIL_TICK (R29). Every 10 us the power stage compares the lowest pace margin and raises, lowers or holds the core rail, with the idle floor of R464. -/
  | coreRailTick (ach : List Nat)
  /-- PACE_MARGIN_LOW (R31). A unit's pace margin falling below 3 % lowers its FEC cap and raises PACE_LOW. -/
  | paceMarginLow (us : List (Nat × Nat))
  /-- STREAM_FIFO_FULL_WRITE (R17). An island write into a full stream FIFO loses the word and commits a pace fault with the crossing's outcome. -/
  | streamFifoFullWrite (x : Stream)
  /-- STREAM_FIFO_EMPTY_READ (R17). An island read from an empty stream FIFO yields the fill word, which is a pace fault at the DAC and rate adaptation at the lanes. -/
  | streamFifoEmptyRead (x : Stream)
  /-- SMALL_FIFO_FULL_WRITE (R19). A write into a full small FIFO is ignored and sets its overrun bit. -/
  | smallFifoFullWrite (x : Small)
  /-- MERGED_EVENT_SAMPLE (R21). At least every 50 us the destination samples a Gray counter and adds the difference to its 64-bit total. -/
  | mergedEventSample (x : Merged) (gray : Word)
  /-- HOLD_FLAG_VALUE (R22). A new source value is transferred, or placed in the pending register, overwriting and counting an older pending value. -/
  | holdFlagValue (x : Hold) (v : Nat)
  /-- HOLD_FLAG_ACK (R22). The acknowledge of a hold-and-flag transfer lets the source send its pending value. -/
  | holdFlagAck (x : Hold)
  /-- FIFO_RESET_REQUEST (R23). A side raises a reset request and the reset pointer handshake empties the FIFO crossing. -/
  | fifoResetRequest (x : Fifo) (core : Bool) (acked : Bool)
  /-- FIFO_RESET_TIMEOUT (R25). With no acknowledge 2 us after a request, the core side zeroes its pointer and holds the crossing in reset. -/
  | fifoResetTimeout (x : Fifo)
  /-- ISLAND_CLOCK_RETURN (R25). When the island clock returns, the island zeroes its pointer and the crossing leaves reset. -/
  | islandClockReturn (x : Fifo)
  /-- EVENT_RAISE (R66). A unit raises an event; it takes a SEQ, enters the rushes log and is suppressed, queued in the backlog or discarded. -/
  | eventRaise (code : Nat) (src : Nat) (tag : Nat) (data : List Byte)
  /-- EVENT_RING_WRITE (R64). With the ring enabled and having room, the module writes EVENTS_LOST when due, then the next backlog entry, advances HEAD and raises the vector. -/
  | eventRingWrite
  /-- EVR_DMA_REJECT (R67). A host-rejected ring write clears ENABLE, sets INT_STATUS bit 31 and returns the event to the head of the backlog. -/
  | evrDmaReject
  /-- MSIX_MODERATION_TIMER (R69). HOLD_US after the first pending event of a non-urgent vector, its message is sent if any event is still pending. -/
  | msixModerationTimer (v : Nat)
  /-- PORT_LASER (R108). port.laser asserts or deasserts LENp; deasserting it on a transmitting port triggers the feed-loss action. -/
  | portLaser (mb : Nat)
  /-- PORT_TXENABLE (R106). port.txenable checks LEN and the LO tap and starts the transmitter enable sequence, completing DEFERRED. -/
  | portTxenable (mb : Nat) (lo : Int)
  /-- TX_ENABLE_DONE (R106). The transmit enable sequence ends with the bias loop locked and the attenuator at target, raising TX_READY and COMMAND_DONE OK. -/
  | txEnableDone (p : Nat)
  /-- PORT_TXDISABLE (R107). port.txdisable closes the attenuator within 1 ms, turns off the drivers, holds the biases and ends any enable in progress with DENIED. -/
  | portTxdisable (mb : Nat)
  /-- TX_FEED_LOSS (R108). The LO tap below +9 dBm for 1 ms closes the attenuator and sets the transmitter to feed lost. -/
  | txFeedLoss (p : Nat) (lo : Int)
  /-- BIAS_ALARM (R103). Event for a child modulator beyond its bias range. -/
  | biasAlarm (p : Nat) (child : Nat)
  /-- PORT_TXPOWER (R105). port.txpower sets the launch target and, with the transmitter off, the CD pre-compensation. -/
  | portTxpower (mb : Nat) (feed : Int)
  /-- PORT_FORMAT (R98). port.format places, replaces or merges a format-change cue at a common boundary at least 2.0 ms ahead. -/
  | portFormat (mb : Nat)
  /-- PORT_TXSTATUS (R104). port.txstatus returns the transmitter, bias and power state, the classes, the pending change and the clip counts. -/
  | portTxstatus (mb : Nat)
  /-- SC_TXPOWER (R104). sc.txpower sets a subcarrier's digital power offset, applied at once. -/
  | scTxpower (mb : Nat)
  /-- SC_TXSTATUS (R88). sc.txstatus returns a subcarrier's class, offset, frequency offset and frames sent. -/
  | scTxstatus (mb : Nat)
  /-- FORMAT_CHANGE_CUE (R97). At its common boundary a format change sets the classes of the named subcarriers, which start frame 0, together with the companion remap cue. -/
  | formatChangeCue (i : Nat) (at_ : Nat)
  /-- PORT_RXENABLE (R115). port.rxenable starts the foreground calibration of the port's ADC slices, completing DEFERRED. -/
  | portRxenable (mb : Nat) (lo : Int)
  /-- RX_CALIBRATION_DONE (R115). The foreground slice calibration ends; the receiver enters NO_LIGHT and COMMAND_DONE is posted. -/
  | rxCalibrationDone (p : Nat)
  /-- PORT_RXDISABLE (R131). port.rxdisable turns the receiver OFF and ends any cued or running dissolve early. -/
  | portRxdisable (mb : Nat)
  /-- PORT_RXCONFIG (R125). port.rxconfig sets CD mode, frequency role, LTUNE polarity and thresholds, scan window, tracking and loss-of-light settings. -/
  | portRxconfig (mb : Nat)
  /-- PORT_CDSET (R128). port.cdset loads a set into the incoming store with a dissolve cue, or into the staged store. -/
  | portCdset (mb : Nat)
  /-- PORT_CDWRITE (R130). port.cdwrite loads a set into the incoming store without a dissolve. -/
  | portCdwrite (mb : Nat)
  /-- PORT_CDSTART (R130). port.cdstart cues a dissolve to the incoming store. -/
  | portCdstart (mb : Nat)
  /-- PORT_CDSTATUS (R122). port.cdstatus returns the state of the equalizer stores and dissolves. -/
  | portCdstatus (mb : Nat)
  /-- PORT_RXSTATUS (R151). port.rxstatus returns the receive state, powers, offsets, LTUNE state, spares and overloads. -/
  | portRxstatus (mb : Nat)
  /-- PORT_LTUNE (R142). port.ltune sets a target for C on a port that is not a follower. -/
  | portLtune (mb : Nat)
  /-- LTUNE_SLEW_STEP (R142). Every 10 ms, C moves toward the port.ltune target by at most 50 MHz. -/
  | ltuneSlewStep (p : Nat)
  /-- SC_RXCONFIG (R112). sc.rxconfig overrides a subcarrier's receive class and MIMO step and resynchronizes it on a class change. -/
  | scRxconfig (mb : Nat)
  /-- SC_RXSTATUS (R148). sc.rxstatus returns a subcarrier's receive state, LQI, EVM, SNR, margin and impairments. -/
  | scRxstatus (mb : Nat)
  /-- SC_RESYNC (R153). sc.resync resets a subcarrier's MIMO taps and restarts its timing, carrier and frame acquisition. -/
  | scResync (mb : Nat)
  /-- LIGHT_PRESENT (R111). The received power at or above threshold plus 1 dB for 100 us indicates light present and starts AFC. -/
  | lightPresent (p : Nat) (power : Int)
  /-- LIGHT_ABSENT (R111). The received power below threshold for 10 us indicates light absent and returns the receiver to NO_LIGHT. -/
  | lightAbsent (p : Nat) (power : Int)
  /-- AFC_DONE (R139). The AFC estimate completes and is frozen; the receiver moves to CD_SCAN or CONVERGE. -/
  | afcDone (p : Nat) (off : Int)
  /-- AFC_TIMEOUT (R151). No AFC estimate within 5 ms restarts AFC and raises RX_ACQ_FAIL. -/
  | afcTimeout (p : Nat)
  /-- CD_SCAN_DONE (R126). The blind CD scan ends, loading its result into the active store, or fails and returns to AFC. -/
  | cdScanDone (p : Nat) (o : CdScores)
  /-- CONVERGE_TIMEOUT (R151). No subcarrier converged within 10 ms in CONVERGE returns the receiver to AFC. -/
  | convergeTimeout (p : Nat)
  /-- SC_CONVERGE (R149). A subcarrier's SNR at or above required minus 3 dB for 100 us makes it converged; the port may enter TRACK. -/
  | scConverge (sc : Nat) (snr : Int)
  /-- SC_UNCONVERGE (R149). A subcarrier's SNR below required minus 4 dB for 100 us makes it unconverged. -/
  | scUnconverge (sc : Nat) (snr : Int)
  /-- TRACK_LOSS_TIMER (R151). No lit subcarrier converged for 1 ms in TRACK returns the receiver to AFC. -/
  | trackLossTimer (p : Nat)
  /-- BG_CAL_STEP (R116). Each 50 us step, the background calibration moves each active slice's offset, gain and skew by bounded amounts. -/
  | bgCalStep (p : Nat) (a : Nat) (sl : Nat) (skew : Int) (gain : Int) (off : Int) (fir : Int × Int × Int)
  /-- SHADOW_ROTATE (R117). Every 10 ms each spare slice moves on to shadow the next active slice. -/
  | shadowRotate (p : Nat)
  /-- ADC_SLICE_FAULT (R118). A stuck, range-limited or shadow-mismatched slice is detected and counted as a unit fault, with retry. -/
  | adcSliceFault (p : Nat) (a : Nat) (sl : Nat)
  /-- ADC_SLICE_RETIRE (R118). A slice's phase is handed to the lowest-numbered spare at the next 64-sample boundary, or kept when no spare is left. -/
  | adcSliceRetire (p : Nat) (a : Nat)
  /-- CD_LOAD_DONE (R122). A coefficient set finishes loading into its store within 200 us. -/
  | cdLoadDone (p : Nat) (staged : Bool)
  /-- DISSOLVE_START_CUE (R123). At its block boundary a dissolve begins crossfading from the active to the incoming store. -/
  | dissolveStartCue (i : Nat) (at_ : Nat)
  /-- DISSOLVE_END (R129). After L blocks the stores rotate, a staged set is cued or the state goes idle, and CD_DISSOLVE_DONE is raised. -/
  | dissolveEnd (p : Nat) (at_ : Nat)
  /-- CD_TRACK_ESTIMATE (R127). Every 100 ms the residual dispersion is estimated and a tracking dissolve is requested when the conditions hold. -/
  | cdTrackEstimate (p : Nat) (res : List Int)
  /-- LTUNE_UPDATE (R143). Every 10 ms a follower port in TRACK steps C toward zero offset, with the LTUNE_LIMIT arming rule. -/
  | ltuneUpdate (p : Nat)
  /-- LINK_QUALITY_REFRESH (R146). Every 1 ms EVM, SNR, margin, LQI and the OSNR estimate are refreshed. -/
  | linkQualityRefresh (sc : Nat) (q : LinkObs)
  /-- RX_CLASS_CHANGE (R152). At the received frame whose stamp equals the announced boundary, a subcarrier changes its receive class, starts acquisition or stops. -/
  | rxClassChange (sc : Nat) (stamp : Nat)
  /-- CODEWORD_ENCODE (R159). A codeword is BCH and LDPC encoded and its syndrome is checked, a nonzero syndrome being an encoder fault. -/
  | codewordEncode (sc : Nat) (c : Nat)
  /-- CODEWORD_DECODE (R167). A logical slot takes its next codeword with a limit from its debt, decodes it by LDPC and BCH and updates debt and counts. -/
  | codewordDecode (sc : Nat) (c : Nat) (r : DecodeObs)
  /-- CODEWORD_READ_POINT (R166). 1,050 ns after its last LLR a codeword goes to the deframer, being truncated or skipped if not finished. -/
  | codewordReadPoint (sc : Nat) (c : Nat) (r : DecodeObs)
  /-- FEC_TRUNCATING_REARM (R176). After 1 s without truncation, FEC_TRUNCATING is armed again. -/
  | fecTruncatingRearm (p : Nat)
  /-- FEC_CAP_TICK (R170). The cap K falls every 100 us below 3 % margin and rises every 1 ms at 6 % or more, clamping debts. -/
  | fecCapTick (p : Nat) (ach : Nat)
  /-- FEC_ENGINE_RETIRE (R172). A retired engine's logical slot passes to a spare at its next codeword, or the slot is removed and A shrinks. -/
  | fecEngineRetire (p : Nat)
  /-- PREFEC_BER_WINDOW (R174). Every 100 ms the pre-FEC BER and Q are computed from the window's good codewords. -/
  | prefecBerWindow (sc : Nat)
  /-- PORT_FECCONFIG (R169). port.fecconfig sets the nominal budget and ceiling of a port. -/
  | portFecconfig (mb : Nat)
  /-- PORT_FECSTATUS (R170). port.fecstatus returns the budget, cap, engines, margin and FEC counts of a port. -/
  | portFecstatus (mb : Nat)
  /-- SC_FECSTATS (R173). sc.fecstats returns a subcarrier's decoding counts, iterations, pre-FEC BER and Q. -/
  | scFecstats (mb : Nat)
  /-- FRAME_TRANSMIT (R179). A subcarrier builds a frame with its overhead, scheduled cells, stamp and slot content, scrambled and encoded. -/
  | frameTransmit (sc : Nat) (at_ : Nat)
  /-- PILOT_CORRELATION (R184). The correlator tests a phase and on a candidate enters CONFIRM1 and hands the pilot positions to MIMO and carrier recovery. -/
  | pilotCorrelation (sc : Nat) (phase : Nat) (corr : Nat)
  /-- CANDIDATE_CONVERGE_TIMEOUT (R185). A candidate whose subcarrier does not converge within 10 ms is false, and the hunt resumes at the next phase. -/
  | candidateConvergeTimeout (sc : Nat)
  /-- FRAME_RECEIVE (R186). A decoded frame updates alignment and multiframe lock and takes overhead, BIP-8, status, trace, descriptors, stamps and channel cells. -/
  | frameReceive (sc : Nat) (f : FrameObs)
  /-- DEFECT_TICK (R197). Every 0.1 ms each defect's raw indication is integrated, declaring or clearing defects with masking. -/
  | defectTick
  /-- PM_SECOND (R209). At each timecode second the module classifies ES, SES, BBE and UAS, updates gauges and bins and checks TCA thresholds. -/
  | pmSecond (at_ : Nat)
  /-- PM_BIN_BOUNDARY (R211). A PM bin cue makes the current 15-minute or 24-hour bin history and starts a new one. -/
  | pmBinBoundary (i : Nat) (at_ : Nat)
  /-- PM_BIN_FINAL (R211). 10 s after its boundary a bin becomes final and PM_BIN_CLOSED is raised. -/
  | pmBinFinal (day : Bool)
  /-- FRAME_TRACE (R196). frame.trace sets the transmit trace, the expected trace, the compare part and the TIM action. -/
  | frameTrace (mb : Nat)
  /-- FRAME_DEFCFG (R198). frame.defcfg sets a defect's set and clear times and threshold and restarts its integration. -/
  | frameDefcfg (mb : Nat)
  /-- FRAME_PCSET (R201). frame.pcset sets the protection value sent from the next frame. -/
  | framePcset (mb : Nat)
  /-- FRAME_CHAN (R203). frame.chan enables GCC and UOC and sets their egress host ports. -/
  | frameChan (mb : Nat)
  /-- FRAME_KCSEND (R205). frame.kcsend queues a host message for the key channel. -/
  | frameKcsend (mb : Nat)
  /-- FRAME_KCRECV (R206). frame.kcrecv removes and returns a received key-channel message. -/
  | frameKcrecv (mb : Nat)
  /-- FRAME_STAMP (R202). frame.stamp returns the departure and arrival stamps of the last good frame. -/
  | frameStamp (mb : Nat)
  /-- FRAME_STATUS (R186). frame.status returns a subcarrier's alignment, defects, overhead values and counts. -/
  | frameStatus (mb : Nat)
  /-- FRAME_DEFECTS (R197). frame.defects returns the declared defects of the whole module. -/
  | frameDefects (mb : Nat)
  /-- FRAME_TRIBDEF (R197). frame.tribdef returns the PLM and SMM bits of 768 tributaries. -/
  | frameTribdef (mb : Nat)
  /-- PM_CONFIG (R211). pm.config sets the SES threshold and the day offset. -/
  | pmConfig (mb : Nat)
  /-- PM_TCA_CONFIG (R214). pm.tca sets a threshold-crossing alert for an object and parameter. -/
  | pmTcaConfig (mb : Nat)
  /-- PM_READ (R211). pm.read returns a current or history PM bin. -/
  | pmRead (mb : Nat)
  /-- PM_CLEAR (R214). pm.clear zeroes the current bins of an object, flags them cleared and rearms the alerts. -/
  | pmClear (mb : Nat)
  /-- HUB_ROLE (R215). hub.role sets a port's role while its receiver and transmitter are off. -/
  | hubRole (mb : Nat)
  /-- HUB_GRANT (R234). hub.grant sets a leaf's owned subcarriers and class with a format cue and a GRANT record. -/
  | hubGrant (mb : Nat)
  /-- HUB_RELEASE (R236). hub.release sends RELEASE or DENY and darkens the leaf's subcarriers at a boundary. -/
  | hubRelease (mb : Nat)
  /-- HUB_JOIN (R231). hub.join brings up a leaf's PIC and casting channel and starts joining, completing DEFERRED. -/
  | hubJoin (mb : Nat) (lo : Int)
  /-- HUB_LEAVE (R236). hub.leave makes a leaf send LEAVE three times and darken everything. -/
  | hubLeave (mb : Nat)
  /-- HUB_STATUS (R233). hub.status returns eight leaf entries. -/
  | hubStatus (mb : Nat)
  /-- CAST_CONFIG (R221). cast.config sets the detection threshold, casting level, keepalive interval and ack timeout. -/
  | castConfig (mb : Nat)
  /-- CAST_STATUS (R229). cast.status returns the burst counts, beacon lock, link generation and far-end capability. -/
  | castStatus (mb : Nat)
  /-- CASTING_SLOT (R222). At each casting slot a hub or point-to-point port sends a beacon or capability frame. -/
  | castingSlot (p : Nat) (at_ : Nat)
  /-- BURST_DETECTION (R229). A preamble detection starts a burst, replaces one by capture, waits as pending or is lost. -/
  | burstDetection (p : Nat) (power : Int) (corr : Nat) (freq : Int)
  /-- BURST_HEADER_CHECK (R229). At the end of header time the CRC-16 is checked, counting a mirage and pre-empting, or rejecting by R230, or entering payload. -/
  | burstHeaderCheck (p : Nat) (hdr : List Byte)
  /-- BURST_PAYLOAD_END (R229). At the end of a burst payload the blocks are decoded and the burst is delivered or dropped. -/
  | burstPayloadEnd (p : Nat) (llrs : List Int)
  /-- JOIN_RECEIVE (R233). A hub acts on a good JOIN by ACK, DENY or assigning a leaf number. -/
  | joinReceive (p : Nat) (ident : Nat) (record : List Byte)
  /-- KEEPALIVE_RECEIVE (R236). A hub records a leaf's KEEPALIVE and rearms LEAF_SILENT. -/
  | keepaliveReceive (p : Nat) (ident : Nat) (msg : List Byte)
  /-- LEAVE_RECEIVE (R236). A hub ends a leaf's grants on LEAVE. -/
  | leaveReceive (p : Nat) (ident : Nat)
  /-- LEAF_NUMBER_TIMEOUT (R233). A leaf number held 10 s without a grant is freed with DENY reason 2. -/
  | leafNumberTimeout (p : Nat) (leaf : Nat)
  /-- LEAF_SILENT_TIMEOUT (R236). No KEEPALIVE for 10 intervals marks the leaf silent. -/
  | leafSilentTimeout (p : Nat) (leaf : Nat)
  /-- ADJUST_AVERAGE (R235). Every 100 ms a hub averages each leaf's offset and power and sends ADJUST when needed. -/
  | adjustAverage (p : Nat) (leaf : Nat) (off : Int) (powers : List Int)
  /-- HUB_DISPERSION_SCAN (R218). A hub scans a newly granted leaf's dispersion on a stored capture and cues a 64-block dissolve. -/
  | hubDispersionScan (p : Nat) (leaf : Nat) (disp : Int)
  /-- BEACON_RECEIVE (R227). A leaf takes a good beacon frame, gaining lock and acting on records addressed to it. -/
  | beaconReceive (p : Nat) (hdr : List Byte) (llrs : List Int) (off : Int)
  /-- BEACON_LOCK_LOSS (R227). 32 consecutive beacon frames that are not good lose beacon lock. -/
  | beaconLockLoss (p : Nat)
  /-- JOIN_SEND (R232). After its backoff of k slots a leaf sends a JOIN burst. -/
  | joinSend (p : Nat) (k : Nat)
  /-- ACK_TIMEOUT (R232). No ACK or DENY within the ack timeout doubles the window, or after 16 tries raises JOIN_FAILED and waits 1 s. -/
  | ackTimeout (p : Nat)
  /-- JOIN_RETRY_WAIT (R232). 1 s after JOIN_FAILED a leaf restarts joining with W = 8. -/
  | joinRetryWait (p : Nat)
  /-- KEEPALIVE_SEND (R232). Once per keepalive interval, after a random delay, a leaf sends KEEPALIVE. -/
  | keepaliveSend (p : Nat) (k : Nat)
  /-- LEAVE_SEND (R236). After its backoff a leaf sends one of its three LEAVE bursts. -/
  | leaveSend (p : Nat) (k : Nat)
  /-- LEAF_GRANT_APPLY (R234). At its boundary a leaf lights, changes or darkens its granted subcarriers. -/
  | leafGrantApply (p : Nat) (at_ : Nat)
  /-- CAPABILITY_RECEIVE (R239). Good capability frames drive the acknowledge exchange, which ends with LINK_UP and the lighting of classes. -/
  | capabilityReceive (p : Nat) (hdr : List Byte) (llrs : List Int)
  /-- HOST_PORTCFG (R255). host.portcfg defines or deletes a host port. -/
  | hostPortcfg (mb : Nat)
  /-- HOST_ENABLE (R258). host.enable moves a port's lanes to DETECT or DISABLED. -/
  | hostEnable (mb : Nat)
  /-- HOST_TXTAPS (R242). host.txtaps sets a lane's transmit taps as trained or fixed. -/
  | hostTxtaps (mb : Nat)
  /-- HOST_LOWPOWER (R262). host.lowpower moves a port into QUIET or DEEP, or back to ACTIVE. -/
  | hostLowpower (mb : Nat)
  /-- HOST_LOWPOWER_DONE (R262). A host port's transmit lanes reach the target state and host.lowpower completes. -/
  | hostLowpowerDone (nn : Nat)
  /-- HL_WAKE_ON_SIGNAL (R262). Signal on a lane of a low-power port for 1 us with wake on signal set exits to ACTIVE. -/
  | hlWakeOnSignal (l : Nat)
  /-- HOST_RETRAIN (R263). host.retrain retrains a lane from DETECT without a fault. -/
  | hostRetrain (mb : Nat)
  /-- HOST_LANESTATUS (R263). host.lanestatus returns a lane's state, taps, errors and counts. -/
  | hostLanestatus (mb : Nat)
  /-- HOST_PORTSTATUS (R256). host.portstatus returns a port's state, skew and packet counts. -/
  | hostPortstatus (mb : Nat)
  /-- HL_DETECT_TEST (R258). Every 100 us a lane in DETECT tests for far-end termination and enters TRAIN at P2. -/
  | hlDetectTest (l : Nat) (sensed : Bool)
  /-- HL_TRAINING_FRAME (R245). A good training frame drives coefficient handshakes, receiver ready, the record exchange and the countdown. -/
  | hlTrainingFrame (l : Nat) (f : TrainFrame)
  /-- HL_TRAIN_TIMEOUT (R258). 500 ms in TRAIN returns the lane to DETECT with a lane fault. -/
  | hlTrainTimeout (l : Nat)
  /-- HL_EXCHANGE_TIMEOUT (R258). 10 ms in EXCHANGE without a matching record returns the lane to DETECT with a lane fault. -/
  | hlExchangeTimeout (l : Nat)
  /-- HL_SWITCH_TIMEOUT (R258). 1 ms in SWITCH returns the lane to DETECT with a lane fault. -/
  | hlSwitchTimeout (l : Nat)
  /-- HL_MARKER_RECEIVE (R253). A lane marker drives codeword lock, BSN checks, lane ACTIVE and port alignment. -/
  | hlMarkerReceive (l : Nat) (m : MarkerObs)
  /-- HL_RS_CODEWORD (R251). An RS lane codeword is decoded, corrected symbols counted, and uncorrectable blocks marked errored. -/
  | hlRsCodeword (l : Nat) (corrected : Nat) (bad : Bool) (headers : List Nat)
  /-- HL_SER_SECOND (R263). Each second a symbol error ratio above 1e-4 is a lane fault, kind 3. -/
  | hlSerSecond (l : Nat) (errs : Nat) (total : Nat)
  /-- HOST_LANE_RETIRE (R264). A retired host lane holds idle and its port follows the DOWN or DEGRADE policy. -/
  | hostLaneRetire (l : Nat)
  /-- HOST_PACKET_INGRESS (R267). A host packet's shim is parsed and the packet goes to a channel, is dropped or goes to label lookup. -/
  | hostPacketIngress (nn : Nat) (pk : HostPacket)
  /-- LABEL_LOOKUP (R271). A packet's label is looked up in the cache in host-port order, starting a fill on a miss. -/
  | labelLookup (nn : Nat)
  /-- LABEL_FILL_DONE (R270). A cache-line fill completes, releasing the held packets of its host port. -/
  | labelFillDone (line : Nat) (bad : Bool)
  /-- PACKET_ADMISSION (R290). A looked-up packet is admitted against its tributary credit, or dropped, and counted, waiting while the counter buffer is full. -/
  | packetAdmission
  /-- PACKET_ENCRYPT (R307). A packet is encrypted under the current key with the next packet number, with limit checks and dual-path comparison. -/
  | packetEncrypt (mism : Nat)
  /-- SLOT_FRAME_MAP (R278). The slot mapper fills a slot-frame from its tributary's queues, or with idle filler, freeing the cells it reads. -/
  | slotFrameMap (sc : Nat) (k : Nat) (at_ : Nat)
  /-- CREDIT_RETURN (R291). Freed cells reach the admission stage within 250 ns. -/
  | creditReturn (t : Nat)
  /-- TPE_HEADER_RECEIVE (R279). A received TPE header drives the tributary's delineation state. -/
  | tpeHeaderReceive (t : Nat)
  /-- SLOT_FRAME_RELEASE (R286). A slot-frame is released once every earlier slot-frame of its tributary has arrived, with hitless selection. -/
  | slotFrameRelease (t : Nat)
  /-- SLOT_FRAME_DEADLINE (R286). A slot-frame missing at its deadline is taken as errored. -/
  | slotFrameDeadline (t : Nat) (sc : Nat) (k : Nat) (dep : Nat)
  /-- PACKET_RECEIVE (R293). A reassembled packet is dropped, delivered errored or passed to decryption or counting. -/
  | packetReceive (t : Nat)
  /-- PACKET_DECRYPT (R314). A received packet is checked for key, replay and ICV and decrypted, delivered or failed. -/
  | packetDecrypt (mism : Nat)
  /-- EGRESS_SEND (R294). A complete packet in a host port's egress queue is sent on the host lanes. -/
  | egressSend (nn : Nat)
  /-- TRIB_CONFIG (R285). trib.config sets a tributary's directions, lock, egress, bulk deskew, allocation and partner. -/
  | tribConfig (mb : Nat)
  /-- TRIB_STAGE (R282). trib.stage changes slot owners in the staged map. -/
  | tribStage (mb : Nat)
  /-- TRIB_COMMIT (R282). trib.commit places or replaces the tributary remap cue for all staged changes. -/
  | tribCommit (mb : Nat)
  /-- TRIB_STATUS (R280). trib.status returns a tributary's slots, rates, occupancy and counts. -/
  | tribStatus (mb : Nat)
  /-- TRIB_REMAP_CUE (R283). At its boundary a remap applies the new slot map, increments versions and recomputes rates and allocations. -/
  | tribRemapCue (i : Nat) (at_ : Nat)
  /-- LABEL_SET (R273). label.set writes a label entry to bulk memory and to the cache. -/
  | labelSet (mb : Nat)
  /-- LABEL_GET (R272). label.get returns a label entry and its cache presence. -/
  | labelGet (mb : Nat)
  /-- LABEL_COUNTERS (R274). label.counters returns a counter set and optionally clears it. -/
  | labelCounters (mb : Nat)
  /-- LABEL_PROFILE (R289). label.profile sets an admission profile's DE and normal limits. -/
  | labelProfile (mb : Nat)
  /-- LABEL_STATS (R270). label.stats returns lookup and drop counts and clears the timestamp overrun bit. -/
  | labelStats (mb : Nat)
  /-- LABEL_TSREAD (R295). label.tsread removes and returns a timestamp record. -/
  | labelTsread (mb : Nat)
  /-- CTX_CONFIG (R298). ctx.config sets direction bit, deliver-failed flag, limit profile and replay window. -/
  | ctxConfig (mb : Nat)
  /-- CTX_LIMITS (R308). ctx.limits sets a profile's soft and hard usage limits. -/
  | ctxLimits (mb : Nat)
  /-- CTX_ROLLOVER (R310). ctx.rollover places or replaces a context's rollover cue and announces it. -/
  | ctxRollover (mb : Nat)
  /-- CTX_ERASE (R297). ctx.erase erases key slots of a context. -/
  | ctxErase (mb : Nat)
  /-- CTX_STATUS (R300). ctx.status returns the context view and its counts. -/
  | ctxStatus (mb : Nat)
  /-- CTX_LANES (R317). ctx.lanes returns the cipher lane state and counts of both directions. -/
  | ctxLanes (mb : Nat)
  /-- ROLLOVER_CUE (R310). At R the next key becomes current and the old one receive-only, and CTX_ROLLED is raised. -/
  | rolloverCue (i : Nat) (at_ : Nat)
  /-- ROLLOVER_ANNOUNCE_RECEIVE (R313). A received rollover announcement is recorded and checked against the context's ANs. -/
  | rolloverAnnounceReceive (sc : Nat) (cell : List Byte)
  /-- CIPHER_LANE_RETIRE (R319). A retired cipher lane's work passes to the spare, or the lane is removed. -/
  | cipherLaneRetire (d : Nat)
  /-- BULK_READ (R337). A bulk or on-chip read is checked, corrected with write-back and sandglass increment, or handled as uncorrectable by consumer. -/
  | bulkRead (c : Nat) (addr : Nat) (syms : Nat)
  /-- BULK_PARTIAL_WRITE (R333). A write of fewer than 64 bytes is a read-modify-write, merging, correcting or poisoning the word. -/
  | bulkPartialWrite (addr : Nat) (data : List Byte) (syms : Nat)
  /-- SWEEP_STEP (R338). The sweep reads the next valid word, correcting or counting errors. -/
  | sweepStep (onChip : Bool) (addr : Nat) (syms : Nat)
  /-- SWEEP_PASS_END (R339). A sweep pass ends, shortening the next pass when late. -/
  | sweepPassEnd (onChip : Bool) (dur : Nat)
  /-- SANDGLASS_LEAK (R340). Once per leak period a sandglass level falls by 1. -/
  | sandglassLeak (g : Nat)
  /-- PSEUDO_CHANNEL_RETIRE (R345). A pseudo-channel retirement assigns spare regions and starts migration, or leaves it in service without spares. -/
  | pseudoChannelRetire (g : Nat)
  /-- MIGRATION_REGION_COPY (R345). A region's copy completes and it switches to its new place, the last one retiring the pseudo-channel. -/
  | migrationRegionCopy (bad : Nat)
  /-- BULK_SWEEP (R338). bulk.sweep sets the sweep pass times and enables. -/
  | bulkSweep (mb : Nat)
  /-- BULK_SANDGLASS_SET (R340). bulk.sandglass sets depth and leak period of one or all sandglasses. -/
  | bulkSandglassSet (mb : Nat)
  /-- BULK_STATUS (R324). bulk.status returns memory health, reservations and error counts. -/
  | bulkStatus (mb : Nat)
  /-- BULK_MEMSTATUS (R340). bulk.memstatus returns one memory's state, sandglass and errors. -/
  | bulkMemstatus (mb : Nat)
  /-- BULK_BUDGET_READ (R342). bulk.budget returns each client's rate and yielded seconds. -/
  | bulkBudgetRead (mb : Nat)
  /-- BULK_RETIRE (R345). bulk.retire retires a pseudo-channel by migration, completing DEFERRED. -/
  | bulkRetire (mb : Nat)
  /-- CANDIDATE_ACTIVITY_LOSS (R350). A candidate that loses activity is disqualified, switching, entering holdover or free-running when it was selected. -/
  | candidateActivityLoss (c : Nat)
  /-- CANDIDATE_MEASURE (R351). Each second candidates are measured against LOSC_IN and the ensemble and qualified, banded, ranked or cleared of suspicion. -/
  | candidateMeasure (offs phases : List Int)
  /-- WAIT_TO_RESTORE_EXPIRY (R349). A higher-priority candidate qualified for the wait-to-restore time displaces the selection in revertive mode. -/
  | waitToRestoreExpiry (c : Nat)
  /-- TIMING_LOCK (R357). Phase error held small for 10 loop time constants moves the island from ACQUIRE to LOCKED. -/
  | timingLock
  /-- LOSC_ACTIVITY_LOSS (R348). Loss of LOSC_IN moves the island to the internal oscillator; its return restores LOSC_IN. -/
  | loscActivityLoss (lost : Bool)
  /-- LOSC_WARMUP_DONE (R351). The declared warm-up time passes and LOSC_IN becomes warm. -/
  | loscWarmupDone
  /-- HOURGLASS_TICK (R359). Each second the hourglass and the predicted time error are recomputed. -/
  | hourglassTick (dT : Int)
  /-- TC_SOURCE_COMPARE (R362). Each second the time source is compared with the timecode, which is stepped or slewed. -/
  | tcSourceCompare
  /-- PPS_IN_EDGE (R364). A PPS_IN edge, advanced by the cable delay, marks a TAI second and disciplines phase. -/
  | ppsInEdge (at_ : Nat)
  /-- TOD_RECEIVE (R364). A ToD message is accepted or discarded and counted. -/
  | todReceive (msg : List Byte)
  /-- TOD_TIMEOUT (R364). Three seconds without a good ToD message raise TC_TOD_LOST once. -/
  | todTimeout
  /-- PPS_OUT_EDGE (R365). At each timecode second PPS_OUT rises, with a ToD message 500 ms later when enabled. -/
  | ppsOutEdge (at_ : Nat)
  /-- TIME_TRANSFER_TICK (R366). Each second the mean transit is sent to the far end and offset and path delay are computed. -/
  | timeTransferTick (p : Nat) (mOut : Option Int) (farTakes : Bool)
  /-- CUE_ANNOUNCE_REPEAT (R375). Every 100 us an unacknowledged cue announcement is repeated. -/
  | cueAnnounceRepeat (i : Nat)
  /-- CUE_ACK_RECEIVE (R375). A far-end acknowledge marks an announcement acknowledged. -/
  | cueAckReceive (i : Nat)
  /-- CUE_ANNOUNCE_RECEIVE (R375). A received cue or class announcement places a cue in the own region and is acknowledged. -/
  | cueAnnounceReceive (p : Nat) (a : Announce)
  /-- CUE_UNACKED_CHECK (R376). An announcement unacknowledged 1.0 ms before its boundary raises CUE_UNACKED. -/
  | cueUnackedCheck (i : Nat)
  /-- CLK_CANDIDATE (R349). clk.candidate sets a candidate's priority and declared frequency. -/
  | clkCandidate (mb : Nat)
  /-- CLK_CONFIG (R356). clk.config sets loop bandwidth, revertive mode, bands, times and LOSC_IN frequency. -/
  | clkConfig (mb : Nat)
  /-- CLK_FORCE (R349). clk.force forces or releases a candidate selection. -/
  | clkForce (mb : Nat)
  /-- CLK_HOLDOVER_SET (R358). clk.holdover sets the oscillator model and error limit. -/
  | clkHoldoverSet (mb : Nat)
  /-- CLK_REFOUT (R360). clk.refout sets a REFOUT frequency and squelch mode. -/
  | clkRefout (mb : Nat)
  /-- CLK_STATUS (R357). clk.status returns island state, hourglass and candidate states. -/
  | clkStatus (mb : Nat)
  /-- TC_SET (R363). tc.set writes the timecode, as a step when it moves it. -/
  | tcSet (mb : Nat)
  /-- TC_SOURCE (R362). tc.source sets the time source, step threshold and slew limit. -/
  | tcSource (mb : Nat)
  /-- TC_IO (R364). tc.io sets PPS cable delay, PPS_OUT advance, TOD_OUT enable and PPS edge. -/
  | tcIo (mb : Nat)
  /-- TC_TRANSFER (R366). tc.transfer sets line time-transfer measurement, asymmetry and frequencies. -/
  | tcTransfer (mb : Nat)
  /-- TC_STATUS (R362). tc.status returns the timecode, source state, offsets and counts. -/
  | tcStatus (mb : Nat)
  /-- CUE_READ (R370). cue.read returns a cue-table entry. -/
  | cueRead (mb : Nat)
  /-- CUE_CANCEL (R371). cue.cancel frees a pending entry where its kind permits, with companion and far-end effects. -/
  | cueCancel (mb : Nat)
  /-- CUE_STATS (R372). cue.stats returns pending and late cue statistics. -/
  | cueStats (mb : Nat)
  /-- LEASE_FRAME_RECEIVE (R382). A valid lease frame grants, extends or ends a lease for this module or the partner, and sets ROLE. -/
  | leaseFrameReceive (fr : List Byte)
  /-- LEASE_EXPIRY (R382). A module's own lease runs out and it stops its outward acts. -/
  | leaseExpiry
  /-- PARTNER_LEASE_EXPIRY (R383). The partner's tracked lease runs out and ROLE becomes 3. -/
  | partnerLeaseExpiry
  /-- HEARTBEAT_SEND (R381). Back to back on ARB_DO the module sends heartbeat frames carrying role, health and flags. -/
  | heartbeatSend
  /-- ARB_LOST_TIMER (R381). No valid lease frame for 1 ms raises ARB_LOST; a valid one restores it. -/
  | arbLostTimer
  /-- PAIR_LINK_UP (R380). The pair link comes up, exchanges identity, generation, D and period, and starts resynchronization. -/
  | pairLinkUp (x : PairExchange)
  /-- COMMIT_WINDOW (R387). At the end of each 64 ns window the lead records host-port block indexes and sends them; packets commit in order. -/
  | commitWindow (k : Nat) (idx : List (Nat × Nat × Nat))
  /-- COMMIT_RECORD_RECEIVE (R387). A stand-in receives a commit record and commits the window's packets in order, counting a late commit. -/
  | commitRecordReceive (k : Nat) (idx : List (Nat × Nat)) (late : Bool) (margin : Int)
  /-- MIRROR_INTERVAL (R393). Every 89,600 ns the lead mirrors context and counter state and digests, and the stand-in counts intervals in step. -/
  | mirrorInterval (at_ : Nat)
  /-- MIRROR_RECORD_RECEIVE (R393). A stand-in applies a mirrored command, cue, write or state record. -/
  | mirrorRecordReceive (r : MirrorRecord)
  /-- CONTEXT_MIRROR_RECEIVE (R321). A stand-in takes the lead's packet numbers, H and windows and compares KCVs. -/
  | contextMirrorReceive (m : ContextMirror)
  /-- SCHEDULE_RECEIVE (R394). A stand-in stores the lead's schedule of cells and status bytes for named frames. -/
  | scheduleReceive (e : Schedule)
  /-- DIGEST_RECEIVE (R396). A stand-in compares a received lead digest with its own, diverging on a mismatch. -/
  | digestReceive (d : Digest)
  /-- RESYNC_COPY_DONE (R397). The lead's copy of tables and settings to the stand-in completes. -/
  | resyncCopyDone
  /-- EMPTY_POINT_RECEIVE (R398). A stand-in learns a tributary's empty point, discards earlier packets and maps from its present slot-frame. -/
  | emptyPointReceive (t : Nat) (k : Nat)
  /-- REHEARSAL_CUE (R401). At the rehearsal time the lead checks the conditions and sets RELEASE, or the rehearsal fails. -/
  | rehearsalCue (i : Nat) (at_ : Nat) (inStep : Bool) (healthy : Bool)
  /-- REHEARSAL_RELEASE_TIMEOUT (R402). No RENEW naming the partner within 1 ms of RELEASE clears RELEASE and fails the rehearsal. -/
  | rehearsalReleaseTimeout
  /-- PAIR_CONFIG (R380). pair.config sets link enable, D, rehearsal period and expected partner. -/
  | pairConfig (mb : Nat)
  /-- PAIR_REHEARSE (R400). pair.rehearse places or replaces a rehearsal cue at least 10 ms ahead. -/
  | pairRehearse (mb : Nat)
  /-- PAIR_STATUS (R383). pair.status returns role, link, lease, step and divergence state. -/
  | pairStatus (mb : Nat)
  /-- PAIR_RESYNC (R397). pair.resync starts resynchronization of a stand-in. -/
  | pairResync (mb : Nat)
  /-- MON_SYNC_RESET (R416). At a modulator edge a sync reset clears a converter's chain and restarts its outputs, applying pending configuration. -/
  | monSyncReset (n : Nat) (at_ : Nat)
  /-- MON_OUTPUT (R418). A converter writes an output into its FIFO, in continuous or capture delivery. -/
  | monOutput (n : Nat) (o : MonObs)
  /-- MON_HOUSEKEEPING_SLOT (R408). A housekeeping conversion slot ends, storing a calibrated channel value and taking or giving up banks. -/
  | monHousekeepingSlot (n : Nat) (code : Int) (ovl : Bool)
  /-- MON_CONFIG (R409). mon.config lends or returns a converter and sets its mode, scheduling a sync reset. -/
  | monConfig (mb : Nat)
  /-- MON_SYNC (R417). mon.sync places a sync-reset cue for converters. -/
  | monSync (mb : Nat)
  /-- MON_READ (R419). mon.read removes and returns FIFO entries. -/
  | monRead (mb : Nat)
  /-- MON_STATUS (R419). mon.status returns a converter's state and optionally clears its overrun bit. -/
  | monStatus (mb : Nat)
  /-- MON_VALUE (R408). mon.value returns a channel's latest calibrated value. -/
  | monValue (mb : Nat)
  /-- THERM_SAMPLE (R423). Every 10 us every die is compared with the warning, pace-protection and shutdown thresholds. -/
  | thermSample (temps : List Int)
  /-- DIODE_VALIDITY_TIMER (R422). A diode out of range or disagreeing for 100 ms becomes invalid, or becomes valid again after 100 ms. -/
  | diodeValidityTimer (ch : Nat) (d0 : Int) (d1 : Int)
  /-- FLASH_WINDOW_CHANGE (R427). The FLD temperature opens or closes the flash window, starting or pausing waiting flash work. -/
  | flashWindowChange (t : Int)
  /-- FLASH_PAGE_DONE (R429). A flash page finishes programming and the work continues, pauses or ends with its COMMAND_DONE. -/
  | flashPageDone (last : Bool) (same : Bool)
  /-- CAL_SLEW_STEP (R433). Each slew period a calibrated value moves one step toward its target. -/
  | calSlewStep (item : Nat) (a : CalAddr)
  /-- THERM_STATUS (R423). therm.status returns temperatures, thresholds and flash work state. -/
  | thermStatus (mb : Nat)
  /-- THERM_SENSOR (R421). therm.sensor sets thermistor, remote-diode or AIN temperature parameters. -/
  | thermSensor (mb : Nat)
  /-- THERM_WARN_SET (R423). therm.warn sets the warning threshold. -/
  | thermWarnSet (mb : Nat)
  /-- CAL_READ (R431). cal.read returns the factory and user calibration of an item. -/
  | calRead (mb : Nat)
  /-- CAL_WRITE (R431). cal.write sets a user calibration value, slewed in and stored now or deferred. -/
  | calWrite (mb : Nat)
  /-- CAL_MEASURE (R434). cal.measure measures a reference and stages a result, completing DEFERRED. -/
  | calMeasure (mb : Nat)
  /-- CAL_MEASURE_DONE (R434). A measurement ends and stages its result or fails with RANGE. -/
  | calMeasureDone (reading : Int)
  /-- CAL_APPLY (R434). cal.apply writes or discards the staged result. -/
  | calApply (mb : Nat)
  /-- CAL_CLEAR (R431). cal.clear removes a user record and slews back to the factory value. -/
  | calClear (mb : Nat)
  /-- PAIR_LANE_RETIRE (R435). A retired pair lane takes the pair link down and the stand-in leaves step. -/
  | pairLaneRetire (l : Nat)
  /-- D2D_LANE_FAULT (R13). A framing or check error on a die-to-die lane is a fault, with the lane retrained within 1 us. -/
  | d2dLaneFault (i : Nat)
  /-- D2D_LANE_RETIRE (R13). A spare replaces a retired die-to-die lane, or the link's two ports go dark. -/
  | d2dLaneRetire (i : Nat)
  /-- SUBCARRIER_RETIRE (R438). A retired subcarrier goes out of service, its slots are removed and the fill policy is applied. -/
  | subcarrierRetire (sc : Nat)
  /-- CUE_CORE_RETIRE (R437). A retired cue core's tasks move to the others within 1 ms, or the last core causes a warm restart. -/
  | cueCoreRetire (c : Nat)
  /-- WATCHDOG_EXPIRY (R440). A core that has not serviced its watchdog for 50 ms traps and restarts, freezing the log. -/
  | watchdogExpiry (c : Nat) (pc : Nat) (task : Nat)
  /-- ILLEGAL_INSTRUCTION (R440). A core executing an illegal instruction traps and restarts. -/
  | illegalInstruction (c : Nat) (pc : Nat) (task : Nat)
  /-- CORE_FETCH_UE (R440). An uncorrectable fetch or data read traps the core, reloads the word or causes a warm restart. -/
  | coreFetchUe (c : Nat) (data : Bool) (pc : Nat) (addr : Nat) (task : Nat)
  /-- CORE_RESTART_DONE (R440). A trapped core completes its restart within 1 ms and resumes its tasks. -/
  | coreRestartDone (c : Nat)
  /-- INJECTION_END (R442). A timed injection effect ends after its duration. -/
  | injectionEnd (pt : Nat)
  /-- LOG_COPY (R445). The next ring entry is copied to the continuous log, counting entries overwritten before copy. -/
  | logCopy
  /-- FAULT_POLICY (R436). fault.policy sets a unit type's fault count, window and remap policy. -/
  | faultPolicy (mb : Nat)
  /-- FAULT_STATUS (R436). fault.status returns a unit's fault state. -/
  | faultStatus (mb : Nat)
  /-- FAULT_CLEAR (R436). fault.clear clears window counts. -/
  | faultClear (mb : Nat)
  /-- FAULT_INJECT (R442). fault.inject arms an injection point, acting at once for points without a next occurrence. -/
  | faultInject (mb : Nat)
  /-- FAULT_INJSTATUS (R442). fault.injstatus returns an injection point's state. -/
  | faultInjstatus (mb : Nat)
  /-- FAULT_TESTPATTERN (R444). fault.testpattern puts a tributary into or out of test at a map boundary. -/
  | faultTestpattern (mb : Nat)
  /-- FAULT_TESTSTATUS (R444). fault.teststatus returns a tributary's test-pattern counts. -/
  | faultTeststatus (mb : Nat)
  /-- FAULT_DMARESTART (R441). fault.dmarestart restarts a halted tracer or log-copy DMA channel. -/
  | faultDmarestart (mb : Nat)
  /-- LOG_STATUS (R445). log.status returns the state of the log, snapshots and power-fail areas. -/
  | logStatus (mb : Nat)
  /-- LOG_READ (R446). log.read returns up to three entries from a log source. -/
  | logRead (mb : Nat)
  /-- LOG_FREEZE (R447). log.freeze freezes the ring with cause 6. -/
  | logFreeze (mb : Nat)
  /-- LOG_REARM (R448). log.rearm unfreezes the ring. -/
  | logRearm (mb : Nat)
  /-- LOG_ERASE (R449). log.erase erases snapshot slots and power-fail areas, deferred by the flash window. -/
  | logErase (mb : Nat)
  /-- PACE_SAMPLE (R453). At 1 GHz each pace unit's state is sampled into one slot class. -/
  | paceSample (dom : Bool) (i : Nat) (cls : SlotObs)
  /-- TRACER_WINDOW_CUE (R457). A tracer cue opens the window and loads the LFSR, or closes it. -/
  | tracerWindowCue (i : Nat) (at_ : Nat)
  /-- TRACER_RECORD (R458). A tagged unit's last stage passes and its record is delivered, dropped or suspended. -/
  | tracerRecord (r : TracerObs)
  /-- PERF_SELECT (R455). perf.select programs and zeroes a counter. -/
  | perfSelect (mb : Nat)
  /-- PERF_READ (R455). perf.read latches and returns every counter of a unit or core. -/
  | perfRead (mb : Nat)
  /-- PERF_TRACER (R457). perf.tracer ends tracing or places new tracer window cues. -/
  | perfTracer (mb : Nat)
  /-- PERF_TRDELIVER (R459). perf.trdeliver sets the record delivery mode and empties the buffer. -/
  | perfTrdeliver (mb : Nat)
  /-- PERF_TRSTATUS (R459). perf.trstatus returns the tracer state and counts. -/
  | perfTrstatus (mb : Nat)
  /-- PORT_RESET (R471). port.reset takes the port dark, empties its FIFOs, resets FEC debt and cap and re-enables its directions. -/
  | portReset (mb : Nat) (lo : Int)
  /-- PORT_RESET_DONE (R471). Each direction of a reset port is back in its former state, or a re-enable failed, and COMMAND_DONE is posted. -/
  | portResetDone (p : Nat) (ok : Bool)
  /-- PERST_RELEASE (R45). Release of PERST# starts the PCIe endpoint, which answers configuration requests no later than 120 ms after the later of this release and VIN rising through 34.0 V. -/
  | perstRelease
  /-- CANDIDATE_ACTIVITY_RETURN (R350). Edges arrive again at the declared frequency on a REFIN or PPS_IN candidate, which becomes active and may then be measured and qualified. -/
  | candidateActivityReturn (c : Nat)
  /-- HL_LOSS_OF_SIGNAL (R263). A host lane or pair lane in ACTIVE loses its signal or recovered clock, so it loses codeword or block lock and takes a lane fault of kind 2. -/
  | hlLossOfSignal (pair : Bool) (l : Nat)
  /-- COUNTER_LINE_FILL_DONE (R275). A counter-cache line fill or write-back from bulk memory completes, draining the pending increment buffer and releasing an admission that waits while it is full. -/
  | counterLineFillDone (line : Nat) (bad : Bool)
  /-- SLICE_RETRY_RECHECK (R435). Within 10 ms of an ADC slice retry, the slice is checked again against R118 and either returns to service or is counted as faulting again. -/
  | sliceRetryRecheck (p : Nat) (a : Nat) (sl : Nat) (bad : Bool)
  deriving DecidableEq, Repr

end Sys2Proof
end

