-- ==== Sys2Proof/Machine/State.lean ====
section
/-! DEFINITION. State of the module as plain data. Every field's comment names the rule that gives it (Rn/file number of
spec/) and, where the spec states no reset value, the log entry [n] that names the one taken. Tables (`Tab`) list only
the objects that differ from their default, in ascending order. -/

namespace Sys2Proof.Machine

/-- A sparse table: keys in ascending order, no entry equal to the table's default. -/
abbrev Tab (α : Type) := List (Nat × α)

/-- Why the module stops. -/
inductive Fault where
  /-- An operand names an object the module does not have (a port above 5, a lane above 95 ...; 00_scope.md, Identifiers).
  Raised by every meaning with an object number. Safe: no such object exists. -/
  | noSuchObject (kind : String)
  /-- A bulk-memory data address above 0x7_8783_FFFF (11_bulk_memory.md R325). Raised by the bulk-memory rows. Safe. -/
  | bulkAddress
  deriving DecidableEq, Repr

/-- Why a command has no meaning here. -/
inductive Refusal where
  /-- The row has no meaning yet. Raised by an arm of `exec` only. Safe. -/
  | notModelled (mnemonic : String)
  deriving DecidableEq, Repr

/-- Completion codes (R59/02). -/
inductive Code where
  | ok | busy | badarg | denied | range | deferred | nores | generation | timeout | fault
  deriving DecidableEq, Repr

/-- Boot stages (R48/02). -/
inductive Stage where
  | power | rom | load | init | ready | recovery | restart | shutdown
  deriving DecidableEq, Repr

/-- An event (R63, R66/02) as raised. -/
structure Event where
  code : Nat
  vector : Nat
  mirrored : Bool
  seq : Nat
  tc : Nat
  src : Nat
  tag : Nat
  data : List Byte
  deriving DecidableEq, Repr

/-- An entry of the event ring in host memory (R64/02): the event and its PHASE, written at `addr`. -/
structure RingEntry where
  ev : Event
  phase : Bool
  addr : Nat
  deriving DecidableEq, Repr

/-- An installation captured by INSTALL (R72/02). -/
structure KeyJob where
  ctx : Nat
  an : Nat
  key : Nat
  salt : Nat
  deriving DecidableEq, Repr

/-- A DEFERRED command whose COMMAND_DONE is due (R60/02). -/
structure Deferred where
  op : Nat
  tag : Nat
  obj : Nat
  deriving DecidableEq, Repr

/-- Management registers of BAR0, mailboxes, key window. -/
structure Ctrl where
  stage : Stage := .power                -- R48/02
  restarts : Nat := 0                    -- R48/02
  running : Nat := 0                     -- R48/02
  fallback : Bool := false               -- R48/02
  fwVersion : Word := 0                  -- R48/02
  cfgGen : Word := 0                     -- R49/02
  intStatus : Word := 0                  -- R68/02
  intMask : Word := 0xFFFFFFFF           -- R68/02
  intPin : BitVec 2 := 0                 -- R70/02
  mbBusy : BitVec 8 := 0                 -- R53/02
  mbDone : BitVec 8 := 0                 -- R53/02
  mbOverrun : BitVec 8 := 0              -- R53/02
  i2cOwns : Bool := false                -- R57/02
  rung : List Nat := []                  -- R55/02 doorbells accepted and not yet executed, in order
  accepted : Tab (Option Word) := []     -- R55, R56/02 CFG_GEN at the acceptance of mailboxes overtaken by a later one
  mail : Tab (List Byte) := []           -- R51/02 mailbox buffers, 256 bytes each [5]
  tcCap : Tab Nat := []                  -- R50/02 timecode captures of the two paths
  winSel : Word := 0                     -- R75/02 [2]
  winWrites : Nat := 0                   -- R75/02 [2]
  msixTable : Tab Word := []             -- R48/02 MSI-X table, 32 entries of 16 bytes [2]
  keySel : Word := 0                     -- R72/02
  keySalt : Word := 0                    -- R72/02
  keyData : Tab Word := []               -- R72/02 KEY_DATA0-7
  keyStaged : Bool := false              -- R73/02 staging timer runs
  keyJob : Option KeyJob := none         -- R72/02 PENDING
  keyResult : Nat := 0                   -- R72/02
  deferred : List Deferred := []         -- R60/02
  resetDue : Bool := false               -- R82/02
  pcieUp : Bool := false                 -- R45/02 endpoint answers configuration requests
  perst : Bool := true                   -- R45/02 PERST# asserted [2]
  deriving DecidableEq, Repr

/-- Event ring, backlog, moderation. -/
structure EvSt where
  baseLo : Word := 0                     -- R63/02
  baseHi : Word := 0                     -- R63/02
  enable : Bool := false                 -- R63/02
  head : Nat := 0                        -- R63/02
  tail : Nat := 0                        -- R63/02
  lost : Nat := 0                        -- R63/02 EVR_LOST, saturates at 2^32-1
  lostSince : Nat := 0                   -- R65/02 discarded since the previous EVENTS_LOST
  holdUs : Nat := 16                     -- R63/02
  count : Nat := 8                       -- R63/02
  base : Nat := 0                        -- R64/02 base captured at ENABLE
  phase : Bool := true                   -- R64/02
  backlog : List Event := []             -- R65/02 512 entries, oldest first
  seq : Nat := 0                         -- R66/02
  suppressed : List Nat := []            -- R84/02 event codes
  ring : Tab (Option RingEntry) := []    -- R63/02 entries in host memory
  modIdx : Tab (List Nat) := []          -- R69/02 pending entries since the vector's last message
  msix : Tab Nat := []                   -- R68/02 messages sent per vector
  rejected : Bool := false               -- R67/02 the backlog's head is a rejected event
  pba : Word := 0                        -- R48/02 MSI-X pending-bit array
  deriving DecidableEq, Repr

/-- A firmware slot in FLD. -/
structure Slot where
  version : Word := 0
  size : Nat := 0
  crc : Word := 0
  state : Nat := 0                       -- R79/02 0 empty, 1 valid, 2 failed
  deriving DecidableEq, Repr

/-- Firmware: flash slots, active mark, update session, boot progress. -/
structure Fw where
  slotA : Slot := { version := 0x00010000, size := 1048576, crc := 0, state := 1 }  -- R79/02 [4]
  slotB : Slot := { version := 0x00010000, size := 1048576, crc := 0, state := 1 }  -- R79/02 [4]
  active : Nat := 1                      -- R48/02 [4]
  session : Nat := 0                     -- R79/02 0 none, 1 open, 2 verified, 3 activating
  size : Nat := 0                        -- R79/02
  crc : Word := 0                        -- R79/02
  version : Word := 0                    -- R79/02
  staged : List (Nat × Nat) := []        -- R79/02 byte ranges staged
  trying : Nat := 0                      -- R78/02 image being booted
  otherTried : Bool := false             -- R78/02
  bootStep : Nat := 0                    -- R77, R78/02 0 none, 1 image to be checked, 2 image passed
  warmDue : Bool := false                -- R80/02 a warm restart is to start
  loaded : Nat := 0                      -- R77/02, R330/11 bytes of the image copied into instruction SRAM
  deriving DecidableEq, Repr

/-- Phases of the power stage. -/
inductive PowerPhase where
  | off | softStart | good | failPath | waitUvlo
  deriving DecidableEq, Repr

/-- Power input, rails, resets and pins. -/
structure PowerSt where
  phase : PowerPhase := .off             -- R465/18
  vin : Nat := 0                         -- R460/18 VIN in 10 mV [2]
  belowOff : Bool := false               -- R467/18 VIN below UVLO off since the detection or before
  switchOpen : Bool := false             -- R462/18
  vinWarn : Nat := 0                     -- R461/18 0 none, 1 low, 2 high
  resetHeld : Bool := false              -- R469/18 RESET_N reset in progress
  rolePin : Bool := false                -- R378/13 sampled ROLE [2]
  addrPins : Nat := 0                    -- R46/02 sampled ADDR[2:0] [2]
  rail : Nat := 820                      -- R464/18 core rail, mV
  highTicks : Nat := 0                   -- R29/01 10 us ticks with the lowest margin above 20 %
  tightArmed : Bool := true              -- R30/01
  thermWait : Bool := false              -- R426/15 boot ROM waits for the hottest die
  powered : Bool := false                -- R463/18 always-on rails in regulation
  picRails : List Nat := []              -- R463/18 ports whose PIC rails are on
  deriving DecidableEq, Repr

/-- A FIFO crossing. -/
structure FifoSt where
  full : Bool := false                   -- R19/01
  overrun : Bool := false                -- R19/01
  request : Bool := false                -- R23/01 reset requested, no acknowledge yet
  held : Bool := false                   -- R25/01 held in reset until the island's clock returns
  deriving DecidableEq, Repr

/-- A merged-event crossing. -/
structure MergedSt where
  last : Word := 0                       -- R21/01
  total : BitVec 64 := 0                 -- R21/01
  deriving DecidableEq, Repr

/-- A hold-and-flag crossing. -/
structure HoldSt where
  inFlight : Option Nat := none          -- R22/01
  pending : Option Nat := none           -- R22/01
  dest : Nat := 0                        -- R22/01 [2]
  overwrites : Nat := 0                  -- R22/01
  deriving DecidableEq, Repr

/-- A pulse-to-toggle crossing (R20/01): the level that the source toggles with each pulse, and the pulses that the destination
has recorded, one for each change. The crossings of R16/01 stand with their islands: PPS, cue strobes and cue arm, sync
resets. -/
structure ToggleSt where
  level : Bool := false                  -- R20/01 [2]
  pulses : Nat := 0                      -- R20/01
  deriving DecidableEq, Repr

structure Crossings where
  fifo : Tab FifoSt := []                -- R16/01
  merged : Tab MergedSt := []            -- R16/01
  hold : Tab HoldSt := []                -- R16/01
  deriving DecidableEq, Repr

/-- A pace unit: achievable rate, events, counters. -/
structure PaceUnit where
  ach : Option Nat := none               -- R27/01 achievable rate last measured, k tokens/s (decoders: k iterations/s, R170/05)
  lowArmed : Bool := true                -- R31/01
  faults : Nat := 0                      -- R33/01 since power-on, saturating
  forced : Option Int := none            -- R443/16 point 0x1C0
  tokens : Nat := 0                      -- R455/17
  ctr : Tab Nat := []                    -- R455/17 programmable counters
  evn : Tab Nat := []                    -- R455/17 event numbers
  slots : List Nat := [0, 0, 0, 0]       -- R453/17 retired, wasted, starved-front, starved-back
  deriving DecidableEq, Repr

inductive CoreState where
  | running | trapped (cause : Nat) | retired
  deriving DecidableEq, Repr

/-- A cue core. -/
structure Core where
  st : CoreState := .running             -- R440/16
  ctr : Tab Nat := []                    -- R455/17
  evn : Tab Nat := []                    -- R455/17
  slots : List Nat := [0, 0, 0, 0]       -- R454/17
  deriving DecidableEq, Repr

inductive TxState where
  | off | starting | on | feedLost
  deriving DecidableEq, Repr

/-- A placed format change of a port (R97, R98/03). -/
structure FormatChange where
  boundary : Nat
  mask : Nat
  classes : List Nat
  cue : Nat
  remap : Nat
  deriving DecidableEq, Repr

/-- Transmit state of a line port. -/
structure TxPort where
  len : Bool := false                    -- R108/03 LENp (19 R477: low)
  tx : TxState := .off                   -- R106/03
  bias : Nat := 0                        -- R103/03 0 off, 1 acquiring, 2 locked, 3 alarm
  target : Int := -150                   -- R104/03
  power : Int := -4500                   -- R105, R107/03 output power while the transmitter is not on, 0.01 dBm [2]
  raw : Int := 0                         -- R104/03 output power at no attenuation, 0.1 dBm [2]
  attn : Nat := 350                      -- R104, R106/03 attenuation the attenuator moves to, 0.1 dB [2]
  attnFrom : Nat := 350                  -- R104/03 where its present move began [2]
  attnAt : Nat := 0                      -- R104/03 instant at which it began
  drivers : Bool := false                -- R106, R107/03 drivers and bias heaters on
  cdPre : Int := 0                       -- R104/03
  classes : List Nat := [0, 0, 0, 0, 0, 0, 0, 0, 0, 0, 0, 0, 0, 0, 0, 0]  -- R97/03
  changes : List FormatChange := []      -- R98/03 pending format changes, by boundary
  replaced : Nat := 0                    -- R98/03
  goneDark : Nat := 0                    -- R283/09 subcarriers gone dark at the last change, remap due
  loTap : Int := 0                       -- R106/03 LO tap reading, 0.01 dBm [2]
  quietOn : Bool := false                -- R468/18 on at entry to module quiet
  resetOn : Bool := false                -- R471/18 on at acceptance of port.reset
  deriving DecidableEq, Repr

/-- Transmit state of a subcarrier. -/
structure TxSc where
  offset : Int := 0                      -- R104/03
  hubPower : Int := 0                    -- R235/07 power correction of ADJUST
  frames : Nat := 0                      -- R88/03
  deriving DecidableEq, Repr

inductive RxState where
  | off | calibrate | noLight | afc | cdScan | converge | track
  deriving DecidableEq, Repr

/-- A coefficient set (R121/04): base and per-subcarrier offsets that differ from 0. -/
structure CdSet where
  base : Int := 0
  offsets : List Int := []
  deriving DecidableEq, Repr

/-- The staged store's set (R128/04). -/
structure CdStaged where
  set : CdSet
  len : Nat
  cue : Nat
  loaded : Bool
  idx : Nat
  deriving DecidableEq, Repr

/-- The CD equalizer of a port. -/
structure CdEq where
  active : CdSet := {}                   -- R122/04
  incoming : CdSet := {}                 -- R122/04
  loading : Bool := false                -- R122/04 a load into the incoming store runs
  staged : Option CdStaged := none       -- R122/04
  state : Nat := 0                       -- R128/04 0 idle, 1 cued, 2 dissolving
  len : Nat := 0                         -- R123/04
  start : Nat := 0                       -- R128/04
  cue : Nat := 0                         -- R128/04 cue index of the cued dissolve
  lastWrite : Nat := 0                   -- R130/04 instant of the last port.cdwrite
  overwrites : Nat := 0                  -- R128/04
  dissolves : Nat := 0                   -- R129/04
  tracks : Nat := 0                      -- R127/04
  deriving DecidableEq, Repr

/-- An ADC slice's trims (R116/04), in 0.5 fs, 0.001 dB, 0.01 LSB, and the taps of its bandwidth filter. -/
structure SliceTrim where
  skew : Int := 0
  gain : Int := 0
  off : Int := 0
  fir : Int × Int × Int := (0, 1, 0)
  moved : Nat := 0                       -- R433/15 skew taken by the background calibration in this step
  deriving DecidableEq, Repr

/-- Receive state of a line port. -/
structure RxPort where
  st : RxState := .off                   -- R151/04
  light : Bool := false                  -- R111/04
  gainFrozen : Bool := true              -- R110/04
  gain : Int := 3000                     -- R110/04 TIA gain above its minimum, 0.01 dB, when last held or released [2]
  gainAt : Nat := 0                      -- R110/04 instant of that gain
  power : Int := 0                       -- R111/04 received power, 0.01 dBm [2]
  loTap : Int := 0                       -- R109/04 [2]
  manual : Bool := false                 -- R125/04
  follower : Bool := false               -- R143/04
  polarity : Nat := 0                    -- R142/04 [2]
  scanCentre : Int := 0                  -- R126/04
  scanHalf : Nat := 60000                -- R126/04
  trackThr : Nat := 100                  -- R127/04
  trackLen : Nat := 1024                 -- R127/04
  lolThr : Int := -300                   -- R111/04
  ltThr : Nat := 250                     -- R143/04
  ltStep : Nat := 50                     -- R143/04
  afc : Int := 0                         -- R139/04
  c : Int := 0                           -- R142/04
  cTarget : Option Int := none           -- R142/04
  limitArmed : Bool := true              -- R143/04 [2]
  conflict : Bool := false               -- R145/04
  acq : Nat := 0                         -- R151/04
  cd : CdEq := {}                        -- R120/04
  calNo : Option Nat := none             -- R115/04 the last foreground calibration
  trims : Tab (Option SliceTrim) := []   -- R116/04 key 66a + slice; none: as the calibration set them
  goodTrims : Tab (Option SliceTrim) := [] -- R435/16 trims that last passed R118
  phaseOf : Tab Nat := []                -- R114/04 key 64a + phase; 0 the slice of the same number, else slice + 1
  retired : List Nat := []               -- R118/04 66a + slice
  shadow : Tab Nat := []                 -- R117/04 phase that each spare shadows, key 66a + slice [2]
  phase : Int := 0                       -- R137/04 timing phase of the port, 1/64 symbol [2]
  clk : Int := 0                         -- R137/04 symbol clock offset of the port, 0.01 ppm [2]
  ann : List Announce := []              -- R152/04 announced class changes
  quietOn : Bool := false                -- R468/18
  resetOn : Bool := false                -- R471/18
  deriving DecidableEq, Repr

/-- Receive state of a subcarrier. -/
structure RxSc where
  cfg : Nat := 0                         -- R112/04 0 follow, 1 dark, 2-6 forced
  m : Nat := 10                          -- R135/04
  far : Nat := 0                         -- R112/04 class the far end announces
  conv : Bool := false                   -- R149/04
  convAt : Nat := 0                      -- R185/06 instant at which it converged
  mimo : List (Int × Int) := []          -- R135/04 the 100 taps of XX, XY, YX, YY; none: the initial ones
  phase : Int := 0                       -- R134, R135/04 timing phase of the subcarrier's own, 1/64 symbol
  ted : Int := 0                         -- R137/04 timing error detector, 1/64 symbol
  clk : Int := 0                         -- R137/04 symbol clock offset of its loop, 0.01 ppm
  freqs : List Int := []                 -- R141/04 frequency-loop values of the last 10 ms, newest first
  evm : Nat := 0                         -- R146/04 [2]
  snr : Int := 0                         -- R146/04 [2]
  margin : Int := 0                      -- R147/04 [2]
  lqi : Nat := 0                         -- R148/04
  freq : Int := 0                        -- R141/04 [2]
  dgd : Nat := 0                         -- R150/04 [2]
  pdl : Nat := 0                         -- R150/04 [2]
  resid : Int := 0                       -- R127/04 [2]
  resyncs : Nat := 0                     -- R153/04
  oos : Bool := false                    -- R438/16 out of service
  sums : List Int := []                  -- R213/06 sums of the second: OSNR, CD, DGD, PDL, frequency offset, received power
  nSum : Nat := 0                        -- R213/06 refreshes summed
  deriving DecidableEq, Repr

/-- A decoded codeword (R165/05): its 18,810 information bits and its errored flag. -/
structure CwOut where
  sc : Nat
  c : Nat
  errored : Bool
  info : List Bool
  deriving DecidableEq, Repr

/-- FEC of a port. -/
structure FecPort where
  n : Nat := 8                           -- R169/05
  c : Nat := 16                          -- R169/05
  k : Nat := 16                          -- R170/05
  hold : Bool := false                   -- R424/15 cap held at N
  engines : List Nat := [0, 1, 2, 3, 4, 5, 6, 7, 8, 9, 10, 11, 12, 13, 14, 15]  -- R163/05 engine of each logical slot
  retired : List Nat := []               -- R172/05
  debt : Tab Nat := []                   -- R167/05
  q : Nat := 0                           -- R164/05 number of the latest codeword [54]
  lastEnd : Nat := 0                     -- R164/05 its nominal end time, in the far end's timecode [54]
  lastSc : Nat := 0                      -- R164/05 its subcarrier [54]
  out : List CwOut := []                 -- R165/05 output store, 192 decoded codewords
  leaving : List Nat := []               -- R172/05 engines whose slot is removed at the next frame boundary
  late : Nat := 0                        -- R167/05
  trunc : Nat := 0                       -- R166/05
  reductions : Nat := 0                  -- R170/05
  engFaults : Nat := 0                   -- R172/05
  encFaults : Nat := 0                   -- R159/05
  truncArmed : Bool := true              -- R176/05
  truncSince : Nat := 0                  -- R176/05
  capTicks : Nat := 0                    -- R170/05 100 us ticks at 6 % or more
  deriving DecidableEq, Repr

/-- FEC statistics of a subcarrier (R173/05). -/
structure FecSc where
  decoded : Nat := 0                     -- R173/05
  ldpc : Nat := 0                        -- R173/05
  bch : Nat := 0                         -- R173/05
  rescued : Nat := 0                     -- R173/05
  unc : Nat := 0                         -- R173/05
  late : Nat := 0                        -- R173/05
  short : Nat := 0                       -- R173/05
  trunc : Nat := 0                       -- R173/05
  hist : Tab Nat := []                   -- R173/05
  wErr : Nat := 0                        -- R174/05
  wGood : Nat := 0                       -- R174/05
  wAll : Nat := 0                        -- R174/05
  wIter : Nat := 0                       -- R174/05
  ber : Nat := 0xFFFF                    -- R174/05
  qv : Int := 0                          -- R174/05 [2]
  lower : Bool := false                  -- R174/05
  none : Bool := true                    -- R174/05 no counted codeword
  mean : Nat := 0                        -- R174/05 [2]
  sent : Tab Nat := []                   -- R159/05 the encoded codewords 0 to 3 of the last frame, 21,540 bits each
  unc10 : Nat := 0                       -- R197/06 uncorrectable codewords of the present 10 ms
  all10 : Nat := 0                       -- R197/06
  exc : Bool := false                    -- R197/06 raw EXC of the last interval
  deriving DecidableEq, Repr

/-- A key-channel message in transmission (R205/06). -/
structure KcMsg where
  num : Nat
  data : List Byte
  frag : Nat
  deriving DecidableEq, Repr

/-- A control cell in transmission (R207/06): type, sequence number, content, copies left. -/
structure CtlCell where
  typ : Nat
  seq : Nat
  data : List Byte
  left : Nat
  deriving DecidableEq, Repr

/-- Transmit framer of a subcarrier. -/
structure TxFrame where
  mfc : Nat := 0                         -- R178/06
  bip : Byte := 0                        -- R193/06 parity of the previous frame's payload [2]
  trace : List Byte := []                -- R196/06 64 bytes, zeros after reset [2]
  pc : Word := 0                         -- R201/06
  reiBad : Bool := false                 -- R194/06
  reiSum : Nat := 0                      -- R194/06
  kcq : List KcMsg := []                 -- R205/06
  kcNum : Nat := 0                       -- R205/06 [2]
  ann : List (List Byte × Nat) := []     -- R312/10 rollover announcements and frames left
  ctl : List CtlCell := []               -- R207/06
  ctlSeq : Nat := 0                      -- R207/06 [2]
  gcc : Bool := false                    -- R203/06 [2]
  uoc : Bool := false                    -- R203/06 [2]
  gccNn : Nat := 0                       -- R203/06 [2]
  uocNn : Nat := 0                       -- R203/06 [2]
  gccQ : List Byte := []                 -- R204/06
  gccIdle : List Byte := []              -- R203/06 bytes left of an idle filler header
  uocIdle : List Byte := []              -- R203/06
  uocQ : List Byte := []                 -- R204/06
  gccDrop : Nat := 0                     -- R204/06
  uocDrop : Nat := 0                     -- R204/06
  slots : Tab (List Byte) := []          -- R177/06 slot content of the next frame
  frame : List Byte := []                -- R179/06 the last frame sent, as sent on the line
  dep : Nat := 0                         -- R202/06 its departure stamp
  digest : Word := 0xFFFFFFFF            -- R396/13 CRC-32 register of the multiframe
  lastDigest : Word := 0                 -- R396/13 digest of the last complete multiframe
  digestDue : Bool := false              -- R396/13 it has not been sent
  sched : List Schedule := []            -- R394/13
  descFlip : Nat := 0                    -- R443/16 point 0x033, multiframes left
  pilots : Nat × Nat := (0, 0)           -- R92/03 pilot bits of the last frame sent, X and Y
  deriving DecidableEq, Repr

inductive Align where
  | hunt | confirm (k : Nat) | inFrame
  deriving DecidableEq, Repr

/-- A key-channel message being reassembled (R206/06). -/
structure KcPart where
  num : Nat
  next : Nat
  data : List Byte
  deriving DecidableEq, Repr

/-- Receive framer of a subcarrier. -/
structure RxFramer where
  st : Align := .hunt                    -- R186/06
  phase : Nat := 0                       -- R184/06 [2]
  cws : List CwOut := []                 -- R155, R165/05 codewords of the frame being received, in order
  nextDep : Option Nat := none           -- R281/09 departure stamp that the next frame carries
  run : Nat := 0                         -- R186/06 error run
  falseC : Nat := 0                      -- R186/06
  lossC : Nat := 0                       -- R186/06
  mf : Bool := false                     -- R188/06
  mfcExp : Nat := 0                      -- R188/06
  mfcRun : Nat := 0                      -- R188/06
  lastMfc : Option Nat := none           -- R188/06
  mfc : Nat := 0                         -- R186/06 last MFC
  status : Byte := 0                     -- R180/06
  remote : Nat := 0                      -- R194/06
  bipV : Nat := 0                        -- R193/06
  parity : Option Byte := none           -- R193/06 parity of the previous frame's payload
  pcAcc : Word := 0                      -- R201/06
  pcCand : Word := 0                     -- R201/06
  pcRun : Nat := 0                       -- R201/06
  trCur : List Byte := []                -- R196/06 copy being received
  trOk : Bool := false                   -- R196/06
  trCand : List Byte := []               -- R196/06
  trRun : Nat := 0                       -- R196/06
  trAcc : List Byte := []                -- R196/06
  expTrace : List Byte := []             -- R196/06
  compare : Nat := 0                     -- R196/06 [2]
  timAct : Bool := false                 -- R196/06 [2]
  desc : Tab Nat := []                   -- R190/06 received descriptors
  ver : Nat := 0                         -- R191/06
  dig : Nat := 0                         -- R191/06
  stamp : Option (Nat × Nat × Nat) := none -- R202/06 departure, arrival, MFC
  ctlLast : Option (Nat × Nat × List Byte) := none -- R207/06 the last control cell acted on: type, sequence number, content
  ctlActs : Nat := 0                     -- R207/06 control cells acted on
  kc : Option KcPart := none             -- R206/06
  kcDisc : Nat := 0                      -- R206/06
  kcSkip : Option Nat := none            -- R206/06 number of the message being discarded
  kcOver : Nat := 0                      -- R206/06
  gccBuf : List (Option Byte) := []      -- R203/06 receive byte stream not yet delineated; lost bytes are none
  uocBuf : List (Option Byte) := []      -- R203/06
  gccSync : Bool := false                -- R203/06 delineated
  uocSync : Bool := false                -- R203/06
  gccErr : Nat := 0                      -- R204/06
  uocErr : Nat := 0                      -- R204/06
  secFrames : Nat := 0                   -- R209/06 blocks of the present second
  secErr : Nat := 0                      -- R209/06
  secBip : Nat := 0                      -- R197/06 frames of the second with a BIP-8 violation
  secLom : Bool := false                 -- R209/06 a masking defect of LOM was declared in the second
  secSmm : Bool := false                 -- R209/06 a masking defect of SMM was declared in the second
  degRaw : Bool := false                 -- R197/06 the last second was a bad second
  descM : Tab Nat := []                  -- R190/06 descriptors of the last multiframe
  sumIn : Int := 0                       -- R366/12 sum of arrival minus departure of the second
  nIn : Nat := 0                         -- R366/12
  rxDigest : Word := 0xFFFFFFFF          -- R396/13
  rxMask : Nat := 0                      -- R396/13
  rxRest : List Bool := []               -- R396/13 bits that do not fill a byte yet
  lastRx : Option (Nat × Nat) := none    -- R396/13 digest and mask of the last complete multiframe
  rxDue : Bool := false                  -- R396/13 it has not been sent
  deriving DecidableEq, Repr

/-- Framer state of a port. -/
structure FrPort where
  lossCount : Nat := 5                   -- R186/06 (no command sets it)
  pilotThr : Nat := 75                   -- R184/06 (no command sets it)
  digArmed : Bool := true                -- R192/06
  digRun : Nat := 0                      -- R192/06
  deriving DecidableEq, Repr

/-- Integration of one defect (R197/06), in 0.1 ms. -/
structure DefSt where
  declared : Bool := false               -- R197/06
  ctr : Nat := 0                         -- R197/06
  deriving DecidableEq, Repr

/-- Settings of a defect (R198/06); `none` is the default of R197. -/
structure DefCfg where
  set : Option Nat := none
  clear : Option Nat := none
  thr : Option Nat := none
  deriving DecidableEq, Repr

/-- A received key-channel message (R206/06). -/
structure KcRx where
  sc : Nat
  num : Nat
  data : List Byte
  deriving DecidableEq, Repr

/-- What every object's bins of one period share (R211, R212/06). -/
structure PmEpoch where
  start : Nat
  irregular : Bool
  final : Bool
  deriving DecidableEq, Repr

/-- One second as classified, and the 15-minute and 24-hour bins closed since it (R210/06). -/
structure PmSec where
  es : Bool
  ses : Bool
  bbe : Nat
  age15 : Nat
  age24 : Nat
  deriving DecidableEq, Repr

/-- PM of one object; the bins newest first, the current one ahead. -/
structure PmObj where
  bins15 : List PmBin := []              -- R211/06 current and 32 of history
  bins24 : List PmBin := []              -- R211/06 current and previous
  uas : Bool := false                    -- R210/06
  recent : List PmSec := []              -- R210/06 newest first, at most 9
  corr0 : Nat := 0                       -- R213/06 corrected bits at the last second
  unc0 : Nat := 0                        -- R213/06
  blocks : Nat := 0                      -- R209/06 blocks of the second (tributary)
  errs : Nat := 0                        -- R209/06
  raised : List Nat := []                -- R214/06 alerts raised in the bins
  last : List Int := []                  -- R214/06 last one-second value of each gauge
  deriving DecidableEq, Repr

structure Tca where
  enabled : Bool := false                -- R214/06
  thr : Int := 0                         -- R214/06
  deriving DecidableEq, Repr

/-- Line frame, defects, channels, PM. -/
structure FrameSt where
  tx : Tab TxFrame := []
  rx : Tab RxFramer := []
  port : Tab FrPort := []
  defects : Tab DefSt := []              -- R197/06
  defcfg : Tab DefCfg := []              -- R198/06 key 16 x port + code; port 6 for tributaries
  excTicks : Nat := 0                    -- R197/06 0.1 ms ticks of the 10 ms interval
  kcRx : List KcRx := []                 -- R206/06 32 messages
  kcOverrun : Bool := false              -- R206/06
  sesThr : Nat := 15                     -- R209/06
  dayOff : Nat := 0                      -- R211/06 units of 900 s [2]
  dayOffNext : Option Nat := none        -- R212/06
  pm : Tab PmObj := []                   -- R211/06 key 10000 x type + object
  tca : Tab Tca := []                    -- R214/06
  ep15 : List PmEpoch := [⟨0, false, false⟩] -- R211/06 15-minute periods, newest first
  ep24 : List PmEpoch := [⟨0, false, false⟩] -- R211/06 24-hour periods
  deriving DecidableEq, Repr

inductive Role where
  | p2p | hub | leaf
  deriving DecidableEq, Repr

/-- A leaf as the hub keeps it. -/
structure Leaf where
  ident : Nat := 0                       -- R233/07
  state : Nat := 0                       -- R233/07 0 free, 1 assigned, 2 granted, 3 silent
  gen : Nat := 0                         -- R238/07
  classes : Nat := 0                     -- R237/07 classes the leaf supports
  mask : Nat := 0                        -- R234/07
  cls : Nat := 0                         -- R234/07
  off : Int := 0                         -- R235/07 mean frequency offset, kHz
  disp : Int := 0                        -- R218/07
  keeps : Nat := 0                       -- R236/07
  silentArmed : Bool := true             -- R236/07
  deriving DecidableEq, Repr

/-- A burst's receiver state (R229/07). -/
inductive Burst where
  | idle | preamble (power : Int) | payload
  deriving DecidableEq, Repr

inductive JoinPhase where
  | idle | bringUp | backoff | waitAck | waitRetry | waitGrant
  deriving DecidableEq, Repr

/-- Casting channel and role of a port. -/
structure HubPort where
  role : Role := .p2p                    -- R215/07
  leaves : Tab Leaf := []                -- R233/07
  recs : List (List Byte × Nat) := []    -- R227/07 beacon records and copies left
  thr : Nat := 60                        -- R228/07
  level : Int := -100                    -- R221/07
  keep : Nat := 10                       -- R232/07 keepalive interval, ms [2]
  ackT : Nat := 20                       -- R232/07 0.1 ms
  slot : Nat := 0                        -- R222/07
  sent : List Byte := []                 -- R226/07 last casting frame: header and message
  burst : Burst := .idle                 -- R229/07
  pend : Option (Int × Int) := none      -- R229/07 pending detection: power, frequency
  freq : Int := 0                        -- R228/07 frequency value of the burst being received, kHz
  hdrType : Nat := 0                     -- R230/07 type of the burst in PAYLOAD
  hdrIdent : Nat := 0                    -- R224/07 sender of the burst in PAYLOAD
  hdrLen : Nat := 0                      -- R224/07 message length of the burst in PAYLOAD
  delivered : Nat := 0                   -- R229/07
  mirages : Nat := 0                     -- R229/07
  collision : Nat := 0                   -- R229/07
  lost : Nat := 0                        -- R229/07
  rejected : Nat := 0                    -- R230/07
  payErr : Nat := 0                      -- R229/07
  good : Nat := 0                        -- R227/07
  goodRun : Nat := 0                     -- R227/07
  badRun : Nat := 0                      -- R227/07
  lock : Bool := false                   -- R227/07
  gen : Nat := 0                         -- R238/07
  far : List Byte := []                  -- R237/07 far end's capability record
  beaconOff : Int := 0                   -- R143/04 beacon's averaged offset, MHz
  inSince : Option Nat := none           -- R231/07 since when the offset has been within the threshold
  seen : List (List Byte × Nat) := []    -- R227/07 records acted on, beacon frames left that may repeat them
  inbox : List (Nat × Nat × List Byte) := [] -- R229/07 bursts delivered: type, sender, message
  join : JoinPhase := .idle              -- R232/07
  window : Nat := 8                      -- R232/07
  tries : Nat := 0                       -- R232/07
  rounds : Nat := 0                      -- R232/07
  leafNum : Nat := 0xFF                  -- R233/07 number assigned to this leaf
  grants : List (Nat × Nat × Nat × Bool) := [] -- R234/07 mask, class, boundary of each change to apply; a GRANT
  owned : Nat := 0                       -- R216/07 mask granted to this leaf
  ownedCls : Nat := 0                    -- R234/07
  shift : Int := 0                       -- R231/07 kHz
  adj : Int := 0                         -- R235/07 sum of the frequency corrections, kHz
  leaves3 : Nat := 0                     -- R236/07 LEAVE bursts still to send
  exch : Nat := 0                        -- R239/07 0 none, 1 sending clear, 2 sending with acknowledge
  ackRun : Nat := 0                      -- R239/07
  mism : Bool := false                   -- R240/07 the two port roles form no pair
  deriving DecidableEq, Repr

inductive LaneState where
  | disabled | detect | train | exchange | switch | active | quiet | deep | retired
  deriving DecidableEq, Repr

/-- A host lane or pair lane. -/
structure Lane where
  st : LaneState := .disabled            -- R258/08
  port : Option Nat := none              -- R255/08
  logical : Nat := 0                     -- R255/08
  fixed : Bool := false                  -- R242/08
  pre : Nat := 4                         -- R247/08
  main : Nat := 52                       -- R247/08
  post : Nat := 8                        -- R247/08
  stat : BitVec 16 := 0                  -- R246/08 coefficient status sent
  req : BitVec 16 := 0                   -- R246/08 coefficient request sent
  bitLock : Bool := false                -- R245/08 CDR locked
  symRun : Nat := 0                      -- R245/08
  lossRun : Nat := 0                     -- R245/08
  ready : Bool := false                  -- R247/08
  farReady : Bool := false               -- R258/08
  ack : Bool := false                    -- R258/08
  ackRun : Nat := 0                      -- R258/08
  count : Nat := 8                       -- R260/08 frames of the own countdown left
  farDone : Bool := false                -- R260/08
  mismatch : Bool := false               -- R258/08 HOST_CFG_MISMATCH raised
  precode : Bool := false                -- R248/08
  cwLock : Bool := false                 -- R253/08
  blkLock : Bool := false                -- R253/08
  bsn : Option Nat := none               -- R252/08
  missRun : Nat := 0                     -- R253/08
  hdrRun : Nat := 0                      -- R253/08 consecutive valid headers before block lock
  hdrSeen : Nat := 0                     -- R253/08 headers of the present 64 under block lock
  hdrBad : Nat := 0                      -- R253/08 invalid ones among them
  cws : Nat := 0                         -- R252/08 codewords since the last marker
  errBlks : List Nat := []               -- R253/08 first blocks of the latest uncorrectable codewords
  ctle : Nat := 0                        -- R243/08 [2]
  ffe : List Int := List.replicate 24 0  -- R243/08 [2]
  dfe : Int := 0                         -- R243/08 [2]
  freq : Int := 0                        -- R241/08 [2]
  ser : Nat := 0xFFFF                    -- R263/08
  corrected : Nat := 0                   -- R253/08
  unc : Nat := 0                         -- R253/08
  codeErr : Nat := 0                     -- R245/08
  retrains : Nat := 0                    -- R263/08
  activeAt : Nat := 0                    -- R254/08 entry to ACTIVE, from which transmitted blocks are numbered
  confirm : Bool := false                -- R262/08 the next marker confirms the position after QUIET
  deriving DecidableEq, Repr

inductive HpState where
  | down | up | quiet | deep
  deriving DecidableEq, Repr

/-- A host port. -/
structure HPort where
  defined : Bool := false                -- R255/08
  width : Nat := 0                       -- R255/08
  degrade : Bool := false                -- R264/08
  precode : Bool := false                -- R248/08
  wake : Bool := false                   -- R262/08
  enabled : Bool := false                -- R258/08
  st : HpState := .down                  -- R256/08
  target : Option (Nat × Option Nat) := none -- R262/08 state a transition leads to; the mailbox that waits for it
  skew : Nat := 0                        -- R256/08
  rxPk : Nat := 0                        -- R256/08
  txPk : Nat := 0                        -- R256/08
  dropErr : Nat := 0                     -- R253/08
  dropLen : Nat := 0                     -- R257/08
  shortGap : Nat := 0                    -- R257/08
  egDrop : Nat := 0                      -- R262/08
  discarded : Nat := 0                   -- R256/08
  deriving DecidableEq, Repr

/-- A label entry (R268/09). -/
structure LabelEntry where
  valid : Bool
  trib : Nat
  ctx : Nat
  bypass : Bool
  clsOvr : Nat
  profile : Nat
  cset : Nat
  dset : Nat
  deriving DecidableEq, Repr

/-- A packet ahead of lookup (R271/09): in a pair, its port block index and, once a record covers it, its commit window (R387,
R388/13). -/
structure InPacket extends HostPacket where
  blk : Nat := 0
  win : Option Nat := none
  deriving DecidableEq, Repr

/-- A packet between lookup and the tributary queue. -/
structure TxPacket where
  win : Nat := 0
  nn : Nat
  label : Nat
  cls : Nat
  de : Bool
  bypassOk : Bool
  ts : Bool
  body : List Byte
  entry : LabelEntry
  cells : Nat
  deriving DecidableEq, Repr

/-- A packet in a tributary queue: TPE header and body as bytes, the tributary that holds its cells, its label, timestamp
request, and the commit window in which it was admitted (R398/13). -/
structure QPacket where
  bytes : List Byte
  trib : Nat
  cells : Nat
  label : Nat
  ts : Bool
  win : Nat := 0
  deriving DecidableEq, Repr

/-- A packet between reassembly and the egress queue; `cset` is the counter set that counts it when it is delivered (R276/09), none
for the channels of R203/06. -/
structure RxPacket where
  trib : Nat
  label : Nat
  cls : Nat
  enc : Bool
  body : List Byte
  errored : Bool
  authFail : Bool
  replayed : Bool
  cset : Option Nat := none
  deriving DecidableEq, Repr

/-- A timestamp record (R295/09). -/
structure TsRecord where
  label : Nat
  trib : Nat
  tc : Nat
  deriving DecidableEq, Repr

/-- One slot-frame at the receiver (R281, R286/09): departure and arrival timecode in ticks, subcarrier, slot, and its 231 bytes,
each with the mark of an errored span; one that did not arrive by its deadline has no arrival. -/
structure SlotFrame where
  dep : Nat
  arr : Option Nat
  sc : Nat
  slot : Nat
  bytes : List (Byte × Bool)
  deriving DecidableEq, Repr

inductive Delin where
  | hunt | presync | sync
  deriving DecidableEq, Repr

/-- A tributary. -/
structure Trib where
  txEn : Bool := false                   -- R284/09 [2]
  rxEn : Bool := false                   -- R284/09 [2]
  locked : Bool := false                 -- R284/09 [2]
  delErr : Bool := false                 -- R293/09 [2]
  bulk : Bool := false                   -- R285/09 [2]
  egress : Nat := 0xFFFF                 -- R294/09 [2]
  maxDiff : Nat := 0                     -- R285/09 [2]
  alloc : Nat := 0                       -- R288/09 0 the default of R288
  partner : Nat := 0xFFFF                -- R287/09 [2]
  occ : Nat := 0                         -- R290/09
  express : List QPacket := []           -- R292/09
  normal : List QPacket := []            -- R292/09
  cur : List Byte := []                  -- R278/09 bytes left of the packet being sent
  curCells : Nat := 0                    -- R291/09
  curTrib : Nat := 0                     -- R287/09 tributary whose cells the packet being sent holds
  copy : List Byte := []                 -- R287/09 bytes mapped into the hitless partner and due here
  freed : Nat := 0                       -- R291/09 cells freed, credit not yet returned
  freedAt : List (Nat × Nat) := []       -- R389/13 in a pair: departure and cells of credit not yet returned, oldest first
  idle : List Byte := []                 -- R278/09 bytes left of an idle filler header
  delin : Delin := .hunt                 -- R279/09
  pos : Nat := 0                         -- R281/09 departure of the last slot-frame released
  arrived : List SlotFrame := []         -- R286/09 slot-frames waiting for release, in the order of R281
  seen : Tab Nat := []                   -- R286/09 one more than the departure of the last slot-frame of each slot, 40 x SC + slot
  stream : List (Byte × Bool) := []      -- R279/09 bytes released and not yet consumed, each with its errored mark
  skip : Nat := 0                        -- R279/09 in PRESYNC, bytes from the header found to the next one
  pkt : Option Nat := none               -- R279/09 header of the packet being received
  pktBad : Bool := false                 -- R293/09 that header has a byte in an errored span
  mapPos : Option (Nat × Nat) := none    -- R281/09 departure and slot of the slot-frame filled last
  held : List SlotFrame := []            -- R287/09 slot-frames waiting for the hitless partner's
  skew : Nat := 0                        -- R286/09
  admitted : Nat := 0                    -- R290/09
  noCreditDe : Nat := 0                  -- R290/09
  noCreditNormal : Nat := 0              -- R290/09
  noCreditExpress : Nat := 0             -- R290/09
  noCap : Nat := 0                       -- R290/09
  delivered : Nat := 0                   -- R294/09
  dropErr : Nat := 0                     -- R293/09
  mismatch : Nat := 0                    -- R293/09
  delinLoss : Nat := 0                   -- R279/09
  egOver : Nat := 0                      -- R294/09
  hitless : Nat := 0                     -- R287/09
  unknownRx : Nat := 0                   -- R293/09
  testSend : Bool := false               -- R444/16
  testCheck : Bool := false              -- R444/16
  testNext : Option (Bool × Bool) := none -- R444/16 taken at the commit's boundary
  prbs : Nat := 0x7FFFFFFF               -- R444/16
  chk : Nat := 0                         -- R444/16 checker register
  chkRun : Nat := 0                      -- R444/16 bits loaded, then consecutive correct bits
  chkErr : Nat := 0                      -- R444/16 errors in the present 1,024 bits
  chkBits : Nat := 0                     -- R444/16 bits of the present 1,024
  inSync : Bool := false                 -- R444/16
  bits : Nat := 0                        -- R444/16
  bitErrs : Nat := 0                     -- R444/16
  syncLoss : Nat := 0                    -- R444/16
  emptyKnown : Bool := true              -- R398/13 its empty point is known
  deriving DecidableEq, Repr

/-- Owners of a slot (R280/09), present and staged; 0xFFF is unassigned. -/
structure SlotOwner where
  tx : Nat := 0xFFF                      -- R280/09
  rx : Nat := 0xFFF                      -- R280/09
  stTx : Nat := 0xFFF                    -- R282/09
  stRx : Nat := 0xFFF                    -- R282/09
  pTx : Nat := 0xFFF                     -- R282/09 owners of the pending commit
  pRx : Nat := 0xFFF                     -- R282/09
  deriving DecidableEq, Repr

structure Profile where
  de : Nat := 192                        -- R289/09
  normal : Nat := 240                    -- R289/09
  deriving DecidableEq, Repr

/-- Increments of a counter set not yet in bulk memory (R275/09). -/
structure CtrInc where
  tp : Nat := 0
  tb : Nat := 0
  rp : Nat := 0
  rb : Nat := 0
  deriving DecidableEq, Repr

/-- Service path. -/
structure Service where
  cache : Tab (List Nat) := []           -- R270/09 lines of each set, most recently used first
  ueLines : List Nat := []               -- R272/09 lines uncorrectable in bulk memory
  fills : List Nat := []                 -- R271/09 lines being filled, at most 256
  held : List Nat := []                  -- R271/09 host ports whose head was looked up and waits for its line
  ingress : Tab (List InPacket) := []    -- R271/09 packets ahead of lookup, per host port
  looked : List TxPacket := []           -- R290/09 looked-up packets awaiting admission
  cipherIn : List TxPacket := []         -- R307/10 admitted packets that need the cipher
  lookups : Nat := 0                     -- R270/09
  misses : Nat := 0                      -- R270/09
  unknown : Nat := 0                     -- R272/09
  uncorr : Nat := 0                      -- R272/09
  badClass : Nat := 0                    -- R267/09
  overflow : Nat := 0                    -- R271/09
  stalls : Nat := 0                      -- R275/09
  unkSince : Nat := 0                    -- R272/09 drops since the previous LABEL_UNKNOWN
  unkAt : Option Nat := none             -- R272/09 instant of the previous LABEL_UNKNOWN
  ctrPend : Tab CtrInc := []             -- R275/09 pending increments by counter set
  ctrCache : List Nat := []              -- R275/09 lines of the counter cache, at most 131,072
  ctrHeld : Tab CtrInc := []             -- R275/09 increments of cached lines since their last write-back
  ctrFull : Bool := false                -- R275/09 pending buffer reported full
  profiles : Tab Profile := []           -- R289/09
  tsFifo : List TsRecord := []           -- R295/09 1,024 entries
  tsOverrun : Bool := false              -- R295/09
  trib : Tab Trib := []                  -- R280/09
  slot : Tab SlotOwner := []             -- R280/09 key 40 x SC + slot
  mapVer : Tab Nat := []                 -- R282/09 transmit map version per port [2]
  commit : Option (Nat × Nat) := none    -- R282/09 boundary and cue index of the pending commit
  commitsReplaced : Nat := 0             -- R282/09
  fillAt : Option Nat := none            -- R438/16 boundary of a fill commit that waits for the pending commit
  rxq : List RxPacket := []              -- R293/09 packets for the receive cipher
  egress : Tab (List RxPacket) := []     -- R294/09 egress queue per host port
  lastSent : Option (Word × List Byte) := none -- R266/09 last packet sent to the host
  deriving DecidableEq, Repr

/-- A key slot (R297/10). -/
structure KeySlot where
  key : Nat
  salt : Nat
  an : Nat
  h : Nat
  win : List Nat                         -- packet numbers set in the window
  edge : Nat                             -- R316/10 numbers at or below it count as seen
  rxOnly : Bool
  deriving DecidableEq, Repr

/-- A security context. -/
structure Ctx where
  d : Bool := false                      -- R298/10 [2]
  delFailed : Bool := false              -- R298/10 [2]
  prof : Nat := 0                        -- R298/10 [2]
  w : Nat := 0                           -- R298/10 [2]
  cur : Option KeySlot := none           -- R297/10
  nxt : Option KeySlot := none           -- R297/10
  pn : Nat := 1                          -- R307/10 next transmit packet number
  bytes : Nat := 0                       -- R298/10
  retired : Bool := false                -- R308/10 current key retired for transmit
  softP : Bool := false                  -- R308/10
  softB : Bool := false                  -- R308/10
  roll : Option (Nat × Nat × Bool) := none -- R311/10 R in ticks, cue index, placed by R304
  replaced : Nat := 0                    -- R311/10
  txDrop : Nat := 0                      -- R309/10
  rxOk : Nat := 0                        -- R315/10
  fAuth : Nat := 0                       -- R315/10
  fReplay : Nat := 0                     -- R315/10
  fNoKey : Nat := 0                      -- R315/10
  fUnprot : Nat := 0                     -- R315/10
  annAn : Nat := 0xFF                    -- R313/10
  annR : Nat := 0                        -- R313/10
  deriving DecidableEq, Repr

/-- A usage-limit profile (R308/10). -/
structure Limits where
  softP : Nat := 2 ^ 61                  -- R308/10
  hardP : Nat := 2 ^ 62                  -- R308/10
  softB : Nat := 2 ^ 62                  -- R308/10
  hardB : Nat := 2 ^ 63                  -- R308/10
  deriving DecidableEq, Repr

/-- What a cipher lane works on (R320/10): its packet, express or normal, until an instant; and what is left of the normal packet that it
has suspended for it, in ticks. -/
structure LaneWork where
  express : Bool := false
  ends : Nat := 0
  held : Option Nat := none
  deriving DecidableEq, Repr

/-- The cipher lanes of one direction (R317/10). -/
structure Lanes where
  active : List Nat := [0, 1, 2, 3, 4, 5, 6, 7, 8, 9, 10, 11]  -- R317/10
  spare : List Nat := [12]               -- R317/10
  work : Tab LaneWork := []              -- R320/10
  mism : Nat := 0                        -- R318/10
  matched : Nat := 0                     -- R318/10
  dropped : Nat := 0                     -- R318/10
  deriving DecidableEq, Repr

structure Cipher where
  ctx : Tab Ctx := []                    -- R297/10
  limits : Tab Limits := []              -- R308/10
  tx : Lanes := {}                       -- R317/10
  rx : Lanes := {}                       -- R317/10
  failSince : Nat := 0                   -- R315/10
  failAt : Option Nat := none            -- R315/10
  deriving DecidableEq, Repr

/-- Sandglass and error counts of a memory (R340/11). -/
structure Sand where
  level : Nat := 0                       -- R340/11
  depth : Nat := 64                      -- R340/11
  leak : Nat := 60                       -- R340/11
  overflows : Nat := 0                   -- R340/11
  corr : Nat := 0                        -- R340/11
  unc : Nat := 0                         -- R337/11
  deriving DecidableEq, Repr

inductive PcState where
  | active | migrating | retired
  deriving DecidableEq, Repr

/-- Status of a stored bulk word (R333/11). -/
inductive WordStatus where
  | clean | correctable | uncorrectable | poisoned
  deriving DecidableEq, Repr

/-- A migration in progress (R345/11): pseudo-channel, regions to copy, places given, words poisoned. -/
structure Migration where
  pc : Nat
  todo : List (Nat × Nat)
  poisoned : Nat
  before : Tab Nat                       -- places as the migration found them
  deriving DecidableEq, Repr

/-- Bulk memory and its protection. -/
structure Bulk where
  mem : List Host.Cell := []             -- R324/11 data bytes; an unlisted address reads as zero (R331)
  valid : Tab Bool := []                 -- R331/11 valid bits of regions
  chip : Tab Bool := []                  -- R330/11 valid bits of the memories 64 to 67, by block of 8 words
  status : Tab WordStatus := []          -- R333/11 key: word index
  sand : Tab Sand := []                  -- R340/11
  pcs : Tab PcState := []                -- R345/11
  place : Tab Nat := []                  -- R345/11 region to its spare region
  migr : Option Migration := none        -- R345/11
  bulkPass : Nat := 24                   -- R338/11 h
  chipPass : Nat := 60                   -- R338/11 s
  bulkOn : Bool := true                  -- R338/11 [2]
  chipOn : Bool := true                  -- R338/11 [2]
  swept : Nat := 0                       -- R338/11 regions swept in the present pass
  sweepAt : Nat := 0                     -- R338/11 address from which the present pass goes on
  lastPass : Nat := 0                    -- R339/11 [2]
  shorten : Nat := 0                     -- R339/11 lateness to be made up, s
  shortenChip : Nat := 0                 -- R339/11
  suspended : Bool := false              -- R424/15 sweep and tracer suspended
  corrected : Nat := 0                   -- R335/11
  unc : Nat := 0                         -- R337/11
  poisonWrites : Nat := 0                -- R333/11
  lastUe : Nat := 0                      -- R337/11
  reserve : Tab Nat := []                -- R341/11 regions reserved per tributary
  reserveRate : Tab Nat := []            -- R341/11 bandwidth reserved per tributary, MB/s
  deriving DecidableEq, Repr

/-- A reference candidate. -/
structure Cand where
  prio : Nat := 0                        -- R349/12
  freq : Nat := 0                        -- R347/12 [2]
  active : Bool := false                 -- R350/12 [2]
  qual : Bool := false                   -- R352/12
  soft : Bool := false                   -- R352/12 outside the soft band
  hard : Bool := false                   -- R352/12 disqualified by the hard band
  suspect : Bool := false                -- R353/12
  waited : Bool := false                 -- R349/12 qualified for the wait-to-restore time
  off : Int := 0                         -- R351/12 0.1 ppb [2]
  phase : Int := 0                       -- R355/12 phase against the island's clock, fs [2]
  inBand : Nat := 0                      -- R352/12 seconds inside the soft band
  agree : Nat := 0                       -- R354/12 seconds within the agreement band of its tie-breaker
  tie : Nat := 0xFF                      -- R353/12 the tie-breaker that marked it: 0xFF LOSC_IN, else a candidate
  deriving DecidableEq, Repr

inductive Island where
  | freerun | acquire | locked | holdover
  deriving DecidableEq, Repr

/-- Line time transfer of a port (R366/12). -/
structure Transfer where
  on : Bool := false                     -- R366/12 [2]
  asym : Int := 0                        -- R367/12 [2]
  fTx : Nat := 0                         -- R367/12 [2]
  fFar : Nat := 0                        -- R367/12 [2]
  farTakes : Bool := false               -- R368/12
  off : Option Int := none               -- R366/12 this end less far end, ps
  delay : Int := 0                       -- R366/12 mean path delay, ps
  asymUsed : Int := 0                    -- R367/12 asymmetry applied, ps
  deriving DecidableEq, Repr

/-- Timing island. -/
structure Timing where
  tc : Nat := 0                          -- R34/01 timecode in 2^-16 ns
  up : Nat := 0                          -- R61/02 time since power-on or RESET_N, in 2^-16 ns
  cand : Tab Cand := []                  -- R347/12
  st : Island := .freerun                -- R357/12
  sel : Option Nat := none               -- R349/12
  forced : Option Nat := none            -- R349/12
  phaseErr : Int := 0                    -- R355/12 phase error of the loop, fs
  bw : Nat := 0                          -- R356/12 [2]
  revertive : Bool := false              -- R349/12 [2]
  window : Nat := 10                     -- R351/12
  soft : Nat := 2000                     -- R352/12
  hard : Nat := 4600                     -- R352/12
  agree : Nat := 100                     -- R353/12
  qualT : Nat := 10                      -- R352/12
  wtr : Nat := 300                       -- R349/12
  loscHz : Nat := 10000000               -- R348/12 [2]
  warmup : Nat := 600                    -- R351/12
  warm : Bool := false                   -- R351/12
  loscLost : Bool := false               -- R348/12
  history : Bool := false                -- R357/12
  lockedFor : Nat := 0                   -- R357/12 seconds of LOCKED behind
  samples : List Int := []               -- R357/12 frequency of the seconds of LOCKED, 0.1 ppb, newest first, at most 61
  softSamples : List Int := []           -- R357/12 those when the selected candidate first crossed the soft band
  holdSum : Int := 0                     -- R357/12 the holdover history: sum of its seconds
  holdN : Nat := 0                       -- R357/12 and their number
  a0 : Int := 0                          -- R358/12 [2]
  drift : Int := 0                       -- R358/12 [2]
  kT : Nat := 0                          -- R358/12 [2]
  limE : Nat := 1                        -- R358/12 [2]
  tempCh : Nat := 0xFF                   -- R358/12 [2]
  heldFor : Nat := 0                     -- R359/12 seconds in holdover
  hourglass : Nat := 0                   -- R359/12 [2]
  predErr : Int := 0                     -- R359/12 [2] ns
  expired : Bool := false                -- R359/12
  conflicts : List (Nat × Nat × Nat) := [] -- R354/12 pairs in conflict and the seconds they have agreed since
  refout : Tab (Nat × Nat) := []         -- R360/12 frequency and squelch mode
  source : Nat := 0                      -- R362/12
  srcPort : Nat := 0                     -- R362/12 [2]
  stepThr : Nat := 1000                  -- R362/12
  slewLim : Nat := 100                   -- R362/12
  slew : Int := 0                        -- R362/12 offset still to be removed, ps
  lastOff : Int := 0                     -- R362/12 [2]
  steps : Nat := 0                       -- R363/12
  taiUtc : Int := 0                      -- R364/12 [2]
  leap : Nat := 0                        -- R364/12 [2]
  todSec : Nat := 0                      -- R364/12 TAI second named for the next edge [2]
  todGood : Bool := false                -- R364/12 a good message has named the next edge
  todCounts : Bool := false              -- R364/12 the second of the next edge is known by count
  todDisc : Nat := 0                     -- R364/12
  todMiss : Nat := 0                     -- R364/12
  todArmed : Bool := true                -- R364/12 [2]
  ppsOff : Option Int := none            -- R364/12 TAI second less timecode at the last PPS_IN edge, ticks
  cable : Nat := 0                       -- R364/12 [2]
  advance : Nat := 0                     -- R365/12 [2]
  todOut : Bool := false                 -- R365/12 [2]
  falling : Bool := false                -- R364/12
  ppsOut : Nat := 0                      -- R365/12 PPS_OUT edges sent
  todSent : List Byte := []              -- R365/12 last ToD message sent
  transfer : Tab Transfer := []          -- R366/12
  loopRaised : Bool := false             -- R368/12
  pps : ToggleSt := {}                   -- R16/01 PPS, timing island to core
  deriving DecidableEq, Repr

/-- A cue entry (R370/12). -/
structure Cue where
  state : Nat := 0
  kind : Nat := 0
  origin : Nat := 0
  periodic : Bool := false
  late : Bool := false
  announced : Bool := false
  acked : Bool := false
  obj : Nat := 0
  time : Nat := 0
  period : Nat := 0
  tag : Nat := 0
  lateness : Nat := 0
  nominal : Nat := 0                     -- R373/12 nominal time of the occurrence
  deriving DecidableEq, Repr

/-- The cue table. -/
structure Cues where
  table : Tab Cue := []                  -- R370/12 entries 2-4095
  pm15 : Cue := { state := 1, kind := 7, origin := 1, periodic := true, time := 58982400000000000, period := 900000, nominal := 58982400000000000 }  -- R370/12
  pm24 : Cue := { state := 1, kind := 7, origin := 1, periodic := true, time := 5662310400000000000, period := 86400000, nominal := 5662310400000000000 }  -- R370/12
  lateN : Nat := 0                       -- R372/12
  lateSince : Nat := 0                   -- R372/12
  lateMax : Nat := 0                     -- R372/12
  lateMaxSince : Nat := 0                -- R372/12
  lateAt : Option Nat := none            -- R372/12
  shortened : Nat := 0                   -- R373/12
  unacked : Nat := 0                     -- R376/12
  annRx : Nat := 0                       -- R375/12
  waiting : List Nat := []               -- R386/13 announcements waiting for the lease
  arm : ToggleSt := {}                   -- R16/01 cue arm, core to timing island
  strobe : ToggleSt := {}                -- R16/01 cue strobes, timing island to core
  deriving DecidableEq, Repr

/-- Pair member state. -/
structure Pair where
  role : Nat := 0                        -- R383/13 0 single, 1 lead, 2 stand-in, 3 pair without lease
  linkEn : Bool := false                 -- R380/13 [2]
  d : Nat := 20                          -- R387/13
  period : Nat := 0                      -- R400/13 [2]
  expect : Nat := 0                      -- R380/13 [2]
  up : Bool := false                     -- R380/13
  gen : Nat := 0                         -- R403/13
  farGen : Nat := 0                      -- R380/13
  farLinkGen : Nat := 0                  -- R404/13
  farIdent : Nat := 0                    -- R380/13
  cfgBad : Bool := false                 -- R380/13
  ownEnd : Option Nat := none            -- R382/13 end of the own lease (time since reset, ticks)
  farEnd : Option Nat := none            -- R382/13
  everHeld : Bool := false               -- R383/13 a lease has been held or observed
  release : Bool := false                -- R401/13
  rehearsed : Bool := false              -- R401/13 RELEASE given at a rehearsal, grant awaited
  farRelease : Bool := false             -- R382/13 the partner released at a rehearsal
  farHealthy : Bool := false             -- R401/13
  leaseL : Nat := 0                      -- R382/13
  leaseSeq : Nat := 0                    -- R381/13
  hbSeq : Nat := 0                       -- R381/13
  heartbeat : List Byte := []            -- R381/13 last heartbeat frame
  badRun : Nat := 0                      -- R381/13
  hunting : Bool := false                -- R381/13
  arbOk : Bool := false                  -- R381/13 valid lease frames in the last 1 ms
  arbLost : Bool := false                -- R381/13 ARB_LOST raised
  inStep : Bool := false                 -- R397/13
  resync : Nat := 0                      -- R397/13 0 none, 1 copying, 2 converging
  matched : Nat := 0                     -- R397/13 mirror intervals matched
  intervals : Nat := 0                   -- R397/13 since entering step
  mism : Bool := false                   -- R397/13 mismatch in the present interval
  resyncAt : Nat := 0                    -- R397/13
  gained : Nat := 0                      -- R382/13
  diverg : Nat := 0                      -- R397/13
  lateC : Nat := 0                       -- R390/13
  skipped : Nat := 0                     -- R396/13
  badFrames : Nat := 0                   -- R381/13
  margin : Int := 0                      -- R390/13 [2]
  window : Nat := 0                      -- R387/13 last commit window
  records : Tab Nat := []                -- R387/13 last block index per host port
  windows : List (Nat × List (Nat × Nat)) := [] -- R387/13 the last 512 windows with their records, newest first
  tcOff : Int := 0                       -- R392/13 [2]
  wasLead : Bool := false                -- R386/13 the last lease was this module's
  pmWait : List (Nat × Nat × Nat × List Byte) := [] -- R386/13 PM events waiting in a lease gap
  mirrored : Nat := 0                    -- R393/13 records sent to the partner
  sent : List PairMessage := []          -- R393/13 those of the present mirror interval, oldest first
  deltas : Tab CtrInc := []              -- R393/13 increments of the counter sets in the present mirror interval
  confirmed : Nat := 0                   -- R393/13 cue placements and cancellations confirmed to the lead
  farResync : Bool := false              -- R397/13 on the lead: the stand-in resynchronizes
  emptyTold : List Nat := []             -- R398/13 tributaries whose empty point has been reported
  digests : List Digest := []            -- R396/13 digests sent in the present mirror interval
  stateDig : Option Word := none         -- R396/13 state digest of the present interval
  statePrev : Option Word := none        -- R396/13 state digest of the previous interval
  kcvBad : List Nat := []                -- R397/13 slots whose KCV differs: 2 x context + slot
  marginSec : Nat := 0                   -- R390/13 second of the worst margin
  decisions : List (Nat × Bool) := []    -- R397/13 the lead's admission decisions, oldest first
  deriving DecidableEq, Repr

/-- A converter configuration as mon.config gives it (R408, R417/14). -/
structure MonCfg where
  mode : Nat
  ch : Nat
  h : Nat
  shifts : Nat
  k : Nat
  q : Nat
  mask : Nat
  capture : Bool
  n : Nat
  deriving DecidableEq, Repr

/-- A monitor converter. -/
structure Conv where
  mode : Nat := 0                        -- R408/14
  ch : Nat := 0                          -- R411/14 [2]
  h : Nat := 0                           -- R411/14 [2]
  shifts : Nat := 0                      -- R411/14 [2]
  k : Nat := 10                          -- R408/14
  q : Nat := 65536                       -- R411/14
  mask : Nat := 0xFFFF                   -- R408/14
  capture : Bool := false                -- R419/14
  capN : Nat := 0                        -- R419/14
  captured : Nat := 0                    -- R419/14
  capDone : Bool := false                -- R419/14
  next : Option MonCfg := none           -- R417/14 configuration pending for an edge
  edge : Nat := 0                        -- R416/14 last reset edge
  nextEdge : Option Nat := none          -- R417/14
  n : Nat := 0                           -- R416/14 outputs since the reset
  slotCh : Nat := 0                      -- R415/14 channel of the present slot
  fifo : List (Nat × Nat × Nat × Nat) := [] -- R418/14 value, flags, channel, output number
  overrun : Bool := false                -- R419/14
  ovl : Nat := 0                         -- R419/14
  sat : Nat := 0                         -- R419/14
  ovlAt : Option Nat := none             -- R410/14 instant of the last MON_OVERLOAD
  sync : ToggleSt := {}                  -- R16/01 sync reset, core to modulator
  deriving DecidableEq, Repr

/-- A monitor channel's stored value (R408/14). -/
structure ChanVal where
  value : Int := 0                       -- R408/14 [2]
  at_ : Nat := 0                         -- R408/14
  ovl : Bool := false
  sat : Bool := false
  deriving DecidableEq, Repr

structure Monitor where
  conv : Tab Conv := []                  -- R406/14
  chan : Tab ChanVal := []               -- R408/14
  deriving DecidableEq, Repr

/-- A die's thermal state. -/
structure Die where
  temp : Int := 0                        -- R420/15 0.1 C [2]
  d0Bad : Bool := false                  -- R422/15
  d1Bad : Bool := false                  -- R422/15
  nWarn : Nat := 0                       -- R423/15
  nPace : Nat := 0                       -- R423/15
  nShut : Nat := 0                       -- R423/15
  warned : Bool := false                 -- R423/15
  paced : Bool := false                  -- R424/15
  deriving DecidableEq, Repr

/-- A user calibration record (R432/15). -/
structure CalRec where
  off : Int
  gain : Int
  source : Nat
  written : Nat
  ref : Int
  acc : Nat
  deriving DecidableEq, Repr

/-- A kind of flash work (R428/15). -/
inductive FlashWork where
  | flush | reported | retirementMap | cal (key : Nat) (value : Option CalRec) (op tag : Nat) | activate
  | erase (mask op tag : Nat)
  deriving DecidableEq, Repr

/-- A calibrated value (R431/15). -/
structure CalVal where
  user : Option CalRec := none           -- R431/15
  offNow : Int := 0                      -- R433/15 user offset in effect
  deriving DecidableEq, Repr

/-- A staged result (R434/15). -/
structure CalStage where
  item : Nat
  obj : Nat
  off : Int
  gain : Int
  reading : Int
  source : Nat
  declared : Int
  acc : Nat
  deriving DecidableEq, Repr

/-- A measurement (R434/15); `conv` is the converter it borrows. -/
structure CalJob where
  kind : Nat
  obj : Nat
  point : Nat
  declared : Int
  acc : Nat
  tag : Nat
  conv : Nat
  stage0 : Option CalStage               -- what was staged before it
  first0 : Option (Nat × Int × Int)
  deriving DecidableEq, Repr

/-- Temperature, flash window, calibration. -/
structure Thermal where
  die : Tab Die := []                    -- R423/15
  warnThr : Int := 1400                  -- R423/15
  pace : Bool := false                   -- R424/15
  shut : Bool := false                   -- R425/15
  shutCh : Nat := 0xFF                   -- R425/15
  fld : Int := 250                       -- R427/15 [2]
  window : Bool := true                  -- R427/15 [2]
  work : List FlashWork := []            -- R428/15 waiting flash work
  busy : Option FlashWork := none        -- R429/15 work being programmed
  mapDue : Bool := false                 -- R473/18
  r26 : Tab Nat := []                    -- R421/15 default 10,000
  bK : Tab Nat := []                     -- R421/15 default 3,435
  eta : Tab Nat := []                    -- R421/15 default 10,080
  slope : Tab Int := []                  -- R421/15 0 none
  zero : Tab Int := []                   -- R421/15
  cal : Tab CalVal := []                 -- R431/15
  stored : Tab CalRec := []              -- R431/15 user store in FLD
  job : Option CalJob := none            -- R434/15
  first : Option (Nat × Int × Int) := none  -- R434/15 channel, declared and read value of a first point
  stage : Option CalStage := none        -- R434/15
  applied : List (Nat × CalStage) := []  -- R434/15 staged results under a cal.apply that waits, by its tag
  factoryLost : Bool := false            -- R430/15
  deriving DecidableEq, Repr

/-- Policy of a unit type (R436/16). -/
structure Policy where
  count : Nat := 3                       -- R436/16
  window : Nat := 600                    -- R436/16
  fill : Bool := false                   -- R438/16
  deriving DecidableEq, Repr

/-- Fault record of a unit (R436/16). -/
structure UnitRec where
  times : List Nat := []                 -- R436/16 instants of faults in the window (time since reset)
  total : Nat := 0                       -- R436/16
  last : Nat := 0                        -- R436/16 timecode of the last fault
  retrying : Bool := false               -- R436/16
  retired : Bool := false                -- R436/16
  retiring : Bool := false               -- R436/16
  deriving DecidableEq, Repr

/-- An injection point (R442/16). -/
structure Inject where
  armed : Bool := false                  -- R442/16
  arg : Nat := 0                         -- R442/16
  acted : Nat := 0                       -- R442/16
  running : Bool := false                -- R442/16 a timed effect runs
  deriving DecidableEq, Repr

structure Faults where
  policy : Tab Policy := []              -- R436/16
  unit : Tab UnitRec := []               -- R436/16 key 65536 x type + index
  queue : List (Nat × Nat) := []         -- R436/16 retirements waiting: type and index
  inj : Tab Inject := []                 -- R442/16
  core : Tab Core := []                  -- R437/16
  dma : List Nat := []                   -- R441/16 halted channels
  d2dSpare : Tab Nat := []               -- R13/01 spares used, key 2 x link + direction
  fldRetired : List (Nat × Nat) := []    -- R473/18 retirement map in FLD
  deriving DecidableEq, Repr

/-- A log entry (R445/16). -/
structure LogEntry where
  code : Nat
  vector : Nat
  flags : Nat
  seq : Nat
  tc : Nat
  src : Nat
  tag : Nat
  data : List Byte
  ctx : List Byte
  secs : Nat
  rail : Nat
  temp : Int
  margin : Int
  vin : Nat
  bad : Bool
  word : WordStatus := .clean            -- R333/11 of the bulk word that holds this copy
  deriving DecidableEq, Repr

/-- The rushes log. -/
structure LogSt where
  ring : List LogEntry := []             -- R445/16 newest first, 16,384
  uncopied : Nat := 0                    -- R445/16 newest entries not yet copied
  cont : List LogEntry := []             -- R446/16 continuous log, newest first
  contN : Nat := 0                       -- R446/16 entries ever written
  frozen : Bool := false                 -- R447/16
  cause : Nat := 0                       -- R447/16
  snap : List LogEntry := []             -- R447/16
  flushDue : Bool := false               -- R447/16
  after : List LogEntry := []            -- R447/16 newest first, 256
  lostN : Nat := 0                       -- R445/16
  lostSince : Nat := 0                   -- R445/16
  whileFrozen : Nat := 0                 -- R448/16
  snapsLost : Nat := 0                   -- R448/16
  slots : Tab (List LogEntry × Nat) := [] -- R449/16 snapshot and its flush number
  flushNo : Nat := 0                     -- R449/16
  areaA : List LogEntry := []            -- R449/16
  areaB : List LogEntry := []            -- R449/16
  numA : Nat := 0                        -- R450/16 record number; 0 erased
  numB : Nat := 0                        -- R450/16
  repA : Bool := false                   -- R451/16 reported flag
  repB : Bool := false                   -- R451/16
  found : Bool := false                  -- R451/16 log.status bit 2
  deriving DecidableEq, Repr

/-- The tracer (R456/17). -/
structure Tracer where
  kind : Nat := 0                        -- R456/17
  k : Nat := 10                          -- R456/17 [2]
  filter : Nat := 0xFFFF                 -- R457/17 [2]
  seed : Nat := 0                        -- R456/17
  lfsr : Nat := 0                        -- R456/17
  isOpen : Bool := false                 -- R457/17
  openCue : Option Nat := none           -- R457/17
  closeCue : Option Nat := none          -- R457/17
  advanced : Nat := 0                    -- R458/17
  seq : Nat := 0                         -- R458/17
  delivery : Nat := 0                    -- R459/17 [2]
  n : Nat := 10                          -- R459/17 [2]
  addr : Nat := 0                        -- R459/17 [2]
  next : Nat := 0                        -- R459/17
  phase : Bool := true                   -- R459/17
  buffer : Tab (List Byte) := []         -- R459/17 table 0x07, or the host ring
  full : Bool := false                   -- R459/17
  written : Nat := 0                     -- R459/17
  dropped : Nat := 0                     -- R459/17
  suspendedN : Nat := 0                  -- R459/17
  dropSince : Nat := 0                   -- R459/17
  dropAt : Option Nat := none            -- R459/17
  deriving DecidableEq, Repr

/-- The whole module. -/
structure State where
  pending : List Instr := []             -- commands waiting, first in first out
  free : Nat := 0                        -- the model's own counter of free values [3]
  ctrl : Ctrl := {}
  ev : EvSt := {}
  fw : Fw := {}
  power : PowerSt := {}
  cross : Crossings := {}
  pace : Tab PaceUnit := []
  txp : Tab TxPort := []
  txs : Tab TxSc := []
  rxp : Tab RxPort := []
  rxs : Tab RxSc := []
  fecp : Tab FecPort := []
  fecs : Tab FecSc := []
  frame : FrameSt := {}
  hub : Tab HubPort := []
  lane : Tab Lane := []                  -- host lanes 0-95, pair lanes 96-99
  hport : Tab HPort := []
  svc : Service := {}
  cipher : Cipher := {}
  bulk : Bulk := {}
  timing : Timing := {}
  cues : Cues := {}
  pair : Pair := {}
  mon : Monitor := {}
  therm : Thermal := {}
  flt : Faults := {}
  log : LogSt := {}
  tracer : Tracer := {}
  quiet : Bool := false                  -- R83/02 module quiet
  deriving DecidableEq, Repr

/-- The module before its supply rises: every register at its reset value (R48/02 and the log entries named above);
nothing is rung, no memory is listed, no event has been raised. -/
def State.reset : State := {}

end Sys2Proof.Machine
end

