-- ==== Sys2Proof/Machine/Bytes.lean ====
section
/-! DEFINITION. Byte strings, big-endian fields (R52), cyclic redundancy checks, sparse tables and units of time. -/

namespace Sys2Proof.Machine

/-- `n` bytes of `v`, most significant first (R52). -/
def natBE : Nat → Nat → List Byte
  | 0, _ => []
  | n + 1, v => natBE n (v / 256) ++ [BitVec.ofNat 8 v]

/-- `n` bytes of a signed value in two's complement, most significant first. -/
def intBE (n : Nat) (v : Int) : List Byte := natBE n (v % ((256 : Int) ^ n)).toNat

/-- The number that bytes give, most significant first (R52). -/
def beNat (bs : List Byte) : Nat := bs.foldl (fun a b => 256 * a + b.toNat) 0

/-- The two's-complement value of an `n`-bit pattern. -/
def toSigned (n v : Nat) : Int := if 2 * v < 2 ^ n then (v : Int) else (v : Int) - 2 ^ n

/-- The signed number that bytes give. -/
def beInt (bs : List Byte) : Int := toSigned (8 * bs.length) (beNat bs)

/-- `n` bytes at offset `off`. -/
def field (off n : Nat) (bs : List Byte) : List Byte := (bs.drop off).take n

def getU (off n : Nat) (bs : List Byte) : Nat := beNat (field off n bs)

def getI (off n : Nat) (bs : List Byte) : Int := beInt (field off n bs)

def allZero (bs : List Byte) : Bool := bs.all (· == 0)

def zeros (n : Nat) : List Byte := List.replicate n 0

/-- `bs` cut or zero-padded to `n` bytes. -/
def padTo (n : Nat) (bs : List Byte) : List Byte := bs.take n ++ zeros (n - bs.length)

/-- `new` laid over `old` from offset `off`. -/
def overlay (off : Nat) (new old : List Byte) : List Byte :=
  old.take off ++ new ++ old.drop (off + new.length)

def bitOf (n k : Nat) : Bool := n.testBit k

def b2n (b : Bool) : Nat := if b then 1 else 0

def b2w (b : Bool) : Byte := if b then 1 else 0

/-- Bits of `n`, `w` of them, most significant first. -/
def bitsMsb : Nat → Nat → List Bool
  | 0, _ => []
  | w + 1, n => bitOf n w :: bitsMsb w n

/-- The set bits of a mask below `w`, ascending. -/
def maskList (w n : Nat) : List Nat := (List.range w).filter (bitOf n)

/-- The mask whose set bits are `ks`. -/
def listMask (ks : List Nat) : Nat := ks.foldl (fun a k => a ||| 2 ^ k) 0

def popcount (w n : Nat) : Nat := (maskList w n).length

def byteBits (b : Byte) : List Bool := bitsMsb 8 b.toNat

/-- Bits in order, most significant first, as a number (R10). -/
def bitsNat (bs : List Bool) : Nat := bs.foldl (fun a b => 2 * a + b2n b) 0

def flip0 (b : Byte) : Byte := b ^^^ 1

/-- One step of a reflected CRC register over one bit. -/
def crcBitR (poly c : Nat) : Nat := if c % 2 = 1 then (c / 2) ^^^ poly else c / 2

def iterate {α : Type} (f : α → α) : Nat → α → α
  | 0, a => a
  | n + 1, a => iterate f n (f a)

/-- CRC-32 of IEEE 802.3: reflected polynomial 0xEDB8_8320, register preset to ones. -/
def crc32Reg (c : Nat) (bs : List Byte) : Nat :=
  bs.foldl (fun c b => iterate (crcBitR 0xEDB88320) 8 (c ^^^ b.toNat)) c

/-- CRC-32 of IEEE 802.3 (R445/16, R396/13, R226/07). -/
def crc32 (bs : List Byte) : Nat := crc32Reg 0xFFFFFFFF bs ^^^ 0xFFFFFFFF

/-- One bit of a most-significant-first CRC of width `w`. -/
def crcBitM (w poly c : Nat) (b : Bool) : Nat :=
  let top := bitOf c (w - 1) != b
  let c' := (2 * c) % 2 ^ w
  if top then c' ^^^ poly else c'

/-- A most-significant-first CRC over bytes. -/
def crcMsb (w poly init : Nat) (bs : List Byte) : Nat :=
  bs.foldl (fun c b => (byteBits b).foldl (crcBitM w poly) c) init

/-- The entry of a sparse table. -/
def tabGet {α : Type} (d : α) : Tab α → Nat → α
  | [], _ => d
  | (k', v) :: t, k => if k' = k then v else tabGet d t k

/-- Insert an entry in ascending order of keys. -/
def tabInsert {α : Type} (k : Nat) (v : α) : Tab α → Tab α
  | [] => [(k, v)]
  | (k', v') :: t => if k < k' then (k, v) :: (k', v') :: t else (k', v') :: tabInsert k v t

/-- Set an entry; an entry equal to the table's default is not listed. -/
def tabSet {α : Type} [DecidableEq α] (d : α) (t : Tab α) (k : Nat) (v : α) : Tab α :=
  let r := t.filter (fun e => e.1 != k)
  if v = d then r else tabInsert k v r

/-- Change an entry by a function. -/
def tabMod {α : Type} [DecidableEq α] (d : α) (t : Tab α) (k : Nat) (f : α → α) : Tab α :=
  tabSet d t k (f (tabGet d t k))

/-- The least of the `n` numbers from `lo` up that `p` accepts. -/
def firstFrom (p : Nat → Bool) : Nat → Nat → Option Nat
  | _, 0 => none
  | lo, n + 1 => if p lo then some lo else firstFrom p (lo + 1) n

/-- Replace entry `k` of a list. -/
def listSet {α : Type} (l : List α) (k : Nat) (v : α) : List α := l.set k v

/-- The list with every `x` removed. -/
def without (x : Nat) (l : List Nat) : List Nat := l.filter (fun y => y != x)

/-- The list with `x` present once, ascending. -/
def including (x : Nat) : List Nat → List Nat
  | [] => [x]
  | y :: l => if x = y then y :: l else if x < y then x :: y :: l else y :: including x l

/-- Ticks of the timecode: 2^-16 ns (R34/01). -/
def ticksNs (n : Nat) : Nat := 65536 * n
def ticksUs (n : Nat) : Nat := ticksNs (1000 * n)
def ticksMs (n : Nat) : Nat := ticksNs (1000000 * n)
def ticksSec (n : Nat) : Nat := ticksNs (1000000000 * n)

/-- Timecode seconds, nanoseconds and fraction of a tick count (R34/01). -/
def tcSec (t : Nat) : Nat := t / ticksSec 1
def tcNs (t : Nat) : Nat := t % ticksSec 1 / 65536
def tcFrac (t : Nat) : Nat := t % 65536

/-- The 12-byte timecode of events and responses (R63/02). -/
def tcBytes12 (t : Nat) : List Byte := natBE 6 (tcSec t) ++ natBE 4 (tcNs t) ++ natBE 2 (tcFrac t)

/-- The 10-byte cue time (R491/02). -/
def tcBytes10 (t : Nat) : List Byte := natBE 6 (tcSec t) ++ natBE 4 (tcNs t)

/-- A 10-byte cue time of a request in ticks; none where the nanoseconds hold 10^9 or more (R491/02). -/
def readTime10 (off : Nat) (bs : List Byte) : Option Nat :=
  if getU (off + 6) 4 bs < 1000000000 then some (ticksSec (getU off 6 bs) + ticksNs (getU (off + 6) 4 bs)) else none

/-- A 12-byte timecode of a request in ticks (R491/02). -/
def readTime12 (off : Nat) (bs : List Byte) : Option Nat :=
  (readTime10 off bs).map (· + getU (off + 10) 2 bs)

def max32 : Nat := 4294967295
def max64 : Nat := 18446744073709551615

/-- Addition that saturates at `m`. -/
def satAdd (m a b : Nat) : Nat := min m (a + b)

/-- Rounding division, halves away from zero. -/
def roundDiv (a b : Int) : Int :=
  if 0 ≤ a then (2 * a + b) / (2 * b) else -((2 * (-a) + b) / (2 * b))

/-- Rounding up. -/
def ceilDiv (a b : Nat) : Nat := (a + b - 1) / b

def clampInt (lo hi v : Int) : Int := if v < lo then lo else if hi < v then hi else v

end Sys2Proof.Machine
end

