-- ==== Sys2Proof/Machine/Ops.lean ====
section
/-! DEFINITION. Named operations over the state: tables, time, the state of ports and subcarriers, required rates and
margins, and the cue table. -/

namespace Sys2Proof.Machine

/-! Tables of the state: reading an entry, and changing one. -/

/-- Transmit state of a port. -/
def txPort (s : State) (k : Nat) : TxPort := tabGet {} s.txp k

def onTxPort (k : Nat) (f : TxPort → TxPort) (s : State) : State := { s with txp := tabMod {} s.txp k f }

/-- Transmit state of a subcarrier. -/
def txSc (s : State) (k : Nat) : TxSc := tabGet {} s.txs k

def onTxSc (k : Nat) (f : TxSc → TxSc) (s : State) : State := { s with txs := tabMod {} s.txs k f }

/-- Receive state of a port. -/
def rxPort (s : State) (k : Nat) : RxPort := tabGet {} s.rxp k

def onRxPort (k : Nat) (f : RxPort → RxPort) (s : State) : State := { s with rxp := tabMod {} s.rxp k f }

/-- Receive state of a subcarrier. -/
def rxSc (s : State) (k : Nat) : RxSc := tabGet {} s.rxs k

def onRxSc (k : Nat) (f : RxSc → RxSc) (s : State) : State := { s with rxs := tabMod {} s.rxs k f }

/-- FEC of a port. -/
def fecPort (s : State) (k : Nat) : FecPort := tabGet {} s.fecp k

def onFecPort (k : Nat) (f : FecPort → FecPort) (s : State) : State := { s with fecp := tabMod {} s.fecp k f }

/-- FEC statistics of a subcarrier. -/
def fecSc (s : State) (k : Nat) : FecSc := tabGet {} s.fecs k

def onFecSc (k : Nat) (f : FecSc → FecSc) (s : State) : State := { s with fecs := tabMod {} s.fecs k f }

/-- Transmit framer of a subcarrier. -/
def txFrame (s : State) (k : Nat) : TxFrame := tabGet {} s.frame.tx k

def onTxFrame (k : Nat) (f : TxFrame → TxFrame) (s : State) : State :=
  { s with frame := { s.frame with tx := tabMod {} s.frame.tx k f } }

/-- Receive framer of a subcarrier. -/
def rxFramer (s : State) (k : Nat) : RxFramer := tabGet {} s.frame.rx k

def onRxFramer (k : Nat) (f : RxFramer → RxFramer) (s : State) : State :=
  { s with frame := { s.frame with rx := tabMod {} s.frame.rx k f } }

/-- Framer state of a port. -/
def frPort (s : State) (k : Nat) : FrPort := tabGet {} s.frame.port k

def onFrPort (k : Nat) (f : FrPort → FrPort) (s : State) : State :=
  { s with frame := { s.frame with port := tabMod {} s.frame.port k f } }

/-- PM of an object. -/
def pmObj (s : State) (k : Nat) : PmObj := tabGet {} s.frame.pm k

def onPmObj (k : Nat) (f : PmObj → PmObj) (s : State) : State :=
  { s with frame := { s.frame with pm := tabMod {} s.frame.pm k f } }

/-- Integration of a defect. -/
def defSt (s : State) (k : Nat) : DefSt := tabGet {} s.frame.defects k

def onDefSt (k : Nat) (f : DefSt → DefSt) (s : State) : State :=
  { s with frame := { s.frame with defects := tabMod {} s.frame.defects k f } }

/-- Casting channel and role of a port. -/
def hubPort (s : State) (k : Nat) : HubPort := tabGet {} s.hub k

def onHubPort (k : Nat) (f : HubPort → HubPort) (s : State) : State := { s with hub := tabMod {} s.hub k f }

/-- A host lane, or a pair lane from 96 up. -/
def laneOf (s : State) (k : Nat) : Lane := tabGet {} s.lane k

def onLaneOf (k : Nat) (f : Lane → Lane) (s : State) : State := { s with lane := tabMod {} s.lane k f }

/-- A host port. -/
def hostPort (s : State) (k : Nat) : HPort := tabGet {} s.hport k

def onHostPort (k : Nat) (f : HPort → HPort) (s : State) : State := { s with hport := tabMod {} s.hport k f }

/-- A tributary. -/
def tribOf (s : State) (k : Nat) : Trib := tabGet {} s.svc.trib k

def onTribOf (k : Nat) (f : Trib → Trib) (s : State) : State :=
  { s with svc := { s.svc with trib := tabMod {} s.svc.trib k f } }

/-- Owners of slot 40 x SC + slot. -/
def slotOwner (s : State) (k : Nat) : SlotOwner := tabGet {} s.svc.slot k

def onSlotOwner (k : Nat) (f : SlotOwner → SlotOwner) (s : State) : State :=
  { s with svc := { s.svc with slot := tabMod {} s.svc.slot k f } }

/-- A security context. -/
def ctxOf (s : State) (k : Nat) : Ctx := tabGet {} s.cipher.ctx k

def onCtxOf (k : Nat) (f : Ctx → Ctx) (s : State) : State :=
  { s with cipher := { s.cipher with ctx := tabMod {} s.cipher.ctx k f } }

/-- A sandglass. -/
def sandOf (s : State) (k : Nat) : Sand := tabGet {} s.bulk.sand k

def onSandOf (k : Nat) (f : Sand → Sand) (s : State) : State :=
  { s with bulk := { s.bulk with sand := tabMod {} s.bulk.sand k f } }

/-- A pace unit. -/
def paceUnit (s : State) (k : Nat) : PaceUnit := tabGet {} s.pace k

def onPaceUnit (k : Nat) (f : PaceUnit → PaceUnit) (s : State) : State := { s with pace := tabMod {} s.pace k f }

/-- A cue core. -/
def coreOf (s : State) (k : Nat) : Core := tabGet {} s.flt.core k

def onCoreOf (k : Nat) (f : Core → Core) (s : State) : State :=
  { s with flt := { s.flt with core := tabMod {} s.flt.core k f } }

/-- Fault record of unit 65536 x type + index. -/
def unitRec (s : State) (k : Nat) : UnitRec := tabGet {} s.flt.unit k

def onUnitRec (k : Nat) (f : UnitRec → UnitRec) (s : State) : State :=
  { s with flt := { s.flt with unit := tabMod {} s.flt.unit k f } }

/-- Policy of a unit type. -/
def policyOf (s : State) (k : Nat) : Policy := tabGet {} s.flt.policy k

def onPolicyOf (k : Nat) (f : Policy → Policy) (s : State) : State :=
  { s with flt := { s.flt with policy := tabMod {} s.flt.policy k f } }

/-- An injection point. -/
def injOf (s : State) (k : Nat) : Inject := tabGet {} s.flt.inj k

def onInjOf (k : Nat) (f : Inject → Inject) (s : State) : State :=
  { s with flt := { s.flt with inj := tabMod {} s.flt.inj k f } }

/-- A reference candidate. -/
def candOf (s : State) (k : Nat) : Cand := tabGet {} s.timing.cand k

def onCandOf (k : Nat) (f : Cand → Cand) (s : State) : State :=
  { s with timing := { s.timing with cand := tabMod {} s.timing.cand k f } }

/-- Line time transfer of a port. -/
def transferOf (s : State) (k : Nat) : Transfer := tabGet {} s.timing.transfer k

def onTransferOf (k : Nat) (f : Transfer → Transfer) (s : State) : State :=
  { s with timing := { s.timing with transfer := tabMod {} s.timing.transfer k f } }

/-- A monitor converter. -/
def convOf (s : State) (k : Nat) : Conv := tabGet {} s.mon.conv k

def onConvOf (k : Nat) (f : Conv → Conv) (s : State) : State :=
  { s with mon := { s.mon with conv := tabMod {} s.mon.conv k f } }

/-- Stored value of a monitor channel. -/
def chanVal (s : State) (k : Nat) : ChanVal := tabGet {} s.mon.chan k

def onChanVal (k : Nat) (f : ChanVal → ChanVal) (s : State) : State :=
  { s with mon := { s.mon with chan := tabMod {} s.mon.chan k f } }

/-- A die, by monitor channel. -/
def dieOf (s : State) (k : Nat) : Die := tabGet {} s.therm.die k

def onDieOf (k : Nat) (f : Die → Die) (s : State) : State :=
  { s with therm := { s.therm with die := tabMod {} s.therm.die k f } }

/-- A calibrated value. -/
def calVal (s : State) (k : Nat) : CalVal := tabGet {} s.therm.cal k

def onCalVal (k : Nat) (f : CalVal → CalVal) (s : State) : State :=
  { s with therm := { s.therm with cal := tabMod {} s.therm.cal k f } }

/-- A usage-limit profile. -/
def limitsOf (s : State) (k : Nat) : Limits := tabGet {} s.cipher.limits k

def onLimitsOf (k : Nat) (f : Limits → Limits) (s : State) : State :=
  { s with cipher := { s.cipher with limits := tabMod {} s.cipher.limits k f } }

/-- An admission profile. -/
def profileOf (s : State) (k : Nat) : Profile := tabGet {} s.svc.profiles k

def onProfileOf (k : Nat) (f : Profile → Profile) (s : State) : State :=
  { s with svc := { s.svc with profiles := tabMod {} s.svc.profiles k f } }

/-- A FIFO crossing. -/
def fifoOf (s : State) (k : Nat) : FifoSt := tabGet {} s.cross.fifo k

def onFifoOf (k : Nat) (f : FifoSt → FifoSt) (s : State) : State :=
  { s with cross := { s.cross with fifo := tabMod {} s.cross.fifo k f } }

/-- A merged-event crossing. -/
def mergedOf (s : State) (k : Nat) : MergedSt := tabGet {} s.cross.merged k

def onMergedOf (k : Nat) (f : MergedSt → MergedSt) (s : State) : State :=
  { s with cross := { s.cross with merged := tabMod {} s.cross.merged k f } }

/-- A hold-and-flag crossing. -/
def holdOf (s : State) (k : Nat) : HoldSt := tabGet {} s.cross.hold k

def onHoldOf (k : Nat) (f : HoldSt → HoldSt) (s : State) : State :=
  { s with cross := { s.cross with hold := tabMod {} s.cross.hold k f } }

/-! Parts of the state: changing one. -/

def onCtrl (f : Ctrl → Ctrl) (s : State) : State := { s with ctrl := f s.ctrl }

def onEv (f : EvSt → EvSt) (s : State) : State := { s with ev := f s.ev }

def onFw (f : Fw → Fw) (s : State) : State := { s with fw := f s.fw }

def onPower (f : PowerSt → PowerSt) (s : State) : State := { s with power := f s.power }

def onCross (f : Crossings → Crossings) (s : State) : State := { s with cross := f s.cross }

def onFrameSt (f : FrameSt → FrameSt) (s : State) : State := { s with frame := f s.frame }

def onSvc (f : Service → Service) (s : State) : State := { s with svc := f s.svc }

def onCipher (f : Cipher → Cipher) (s : State) : State := { s with cipher := f s.cipher }

def onBulk (f : Bulk → Bulk) (s : State) : State := { s with bulk := f s.bulk }

def onTiming (f : Timing → Timing) (s : State) : State := { s with timing := f s.timing }

def onCues (f : Cues → Cues) (s : State) : State := { s with cues := f s.cues }

def onPair (f : Pair → Pair) (s : State) : State := { s with pair := f s.pair }

def onMon (f : Monitor → Monitor) (s : State) : State := { s with mon := f s.mon }

def onTherm (f : Thermal → Thermal) (s : State) : State := { s with therm := f s.therm }

def onFlt (f : Faults → Faults) (s : State) : State := { s with flt := f s.flt }

def onLog (f : LogSt → LogSt) (s : State) : State := { s with log := f s.log }

def onTracer (f : Tracer → Tracer) (s : State) : State := { s with tracer := f s.tracer }

/-! Outcomes. -/

abbrev Res := Host.Outcome State Fault Refusal

/-- The next state where the operand names an object the module has; a fault otherwise (00_scope.md, Identifiers). -/
def need (kind : String) (ok : Bool) (t : State) : Res := if ok then .next t else .fault (.noSuchObject kind)

def okPort (p : Nat) : Bool := p < 6
def okSc (sc : Nat) : Bool := sc < 96
def okLane (l : Nat) : Bool := l < 96
def okPairLane (l : Nat) : Bool := l < 4
def okTrib (t : Nat) : Bool := t < 3840
def okCtx (c : Nat) : Bool := c < 40960
def okMb (m : Nat) : Bool := m < 8
def okCand (c : Nat) : Bool := c < 13
def okConv (n : Nat) : Bool := n < 4
def okCore (c : Nat) : Bool := c < 4
def okUnit (u : Nat) : Bool := u < 48
def okLeaf (n : Nat) : Bool := n < 16
def okVec (v : Nat) : Bool := v < 32
def okCue (i : Nat) : Bool := i < 4096
def okSand (g : Nat) : Bool := g < 71
def okPc (g : Nat) : Bool := g < 64
def okAdc (a : Nat) : Bool := a < 4
def okSlice (a : Nat) : Bool := a < 66
def okDir (d : Nat) : Bool := d < 2
def okCw (c : Nat) : Bool := c < 4
def okCh (c : Nat) : Bool := c < 64
def okSlot (k : Nat) : Bool := k < 40
/-- The index of a die-to-die lane: 256 x link + 128 x direction + lane 0-65 (R435/16). -/
def okD2d (i : Nat) : Bool := i / 256 < 3 && i % 128 < 66

def okStream : Stream → Bool
  | .adcToCore p | .coreToDac p => okPort p
  | .hostRx l | .hostTx l => okLane l
  | .pairRx l | .pairTx l => okPairLane l

def okSmall : Small → Bool
  | .monitor n => okConv n
  | .management | .eventIngress | .keyChannel | .timestamp => true

def okMerged : Merged → Bool
  | .adcOverload p a | .dacClip p a => okPort p && okAdc a
  | .rsSymbols l => okLane l
  | .pairSymbols l => okPairLane l

def okHold : Hold → Bool
  | .sliceTrims p | .dacTrims p => okPort p
  | .laneTaps l => okLane l
  | .monSettings n => okConv n
  | .timecode | .loopSettings | .leaseFrame | .heartbeat | .i2cIn | .i2cOut => true

def okFifo : Fifo → Bool
  | .stream x => okStream x
  | .small x => okSmall x
  | .bulkPhy s _ => s < 4
  | .pcie _ => true

/-- The objects a record names exist. -/
def okDecision : HubDecision → Bool
  | .numberEnds n | .silent n | .average n _ _ => decide (n < 16)
  | _ => true

def okRecord : MirrorRecord → Bool
  | .cuePlace i kind _ _ _ _ => okCue i && decide (1 ≤ kind) && decide (kind ≤ 8)
  | .cueCancel i => okCue i
  | .hub p _ d => okPort p && okDecision d
  | .label n _ | .counters n _ _ _ _ => decide (n < 5242880)
  | .protection sc _ => okSc sc
  | .ltune p _ | .versions p _ => okPort p
  | .admission t _ => okTrib t
  | .pmBins kind obj _ _ => decide (obj < (if kind = 0 then 96 else 3840))
  | _ => true

/-- The item has such an object; unused bytes are zero (cal.read, R434/15). -/
def calAddrOk (item obj sub slice : Nat) : Bool :=
  match item with
  | 1 => decide (obj < 64) && sub == 0 && slice == 0
  | 2 | 3 => okPort obj && sub == 0 && slice == 0
  | 4 => okPort obj && decide (sub < 4) && slice == 0
  | 5 | 6 => okPort obj && decide (sub < 2) && slice == 0
  | 7 => okPort obj && okAdc sub && okSlice slice
  | 8 => obj == 0 && sub == 0 && slice == 0
  | _ => false

/-- The injection points of R443/16 and R175/05; every other is reserved. -/
def pointExists (pt : Nat) : Bool :=
  decide (pt < 0x036)
    || (decide (0x060 ≤ pt) && decide (pt < 0x07E)) || (decide (0x080 ≤ pt) && decide (pt < 0x08C))
    || (decide (0x0A0 ≤ pt) && decide (pt < 0x0A5)) || (decide (0x0C0 ≤ pt) && decide (pt < 0x0C3))
    || (decide (0x0E0 ≤ pt) && decide (pt < 0x0E6)) || (decide (0x100 ≤ pt) && decide (pt < 0x105))
    || (decide (0x140 ≤ pt) && decide (pt < 0x144)) || (decide (0x160 ≤ pt) && decide (pt < 0x164))
    || (decide (0x180 ≤ pt) && decide (pt < 0x189)) || (decide (0x1A0 ≤ pt) && decide (pt < 0x1A4))
    || pt == 0x1C0 || pt == 0x1C1 || pt == 0x1E0 || pt == 0x1E1

/-! Addresses (R325, R326, R329/11). A bulk address is below 2^40; 2^40 times a sandglass index 64 to 70 plus a word index
names a word of an on-chip memory. -/

def bulkEnd : Nat := 32338345984
def onChipBase : Nat := 2 ^ 40

/-- Words of the on-chip memories 64 to 70 (R329/11). -/
def onChipWords (g : Nat) : Nat :=
  match g with
  | 64 => 12582912 | 65 => 524288 | 66 => 1048576 | 67 => 655360 | 68 => 131072 | 69 => 262144 | 70 => 524288 | _ => 0

def isOnChip (addr : Nat) : Bool := decide (onChipBase ≤ addr)

/-- The address names a word the module has. -/
def okAddr (addr : Nat) : Bool := decide (addr < bulkEnd) || decide (addr % onChipBase < onChipWords (addr / onChipBase))

/-- A BAR0 offset: an aligned word of the 64 KiB (R44, R48/02). -/
def okOffset (o : Nat) : Bool := o < 65536 && o % 4 == 0

/-- `f` where `c` holds, the state unchanged otherwise. -/
def onlyIf (c : Bool) (f : State → State) (s : State) : State := if c then f s else s

/-- Apply `f` for every element, in order. -/
def forAll {α : Type} (f : α → State → State) : List α → State → State
  | [], s => s
  | a :: l, s => forAll f l (f a s)

/-- A free value, and the counter advanced past it (notes/assumptions/3.md). -/
def freeNat (s : State) : Nat := Config.freeValue s.free

def useFree (s : State) : State := { s with free := s.free + 1 }

/-- `n` free values in a row. -/
def freeList (n : Nat) (s : State) : List Nat := (List.range n).map (fun k => Config.freeValue (s.free + k))

def useFrees (n : Nat) (s : State) : State := { s with free := s.free + n }

/-- A free choice below `n`, where the spec does not say which object is meant. -/
def freeBelow (n : Nat) (s : State) : Nat := freeNat s % n

/-! Valid bits of on-chip words (R330/11), by block of eight words of 64 bits. -/

/-- `n` blocks of memory `g`, from block `k` up, are written. -/
def chipPut (g k n : Nat) (s : State) : State :=
  onBulk (fun b => { b with
    chip := (List.range n).foldl (fun t i => tabSet false t (onChipBase * g / 8 + k + i) true) b.chip }) s

/-- `n` cells of the tributary queue memory are written; which of its 393,216 cells they are is a free value (R288/09). -/
def queueCells (n : Nat) (s : State) : State :=
  forAll (fun _ s => useFree (chipPut 64 (4 * freeBelow 393216 s) 4 s)) (List.range n) s

/-! Time (R34/01). -/

def now (s : State) : Nat := s.timing.tc

/-- Time since power-on or RESET_N. -/
def upTime (s : State) : Nat := s.timing.up

/-- The timecode reaches `at_`; time does not run backward. -/
def clockTo (at_ : Nat) (s : State) : State :=
  { s with timing := { s.timing with tc := max s.timing.tc at_, up := s.timing.up + (at_ - s.timing.tc) } }

/-- Run `f` as of the instant `t`; the own timecode goes on unless `f` stepped it. -/
def atInstant (t : Nat) (f : State → State) (s : State) : State :=
  let u := f { s with timing := { s.timing with tc := t } }
  if u.timing.tc = t then { u with timing := { u.timing with tc := s.timing.tc } } else u

/-- Ticks of a common boundary: 537,600 ns (R96/03). -/
def boundaryTicks : Nat := ticksNs 537600

/-- The first instant of a grid of period `p` ticks at or after `t`. -/
def gridAfter (p t : Nat) : Nat := ceilDiv t p * p

/-- The first common boundary at or after `t` (R96, R97/03). -/
def boundaryAfter (t : Nat) : Nat := gridAfter boundaryTicks t

/-- The number of the first CD block boundary at or after `t`: nanoseconds times 3 a multiple of 1,408 (R120/04). -/
def blockAfter (t : Nat) : Nat := ceilDiv (3 * t) (1408 * 65536)

/-- The instant of CD block `b`, in ticks, rounded down to the tick. -/
def blockTime (b : Nat) : Nat := 1408 * 65536 * b / 3

/-- Ticks of a frame of class Fk: 2,100 / k ns (R2/00). -/
def frameTicks (k : Nat) : Nat := ticksNs 2100 / k

/-! What the state says of ports and subcarriers. -/

def scPort (sc : Nat) : Nat := sc / 16
def scIdx (sc : Nat) : Nat := sc % 16
def portScs (p : Nat) : List Nat := (List.range 16).map (16 * p + ·)

/-- The port's transmitter is starting or on (R28/01). -/
def transmitting (s : State) (p : Nat) : Bool := (txPort s p).tx == .starting || (txPort s p).tx == .on

/-- The port's receiver is enabled. -/
def receiving (s : State) (p : Nat) : Bool := (rxPort s p).st != .off

/-- The present transmit class: 0 dark, 2-6 (R97/03); out of service is dark (R438/16). -/
def txClass (s : State) (sc : Nat) : Nat :=
  if (rxSc s sc).oos then 0 else (txPort s (scPort sc)).classes.getD (scIdx sc) 0

/-- The class a subcarrier receives: the far end's, or the forced one (R112/04). On a hub or leaf a subcarrier that no grant lights is
dark in both directions (R216/07). -/
def rxClass (s : State) (sc : Nat) : Nat :=
  let x := rxSc s sc
  if x.oos || ((hubPort s (scPort sc)).role != .p2p && x.far == 0) then 0
  else if x.cfg = 0 then x.far else if x.cfg = 1 then 0 else x.cfg

/-- A lit subcarrier that transmits: its port's transmitter starting or on (R28/01). -/
def txLit (s : State) (sc : Nat) : Bool := transmitting s (scPort sc) && txClass s sc ≥ 2

/-- A lit receive subcarrier of an enabled receiver. -/
def rxLit (s : State) (sc : Nat) : Bool := receiving s (scPort sc) && rxClass s sc ≥ 2

/-- A port is lit while either direction is on (R43/01, R468/18: dark is both directions off). -/
def portLit (s : State) (p : Nat) : Bool := transmitting s p || receiving s p

def allScs : List Nat := List.range 96
def allPorts : List Nat := List.range 6

/-- Sum of the class numbers of lit subcarriers: frames per 2,100 ns. -/
def txFrames (s : State) (scs : List Nat) : Nat :=
  (scs.map (fun sc => if txLit s sc then txClass s sc else 0)).sum

def rxFrames (s : State) (scs : List Nat) : Nat :=
  (scs.map (fun sc => if rxLit s sc then rxClass s sc else 0)).sum

def rxLitCount (s : State) (scs : List Nat) : Nat := (scs.filter (rxLit s)).length

/-- A port is a follower: in leaf role, or point-to-point with the follower role set (R143/04). -/
def isFollower (s : State) (p : Nat) : Bool :=
  match (hubPort s p).role with
  | .leaf => true
  | .hub => false
  | .p2p => (rxPort s p).follower

/-! Required rates and margins (R27, R28/01, R452/17). -/

/-- ACTIVE host lanes. -/
def activeLanes (s : State) : Nat :=
  (s.lane.filter (fun e => e.1 < 96 && e.2.st == .active)).length

def anyCurrentKey (s : State) : Bool := s.cipher.ctx.any (fun e => e.2.cur.isSome)

/-- Active pseudo-channels: those not retired (R345/11). -/
def activePcs (s : State) : Nat := 64 - (s.bulk.pcs.filter (fun e => e.1 < 64 && e.2 == .retired)).length

/-- The required rate of a pace unit in tokens per 21 ms (R452/17); zero where none of its objects is active. -/
def requiredUnits (s : State) (u : Nat) : Nat :=
  if u < 36 then
    let scs := portScs (u / 6)
    match u % 6 with
    | 0 => if receiving s (u / 6) then 126000000 else 0
    | 1 => 462000000 * rxLitCount s scs
    | 2 => 40000 * rxFrames s scs
    | 3 => 10000 * rxFrames s scs
    | 4 => 10000 * txFrames s scs
    | _ => if transmitting s (u / 6) then 126000000 else 0
  else match u with
    | 36 | 43 => 65625000 * activeLanes s
    | 37 => 5965890 * activeLanes s
    | 38 => 11931780 * activeLanes s
    | 39 => if anyCurrentKey s then 32812500 * activeLanes s else 0
    | 40 => 5775000 * rxFrames s allScs
    | 41 => 400000 * txFrames s allScs
    | 42 => 400000 * rxFrames s allScs
    | 44 => 34742400 * activePcs s
    | 45 => 336000000
    | 46 => 21000
    | 47 => 646170
    | _ => 0

/-- The required rate in thousands of tokens per second (perf.read, 17). -/
def requiredRate (s : State) (u : Nat) : Nat := (2 * requiredUnits s u + 21) / 42

/-- The budget values in effect (R170/05). -/
def nEff (f : FecPort) : Nat := min f.n f.k
def cEff (f : FecPort) : Nat := min f.c f.k

/-- What one token of a unit costs in the units of its measured rate: a codeword of PU(6p+2) costs N_eff iterations, so that its
achievable rate is computed at N_eff (R170/05); any other token costs itself. -/
def tokenCost (s : State) (u : Nat) : Nat := if u < 36 ∧ u % 6 = 2 then max 1 (nEff (fecPort s (u / 6))) else 1

/-- The pace margin of a unit, achievable over required minus one, in 0.1 % as the quotient of a pair (R27/01); none where its
required rate is zero or no rate has been measured. A forced reading of point 0x1C0 stands in its place (R443/16). Every
limit is compared with this exact quotient. -/
def exactMargin (s : State) (u : Nat) : Option (Int × Nat) :=
  if requiredUnits s u = 0 then none
  else match (paceUnit s u).forced with
    | some m => some (m, 1)
    | none => (paceUnit s u).ach.map (fun a =>
        (1000 * (21 * (a : Int) - (requiredUnits s u * tokenCost s u : Nat)), requiredUnits s u * tokenCost s u))

/-- The margin lies below `t`, in 0.1 %. -/
def marginBelow (m : Int × Nat) (t : Int) : Bool := decide (m.1 < t * (m.2 : Int))

/-- The margin lies above `t`, in 0.1 %. -/
def marginAbove (m : Int × Nat) (t : Int) : Bool := decide (t * (m.2 : Int) < m.1)

/-- A margin as a field of 0.1 % shows it: to the nearest, halves away from zero (notes/assumptions/51.md). -/
def shownMargin (m : Int × Nat) : Int := roundDiv m.1 m.2

/-- The pace margin of a unit as a field shows it. -/
def margin (s : State) (u : Nat) : Option Int := (exactMargin s u).map shownMargin

/-- A margin as a signed 16-bit field shows it. -/
def marginField (m : Int) : Int := if -32768 ≤ m ∧ m ≤ 32767 then m else Config.wideMargin m

/-- The unit with the lowest margin of `us`, and that margin; of equal ones the first. -/
def lowestOf (s : State) : List Nat → Option (Nat × Int × Nat)
  | [] => none
  | u :: us =>
    match exactMargin s u, lowestOf s us with
    | none, r => r
    | some m, none => some (u, m)
    | some m, some (v, n) => if n.1 * (m.2 : Int) < m.1 * (n.2 : Int) then some (v, n) else some (u, m)

/-- The lowest margin of all units and its unit, as fields show them; while no unit has a margin, what PACE_MIN holds after
reset: unit 0 and 0 (R48/02; notes/assumptions/51.md). -/
def lowestMargin (s : State) : Nat × Int :=
  ((lowestOf s (List.range 48)).map (fun m => (m.1, shownMargin m.2))).getD (0, 0)

/-- The die channels that have a stored value (R408/14). -/
def storedDies (s : State) : List Nat :=
  ((List.range 14).map (34 + ·)).filter (fun k => decide (chanVal s k ≠ {}))

/-- The hottest die: its monitor channel and latest value (R48/02, R408/14); before the first value, what TEMP_MAX holds
after reset: channel 0 and 0 (R48/02; notes/assumptions/51.md). -/
def hottest (s : State) : Nat × Int :=
  match storedDies s with
  | [] => (0, 0)
  | k :: ks => ks.foldl (fun b k =>
      if b.2 < (chanVal s k).value then (k, (chanVal s k).value) else b) (k, (chanVal s k).value)

/-! Counters of pace units and cue cores (R455/17): 64 bits, never saturating. -/

/-- Add `n` to every programmable counter whose event is `ev`. -/
def bumpCounters (evn : Tab Nat) (ev n : Nat) (ctr : Tab Nat) : Tab Nat :=
  evn.foldl (fun c e => if e.2 = ev then tabSet 0 c e.1 ((tabGet 0 c e.1 + n) % 2 ^ 64) else c) ctr

/-- A pace unit counts `n` of event `ev`. -/
def paceEvent (u ev n : Nat) (s : State) : State :=
  onPaceUnit u (fun x => { x with ctr := bumpCounters x.evn ev n x.ctr }) s

/-- A pace unit accepts a token and passes it. -/
def paceToken (u : Nat) (s : State) : State :=
  onPaceUnit u (fun x => { x with tokens := (x.tokens + 1) % 2 ^ 64, ctr := bumpCounters x.evn 1 1 x.ctr }) s

/-- A cue core counts one of event `ev`. -/
def coreEvent (c ev : Nat) (s : State) : State :=
  onCoreOf c (fun x => { x with ctr := bumpCounters x.evn ev 1 x.ctr }) s

/-! Keys of the crossings (R16/01). -/

def streamKey : Stream → Nat
  | .adcToCore p => p
  | .coreToDac p => 6 + p
  | .hostRx l => 12 + l
  | .hostTx l => 108 + l
  | .pairRx l => 204 + l
  | .pairTx l => 208 + l

def smallKey : Small → Nat
  | .monitor n => 212 + n
  | .management => 216
  | .eventIngress => 217
  | .keyChannel => 218
  | .timestamp => 219

def fifoKey : Fifo → Nat
  | .stream x => streamKey x
  | .small x => smallKey x
  | .bulkPhy k out => 220 + 2 * k + b2n out
  | .pcie out => 228 + b2n out

/-- A read of the management or event-ingress FIFO makes room: its full flag falls (R19). -/
def readSmall (x : Small) (s : State) : State := onFifoOf (smallKey x) (fun f => { f with full := false }) s

/-! Cues (R370 to R373/12). -/

def cueAt (s : State) (i : Nat) : Cue :=
  if i = 0 then s.cues.pm15 else if i = 1 then s.cues.pm24 else tabGet {} s.cues.table i

def setCue (i : Nat) (c : Cue) (s : State) : State :=
  { s with cues := { s.cues with
      pm15 := if i = 0 then c else s.cues.pm15
      pm24 := if i = 1 then c else s.cues.pm24
      table := if 2 ≤ i then tabSet {} s.cues.table i c else s.cues.table } }

/-- The lowest free index of the shared region, entries 2 to 3,071 (R370/12). -/
def freeShared (s : State) : Option Nat := firstFrom (fun i => (cueAt s i).state == 0) 2 3070

/-- The lowest free index of the own region, entries 3,072 to 4,095 (R370/12). -/
def freeOwn (s : State) : Option Nat := firstFrom (fun i => (cueAt s i).state == 0) 3072 1024

def clearCue (i : Nat) (s : State) : State := setCue i {} s

/-- The first pending cue of a kind and object. -/
def findCue (s : State) (kind obj : Nat) : Option Nat :=
  (s.cues.table.find? (fun e => e.2.state != 0 && e.2.kind == kind && e.2.obj == obj)).map (·.1)

/-- The entry that holds the far end's announced change of a port at a boundary (R375/12). -/
def farCue (s : State) (p b : Nat) : Option Nat :=
  (s.cues.table.find? (fun e =>
    e.2.state != 0 && e.2.kind == 1 && e.2.origin == 3 && e.2.obj == p && e.2.time == b)).map (·.1)

def clearFarCue (p b : Nat) (s : State) : State :=
  match farCue s p b with
  | some i => clearCue i s
  | none => s

/-- The cue a row names is due at `at_`: it is pending, of the kind, and its time has come. -/
def cueDue (s : State) (i kind at_ : Nat) : Bool :=
  (cueAt s i).state != 0 && (cueAt s i).kind == kind && (cueAt s i).time ≤ at_

/-- No cue of a lower index waits for the same unit at this boundary: two cues of one unit take effect in ascending index
(R36/01). `same` tells which cues name the unit of cue `i`. -/
def firstDue (s : State) (i at_ : Nat) (same : Cue → Bool) : Bool :=
  let waits (j : Nat) (c : Cue) : Bool :=
    decide (j < i) && c.state != 0 && c.kind == (cueAt s i).kind && same c && decide (c.time ≤ at_)
  !waits 0 s.cues.pm15 && !waits 1 s.cues.pm24 && !s.cues.table.any (fun e => waits e.1 e.2)

/-- Cues of the same object. -/
def sameObj (s : State) (i : Nat) (c : Cue) : Bool := c.obj == (cueAt s i).obj

/-! Pulse-to-toggle crossings (R16, R20/01). -/

def holdKey : Hold → Nat
  | .sliceTrims p => p
  | .dacTrims p => 6 + p
  | .laneTaps l => 12 + l
  | .monSettings n => 108 + n
  | .timecode => 112
  | .loopSettings => 113
  | .leaseFrame => 114
  | .heartbeat => 115
  | .i2cIn => 116
  | .i2cOut => 117

/-- A new value starts a transfer, or goes into the pending register; one that overwrites it is counted (R22/01). The width of the
overwrite counter is open: it saturates at 2^32 - 1 (DESIGN CHOICE, notes/assumptions/51.md). -/
def holdValue (x : Hold) (v : Nat) (s : State) : State :=
  onHoldOf (holdKey x) (fun h =>
    match h.inFlight with
    | none => { h with inFlight := some v }
    | some _ => { h with
        pending := some v, overwrites := if h.pending.isSome then satAdd max32 h.overwrites 1 else h.overwrites }) s

/-- A source pulse: the level toggles, and the destination records one pulse for the change. -/
def pulse (t : ToggleSt) : ToggleSt := { level := !t.level, pulses := t.pulses + 1 }

/-- The core arms the timing island for a cue; the island strobes the core when a cue is due. -/
def pulseArm (s : State) : State := onCues (fun c => { c with arm := pulse c.arm }) s
def pulseStrobe (s : State) : State := onCues (fun c => { c with strobe := pulse c.strobe }) s

/-- Place a cue in an entry of the table: the entry is written and the timing island armed for it. The shared cues of a stand-in are the
lead's (R377/12). -/
def placeCue (i : Nat) (c : Cue) (s : State) : State :=
  pulseArm (setCue i { c with
    origin := if s.pair.role == 2 && decide (2 ≤ i) && decide (i < 3072) then 2 else c.origin } s)

/-! Pair role (R383/13). -/

def isSingle (s : State) : Bool := s.pair.role == 0
def isLead (s : State) : Bool := s.pair.role == 1
def isStandIn (s : State) : Bool := s.pair.role == 2

/-- The tributaries with settings or slots. -/
def tribKeys (s : State) : List Nat :=
  (s.svc.trib.map (·.1) ++ s.svc.slot.flatMap (fun e => [e.2.tx, e.2.rx])).dedup.filter (fun t => decide (t < 3840))

/-- The module has its rails, is not held in reset and is not on its power-fail path: the threshold detectors and the lease
interface, which are no work of the control firmware, run in every stage. -/
def awake (s : State) : Bool := s.power.powered && s.power.phase == .good && !s.power.resetHeld

/-- The datapath runs: the firmware is ready or restarting. -/
def running (s : State) : Bool := s.ctrl.stage == .ready || s.ctrl.stage == .restart

/-- The timing island works: with the datapath, and in the latched shutdown, which leaves it powered (R425/15). -/
def timingRuns (s : State) : Bool := running s || s.ctrl.stage == .shutdown

end Sys2Proof.Machine
end

