-- ==== Sys2Proof/WellFormed.lean ====
section
/-! DEFINITION. Well-formed commands: every object and address an operand names is one
the module has (00_scope.md, Identifiers). A command is well-formed exactly where its meaning answers a next state. -/

namespace Sys2Proof

open Machine in
/-- The operands of a command name objects of the module. -/
def Instr.wf : Instr → Bool
  | .registerWrite (.pcie off _) => okOffset off
  | .registerWrite (.i2c addr off _) => decide (addr < 128) && decide (off < 65536)
  | .doorbellWrite _ _ => true
  | .mbOwnerWrite _ _ => true
  | .mb7OwnerTimeout => true
  | .intStatusClear _ _ => true
  | .evrEnable => true
  | .evrDisable => true
  | .evrTailWrite _ => true
  | .tcSecLoRead _ => true
  | .keyStageWrite off _ => okOffset off
  | .keyInstall _ => true
  | .keyClear => true
  | .keyInstallDone => true
  | .keyStageTimeout => true
  | .bar2Write _ _ => true
  | .unknownOpcode mb => okMb mb
  | .sysIdentify mb => okMb mb
  | .sysStatus mb => okMb mb
  | .sysReset mb => okMb mb
  | .sysResetDelayEnd _ => true
  | .sysQuiet mb _ => okMb mb
  | .sysEvmask mb => okMb mb
  | .sysEcho mb => okMb mb
  | .fwInfo mb => okMb mb
  | .fwBegin mb => okMb mb
  | .fwWrite mb => okMb mb
  | .fwVerify mb => okMb mb
  | .fwActivate mb _ => okMb mb
  | .fwActivateDone _ => true
  | .fwRestart mb => okMb mb
  | .warmRestartStart => true
  | .warmRestartDone => true
  | .vinRiseUvlo _ _ _ => true
  | .softStartAbort _ => true
  | .railsInRegulation => true
  | .bootThermalWait => true
  | .bootImageCheck _ => true
  | .bootLoadDone => true
  | .bootReady _ => true
  | .bootWatchdog => true
  | .resetNAssert _ => true
  | .resetNRelease _ => true
  | .powerFailDetect _ => true
  | .powerFailPathEnd _ _ _ => true
  | .ovShutdown _ => true
  | .ovRecover _ _ _ => true
  | .vinWarnTimer _ => true
  | .coreRailTick _ => true
  | .paceMarginLow us => us.all (fun e => okUnit e.1)
  | .streamFifoFullWrite x => okStream x
  | .streamFifoEmptyRead x => okStream x
  | .smallFifoFullWrite x => okSmall x
  | .mergedEventSample x _ => okMerged x
  | .holdFlagValue x _ => okHold x
  | .holdFlagAck x => okHold x
  | .fifoResetRequest x _ _ => okFifo x
  | .fifoResetTimeout x => okFifo x
  | .islandClockReturn x => okFifo x
  | .eventRaise _ _ _ _ => true
  | .eventRingWrite => true
  | .evrDmaReject => true
  | .msixModerationTimer v => okVec v
  | .portLaser mb => okMb mb
  | .portTxenable mb _ => okMb mb
  | .txEnableDone p => okPort p
  | .portTxdisable mb => okMb mb
  | .txFeedLoss p _ => okPort p
  | .biasAlarm p child => okPort p && decide (child < 4)
  | .portTxpower mb _ => okMb mb
  | .portFormat mb => okMb mb
  | .portTxstatus mb => okMb mb
  | .scTxpower mb => okMb mb
  | .scTxstatus mb => okMb mb
  | .formatChangeCue i _ => okCue i
  | .portRxenable mb _ => okMb mb
  | .rxCalibrationDone p => okPort p
  | .portRxdisable mb => okMb mb
  | .portRxconfig mb => okMb mb
  | .portCdset mb => okMb mb
  | .portCdwrite mb => okMb mb
  | .portCdstart mb => okMb mb
  | .portCdstatus mb => okMb mb
  | .portRxstatus mb => okMb mb
  | .portLtune mb => okMb mb
  | .ltuneSlewStep p => okPort p
  | .scRxconfig mb => okMb mb
  | .scRxstatus mb => okMb mb
  | .scResync mb => okMb mb
  | .lightPresent p _ => okPort p
  | .lightAbsent p _ => okPort p
  | .afcDone p _ => okPort p
  | .afcTimeout p => okPort p
  | .cdScanDone p _ => okPort p
  | .convergeTimeout p => okPort p
  | .scConverge sc _ => okSc sc
  | .scUnconverge sc _ => okSc sc
  | .trackLossTimer p => okPort p
  | .bgCalStep p a sl _ _ _ _ => okPort p && okAdc a && okSlice sl
  | .shadowRotate p => okPort p
  | .adcSliceFault p a sl => okPort p && okAdc a && okSlice sl
  | .adcSliceRetire p a => okPort p && okAdc a
  | .cdLoadDone p _ => okPort p
  | .dissolveStartCue i _ => okCue i
  | .dissolveEnd p _ => okPort p
  | .cdTrackEstimate p _ => okPort p
  | .ltuneUpdate p => okPort p
  | .linkQualityRefresh sc _ => okSc sc
  | .rxClassChange sc _ => okSc sc
  | .codewordEncode sc c => okSc sc && okCw c
  | .codewordDecode sc c _ => okSc sc && okCw c
  | .codewordReadPoint sc c _ => okSc sc && okCw c
  | .fecTruncatingRearm p => okPort p
  | .fecCapTick p _ => okPort p
  | .fecEngineRetire p => okPort p
  | .prefecBerWindow sc => okSc sc
  | .portFecconfig mb => okMb mb
  | .portFecstatus mb => okMb mb
  | .scFecstats mb => okMb mb
  | .frameTransmit sc _ => okSc sc
  | .pilotCorrelation sc _ _ => okSc sc
  | .candidateConvergeTimeout sc => okSc sc
  | .frameReceive sc _ => okSc sc
  | .defectTick => true
  | .pmSecond _ => true
  | .pmBinBoundary i _ => okCue i
  | .pmBinFinal _ => true
  | .frameTrace mb => okMb mb
  | .frameDefcfg mb => okMb mb
  | .framePcset mb => okMb mb
  | .frameChan mb => okMb mb
  | .frameKcsend mb => okMb mb
  | .frameKcrecv mb => okMb mb
  | .frameStamp mb => okMb mb
  | .frameStatus mb => okMb mb
  | .frameDefects mb => okMb mb
  | .frameTribdef mb => okMb mb
  | .pmConfig mb => okMb mb
  | .pmTcaConfig mb => okMb mb
  | .pmRead mb => okMb mb
  | .pmClear mb => okMb mb
  | .hubRole mb => okMb mb
  | .hubGrant mb => okMb mb
  | .hubRelease mb => okMb mb
  | .hubJoin mb _ => okMb mb
  | .hubLeave mb => okMb mb
  | .hubStatus mb => okMb mb
  | .castConfig mb => okMb mb
  | .castStatus mb => okMb mb
  | .castingSlot p _ => okPort p
  | .burstDetection p _ _ _ => okPort p
  | .burstHeaderCheck p _ => okPort p
  | .burstPayloadEnd p _ => okPort p
  | .joinReceive p _ _ => okPort p
  | .keepaliveReceive p _ _ => okPort p
  | .leaveReceive p _ => okPort p
  | .leafNumberTimeout p leaf => okPort p && okLeaf leaf
  | .leafSilentTimeout p leaf => okPort p && okLeaf leaf
  | .adjustAverage p leaf _ _ => okPort p && okLeaf leaf
  | .hubDispersionScan p leaf _ => okPort p && okLeaf leaf
  | .beaconReceive p _ _ _ => okPort p
  | .beaconLockLoss p => okPort p
  | .joinSend p _ => okPort p
  | .ackTimeout p => okPort p
  | .joinRetryWait p => okPort p
  | .keepaliveSend p _ => okPort p
  | .leaveSend p _ => okPort p
  | .leafGrantApply p _ => okPort p
  | .capabilityReceive p _ _ => okPort p
  | .hostPortcfg mb => okMb mb
  | .hostEnable mb => okMb mb
  | .hostTxtaps mb => okMb mb
  | .hostLowpower mb => okMb mb
  | .hostLowpowerDone nn => okLane nn
  | .hlWakeOnSignal l => okLane l
  | .hostRetrain mb => okMb mb
  | .hostLanestatus mb => okMb mb
  | .hostPortstatus mb => okMb mb
  | .hlDetectTest l _ => okLane l
  | .hlTrainingFrame l _ => okLane l
  | .hlTrainTimeout l => okLane l
  | .hlExchangeTimeout l => okLane l
  | .hlSwitchTimeout l => okLane l
  | .hlMarkerReceive l _ => okLane l
  | .hlRsCodeword l _ _ _ => okLane l
  | .hlSerSecond l _ _ => okLane l
  | .hostLaneRetire l => okLane l
  | .hostPacketIngress nn _ => okLane nn
  | .labelLookup nn => okLane nn
  | .labelFillDone line _ => decide (line < 1310720)
  | .packetAdmission => true
  | .packetEncrypt _ => true
  | .slotFrameMap sc k _ => okSc sc && okSlot k
  | .creditReturn t => okTrib t
  | .tpeHeaderReceive t => okTrib t
  | .slotFrameRelease t => okTrib t
  | .slotFrameDeadline t sc k _ => okTrib t && okSc sc && okSlot k
  | .packetReceive t => okTrib t
  | .packetDecrypt _ => true
  | .egressSend nn => okLane nn
  | .tribConfig mb => okMb mb
  | .tribStage mb => okMb mb
  | .tribCommit mb => okMb mb
  | .tribStatus mb => okMb mb
  | .tribRemapCue i _ => okCue i
  | .labelSet mb => okMb mb
  | .labelGet mb => okMb mb
  | .labelCounters mb => okMb mb
  | .labelProfile mb => okMb mb
  | .labelStats mb => okMb mb
  | .labelTsread mb => okMb mb
  | .ctxConfig mb => okMb mb
  | .ctxLimits mb => okMb mb
  | .ctxRollover mb => okMb mb
  | .ctxErase mb => okMb mb
  | .ctxStatus mb => okMb mb
  | .ctxLanes mb => okMb mb
  | .rolloverCue i _ => okCue i
  | .rolloverAnnounceReceive sc _ => okSc sc
  | .cipherLaneRetire d => okDir d
  | .bulkRead _ addr _ => okAddr addr
  | .bulkPartialWrite addr data _ => decide (addr + data.length ≤ bulkEnd)
  | .sweepStep _ addr _ => okAddr addr
  | .sweepPassEnd _ _ => true
  | .sandglassLeak g => okSand g
  | .pseudoChannelRetire g => okPc g
  | .migrationRegionCopy _ => true
  | .bulkSweep mb => okMb mb
  | .bulkSandglassSet mb => okMb mb
  | .bulkStatus mb => okMb mb
  | .bulkMemstatus mb => okMb mb
  | .bulkBudgetRead mb => okMb mb
  | .bulkRetire mb => okMb mb
  | .candidateActivityLoss c => okCand c
  | .candidateMeasure _ _ => true
  | .waitToRestoreExpiry c => okCand c
  | .timingLock => true
  | .loscActivityLoss _ => true
  | .loscWarmupDone => true
  | .hourglassTick _ => true
  | .tcSourceCompare => true
  | .ppsInEdge _ => true
  | .todReceive _ => true
  | .todTimeout => true
  | .ppsOutEdge _ => true
  | .timeTransferTick p _ _ => okPort p
  | .cueAnnounceRepeat i => okCue i
  | .cueAckReceive i => okCue i
  | .cueAnnounceReceive p _ => okPort p
  | .cueUnackedCheck i => okCue i
  | .clkCandidate mb => okMb mb
  | .clkConfig mb => okMb mb
  | .clkForce mb => okMb mb
  | .clkHoldoverSet mb => okMb mb
  | .clkRefout mb => okMb mb
  | .clkStatus mb => okMb mb
  | .tcSet mb => okMb mb
  | .tcSource mb => okMb mb
  | .tcIo mb => okMb mb
  | .tcTransfer mb => okMb mb
  | .tcStatus mb => okMb mb
  | .cueRead mb => okMb mb
  | .cueCancel mb => okMb mb
  | .cueStats mb => okMb mb
  | .leaseFrameReceive _ => true
  | .leaseExpiry => true
  | .partnerLeaseExpiry => true
  | .heartbeatSend => true
  | .arbLostTimer => true
  | .pairLinkUp _ => true
  | .commitWindow _ _ => true
  | .commitRecordReceive _ _ _ _ => true
  | .mirrorInterval _ => true
  | .mirrorRecordReceive r => okRecord r
  | .contextMirrorReceive m => okCtx m.ctx
  | .scheduleReceive e => okSc e.sc
  | .digestReceive d => okSc d.sc
  | .resyncCopyDone => true
  | .emptyPointReceive t _ => okTrib t
  | .rehearsalCue i _ _ _ => okCue i
  | .rehearsalReleaseTimeout => true
  | .pairConfig mb => okMb mb
  | .pairRehearse mb => okMb mb
  | .pairStatus mb => okMb mb
  | .pairResync mb => okMb mb
  | .monSyncReset n _ => okConv n
  | .monOutput n _ => okConv n
  | .monHousekeepingSlot n _ _ => okConv n
  | .monConfig mb => okMb mb
  | .monSync mb => okMb mb
  | .monRead mb => okMb mb
  | .monStatus mb => okMb mb
  | .monValue mb => okMb mb
  | .thermSample _ => true
  | .diodeValidityTimer ch _ _ => decide (34 ≤ ch) && decide (ch ≤ 47)
  | .flashWindowChange _ => true
  | .flashPageDone _ _ => true
  | .calSlewStep item a => calAddrOk item a.obj a.sub a.slice
  | .thermStatus mb => okMb mb
  | .thermSensor mb => okMb mb
  | .thermWarnSet mb => okMb mb
  | .calRead mb => okMb mb
  | .calWrite mb => okMb mb
  | .calMeasure mb => okMb mb
  | .calMeasureDone _ => true
  | .calApply mb => okMb mb
  | .calClear mb => okMb mb
  | .pairLaneRetire l => okPairLane l
  | .d2dLaneFault i => okD2d i
  | .d2dLaneRetire i => okD2d i
  | .subcarrierRetire sc => okSc sc
  | .cueCoreRetire c => okCore c
  | .watchdogExpiry c _ _ => okCore c
  | .illegalInstruction c _ _ => okCore c
  | .coreFetchUe c _ _ _ _ => okCore c
  | .coreRestartDone c => okCore c
  | .injectionEnd pt => pointExists pt
  | .logCopy => true
  | .faultPolicy mb => okMb mb
  | .faultStatus mb => okMb mb
  | .faultClear mb => okMb mb
  | .faultInject mb => okMb mb
  | .faultInjstatus mb => okMb mb
  | .faultTestpattern mb => okMb mb
  | .faultTeststatus mb => okMb mb
  | .faultDmarestart mb => okMb mb
  | .logStatus mb => okMb mb
  | .logRead mb => okMb mb
  | .logFreeze mb => okMb mb
  | .logRearm mb => okMb mb
  | .logErase mb => okMb mb
  | .paceSample dom i _ => if dom then okCore i else okUnit i
  | .tracerWindowCue i _ => okCue i
  | .tracerRecord _ => true
  | .perfSelect mb => okMb mb
  | .perfRead mb => okMb mb
  | .perfTracer mb => okMb mb
  | .perfTrdeliver mb => okMb mb
  | .perfTrstatus mb => okMb mb
  | .portReset mb _ => okMb mb
  | .portResetDone p _ => okPort p
  | .perstRelease => true
  | .candidateActivityReturn c => okCand c && decide (c < 5)
  | .hlLossOfSignal pair l => if pair then okPairLane l else okLane l
  | .counterLineFillDone line _ => decide (line < 2621440)
  | .sliceRetryRecheck p a sl _ => okPort p && okAdc a && okSlice sl

end Sys2Proof
end

