-- ==== Sys2Proof/Decode.lean ====
section
/-! DEFINITION. Decoding: the table of operations and events gives bits to no row, so no word spells a command. -/

namespace Sys2Proof

/-- The command a word spells by the table's bits. No row of spec/opcode_table.json has bits (its "fields" are empty), so
every word, of any width, spells none. -/
def decodeTableWord (_nbits _w : Nat) : Option Instr := none

end Sys2Proof
end

