-- ==== Sys2Proof/Machine/Aes.lean ====
section
/-! DEFINITION. AES-256 and Galois/Counter Mode (FIPS 197, NIST SP 800-38D), which 10_service_cipher.md applies to each
packet. -/

namespace Sys2Proof.Machine

/-! The field GF(2^8) modulo x^8 + x^4 + x^3 + x + 1. -/

def xtime (a : Byte) : Byte := (a <<< 1) ^^^ (if a.getLsbD 7 then 0x1B else 0)

/-- `n` steps of shift-and-add multiplication. -/
def gfMulSteps : Nat → Byte → Byte → Byte → Byte
  | 0, _, _, r => r
  | n + 1, a, b, r => gfMulSteps n (xtime a) (b >>> 1) (if b.getLsbD 0 then r ^^^ a else r)

def gfMul (a b : Byte) : Byte := gfMulSteps 8 a b 0

/-- The inverse, a^254; zero for zero. -/
def gfInv (a : Byte) : Byte :=
  let a2 := gfMul a a
  let a4 := gfMul a2 a2
  let a8 := gfMul a4 a4
  let a16 := gfMul a8 a8
  let a32 := gfMul a16 a16
  let a64 := gfMul a32 a32
  gfMul (gfMul (gfMul a2 a4) (gfMul a8 a16)) (gfMul (gfMul a32 a64) (gfMul a64 a64))

/-- The S-box: the inverse and an affine map. -/
def sBox (a : Byte) : Byte :=
  let b := gfInv a
  b ^^^ b.rotateLeft 1 ^^^ b.rotateLeft 2 ^^^ b.rotateLeft 3 ^^^ b.rotateLeft 4 ^^^ 0x63

/-! Key expansion: 60 words of four bytes. -/

def xorBytes (a b : List Byte) : List Byte := List.zipWith (· ^^^ ·) a b

def rcon (n : Nat) : Byte := iterate xtime n 1

/-- The word that follows: `i` is its index, `prev` the word before it, `back` the word eight before. -/
def nextWord (i : Nat) (prev back : List Byte) : List Byte :=
  if i % 8 = 0 then xorBytes back (xorBytes ((prev.drop 1 ++ prev.take 1).map sBox) [rcon (i / 8 - 1), 0, 0, 0])
  else if i % 8 = 4 then xorBytes back (prev.map sBox)
  else xorBytes back prev

/-- Words of the schedule, latest first, after `n` more words; `i` is the index of the next. -/
def expandFrom : Nat → Nat → List (List Byte) → List (List Byte)
  | 0, _, ws => ws
  | n + 1, i, ws => expandFrom n (i + 1) (nextWord i (ws.getD 0 []) (ws.getD 7 []) :: ws)

/-- The 15 round keys of a 256-bit key. -/
def roundKeys (key : Nat) : List (List Byte) :=
  let k := natBE 32 key
  let ws := (expandFrom 52 8 ((List.range 8).map (fun i => field (4 * (7 - i)) 4 k))).reverse
  (List.range 15).map (fun r => ((ws.drop (4 * r)).take 4).flatten)

/-! The cipher, on 16 bytes in column order. -/

def shiftRows (s : List Byte) : List Byte :=
  (List.range 16).map (fun i => s.getD ((i + 4 * (i % 4)) % 16) 0)

def mixColumn (c : List Byte) : List Byte :=
  let a (i : Nat) : Byte := c.getD (i % 4) 0
  (List.range 4).map (fun i => xtime (a i) ^^^ (xtime (a (i + 1)) ^^^ a (i + 1)) ^^^ a (i + 2) ^^^ a (i + 3))

def mixColumns (s : List Byte) : List Byte := (List.range 4).flatMap (fun c => mixColumn (field (4 * c) 4 s))

def aesRounds : List (List Byte) → List Byte → List Byte
  | [], s => s
  | [k], s => xorBytes (shiftRows (s.map sBox)) k
  | k :: ks, s => aesRounds ks (xorBytes (mixColumns (shiftRows (s.map sBox))) k)

/-- AES-256 of one block. -/
def aesBlock (keys : List (List Byte)) (block : List Byte) : List Byte :=
  match keys with
  | [] => block
  | k :: ks => aesRounds ks (xorBytes block k)

/-! GCM. Blocks are numbers whose most significant bit is the first bit. -/

/-- One step of multiplication in GF(2^128): V times x. -/
def ghashShift (v : Nat) : Nat := if v % 2 = 1 then (v / 2) ^^^ (0xE1 * 2 ^ 120) else v / 2

def ghashMulSteps : Nat → Nat → Nat → Nat → Nat
  | 0, _, _, z => z
  | n + 1, x, v, z => ghashMulSteps n x (ghashShift v) (if bitOf x n then z ^^^ v else z)

def ghashMul (x y : Nat) : Nat := ghashMulSteps 128 x y 0

/-- Blocks of 16 bytes, the last zero-padded; `n` bounds their number. -/
def blocksOf : Nat → List Byte → List Nat
  | 0, _ => []
  | n + 1, bs => if bs = [] then [] else beNat (padTo 16 (bs.take 16)) :: blocksOf n (bs.drop 16)

def ghash (h : Nat) (blocks : List Nat) : Nat := blocks.foldl (fun y b => ghashMul (y ^^^ b) h) 0

/-- The key stream from counter block `ctr` up: the low 32 bits count. -/
def keyStream (keys : List (List Byte)) (iv : Nat) : Nat → Nat → List Byte
  | 0, _ => []
  | n + 1, c => aesBlock keys (natBE 16 (iv * 2 ^ 32 + c % 2 ^ 32)) ++ keyStream keys iv n (c + 1)

/-- Counter-mode encryption or decryption of a packet, from counter 2. -/
def gcmCrypt (key iv : Nat) (data : List Byte) : List Byte :=
  xorBytes data (keyStream (roundKeys key) iv (data.length / 16 + 1) 2)

/-- The full 128-bit tag over the additional data and the ciphertext. -/
def gcmTag (key iv : Nat) (aad ct : List Byte) : List Byte :=
  let keys := roundKeys key
  let h := beNat (aesBlock keys (zeros 16))
  let s := ghash h (blocksOf (aad.length / 16 + 1) aad ++ blocksOf (ct.length / 16 + 1) ct
    ++ [8 * aad.length * 2 ^ 64 + 8 * ct.length])
  natBE 16 (s ^^^ beNat (aesBlock keys (natBE 16 (iv * 2 ^ 32 + 1))))

end Sys2Proof.Machine
end

