-- ==== Sys2Proof/Machine/Flags.lean ====
section
/-! DEFINITION. Events, interrupt flags and the rushes log; unit faults and injection: everything that raises a flag. -/

namespace Sys2Proof.Machine

/-! Interrupts (R68 to R70, R490/02). -/

def bvBit {w : Nat} (x : BitVec w) (k : Nat) : Bool := x.getLsbD k

def bvSet {w : Nat} (x : BitVec w) (k : Nat) : BitVec w := x ||| BitVec.ofNat w (2 ^ k)

def bvClr {w : Nat} (x : BitVec w) (k : Nat) : BitVec w := x &&& ~~~(BitVec.ofNat w (2 ^ k))

/-- Urgent vectors, on INT_N1 (R68/02). -/
def isUrgent (v : Nat) : Bool := v == 8 || v == 11 || v == 13 || v == 15 || v == 28 || v == 31

/-- Vectors sent without moderation (R69/02). -/
def isImmediate (v : Nat) : Bool := decide (v < 8) || isUrgent v

/-- Send the MSI-X message of vector `v`, or hold it in the pending-bit array while INT_MASK masks it (R68/02). -/
def sendMsix (v : Nat) (s : State) : State :=
  { s with ev := { s.ev with
      msix := if bvBit s.ctrl.intMask v then s.ev.msix else tabSet 0 s.ev.msix v (tabGet 0 s.ev.msix v + 1)
      pba := if bvBit s.ctrl.intMask v then bvSet s.ev.pba v else s.ev.pba
      modIdx := tabSet [] s.ev.modIdx v [] } }

/-- Raise vector `v`: its INT_STATUS bit, and its message at once where it is not moderated (R68, R69/02). -/
def raiseVector (v : Nat) (s : State) : State :=
  onlyIf (isImmediate v) (sendMsix v) (onCtrl (fun c => { c with intStatus := bvSet c.intStatus v }) s)

/-- INT_N0 and INT_N1 asserted (R70/02): an unmasked set bit of the pin's own vectors while the pin is enabled. -/
def intPin (s : State) (n : Nat) : Bool :=
  bvBit s.ctrl.intPin n && (List.range 32).any (fun v =>
    bvBit s.ctrl.intStatus v && !bvBit s.ctrl.intMask v && (isUrgent v == (n == 1)))

/-! The event codes and their vectors (the event tables of the chapters); 16 stands for a port's vector. -/

def codesFrom (lo n v : Nat) : List (Nat × Nat) := (List.range n).map (fun k => (lo + k, v))

def eventTable : List (Nat × Nat) :=
  [(0x0100, 9), (0x0101, 10), (0x0102, 8), (0x0103, 28), (0x0104, 28)]
  ++ codesFrom 0x0200 18 16 ++ codesFrom 0x0280 2 16 ++ codesFrom 0x0300 6 16 ++ codesFrom 0x0380 2 16
  ++ codesFrom 0x0400 8 16 ++ codesFrom 0x0480 3 16 ++ codesFrom 0x0500 7 22 ++ codesFrom 0x0600 4 23
  ++ codesFrom 0x0680 2 23 ++ codesFrom 0x0700 6 24 ++ codesFrom 0x0706 3 15
  ++ [(0x0800, 25), (0x0801, 15), (0x0802, 25)] ++ codesFrom 0x0803 4 15
  ++ codesFrom 0x0900 8 14 ++ codesFrom 0x0940 3 14 ++ codesFrom 0x0980 2 14
  ++ codesFrom 0x0A00 8 13 ++ codesFrom 0x0B00 3 26 ++ codesFrom 0x0B80 4 11
  ++ [(0x0B84, 10), (0x0C00, 10)] ++ codesFrom 0x0D00 6 15 ++ codesFrom 0x0D80 3 15
  ++ codesFrom 0x0E00 3 27 ++ codesFrom 0x0E10 3 12 ++ codesFrom 0x0F00 2 10

/-- The vector of an event code of the tables; none for an unknown code. -/
def eventVector (code : Nat) : Option Nat := (eventTable.find? (fun e => e.1 == code)).map (·.2)

/-- The vector of an event of line port `p`, and of a subcarrier; none where there is no such object. -/
def portVector (p : Nat) : Option Nat := if okPort p then some (16 + p) else none
def scVector (sc : Nat) : Option Nat := portVector (sc / 16)

/-- Events whose SOURCE is a subcarrier (04_line_receive.md, 06_line_frame.md). -/
def scEvents : List Nat := [0x0280, 0x0281, 0x0302, 0x0303, 0x0305]

/-- The vector of an event with this SOURCE and these DATA bytes. Defect 0 is a port's, 1 to 7 are a subcarrier's, 8 and 9 a
tributary's (R197/06); a PM_TCA names its object type, a PM_BIN_CLOSED of the tributaries has SOURCE 0xFFFF (06_line_frame.md).
None for an unknown code, and for a source the module does not have. -/
def vectorOf (code src : Nat) (data : List Byte) : Option Nat :=
  let d := (data.getD 0 0).toNat
  match eventVector code with
  | some 16 =>
    if scEvents.contains code then scVector src
    else if code = 0x0300 ∨ code = 0x0301 then
      if d = 0 then portVector src else if d < 8 then scVector src else if d < 10 ∧ okTrib src then some 23 else none
    else if code = 0x0380 then if src = 0xFFFF then some 23 else portVector src
    else if code = 0x0381 then
      if d = 0 then scVector src else if d = 1 ∧ okTrib src then some 23 else none
    else portVector src
  | v => v

/-! The rushes log (R445, R447/16). -/

/-- A log entry with the module's state at this moment (R445/16). -/
def logEntryOf (s : State) (code vector flags seq src tag : Nat) (data ctx : List Byte) : LogEntry :=
  { code := code, vector := vector, flags := flags, seq := seq, tc := now s, src := src, tag := tag, data := data
    ctx := ctx, secs := tcSec (upTime s), rail := s.power.rail, temp := (hottest s).2
    margin := (lowestMargin s).2, vin := s.power.vin, bad := false }

/-- Record an entry: in the ring, whose oldest entry it replaces when full; while the ring is frozen, directly in the
continuous log and the after-freeze buffer (R445, R447/16). -/
def logPut (e : LogEntry) (l : LogSt) : LogSt :=
  { l with
    ring := if l.frozen then l.ring else (e :: l.ring).take 16384
    uncopied := if l.frozen then l.uncopied else min 16384 (l.uncopied + 1)
    lostN := if !l.frozen && l.uncopied == 16384 then satAdd max32 l.lostN 1 else l.lostN
    lostSince := if !l.frozen && l.uncopied == 16384 then satAdd max32 l.lostSince 1 else l.lostSince
    cont := if l.frozen then (e :: l.cont).take 1032192 else l.cont
    contN := if l.frozen then l.contN + 1 else l.contN
    after := if l.frozen then (e :: l.after).take 256 else l.after }

def record (e : LogEntry) (s : State) : State := { s with log := logPut e s.log }

/-! Raising an event (R63, R65, R66, R84, R490/02). -/

def backlogSize : Nat := 512

/-- The event is suppressed by sys.evmask (R84/02). -/
def suppressed (s : State) (code : Nat) : Bool := s.ev.suppressed.contains code

/-- The event finds the backlog full and is discarded (R65/02). -/
def discards (s : State) (code : Nat) : Bool := !suppressed s code && decide (backlogSize ≤ s.ev.backlog.length)

def eventOf (s : State) (code vector src tag : Nat) (data : List Byte) (mirrored : Bool) : Event :=
  { code := code, vector := vector, mirrored := mirrored, seq := s.ev.seq, tc := now s, src := src, tag := tag
    data := padTo 8 data }

def eventFlags (s : State) (code vector : Nat) (mirrored : Bool) : Nat :=
  (if isUrgent vector then 0x40 else 0) + (if mirrored then 0x20 else 0) + (if suppressed s code then 0x10 else 0)
    + (if discards s code then 0x08 else 0)

/-- Raise an event: it takes a SEQ and a log entry, and waits in the backlog unless it is suppressed or, the backlog
being full, discarded and counted (R65, R66, R84, R445). An event that waits when its code is suppressed is written all the
same: suppression is tested as an event is raised (DESIGN CHOICE, notes/assumptions/52.md). -/
def raiseEvent (mirrored : Bool) (code vector src tag : Nat) (data : List Byte) (s : State) : State :=
  { s with
    ev := { s.ev with
      seq := (s.ev.seq + 1) % 2 ^ 32
      backlog := if suppressed s code || discards s code then s.ev.backlog
        else s.ev.backlog ++ [eventOf s code vector src tag data mirrored]
      lost := if discards s code then satAdd max32 s.ev.lost 1 else s.ev.lost
      lostSince := if discards s code then satAdd max32 s.ev.lostSince 1 else s.ev.lostSince }
    log := logPut (logEntryOf s code vector (eventFlags s code vector mirrored) s.ev.seq src tag (padTo 8 data)
      (zeros 16)) s.log }

def raise (code vector src tag : Nat) (data : List Byte) (s : State) : State :=
  raiseEvent false code vector src tag data s

/-- An event of a line port: vector 16 + p (R68/02). -/
def raisePort (code p : Nat) (data : List Byte) (s : State) : State := raise code (16 + p) p 0 data s

/-- An event of a subcarrier: vector 16 + its port. -/
def raiseSc (code sc : Nat) (data : List Byte) (s : State) : State := raise code (16 + scPort sc) sc 0 data s

def byteOf (n : Nat) : Byte := BitVec.ofNat 8 n

/-! Freezing the log (R447, R448/16). -/

/-- The freeze marker's context bytes (R445/16). -/
def markerContext (s : State) (cause : Nat) : List Byte :=
  [byteOf cause, byteOf (b2n s.log.frozen + 2 * b2n s.log.flushDue), 0, 0] ++ natBE 4 s.log.lostN ++ zeros 8

def freezeMarker (s : State) (cause : Nat) : LogEntry :=
  logEntryOf s 0x0DF0 0xFF 0 s.ev.seq 0 0 (zeros 8) (markerContext s cause)

/-- Freeze the ring: the marker is its newest entry, the snapshot is taken, and a flush waits unless a power fail froze
it (R447, R450/16). -/
def freezeRing (cause : Nat) (l : LogSt) : LogSt :=
  { l with frozen := true, cause := cause, snap := l.ring, after := []
           flushDue := cause != 2
           snapsLost := if l.flushDue && cause != 2 then satAdd max32 l.snapsLost 1 else l.snapsLost }

/-- A freeze trigger: freezes a recording ring and raises LOG_FROZEN; writes only a marker into the continuous log when
the ring is frozen already (R447, R448/16). -/
def freezeLog (cause : Nat) (s : State) : State :=
  if s.log.frozen then
    onLog (fun l => { l with whileFrozen := satAdd max32 l.whileFrozen 1 }) (record (freezeMarker s cause) s)
  else
    record (freezeMarker s cause) s
      |> onLog (freezeRing cause)
      |> onTherm (fun t => { t with work := if cause = 2 || t.work.contains .flush || t.busy == some .flush then t.work else .flush :: t.work })
      |> raise 0x0D80 15 0 0 [byteOf cause]

/-! Unit faults (R435, R436/16). -/

def unitKey (typ idx : Nat) : Nat := 65536 * typ + idx

/-- The slice that holds interleave phase `ph` of ADC `a` (R114/04): the slice of the same number unless one was handed
over. -/
def phaseSlice (r : RxPort) (a ph : Nat) : Nat :=
  match tabGet 0 r.phaseOf (64 * a + ph) with
  | 0 => ph
  | n + 1 => n

/-- The free spare slices of an ADC, ascending: neither retired nor holding a phase. -/
def spareSlices (r : RxPort) (a : Nat) : List Nat :=
  (List.range 66).filter (fun sl =>
    !r.retired.contains (66 * a + sl) && (List.range 64).all (fun ph => phaseSlice r a ph != sl))

/-- The free spare decoder engines of a port (R172/05). -/
def spareEngines (f : FecPort) : List Nat :=
  (List.range 18).filter (fun e => !f.retired.contains e && !f.engines.contains e)

/-- Free spare regions held by active pseudo-channels (R345/11): 59,633 each, less those in use. -/
def freeRegions (s : State) : Nat := 59633 * activePcs s - s.bulk.place.length

def cipherLanes (s : State) (d : Nat) : Lanes := if d = 0 then s.cipher.tx else s.cipher.rx

/-- Spares of a unit's group; none where the type has no spares (R435/16). -/
def sparesOf (s : State) (typ idx : Nat) : Option Nat :=
  match typ with
  | 1 => some (spareSlices (rxPort s (idx / 264)) (idx % 264 / 66)).length
  | 2 => some (spareEngines (fecPort s (idx / 18))).length
  | 4 => some (cipherLanes s (idx / 13)).spare.length
  | 5 => if idx < 64 then some (freeRegions s / 123361) else none
  | 8 => some (2 - tabGet 0 s.flt.d2dSpare (idx / 128))
  | _ => none

/-- Two units of a type share their spares. -/
def sameGroup (typ a b : Nat) : Bool :=
  match typ with
  | 1 => a / 66 == b / 66
  | 2 => a / 18 == b / 18
  | 4 => a / 13 == b / 13
  | 8 => a / 128 == b / 128
  | _ => true

/-- The spares left after this retirement and those queued ahead of it, 0xFF where the type has none (R436/16). -/
def sparesAfter (s : State) (typ idx : Nat) : Nat :=
  match sparesOf s typ idx with
  | none => 0xFF
  | some n => n - 1 - (s.flt.queue.filter (fun q => q.1 == typ && sameGroup typ q.2 idx)).length

/-- Faults of the unit within the window, this one counted (R436/16). -/
def windowTimes (s : State) (typ idx : Nat) : List Nat :=
  let w := ticksSec (policyOf s typ).window
  upTime s :: (unitRec s (unitKey typ idx)).times.filter (fun t => upTime s < t + w)

/-- This fault makes the unit permanent (R436/16). -/
def makesPermanent (s : State) (typ idx : Nat) : Bool :=
  decide ((policyOf s typ).count ≤ (windowTimes s typ idx).length)

/-- Types whose retry lasts until a later step (R435/16). -/
def retries (typ : Nat) : Bool := typ == 1 || typ == 2 || typ == 3 || typ == 6 || typ == 7 || typ == 9 || typ == 10

/-- On-chip memories are never retired (R439/16). -/
def neverRetired (typ idx : Nat) : Bool := typ == 5 && decide (64 ≤ idx)

/-- Count a fault of a unit: transient, or permanent with its retirement queued. A retired or retiring unit is not
counted (R436/16). -/
def unitFault (typ idx : Nat) (s : State) : State :=
  let u := unitRec s (unitKey typ idx)
  if u.retired || u.retiring then s
  else
    let perm := makesPermanent s typ idx
    let ts := windowTimes s typ idx
    let s1 := onUnitRec (unitKey typ idx) (fun u => { u with
      times := ts, total := satAdd max32 u.total 1, last := now s
      retrying := retries typ && !perm, retiring := perm && !neverRetired typ idx }) s
    if perm then
      let s2 := raise 0x0D01 15 idx 0 [byteOf typ, byteOf (sparesAfter s typ idx)] s1
      onlyIf (!neverRetired typ idx) (onFlt (fun f => { f with queue := f.queue ++ [(typ, idx)] })) s2
    else raise 0x0D00 15 idx 0 [byteOf typ, byteOf (min 255 ts.length)] s1

/-- The first queued retirement of a type. -/
def nextRetirement (s : State) (typ : Nat) : Option Nat :=
  (s.flt.queue.find? (fun q => q.1 == typ)).map (·.2)

/-- A retirement has run: the unit is retired, and its record is placed for the retirement map unless its row of the
retention table does not keep it (R472, R473/18). -/
def retired (typ idx : Nat) (s : State) : State :=
  onUnitRec (unitKey typ idx) (fun u => { u with retired := true, retiring := false, retrying := false }) s
    |> onFlt (fun f => { f with queue := f.queue.erase (typ, idx) })
    |> onTherm (fun t => { t with
        mapDue := t.mapDue || (typ != 6 && typ != 7)
        work := if typ == 6 || typ == 7 || t.work.contains .retirementMap then t.work else t.work ++ [.retirementMap] })

/-- A retirement that cannot run leaves the unit in service (R119/04, R346/11). -/
def notRetired (typ idx : Nat) (s : State) : State :=
  onUnitRec (unitKey typ idx) (fun u => { u with retiring := false }) s
    |> onFlt (fun f => { f with queue := f.queue.erase (typ, idx) })

/-- A retry has ended. -/
def retryDone (typ idx : Nat) (s : State) : State :=
  onUnitRec (unitKey typ idx) (fun u => { u with retrying := false }) s

def isRetired (s : State) (typ idx : Nat) : Bool := (unitRec s (unitKey typ idx)).retired

/-! Injection points (R442/16). -/

def injArmed (s : State) (pt : Nat) : Bool := (injOf s pt).armed

/-- The point is armed for this object. -/
def injFor (s : State) (pt arg : Nat) : Bool := (injOf s pt).armed && (injOf s pt).arg == arg

/-- An armed point acts: it disarms, is counted and raises INJECTED (R442/16). -/
def injAct (pt : Nat) (s : State) : State :=
  onInjOf pt (fun i => { i with armed := false, acted := satAdd max64 i.acted 1 }) s
    |> raise 0x0D05 15 0 0 (natBE 2 pt ++ [0, 0] ++ natBE 4 (injOf s pt).arg)

/-! DMA channels (R441/16): 0 event ring, 1 tracer delivery, 2 log copy. -/

/-- Discard and count the unreadable item of a channel. -/
def discardItem (ch : Nat) (s : State) : State :=
  match ch with
  | 0 => raiseVector 31 (onEv (fun e => { e with
      enable := false, rejected := false, backlog := e.backlog.drop 1, lost := satAdd max32 e.lost 1 }) s)
  | 1 => onTracer (fun t => { t with dropped := t.dropped + 1, dropSince := t.dropSince + 1 }) s
  | _ => onLog (fun l => { l with
      uncopied := l.uncopied - 1, lostN := satAdd max32 l.lostN 1, lostSince := satAdd max32 l.lostSince 1 }) s

/-- An uncorrectable read on a channel halts that channel alone and raises DMA_HALTED; the event ring restarts as R67
gives. -/
def haltDma (ch : Nat) (s : State) : State :=
  discardItem ch (onFlt (fun f => { f with dma := if ch = 0 then f.dma else including ch f.dma }) s)
    |> raise 0x0D03 15 0 0 [byteOf ch]

/-! Gauges of PM (R213/06). -/

def pmKey (typ obj : Nat) : Nat := 10000 * typ + obj

def gaugeAdd (v : Int) (g : Gauge) : Gauge :=
  { lo := if g.n = 0 then v else min g.lo v, sum := g.sum + v, n := g.n + 1
    hi := if g.n = 0 then v else max g.hi v }

/-- Change the current bin, the head of the list. -/
def binHead (f : PmBin → PmBin) : List PmBin → List PmBin
  | [] => [f {}]
  | b :: l => f b :: l

def gaugeSet (k : Nat) (v : Int) (b : PmBin) : PmBin :=
  { b with gauges := (List.range 8).map (fun i =>
      if i = k then gaugeAdd v (b.gauges.getD i {}) else b.gauges.getD i {}) }

/-- A value of gauge `k` of a subcarrier: BER, Q, OSNR, CD, DGD, PDL, frequency offset, received power (R213/06). -/
def noteGauge (sc k : Nat) (v : Int) (s : State) : State :=
  onPmObj (pmKey 0 sc) (fun o => { o with
    bins15 := binHead (gaugeSet k v) o.bins15, bins24 := binHead (gaugeSet k v) o.bins24
    last := (List.range 8).map (fun i => if i = k then v else o.last.getD i 0) }) s

/-- A quotient: exact where the division is, rounded up or down as is open otherwise. -/
def meanOf (purpose : Nat) (sum : Int) (n : Nat) : Int :=
  sum / (n : Int) + (if sum % (n : Int) ≠ 0 ∧ Config.roundsUp purpose [sum, n] = true then 1 else 0)

/-! Pair members (R393, R397 to R399/13). -/

/-- A message to the partner while the pair link is up. -/
def tellPartner (m : PairMessage) (s : State) : State :=
  onlyIf s.pair.up (onPair (fun p => { p with mirrored := p.mirrored + 1, sent := p.sent ++ [m] })) s

/-- The lead sends a record to the stand-in. -/
def mirror (r : MirrorRecord) (s : State) : State := onlyIf (isLead s) (tellPartner (.record r)) s

/-- Resynchronization begins: out of step, the copy awaited, no tributary's empty point known (R397, R398). -/
def startResync (s : State) : State :=
  onPair (fun p => { p with inStep := false, resync := 1, resyncAt := upTime s, matched := 0, decisions := [] }) s
    |> forAll (fun t => onTribOf t (fun x => { x with emptyKnown := false })) (tribKeys s)

/-- A pair-link lane fault takes the stand-in out of step (R380). -/
def leaveStep (s : State) : State :=
  onlyIf (isStandIn s && s.pair.inStep) startResync s

/-! Late cues (R372/12). -/

/-- A cue has taken effect `late` ns after its first boundary. -/
def noteLate (late : Nat) (s : State) : State :=
  let due := match s.cues.lateAt with | none => true | some t => decide (t + ticksMs 1 ≤ upTime s)
  let n := s.cues.lateSince + 1
  let m := max s.cues.lateMaxSince late
  let s1 := onCues (fun c => { c with
      lateN := satAdd max32 c.lateN 1, lateMax := max c.lateMax late
      lateSince := if due then 0 else n, lateMaxSince := if due then 0 else m
      lateAt := if due then some (upTime s) else c.lateAt }) s
  onlyIf due (raise 0x0980 14 0 0 (natBE 4 (min max32 n) ++ natBE 4 (min max32 m))) s1

/-- Cue `i`, not periodic, has taken effect at boundary `at_` where `first` was its first boundary: its entry is freed,
and a late one is counted (R372/12). -/
def cueDone (i at_ first : Nat) (s : State) : State :=
  onlyIf (decide (first < at_)) (noteLate ((at_ - first) / 65536)) (pulseStrobe (clearCue i s))

/-- Periodic cue `i` has taken effect at `at_`: it is placed again at its next nominal time, or half a period from now where
that lies further ahead (R373/12). -/
def cueAgain (i at_ first : Nat) (s : State) : State :=
  let c := cueAt s i
  let nom := c.nominal + ticksMs c.period
  let half := at_ + ticksMs c.period / 2
  placeCue i { c with
      nominal := nom, time := max nom half, late := decide (first < at_), lateness := min max32 ((at_ - first) / 65536) } s
    |> pulseStrobe
    |> onCues (fun q => { q with shortened := if nom < half then satAdd max32 q.shortened 1 else q.shortened })
    |> onlyIf (decide (first < at_)) (noteLate ((at_ - first) / 65536))

end Sys2Proof.Machine
end

