-- ==== Sys2Proof/Machine/Operands.lean ====
section
/-! DEFINITION. Mailbox commands: the request in a mailbox, its acceptance, its common checks and its response
(R51 to R61/02). -/

namespace Sys2Proof.Machine

/-- How a command definition marks the command (R61/02). -/
inductive CmdClass where
  | stateChanging | readOnly | local_
  deriving DecidableEq, Repr

/-- Opcodes of the read-only commands. -/
def readOnlyOps : List Nat :=
    [0x0100, 0x0101, 0x0105, 0x0205, 0x020C, 0x020D, 0x0210, 0x0281, 0x0283, 0x0285, 0x0306, 0x0307, 0x0308,
    0x0309, 0x0382, 0x0405, 0x0481, 0x0505, 0x0506, 0x0603, 0x0681, 0x0682, 0x0684, 0x0704, 0x0705, 0x0802,
    0x0803, 0x0804, 0x0905, 0x0944, 0x0980, 0x0982, 0x0A02, 0x0B04, 0x0B80, 0x0C00, 0x0D01, 0x0D04, 0x0D06,
    0x0D80, 0x0D81, 0x0E01, 0x0E04, 0x0F00]

/-- Opcodes of the state-changing commands. -/
def stateOps : List Nat :=
    [0x0103, 0x0200, 0x0201, 0x0202, 0x0203, 0x0204, 0x0206, 0x0207, 0x0208, 0x0209, 0x020A, 0x020B, 0x020E,
    0x020F, 0x0211, 0x0280, 0x0282, 0x0300, 0x0301, 0x0302, 0x0303, 0x0304, 0x0380, 0x0381, 0x0383, 0x0400,
    0x0401, 0x0402, 0x0403, 0x0404, 0x0480, 0x0500, 0x0501, 0x0502, 0x0503, 0x0600, 0x0601, 0x0602, 0x0680,
    0x0683, 0x0700, 0x0701, 0x0702, 0x0703, 0x0800, 0x0801, 0x0805, 0x0900, 0x0901, 0x0902, 0x0903, 0x0904,
    0x0940, 0x0941, 0x0942, 0x0943, 0x0981, 0x0A01, 0x0D05, 0x0E02]

/-- Opcodes of the local commands. -/
def localOps : List Nat :=
    [0x0102, 0x0104, 0x0284, 0x0305, 0x0504, 0x0685, 0x0A00, 0x0A03, 0x0B00, 0x0B01, 0x0B02, 0x0B03, 0x0B81,
    0x0B82, 0x0C01, 0x0C02, 0x0C03, 0x0C04, 0x0D00, 0x0D02, 0x0D03, 0x0D07, 0x0D82, 0x0D83, 0x0D84, 0x0E00,
    0x0E03, 0x0F01, 0x0F02, 0x0F03, 0x0F04, 0x0F05]

/-- The class of an opcode; none for an unknown opcode (R58/02). -/
def cmdClass (op : Nat) : Option CmdClass :=
  if stateOps.contains op then some .stateChanging
  else if readOnlyOps.contains op then some .readOnly
  else if localOps.contains op then some .local_
  else none

/-- A request as read from its mailbox (R51/02). -/
structure Req where
  mb : Nat
  op : Nat
  tag : Nat
  len : Nat
  flags : Nat
  status : Nat
  gen : Nat
  rest : Nat
  pay : List Byte
  acc : Word                             -- CFG_GEN at the command's acceptance (R55, R56/02)
  now : Word                             -- CFG_GEN as the command executes
  inst : Nat                             -- the instant it executes at
  deriving DecidableEq, Repr

/-- What a command answers: code, response payload, the state it leaves, and whether the state it requests already held
(R49/02). -/
structure Reply where
  code : Code
  pay : List Byte
  st : State
  same : Bool
  deriving DecidableEq, Repr

def mailOf (s : State) (mb : Nat) : List Byte := tabGet (zeros 256) s.ctrl.mail mb

/-- The opcode in a mailbox. -/
def mailOp (s : State) (mb : Nat) : Nat := getU 0 2 (mailOf s mb)

/-- CFG_GEN at the acceptance of the command in `mb`: what was noted when a later mailbox overtook it, else the present one
(R55, R56/02). -/
def acceptGen (s : State) (mb : Nat) : Word := (tabGet none s.ctrl.accepted mb).getD s.ctrl.cfgGen

def requestOf (s : State) (mb : Nat) : Req :=
  let m := mailOf s mb
  { mb := mb, op := getU 0 2 m, tag := getU 2 2 m, len := getU 4 2 m, flags := getU 6 1 m, status := getU 7 1 m
    gen := getU 8 4 m, rest := getU 12 4 m, pay := field 16 (min 240 (getU 4 2 m)) m
    acc := acceptGen s mb, now := s.ctrl.cfgGen, inst := now s }

def Req.u (r : Req) (off n : Nat) : Nat := getU off n r.pay
def Req.i (r : Req) (off n : Nat) : Int := getI off n r.pay

/-- FORCE, bit 1 of FLAGS (R51/02). -/
def Req.force (r : Req) : Bool := bitOf r.flags 1

/-- CHECK_GEN, bit 0 of FLAGS (R51/02). -/
def Req.checkGen (r : Req) : Bool := bitOf r.flags 0

/-- The header bytes that must be zero are zero: FLAGS bits 2-6, STATUS, bytes 12-15 (R51, R58/02). -/
def Req.headerOk (r : Req) : Bool := r.flags % 128 < 4 && r.status == 0 && r.rest == 0

/-- The shape of a command's request: its LENGTH (`none`: the command's own rule) and the payload bytes that must be zero,
as offset and count (R58/02). -/
structure Shape where
  op : Nat
  len : Option Nat
  zero : List (Nat × Nat)
  deriving DecidableEq, Repr

def Shape.fits (h : Shape) (r : Req) : Bool :=
  r.headerOk && (match h.len with | some n => r.len == n | none => decide (r.len ≤ 240))
    && h.zero.all (fun z => allZero (field z.1 z.2 r.pay))

/-! Replies. -/

def okay (s : State) : Reply := ⟨.ok, [], s, false⟩

/-- OK without any change: the requested state already holds (R49/02). -/
def okSame (s : State) : Reply := ⟨.ok, [], s, true⟩

def okWith (pay : List Byte) (s : State) : Reply := ⟨.ok, pay, s, false⟩

/-- A completion code that leaves no change. -/
def refuse (c : Code) (s : State) : Reply := ⟨c, [], s, true⟩

/-- Accepted; COMMAND_DONE follows (R60/02). `obj` names the object it works on. -/
def defer (r : Req) (obj : Nat) (s : State) : Reply :=
  ⟨.deferred, [], onCtrl (fun c => { c with deferred := c.deferred ++ [⟨r.op, r.tag, obj⟩] }) s, false⟩

def codeNum : Code → Nat
  | .ok => 0 | .busy => 1 | .badarg => 2 | .denied => 3 | .range => 4
  | .deferred => 5 | .nores => 6 | .generation => 7 | .timeout => 8 | .fault => 9

/-! Acceptance and the checks every command passes. -/

/-- The opcodes the boot ROM accepts in RECOVERY, on MB0 and MB7 (R78/02). -/
def recoveryOps : List Nat := [0x0F00, 0x0F01, 0x0F02, 0x0F03, 0x0F04, 0x0F05, 0x0100, 0x0101]

/-- The opcodes answered in the latched thermal shutdown (R425/15). -/
def shutdownOps : List Nat := [0x0100, 0x0101, 0x0B80, 0x0F00, 0x0D80, 0x0D81, 0x0D82, 0x0D83]

/-- What the stage answers by itself: BUSY until READY and in a warm restart (R45, R80/02), DENIED for an opcode that
RECOVERY (R78/02) or SHUTDOWN (R425/15) does not take. In RECOVERY a mailbox other than MB0 and MB7 answers DENIED too
(DESIGN CHOICE, notes/assumptions/52.md). -/
def stageGate (r : Req) (s : State) : Option Code :=
  match s.ctrl.stage with
  | .ready => none
  | .recovery => if recoveryOps.contains r.op && (r.mb == 0 || r.mb == 7) then none else some .denied
  | .shutdown => if shutdownOps.contains r.op then none else some .denied
  | _ => some .busy

/-- The role's answer to a state-changing command (R61/02). -/
def roleGate (r : Req) (s : State) : Option Code :=
  if cmdClass r.op = some .stateChanging then
    if s.pair.role = 2 then some .denied else if s.pair.role = 3 then some .busy else none
  else none

/-- The codes that stop a command before its own rules: stage, BADARG (R58), role (R61), GENERATION (R56). -/
def gate (h : Shape) (r : Req) (s : State) : Option Code :=
  match stageGate r s with
  | some c => some c
  | none =>
    if !h.fits r then some .badarg
    else match roleGate r s with
      | some c => some c
      | none => if r.checkGen && r.gen != r.acc.toNat then some .generation else none

/-- What a command answers: the gate's code, or its own rules. -/
def answer (h : Shape) (body : Req → State → Reply) (r : Req) (s : State) : Reply :=
  match gate h r s with
  | some c => refuse c s
  | none => body r s

/-- The command in `mb` changes no state: it is read-only, and neither label.counters with its clear nor label.stats, whose
read clears a flag (09_service_path.md). -/
def changesNothing (s : State) (mb : Nat) : Bool :=
  cmdClass (mailOp s mb) == some .readOnly && mailOp s mb != 0x0684
    && !(mailOp s mb == 0x0682 && getU 20 1 (mailOf s mb) == 1)

/-- Mailbox `mb` is next: rung, with the mailboxes rung before it accepted. Those still wait only where they change no state,
and so may complete in any order (R55/02). -/
def isNext (s : State) (mb : Nat) : Bool :=
  s.ctrl.rung.contains mb && (s.ctrl.rung.takeWhile (· != mb)).all (changesNothing s)

/-- The mailboxes rung before `mb` that still wait were accepted with CFG_GEN at `gen`; `mb` itself is answered. -/
def noteAccepted (mb : Nat) (gen : Word) (c : Ctrl) : Tab (Option Word) :=
  (c.rung.takeWhile (· != mb)).foldl (fun t m => tabMod none t m (fun g => some (g.getD gen)))
    (tabSet none c.accepted mb none)

/-- Every mailbox is ignored from power-fail detection to the end of its path, and while RESET_N is held (R467, R469/18). -/
def mailboxesWork (s : State) : Bool := s.power.phase == .good && !s.power.resetHeld

/-- The command in `mb` is accepted now. -/
def accepts (op mb : Nat) (s : State) : Bool := mailboxesWork s && isNext s mb && mailOp s mb == op

/-- CFG_GEN after a reply (R49/02). -/
def genAfter (r : Req) (a : Reply) : Word :=
  if cmdClass r.op = some .stateChanging ∧ (a.code = .ok ∨ a.code = .deferred) ∧ a.same = false
  then a.st.ctrl.cfgGen + 1 else a.st.ctrl.cfgGen

/-- The response header: RESPONSE set beside the request's flags, the code, CFG_GEN after the command (R51/02). -/
def responseHeader (r : Req) (a : Reply) : List Byte :=
  natBE 2 r.op ++ natBE 2 r.tag ++ natBE 2 a.pay.length
    ++ [BitVec.ofNat 8 (r.flags % 4 + 128), BitVec.ofNat 8 (codeNum a.code)] ++ natBE 4 (genAfter r a).toNat ++ zeros 4

/-- A lead mirrors each state-changing command it accepts (R393/13). -/
def mirrorCommand (r : Req) (a : Reply) : State :=
  onlyIf (cmdClass r.op == some .stateChanging && (a.code == .ok || a.code == .deferred))
    (mirror (.command r.op r.tag (genAfter r a).toNat r.inst r.pay)) a.st

/-- Write the response over the request, clear BUSY, set DONE and raise the mailbox's vector (R51, R53, R68/02). The bytes
beyond the response's LENGTH keep what the request left there (DESIGN CHOICE, notes/assumptions/52.md). -/
def writeResponse (r : Req) (a : Reply) (s : State) : State :=
  raiseVector r.mb
    (onCtrl (fun c => { c with
      cfgGen := genAfter r a
      accepted := noteAccepted r.mb r.now c
      mail := tabSet (zeros 256) c.mail r.mb (overlay 0 (responseHeader r a ++ a.pay) (mailOf a.st r.mb))
      rung := c.rung.erase r.mb
      mbBusy := bvClr c.mbBusy r.mb
      mbDone := bvSet c.mbDone r.mb }) s)

/-- Answer a command, mirrored where the module is a lead. -/
def respond (r : Req) (a : Reply) : State := writeResponse r a (mirrorCommand r a)

/-- A mailbox command: where mailbox `mb` holds this opcode and is next, it is executed and answered; otherwise nothing
happens. -/
def serve (h : Shape) (body : Req → State → Reply) (mb : Nat) (s : State) : State :=
  if accepts h.op mb s then respond (requestOf s mb) (answer h body (requestOf s mb) s) else s

/-- The row of a mailbox command. -/
def mailbox (h : Shape) (body : Req → State → Reply) (mb : Nat) (s : State) : Res :=
  need "mailbox" (okMb mb) (serve h body mb s)

/-- A mailbox command whose execution goes on after its response, unless it was turned away or asked for what held
already. -/
def serveThen (h : Shape) (body : Req → State → Reply) (after : Req → State → State) (mb : Nat) (s : State) : State :=
  onlyIf (accepts h.op mb s && !(answer h body (requestOf s mb) s).same) (after (requestOf s mb)) (serve h body mb s)

def mailboxThen (h : Shape) (body : Req → State → Reply) (after : Req → State → State) (mb : Nat) (s : State) : Res :=
  need "mailbox" (okMb mb) (serveThen h body after mb s)

/-- The row of an opcode the module does not know: BADARG, or what the stage answers (R58, R78/02). -/
def serveUnknown (mb : Nat) (s : State) : State :=
  if mailboxesWork s && isNext s mb && (cmdClass (mailOp s mb)).isNone then
    respond (requestOf s mb) (refuse ((stageGate (requestOf s mb) s).getD .badarg) s)
  else s

/-! Deferred commands (R60/02). -/

/-- The first deferred command with this opcode and object. -/
def findDeferred (s : State) (op obj : Nat) : Option Deferred :=
  s.ctrl.deferred.find? (fun d => d.op == op && d.obj == obj)

/-- COMMAND_DONE for a deferred command; with any other code than OK, CFG_GEN advances once more (R49, R60/02). -/
def commandDone (d : Deferred) (c : Code) (s : State) : State :=
  onCtrl (fun k => { k with
      deferred := k.deferred.erase d
      cfgGen := if c ≠ .ok ∧ cmdClass d.op = some .stateChanging then k.cfgGen + 1 else k.cfgGen }) s
    |> raise 0x0100 9 0 d.tag (natBE 2 d.op ++ [byteOf (codeNum c)])
    |> onlyIf (cmdClass d.op == some .stateChanging) (mirror (.commandDone d.op d.tag (codeNum c)))

/-- End the deferred command of an opcode and object, if one is pending. -/
def finishDeferred (op obj : Nat) (c : Code) (s : State) : State :=
  match findDeferred s op obj with
  | some d => commandDone d c s
  | none => s

/-- End every deferred command of an opcode and object. -/
def finishEach (op obj : Nat) (c : Code) (s : State) : State :=
  forAll (fun d => onlyIf (d.op == op && d.obj == obj) (commandDone d c)) s.ctrl.deferred s

/-- A request of one object byte and three zero bytes. -/
def objShape (op : Nat) : Shape := ⟨op, some 4, [(1, 3)]⟩

/-- A request without payload. -/
def bareShape (op : Nat) : Shape := ⟨op, some 0, []⟩

/-- BADARG where the object byte names no port (R58/02). -/
def onPort (body : Nat → Req → State → Reply) (r : Req) (s : State) : Reply :=
  if okPort (r.u 0 1) then body (r.u 0 1) r s else refuse .badarg s

/-- BADARG where the object byte names no subcarrier (R58/02). -/
def onSc (body : Nat → Req → State → Reply) (r : Req) (s : State) : Reply :=
  if okSc (r.u 0 1) then body (r.u 0 1) r s else refuse .badarg s

/-- The cue time of a request: none where it is malformed (R491/02), `some none` for all zero, else the instant. -/
def cueTime (off : Nat) (r : Req) : Option (Option Nat) :=
  if allZero (field off 10 r.pay) then some none else (readTime10 off r.pay).map some

end Sys2Proof.Machine
end

