-- ==== Sys2Proof/Machine/Bulk.lean ====
section
/-! DEFINITION. Bulk memory and memory protection (11_bulk_memory.md): the addressed memory and its operations, stored
words, errors by consumer, sandglasses, the sweep and the retirement of pseudo-channels. -/

namespace Sys2Proof.Machine

/-! The byte memory, in one canonical form: addresses strictly rising, no byte zero (an unwritten byte reads as zero,
R331). -/

/-- The canonical form of a memory. -/
abbrev Memory.wf (m : List Host.Cell) : Prop := m.Pairwise (fun a b => a.1 < b.1) ∧ ∀ c ∈ m, c.2 ≠ 0

/-- The byte at an address. -/
def memByte : List Host.Cell → Nat → Byte
  | [], _ => 0
  | (a, v) :: m, k => if a = k then v else memByte m k

/-- Write one byte, keeping the canonical form. -/
def memPut : List Host.Cell → Nat → Byte → List Host.Cell
  | [], k, v => if v = 0 then [] else [(k, v)]
  | (a, w) :: m, k, v =>
    if a < k then (a, w) :: memPut m k v
    else
      let rest := if a = k then m else (a, w) :: m
      if v = 0 then rest else (k, v) :: rest

/-- Write consecutive bytes. -/
def memPutAll : List Host.Cell → Nat → List Byte → List Host.Cell
  | m, _, [] => m
  | m, k, v :: bs => memPutAll (memPut m k v) (k + 1) bs

/-- Forget `n` bytes from `k` up: they read as zero. -/
def memDrop (m : List Host.Cell) (k n : Nat) : List Host.Cell := m.filter (fun c => decide (c.1 < k) || decide (k + n ≤ c.1))

/-! Regions and words (R325, R326, R345). -/

def regionOf (addr : Nat) : Nat := addr / 4096

/-- The region that holds region `r` now (R345). -/
def placeOf (s : State) (r : Nat) : Nat :=
  match tabGet 0 s.bulk.place r with
  | 0 => r
  | q => q

/-- The sandglass index of an address: its pseudo-channel, or the on-chip memory (R325, R329). -/
def sandIndex (s : State) (addr : Nat) : Nat :=
  if isOnChip addr then addr / onChipBase else placeOf s (regionOf addr) % 64

/-- Areas (R326). -/
def labelBase : Nat := 0
def counterBase : Nat := 0x05000000
def pmBase : Nat := 0x0F000000
def logBase : Nat := 0x13000000
def tracerBase : Nat := 0x17000000
def stagingBase : Nat := 0x17400000
def delayBase : Nat := 0x20000000
def spareBase : Nat := 0x3E3C00000

/-- The consumer code of a client of an area (R337). -/
def consumerOf (addr : Nat) : Nat :=
  if addr < counterBase then 4 else if addr < pmBase then 5 else if addr < logBase then 7
  else if addr < tracerBase then 8 else if addr < stagingBase then 2 else if addr < 0x17800000 then 9
  else if delayBase ≤ addr ∧ addr < spareBase then 10 else 12

def regionValid (s : State) (r : Nat) : Bool := tabGet false s.bulk.valid r

/-! The areas that State holds as structures: the extended rushes log, whose words are its entries (R446/16), and PM history,
whose layout the spec does not give (R211/06). The module's own writes into them set the valid bits of what they fill. -/

/-- Places of the ring that the continuous log is (R446/16). -/
def contPlaces : Nat := 1032192

/-- Entry `i` of a list kept newest first, 0 the oldest. -/
def oldest (l : List LogEntry) (i : Nat) : Option LogEntry := if i < l.length then l[l.length - 1 - i]? else none

/-- Where the continuous log's list, newest first, has the entry of ring place `k`: the newest of those written there
(R446/16). -/
def contIndex (l : LogSt) (k : Nat) : Nat :=
  let n := l.contN % contPlaces
  if k < n then n - 1 - k else n + contPlaces - 1 - k

def contEntry (l : LogSt) (k : Nat) : Option LogEntry := if k < contPlaces then l.cont[contIndex l k]? else none

/-- The entry in word `k` of the extended log: the snapshot, oldest first, and the continuous log from 1 MiB up (R446/16). -/
def logEntryAt (l : LogSt) (k : Nat) : Option LogEntry := if k < 16384 then oldest l.snap k else contEntry l (k - 16384)

/-- The address lies in the extended log. -/
def inLog (addr : Nat) : Bool := decide (logBase ≤ addr) && decide (addr < tracerBase)

/-- The regions of the extended log that the snapshot and the continuous log have filled. -/
def snapRegions (s : State) : Nat := (s.log.snap.length + 63) / 64
def contRegions (s : State) : Nat := (min s.log.contN contPlaces + 63) / 64

/-- The first region of the snapshot, and of the continuous log. -/
def snapRegion : Nat := 77824
def contRegion : Nat := 78080

def logRegion (s : State) (r : Nat) : Bool :=
  (decide (snapRegion ≤ r) && decide (r < snapRegion + snapRegions s))
    || (decide (contRegion ≤ r) && decide (r < contRegion + contRegions s))

/-- PM history holds a closed bin. -/
def historyKept (s : State) : Bool := decide (1 < s.frame.ep15.length) || decide (1 < s.frame.ep24.length)

/-- The regions of PM history that the closed bins have filled; which they are is open. -/
def pmRegion (s : State) (r : Nat) : Bool :=
  historyKept s && decide (pmBase ≤ 4096 * r) && decide (4096 * r < logBase)
    && Config.pmRegion s.frame.ep15.length s.frame.ep24.length r

/-- The valid bit of a region (R331): set by a write of bulk memory, or by the module's own of the log or the history. -/
def regionHeld (s : State) (r : Nat) : Bool := regionValid s r || logRegion s r || pmRegion s r

/-- The smaller of two numbers, where there are any. -/
def minOpt : Option Nat → Option Nat → Option Nat
  | some a, some b => some (min a b)
  | some a, none => some a
  | none, b => b

/-- The first of `n` regions from `a` up that lies above region `k`. -/
def above (k a n : Nat) : Option Nat := if max (k + 1) a < a + n then some (max (k + 1) a) else none

/-- The regions of PM history. -/
def historyRegions (s : State) : List Nat := if historyKept s then (List.range' 61440 16384).filter (pmRegion s) else []

/-- The first valid region above region `k`. -/
def nextHeld (s : State) (k : Nat) : Option Nat :=
  minOpt ((s.bulk.valid.find? (fun e => e.2 && decide (k < e.1))).map (·.1))
    (minOpt ((historyRegions s).find? (fun r => decide (k < r)))
      (minOpt (above k snapRegion (snapRegions s)) (above k contRegion (contRegions s))))

/-- The number of valid regions. -/
def heldRegions (s : State) : Nat :=
  (s.bulk.valid.filter (fun e => !(logRegion s e.1 || pmRegion s e.1))).length
    + (historyRegions s).length + snapRegions s + contRegions s

/-- The status of a stored word; a word of the extended log has its entry's. -/
def wordStatus (s : State) (w : Nat) : WordStatus :=
  match (if inLog (64 * w) then logEntryAt s.log (w - logBase / 64) else none) with
  | some e => e.word
  | none => tabGet .clean s.bulk.status w

/-- Give the entry in word `k` of the extended log a status. -/
def setLogWord (k : Nat) (t : WordStatus) (l : LogSt) : LogSt :=
  let f := fun e : LogEntry => { e with word := t }
  if k < 16384 then { l with snap := l.snap.modify (l.snap.length - 1 - k) f }
  else { l with cont := l.cont.modify (contIndex l (k - 16384)) f }

def setStatus (w : Nat) (t : WordStatus) (s : State) : State :=
  if inLog (64 * w) && (logEntryAt s.log (w - logBase / 64)).isSome then onLog (setLogWord (w - logBase / 64) t) s
  else onBulk (fun b => { b with status := tabSet .clean b.status w t }) s

/-- A byte of bulk memory; a region whose valid bit is clear reads as zero (R331). -/
def bulkByte (s : State) (a : Nat) : Byte := if regionValid s (regionOf a) then memByte s.bulk.mem a else 0

def bulkBytes (s : State) (a n : Nat) : List Byte := (List.range n).map (fun k => bulkByte s (a + k))

/-- The word is reported uncorrectable: uncorrectable or poisoned (R328). -/
def wordBad (s : State) (a : Nat) : Bool :=
  regionHeld s (regionOf a) && (wordStatus s (a / 64) == .uncorrectable || wordStatus s (a / 64) == .poisoned)

/-! Sandglasses (R340). -/

/-- A corrected error: the level rises by one; above the depth it overflows, which raises BULK_SANDGLASS, counts one fault
against the index and sets the level to 0. -/
def sandAdd (g : Nat) (s : State) : State :=
  let x := sandOf s g
  let spill := decide (x.depth < x.level + 1)
  onSandOf g (fun x => { x with
      corr := satAdd max64 x.corr 1, level := if spill then 0 else x.level + 1
      overflows := if spill then satAdd max32 x.overflows 1 else x.overflows }) s
    |> onlyIf spill (fun s =>
        unitFault 5 g (raise 0x0800 25 0 0 ([byteOf g, 0, 0, 0] ++ natBE 4 (min max32 (sandOf s g).corr)) s))

/-- A corrected word: counted, one increment of the sandglass (R333, R335). -/
def correctedWord (addr : Nat) (s : State) : State :=
  onBulk (fun b => { b with corrected := if isOnChip addr then b.corrected else satAdd max64 b.corrected 1 }) s
    |> sandAdd (sandIndex s addr)

/-- An uncorrectable or poisoned word: BULK_UE with the consumer and address, counted, one fault of the index (R337). -/
def uncorrectableWord (c addr : Nat) (s : State) : State :=
  let g := sandIndex s addr
  let s1 := onSandOf g (fun x => { x with unc := satAdd max64 x.unc 1 }) s
  onBulk (fun b => { b with
      unc := if isOnChip addr then b.unc else satAdd max64 b.unc 1
      lastUe := if isOnChip addr then b.lastUe else addr }) s1
    |> raise 0x0801 15 0 0 ([byteOf c, byteOf g] ++ natBE 6 (addr % onChipBase))
    |> unitFault 5 g

/-! Writes (R331, R333, R334). -/

/-- The first write to a region fills it with zeros and sets its valid bit (R331). -/
def fillRegion (r : Nat) (s : State) : State :=
  onlyIf (!regionHeld s r) (onBulk (fun b => { b with
    mem := memDrop b.mem (4096 * r) 4096
    status := b.status.filter (fun e => e.1 / 64 != r)
    valid := tabSet false b.valid r true })) s

/-- The status of the stored word as its read shows it: the stored status, or worse where the decoder reports `syms`
symbols in error (0 none, 1 one, 2 or more uncorrectable; R327). A poisoned word that takes another error is uncorrectable
(R328). -/
def readStatus (s : State) (addr syms : Nat) : WordStatus :=
  match wordStatus s (addr / 64) with
  | .poisoned => if syms = 0 then .poisoned else .uncorrectable
  | .uncorrectable => .uncorrectable
  | .correctable => if 1 ≤ syms then .uncorrectable else .correctable
  | .clean => if syms = 0 then .clean else if syms = 1 then .correctable else .uncorrectable

/-- The label's line is treated as unknown until label.set rewrites it; LABEL_UNCORRECTABLE (R272/09). -/
def losesLine (line : Nat) (s : State) : State :=
  onSvc (fun v => { v with
      ueLines := including line v.ueLines
      cache := tabMod [] v.cache (line % 4096) (without line) }) s
    |> raise 0x0681 23 0 0 (natBE 4 (4 * line))

/-- The table of R333 for a write into part of a word of a valid region; a line of labels that it finds uncorrectable is lost. -/
def mergeWord (addr syms : Nat) (s : State) : State :=
  match readStatus s addr syms with
  | .clean => setStatus (addr / 64) .clean s
  | .correctable => correctedWord addr (setStatus (addr / 64) .clean s)
  | .uncorrectable =>
    setStatus (addr / 64) .poisoned s
      |> onBulk (fun b => { b with poisonWrites := satAdd max64 b.poisonWrites 1 })
      |> uncorrectableWord (consumerOf addr) addr
      |> onlyIf (consumerOf addr == 4) (losesLine (addr / 64))
  | .poisoned => onBulk (fun b => { b with poisonWrites := satAdd max64 b.poisonWrites 1 }) s

/-- A write within one word: a whole word replaces what it held, part of one is a read-modify-write. -/
def storeWord (addr : Nat) (data : List Byte) (syms : Nat) (s : State) : State :=
  let was := regionHeld s (regionOf addr)
  let s1 := fillRegion (regionOf addr) s
  let s2 := if data.length = 64 ∨ was = false then setStatus (addr / 64) .clean s1 else mergeWord addr syms s1
  onBulk (fun b => { b with mem := memPutAll b.mem addr data }) s2

/-- A write of any length, word by word; `n` bounds the words. -/
def storeFrom : Nat → Nat → List Byte → Nat → State → State
  | 0, _, _, _, s => s
  | n + 1, addr, data, syms, s =>
    let k := 64 - addr % 64
    if data = [] then s
    else storeFrom n (addr + k) (data.drop k) 0 (storeWord addr (data.take k) syms s)

def store (addr : Nat) (data : List Byte) (syms : Nat) (s : State) : State :=
  storeFrom (data.length / 64 + 2) addr data syms s

/-- Injection point 0x104: the next partial write of a pseudo-channel finds the stored word uncorrectable (R443/16). -/
def partialSyms (addr syms : Nat) (s : State) : Nat := if injFor s 0x104 (sandIndex s addr) then 2 else syms

/-- BULK_PARTIAL_WRITE (R333). -/
def execBulkPartialWrite (addr : Nat) (data : List Byte) (syms : Nat) (s : State) : Res :=
  if bulkEnd < addr + data.length then .fault .bulkAddress
  else .next
    (onlyIf (injFor s 0x104 (sandIndex s addr)) (injAct 0x104) s |> store addr data (partialSyms addr syms s))

/-! Consequences by consumer (R337). -/

/-- The packets of the tributary queues: tributary, express or not, place in the queue. -/
def queuedPackets (s : State) : List (Nat × Bool × Nat) :=
  s.svc.trib.flatMap (fun e =>
    (List.range e.2.express.length).map (fun i => (e.1, true, i)) ++ (List.range e.2.normal.length).map (fun i => (e.1, false, i)))

/-- The packets of the egress queues, which lie in the same memory (R288/09): host port, place in the queue. -/
def queuedEgress (s : State) : List (Nat × Nat) :=
  s.svc.egress.flatMap (fun e => (List.range e.2.length).map (fun i => (e.1, i)))

/-- A packet of a tributary queue is dropped as errored; its cells are free. -/
def dropTransmit (t : Nat) (express : Bool) (i : Nat) (s : State) : State :=
  let x := tribOf s t
  match (if express then x.express else x.normal)[i]? with
  | none => s
  | some q =>
    onTribOf t (fun x => { x with
        express := if express then x.express.eraseIdx i else x.express
        normal := if express then x.normal else x.normal.eraseIdx i }) s
      |> onTribOf q.trib (fun x => { x with occ := x.occ - q.cells, dropErr := satAdd max64 x.dropErr 1 })

/-- A packet of an egress queue is dropped as errored. -/
def dropEgress (nn i : Nat) (s : State) : State :=
  match (tabGet [] s.svc.egress nn)[i]? with
  | none => s
  | some p =>
    onSvc (fun v => { v with egress := tabMod [] v.egress nn (·.eraseIdx i) }) s
      |> onTribOf p.trib (fun x => { x with dropErr := satAdd max64 x.dropErr 1 })

/-- Consumer 3: the packet is dropped as errored and counted in its tributary. Which queued packet the word holds is a free
value. -/
def dropQueued (s : State) : State :=
  let a := queuedPackets s
  let b := queuedEgress s
  let i := freeBelow (a.length + b.length) s
  match a[i]?, b[i - a.length]? with
  | some p, _ => useFree (dropTransmit p.1 p.2.1 p.2.2 s)
  | none, some p => useFree (dropEgress p.1 p.2 s)
  | none, none => s

/-- The increments of a counter line, held or pending, are no more. -/
def forgetCounts (line : Nat) (s : State) : State :=
  onSvc (fun v => { v with
    ctrPend := v.ctrPend.filter (fun e => e.1 / 2 != line), ctrHeld := v.ctrHeld.filter (fun e => e.1 / 2 != line) }) s

/-- Consumer 5: the line is written back as zeros; its two sets restart from zero. -/
def zeroCounterLine (line : Nat) (s : State) : State :=
  store (counterBase + 64 * line) (zeros 64) 0 (forgetCounts line s)

/-- Consumer 6: both key slots are erased (the context table holds 16 words a context). -/
def eraseContext (c : Nat) (s : State) : State := onCtxOf c (fun x => { x with cur := none, nxt := none }) s

/-- Consumer 11: the line is dropped; a counter line loses the increments since its last write-back. Which line a cache
word holds is a free value, in the label cache within the word's set. -/
def dropCacheLine (g w : Nat) (s : State) : State :=
  let f := freeNat s
  let line := s.svc.ctrCache.getD (f % s.svc.ctrCache.length) 0
  useFree (onSvc (fun v => { v with
    cache := if g = 65 then tabMod [] v.cache (w / 8 / 16) (fun ls => ls.eraseIdx (f % 16)) else v.cache
    ctrCache := if g = 66 then without line v.ctrCache else v.ctrCache
    ctrHeld := if g = 66 then v.ctrHeld.filter (fun e => e.1 / 2 != line) else v.ctrHeld }) s)

/-- Slot-frames that wait in delay lines: tributary, place among those that wait. -/
def delayedFrames (s : State) : List (Nat × Nat) :=
  s.svc.trib.flatMap (fun e => if e.2.bulk then (List.range e.2.arrived.length).map (fun i => (e.1, i)) else [])

/-- All bytes of a slot-frame count as errored. -/
def allErrored (f : SlotFrame) : SlotFrame := { f with bytes := f.bytes.map (fun b => (b.1, true)) }

/-- Consumer 10: every slot-frame with a byte in the word is taken as errored. A word of 64 bytes touches one slot-frame or two
that follow one another; which they are is a free value. -/
def markDelayed (s : State) : State :=
  let l := delayedFrames s
  match l[freeBelow l.length s]? with
  | none => s
  | some (t, i) =>
    let two := freeNat (useFree s) % 2 == 1
    useFrees 2 (onTribOf t (fun x => { x with
      arrived := (x.arrived.modify i allErrored).modify (i + 1) (fun f => if two then allErrored f else f) }) s)

/-- The channel whose item an address holds: the tracer buffer, the rushes ring, or the event ring's own data. -/
def dmaOf (addr : Nat) : Nat :=
  if isOnChip addr then (if addr / onChipBase = 68 then 2 else 0)
  else if tracerBase ≤ addr ∧ addr < stagingBase then 1
  else if logBase ≤ addr ∧ addr < tracerBase then 2 else 0

/-- Mark bin `i` of the history as lost, 0 the newest closed. -/
def loseBin (i : Nat) : List PmBin → List PmBin
  | [] => []
  | cur :: l => cur :: l.modify i (fun b => { b with lost := true })

/-- Consumer 7: the bin reads as zeros with its irregular flag set. Which closed bin the word holds is a free value. -/
def losesBin (s : State) : State :=
  match s.frame.pm[freeBelow s.frame.pm.length s]? with
  | none => s
  | some (key, o) =>
    let day := freeNat (useFree s) % 2 == 1
    let i := freeBelow (max 1 ((if day then o.bins24 else o.bins15).length - 1)) (useFrees 2 s)
    useFrees 3 (onPmObj key (fun o =>
      if day then { o with bins24 := loseBin i o.bins24 } else { o with bins15 := loseBin i o.bins15 }) s)

/-- The consequence of an uncorrectable word for its consumer (R337). Code 1 traps through CORE_FETCH_UE, codes 8 and 9 show in
the reads of the log and the staging area. -/
def consequence (c addr : Nat) (s : State) : State :=
  match c with
  | 2 => haltDma (dmaOf addr) s
  | 3 => dropQueued s
  | 4 => losesLine (addr / 64) s
  | 5 => zeroCounterLine ((addr - counterBase) / 64) s
  | 6 => eraseContext (addr % onChipBase / 16) s
  | 7 => losesBin s
  | 10 => markDelayed s
  | 11 => dropCacheLine (addr / onChipBase) (addr % onChipBase) s
  | _ => s

/-! Reads (R330, R331, R335, R337). -/

/-- The valid bit of an on-chip word (R330): the words that the queues, the caches and the context table have written, the entries
of the rushes ring, the image in instruction SRAM, and what the firmware has written into data SRAM. -/
def chipValid (s : State) (addr : Nat) : Bool :=
  let w := addr % onChipBase
  match addr / onChipBase with
  | 67 => tabGet false s.bulk.chip (addr / 8) || decide (ctxOf s (w / 16) ≠ {})
  | 68 => decide (w / 8 < s.log.ring.length)
  | 69 => decide (8 * w < s.fw.loaded)
  | 70 => decide (0 < s.fw.loaded) && Config.firmwareWrites w
  | _ => tabGet false s.bulk.chip (addr / 8)

/-- The valid bit of a word, on chip or of its region. -/
def wordValid (s : State) (addr : Nat) : Bool := if isOnChip addr then chipValid s addr else regionHeld s (regionOf addr)

/-- What the decoder of a word's memory reports with `syms` symbols, or bits, in error. -/
def shownStatus (s : State) (addr syms : Nat) : WordStatus :=
  if isOnChip addr then (if syms = 0 then .clean else if syms = 1 then .correctable else .uncorrectable)
  else readStatus s addr syms

/-- A checked read of one word by a consumer: corrected with a write-back, or handled as uncorrectable. An unwritten word reads as
zero and is not checked. Of the symbols in error `inj` are inverted on the read alone and stay out of the stored word. -/
def readMore (c addr syms inj : Nat) (s : State) : State :=
  if !wordValid s addr then s
  else
    match shownStatus s addr (syms + inj) with
    | .clean => s
    | .correctable => correctedWord addr (if isOnChip addr then s else setStatus (addr / 64) .clean s)
    | .uncorrectable =>
      uncorrectableWord c addr
        (onlyIf (!isOnChip addr && readStatus s addr syms == .uncorrectable) (setStatus (addr / 64) .uncorrectable) s)
        |> consequence c addr
    | .poisoned => uncorrectableWord c addr s |> consequence c addr

def readWord (c addr syms : Nat) (s : State) : State := readMore c addr syms 0 s

/-- The symbols in error that injection adds to the next read: points 0x100 and 0x101 for a pseudo-channel, 0x102 and
0x103 for an on-chip memory (R443/16). -/
def injectedPoint (addr : Nat) (s : State) : Option Nat :=
  let g := sandIndex s addr
  if !wordValid s addr then none
  else if g < 64 then (if injFor s 0x101 g then some 0x101 else if injFor s 0x100 g then some 0x100 else none)
  else if injFor s 0x103 g then some 0x103 else if injFor s 0x102 g then some 0x102 else none

/-- Injected errors invert symbols on the read, so the stored word is unchanged: a clean word is read with one more or two
more symbols in error. -/
def readInjected (c addr syms : Nat) (s : State) : State :=
  match injectedPoint addr s with
  | none => readWord c addr syms s
  | some pt => readMore c addr syms (if pt % 2 = 0 then 1 else 2) (injAct pt s)

/-- The symbols that injection adds to the next read of a word. -/
def injectedSyms (addr : Nat) (s : State) : Nat :=
  match injectedPoint addr s with
  | none => 0
  | some pt => if pt % 2 = 0 then 1 else 2

/-- The next read of a word shows it uncorrectable or poisoned. -/
def readFails (addr : Nat) (s : State) : Bool :=
  wordValid s addr && (match shownStatus s addr (injectedSyms addr s) with
    | .uncorrectable | .poisoned => true
    | .clean | .correctable => false)

/-- Consumer `c` reads words in order: whether each read fails, and what the reads leave (R337). -/
def readWords (c : Nat) : List Nat → State → List Bool × State
  | [], s => ([], s)
  | a :: l, s =>
    let r := readWords c l (readInjected c a 0 s)
    (readFails a s :: r.1, r.2)

/-- BULK_READ (R337): a read by consumer `c`. -/
def execBulkRead (c addr syms : Nat) (s : State) : Res :=
  if okAddr addr then .next (readInjected c addr syms s) else .fault .bulkAddress

/-! The sweep (R338, R339). -/

def sweepOn (onChip : Bool) (s : State) : Bool :=
  !s.bulk.suspended && (if onChip then s.bulk.chipOn else s.bulk.bulkOn)

/-- The word the bulk sweep reads next: valid regions in ascending order, each word by word. -/
def nextSwept (s : State) : Option Nat :=
  if regionHeld s (regionOf s.bulk.sweepAt) then some s.bulk.sweepAt
  else (nextHeld s (regionOf s.bulk.sweepAt)).map (4096 * ·)

/-- The step is the sweep's next: of the bulk sweep the word due, of the on-chip sweep any valid word. -/
def sweepDue (onChip : Bool) (addr : Nat) (s : State) : Bool :=
  sweepOn onChip s && (isOnChip addr == onChip)
    && (if onChip then chipValid s addr else nextSwept s == some (addr / 64 * 64))

/-- SWEEP_STEP (R338): the sweep reads its next valid word; the last word of a region counts the region as swept. -/
def sweepStep (onChip : Bool) (addr syms : Nat) (s : State) : State :=
  if sweepDue onChip addr s then
    readInjected 12 addr syms s
      |> onlyIf (!onChip) (onBulk (fun b => { b with
          sweepAt := addr / 64 * 64 + 64, swept := if addr % 4096 / 64 == 63 then b.swept + 1 else b.swept }))
  else s

def execSweepStep (onChip : Bool) (addr syms : Nat) (s : State) : Res :=
  if okAddr addr then .next (sweepStep onChip addr syms s) else .fault .bulkAddress

/-- The time a pass has: the pass time less the lateness to make up, at least half the pass time (R339). -/
def passTarget (pass late : Nat) : Nat := max (pass / 2) (pass - late)

/-- A pass ends after `dur` seconds: lateness is carried to the next pass; more than 10 % of the pass time late raises
BULK_SWEEP_LATE (R339). -/
def sweepPassEnd (onChip : Bool) (dur : Nat) (s : State) : State :=
  let pass := if onChip then s.bulk.chipPass else 3600 * s.bulk.bulkPass
  let carried := if onChip then s.bulk.shortenChip else s.bulk.shorten
  let late := dur - passTarget pass carried
  let s1 := onBulk (fun b => { b with
      swept := if onChip then b.swept else 0
      sweepAt := if onChip then b.sweepAt else 0
      lastPass := if onChip then b.lastPass else dur
      shorten := if onChip then b.shorten else carried + dur - pass
      shortenChip := if onChip then carried + dur - pass else b.shortenChip }) s
  onlyIf (decide (pass < 10 * late)) (raise 0x0802 25 0 0 ([byteOf (b2n onChip), 0, 0, 0] ++ natBE 4 late)) s1

def execSweepPassEnd (onChip : Bool) (dur : Nat) (s : State) : Res := .next (sweepPassEnd onChip dur s)

/-- Once per leak period the level falls by one (R340). -/
def execSandglassLeak (g : Nat) (s : State) : Res :=
  need "sandglass" (okSand g) (onSandOf g (fun x => { x with level := x.level - 1 }) s)

/-! Bandwidth (R324, R344). -/

/-- Sustained bandwidth in 0.1 GB/s. -/
def sustained (s : State) : Nat := 1125 * activePcs s

/-- The delay-line limit in 0.1 GB/s. -/
def delayLimit (s : State) : Nat := min 53900 (sustained s - 11930)

/-- Bandwidth the delay lines hold reserved, MB/s. -/
def delayReserved (s : State) : Nat := (s.bulk.reserveRate.map (·.2)).sum

/-! Sharing the bandwidth (R342, R343), in MB/s. -/

/-- The guarantees in priority order: the delay lines' reservations, then R342's table. -/
def guarantees (s : State) : List Nat := [delayReserved s, 272000, 816000, 50000, 10000, 25000, 10000, 10000]

/-- In order, each client takes what it wants of what is left, up to its bound: (want, bound, what it has). -/
def share : Nat → List (Nat × Nat × Nat) → List Nat × Nat
  | left, [] => ([], left)
  | left, (want, bound, has) :: l =>
    let x := min left (min bound (want - has))
    let r := share (left - x) l
    ((has + x) :: r.1, r.2)

/-- What the eight clients get of what they want: first their guarantees in priority order, then the headroom in the same order.
Where the sustained rate falls short the last clients yield first; the delay lines, which want no more than their
reservations, never do (R343, R344). -/
def clientRates (s : State) (wants : List Nat) : List Nat :=
  let w := wants.set 0 (min (delayReserved s) (wants.getD 0 0))
  let g := share (100 * sustained s) (w.zip ((guarantees s).map (·, 0)))
  (share g.2 (w.zip (g.1.map (fun x => (100 * sustained s, x))))).1

/-! Retiring a pseudo-channel (R345, R346). -/

def pcState (s : State) (g : Nat) : PcState := tabGet .active s.bulk.pcs g

/-- The spare regions stand above the 64 times 63,728 regions in use, up to 7,895,104 (R326). -/
def firstSpare : Nat := 4078592
def endSpare : Nat := 7895104

/-- Every spare region from here up is free. Below it a free one belongs to a pseudo-channel that was itself retired: the
spares are taken lowest first (DEDUCED), leaving out only those of the pseudo-channel that is being retired. -/
def spareStart (s : State) : Nat := s.bulk.place.foldl (fun m e => max m (e.2 + 1)) firstSpare

/-- A spare of pseudo-channel `x` may take a region of `g`. -/
def spareFor (s : State) (g x : Nat) : Bool := x != g && pcState s x == .active

/-- The free spare regions that pseudo-channels other than `g` hold, the lowest first. -/
def freeSpares (s : State) (g : Nat) : List Nat :=
  (List.range' (spareStart s) (endSpare - spareStart s)).filter (fun q => spareFor s g (q % 64))

/-- The numbers below `n` that are `x` modulo 64. -/
def countMod64 (n x : Nat) : Nat := (n + 63 - x) / 64

/-- How many there are. -/
def spareCount (s : State) (g : Nat) : Nat :=
  (((List.range 64).filter (spareFor s g)).map (fun x => countMod64 endSpare x - countMod64 (spareStart s) x)).sum

/-- Regions of another pseudo-channel's numbers that `g` holds in a spare place. -/
def movedIn (s : State) (g : Nat) : List Nat :=
  (s.bulk.place.filter (fun e => e.2 % 64 == g && e.1 % 64 != g)).map (·.1)

/-- Regions with a number of `g` that another pseudo-channel holds. -/
def movedOut (s : State) (g : Nat) : List Nat :=
  (s.bulk.place.filter (fun e => e.2 % 64 != g && e.1 % 64 == g)).map (·.1)

/-- Two ascending lists, as one; the first argument bounds their lengths, `acc` holds what is merged, the last first. -/
def mergeAsc : Nat → List Nat → List Nat → List Nat → List Nat
  | 0, _, _, acc => acc.reverse
  | _ + 1, [], ys, acc => acc.reverseAux ys
  | _ + 1, xs, [], acc => acc.reverseAux xs
  | n + 1, x :: xs, y :: ys, acc =>
    if x < y then mergeAsc n xs (y :: ys) (x :: acc) else mergeAsc n (x :: xs) ys (y :: acc)

/-- The regions that pseudo-channel `g` holds, in ascending order. -/
def regionsOf (s : State) (g : Nat) : List Nat :=
  let out := movedOut s g
  let own := ((List.range 63728).map (fun k => 64 * k + g)).filter (fun r => !out.contains r)
  mergeAsc (own.length + s.bulk.place.length + 1) own (movedIn s g) []

/-- How many there are. -/
def regionCount (s : State) (g : Nat) : Nat := 63728 - (movedOut s g).length + (movedIn s g).length

/-- Too few free spare regions (R346): the number of them, against the regions of `g`. -/
def sparesShort (s : State) (g : Nat) : Bool := decide (spareCount s g < regionCount s g)

/-- Give the regions of an ascending list their places; the first argument bounds the lengths, `acc` holds what is done,
the last first. -/
def placeAll : Nat → List (Nat × Nat) → Tab Nat → Tab Nat → Tab Nat
  | 0, _, t, acc => acc.reverseAux t
  | _ + 1, [], t, acc => acc.reverseAux t
  | _ + 1, ps, [], acc => acc.reverseAux ps
  | n + 1, p :: ps, e :: t, acc =>
    if p.1 < e.1 then placeAll n ps (e :: t) (p :: acc)
    else if p.1 = e.1 then placeAll n ps t (p :: acc)
    else placeAll n (p :: ps) t (e :: acc)

def givePlaces (ps : List (Nat × Nat)) (t : Tab Nat) : Tab Nat := placeAll (ps.length + t.length + 1) ps t []

/-- BULK_BUDGET where the limit has fallen below the reservations (R344). -/
def budgetCheck (s : State) : State :=
  onlyIf (decide (100 * delayLimit s < delayReserved s))
    (raise 0x0805 15 0 0 (natBE 4 (delayLimit s / 10) ++ natBE 4 (delayReserved s / 1000))) s

/-- After the last region: the pseudo-channel is absent, BULK_PC_RETIRED is raised. -/
def pcRetired (g poisoned : Nat) (s : State) : State :=
  onBulk (fun b => { b with pcs := tabSet .active b.pcs g .retired, migr := none }) s
    |> retired 5 g
    |> (fun s => raise 0x0804 15 0 0 ([byteOf g, byteOf (activePcs s), 0, 0] ++ natBE 4 poisoned) s)
    |> finishDeferred 0x0805 g .ok
    |> budgetCheck

/-- Begin a retirement: BULK_PC_RETIRING; every region is given a spare, invalid ones switch at once, valid ones are
copied. -/
def startMigration (g : Nat) (s : State) : State :=
  let pairs := (regionsOf s g).zip (freeSpares s g)
  let s1 := raise 0x0803 15 0 0 [byteOf g] s
    |> onBulk (fun b => { b with
        pcs := tabSet .active b.pcs g .migrating
        migr := some { pc := g, todo := pairs.filter (fun e => regionHeld s e.1), poisoned := 0, before := b.place }
        place := givePlaces (pairs.filter (fun e => !regionHeld s e.1)) b.place })
  onlyIf (!pairs.any (fun e => regionHeld s e.1)) (pcRetired g 0) s1

/-- PSEUDO_CHANNEL_RETIRE: the queued retirement of this pseudo-channel runs, one migration at a time. -/
def pcRetire (g : Nat) (s : State) : State :=
  if nextRetirement s 5 = some g ∧ s.bulk.migr = none ∧ pcState s g = .active then
    if sparesShort s g then raise 0x0806 15 0 0 [byteOf g] (notRetired 5 g s)
    else startMigration g s
  else s

def execPseudoChannelRetire (g : Nat) (s : State) : Res := need "pseudo-channel" (okPc g) (pcRetire g s)

/-- One word of a region on its way: corrected, or written poisoned and counted by consumer 12. `bad` says that the copy
finds it uncorrectable. -/
def copyWord (r : Nat) (bad : Nat) (k : Nat) (s : State) : State :=
  let addr := 4096 * r + 64 * k
  match readStatus s addr (if bitOf bad k then 2 else 0) with
  | .clean => s
  | .correctable => correctedWord addr (setStatus (addr / 64) .clean s)
  | _ =>
    uncorrectableWord 12 addr (setStatus (addr / 64) .poisoned s)
      |> onBulk (fun b => { b with migr := b.migr.map (fun m => { m with poisoned := m.poisoned + 1 }) })

/-- MIGRATION_REGION_COPY: the first region to copy is complete and switches to its new place; `bad` marks the words the
copy found uncorrectable. -/
def regionCopy (bad : Nat) (s : State) : State :=
  match s.bulk.migr with
  | none => s
  | some m =>
    match m.todo with
    | [] => s
    | (r, q) :: rest =>
      let s1 := forAll (copyWord r bad) (List.range 64) s
        |> onBulk (fun b => { b with
            place := tabSet 0 b.place r q
            migr := b.migr.map (fun m => { m with todo := rest }) })
      onlyIf rest.isEmpty (fun s => pcRetired m.pc (match s.bulk.migr with | some m => m.poisoned | none => 0) s) s1

def execMigrationRegionCopy (bad : Nat) (s : State) : Res := .next (regionCopy bad s)

/-! Commands. -/

/-- bulk.sweep (0x0800). -/
def bulkSweep (r : Req) (s : State) : Reply :=
  if r.u 0 2 < 1 ∨ 168 < r.u 0 2 ∨ r.u 2 2 < 1 ∨ 600 < r.u 2 2 then refuse .range s
  else okay (onBulk (fun b => { b with
    bulkPass := r.u 0 2, chipPass := r.u 2 2, bulkOn := bitOf (r.u 4 1) 0, chipOn := bitOf (r.u 4 1) 1 }) s)

def execBulkSweep (mb : Nat) (s : State) : Res := mailbox ⟨0x0800, some 8, [(5, 3)]⟩ bulkSweep mb s

/-- bulk.sandglass (0x0801): the level is kept, limited to the new depth. -/
def bulkSandglass (r : Req) (s : State) : Reply :=
  let g := r.u 0 1
  if r.u 2 2 < 1 ∨ r.u 4 4 < 1 ∨ 86400 < r.u 4 4 ∨ (70 < g ∧ g < 255) then refuse .range s
  else okay (forAll (fun g => onSandOf g (fun x => { x with
      depth := r.u 2 2, leak := r.u 4 4, level := min x.level (r.u 2 2) }))
    (if g = 255 then List.range 71 else [g]) s)

def execBulkSandglassSet (mb : Nat) (s : State) : Res := mailbox ⟨0x0801, some 8, [(1, 1)]⟩ bulkSandglass mb s

/-- bulk.status (0x0802). -/
def bulkStatus (_ : Req) (s : State) : Reply :=
  let b := s.bulk
  okWith ([byteOf (activePcs s), byteOf (match b.migr with | some m => m.pc | none => 0xFF), 0, 0]
    ++ natBE 4 (heldRegions s) ++ natBE 4 (freeRegions s) ++ natBE 4 (b.reserve.map (·.2)).sum
    ++ natBE 4 (delayLimit s / 10) ++ natBE 4 (delayReserved s / 1000) ++ natBE 4 (sustained s / 10)
    ++ natBE 4 b.swept ++ natBE 4 b.lastPass ++ zeros 4
    ++ natBE 8 b.corrected ++ natBE 8 b.unc ++ natBE 8 b.poisonWrites ++ natBE 8 b.lastUe) s

def execBulkStatus (mb : Nat) (s : State) : Res := mailbox (bareShape 0x0802) bulkStatus mb s

def pcNum : PcState → Nat
  | .active => 0 | .migrating => 1 | .retired => 2

/-- bulk.memstatus (0x0803). -/
def bulkMemstatus (r : Req) (s : State) : Reply :=
  let g := r.u 0 1
  let x := sandOf s g
  if 70 < g then refuse .range s
  else okWith ([byteOf (if g < 64 then pcNum (pcState s g) else 0), 0] ++ natBE 2 x.level ++ natBE 2 x.depth ++ [0, 0]
    ++ natBE 4 x.leak ++ natBE 4 x.overflows ++ natBE 8 x.corr ++ natBE 8 x.unc) s

def execBulkMemstatus (mb : Nat) (s : State) : Res := mailbox (objShape 0x0803) bulkMemstatus mb s

/-- bulk.budget (0x0804): what each client had over the last second, and the seconds in which it yielded. What each wanted and, but
for the delay lines, how often it yielded follow from no rule: free values. -/
def bulkBudget (_ : Req) (s : State) : Reply :=
  let f := freeList 16 s
  let rates := clientRates s (f.take 8)
  okWith ((List.range 8).flatMap (fun k =>
    natBE 4 (rates.getD k 0 / 1000) ++ natBE 4 (if k = 0 then 0 else f.getD (8 + k) 0))) (useFrees 16 s)

def execBulkBudgetRead (mb : Nat) (s : State) : Res := mailbox (bareShape 0x0804) bulkBudget mb s

/-- bulk.retire (0x0805). -/
def bulkRetire (r : Req) (s : State) : Reply :=
  let g := r.u 0 1
  if 63 < g ∨ r.u 2 2 ≠ 0xA55A then refuse .badarg s
  else if pcState s g = .retired ∨ s.bulk.migr.isSome then refuse .denied s
  else if sparesShort s g then refuse .nores s
  else defer r g s

/-- The migration starts once the command is answered DEFERRED. -/
def retireStarts (r : Req) (s : State) : State :=
  onlyIf ((findDeferred s 0x0805 (r.u 0 1)).isSome && s.bulk.migr == none) (startMigration (r.u 0 1)) s

def execBulkRetire (mb : Nat) (s : State) : Res := mailboxThen ⟨0x0805, some 4, [(1, 1)]⟩ bulkRetire retireStarts mb s

end Sys2Proof.Machine
end

