-- ==== Sys2Proof/Machine/Monitor.lean ====
section
/-! DEFINITION. Monitor converters: housekeeping and lending, sync resets, outputs, and the mon commands
(14_monitor_converters.md). -/

namespace Sys2Proof.Machine

/-! The modulator grid and the stream chain (R410 to R415). -/

/-- One modulator clock, 97.65625 ns, in ticks. -/
def modTicks : Nat := 6400000

def edgeAfter (t : Nat) : Nat := gridAfter modTicks t

/-- Bypass code of the resampler. -/
def bypassQ : Nat := 65536

/-- Settling counts by h, alone and interleaved (R413). -/
def settleTable (inter : Bool) (h : Nat) : Nat :=
  if inter then [10, 14, 16, 17, 17, 18, 18].getD h 18 else [5, 12, 15, 17, 18, 18, 18].getD h 18

/-- Group delays by h, in 0.1 ns (R413). -/
def delayTable (inter : Bool) (h : Nat) : Nat :=
  if inter then [60547, 201172, 482422, 1044922, 2169922, 4419922, 8919922].getD h 0
  else [60547, 341797, 904297, 2029297, 4279297, 8779297, 17779297].getD h 0

/-- Period of the table's rate in 0.1 ns: 3.125 us times 2^h, half of it interleaved. -/
def tablePeriod (inter : Bool) (h : Nat) : Nat := if inter then 15625 * 2 ^ h else 31250 * 2 ^ h

/-- Clocks of a scan slot (R415). -/
def slotClocks (k : Nat) : Nat := 2 ^ k + 48

/-- Output rate in mS/s; the rounding of one that is no whole number is open (R413 to R415). -/
def outRate (mode h k q : Nat) : Nat :=
  if mode = 1 ∨ mode = 2 then
    (meanOf 32 (320000000 * (if mode = 2 then 2 else 1) * q) (2 ^ h * bypassQ)).toNat
  else (meanOf 32 10240000000 (slotClocks k)).toNat

/-- Group delay in 0.1 ns. -/
def groupDelay (mode h k q : Nat) : Nat :=
  if mode = 1 ∨ mode = 2 then
    delayTable (mode == 2) h + (if q = bypassQ then 0 else 12 * tablePeriod (mode == 2) h)
  else (2 ^ k / 2 + 16) * 9765625 / 10000

/-- Settling count in outputs. -/
def settling (mode h q : Nat) : Nat :=
  if mode = 1 ∨ mode = 2 then
    if q = bypassQ then settleTable (mode == 2) h else ceilDiv ((settleTable (mode == 2) h + 23) * q) bypassQ
  else 0

/-- When output `n` of a converter is written: its reset edge and n + 1 output periods (R416). -/
def outputAt (c : Conv) : Nat :=
  if c.mode = 3 then c.edge + (c.n + 1) * slotClocks c.k * modTicks
  else c.edge + (c.n + 1) * (32 * 2 ^ c.h * modTicks * bypassQ) / (c.q * (if c.mode = 2 then 2 else 1))

/-- Sum of the stage gains' exponents: 3 - s_i over the stages in use (R411). -/
def gainShift (h shifts : Nat) : Nat := ((List.range h).map (fun i => 3 - shifts / 4 ^ i % 4)).sum

/-! Who is in housekeeping (R408, R409). -/

/-- The mode a converter has, or will have at its pending edge. -/
def monMode (s : State) (n : Nat) : Nat :=
  match (convOf s n).next with
  | some c => c.mode
  | none => (convOf s n).mode

/-- A measurement borrows converter `n` (R434/15). -/
def borrowed (s : State) (n : Nat) : Bool := s.therm.job.any (fun j => j.kind != 3 && j.conv == n)

def inHousekeeping (s : State) (n : Nat) : Bool := monMode s n == 0 && !borrowed s n

def housekeepers (s : State) : List Nat := (List.range 4).filter (inHousekeeping s)

/-- The banks a converter holds: its own, and, by the lowest-numbered one, those of lent converters (R409). -/
def banksHeld (s : State) (n : Nat) : List Nat :=
  if inHousekeeping s n then
    (List.range 4).filter (fun b => b == n || ((housekeepers s).head? == some n && !inHousekeeping s b))
  else []

/-- The channels a converter scans, ascending. -/
def scanChannels (s : State) (n : Nat) : List Nat :=
  if (convOf s n).mode = 3 then (maskList 16 (convOf s n).mask).map (16 * n + ·)
  else (banksHeld s n).flatMap (fun b => (List.range 16).map (16 * b + ·))

/-- The channel after `ch` of a scan, from the lowest again at its end. -/
def nextChannel (chs : List Nat) (ch : Nat) : Nat := (chs.find? (fun c => decide (ch < c))).getD (chs.headD 0)

/-- The first converter of an interleaved pair that a converter belongs to. -/
def pairFirst (s : State) (n : Nat) : Nat := if (convOf s n).mode = 2 then n - n % 2 else n

/-- Converter `n` is the second of an interleaved pair. -/
def isPartner (s : State) (n : Nat) : Bool := (convOf s n).mode == 2 && n % 2 == 1

/-- The factory record of a value; nominal values, zero here, where neither copy was correct (R430/15). -/
def factoryOff (s : State) (item obj sub slice : Nat) : Int :=
  if s.therm.factoryLost then 0 else Config.factoryOffset item obj sub slice

def factoryGainOf (s : State) (item obj sub slice : Nat) : Int :=
  if s.therm.factoryLost then 0 else Config.factoryGain item obj sub slice

/-! Calibrated values (R406, R408, R421/15, R431/15). -/

/-- The key of a calibrated value. -/
def calKey (item obj sub slice : Nat) : Nat := ((item * 64 + obj) * 4 + sub) * 128 + slice

/-- Full scale of a channel in its unit, where the reading is linear in x. -/
def fullScale (ch : Nat) : Option Nat :=
  if 18 ≤ ch ∧ ch < 24 then some 3000
  else if 48 ≤ ch ∧ ch < 52 then some 1500
  else if 52 ≤ ch ∧ ch < 56 then some 6000
  else if ch = 56 then some 10000
  else if ch = 57 then some 20000
  else if 58 ≤ ch ∧ ch < 64 then some 3000000
  else none

/-- Resistance at 25 C, B and ideality of the sensor channels (R421/15). -/
def r26Of (s : State) (ch : Nat) : Nat := tabGet 10000 s.therm.r26 ch
def bOf (s : State) (ch : Nat) : Nat := tabGet 3435 s.therm.bK ch
def etaOf (s : State) (ch : Nat) : Nat := if 34 ≤ ch then 10000 else tabGet 10080 s.therm.eta ch

def userRec (s : State) (k : Nat) : CalRec := ((calVal s k).user).getD ⟨0, 0, 0, 0, 0, 0⟩

/-! Sensor readings (R406, R421/15), in fixed point of 40 digits. -/

def lnOne : Nat := 10 ^ 40
def ln2Fix : Nat := 6931471805599453094172321214581765680755

/-- The series of the inverse hyperbolic tangent: `n` more terms, from the `k`-th, with `p` the power term. -/
def atanhFix (z2 : Nat) : Nat → Nat → Nat → Nat
  | 0, _, _ => 0
  | n + 1, k, p => p / (2 * k + 1) + atanhFix z2 n (k + 1) (p * z2 / lnOne)

/-- ln (a / b) for positive a and b. -/
def lnFix (a b : Nat) : Int :=
  let e : Int := (Nat.log2 a : Int) - (Nat.log2 b : Int)
  let a' := a * 2 ^ (-e).toNat
  let b' := b * 2 ^ e.toNat
  let up := decide (b' ≤ a')
  let z := (if up then a' - b' else b' - a') * lnOne / (a' + b')
  let l : Int := 2 * (atanhFix (z * z / lnOne) 50 0 z : Int)
  e * (ln2Fix : Int) + (if up then l else -l)

/-- q / (k ln 8) in K / V, times 10^30. -/
def diodeFix : Nat := 5580593581955471085827739833226101

/-- A diode's temperature in 0.1 C, as a fraction: T = q × ΔVbe / (η × k × ln 8), where η is in 0.0001. -/
def diodeTemp (code : Int) (eta : Nat) : Int × Nat :=
  let den := 2 ^ 21 * eta * 10 ^ 30
  (2 * code * ((diodeFix * 10000 : Nat) : Int) - 5463 * ((2 ^ 20 * eta * 10 ^ 30 : Nat) : Int), den)

/-- A thermistor's temperature in 0.1 C, as a fraction: R = 10 kΩ × ρ / (1 - ρ), T = 1 / (1 / 298.15 K + ln (R / R26) / B) - 273.15 C;
none where the formula gives none. -/
def thermistorTemp (code : Int) (r26 b : Nat) : Option (Int × Nat) :=
  if code ≤ 0 ∨ 2 ^ 20 ≤ code then none
  else
    let l := lnFix (10000 * code.toNat) (r26 * (2 ^ 20 - code.toNat))
    let den : Int := ((20 * lnOne * b : Nat) : Int) + 5963 * l
    if den ≤ 0 then none
    else some (2 * 10 * ((5963 * lnOne * b : Nat) : Int) - 5463 * den, 2 * den.toNat)

/-- The reading of output code `code`, x times 2^20, in the channel's unit, as a fraction. -/
def rawReading (s : State) (ch : Nat) (code : Int) : Int × Nat :=
  match fullScale ch with
  | some fs => (code * fs, 2 ^ 20)
  | none =>
    if ch < 18 then (Config.photoPower ch code, 1)
    else if ch < 30 then (thermistorTemp code (r26Of s ch) (bOf s ch)).getD (Config.unstatedTemp code, 1)
    else diodeTemp code (etaOf s ch)

/-- The calibrated reading: the factory correction, then the user record (R431/15 item 1). -/
def calibrated (s : State) (ch : Nat) (code : Int) : Int :=
  let u := userRec s (calKey 1 ch 0 0)
  let x := rawReading s ch code
  meanOf 30 ((x.1 * (1000000 + factoryGainOf s 1 ch 0 0) + factoryOff s 1 ch 0 0 * x.2 * 1000000) * (1000000 + u.gain)
    + u.off * x.2 * 1000000000000) (x.2 * 1000000000000)

/-- A port's power reading: its channel's, with the offset in effect of item 2 (received) or 3 (launched) (R431/15). -/
def powerReading (s : State) (item p : Nat) : Int :=
  (chanVal s (if item = 2 then 3 * p + 1 else 3 * p)).value + factoryOff s item p 0 0 + (calVal s (calKey item p 0 0)).offNow

/-- MON_OVERLOAD, at most once per second and converter (R410). -/
def overload (n ch : Nat) (s : State) : State :=
  let due := match (convOf s n).ovlAt with | none => true | some t => decide (t + ticksSec 1 ≤ upTime s)
  onlyIf due (fun s =>
    raise 0x0B02 26 0 0 [byteOf n, byteOf ch] (onConvOf n (fun c => { c with ovlAt := some (upTime s) }) s)) s

/-- The next output of converter `n` carries OVL: point 0x180 + n. -/
def ovlInjected (s : State) (n : Nat) : Bool := injArmed s (0x180 + n)

/-- MON_HOUSEKEEPING_SLOT: the channel's value is stored, its user calibration is in effect from here on (R433/15 item 1),
and the next slot converts the next channel of the banks held now. -/
def housekeepingSlot (n : Nat) (code : Int) (ovl : Bool) (s : State) : State :=
  let chs := scanChannels s n
  let ch := if chs.contains (convOf s n).slotCh then (convOf s n).slotCh else nextChannel chs (convOf s n).slotCh
  let inj := ovlInjected s n
  let o := ovl || inj
  onlyIf inj (injAct (0x180 + n)) s
    |> onChanVal ch (fun _ => { value := calibrated s ch code, at_ := upTime s, ovl := o, sat := false })
    |> onCalVal (calKey 1 ch 0 0) (fun c => { c with offNow := (userRec s (calKey 1 ch 0 0)).off })
    |> onConvOf n (fun c => { c with
        slotCh := nextChannel chs ch, ovl := if o then satAdd max64 c.ovl 1 else c.ovl })
    |> onlyIf o (overload n ch)

def execMonHousekeepingSlot (n : Nat) (code : Int) (ovl : Bool) (s : State) : Res :=
  need "converter" (okConv n) (onlyIf ((convOf s n).mode == 0 && inHousekeeping s n) (housekeepingSlot n code ovl) s)

/-! Sync resets (R416, R417). -/

/-- A configuration takes the place of the present one; a change of mode or channel empties the FIFO. -/
def applyCfg (g : MonCfg) (c : Conv) : Conv :=
  { c with
    mode := g.mode, ch := g.ch, h := g.h, shifts := g.shifts, k := g.k, q := g.q, mask := g.mask, capture := g.capture
    capN := g.n, next := none, nextEdge := none
    fifo := if g.mode = c.mode ∧ g.ch = c.ch then c.fifo else [] }

/-- The chain and the output sequence start again at an edge; the reset crosses to the modulator as a pulse (R20/01). -/
def restartConv (at_ : Nat) (c : Conv) : Conv :=
  { c with edge := at_, n := 0, captured := 0, capDone := false, sync := pulse c.sync }

/-- Converter `n` is reset at `at_`; a pending configuration of that edge applies; a scan starts at its slot 0. -/
def resetConv (n at_ : Nat) (s : State) : State :=
  onConvOf n (fun c =>
      restartConv at_ (match c.next with
        | some g => if c.nextEdge = some at_ then applyCfg g c else c
        | none => c)) s
    |> (fun s => onConvOf n (fun c => { c with slotCh := (scanChannels s n).headD 0 }) s)

/-- The cue of mon.sync due at an edge that names converter `n`. -/
def syncCue (s : State) (n at_ : Nat) : Option Nat :=
  (s.cues.table.find? (fun e => e.2.state != 0 && e.2.kind == 6 && bitOf e.2.obj n && decide (edgeAfter e.2.time ≤ at_))).map (·.1)

/-- The converters a mask names, with their interleaved partners (R417). -/
def maskWithPartners (s : State) (m : Nat) : List Nat :=
  (List.range 4).filter (fun n => bitOf m n || ((convOf s n).mode == 2 && bitOf m (n - n % 2 + 1 - n % 2)))

/-- Every cause of a reset of converter `n` at an edge: its pending configuration, and a cue, which resets all it names. -/
def monSyncReset (n at_ : Nat) (s : State) : State :=
  let cfg := (convOf s n).nextEdge == some at_
  let s0 := clockTo at_ s
  match syncCue s n at_ with
  | some i =>
    forAll (fun m => resetConv m at_) (including n (maskWithPartners s (cueAt s i).obj)) s0
      |> cueDone i at_ (edgeAfter (cueAt s i).time)
  | none => onlyIf cfg (resetConv n at_) s0

def execMonSyncReset (n at_ : Nat) (s : State) : Res :=
  need "converter" (okConv n)
    (onlyIf (at_ % modTicks == 0 && decide (now s ≤ at_) && ((convOf s n).nextEdge == some at_ || (syncCue s n at_).isSome))
      (monSyncReset n at_) s)

/-! Outputs (R416, R418, R419). -/

/-- The output code of an input x, limited to 24 bits, with whether it was: round(x × 2^20 × G), or in a scan the count of M clocks,
whose last unit is open where x × M / 2 is no whole number (R411, R415). Every stage has a gain of one or more, so a stage was
limited where the end is. -/
def outCode (c : Conv) (o : MonObs) : Int × Bool :=
  let v := if c.mode = 3 then 2 ^ (21 - c.k) * meanOf 34 (o.num * 2 ^ (c.k - 1)) (max 1 o.den)
    else roundDiv (o.num * 2 ^ 20 * 2 ^ gainShift c.h c.shifts) (max 1 o.den)
  (clampInt (-8388607) 8388607 v, decide (8388607 < v.natAbs))

/-- An entry of the output FIFO: SETTLE 0x80, SAT 0x40, OVL 0x20. -/
def outEntry (c : Conv) (o : MonObs) (ovl : Bool) : Nat × Nat × Nat × Nat :=
  let st := decide (c.n < settling c.mode c.h c.q)
  let v := outCode c o
  (if st then 0 else (v.1 % 16777216).toNat,
    128 * b2n st + 64 * b2n (!st && v.2) + 32 * b2n ovl,
    if c.mode = 3 then c.slotCh else c.ch, c.n % 65536)

/-- The output is delivered: in continuous delivery always, in capture until the count is reached. -/
def delivered (c : Conv) : Bool := !c.capture || decide (c.captured < c.capN)

/-- MON_OUTPUT. -/
def monOutput (n : Nat) (o : MonObs) (s : State) : State :=
  let c := convOf s n
  let inj := ovlInjected s n
  let ovl := o.clip || decide ((max 1 o.den) < o.num.natAbs) || inj
  let e := outEntry c o ovl
  let full := decide (4096 ≤ c.fifo.length)
  let out := delivered c
  let done := c.capture && out && c.captured + 1 == c.capN
  let lost := out && full && !c.capture
  clockTo (outputAt c) s
    |> onlyIf inj (injAct (0x180 + n))
    |> onConvOf n (fun c => { c with
        n := c.n + 1, slotCh := nextChannel (scanChannels s n) c.slotCh
        fifo := if out && !full then c.fifo ++ [e] else c.fifo
        captured := if c.capture && out then c.captured + 1 else c.captured
        capDone := c.capDone || done, overrun := c.overrun || lost
        ovl := if ovl then satAdd max64 c.ovl 1 else c.ovl
        sat := if bitOf e.2.1 6 then satAdd max64 c.sat 1 else c.sat })
    |> onlyIf (lost && !c.overrun) (raise 0x0B01 26 0 0 [byteOf n])
    |> onlyIf done (raise 0x0B00 26 0 0 ([byteOf n, 0] ++ natBE 2 c.capN))
    |> onlyIf ovl (overload n e.2.2.1)

def execMonOutput (n : Nat) (o : MonObs) (s : State) : Res :=
  need "converter" (okConv n)
    (onlyIf ((convOf s n).mode != 0 && !isPartner s n && decide (now s ≤ outputAt (convOf s n))) (monOutput n o) s)

/-! The mon commands. -/

/-- BADARG where the object byte names no converter (R58/02). -/
def onMc (body : Nat → Req → State → Reply) (r : Req) (s : State) : Reply :=
  if okConv (r.u 0 1) then body (r.u 0 1) r s else refuse .badarg s

def housekeepingCfg : MonCfg := ⟨0, 0, 0, 0, 10, bypassQ, 0xFFFF, false, 0⟩

/-- The configuration a request names, with the defaults of the fields that its mode does not use. -/
def cfgOf (r : Req) : MonCfg :=
  let m := r.u 1 1
  let st := m == 1 || m == 2
  { mode := m, ch := if st then r.u 2 1 else 0, h := if st then r.u 3 1 else 0, shifts := if st then r.u 4 2 else 0
    k := if m = 3 then r.u 6 1 else 10, q := if st then r.u 8 4 else bypassQ, mask := if m = 3 then r.u 12 2 else 0xFFFF
    capture := r.u 7 1 == 1, n := r.u 14 2 }

/-- Fields outside their codes, and fields that do not apply and are not zero. -/
def cfgBadarg (r : Req) : Bool :=
  let m := r.u 1 1
  let st := m == 1 || m == 2
  decide (3 < m) || decide (1 < r.u 7 1)
    || (if st then decide (6 < r.u 3 1) || decide (4095 < r.u 4 2)
        else r.u 2 1 != 0 || r.u 3 1 != 0 || r.u 4 2 != 0 || r.u 8 4 != 0)
    || (if m == 3 then decide (r.u 6 1 < 10) || decide (20 < r.u 6 1) else r.u 6 1 != 0 || r.u 12 2 != 0)
    || (m == 0 && r.u 7 1 != 0) || (r.u 7 1 == 0 && r.u 14 2 != 0)

def cfgRange (r : Req) : Bool :=
  let m := r.u 1 1
  let st := m == 1 || m == 2
  (st && (decide (63 < r.u 2 1) || decide (r.u 8 4 < 32768) || decide (65536 < r.u 8 4)))
    || (m == 3 && r.u 12 2 == 0)
    || (r.u 7 1 == 1 && (decide (r.u 14 2 < 1) || decide (4096 < r.u 14 2)))

/-- The converters a configuration lends: `n`, and its partner in interleaved mode. -/
def lends (n mode : Nat) : List Nat := if mode = 0 then [] else if mode = 2 then [n, n + 1] else [n]

/-- The converter paired with `n` before the request, which returns to housekeeping where it is not named again. -/
def formerPartner (s : State) (n mode : Nat) : Option Nat :=
  let m := n - n % 2 + 1 - n % 2
  if monMode s n = 2 ∧ mode ≠ 2 then some m else none

/-- Converters left in housekeeping by a request. -/
def leftHousekeeping (s : State) (n mode : Nat) : Nat :=
  ((List.range 4).filter (fun m =>
    if m = n then mode == 0
    else if formerPartner s n mode = some m then true
    else !(lends n mode).contains m && inHousekeeping s m)).length

/-- Place a configuration for an edge. -/
def placeCfg (n edge : Nat) (g : MonCfg) : State → State :=
  onConvOf n (fun c => { c with next := some g, nextEdge := some edge })

/-- mon.config (0x0B00). -/
def monConfig : Req → State → Reply := onMc fun n r s =>
  let g := cfgOf r
  let held := borrowed s n || (g.mode == 2 && borrowed s (n + 1))
  if cfgBadarg r then refuse .badarg s
  else if cfgRange r then refuse .range s
  else if leftHousekeeping s n g.mode = 0 ∨ (g.mode = 2 ∧ n % 2 = 1) ∨ held = true then refuse .denied s
  else
    let edge := edgeAfter (now s + ticksUs 10)
    let s1 := placeCfg n edge g s
      |> onlyIf (g.mode == 2) (placeCfg (n + 1) edge g)
      |> (fun t => match formerPartner s n g.mode with
          | some m => placeCfg m edge housekeepingCfg t
          | none => t)
    okWith (tcBytes12 edge ++ natBE 4 (outRate g.mode g.h g.k g.q) ++ natBE 4 (groupDelay g.mode g.h g.k g.q)
      ++ natBE 2 (settling g.mode g.h g.q) ++ [0, 0]) s1

def execMonConfig (mb : Nat) (s : State) : Res := mailbox ⟨0x0B00, some 16, []⟩ monConfig mb s

/-- mon.sync (0x0B01). -/
def monSync (r : Req) (s : State) : Reply :=
  let m := r.u 0 1
  if m = 0 ∨ 15 < m then refuse .badarg s
  else match readTime10 4 r.pay with
    | none => refuse .range s
    | some t =>
      if t < now s + ticksUs 10 then refuse .range s
      else if (maskList 4 m).any (fun n => monMode s n == 0) then refuse .denied s
      else match freeOwn s with
        | none => refuse .nores s
        | some i => okWith (tcBytes12 (edgeAfter t)) (placeCue i { state := 1, kind := 6, obj := m, time := t, tag := r.tag } s)

def execMonSync (mb : Nat) (s : State) : Res := mailbox ⟨0x0B01, some 14, [(1, 3)]⟩ monSync mb s

/-- An output entry as its 8 bytes (R418). -/
def entryBytes (e : Nat × Nat × Nat × Nat) : List Byte :=
  natBE 3 e.1 ++ [byteOf e.2.1, byteOf e.2.2.1, 0] ++ natBE 2 e.2.2.2

/-- mon.read (0x0B02). -/
def monRead : Req → State → Reply := onMc fun n r s =>
  let c := convOf s n
  let want := r.u 1 1
  if want = 0 ∨ 28 < want then refuse .badarg s
  else if monMode s n = 0 then refuse .denied s
  else
    let got := c.fifo.take want
    let left := c.fifo.drop want
    okWith ([byteOf got.length, b2w c.overrun] ++ natBE 2 left.length ++ zeros 4 ++ got.flatMap entryBytes)
      (onConvOf n (fun c => { c with fifo := left }) s)

def execMonRead (mb : Nat) (s : State) : Res := mailbox ⟨0x0B02, some 4, [(2, 2)]⟩ monRead mb s

/-- mon.status (0x0B03). -/
def monStatus : Req → State → Reply := onMc fun n r s =>
  let c := convOf s n
  okWith ([byteOf c.mode, byteOf c.ch, byteOf c.h, byteOf c.k
      , byteOf (b2n c.overrun + 2 * b2n c.capDone + 4 * b2n (c.mode != 0 && decide (c.n < settling c.mode c.h c.q))
          + 8 * b2n (isPartner s n)), byteOf (listMask (banksHeld s n))]
    ++ natBE 2 c.fifo.length ++ tcBytes12 c.edge ++ natBE 4 (outRate c.mode c.h c.k c.q)
    ++ natBE 4 (groupDelay c.mode c.h c.k c.q) ++ natBE 2 (settling c.mode c.h c.q) ++ [0, 0]
    ++ natBE 8 c.ovl ++ natBE 8 c.sat) (onConvOf n (fun c => { c with overrun := c.overrun && !bitOf (r.u 1 1) 0 }) s)

def execMonStatus (mb : Nat) (s : State) : Res := mailbox ⟨0x0B03, some 4, [(2, 2)]⟩ monStatus mb s

/-- mon.value (0x0B04). -/
def monValue (r : Req) (s : State) : Reply :=
  let v := chanVal s (r.u 0 1)
  if 63 < r.u 0 1 then refuse .range s
  else okWith (intBE 4 v.value ++ natBE 2 (min 65535 ((upTime s - v.at_) / ticksUs 100))
    ++ [byteOf (32 * b2n v.ovl + 64 * b2n v.sat), 0]) s

def execMonValue (mb : Nat) (s : State) : Res := mailbox ⟨0x0B04, some 4, [(1, 3)]⟩ monValue mb s

end Sys2Proof.Machine
end

