-- ==== Sys2Proof/Machine/LineTx.lean ====
section
/-! DEFINITION. Line transmit: lasers, enable and disable, launch power, format changes (03_line_transmit.md). -/

namespace Sys2Proof.Machine

/-! Keys of the crossings (R16/01). -/

def mergedKey : Merged → Nat
  | .adcOverload p a => 4 * p + a
  | .dacClip p a => 32 + 4 * p + a
  | .rsSymbols l => 64 + l
  | .pairSymbols l => 160 + l

def mergedTotal (s : State) (m : Merged) : Nat := (mergedOf s (mergedKey m)).total.toNat

/-! Opening and closing a transmitter (R106 to R108, R472/18). -/

/-- An output reading with the transmitter off: at or below -45 dBm (R105/03), a free value. -/
def offPower (s : State) : Int := -4500 - (freeNat s : Int)

/-- Debts zero and the cap at 16, held at N under the thermal hold (R471, R472/18, R424/15). -/
def fecZero (f : FecPort) : FecPort := { f with debt := [], k := if f.hold then min 16 f.n else 16 }

/-- FEC debts and the cap of a port are zeroed; FEC_BUDGET_RESTORED where the cap returns to 16 (R171/05). -/
def zeroFec (p : Nat) (s : State) : State :=
  let f := fecPort s p
  onFecPort p fecZero s |> onlyIf (decide (f.k < 16) && (fecZero f).k == 16) (raisePort 0x020D p [byteOf p])

/-- The driver and heater rails of a PIC are on while its port transmits or receives (R463/18); a dark port removes their load
(R43/01). -/
def railsOff (p : Nat) (s : State) : State := onPower (fun w => { w with picRails := without p w.picRails }) s

/-- A port with both directions off is dark: FEC debts and cap are zeroed (R472/18), its PIC rails go off. -/
def darkCheck (p : Nat) (s : State) : State := onlyIf (!portLit s p) (fun s => railsOff p (zeroFec p s)) s

/-- The attenuator goes to its maximum within 1 ms, the drivers then turn off, and the bias loop stops (R107/03). -/
def shutTx (p : Nat) (st : TxState) (s : State) : State :=
  useFree (onTxPort p (fun t => { t with
    tx := st, bias := 0, attn := 350, attnFrom := 350, drivers := false, power := offPower s }) s)

/-! Launch power (R104/03, R221/07). All in 0.01 dBm. -/

/-- The casting power: one sixteenth of the launch target, 12.04 dB below it, and the casting level relative to that. -/
def castPower (s : State) (p : Nat) : Int := 10 * (txPort s p).target - 1204 + 10 * (hubPort s p).level

/-- What the attenuator holds the TX tap at: the launch target, or the casting power on a leaf before its grant. -/
def launchAim (s : State) (p : Nat) : Int :=
  if (hubPort s p).role = .leaf ∧ (hubPort s p).owned = 0 then castPower s p else 10 * (txPort s p).target

/-- The attenuation now: from where its move began toward its end, by at most 1 dB per ms. -/
def attenuation (s : State) (p : Nat) : Nat :=
  let t := txPort s p
  let n := (now s - t.attnAt) / ticksUs 100
  if t.attnFrom ≤ t.attn then min t.attn (t.attnFrom + n) else max t.attn (t.attnFrom - n)

/-- The attenuation that brings the output to the aim. -/
def aimedAttn (s : State) (p : Nat) : Nat := (roundDiv (10 * (txPort s p).raw - launchAim s p) 10).toNat

/-- The aim of a transmitter that is on has changed: the attenuator moves on from where it stands. -/
def retarget (p : Nat) (s : State) : State :=
  onlyIf ((txPort s p).tx == .on)
    (onTxPort p (fun t => { t with attnFrom := attenuation s p, attnAt := now s, attn := aimedAttn s p })) s

/-- The output of a port: at its aim, off it by what the attenuator has still to move; while not on, what is left. -/
def outputPower (s : State) (p : Nat) : Int :=
  if (txPort s p).tx = .on then launchAim s p + 10 * (((txPort s p).attn : Int) - (attenuation s p : Int)) else (txPort s p).power

/-- A joining in progress ends, and its command with a code (R107/03, R232/07, R425/15). -/
def endJoin (p : Nat) (c : Code) (s : State) : State :=
  finishEach 0x0403 p c (onHubPort p (fun h => { h with join := .idle }) s)

/-- Disable: an enable in progress, that of a hub.join too, ends with DENIED (R107/03). -/
def closeTx (p : Nat) (s : State) : State :=
  let starting := (txPort s p).tx == .starting
  shutTx p .off s |> onlyIf starting (finishDeferred 0x0201 p .denied) |> endJoin p .denied |> darkCheck p

/-- The LO tap reading: +8 dBm while point 0x01E + p runs (R443/16). -/
def loReading (s : State) (p : Nat) (lo : Int) : Int := if (injOf s (0x01E + p)).running then 800 else lo

/-- The checks of step 0 of R106: LENp asserted and the LO tap at least +11 dBm. -/
def feedGood (s : State) (p : Nat) (lo : Int) : Bool := (txPort s p).len && decide (1100 ≤ loReading s p lo)

/-- Start the transmit enable sequence (R106/03). -/
def startTx (p : Nat) (lo : Int) (s : State) : State :=
  onTxPort p (fun t => { t with tx := .starting, bias := 1, attn := 350, attnFrom := 350, drivers := true, loTap := loReading s p lo }) s
    |> onPower (fun w => { w with picRails := including p w.picRails })

/-- The feed is lost: the attenuator closes, TX_FEED_LOST is raised, and an enable in progress ends with DENIED after it
(R108/03). -/
def feedLost (p cause : Nat) (s : State) : State :=
  let starting := (txPort s p).tx == .starting
  shutTx p .feedLost s
    |> raisePort 0x0201 p [byteOf p, byteOf cause]
    |> onlyIf starting (finishDeferred 0x0201 p .denied)
    |> endJoin p .denied
    |> darkCheck p

/-! The capability exchange begins at an enable in point-to-point role with no lit subcarrier (R239/07). -/

def noneLit (s : State) (p : Nat) : Bool := (portScs p).all (fun sc => decide (txClass s sc < 2))

def startExchange (p : Nat) (s : State) : State :=
  onlyIf ((hubPort s p).role == .p2p && noneLit s p && (hubPort s p).exch == 0)
    (onHubPort p (fun h => { h with exch := 1, ackRun := 0, goodRun := 0, mism := false })) s

/-! Commands. -/

/-- port.laser (0x0200): LENp; deasserting it on a transmitting port loses the feed (R108). -/
def portLaser : Req → State → Reply := onPort fun p r s =>
  if 1 < r.u 1 1 then refuse .badarg s
  else
    let on := r.u 1 1 == 1
    let s1 := onTxPort p (fun t => { t with len := on }) s
    okay (onlyIf (!on && transmitting s p) (feedLost p 1) s1)

def execPortLaser (mb : Nat) (s : State) : Res := mailbox ⟨0x0200, some 4, [(2, 2)]⟩ portLaser mb s

/-- A port.reset of the port is in progress (R471/18). -/
def resetting (s : State) (p : Nat) : Bool := (findDeferred s 0x0211 p).isSome

/-- port.txenable (0x0201). Failed checks of step 0 end the command with DENIED after the DEFERRED response (R106). -/
def portTxenable (lo : Int) : Req → State → Reply := onPort fun p r s =>
  if (txPort s p).tx = .on ∧ resetting s p = false then okSame s
  else if (hubPort s p).role = .leaf ∧ (hubPort s p).owned = 0 then refuse .denied s
  else if (txPort s p).tx = .starting ∨ resetting s p then refuse .busy s
  else
    let a := defer r p s
    if feedGood s p lo then { a with st := startExchange p (startTx p lo a.st) }
    else { a with st := onTxPort p (fun t => { t with loTap := loReading s p lo }) a.st }

/-- COMMAND_DONE with DENIED follows the response of an enable whose checks failed at once (R106). -/
def deniedEnable (r : Req) (s : State) : State :=
  onlyIf ((txPort s (r.u 0 1)).tx != .starting) (finishDeferred 0x0201 (r.u 0 1) .denied) s

def execPortTxenable (mb : Nat) (lo : Int) (s : State) : Res :=
  mailboxThen (objShape 0x0201) (portTxenable lo) deniedEnable mb s

/-- The attenuator has reached its aim; the output without attenuation is a free value. -/
def settleAttn (p : Nat) (s : State) : State :=
  let s1 := useFree (onTxPort p (fun t => { t with raw := (freeNat s : Int) }) s)
  onTxPort p (fun t => { t with attn := aimedAttn s1 p, attnFrom := aimedAttn s1 p }) s1

/-- The enable sequence ends: on, bias locked, the attenuator at the target; TX_READY, COMMAND_DONE with OK (R106). -/
def txEnableDone (p : Nat) (s : State) : State :=
  if (txPort s p).tx = .starting then
    settleAttn p (onTxPort p (fun t => { t with tx := .on, bias := 2 }) s)
      |> raisePort 0x0200 p [byteOf p]
      |> finishDeferred 0x0201 p .ok
  else s

def execTxEnableDone (p : Nat) (s : State) : Res := need "port" (okPort p) (txEnableDone p s)

/-- port.txdisable (0x0202). -/
def portTxdisable : Req → State → Reply := onPort fun p _ s =>
  if (txPort s p).tx = .off then okSame s else okay (closeTx p s)

def execPortTxdisable (mb : Nat) (s : State) : Res := mailbox (objShape 0x0202) portTxdisable mb s

/-- The LO tap below +9 dBm for 1 ms while starting or on (R108). -/
def txFeedLoss (p : Nat) (lo : Int) (s : State) : State :=
  let s1 := onTxPort p (fun t => { t with loTap := loReading s p lo }) s
  onlyIf (transmitting s p && decide (loReading s p lo < 900)) (feedLost p 2) s1

def execTxFeedLoss (p : Nat) (lo : Int) (s : State) : Res := need "port" (okPort p) (txFeedLoss p lo s)

/-- A child modulator beyond its bias range while the loop is locked or acquiring (R103). -/
def execBiasAlarm (p child : Nat) (s : State) : Res :=
  need "modulator" (okPort p && decide (child < 4))
    (onlyIf (transmitting s p)
      (fun s => raisePort 0x0203 p [byteOf p, byteOf child] (onTxPort p (fun t => { t with bias := 3 }) s)) s)

/-- port.txpower (0x0203): `feed` is the laser feed in 0.01 dBm. Targets above -1.0 dBm need +19 dBm (R105); CD
pre-compensation changes only with the transmitter off (R101), and its field counts only where byte 1 sets it
(notes/assumptions/53.md). -/
def portTxpower (feed : Int) : Req → State → Reply := onPort fun p r s =>
  let target := r.i 2 2
  let cd := r.i 4 4
  let both := r.u 1 1 == 1
  if 1 < r.u 1 1 then refuse .badarg s
  else if target < -150 ∨ 10 < target ∨ (-10 < target ∧ feed < 1900) then refuse .range s
  else if both ∧ (cd < -20000 ∨ 20000 < cd) then refuse .range s
  else if both && transmitting s p then refuse .denied s
  else okay (onTxPort p (fun t => { t with
    target := target, cdPre := if both then cd else t.cdPre }) s |> retarget p)

def execPortTxpower (mb : Nat) (feed : Int) (s : State) : Res :=
  mailbox ⟨0x0203, some 8, []⟩ (portTxpower feed) mb s

/-! Format changes (R97 to R99). -/

/-- A change is open while its boundary is at least 2.0 ms away (R98). -/
def isOpen (s : State) (c : FormatChange) : Bool := decide (now s + ticksMs 2 ≤ c.boundary)

def openChange (s : State) (p : Nat) : Option FormatChange := (txPort s p).changes.find? (isOpen s)

/-- Free the two cues of a change and forget it (R371/12). -/
def dropChange (p : Nat) (c : FormatChange) (s : State) : State :=
  onTxPort p (fun t => { t with changes := t.changes.erase c }) (clearCue c.remap (clearCue c.cue s))

/-- Place a change with its companion remap cue, the format cue at the lower index (R99, R370/12); none where the shared
region cannot hold both. -/
def placeChange (p mask : Nat) (classes : List Nat) (boundary tag origin : Nat) (s : State) : Option State :=
  match freeShared s with
  | none => none
  | some i =>
    let s1 := placeCue i { state := 1, kind := 1, origin := origin, obj := p, time := boundary, tag := tag } s
    match freeShared s1 with
    | none => none
    | some j =>
      some (placeCue j { state := 1, kind := 4, origin := 1, obj := p, time := boundary } s1
        |> onTxPort p (fun t => { t with
            changes := t.changes ++ [⟨boundary, mask, classes, i, j⟩] }))

/-- The classes of an open change with those of `mask` taken from a new request (R98). -/
def mergeClasses (old : FormatChange) (mask : Nat) (classes : List Nat) : FormatChange :=
  { old with
    mask := old.mask ||| mask
    classes := (List.range 16).map (fun k => if bitOf mask k then classes.getD k 0 else old.classes.getD k 0) }

/-- The merged change is announced anew (R375/12). -/
def mergeChange (p : Nat) (old : FormatChange) (mask : Nat) (classes : List Nat) (s : State) : State :=
  onTxPort p (fun t => { t with
    changes := t.changes.map (fun c => if c = old then mergeClasses old mask classes else c) }) s
    |> (fun s => setCue old.cue { cueAt s old.cue with acked := false } s)

/-- hub.grant, hub.release and port.format on a hub: merge into an open change, else place one (R98). Answers the boundary,
the placement and the state; none where the cue table is full. -/
def mergeOrPlace (p mask : Nat) (classes : List Nat) (boundary tag : Nat) (s : State) : Option (Nat × Nat × State) :=
  match openChange s p with
  | some c => some (c.boundary, 2, mergeChange p c mask classes s)
  | none => (placeChange p mask classes boundary tag 0 s).map (fun t => (boundary, 0, t))

/-- The earliest boundary of R98: the first common boundary at least 2.0 ms ahead. -/
def earliestBoundary (s : State) : Nat := boundaryAfter (now s + ticksMs 2)

/-- The boundary a request asks for: none where it is malformed (R491) or less than 2.0 ms ahead (R98). -/
def wantedBoundary (off : Nat) (r : Req) (s : State) : Option Nat :=
  match cueTime off r with
  | none => none
  | some none => some (earliestBoundary s)
  | some (some t) => if now s + ticksMs 2 ≤ boundaryAfter t then some (boundaryAfter t) else none

def classOk (k : Nat) : Bool := k == 0 || (decide (2 ≤ k) && decide (k ≤ 6))

def formatReply (b placement : Nat) (s : State) : Reply := okWith (tcBytes10 b ++ [byteOf placement, 0]) s

/-- A format request of a hub port that finds an open change merges into it (R98). -/
def merges (s : State) (p : Nat) : Bool := (hubPort s p).role == .hub && (openChange s p).isSome

/-- A leaf lights only subcarriers the hub granted it (R216/07). -/
def lightsUngranted (s : State) (p mask : Nat) (classes : List Nat) : Bool :=
  (hubPort s p).role == .leaf
    && (maskList 16 mask).any (fun k => decide (2 ≤ classes.getD k 0) && !bitOf (hubPort s p).owned k)

/-- port.format (0x0204). On a hub port it merges into an open change whatever cue time it gives; with no open change it takes the
boundary of its cue time (notes/assumptions/53.md). -/
def portFormat : Req → State → Reply := onPort fun p r s =>
  let mask := r.u 2 2
  let classes := (field 14 16 r.pay).map (·.toNat)
  if (maskList 16 mask).any (fun k => !classOk (classes.getD k 0)) then refuse .badarg s
  else if merges s p && (cueTime 4 r).isSome then
    match mergeOrPlace p mask classes 0 r.tag s with
    | none => refuse .nores s
    | some (b, k, t) => formatReply b k t
  else match wantedBoundary 4 r s with
    | none => refuse .range s
    | some b =>
      if lightsUngranted s p mask classes then refuse .denied s
      else if (hubPort s p).role = .hub then
        match mergeOrPlace p mask classes b r.tag s with
        | none => refuse .nores s
        | some (b', k, t) => formatReply b' k t
      else match openChange s p with
        | some c =>
          match placeChange p mask classes b r.tag 0 (dropChange p c s) with
          | none => refuse .nores s
          | some t => formatReply b 1 (onTxPort p (fun x => { x with replaced := satAdd 65535 x.replaced 1 }) t)
        | none =>
          if (txPort s p).changes ≠ [] then refuse .denied s
          else match placeChange p mask classes b r.tag 0 s with
            | none => refuse .nores s
            | some t => formatReply b 0 t

def execPortFormat (mb : Nat) (s : State) : Res := mailbox ⟨0x0204, some 30, [(1, 1)]⟩ portFormat mb s

/-- The classes after a change: those of the mask are the change's, the others stay (R97). -/
def applyClasses (c : FormatChange) (old : List Nat) : List Nat :=
  (List.range 16).map (fun k => if bitOf c.mask k then c.classes.getD k 0 else old.getD k 0)

/-- A subcarrier lit from dark counts its frames anew; one that is lit begins its new class with frame 0 (R99). -/
def restartFrames (p : Nat) (c : FormatChange) (old : List Nat) (k : Nat) (s : State) : State :=
  if bitOf c.mask k then
    onTxFrame (16 * p + k) (fun f => { f with mfc := 0 }) s
      |> onlyIf (decide (old.getD k 0 = 0)) (onTxSc (16 * p + k) (fun x => { x with frames := 0 }))
  else s

/-- A format change takes effect at its common boundary (R97, R99); a late one is counted (R372/12). -/
def applyFormat (i at_ : Nat) (s : State) : State :=
  let p := (cueAt s i).obj
  match (txPort s p).changes.find? (fun c => c.cue == i) with
  | none => s
  | some c =>
    let old := (txPort s p).classes
    clockTo at_ s
      |> onTxPort p (fun t => { t with
          classes := applyClasses c old, changes := t.changes.erase c
          goneDark := t.goneDark ||| listMask ((maskList 16 c.mask).filter (fun k =>
            decide (0 < old.getD k 0) && decide (c.classes.getD k 0 = 0))) })
      |> forAll (restartFrames p c old) (List.range 16)
      |> raisePort 0x0202 p ([byteOf p, 0] ++ natBE 2 c.mask)
      |> cueDone i at_ (boundaryAfter c.boundary)

/-- The cue is due on the common grid: a boundary at or after its time, firmware ready, and no cue of a lower index waiting for
the same unit there (R35, R36/01, R80/02, R96). Remap cues may share tributaries and count as of one unit. -/
def dueOnGrid (s : State) (i kind at_ : Nat) : Bool :=
  cueDue s i kind at_ && at_ % boundaryTicks == 0 && decide (now s ≤ at_) && s.ctrl.stage == .ready
    && firstDue s i at_ (fun c => kind == 4 || sameObj s i c)

/-! Pre-compensation and the spectrum (R88 to R90, R100, R102). -/

/-- The symbol rate of a subcarrier and its occupied bandwidth, MHz: roll-off 0.01. -/
def symbolRateMHz : Nat := 22000
def occupiedMHz : Nat := symbolRateMHz + symbolRateMHz / 100

/-- The casting channel from the port centre, MHz. -/
def castCentreMHz : Int := -184000

/-- Samples of a DAC or ADC, and symbols of a port, in 10^9 per second: the symbol clock is 11/12 of the sample clock. -/
def sampleRateG : Nat := 384
def portSymbolRateG : Nat := sampleRateG * 11 / 12

/-- The X/Y skew correction of a port, in steps of 0.05 ps: its factory value, within 20.00 ps (R100). No command changes it. -/
def xySkew (p : Nat) : Int := clampInt (-400) 400 (Config.factoryXySkew p)

/-- The latency that pre-compensation of `d` ps/nm adds, in ns, at most (R101). -/
def preLatencyNs (d : Int) : Nat := d.natAbs * 200 / 20000

/-! Status. -/

def txStateNum : TxState → Nat
  | .off => 0 | .starting => 1 | .on => 2 | .feedLost => 3

/-- port.txstatus (0x0205). The launch power is the stored reading of MCH(3p) (R408/14); of two pending changes the one placed first
is shown (notes/assumptions/53.md). -/
def portTxstatus : Req → State → Reply := onPort fun p _ s =>
  let t := txPort s p
  let pend := t.changes.head?
  okWith ([byteOf (txStateNum t.tx), byteOf t.bias] ++ intBE 2 t.target ++ intBE 2 (powerReading s 3 p) ++ natBE 2 (attenuation s p)
    ++ intBE 4 t.cdPre ++ (portScs p).map (fun sc => byteOf (txClass s sc))
    ++ (match pend with | some c => tcBytes10 c.boundary ++ natBE 2 c.mask | none => zeros 12)
    ++ natBE 2 t.replaced ++ zeros 2
    ++ (List.range 4).flatMap (fun a => natBE 8 (mergedTotal s (.dacClip p a)))) s

def execPortTxstatus (mb : Nat) (s : State) : Res := mailbox (objShape 0x0205) portTxstatus mb s

/-- The power of a subcarrier against its port's others, 0.1 dB: the offset of sc.txpower and the hub's corrections, kept separately, their
sum within the range of R105 (R235/07). -/
def scPower (s : State) (sc : Nat) : Int := clampInt (-60) 30 ((txSc s sc).offset + (txSc s sc).hubPower)

/-- sc.txpower (0x0280). -/
def scTxpower : Req → State → Reply := onSc fun sc r s =>
  if r.i 2 2 < -60 ∨ 30 < r.i 2 2 then refuse .range s
  else okay (onTxSc sc (fun x => { x with offset := r.i 2 2 }) s)

def execScTxpower (mb : Nat) (s : State) : Res := mailbox ⟨0x0280, some 4, [(1, 1)]⟩ scTxpower mb s

/-- The centre of a subcarrier from the port centre, MHz: (s - 7.5) x 22,250 (R88). -/
def scCentre (sc : Nat) : Int := 22250 * (scIdx sc : Int) - 166875

/-- sc.txstatus (0x0281). -/
def scTxstatus : Req → State → Reply := onSc fun sc _ s =>
  okWith ([byteOf (txClass s sc), 0] ++ intBE 2 (txSc s sc).offset ++ intBE 4 (scCentre sc)
    ++ natBE 8 (txSc s sc).frames) s

def execScTxstatus (mb : Nat) (s : State) : Res := mailbox (objShape 0x0281) scTxstatus mb s

end Sys2Proof.Machine
end

