-- ==== Sys2Proof/Machine/LineRx.lean ====
section
/-! DEFINITION. Line receive: acquisition, the chromatic-dispersion equalizer, ADC slices, LTUNE and link quality
(04_line_receive.md). -/

namespace Sys2Proof.Machine

/-! The CD equalizer (R120 to R131). -/

def onCd (p : Nat) (f : CdEq → CdEq) (s : State) : State := onRxPort p (fun r => { r with cd := f r.cd }) s

def cdOf (s : State) (p : Nat) : CdEq := (rxPort s p).cd

/-- The block in progress at `t`. -/
def blockNow (t : Nat) : Nat := 3 * t / (1408 * 65536)

/-- Blocks of the running dissolve begun before `t`. -/
def blocksSince (e : CdEq) (t : Nat) : Nat := blockNow t - blockAfter e.start

/-- Free the cues of a cued dissolve and of a staged set. -/
def freeCdCues (e : CdEq) (s : State) : State :=
  let s1 := if e.state = 1 then clearCue e.cue s else s
  match e.staged with
  | some g => clearCue g.idx s1
  | none => s1

/-- The incoming store weighs at least as much as the active one in the present block (R123, R131). -/
def incomingLeads (e : CdEq) (t : Nat) : Bool :=
  decide (e.len ≤ 2 * (min (blocksSince e t) (e.len - 1) + 1))

/-- R131: a cued dissolve is cancelled, a running one ends at once with the store of larger weight active, the staged store
is emptied; CD_DISSOLVE_DONE names what ended. -/
def endDissolve (p : Nat) (s : State) : State :=
  let e := cdOf s p
  let swap := decide (e.state = 2) && incomingLeads e (now s)
  let s1 := freeCdCues e s |> onCd p (fun e => { e with
    active := if swap then e.incoming else e.active
    incoming := if swap then e.active else e.incoming
    staged := none, state := 0 })
  onlyIf (decide (e.state ≠ 0))
    (raisePort 0x0207 p ([byteOf p, byteOf (if e.state = 2 then 1 else 2), 0, 0]
      ++ intBE 4 (if swap then e.incoming.base else e.active.base))) s1

/-! Subcarriers (R149, R153). -/

def requiredSnr : Nat → Int
  | 6 => 1750 | 5 => 1400 | 4 => 1100 | 3 => 800 | 2 => 500 | _ => 0

/-- A subcarrier is no longer converged, which SC_UNCONVERGED reports unless the receiver was disabled. -/
def unconverge (quiet : Bool) (sc : Nat) (s : State) : State :=
  let was := (rxSc s sc).conv
  onRxSc sc (fun x => { x with conv := false, lqi := 0 }) s
    |> onlyIf (was && !quiet) (raiseSc 0x0281 sc [byteOf sc])

/-- A subcarrier's loops stop; when they start again, its taps, its own timing phase and its carrier loop do so from their initial
values (R135, R153). -/
def stopSc (quiet : Bool) (sc : Nat) (s : State) : State :=
  onRxSc sc (fun x => { x with mimo := [], phase := 0, ted := 0, clk := 0, freq := 0, freqs := [] }) (unconverge quiet sc s)

/-- Frame acquisition restarts in HUNT at the correlator's present phase (R187/06). -/
def rehunt (sc : Nat) (s : State) : State :=
  onRxFramer sc (fun f => { f with st := .hunt, mf := false, lastMfc := none, run := 0 }) s

/-- R153: the MIMO taps return to their initial values; timing, carrier and frame acquisition restart. -/
def resyncSc (sc : Nat) (s : State) : State :=
  stopSc false sc s
    |> onRxSc sc (fun x => { x with resyncs := satAdd max32 x.resyncs 1 })
    |> rehunt sc

/-- Converged lit subcarriers of a port. -/
def convergedScs (s : State) (p : Nat) : List Nat := (portScs p).filter (fun sc => rxLit s sc && (rxSc s sc).conv)

/-! Acquisition (R151). -/

/-- A leaf before any grant (R219/07). -/
def ungrantedLeaf (s : State) (p : Nat) : Bool := (hubPort s p).role == .leaf && (hubPort s p).owned == 0

/-! The TIA gain (R110, R217/07). -/

/-- The gain that holds the ADC inputs at -12 dBFS at a received power, within its range of 30 dB. -/
def gainTarget (power : Int) : Int := clampInt 0 3000 (-1200 - power - Config.adcLevel)

/-- The gain now: its held value, or, moving by at most 0.5 dB per 10 us, on its way to the target since it was released. -/
def gainNow (s : State) (p : Nat) : Int :=
  let r := rxPort s p
  let n : Int := 50 * ((now s - r.gainAt) / ticksUs 10 : Nat)
  if r.gainFrozen then r.gain else r.gain + clampInt (-n) n (gainTarget r.power - r.gain)

/-- The gain is frozen at its last value. -/
def freezeGain (p : Nat) (s : State) : State :=
  onRxPort p (fun r => { r with gain := gainNow s p, gainAt := now s, gainFrozen := true }) s

/-- A hub with no lit leaf subcarrier: the gain stays at its maximum, as the foreground calibration leaves it (R217/07). -/
def gainParked (s : State) (p : Nat) : Bool := (hubPort s p).role == .hub && !(portScs p).any (rxLit s)

/-- The gain control is released where light is present, unless a hub parks it. -/
def releaseGain (p : Nat) (s : State) : State :=
  if gainParked s p then onRxPort p (fun r => { r with gain := 3000, gainAt := now s, gainFrozen := true }) s
  else onRxPort p (fun r => { r with gain := gainNow s p, gainAt := now s, gainFrozen := false }) s

/-- Entering AFC starts an acquisition; in AUTO, R131 applies. -/
def enterAfc (p : Nat) (s : State) : State :=
  forAll (stopSc false) (portScs p) s
    |> onRxPort p (fun r => { r with st := .afc, acq := satAdd max32 r.acq 1 })
    |> releaseGain p
    |> onlyIf (!(rxPort s p).manual) (endDissolve p)

/-- A failed acquisition step: RX_ACQ_FAIL with the state, then AFC again (R151). -/
def acqFail (p state : Nat) (s : State) : State := enterAfc p (raisePort 0x0206 p [byteOf p, byteOf state] s)

/-- The receiver is off: R131 applies. -/
def shutRx (p : Nat) (s : State) : State :=
  forAll (stopSc true) (portScs p) s
    |> forAll rehunt (portScs p)
    |> endDissolve p
    |> freezeGain p
    |> onRxPort p (fun r => { r with st := .off })

/-- Disable: to OFF from any state; a calibration in progress ends with DENIED. -/
def closeRx (p : Nat) (s : State) : State :=
  let calibrating := (rxPort s p).st == .calibrate
  shutRx p s |> onlyIf calibrating (finishDeferred 0x0206 p .denied) |> darkCheck p

/-- FEC counts, false candidates and losses run from the time the subcarrier was last lit (R173/05, frame.status). -/
def relit (sc : Nat) (s : State) : State :=
  onRxFramer sc (fun f => { f with falseC := 0, lossC := 0 }) (onFecSc sc (fun f => { sent := f.sent }) s)

/-- Start the foreground calibration (R115). -/
def startRx (p : Nat) (lo : Int) (s : State) : State :=
  onRxPort p (fun r => { r with st := .calibrate, acq := 0, loTap := loReading s p lo }) s
    |> forAll (fun sc s => relit sc (onRxSc sc (fun x => { x with resyncs := 0 }) s)) (portScs p)
    |> onPower (fun w => { w with picRails := including p w.picRails })

/-- port.rxenable (0x0206). -/
def portRxenable (lo : Int) : Req → State → Reply := onPort fun p r s =>
  if (rxPort s p).st = .calibrate ∨ resetting s p then refuse .busy s
  else if (rxPort s p).st ≠ .off then okSame s
  else
    let a := defer r p s
    if feedGood s p lo then { a with st := startExchange p (startRx p lo a.st) }
    else { a with st := onRxPort p (fun x => { x with loTap := loReading s p lo }) a.st }

/-- COMMAND_DONE with DENIED follows where the checks at acceptance failed. -/
def deniedRxenable (r : Req) (s : State) : State :=
  onlyIf ((rxPort s (r.u 0 1)).st != .calibrate) (finishDeferred 0x0206 (r.u 0 1) .denied) s

def execPortRxenable (mb : Nat) (lo : Int) (s : State) : Res :=
  mailboxThen (objShape 0x0206) (portRxenable lo) deniedRxenable mb s

/-- Foreground calibration done: it has set every slice's offset, gain, bandwidth and skew, to values that are free, and left the TIA
gain at its maximum; NO_LIGHT, and at once AFC where light is present (R115, R151, R217/07). -/
def rxCalibrationDone (p : Nat) (s : State) : State :=
  if (rxPort s p).st = .calibrate then
    useFree (onRxPort p (fun r => { r with
        st := .noLight, calNo := some s.free, trims := [], goodTrims := [], gain := 3000, gainAt := now s, gainFrozen := true }) s)
      |> finishDeferred 0x0206 p .ok
      |> onlyIf (rxPort s p).light (enterAfc p)
  else s

def execRxCalibrationDone (p : Nat) (s : State) : Res := need "port" (okPort p) (rxCalibrationDone p s)

/-- port.rxdisable (0x0207). -/
def portRxdisable : Req → State → Reply := onPort fun p _ s =>
  if (rxPort s p).st = .off then okSame s else okay (closeRx p s)

def execPortRxdisable (mb : Nat) (s : State) : Res := mailbox (objShape 0x0207) portRxdisable mb s

/-- A state after CALIBRATE. -/
def afterCalibrate (st : RxState) : Bool := st != .off && st != .calibrate

/-- Light is indicated absent while point 0x018 + p runs (R443/16). -/
def lightForced (s : State) (p : Nat) : Bool := (injOf s (0x018 + p)).running

/-- Light present: at or above the threshold plus 1.0 dB for 100 us (R111). -/
def lightPresent (p : Nat) (power : Int) (s : State) : State :=
  let r := rxPort s p
  if decide (10 * r.lolThr + 100 ≤ power) && !lightForced s p then
    onRxPort p (fun r => { r with light := true, power := power }) s
      |> onlyIf (afterCalibrate r.st) (releaseGain p)
      |> onlyIf (r.st == .noLight) (enterAfc p)
  else onRxPort p (fun r => { r with power := power }) s

def execLightPresent (p : Nat) (power : Int) (s : State) : Res := need "port" (okPort p) (lightPresent p power s)

/-- Light is gone: the gain freezes; from any state after CALIBRATE to NO_LIGHT (R110, R111, R151). -/
def loseLight (p : Nat) (s : State) : State :=
  let st := (rxPort s p).st
  onRxPort p (fun r => { r with light := false }) (freezeGain p s)
    |> onlyIf (afterCalibrate st) (fun s =>
        onRxPort p (fun r => { r with st := .noLight }) (forAll (stopSc false) (portScs p) s))

/-- Light absent: below the threshold for 10 us (R111). -/
def lightAbsent (p : Nat) (power : Int) (s : State) : State :=
  onlyIf (decide (power < 10 * (rxPort s p).lolThr) || lightForced s p) (loseLight p) s
    |> onRxPort p (fun r => { r with power := power })

def execLightAbsent (p : Nat) (power : Int) (s : State) : Res := need "port" (okPort p) (lightAbsent p power s)

/-- The offsets of a set about another base; a total beyond 60,000 ps/nm stops there (R121). -/
def rebased (c : CdSet) (base : Int) : List Int :=
  c.offsets.map (fun o => clampInt (-60000 - base) (60000 - base) o)

/-- Load a base dispersion into the active store: its offsets are zero, but those in which a hub carries its leaves' dispersion
(R121, R126, R217/07). -/
def loadActive (p : Nat) (base : Int) (s : State) : State :=
  onCd p (fun e => { e with active := {
    base := base, offsets := if (hubPort s p).role = .hub then rebased e.active base else [] } }) s

/-- The AFC estimate is done and frozen: CD_SCAN in AUTO, CONVERGE in MANUAL, which leaves the equalizer as it is (R131, R139, R151).
A hub freezes it at 0; it and a leaf before any grant take the scan centre as base (R217, R219/07). -/
def afcDone (p : Nat) (off : Int) (s : State) : State :=
  let r := rxPort s p
  let hub := (hubPort s p).role == .hub
  let direct := hub || ungrantedLeaf s p
  if r.st = .afc ∧ -10000 ≤ off ∧ off ≤ 10000 then
    onRxPort p (fun r => { r with
        afc := if hub then 0 else off
        st := if r.manual || direct then .converge else .cdScan }) s
      |> onlyIf (direct && !r.manual) (loadActive p r.scanCentre)
  else s

def execAfcDone (p : Nat) (off : Int) (s : State) : Res := need "port" (okPort p) (afcDone p off s)

/-- No AFC estimate within 5 ms (R151). -/
def execAfcTimeout (p : Nat) (s : State) : Res :=
  need "port" (okPort p) (onlyIf ((rxPort s p).st == .afc) (acqFail p 3) s)

/-- The first place of the greatest of `n` scores, and that score; a score not given is zero. -/
def bestScore (n : Nat) (l : List Nat) : Nat × Nat :=
  (List.range n).foldl (fun b k => if b.2 < l.getD k 0 then (k, l.getD k 0) else b) (0, 0)

/-- The steps of 500 ps/nm through the scan window. -/
def scanSteps (r : RxPort) : Nat := 2 * r.scanHalf / 500 + 1

/-- The base that a blind scan finds: the best step of 500 ps/nm above the detection limit, refined in steps of 20 ps/nm, within
the window (R126). -/
def scanBase (r : RxPort) (o : CdScores) : Option Int :=
  let low := r.scanCentre - r.scanHalf
  let c := bestScore (min (scanSteps r) o.coarse.length) o.coarse
  let f := bestScore (min 51 o.fine.length) o.fine
  let b : Int := low + 500 * c.1
  if c.2 ≤ Config.scanLimit then none
  else some (clampInt low (r.scanCentre + r.scanHalf) (if f.2 = 0 then b else b - 500 + 20 * f.1))

/-- The blind scan ends: its base in the active store, then CONVERGE; or failed, then AFC (R126, R151). -/
def cdScanDone (p : Nat) (o : CdScores) (s : State) : State :=
  if (rxPort s p).st = .cdScan then
    match scanBase (rxPort s p) o with
    | some b => onRxPort p (fun r => { r with st := .converge }) (loadActive p b s)
    | none => acqFail p 4 s
  else s

def execCdScanDone (p : Nat) (o : CdScores) (s : State) : Res := need "port" (okPort p) (cdScanDone p o s)

/-- None converged within 10 ms; a leaf before any grant has no such limit (R151, R219/07). -/
def execConvergeTimeout (p : Nat) (s : State) : Res :=
  need "port" (okPort p)
    (onlyIf ((rxPort s p).st == .converge && !ungrantedLeaf s p && (convergedScs s p).isEmpty) (acqFail p 5) s)

/-- A subcarrier converges; the first one takes the port to TRACK (R149, R151). -/
def scConverge (sc : Nat) (snr : Int) (s : State) : State :=
  let p := scPort sc
  let st := (rxPort s p).st
  if rxLit s sc && (st == .converge || st == .track) && !(rxSc s sc).conv
      && decide (requiredSnr (rxClass s sc) - 300 ≤ snr) then
    let s1 := onRxSc sc (fun x => { x with conv := true, convAt := now s, snr := snr }) s
      |> raiseSc 0x0280 sc [byteOf sc]
    onlyIf (st == .converge) (fun s =>
      onRxPort p (fun r => { r with st := .track }) s
        |> raisePort 0x0204 p [byteOf p, byteOf (convergedScs s1 p).length]) s1
  else s

def execScConverge (sc : Nat) (snr : Int) (s : State) : Res := need "subcarrier" (okSc sc) (scConverge sc snr s)

/-- A converged subcarrier's SNR falls below the required one minus 4.0 dB (R149). -/
def scUnconverge (sc : Nat) (snr : Int) (s : State) : State :=
  onlyIf ((rxSc s sc).conv && decide (snr < requiredSnr (rxClass s sc) - 400))
    (fun s => unconverge false sc (onRxSc sc (fun x => { x with snr := snr }) s)) s

def execScUnconverge (sc : Nat) (snr : Int) (s : State) : Res := need "subcarrier" (okSc sc) (scUnconverge sc snr s)

/-- No lit subcarrier converged for 1 ms in TRACK (R151). -/
def execTrackLossTimer (p : Nat) (s : State) : Res :=
  need "port" (okPort p)
    (onlyIf ((rxPort s p).st == .track && (convergedScs s p).isEmpty)
      (fun s => enterAfc p (raisePort 0x0205 p [byteOf p] s)) s)

/-! ADC slices (R114 to R119). -/

def sliceIndex (p a sl : Nat) : Nat := 264 * p + 66 * a + sl

/-- What the last foreground calibration set for slice `i`, 66 a + slice; before one, nothing is trimmed (R115). -/
def calTrim (r : RxPort) (i : Nat) : SliceTrim :=
  match r.calNo with
  | none => {}
  | some n => {
      skew := clampInt (-4000) 4000 (Config.sliceCal n i 0), gain := Config.sliceCal n i 1, off := Config.sliceCal n i 2
      fir := (Config.sliceCal n i 3, Config.sliceCal n i 4, Config.sliceCal n i 5) }

/-- The trims of slice `i`. -/
def trimOf (r : RxPort) (i : Nat) : SliceTrim := (tabGet none r.trims i).getD (calTrim r i)

/-- One 50 us step of the background calibration: skew by at most 2 fs, gain 0.002 dB, offset 0.02 LSB; the bandwidth filter takes
its new taps (R116). -/
def stepTrim (skew gain off : Int) (fir : Int × Int × Int) (t : SliceTrim) : SliceTrim :=
  { skew := clampInt (-4000) 4000 (t.skew + clampInt (-4) 4 skew), moved := (clampInt (-4) 4 skew).natAbs
    gain := t.gain + clampInt (-2) 2 gain
    off := t.off + clampInt (-2) 2 off, fir := fir }

/-- The skew trim is at an end of its range of 2.0 ps (R116, R118). -/
def trimAtEnd (t : SliceTrim) : Bool := t.skew == 4000 || t.skew == -4000

/-- The skew trim of slice `i` crosses to the delay trim of the ADC island by hold-and-flag (R116, R22/01). -/
def sendTrim (p i : Nat) (t : SliceTrim) : State → State := holdValue (.sliceTrims p) (8001 * i + (t.skew + 4000).toNat)

/-- BG_CAL_STEP: an active slice follows its estimates, a spare is trimmed toward the slice it shadows (R116, R117); a trim at the
end of its range is a fault, and the slice's trims return to the last good ones (R118). -/
def bgCalStep (p a sl : Nat) (skew gain off : Int) (fir : Int × Int × Int) (s : State) : State :=
  let r := rxPort s p
  let i := 66 * a + sl
  if r.light && afterCalibrate r.st && r.st != .noLight && !r.retired.contains i then
    let t := stepTrim skew gain off fir (trimOf r i)
    if trimAtEnd t then
      onRxPort p (fun r => { r with trims := tabSet none r.trims i (tabGet none r.goodTrims i) }) s
        |> unitFault 1 (sliceIndex p a sl)
    else onRxPort p (fun r => { r with
        trims := tabSet none r.trims i (some t), goodTrims := tabSet none r.goodTrims i (some t) }) s
      |> sendTrim p i t
  else s

def execBgCalStep (p a sl : Nat) (skew gain off : Int) (fir : Int × Int × Int) (s : State) : Res :=
  need "slice" (okPort p && okAdc a && okSlice sl) (bgCalStep p a sl skew gain off fir s)

/-- The spares of the four ADCs of a port, as 66 a + slice. -/
def portSpares (r : RxPort) : List Nat := (List.range 4).flatMap (fun a => (spareSlices r a).map (66 * a + ·))

/-- Every 10 ms each spare goes on to the next active slice, in ascending phase order (R117). -/
def shadowRotate (p : Nat) (s : State) : State :=
  onRxPort p (fun r => { r with
    shadow := (portSpares r).foldl (fun t i => tabMod 0 t i (fun ph => (ph + 1) % 64)) r.shadow }) s

def execShadowRotate (p : Nat) (s : State) : Res :=
  need "port" (okPort p) (onlyIf (afterCalibrate (rxPort s p).st) (shadowRotate p) s)

/-- A slice fault: counted; the retry resets its trims to the last that passed (R118, R435/16). -/
def adcSliceFault (p a sl : Nat) (s : State) : State :=
  let pt := 4 * p + a
  onRxPort p (fun r => { r with trims := tabSet none r.trims (66 * a + sl) (tabGet none r.goodTrims (66 * a + sl)) }) s
    |> onlyIf (injFor s pt sl) (injAct pt)
    |> unitFault 1 (sliceIndex p a sl)

def execAdcSliceFault (p a sl : Nat) (s : State) : Res :=
  need "slice" (okPort p && okAdc a && okSlice sl) (onlyIf (receiving s p) (adcSliceFault p a sl) s)

/-- The slice is rechecked within 10 ms: the retry ends, or a further fault is counted (R435, R436/16). -/
def sliceRecheck (p a sl : Nat) (bad : Bool) (s : State) : State :=
  let i := sliceIndex p a sl
  if (unitRec s (unitKey 1 i)).retrying then onlyIf bad (unitFault 1 i) (retryDone 1 i s) else s

def execSliceRetryRecheck (p a sl : Nat) (bad : Bool) (s : State) : Res :=
  need "slice" (okPort p && okAdc a && okSlice sl) (sliceRecheck p a sl bad s)

/-- The phase a slice holds. -/
def phaseOfSlice (r : RxPort) (a sl : Nat) : Option Nat := (List.range 64).find? (fun ph => phaseSlice r a ph == sl)

/-- The queued slice retirement of this ADC runs: its phase goes to the lowest spare at the next 64-sample boundary, or,
with no spare left, the slice stays in service (R118, R119). -/
def adcSliceRetire (p a : Nat) (s : State) : State :=
  match nextRetirement s 1 with
  | none => s
  | some i =>
    if i / 66 ≠ 4 * p + a then s
    else
      let sl := i % 66
      let r := rxPort s p
      let gone (n : Nat) (s : State) : State :=
        raisePort 0x0208 p [byteOf p, byteOf a, byteOf sl, byteOf n] (retired 1 i s)
      match phaseOfSlice r a sl, (spareSlices r a).head? with
      | some ph, some sp =>
        onRxPort p (fun r => { r with
          phaseOf := tabSet 0 r.phaseOf (64 * a + ph) (if sp = ph then 0 else sp + 1)
          retired := including (66 * a + sl) r.retired }) s
          |> gone ((spareSlices r a).length - 1)
      | some _, none => notRetired 1 i s |> raisePort 0x0209 p [byteOf p, byteOf a, byteOf sl]
      | none, _ =>
        onRxPort p (fun r => { r with retired := including (66 * a + sl) r.retired }) s
          |> gone ((spareSlices r a).length - 1)

def execAdcSliceRetire (p a : Nat) (s : State) : Res := need "ADC" (okPort p && okAdc a) (adcSliceRetire p a s)

/-! port.rxconfig and the CD commands. -/

/-- A dissolve length: a power of two from 16 to 4,096 (R123). -/
def dissolveLenOk (n : Nat) : Bool := n == 16 || n == 32 || n == 64 || n == 128 || n == 256 || n == 512 || n == 1024
  || n == 2048 || n == 4096

/-- port.rxconfig (0x0208). -/
def portRxconfig : Req → State → Reply := onPort fun p r s =>
  let centre := r.i 4 4
  let half := r.u 8 4
  if 1 < r.u 1 1 ∨ 1 < r.u 2 1 ∨ 1 < r.u 3 1 then refuse .badarg s
  else if half < 1000 ∨ 60000 < half ∨ centre - (half : Int) < -60000 ∨ 60000 < centre + (half : Int)
      ∨ r.u 12 2 < 20 ∨ 1000 < r.u 12 2 ∨ dissolveLenOk (r.u 14 2) = false
      ∨ r.i 16 2 < -350 ∨ -200 < r.i 16 2 ∨ r.u 18 2 < 100 ∨ 1000 < r.u 18 2 ∨ r.u 20 1 < 10 ∨ 50 < r.u 20 1 then
    refuse .range s
  else if r.u 2 1 = 1 ∧ (hubPort s p).role = .hub then refuse .denied s
  else okay (onRxPort p (fun x => { x with
    manual := r.u 1 1 == 1, follower := r.u 2 1 == 1, polarity := r.u 3 1
    scanCentre := centre, scanHalf := half, trackThr := r.u 12 2, trackLen := r.u 14 2
    lolThr := r.i 16 2, ltThr := r.u 18 2, ltStep := r.u 20 1
    conflict := x.conflict && r.u 2 1 == 1 }) s)

def execPortRxconfig (mb : Nat) (s : State) : Res := mailbox ⟨0x0208, some 24, [(21, 3)]⟩ portRxconfig mb s

/-- The coefficient set of a request: base, then 16 offsets (R121). -/
def readSet (base offs : Nat) (r : Req) : CdSet :=
  { base := r.i base 4, offsets := (List.range 16).map (fun k => r.i (offs + 4 * k) 4) }

def offsetOf (c : CdSet) (k : Nat) : Int := c.offsets.getD k 0

/-- Every total lies within +-60,000 ps/nm (R121). -/
def totalsOk (c : CdSet) : Bool :=
  (List.range 16).all (fun k => decide (-60000 ≤ c.base + offsetOf c k) && decide (c.base + offsetOf c k ≤ 60000))

/-- The cue time of a CD request: none where malformed (R491) or nonzero and less than 200 us ahead; zero: the earliest. -/
def cdCue (off : Nat) (r : Req) (s : State) : Option Nat :=
  match cueTime off r with
  | none => none
  | some none => some 0
  | some (some t) => if now s + ticksUs 200 ≤ t then some t else none

/-- DENIED in AUTO or with the receiver off (R125). -/
def cdDenied (s : State) (p : Nat) : Bool := !(rxPort s p).manual || (rxPort s p).st == .off

/-- Place a dissolve-start cue at block boundary `start` (R35/01, R371/12). -/
def dissolveCue (p i origin start tag : Nat) (s : State) : State :=
  placeCue i { state := 1, kind := 3, origin := origin, obj := p, time := start, tag := tag } s

/-- Cue a dissolve from the incoming store. -/
def cueDissolve (p i origin start tag len : Nat) (s : State) : State :=
  dissolveCue p i origin start tag s |> onCd p (fun e => { e with state := 1, len := len, start := start, cue := i })

/-- port.cdset (0x0209): R128. -/
def portCdset : Req → State → Reply := onPort fun p r s =>
  let set := readSet 16 20 r
  let len := r.u 2 2
  let e := cdOf s p
  if dissolveLenOk len = false ∨ totalsOk set = false then refuse .range s
  else match cdCue 4 r s with
    | none => refuse .range s
    | some cue =>
      if cdDenied s p then refuse .denied s
      else if e.state = 0 then
        match freeShared s with
        | none => refuse .nores s
        | some i =>
          let start := blockTime (blockAfter (max cue (now s + ticksUs 200)))
          okWith ([0, 0] ++ tcBytes10 start)
            (cueDissolve p i 0 start r.tag len (onCd p (fun e => { e with incoming := set, loading := true }) s))
      else
        let stage (i : Nat) (placement : Nat) : Reply :=
          okWith ([byteOf placement, 0] ++ zeros 10)
            (dissolveCue p i 0 (max cue (now s)) r.tag
              (onCd p (fun e => { e with
                staged := some { set := set, len := len, cue := cue, loaded := false, idx := i }
                overwrites := if placement = 2 then satAdd max32 e.overwrites 1 else e.overwrites }) s))
        match e.staged with
        | some g => stage g.idx 2
        | none =>
          match freeShared s with
          | none => refuse .nores s
          | some i => stage i 1

def execPortCdset (mb : Nat) (s : State) : Res := mailbox ⟨0x0209, some 84, [(1, 1), (14, 2)]⟩ portCdset mb s

/-- port.cdwrite (0x020A): a set into the incoming store, no dissolve (R130). -/
def portCdwrite : Req → State → Reply := onPort fun p r s =>
  let set := readSet 4 8 r
  if totalsOk set = false then refuse .range s
  else if cdDenied s p || (cdOf s p).state != 0 then refuse .denied s
  else okay (onCd p (fun e => { e with incoming := set, loading := true, lastWrite := now s }) s)

def execPortCdwrite (mb : Nat) (s : State) : Res := mailbox ⟨0x020A, some 72, [(1, 3)]⟩ portCdwrite mb s

/-- port.cdstart (0x020B): a dissolve to whatever the incoming store holds (R130). -/
def portCdstart : Req → State → Reply := onPort fun p r s =>
  if dissolveLenOk (r.u 2 2) = false then refuse .range s
  else match cdCue 4 r s with
    | none => refuse .range s
    | some cue =>
      if cdDenied s p || (cdOf s p).state != 0 then refuse .denied s
      else match freeShared s with
        | none => refuse .nores s
        | some i =>
          let start := blockTime (blockAfter (max (max cue (now s)) ((cdOf s p).lastWrite + ticksUs 200)))
          okWith (tcBytes10 start ++ [0, 0]) (cueDissolve p i 0 start r.tag (r.u 2 2) s)

def execPortCdstart (mb : Nat) (s : State) : Res := mailbox ⟨0x020B, some 16, [(1, 1), (14, 2)]⟩ portCdstart mb s

/-- The residual of largest magnitude among the lit subcarriers. -/
def largestResid (s : State) (p : Nat) : Int :=
  ((portScs p).filter (rxLit s)).foldl (fun b sc =>
    if b.natAbs < (rxSc s sc).resid.natAbs then (rxSc s sc).resid else b) 0

/-- port.cdstatus (0x020C). -/
def portCdstatus : Req → State → Reply := onPort fun p _ s =>
  let e := cdOf s p
  let busy := decide (e.state ≠ 0)
  okWith ([byteOf e.state, byteOf (b2n (rxPort s p).manual),
      byteOf (match e.staged with | none => 0 | some g => if g.loaded then 2 else 1), 0]
    ++ intBE 4 e.active.base ++ intBE 4 e.incoming.base
    ++ intBE 4 (match e.staged with | none => 0 | some g => g.set.base)
    ++ natBE 2 (if busy then e.len else 0)
    ++ natBE 2 (if e.state = 2 then min e.len (blocksSince e (now s)) else 0)
    ++ (if busy then tcBytes10 e.start else zeros 10) ++ [0, 0]
    ++ natBE 4 e.overwrites ++ natBE 4 e.dissolves ++ natBE 4 e.tracks ++ intBE 4 (largestResid s p)) s

def execPortCdstatus (mb : Nat) (s : State) : Res := mailbox (objShape 0x020C) portCdstatus mb s

/-- A load ends: of the staged store, or of the incoming one. A set that rotated in while loading gets its start now: the
first block at or after the end of its load and its cue time (R122, R129). -/
def cdLoadDone (p : Nat) (staged : Bool) (s : State) : State :=
  let e := cdOf s p
  if staged then onCd p (fun e => { e with staged := e.staged.map (fun g => { g with loaded := true }) }) s
  else if e.loading then
    let wait := decide (e.state = 1) && decide (e.start = 0)
    let c := cueAt s e.cue
    let start := blockTime (blockAfter (max (now s) c.time))
    onCd p (fun e => { e with loading := false, start := if wait then start else e.start }) s
      |> onlyIf wait (setCue e.cue { c with time := start })
  else s

def execCdLoadDone (p : Nat) (staged : Bool) (s : State) : Res := need "port" (okPort p) (cdLoadDone p staged s)

/-- The instant is a CD block boundary (R120). -/
def onBlock (t : Nat) : Bool := blockTime (blockAfter t) == t

/-- A cued dissolve starts at its block (R123, R35/01). -/
def dissolveStart (i at_ : Nat) (s : State) : State :=
  let p := (cueAt s i).obj
  let e := cdOf s p
  if cueDue s i 3 at_ && onBlock at_ && decide (now s ≤ at_) && s.ctrl.stage == .ready
      && firstDue s i at_ (sameObj s i) && e.state == 1 && e.cue == i && decide (0 < e.start) && decide (e.start ≤ at_) then
    clockTo at_ s
      |> onCd p (fun e => { e with state := 2, start := at_, loading := false })
      |> cueDone i at_ (blockTime (blockAfter (cueAt s i).time))
  else s

def execDissolveStartCue (i at_ : Nat) (s : State) : Res := need "cue" (okCue i) (dissolveStart i at_ s)

/-- A dissolve ends after its last block: the stores rotate; a staged set is cued (R123, R129). -/
def dissolveEnd (p at_ : Nat) (s : State) : State :=
  let e := cdOf s p
  if e.state = 2 ∧ blockTime (blockAfter e.start + e.len) ≤ at_ ∧ now s ≤ at_ then
    let s1 := clockTo at_ s
    let s2 := match e.staged with
      | none => onCd p (fun e => { e with
          active := e.incoming, incoming := e.active, state := 0, dissolves := satAdd max32 e.dissolves 1 }) s1
      | some g =>
        let start := if g.loaded then blockTime (blockAfter (max at_ g.cue)) else 0
        onCd p (fun e => { e with
            active := e.incoming, incoming := g.set, staged := none, state := 1, len := g.len, start := start
            cue := g.idx, loading := !g.loaded, dissolves := satAdd max32 e.dissolves 1 }) s1
          |> setCue g.idx { cueAt s g.idx with time := max start (cueAt s g.idx).time }
    raisePort 0x0207 p ([byteOf p, 0, 0, 0] ++ intBE 4 e.incoming.base) s2
  else s

def execDissolveEnd (p at_ : Nat) (s : State) : Res := need "port" (okPort p) (dissolveEnd p at_ s)

/-- A residual rounded to 10 ps/nm and limited to 400 ps/nm (R127). -/
def trackStep (r : Int) : Int := clampInt (-400) 400 (10 * roundDiv r 10)

/-- The set of a tracking request: each lit subcarrier moved by its residual, totals within their range. -/
def trackSet (s : State) (p : Nat) (res : List Int) : CdSet :=
  let a := (cdOf s p).active
  { base := a.base, offsets := (List.range 16).map (fun k =>
      if rxLit s (16 * p + k) then
        clampInt (-60000 - a.base) (60000 - a.base) (offsetOf a k + trackStep (res.getD k 0))
      else offsetOf a k) }

/-- Cue a dissolve of the module's own: the own region of the cue table, the earliest block (R127, R370/12). -/
def ownDissolve (p len : Nat) (set : CdSet) (s : State) : State :=
  match freeOwn s with
  | none => s
  | some i =>
    let start := blockTime (blockAfter (now s + ticksUs 200))
    onCd p (fun e => { e with incoming := set, loading := true, tracks := satAdd max32 e.tracks 1 }) s
      |> cueDissolve p i 1 start 0 len

/-- The residuals averaged over 100 ms: recorded in both modes, a tracking request in AUTO (R127, R150). -/
def cdTrackEstimate (p : Nat) (res : List Int) (s : State) : State :=
  let r := rxPort s p
  let s1 := forAll (fun sc => onlyIf (rxLit s sc)
    (onRxSc sc (fun x => { x with resid := res.getD (scIdx sc) 0 }))) (portScs p) s
  let big := (portScs p).any (fun sc => rxLit s sc && decide (r.trackThr < (res.getD (scIdx sc) 0).natAbs))
  if r.st == .track then
    onlyIf (!r.manual && big && r.cd.state == 0) (ownDissolve p r.trackLen (trackSet s p res)) s1
  else s

def execCdTrackEstimate (p : Nat) (res : List Int) (s : State) : Res := need "port" (okPort p) (cdTrackEstimate p res s)

/-! LTUNE (R141 to R145). -/

/-- The averaged offset of a port: the frozen AFC value plus the mean, over its converged subcarriers and the last 10 ms, of the
frequency-loop values (R141). -/
def averagedOffset (s : State) (p : Nat) : Int :=
  let vs := (convergedScs s p).flatMap (fun sc => (rxSc s sc).freqs)
  (rxPort s p).afc + (if vs = [] then 0 else roundDiv vs.sum vs.length)

/-- C is updated: a follower in TRACK, or a leaf in CONVERGE before its grant; no role conflict; firmware running; single
or lead (R143 to R145). -/
def ltuneRuns (s : State) (p : Nat) : Bool :=
  isFollower s p && !(rxPort s p).conflict && s.ctrl.stage == .ready && decide (s.pair.role ≤ 1)
    && ((rxPort s p).st == .track || ((rxPort s p).st == .converge && ungrantedLeaf s p))

/-- C after one 10 ms update (R143). -/
def ltuneStep (r : RxPort) (f : Int) : Int :=
  if (r.ltThr : Int) < (f.natAbs : Int) then
    clampInt (-2000) 2000 (r.c + (if f < 0 then -1 else 1) * (min f.natAbs r.ltStep : Nat))
  else r.c

def ltuneUpdate (p : Nat) (s : State) : State :=
  if ltuneRuns s p then
    let r := rxPort s p
    let f := if ungrantedLeaf s p then (hubPort s p).beaconOff else averagedOffset s p
    let c := ltuneStep r f
    let hit := decide ((r.ltThr : Int) < (f.natAbs : Int)) && (c == 2000 || c == -2000) && r.limitArmed
    onRxPort p (fun r => { r with
        c := c, limitArmed := if c.natAbs < 1900 then true else r.limitArmed && !hit }) s
      |> onlyIf hit (raisePort 0x020A p ([byteOf p, 0, 0, 0] ++ intBE 4 c))
      |> mirror (.ltune p c)
  else s

def execLtuneUpdate (p : Nat) (s : State) : Res := need "port" (okPort p) (ltuneUpdate p s)

/-- port.ltune (0x020E). -/
def portLtune : Req → State → Reply := onPort fun p r s =>
  if r.i 2 2 < -2000 ∨ 2000 < r.i 2 2 then refuse .range s
  else if isFollower s p then refuse .denied s
  else okay (onRxPort p (fun x => { x with cTarget := some (r.i 2 2) }) s)

def execPortLtune (mb : Nat) (s : State) : Res := mailbox ⟨0x020E, some 4, [(1, 1)]⟩ portLtune mb s

/-- C moves toward its commanded value by at most 50 MHz in 10 ms (port.ltune); it holds in a warm restart, without the
lease and on a follower, and a stand-in carries the lead's (R144). -/
def ltuneSlew (p : Nat) (s : State) : State :=
  match (rxPort s p).cTarget with
  | none => s
  | some v =>
    let c := (rxPort s p).c + clampInt (-50) 50 (v - (rxPort s p).c)
    onRxPort p (fun r => { r with c := c, cTarget := if c = v then none else some v }) s |> mirror (.ltune p c)

def execLtuneSlewStep (p : Nat) (s : State) : Res :=
  need "port" (okPort p) (onlyIf (s.ctrl.stage == .ready && decide (s.pair.role ≤ 1) && !isFollower s p) (ltuneSlew p) s)

/-- The LTUNE voltage in mV: 1,250 plus or minus 0.5 mV per MHz (R142). -/
def ltuneMv (r : RxPort) : Int := roundDiv (2500 + (if r.polarity = 0 then r.c else -r.c)) 2

/-! Link quality (R146 to R150). -/

/-- Steps of a decimal logarithm: subtract powers 10^(2^k) from k = 13 down. -/
def log10Steps : Nat → Nat → Nat → Nat
  | 0, q, f => if 10 ≤ q then f + 1 else f
  | k + 1, q, f => if 10 ^ 2 ^ (k + 1) ≤ q then log10Steps k (q / 10 ^ 2 ^ (k + 1)) (f + 2 ^ (k + 1)) else log10Steps k q f

/-- floor(log10 q) for 1 ≤ q < 10^32768. -/
def log10Floor (q : Nat) : Nat := log10Steps 14 q 0

/-- 2,000 x log10(a / b) to the nearest integer, for a at or above b > 0. -/
def centiDb (a b : Nat) : Int := ((log10Floor (a ^ 4000 / b ^ 4000) + 1) / 2 : Nat)

/-- SNR in 0.01 dB from the EVM in 0.01 %: -20 log10(EVM / 100), to the nearest 0.01 dB (R146). -/
def snrOfEvm (evm : Nat) : Int := if evm ≤ 10000 then centiDb 10000 evm else -centiDb evm 10000

/-- LQI: 0 unless converged, else 64 + 16 x margin rounded, from 1 to 255 (R148). -/
def lqiOf (conv : Bool) (margin : Int) : Nat :=
  if conv then (clampInt 1 255 (roundDiv (6400 + 16 * margin) 100)).toNat else 0

/-- The sums of the second after one more refresh (R213/06). -/
def addSums (old new : List Int) : List Int := (List.range 6).map (fun k => old.getD k 0 + new.getD k 0)

/-! The MIMO equalizer and timing recovery (R134, R135, R137). -/

/-- The initial taps: XX and YY a unit tap at tap 12, all others zero. -/
def unitTaps : List (Int × Int) := (List.range 100).map (fun k => if k = 12 ∨ k = 87 then (1, 0) else (0, 0))

/-- The taps of a subcarrier. -/
def tapsOf (x : RxSc) : List (Int × Int) := if x.mimo = [] then unitTaps else x.mimo

/-- The energy of a tap, and that of a set of four filters of 25. -/
def tapEnergy (h : Int × Int) : Int := h.1 * h.1 + h.2 * h.2

def tapsEnergy (l : List (Int × Int)) : Int := ((l.take 100).map tapEnergy).sum

/-- The moment of the taps about tap 12: their energy times the drift of their centre of gravity. -/
def tapsMoment (l : List (Int × Int)) : Int :=
  ((List.range 100).map (fun k => ((k % 25 : Nat) - 12 : Int) * tapEnergy (l.getD k (0, 0)))).sum

/-- One filter with its taps shifted by one symbol, two taps of T/2: `up` toward higher taps. -/
def shiftFilter (up : Bool) (f : List (Int × Int)) : List (Int × Int) :=
  if up then [(0, 0), (0, 0)] ++ f.take 23 else f.drop 2 ++ [(0, 0), (0, 0)]

def shiftTaps (up : Bool) (l : List (Int × Int)) : List (Int × Int) :=
  (List.range 4).flatMap (fun k => shiftFilter up ((l.drop (25 * k)).take 25))

/-- The taps that adaptation left; a centre of gravity more than 2 taps from tap 12 shifts them all by one symbol, and the timing
phase moves to match. -/
def retap (l : List (Int × Int)) (x : RxSc) : RxSc :=
  if 2 * tapsEnergy l < tapsMoment l then { x with mimo := shiftTaps false l, phase := x.phase + 64 }
  else if tapsMoment l < -(2 * tapsEnergy l) then { x with mimo := shiftTaps true l, phase := x.phase - 64 }
  else { x with mimo := l }

/-- The timing loops: on a hub each subcarrier's own, else the port's, which averages the detectors of its converged subcarriers; both
track 100 ppm (R134, R137). -/
def timingLoop (sc : Nat) (q : LinkObs) (s : State) : State :=
  let p := scPort sc
  let cs := convergedScs s p
  let s1 := onRxSc sc (fun x => { x with ted := q.ted, clk := clampInt (-10000) 10000 q.clk }) s
  if (hubPort s p).role = .hub then onRxSc sc (fun x => { x with phase := x.phase + q.ted }) s1
  else if (rxSc s sc).conv then
    onRxPort p (fun r => { r with
      phase := r.phase + roundDiv q.ted cs.length
      clk := roundDiv (cs.map (fun k => (rxSc s1 k).clk)).sum cs.length }) s1
  else s1

/-- The timing phase applied to a subcarrier's bins: its own, and off a hub the port's with it. -/
def phaseOf (s : State) (sc : Nat) : Int :=
  (rxSc s sc).phase + (if (hubPort s (scPort sc)).role = .hub then 0 else (rxPort s (scPort sc)).phase)

/-- The 1 ms refresh of a lit subcarrier. An EVM of zero has no logarithm: its SNR is a free value. The frequency loop holds within
3.5 GHz of the frozen AFC value (R140). -/
def linkRefresh (sc : Nat) (q : LinkObs) (s : State) : State :=
  if rxLit s sc then
    let f := clampInt (-3500) 3500 q.freq
    let snr := if q.evm = 0 then (freeNat s : Int) else snrOfEvm q.evm
    let m := snr - requiredSnr (rxClass s sc)
    onlyIf (decide (q.evm = 0)) useFree (onRxSc sc (fun x => retap q.taps { x with
      evm := q.evm, snr := snr, margin := m, lqi := lqiOf x.conv m, freq := f, dgd := q.dgd, pdl := q.pdl
      freqs := f :: x.freqs.take 9
      resid := q.resid, nSum := x.nSum + 1
      sums := addSums x.sums [snr + 1450, q.resid, (q.dgd : Int), (q.pdl : Int)
        , (rxPort s (scPort sc)).afc + f, powerReading s 2 (scPort sc)] }) (timingLoop sc q s))
  else s

def execLinkQualityRefresh (sc : Nat) (q : LinkObs) (s : State) : Res :=
  need "subcarrier" (okSc sc) (linkRefresh sc q s)

/-! Receive classes (R112, R152, R153). -/

/-- A hub's gain control follows whether a leaf's subcarrier is lit (R217/07). -/
def hubGain (p : Nat) (s : State) : State :=
  onlyIf ((hubPort s p).role == .hub && (rxPort s p).light && (gainParked s p || (rxPort s p).gainFrozen)) (releaseGain p) s

/-- A subcarrier's receive class becomes `k`: kept loops while it stays lit, a fresh acquisition from dark, a stop when it
goes dark (R152); alignment by R187 and R189/06. -/
def setFarClass (sc k : Nat) (s : State) : State :=
  let old := rxClass s sc
  let s1 := hubGain (scPort sc) (onRxSc sc (fun x => { x with far := k }) s)
  let new := rxClass s1 sc
  if old = new then s1
  else if new < 2 then rehunt sc (stopSc false sc s1)
  else if old < 2 then relit sc (rehunt sc (stopSc false sc s1))
  else onRxFramer sc (fun f => { f with mfcExp := 0 }) s1

/-- The received frame with the announced departure stamp: the announced class takes effect (R152). An announcement whose
subcarriers have all changed is done. -/
def rxClassChange (sc stamp : Nat) (s : State) : State :=
  let p := scPort sc
  match (rxPort s p).ann.find? (fun a => a.boundary == stamp && bitOf a.mask (scIdx sc)) with
  | none => s
  | some a =>
    let m := a.mask ^^^ 2 ^ scIdx sc
    onRxPort p (fun r => { r with ann := if m = 0 then r.ann.erase a else r.ann.map (fun b => if b = a then { a with mask := m } else b) }) s
      |> onlyIf (m == 0) (clearFarCue p a.boundary)
      |> setFarClass sc (a.classes.getD (scIdx sc) 0)

def execRxClassChange (sc stamp : Nat) (s : State) : Res := need "subcarrier" (okSc sc) (rxClassChange sc stamp s)

/-- sc.rxconfig (0x0282). -/
def scRxconfig : Req → State → Reply := onSc fun sc r s =>
  let p := scPort sc
  if 6 < r.u 1 1 ∨ r.u 2 1 < 6 ∨ 14 < r.u 2 1 then refuse .range s
  else if (hubPort s p).role = .leaf ∧ bitOf (hubPort s p).owned (scIdx sc) = false then refuse .denied s
  else
    let old := rxClass s sc
    let s1 := onRxSc sc (fun x => { x with cfg := r.u 1 1, m := r.u 2 1 }) s
    okay (onlyIf (rxClass s1 sc != old) (resyncSc sc) s1 |> onlyIf (decide (old < 2) && decide (2 ≤ rxClass s1 sc)) (relit sc))

def execScRxconfig (mb : Nat) (s : State) : Res := mailbox ⟨0x0282, some 4, [(3, 1)]⟩ scRxconfig mb s

/-- 0 dark, 1 acquiring, 2 converged. -/
def scState (s : State) (sc : Nat) : Nat := if rxLit s sc then (if (rxSc s sc).conv then 2 else 1) else 0

/-- sc.rxstatus (0x0283). The frequency offset is the frozen AFC value plus the subcarrier's loop value. -/
def scRxstatus : Req → State → Reply := onSc fun sc _ s =>
  let x := rxSc s sc
  okWith ([byteOf (scState s sc), byteOf (rxClass s sc), byteOf (if rxLit s sc then x.lqi else 0), 0]
    ++ natBE 2 x.evm ++ intBE 2 x.snr ++ intBE 2 x.margin ++ intBE 2 (x.snr + 1450)
    ++ intBE 4 ((rxPort s (scPort sc)).afc + x.freq) ++ natBE 2 x.dgd ++ natBE 2 x.pdl ++ intBE 4 x.resid
    ++ natBE 4 x.resyncs ++ zeros 4) s

def execScRxstatus (mb : Nat) (s : State) : Res := mailbox (objShape 0x0283) scRxstatus mb s

/-- sc.resync (0x0284); a port.reset takes it in, so it is BUSY during one (R470/18). -/
def scResync : Req → State → Reply := onSc fun sc _ s =>
  if rxLit s sc = false then refuse .denied s
  else if resetting s (scPort sc) then refuse .busy s
  else okay (resyncSc sc s)

def execScResync (mb : Nat) (s : State) : Res := mailbox (objShape 0x0284) scResync mb s

def rxStateNum : RxState → Nat
  | .off => 0 | .calibrate => 1 | .noLight => 2 | .afc => 3 | .cdScan => 4 | .converge => 5 | .track => 6

/-- port.rxstatus (0x020D). The symbol clock offset is that of the port's timing loop; a hub, whose subcarriers each have their own, has
none to show: a free value. -/
def portRxstatus : Req → State → Reply := onPort fun p _ s =>
  let r := rxPort s p
  okWith ([byteOf (rxStateNum r.st), byteOf (b2n (isFollower s p))]
    ++ natBE 2 (listMask ((convergedScs s p).map scIdx)) ++ intBE 2 (powerReading s 2 p) ++ intBE 2 (chanVal s (3 * p + 2)).value ++ intBE 4 r.afc
    ++ intBE 4 (if (hubPort s p).role = .hub then 0 else averagedOffset s p)
    ++ intBE 4 r.c ++ intBE 2 (ltuneMv r) ++ (if (hubPort s p).role = .hub then natBE 2 (freeNat s) else intBE 2 r.clk)
    ++ (List.range 4).map (fun a => byteOf (spareSlices r a).length)
    ++ (List.range 4).flatMap (fun a => natBE 8 (mergedTotal s (.adcOverload p a))) ++ natBE 4 r.acq) (useFree s)

def execPortRxstatus (mb : Nat) (s : State) : Res := mailbox (objShape 0x020D) portRxstatus mb s

end Sys2Proof.Machine
end

