-- ==== Sys2Proof/Machine/Fec.lean ====
section
/-! DEFINITION. The codes, the decoder pool and the iteration budget (05_fec_engine.md). -/

namespace Sys2Proof.Machine

/-! The outer BCH code (R156). -/

/-- The product of the minimal polynomials of alpha, alpha^3 and alpha^5 over GF(2^10): carry-less multiplication. -/
def clMul (a : Nat) (w b : Nat) : Nat := (List.range w).foldl (fun r k => if bitOf b k then r ^^^ (a * 2 ^ k) else r) 0

/-- g(x), degree 30: (x^10 + x^3 + 1)(x^10 + x^3 + x^2 + x + 1)(x^10 + x^8 + x^3 + x^2 + 1). -/
def bchPoly : Nat := clMul (clMul 0x409 11 0x40F) 11 0x50D

/-- The 30 parity bits of 990 information bits: the remainder of m(x) x^30 by g(x). -/
def bchParity (info : List Bool) : Nat := info.foldl (crcBitM 30 (bchPoly % 2 ^ 30)) 0

/-- A BCH codeword in position order. -/
def bchEncode (info : List Bool) : List Bool := info ++ bitsMsb 30 (bchParity info)

/-- The information bits of BCH codeword `j` of an LDPC codeword: every 19th bit (R154). -/
def bchInfo (info : List Bool) (j : Nat) : List Bool := (List.range 990).map (fun k => info.getD (19 * k + j) false)

/-! The inner LDPC code (R157, R158). Blocks of 60 positions are numbers whose bit x is position x. -/

def blockOf (bits : List Bool) (b : Nat) : Nat := listMask ((List.range 60).filter (fun x => bits.getD (60 * b + x) false))

/-- A circulant of shift `h` applied to a block: row x takes column (x + h) mod 60. -/
def circulant (h v : Nat) : Nat := (v / 2 ^ h) ||| (v * 2 ^ (60 - h) % 2 ^ 60)

/-- The row block and shift of the three circulants of information column `b` (R158). -/
def circulants (b : Nat) : List (Nat × Nat) :=
  let u := (7 * b + 3) % 60
  let i := b % 36
  let g := b / 36
  [(i, u), ((i + 7 + g) % 36, 3 * u % 60), ((i + 19 + 2 * g) % 36, 5 * u % 60)]

/-- The partial syndrome of row block `r` over the 323 information blocks. -/
def partialSyndrome (blocks : List Nat) (r : Nat) : Nat :=
  (List.range 323).foldl (fun a b =>
    (circulants b).foldl (fun a c => if c.1 = r then a ^^^ circulant c.2 (blocks.getD b 0) else a) a) 0

/-- The parity blocks by accumulation: p_r is s_r XOR p_(r-1) (R158). -/
def parityBlocks (blocks : List Nat) : Nat → Nat → List Nat
  | 0, _ => []
  | n + 1, prev =>
    let p := partialSyndrome blocks (35 - n) ^^^ prev
    p :: parityBlocks blocks n p

def blockBits (v : Nat) : List Bool := (List.range 60).map (bitOf v)

/-- The 21,540 bits of an LDPC codeword from its 18,810 information bits (R157). -/
def ldpcEncode (info : List Bool) : List Bool :=
  let outer := (List.range 19).flatMap (fun j => bchEncode (bchInfo info j))
  outer ++ (parityBlocks ((List.range 323).map (blockOf outer)) 36 0).flatMap blockBits

/-- Matcher block `b` of a frame's four codewords: half a codeword, in position order (R157, R93/03). -/
def matcherBlock (cws : List (List Bool)) (b : Nat) : List Bool := ((cws.getD (b / 2) []).drop (b % 2 * 10770)).take 10770

/-- The syndrome checker: every row block of H sums to zero (R158, R159). -/
def syndromeZero (cw : List Bool) : Bool :=
  let blocks := (List.range 359).map (blockOf cw)
  (List.range 36).all (fun r =>
    partialSyndrome blocks r ^^^ blocks.getD (323 + r) 0 ^^^ (if r = 0 then 0 else blocks.getD (322 + r) 0) == 0)

/-! Encoder faults (R159). -/

/-- The queued retirement of a port's encoder: no spare, so the transmitter is disabled, and FEC_ENC_FAULT carries the
permanent flag. -/
def encoderRetire (p : Nat) (s : State) : State :=
  retired 3 p (closeTx p s)
    |> raisePort 0x0210 p [byteOf p, 1]

/-- A nonzero syndrome after encoding: counted, FEC_ENC_FAULT, permanent where the fault makes it so. -/
def encoderFault (p : Nat) (s : State) : State :=
  let s1 := onFecPort p (fun f => { f with encFaults := satAdd max32 f.encFaults 1 }) s
  let s2 := unitFault 3 p s1
  if s2.flt.queue.contains (3, p) then encoderRetire p s2 else raisePort 0x0210 p [byteOf p, 0] s2

/-- The information bits of codeword `c` of a frame: bits 18,810 c onward of its bytes as sent on the line (R154). -/
def codewordInfo (frame : List Byte) (c : Nat) : List Bool :=
  (List.range 18810).map (fun i => ((frame.flatMap byteBits).drop (18810 * c)).getD i false)

/-- A codeword leaves the encoder: as it was encoded, its last position inverted by point 0x078 + p (R175). A nonzero syndrome is
an encoder fault; the encoder's retry ends with the codeword. -/
def sendCodeword (sc c : Nat) (cw : List Bool) (s : State) : State :=
  let p := scPort sc
  let inj := injArmed s (0x078 + p)
  let sent := if inj then cw.dropLast ++ [!cw.getLastD false] else cw
  onlyIf inj (injAct (0x078 + p)) s
    |> retryDone 3 p
    |> onFecSc sc (fun f => { f with sent := tabSet 0 f.sent c (bitsNat sent) })
    |> onlyIf (!syndromeZero sent) (encoderFault p)

/-- CODEWORD_ENCODE: codeword `c` of the scrambled frame that the framer built last. -/
def codewordEncode (sc c : Nat) (s : State) : State :=
  onlyIf (txLit s sc) (sendCodeword sc c (ldpcEncode (codewordInfo (txFrame s sc).frame c))) s

def execCodewordEncode (sc c : Nat) (s : State) : Res :=
  need "codeword" (okSc sc && okCw c) (codewordEncode sc c s)

/-! The iteration budget (R167 to R171). -/

/-- The limit of a slot's next codeword (R167). -/
def limitOf (f : FecPort) (d : Nat) : Nat := if d = 0 then cEff f else max 3 (nEff f - d)

/-- Every debt limited to C_eff - N_eff (R171). -/
def clampDebts (f : FecPort) : FecPort :=
  { f with debt := (f.debt.map (fun e => (e.1, min e.2 (cEff f - nEff f)))).filter (fun e => e.2 != 0) }

/-- The cap becomes `k`: debts are limited, and FEC_BUDGET_REDUCED or FEC_BUDGET_RESTORED is raised as it leaves or
reaches 16 (R171). -/
def setCap (p k : Nat) (s : State) : State :=
  let old := (fecPort s p).k
  let s1 := onFecPort p (fun f => clampDebts { f with
    k := k, reductions := if k < old then satAdd max32 f.reductions 1 else f.reductions }) s
  let f := fecPort s1 p
  onlyIf (decide (k < old) && decide (old = 16)) (raisePort 0x020C p [byteOf p, byteOf k, byteOf (nEff f), byteOf (cEff f)]) s1
    |> onlyIf (decide (old < k) && decide (k = 16)) (raisePort 0x020D p [byteOf p])

/-- The highest cap the thermal hold allows: the nominal budget (R424/15). -/
def capLimit (f : FecPort) : Nat := if f.hold then min 16 f.n else 16

/-- K falls by one, down to 3 (R170). -/
def lowerCap (p : Nat) (s : State) : State :=
  onlyIf (decide (3 < (fecPort s p).k)) (setCap p ((fecPort s p).k - 1)) s

/-- The margin predicted after K rises by one, in 0.1 %: (1 + margin) N_eff / N_eff_new - 1, at or above 6 % (R170). -/
def risePermitted (f : FecPort) (m : Int × Nat) : Bool :=
  decide (f.k < capLimit f)
    && decide (1060 * (m.2 : Int) * (nEff { f with k := f.k + 1 } : Int) ≤ (1000 * (m.2 : Int) + m.1) * (nEff f : Int))

/-! A unit's margin below 3 % (R31/01). -/

/-- The cap of a unit's port; 16 for a unit without decoders (R33/01). -/
def capOf (s : State) (u : Nat) : Nat := if u < 36 ∧ u % 6 = 2 then (fecPort s (u / 6)).k else 16

/-- Step 2: PACE_LOW for a unit with margin `m`, while armed. -/
def paceLow (u : Nat) (m : Int × Nat) (s : State) : State :=
  onlyIf (paceUnit s u).lowArmed (raise 0x0E11 12 u 0 (intBE 2 (marginField (shownMargin m)) ++ [byteOf (capOf s u)])) s
    |> onPaceUnit u (fun x => { x with lowArmed := false })

/-- PACE_LOW is armed again when the unit's margin reaches 6 %. -/
def rearmUnit (u : Nat) (s : State) : State :=
  match exactMargin s u with
  | some m => onlyIf (!marginBelow m 60) (onPaceUnit u (fun x => { x with lowArmed := true })) s
  | none => s

/-- The unit's margin falls below 3 %: the cap of its decoders falls first, then PACE_LOW is raised. -/
def lowUnit (u : Nat) (s : State) : State :=
  match exactMargin s u with
  | none => s
  | some m =>
    if marginBelow m 30 then
      paceLow u m (onlyIf (decide (u < 36) && decide (u % 6 = 2)) (lowerCap (u / 6)) s)
    else rearmUnit u s

/-- FEC_CAP_TICK, every 100 us with the iteration rate of PU(6p+2): K falls below 3 %, with PACE_LOW while it is armed (R31/01),
rises every 1 ms at 6 % or more, holds otherwise or without a margin (R170). -/
def capTick (p iters : Nat) (s : State) : State :=
  let s1 := onPaceUnit (6 * p + 2) (fun u => { u with ach := some iters }) s
    |> rearmUnit (6 * p + 2)
  match exactMargin s1 (6 * p + 2) with
  | none => onFecPort p (fun f => { f with capTicks := 0 }) s1
  | some m =>
    if marginBelow m 30 then lowUnit (6 * p + 2) (onFecPort p (fun f => { f with capTicks := 0 }) s1)
    else if !marginBelow m 60 then
      let t := (fecPort s1 p).capTicks + 1
      let s2 := onFecPort p (fun f => { f with capTicks := if t = 10 then 0 else t }) s1
      onlyIf (decide (t = 10) && risePermitted (fecPort s1 p) m) (setCap p ((fecPort s1 p).k + 1)) s2
    else onFecPort p (fun f => { f with capTicks := 0 }) s1

def execFecCapTick (p iters : Nat) (s : State) : Res := need "port" (okPort p) (capTick p iters s)

/-! Truncation (R176). -/

/-- After 1 s without truncation, FEC_TRUNCATING is armed again (R176). -/
def execFecTruncatingRearm (p : Nat) (s : State) : Res :=
  need "port" (okPort p) (onFecPort p (fun f => { f with truncArmed := true, truncSince := 0 }) s)

/-! Engine retirement (R172). -/

/-- The slot `k` is removed: later slots move down one index with their debts. -/
def removeSlot (k : Nat) (f : FecPort) : FecPort :=
  { f with
    engines := f.engines.eraseIdx k
    debt := (f.debt.filter (fun e => e.1 != k)).map (fun e => if k < e.1 then (e.1 - 1, e.2) else e) }

/-- The lowest-numbered lit receive subcarrier of a port. -/
def lowestLit (s : State) (p : Nat) : Option Nat := (portScs p).find? (rxLit s)

/-- The slots of the engines that leave are removed: at the frame boundary of the port's lowest-numbered lit subcarrier that
codeword 0 of its frame begins, or at once where no subcarrier is lit. -/
def leaveSlots (p : Nat) (s : State) : State :=
  onFecPort p (fun f => { (f.leaving.foldl (fun f e => match f.engines.idxOf? e with
    | some k => removeSlot k f
    | none => f) f) with leaving := [] }) s

/-- Engines that hold a slot which stays. -/
def stayingEngines (f : FecPort) : Nat := (f.engines.filter (fun e => !f.leaving.contains e)).length

/-- FEC_ENGINE_RETIRE: the queued retirement of an engine of this port runs: its slot goes to the lowest-numbered spare at once, or,
with no spare left, is removed at the next frame boundary. -/
def engineRetire (p : Nat) (s : State) : State :=
  match nextRetirement s 2 with
  | none => s
  | some i =>
    if i / 18 ≠ p then s
    else
      let e := i % 18
      let f := fecPort s p
      let s1 := onFecPort p (fun f => { f with retired := including e f.retired }) (retired 2 i s)
      match f.engines.idxOf? e, (spareEngines f).head? with
      | some k, some sp =>
        onFecPort p (fun f => { f with engines := f.engines.set k sp }) s1
          |> raisePort 0x020E p [byteOf p, byteOf e, byteOf k, byteOf ((spareEngines f).length - 1)]
      | some k, none =>
        onFecPort p (fun f => { f with leaving := including (f.engines.getD k 18) f.leaving }) s1
          |> onlyIf (lowestLit s p).isNone (leaveSlots p)
          |> (fun t => raisePort 0x020F p [byteOf p, byteOf (stayingEngines (fecPort t p))] t)
      | none, _ => s1

def execFecEngineRetire (p : Nat) (s : State) : Res := need "port" (okPort p) (engineRetire p s)

/-! Pre-FEC BER (R174). -/

/-- -log10(e / n) in 0.001 to the nearest, for 0 < e <= n. -/
def milliLog (n e : Nat) : Nat := (log10Floor (n ^ 2000 / e ^ 2000) + 1) / 2

/-! Q is computed in fixed point, in units of 10^-50. -/

def fixOne : Nat := 10 ^ 50

/-- ln 10 and 1 / sqrt (2 pi). -/
def ln10Fix : Nat := 230258509299404568401799145468436420760110148862877
def gaussFix : Nat := 39894228040143267793994605993438186847585863116493

/-- e^a: `n` more terms of the series, of which `t` is the `k`-th. -/
def expFix (a : Int) : Nat → Nat → Int → Int
  | 0, _, _ => 0
  | n + 1, k, t => t + expFix a n (k + 1) (t * a / ((fixOne * (k + 1) : Nat) : Int))

/-- The integral of e^(-x^2 / 2) from 0 to x: `n` more terms of the series, from the `k`-th, with `p` the power term. -/
def gaussFixSum (x2 : Int) : Nat → Nat → Int → Int
  | 0, _, _ => 0
  | n + 1, k, p => p / ((2 * k + 1 : Nat) : Int) + gaussFixSum x2 n (k + 1) (-(p * x2 / ((2 * fixOne * (k + 1) : Nat) : Int)))

/-- The BER that a Q of `h` half-hundredths of a dB stands for: half of erfc (x / sqrt 2) for x = 10^(h / 4000) (R174). -/
def berOfQ (h : Int) : Int :=
  let x := expFix (h * (ln10Fix : Int) / 4000) 250 0 fixOne
  let sum := gaussFixSum (x * x / (fixOne : Int)) 250 0 x
  (fixOne : Int) / 2 - (gaussFix : Int) * sum / (fixOne : Int)

/-- The greatest h from `lo` on, within the next 2^n, whose BER is at least e / bits. -/
def searchQ (e bits : Nat) : Nat → Int → Int
  | 0, lo => lo
  | n + 1, lo =>
    let mid := lo + (2 ^ n : Nat)
    searchQ e bits n (if (e : Int) * (fixOne : Int) ≤ berOfQ mid * (bits : Int) then mid else lo)

/-- Q = 20 log10 (sqrt 2 erfcinv (2 BER)) in 0.01 dB, to the nearest (R174; notes/assumptions/54.md). -/
def qOfBer (e bits : Nat) : Int :=
  if e = 0 ∨ bits ≤ 2 * e then Config.unstatedQ e bits else (searchQ e bits 17 (-120000) + 1) / 2

/-- PREFEC_BER_WINDOW: the estimate of the last 100 ms. With no codeword in the window its mean is a free value. -/
def berWindow (sc : Nat) (s : State) : State :=
  let f := fecSc s sc
  let n := 21540 * f.wGood
  let s1 := onlyIf (decide (f.wAll = 0)) useFree (onFecSc sc (fun f => { f with
    ber := if f.wErr = 0 then 0xFFFF else min 0xFFFE (milliLog n f.wErr)
    qv := qOfBer f.wErr n
    lower := decide (f.wGood ≠ f.wAll), none := decide (f.wGood = 0)
    mean := if f.wAll = 0 then freeNat s else (200 * f.wIter + f.wAll) / (2 * f.wAll)
    wErr := 0, wGood := 0, wAll := 0, wIter := 0 }) s)
  onlyIf (decide (0 < f.wGood))
    (fun s => noteGauge sc 1 (fecSc s1 sc).qv (noteGauge sc 0 (fecSc s1 sc).ber s)) s1

def execPrefecBerWindow (sc : Nat) (s : State) : Res := need "subcarrier" (okSc sc) (berWindow sc s)

/-! Commands. -/

/-- port.fecconfig (0x020F): R169, R171. -/
def portFecconfig : Req → State → Reply := onPort fun p r s =>
  let n := r.u 1 1
  let c := r.u 2 1
  if n < 4 ∨ 16 < n ∨ c < n ∨ min 16 (2 * n) < c then refuse .range s
  else
    let s1 := onFecPort p (fun f => clampDebts { f with n := n, c := c }) s
    okay (onlyIf (decide (capLimit (fecPort s1 p) < (fecPort s1 p).k)) (setCap p (capLimit (fecPort s1 p))) s1)

def execPortFecconfig (mb : Nat) (s : State) : Res := mailbox ⟨0x020F, some 4, [(3, 1)]⟩ portFecconfig mb s

/-- port.fecstatus (0x0210). -/
def portFecstatus : Req → State → Reply := onPort fun p _ s =>
  let f := fecPort s p
  okWith ([byteOf f.n, byteOf f.c, byteOf f.k, byteOf (nEff f), byteOf (cEff f), byteOf f.engines.length
      , byteOf (spareEngines f).length, 0]
    ++ intBE 2 (marginField ((margin s (6 * p + 2)).getD (Config.noMargin (6 * p + 2)))) ++ natBE 2 (f.debt.foldl (fun a e => max a e.2) 0)
    ++ natBE 4 (listMask f.engines) ++ natBE 8 f.late ++ natBE 8 f.trunc ++ natBE 4 f.reductions
    ++ natBE 4 f.engFaults ++ natBE 4 f.encFaults ++ zeros 4) s

def execPortFecstatus (mb : Nat) (s : State) : Res := mailbox (objShape 0x0210) portFecstatus mb s

/-- sc.fecstats (0x0285). -/
def scFecstats : Req → State → Reply := onSc fun sc _ s =>
  let f := fecSc s sc
  okWith (natBE 8 f.decoded ++ natBE 8 f.ldpc ++ natBE 8 f.bch ++ natBE 8 f.rescued ++ natBE 8 f.unc
    ++ natBE 8 f.late ++ natBE 8 f.short ++ natBE 8 f.trunc
    ++ (List.range 16).flatMap (fun k => natBE 4 (tabGet 0 f.hist (k + 1)))
    ++ natBE 2 f.ber ++ intBE 2 f.qv ++ [byteOf (b2n f.lower + 2 * b2n (f.none || !rxLit s sc)), 0, 0, 0]
    ++ natBE 4 f.mean ++ zeros 4) s

def execScFecstats (mb : Nat) (s : State) : Res := mailbox (objShape 0x0285) scFecstats mb s

end Sys2Proof.Machine
end

