-- ==== Sys2Proof/Machine/Decoder.lean ====
section
/-! DEFINITION. Decoding: what the decoders find in the log-likelihood ratios (LLRs) of a codeword, the decoder pool, and the hand-over
to the deframer (05_fec_engine.md R155, R160 to R167, R172, R173, R175). -/

namespace Sys2Proof.Machine

/-! The layered normalized min-sum decoder (R160). -/

/-- What the LDPC decoder holds: the soft value of each position, and the last message of each check to a position. -/
structure MinSum where
  soft : Nat → Int
  msg : Nat → Nat → Int

/-- The positions of check `x` of row block `r` (R158). -/
def checkPositions (r x : Nat) : List Nat :=
  (List.range 323).flatMap (fun b => ((circulants b).filter (fun c => c.1 == r)).map (fun c => 60 * b + (x + c.2) % 60))
    ++ [60 * (323 + r) + x] ++ (if r = 0 then [] else [60 * (322 + r) + x])

/-- The sign and the least magnitude of some soft values. -/
def negative (qs : List Int) : Bool := qs.foldl (fun a q => a != decide (q < 0)) false
def leastMagnitude : List Int → Nat
  | [] => 0
  | [q] => q.natAbs
  | q :: qs => min q.natAbs (leastMagnitude qs)

/-- A magnitude scaled by 0.75; a quotient that is not whole goes down or up, which the spec leaves open (notes/assumptions/54.md). -/
def scaledMagnitude (m : Nat) : Nat := 3 * m / 4 + (if 3 * m % 4 = 0 then 0 else b2n (Config.scaleRoundsUp m))

/-- A value as an 8-bit message holds it; the spec does not say what becomes of one that does not fit. -/
def heldMessage (v : Int) : Int := if -128 ≤ v ∧ v ≤ 127 then v else clampInt (-128) 127 (Config.overflowMessage v)

/-- The message of a check from the soft values `qs` of its other positions: their least magnitude, scaled by 0.75, under
the product of their signs. -/
def checkMessage (qs : List Int) : Int :=
  let m := (scaledMagnitude (leastMagnitude qs) : Int)
  if negative qs then -m else m

/-- One check: each of its positions takes a new message in place of the old one. -/
def checkPass (r x : Nat) (m : MinSum) : MinSum :=
  let ps := checkPositions r x
  let q (n : Nat) := heldMessage (m.soft n - m.msg (60 * r + x) n)
  let fresh (n : Nat) := checkMessage ((ps.erase n).map q)
  { soft := fun n => if ps.contains n then heldMessage (q n + fresh n) else m.soft n
    msg := fun k n => if k = 60 * r + x ∧ ps.contains n then fresh n else m.msg k n }

/-- One iteration: one pass over the 36 row blocks, in ascending order. The 60 checks of a row block share no position. -/
def iteration (m : MinSum) : MinSum :=
  (List.range 36).foldl (fun a r => (List.range 60).foldl (fun a x => checkPass r x a) a) m

/-- The decoder as the LLRs of a codeword leave it: no message has passed. -/
def loaded (llrs : List Int) : MinSum := { soft := fun n => llrs.getD n 0, msg := fun _ _ => 0 }

/-- The hard decisions: a positive value is a 0, a negative one a 1. -/
def hardBit (v : Int) : Bool := if v = 0 then Config.undecidedBit else decide (v < 0)
def hardDecisions (m : MinSum) : List Bool := (List.range 21540).map (fun n => hardBit (m.soft n))

/-- The first of the iterations from `k` on that leaves a zero syndrome, within the next `left`; 0 where none does. -/
def firstZero : Nat → Nat → MinSum → Nat
  | 0, _, _ => 0
  | left + 1, k, m =>
    let m1 := iteration m
    if syndromeZero (hardDecisions m1) then k else firstZero left (k + 1) m1

/-! The BCH decoders (R156, R161). Elements of GF(2^10) are numbers whose bit i is the coefficient of x^i. -/

/-- Multiplication by alpha in GF(2^10), with x^10 = x^3 + 1. -/
def codeTimesAlpha (a : Nat) : Nat := if 512 ≤ a then (2 * a) ^^^ 0x409 else 2 * a

/-- The product in GF(2^10). -/
def codeMul (a b : Nat) : Nat :=
  (List.range 10).foldl (fun r i => let r2 := codeTimesAlpha r; if bitOf b (9 - i) then r2 ^^^ a else r2) 0

def codePow (a : Nat) : Nat → Nat
  | 0 => 1
  | n + 1 => codeMul a (codePow a n)

/-- The inverse of a nonzero element: a^(2^10 - 2), by squaring. -/
def codeInv (a : Nat) : Nat := (List.range 9).foldl (fun r _ => codeMul a (codeMul r r)) 1 |> fun b => codeMul b b

/-- The value at `x` of a polynomial, constant coefficient first. -/
def codeEval (poly : List Nat) (x : Nat) : Nat := poly.foldr (fun c r => codeMul r x ^^^ c) 0

/-- Syndrome S_i of a codeword in position order: its value at alpha^i. Position k is the coefficient of x^(1019 - k). -/
def bchSyndrome (cw : List Bool) (i : Nat) : Nat := codeEval (cw.reverse.map b2n) (codePow 2 i)

/-- The sum of two polynomials, the second one scaled and moved up. -/
def polyAdd (a b : List Nat) (scale up : Nat) : List Nat :=
  let w := List.replicate up 0 ++ b.map (codeMul scale)
  (List.range (max a.length w.length)).map (fun i => a.getD i 0 ^^^ w.getD i 0)

/-- Berlekamp-Massey over the syndromes S_1 on: the present locator `c`, the one before its last change of length `b` with its
discrepancy `d0` and age `m`, and the length `len`. -/
def berlekampMassey (ss : List Nat) : Nat → Nat → List Nat → List Nat → Nat → Nat → Nat → List Nat
  | 0, _, c, _, _, _, _ => c
  | left + 1, n, c, b, len, m, d0 =>
    let d := (List.range (len + 1)).foldl (fun a i => a ^^^ codeMul (c.getD i 0) (if i ≤ n then ss.getD (n - i) 0 else 0)) 0
    if d = 0 then berlekampMassey ss left (n + 1) c b len (m + 1) d0
    else
      let c1 := polyAdd c b (codeMul d (codeInv d0)) m
      if 2 * len ≤ n then berlekampMassey ss left (n + 1) c1 c (n + 1 - len) 1 d
      else berlekampMassey ss left (n + 1) c1 b len (m + 1) d0

/-- The error locator of a codeword, from its six syndromes: t = 3. -/
def errorLocator (cw : List Bool) : List Nat :=
  berlekampMassey ((List.range 6).map (fun i => bchSyndrome cw (i + 1))) 6 0 [1] [1] 0 1 1

def polyDegree (poly : List Nat) : Nat := (poly.reverse.dropWhile (· == 0)).length - 1

/-- The exponents of x at which a Chien search finds a root of the locator: an error at exponent e is the root alpha^(-e). -/
def chienExponents (loc : List Nat) : List Nat := (List.range 1023).filter (fun e => codeEval loc (codePow 2 (1023 - e)) == 0)

/-- The positions in error, or none where the codeword is uncorrectable: the roots at positions 0 to 1,019 are not as many as
the locator's degree, or a root lies in the three shortened positions (R161). -/
def bchErrors (cw : List Bool) : Option (List Nat) :=
  let loc := errorLocator cw
  let es := chienExponents loc
  let here := es.filter (· < 1020)
  if here.length = polyDegree loc ∧ polyDegree loc ≤ 3 ∧ here = es then some (here.map (1019 - ·)) else none

/-- The corrections of one BCH codeword as an observation gives them: 4 stands for an uncorrectable one. -/
def bchCount (found : Option (List Nat)) : Nat :=
  match found with
  | some ps => ps.length
  | none => 4

/-- BCH codeword `j` of the hard decisions (R157). -/
def bchWord (hard : List Bool) (j : Nat) : List Bool := (hard.drop (1020 * j)).take 1020

/-- The codeword after its corrections. -/
def bchCorrected (found : Option (List Nat)) (cw : List Bool) : List Bool :=
  (found.getD []).foldl (fun a k => a.set k (!a.getD k false)) cw

/-! The result of one codeword. -/

/-- The outcome of a codeword (R161). -/
inductive Verdict where
  | good | rescued | uncorrectable
  deriving DecidableEq, Repr

/-- What decoding a codeword gives: iterations used, whether its syndrome ended at zero, the corrected bits of LDPC decoding, the
corrections of each BCH codeword (4: uncorrectable), and the information bits. -/
structure Decoded where
  used : Nat
  zero : Bool
  flips : Nat
  bch : List Nat
  info : List Bool
  deriving DecidableEq, Repr

/-- The iterations a codeword runs: until zero syndrome, its limit, or its read point; and whether its syndrome is then
zero. `need` is the iteration that leaves a zero syndrome, 0 where none does. -/
def iterations (need limit : Nat) (cut : Option Nat) : Nat × Bool :=
  let bound := match cut with
    | some c => min limit c
    | none => limit
  if 0 < need ∧ need ≤ bound then (need, true) else (bound, false)

/-- The outcome (R161). `used` is zero for a skipped codeword, whose outcome the BCH result gives. -/
def verdict (used : Nat) (zero : Bool) (bch : List Nat) : Verdict :=
  if bch.any (fun n => decide (3 < n)) then .uncorrectable
  else if zero then .good
  else if used = 0 && bch.all (· == 0) then .good
  else .rescued

/-- Bits the BCH decoders correct. -/
def bchBits (bch : List Nat) : Nat := (bch.map (fun n => if n ≤ 3 then n else 0)).sum

/-- The injected effects of R175 on one decode: inverted LLR signs, a syndrome reported nonzero until the limit, four bits of BCH
codeword 0 inverted after LDPC decoding. -/
structure Injected where
  signs : Bool := false
  syndrome : Bool := false
  errors : Bool := false
  deriving DecidableEq, Repr

/-- The LLR of position `n`, a 6-bit two's-complement number. -/
def llrAt (llrs : List Int) (n : Nat) : Int := Int.bmod (llrs.getD n 0) 64

/-- The LLRs as the LDPC decoder takes them; point 0x060 + p inverts the signs at positions 0, 21, 42 and onward. -/
def llrsIn (j : Injected) (llrs : List Int) : List Int :=
  (List.range 21540).map (fun n => if j.signs && n % 21 == 0 then -llrAt llrs n else llrAt llrs n)

/-- The hard decisions of the LLR signs. -/
def signDecisions (llrs : List Int) : List Bool := (List.range 21540).map (fun n => decide (llrs.getD n 0 < 0))

/-- Positions where the sign of the LLR differs from the hard decision (R173). -/
def signDifferences (llrs : List Int) (hard : List Bool) : Nat :=
  (List.range 21540).countP (fun n => decide (llrs.getD n 0 < 0) != hard.getD n false)

/-- The bits that go to the BCH decoders; point 0x06C + p inverts positions 0, 19, 38 and 57 of BCH codeword 0. -/
def toBch (j : Injected) (hard : List Bool) : List Bool :=
  if j.errors then [0, 19, 38, 57].foldl (fun h k => h.set k (!h.getD k false)) hard else hard

/-- What BCH decoder `i` finds. The detector that R175 names for point 0x06C + p is an uncorrectable BCH codeword 0, which the arithmetic
of R156 alone would not give (notes/assumptions/27.md). -/
def bchFound (j : Injected) (hard : List Bool) (i : Nat) : Option (List Nat) :=
  if j.errors && i == 0 then none else bchErrors (bchWord hard i)

/-- The information bits that a codeword hands to the deframer: 990 of each corrected BCH codeword, taken back in the order of the
interleave (R154). -/
def decodedInfo (j : Injected) (hard : List Bool) : List Bool :=
  let ws := (List.range 19).map (fun i => bchCorrected (bchFound j hard i) (bchWord hard i))
  (List.range 18810).map (fun r => (ws.getD (r % 19) []).getD (r / 19) false)

/-- What the decoders find in the LLRs of a codeword, with iteration limit `limit` and, where the read point stops it, the
iterations completed by then. With none run, BCH is applied to the LLR signs (R160, R161, R166). -/
def decodeView (j : Injected) (llrs0 : List Int) (limit : Nat) (cut : Option Nat) : Decoded :=
  let llrs := llrsIn j llrs0
  let need := firstZero limit 1 (loaded llrs)
  let it := iterations (if j.syndrome then 0 else need) limit cut
  let runs := if j.syndrome && decide (0 < need) then min need it.1 else it.1
  let hard := if it.1 = 0 then signDecisions llrs else hardDecisions (iterate iteration runs (loaded llrs))
  { used := it.1, zero := it.2 && decide (0 < it.1), flips := if it.1 = 0 then 0 else signDifferences llrs hard
    bch := (List.range 19).map (fun i => bchCount (bchFound j (toBch j hard) i)), info := decodedInfo j (toBch j hard) }

/-! The decoder pool (R163 to R167). -/

/-- Ticks of a quarter of a frame of a subcarrier's class. -/
def quarterTicks (s : State) (sc : Nat) : Nat := max 1 (frameTicks (rxClass s sc) / 4)

/-- The nominal end time of codeword `c` of a frame that starts at `start` in the far end's timecode (R164). -/
def nominalEnd (s : State) (sc c start : Nat) : Nat := start + (c + 1) * quarterTicks s sc

/-- The subcarriers of a port that give the pool codewords: lit, and with a frame position. -/
def codedScs (s : State) (p : Nat) : List Nat := (portScs p).filter (fun sc => rxLit s sc && (rxFramer s sc).st != .hunt)

/-- Codewords of a port whose nominal end time and subcarrier come no later than `t` and `sc`: the far end's frames lie on the grid
of R96, so each subcarrier ends a codeword at every multiple of a quarter frame. -/
def codewordsTo (s : State) (p t sc : Nat) : Nat :=
  ((codedScs s p).map (fun x =>
    t / quarterTicks s x - (if sc < x ∧ t % quarterTicks s x = 0 then 1 else 0))).sum

/-- The number of a codeword in the order of nominal end times, counted on from the latest one (R164; notes/assumptions/54.md). -/
def codewordNumber (s : State) (p t sc : Nat) : Nat :=
  let f := fecPort s p
  ((f.q : Int) + (codewordsTo s p t sc : Int) - (codewordsTo s p f.lastEnd f.lastSc : Int)).toNat

/-- The codeword is the latest one so far. -/
def noteLatest (t sc q : Nat) (f : FecPort) : FecPort :=
  if f.lastEnd < t ∨ (f.lastEnd = t ∧ f.lastSc < sc) then { f with q := q, lastEnd := t, lastSc := sc } else f

/-- The points of R175 that act on the next decoded codeword of a port. -/
def injectedNow (s : State) (p : Nat) : Injected :=
  { signs := injArmed s (0x060 + p), syndrome := injArmed s (0x066 + p), errors := injArmed s (0x06C + p) }

/-- They have acted. -/
def actDecode (p : Nat) (s : State) : State :=
  onlyIf (injArmed s (0x060 + p)) (injAct (0x060 + p)) s
    |> onlyIf (injArmed s (0x066 + p)) (injAct (0x066 + p))
    |> onlyIf (injArmed s (0x06C + p)) (injAct (0x06C + p))

/-- Counts of a subcarrier (R173, R174). -/
def countCodeword (d : Decoded) (late short trunc : Bool) (v : Verdict) (f : FecSc) : FecSc :=
  let counted := d.zero && v == .good
  { f with
    decoded := satAdd max64 f.decoded 1
    ldpc := satAdd max64 f.ldpc d.flips
    bch := satAdd max64 f.bch (bchBits d.bch)
    rescued := satAdd max64 f.rescued (b2n (v == .rescued))
    unc := satAdd max64 f.unc (b2n (v == .uncorrectable))
    late := satAdd max64 f.late (b2n late)
    short := satAdd max64 f.short (b2n short)
    trunc := satAdd max64 f.trunc (b2n trunc)
    hist := if d.used = 0 then f.hist else tabMod 0 f.hist d.used (satAdd max32 · 1)
    wErr := f.wErr + (if counted then d.flips else 0), wGood := f.wGood + b2n counted, wAll := f.wAll + 1
    wIter := f.wIter + d.used
    all10 := f.all10 + 1, unc10 := f.unc10 + b2n (v == .uncorrectable) }

/-- An engine fault (R172): counted for the port and the engine. -/
def engineFault (p e : Nat) (s : State) : State :=
  unitFault 2 (18 * p + e) (onFecPort p (fun f => { f with engFaults := satAdd max32 f.engFaults 1 }) s)

/-- A truncation: FEC_TRUNCATING at a port's first one while armed (R166, R176). -/
def truncation (p : Nat) (s : State) : State :=
  let f := fecPort s p
  onFecPort p (fun f => { f with
      trunc := satAdd max64 f.trunc 1, truncArmed := false, truncSince := satAdd max32 f.truncSince 1 }) s
    |> onlyIf f.truncArmed (raisePort 0x0211 p ([byteOf p, 0, 0, 0] ++ natBE 4 (satAdd max32 f.truncSince 1)))

/-- The decoder unit passes a codeword: its token, iterations, late and truncated codewords (R452, R455/17). -/
def countTokens (p used : Nat) (late trunc : Bool) (s : State) : State :=
  paceToken (6 * p + 2) s |> paceEvent (6 * p + 2) 0x10 used
    |> onlyIf late (paceEvent (6 * p + 2) 0x11 1) |> onlyIf trunc (paceEvent (6 * p + 2) 0x12 1)

/-- The logical slot of a codeword: its number modulo the active engines (R164). -/
def engineSlot (s : State) (sc c start : Nat) : Nat :=
  codewordNumber s (scPort sc) (nominalEnd s sc c start) sc % max 1 (fecPort s (scPort sc)).engines.length

/-- The iteration limit of the next codeword of a slot; none are run without engines (R167). -/
def slotLimit (f : FecPort) (slot : Nat) : Nat := if f.engines.isEmpty then 0 else limitOf f (tabGet 0 f.debt slot)

/-- A codeword decoded in a logical slot with the result `d` takes its effect: debt, counts, faults, tokens (R167, R172, R173). A
checker mismatch of point 0x072 + p acts on a codeword of slot 0. Answers the state and whether the codeword is errored. -/
def settleDecode (sc slot : Nat) (d : Decoded) (checker memUe trunc : Bool) (s : State) : State × Bool :=
  let p := scPort sc
  let f := fecPort s p
  let eng := f.engines.getD slot 18
  let forced := decide (slot = 0) && decide (0 < d.used) && injArmed s (0x072 + p)
  let fault := decide (0 < d.used) && ((checker && d.zero) || memUe || forced)
  let v := if fault then .uncorrectable else verdict d.used d.zero d.bch
  let late := decide (nEff f < d.used)
  let short := decide (d.used = slotLimit f slot) && decide (slotLimit f slot < nEff f) && !d.zero && decide (0 < d.used)
  let s1 := onlyIf forced (injAct (0x072 + p)) s
    |> onlyIf (!f.engines.isEmpty) (retryDone 2 (18 * p + eng))
    |> onFecPort p (fun f => { f with
        debt := tabSet 0 f.debt slot (tabGet 0 f.debt slot + d.used - nEff f)
        late := satAdd max64 f.late (b2n late) })
    |> onFecSc sc (countCodeword d late short trunc v)
    |> onlyIf fault (engineFault p eng)
    |> onlyIf trunc (truncation p)
    |> countTokens p d.used late trunc
  (s1, v == .uncorrectable)

/-- A slot leaves with the frame boundary that the codeword begins (R172). -/
def slotsLeave (sc c : Nat) (s : State) : State :=
  onlyIf (decide (c = 0) && lowestLit s (scPort sc) == some sc) (leaveSlots (scPort sc)) s

/-- A codeword is decoded in its logical slot. `trunc` tells that its read point has come, with the iterations completed in `r.cut`:
none of them where it had not left the input store. Answers the state and the codeword as the deframer takes it. -/
def decodeNext (sc c : Nat) (r : DecodeObs) (trunc : Bool) (s0 : State) : State × CwOut :=
  let p := scPort sc
  let s := slotsLeave sc c s0
  let t := nominalEnd s sc c r.start
  let slot := engineSlot s sc c r.start
  let cut := if trunc then some (r.cut.getD 0) else none
  let runs := cut != some 0 && !(fecPort s p).engines.isEmpty
  let d := decodeView (if runs then injectedNow s p else {}) r.llrs (slotLimit (fecPort s p) slot) cut
  let a := settleDecode sc slot d r.checker r.memUe trunc s
  (onFecPort p (noteLatest t sc (codewordNumber s p t sc)) (onlyIf runs (actDecode p) a.1), ⟨sc, c, a.2, d.info⟩)

/-- Places of the output store, and those of the input store: two for each logical slot (R165). -/
def outputPlaces : Nat := 192
def inputPlaces (f : FecPort) : Nat := 2 * f.engines.length

/-- CODEWORD_DECODE: a codeword decoded before its read point waits in the output store, whose 192 places the read points keep free
(R165). -/
def codewordDecode (sc c : Nat) (r : DecodeObs) (s : State) : State :=
  if rxLit s sc && decide ((fecPort s (scPort sc)).out.length < outputPlaces) then
    let a := decodeNext sc c r false s
    onFecPort (scPort sc) (fun f => { f with out := f.out ++ [a.2] }) a.1
  else s

def execCodewordDecode (sc c : Nat) (r : DecodeObs) (s : State) : Res :=
  need "codeword" (okSc sc && okCw c) (codewordDecode sc c r s)

/-- A codeword's information bits and errored flag go to the deframer, which takes the four codewords of a frame in order (R155,
R165). -/
def handOver (w : CwOut) (s : State) : State :=
  onRxFramer w.sc (fun f => { f with cws := if w.c = 0 then [w] else if f.cws.length = w.c then f.cws ++ [w] else [] }) s

/-- CODEWORD_READ_POINT: a finished codeword leaves the output store; an unfinished one is cut short or skipped, and
counted as truncated (R165, R166). -/
def readPoint (sc c : Nat) (r : DecodeObs) (s : State) : State :=
  match (fecPort s (scPort sc)).out.find? (fun o => o.sc == sc && o.c == c) with
  | some o => handOver o (onFecPort (scPort sc) (fun f => { f with out := f.out.erase o }) s)
  | none =>
    if rxLit s sc then
      let a := decodeNext sc c r true s
      handOver a.2 a.1
    else s

def execCodewordReadPoint (sc c : Nat) (r : DecodeObs) (s : State) : Res :=
  need "codeword" (okSc sc && okCw c) (readPoint sc c r s)

end Sys2Proof.Machine
end

