-- ==== Sys2Proof/Machine/Tpe.lean ====
section
/-! DEFINITION. The tributary packet encapsulation, slot descriptors, the egress queue of a host port, and what a pair
member does with PM events and divergences (09_service_path.md, 06_line_frame.md, 13_pair_redundancy.md). -/

namespace Sys2Proof.Machine

/-! TPE headers (R277 to R279/09). -/

/-- CHECK: CRC-8 of bits [47:8], polynomial x^8 + x^2 + x + 1, result XOR 0x55. -/
def tpeCheck (upper : Nat) : Nat := crcMsb 8 0x07 0 (natBE 5 upper) ^^^ 0x55

def tpeHeader (label cls : Nat) (enc : Bool) (len : Nat) : Nat :=
  let upper := label * 2 ^ 17 + cls * 2 ^ 15 + b2n enc * 2 ^ 14 + len
  upper * 256 + tpeCheck upper

def tpeLabel (h : Nat) : Nat := h / 2 ^ 25 % 2 ^ 23
def tpeClass (h : Nat) : Nat := h / 2 ^ 23 % 4
def tpeEnc (h : Nat) : Bool := bitOf h 22
def tpeLength (h : Nat) : Nat := h / 256 % 2 ^ 14

/-- A valid header: CHECK correct, LENGTH 0 or within the range of its ENC value. -/
def tpeValid (h : Nat) : Bool :=
  h % 256 == tpeCheck (h / 256)
    && (tpeLength h == 0
      || (if tpeEnc h then decide (84 ≤ tpeLength h) && decide (tpeLength h ≤ 9236)
          else decide (64 ≤ tpeLength h) && decide (tpeLength h ≤ 9216)))

/-- Idle filler: the header of length 0 (R278/09). -/
def idleFiller : List Byte := [0, 0, 0, 0, 0, 0x55]

/-- `n` bytes of idle filler from phase `ph` of its header. -/
def fillerFrom (ph n : Nat) : List Byte := (List.range n).map (fun k => idleFiller.getD ((ph + k) % 6) 0)

/-- A TPE packet as bytes. -/
def tpePacket (label cls : Nat) (enc : Bool) (body : List Byte) : List Byte :=
  natBE 6 (tpeHeader label cls enc body.length) ++ body

/-! Slot descriptors (R190, R191/06, R284/09, R444/16). -/

/-- The transmit descriptor of slot 40 x SC + k: 0xFFF0 unassigned; label 0xF locked, 0x0 where the tributary is not enabled
for transmit, 0x2 in test, 0x1 in use. -/
def txDescriptor (s : State) (k : Nat) : Nat :=
  let o := (slotOwner s k).tx
  if o = 0xFFF then 0xFFF0
  else
    let t := tribOf s o
    16 * o + (if t.locked then 0xF else if !t.txEn then 0x0 else if t.testSend then 0x2 else 0x1)

/-- The payload signal label expected of a tributary's receive slots. -/
def expectedLabel (t : Trib) : Nat := if t.testCheck then 0x2 else 0x1

/-- The expected receive descriptor of a slot. -/
def rxDescriptor (s : State) (k : Nat) : Nat :=
  let o := (slotOwner s k).rx
  if o = 0xFFF then 0xFFF0 else 16 * o + expectedLabel (tribOf s o)

/-- The descriptor a slot sends: a dark subcarrier contributes 0xFFF0. -/
def sentDescriptor (s : State) (sc k : Nat) : Nat :=
  if txClass s sc = 0 then 0xFFF0
  else if k = 0 && 0 < (txFrame s sc).descFlip then 0xFFF0
  else txDescriptor s (40 * sc + k)

/-- The digest of 640 descriptors and the version (R191/06). -/
def descriptorDigest (ds : List Nat) (version : Nat) : Nat := crc32 (ds.flatMap (natBE 2) ++ natBE 4 version)

def sentDigest (s : State) (p : Nat) : Nat :=
  descriptorDigest ((portScs p).flatMap (fun sc => (List.range 40).map (sentDescriptor s sc))) (tabGet 0 s.svc.mapVer p)

/-- The transmit slots of a tributary, as 40 x SC + slot (R280/09). -/
def txSlots (s : State) (t : Nat) : List Nat := (s.svc.slot.filter (fun e => e.2.tx == t)).map (·.1)

def rxSlots (s : State) (t : Nat) : List Nat := (s.svc.slot.filter (fun e => e.2.rx == t)).map (·.1)

/-! Commit windows (R387 to R390/13). -/

/-- The port block index of the block that is number `b` of logical lane `i`, on a port of `w` lanes (R388). -/
def portBlock (w i b : Nat) : Nat := w * (b - b / 81920 - 1) + i

/-- The commit time of window `k`: 64 k ns + D (R387). -/
def commitTime (s : State) (k : Nat) : Nat := ticksNs (64 * k + 100 * s.pair.d)

/-- The first window whose record covers a block of host port `nn` (R387). -/
def windowOf (s : State) (nn blk : Nat) : Option Nat :=
  (s.pair.windows.reverse.find? (fun r => r.2.any (fun e => e.1 == nn && decide (blk ≤ e.2)))).map (·.1)

/-- A module of no pair commits a packet as it passes; a pair member once its window's commit time has come (R271/09, R387). -/
def committed (s : State) (p : InPacket) : Bool :=
  isSingle s || (match p.win with | none => false | some k => decide (commitTime s k ≤ now s))

/-- In a pair, packets commit by window, then ascending host port: no other port's head comes before (R387). -/
def firstToCommit (s : State) (nn : Nat) (p : InPacket) : Bool :=
  isSingle s || s.svc.ingress.all (fun e =>
    match e.2.head?.bind (·.win), p.win with
    | some k, some w => decide (w < k ∨ (w = k ∧ nn ≤ e.1))
    | _, _ => true)

/-- Cells of a tributary whose credit a pair member has back at the commits of window `k`: those whose slot-frame departs no
later than 1.0 us after the commit time (R389). -/
def creditBy (s : State) (k : Nat) (t : Trib) : Nat :=
  ((t.freedAt.filter (fun e => decide (e.1 ≤ commitTime s k + ticksUs 1))).map (·.2)).sum

/-- The occupancy against which window `k` is judged. -/
def occAt (s : State) (k : Nat) (t : Trib) : Nat := t.occ - creditBy s k t

/-- The returns due by window `k` are applied. -/
def takeCredit (k t : Nat) (s : State) : State :=
  onTribOf t (fun x => { x with
    occ := occAt s k x, freedAt := x.freedAt.filter (fun e => decide (commitTime s k + ticksUs 1 < e.1)) }) s

/-- A pair member may map a packet into the slot-frame that departs at `dep`, which is read 1.6 us before: at least 1.5 us after
the packet's commit time (R390). -/
def mappable (s : State) (dep : Nat) (q : QPacket) : Bool :=
  isSingle s || decide (commitTime s q.win + ticksNs 3100 ≤ dep)

/-! Egress queues (R288, R294/09). -/

/-- Cells of 256 bytes that a body takes. -/
def cellsOf (n : Nat) : Nat := ceilDiv n 256

/-- The host port nn is defined (R255/08). -/
def portDefined (s : State) (nn : Nat) : Bool := decide (nn < 96) && (hostPort s nn).defined

/-- Cells free in the egress queue of host port nn: 1,024 for each of its lanes, less those queued. -/
def egressRoom (s : State) (nn : Nat) : Nat :=
  1024 * (hostPort s nn).width - ((tabGet [] s.svc.egress nn).map (fun p => cellsOf p.body.length)).sum

def egressFits (s : State) (nn : Nat) (p : RxPacket) : Bool :=
  portDefined s nn && decide (cellsOf p.body.length ≤ egressRoom s nn)

def egressPut (nn : Nat) (p : RxPacket) (s : State) : State :=
  onSvc (fun v => { v with egress := tabMod [] v.egress nn (· ++ [p]) }) (queueCells (cellsOf p.body.length) s)

/-! Pair roles (R386, R397/13). -/

/-- The module delivers received channel messages toward the host: single, or holding the lease (R386). -/
def delivers (s : State) : Bool := decide (s.pair.role ≤ 1)

/-- A PM event: raised by a single module or the lease holder, which mirrors it; it waits in a lease gap; the stand-in
raises the lead's (R386). -/
def raisePm (code vector src : Nat) (data : List Byte) (s : State) : State :=
  match s.pair.role with
  | 2 => s
  | 3 => onPair (fun p => { p with pmWait := p.pmWait ++ [(code, vector, src, data)] }) s
  | _ => raise code vector src 0 data (mirror (.pmEvent code src data) s)

/-- A divergence: the stand-in counts it, leaves step, raises PAIR_DIVERGED and resynchronizes (R397). -/
def diverge (kind src : Nat) (s : State) : State :=
  if isStandIn s then
    onPair (fun p => { p with
        diverg := satAdd max64 p.diverg 1, inStep := false, matched := 0, mism := true }) s
      |> onlyIf (s.pair.up && s.pair.resync == 0) startResync
      |> onlyIf s.pair.inStep (raise 0x0A03 13 src 0 [byteOf kind])
  else s

/-! Channel streams: GCC and UOC (R203, R204/06). -/

/-- The next `n` bytes of a channel: filler left over, then the queue, then whole filler headers. -/
def channelTake (n : Nat) (idle queue : List Byte) : List Byte × List Byte × List Byte :=
  let a := idle.take n
  let b := queue.take (n - a.length)
  let m := n - a.length - b.length
  let f := fillerFrom 0 (6 * ceilDiv m 6)
  (a ++ b ++ f.take m, idle.drop n ++ f.drop m, queue.drop (n - a.length))

/-- The header at the front of a received stream; none where a byte of it is lost or missing. -/
def headerAt (buf : List (Option Byte)) : Option Nat :=
  let bs := (buf.take 6).filterMap id
  if bs.length = 6 then some (beNat bs) else none

def validAt (buf : List (Option Byte)) : Bool :=
  match headerAt buf with
  | some h => tpeValid h
  | none => false

def lengthAt (buf : List (Option Byte)) : Nat :=
  match headerAt buf with
  | some h => tpeLength h
  | none => 0

/-- What delineating a channel's stream leaves: delineated or not, the bytes not yet consumed, whole packets, and packets
dropped because a byte of them was lost. -/
structure Delineated where
  sync : Bool
  rest : List (Option Byte)
  packets : List (List Byte)
  drops : Nat
  deriving DecidableEq, Repr

/-- Delineate as R279 gives, until the stream holds too few bytes to go on; a header or a byte at most is consumed per
unit of the first argument. A delineated stream whose next header lost a byte has lost a packet (R204/06). -/
def delineate : Nat → Delineated → Delineated
  | 0, d => d
  | n + 1, d =>
    if d.rest.length < 6 then d
    else if d.sync then
      if validAt d.rest then
        let len := lengthAt d.rest
        if d.rest.length < 6 + len then d
        else
          let body := (d.rest.drop 6).take len
          let whole := body.filterMap id
          delineate n { d with
            rest := d.rest.drop (6 + len)
            packets := if 0 < len && whole.length == len then d.packets ++ [whole] else d.packets
            drops := if whole.length == len then d.drops else d.drops + 1 }
      else delineate n { d with sync := false, rest := d.rest.drop 1, drops := d.drops + b2n ((d.rest.take 6).any (·.isNone)) }
    else if validAt d.rest then
      let skip := 6 + lengthAt d.rest
      if d.rest.length < skip + 6 then d
      else if validAt (d.rest.drop skip) then delineate n { d with sync := true, rest := d.rest.drop skip }
      else delineate n { d with rest := d.rest.drop 1 }
    else delineate n { d with rest := d.rest.drop 1 }

/-- A stream is delineated as far as it goes. -/
def delineateAll (sync : Bool) (buf : List (Option Byte)) : Delineated :=
  delineate (buf.length + 1) { sync := sync, rest := buf, packets := [], drops := 0 }

end Sys2Proof.Machine
end

