-- ==== Sys2Proof/Machine/Frame.lean ====
section
/-! DEFINITION. The line frame: building frames, alignment, overhead, and the frame commands (06_line_frame.md R177 to
R208; pilots of 03_line_transmit.md R91, R92). -/

namespace Sys2Proof.Machine

/-! Frame layout (R177, R179). -/

def faw : List Byte := natBE 6 0x3DA758C26B19

def slotStart (k : Nat) : Nat := 165 + 231 * k

/-! Scrambling (R183). -/

/-- One output byte of the scrambler from its 31-bit register, whose bit 30 is the oldest bit. -/
def scrambleByte : Nat → Nat → Nat → Nat × Nat
  | 0, r, v => (r, v)
  | n + 1, r, v =>
    let b := b2n (bitOf r 30 != bitOf r 27)
    scrambleByte n ((2 * r + b) % 2 ^ 31) (2 * v + b)

/-- Scramble bytes from a register onward. -/
def scrambleFrom : Nat → List Byte → List Byte
  | _, [] => []
  | r, b :: bs =>
    let x := scrambleByte 8 r 0
    (b ^^^ byteOf x.2) :: scrambleFrom x.1 bs

/-- Bytes 6 to 9,404 scrambled, or descrambled, with the seed of the subcarrier (R183). -/
def scramble (sc : Nat) (frame : List Byte) : List Byte :=
  frame.take 6 ++ scrambleFrom ((0x13570000 + sc) % 2 ^ 31) (frame.drop 6)

/-! Symbol times and pilots (R91, R92/03). -/

/-- Symbol times of a frame of class Fk: 86,160 coded bits over 8 matcher blocks of N points, 34 of 35 times data. -/
def symbolTimes : Nat → Nat
  | 6 => 7700 | 5 => 9240 | 4 => 11550 | 3 => 15400 | 2 => 23100 | _ => 0

def isPilotTime (n : Nat) : Bool := n % 35 == 0

def pilotTimes (k : Nat) : Nat := symbolTimes k / 35

/-- Symbol time of data symbol time `j`. -/
def dataTime (j : Nat) : Nat := j + j / 34 + 1

/-- Points of a matcher block: an eighth of the class's points, two to a data time (R94/03). -/
def pointsPerBlock (k : Nat) : Nat := 34 * pilotTimes k / 4

/-- Symbol time and polarization (`true` for Y) of point `i` of matcher block `b` (R95/03). -/
def pointPlace (k b i : Nat) : Nat × Bool :=
  let n := b * pointsPerBlock k + i
  (dataTime (n / 2), n % 2 == 1)

/-- `n` bits of the PRBS x^15 + x^14 + 1 from a register, first bit most significant. The rule gives the polynomial and the seeds; the
form of the register (bit 14 the oldest, its feedback bit the output) is the model's (notes/assumptions/53.md). -/
def prbs15 : Nat → Nat → Nat → Nat
  | 0, _, v => v
  | n + 1, r, v =>
    let b := b2n (bitOf r 14 != bitOf r 13)
    prbs15 n ((2 * r + b) % 2 ^ 15) (2 * v + b)

/-- The pilot bits of a frame on both polarizations, two for each pilot. -/
def pilotBits (sc k : Nat) : Nat × Nat :=
  (prbs15 (2 * pilotTimes k) (0x2A00 + sc) 0, prbs15 (2 * pilotTimes k) (0x5500 + sc) 0)

/-- Levels of pilot `i` of a polarization's `2n` pilot bits, in-phase and quadrature, before the scaling to the class's mean
power (R92/03). -/
def pilotLevels (bits n i : Nat) : Int × Int :=
  (1 - 2 * b2n (bitOf bits (2 * (n - i) - 1)), 1 - 2 * b2n (bitOf bits (2 * (n - i) - 2)))

/-- Mean point energy of class Fk relative to uniform 64-QAM, in 0.1 dB (R94/03). -/
def meanEnergy : Nat → Int
  | 6 => -11 | 5 => -34 | 4 => -59 | 3 => -86 | 2 => -112 | _ => 0

/-! The distribution matcher (R93, R94/03). -/

/-- The 64 points of the grid. -/
def gridPoints : List (Int × Int) :=
  [-7, -5, -3, -1, 1, 3, 5, 7].flatMap (fun (a : Int) => [-7, -5, -3, -1, 1, 3, 5, 7].map (fun (b : Int) => (a, b)))

/-- Every sequence of `n` points of the grid. -/
def gridSequences : Nat → List (List (Int × Int))
  | 0 => [[]]
  | n + 1 => gridPoints.flatMap (fun p => (gridSequences n).map (p :: ·))

def energyOf (q : List (Int × Int)) : Nat := (q.map (fun p => p.1.natAbs ^ 2 + p.2.natAbs ^ 2)).sum

/-- The admissible sequences of class Fk: whether one is admissible depends on the magnitudes of its levels alone, so the
distribution is symmetric in both quadratures. -/
def admissibleSequences (k : Nat) : List (List (Int × Int)) :=
  (gridSequences (pointsPerBlock k)).filter (fun q => Config.admissible k (q.map (fun p => (p.1.natAbs, p.2.natAbs))))

/-- Sequences in the order of their index: by energy; of one energy, in the implementation's order. -/
def shapedBefore (k : Nat) (a b : List (Int × Int)) : Bool :=
  decide (energyOf a < energyOf b)
    || (energyOf a == energyOf b && decide (Config.tieOrder k a ≤ Config.tieOrder k b))

/-- The sequence of a block of coded bits: the one whose index the block spells, first bit most significant. -/
def shapedSequence (k : Nat) (block : List Bool) : List (Int × Int) :=
  ((admissibleSequences k).mergeSort (shapedBefore k)).getD (bitsNat block) []

/-- What is sent at a symbol time on a polarization: nothing, a pilot of the given signs with the class's mean energy in 0.1 dB
relative to uniform 64-QAM, or a point of the grid. -/
inductive Symbol where
  | dark
  | pilot (levels : Int × Int) (energy : Int)
  | data (point : Int × Int)
  deriving DecidableEq, Repr

/-- What a subcarrier of class Fk sends at symbol time `n` of the frame with codewords `cws`, on Y where `y`: nothing while dark, a
pilot, or the shaped point of that place of the data stream (R90 to R95/03). -/
def symbolSent (sc k : Nat) (cws : List (List Bool)) (n : Nat) (y : Bool) : Symbol :=
  if k < 2 then .dark
  else if isPilotTime n then
    .pilot (pilotLevels (if y then (pilotBits sc k).2 else (pilotBits sc k).1) (pilotTimes k) (n / 35)) (meanEnergy k)
  else
    let q := 2 * (n - n / 35 - 1) + b2n y
    .data ((shapedSequence k (matcherBlock cws (q / pointsPerBlock k))).getD (q % pointsPerBlock k) (0, 0))

/-- The four codewords of the last frame that the encoders were given. -/
def frameCodewords (s : State) (sc : Nat) : List (List Bool) :=
  (List.range 4).map (fun c => bitsMsb 21540 (tabGet 0 (fecSc s sc).sent c))

/-- Symbol time `n` of the last frame encoded. -/
def symbolNow (s : State) (sc n : Nat) (y : Bool) : Symbol :=
  symbolSent sc (if txLit s sc then txClass s sc else 0) (frameCodewords s sc) n y

/-! Parity (R193). -/

/-- BIP-8 of a payload: the XOR of its bytes as sent on the line. -/
def bip8 (payload : List Byte) : Byte := payload.foldl (· ^^^ ·) 0

def payloadOf (line : List Byte) : List Byte := line.drop 165

/-! The status byte (R180, R194, R195). -/

def declared (s : State) (code obj : Nat) : Bool := (defSt s (4096 * code + obj)).declared

/-- LOL, LOPL, LOF or LOM is declared on a subcarrier. -/
def scDefect (s : State) (sc : Nat) : Bool :=
  declared s 0 (scPort sc) || declared s 1 sc || declared s 2 sc || declared s 3 sc

/-- TIM is declared and its action set. -/
def timActs (s : State) (sc : Nat) : Bool := declared s 6 sc && (rxFramer s sc).timAct

/-- Every slot of the subcarrier is delivered as errored (R200). -/
def deliversErrored (s : State) (sc : Nat) : Bool := scDefect s sc || timActs s sc

/-- RDI is sent for 10 ms by point 0x032 (R443/16). -/
def rdiForced (s : State) (sc : Nat) : Bool := (injOf s 0x032).running && (injOf s 0x032).arg == sc

def sendsRdi (s : State) (sc : Nat) : Bool :=
  deliversErrored s sc || (rxPort s (scPort sc)).st != .track || rdiForced s sc

/-- The status byte of this module's own receiver. -/
def ownStatus (s : State) (sc : Nat) : Byte :=
  let f := txFrame s sc
  byteOf (128 * b2n (sendsRdi s sc) + 8 * (if f.reiBad then 9 else min 8 f.reiSum))

/-- The receive frames reported are reported. -/
def reiSent (f : TxFrame) : TxFrame := { f with reiBad := false, reiSum := 0 }

/-! Key-channel and control cells (R205, R207). -/

def fragments (len : Nat) : Nat := ceilDiv len 14

/-- The cell of fragment `m.frag` of a host message. -/
def kcCell (m : KcMsg) : List Byte :=
  let d := field (14 * m.frag) 14 m.data
  [byteOf (64 + 32 * b2n (m.frag == 0) + 16 * b2n (m.frag + 1 == fragments m.data.length) + d.length)
    , byteOf (16 * m.num + m.frag)] ++ padTo 14 d

/-- The queue after one fragment. -/
def kcAdvance : List KcMsg → List KcMsg
  | [] => []
  | m :: ms => if m.frag + 1 < fragments m.data.length then { m with frag := m.frag + 1 } :: ms else ms

def annAdvance : List (List Byte × Nat) → List (List Byte × Nat)
  | [] => []
  | (c, n) :: l => if n ≤ 1 then l else (c, n - 1) :: l

/-- The key-channel cell of the next frame: announcements precede host fragments (R205, R312/10). Point 0x034 leaves a host
fragment unsent. -/
def keyCell (s : State) (sc : Nat) : List Byte :=
  let f := txFrame s sc
  match f.ann, f.kcq with
  | (c, _) :: _, _ => padTo 16 c
  | [], m :: _ => if injFor s 0x034 sc then zeros 16 else kcCell m
  | [], [] => zeros 16

/-- A host fragment is next while point 0x034 is armed for the subcarrier. -/
def dropsFragment (s : State) (sc : Nat) : Bool :=
  (txFrame s sc).ann.isEmpty && !(txFrame s sc).kcq.isEmpty && injFor s 0x034 sc

def keyAdvance (f : TxFrame) : TxFrame :=
  match f.ann with
  | _ :: _ => { f with ann := annAdvance f.ann }
  | [] => { f with kcq := kcAdvance f.kcq }

/-- An idle control cell: type 0; the rest of it is the control firmware's. -/
def idleControl : List Byte :=
  byteOf ((Config.controlByte 0 0).toNat % 16) :: (List.range 7).map (fun k => Config.controlByte 0 (k + 1))

def controlCell (f : TxFrame) : List Byte :=
  match f.ctl with
  | [] => idleControl
  | c :: _ => byteOf (16 * c.typ + c.seq % 16) :: padTo 7 c.data

def controlAdvance (f : TxFrame) : TxFrame :=
  match f.ctl with
  | [] => f
  | c :: l => { f with ctl := if c.left ≤ 1 then l else { c with left := c.left - 1 } :: l }

/-- A control cell of a type enters a subcarrier's queue, for 4 consecutive frames (R207). -/
def queueControl (sc typ : Nat) (data : List Byte) (s : State) : State :=
  onTxFrame sc (fun f => { f with
    ctl := f.ctl ++ [{ typ := typ, seq := (f.ctlSeq + 1) % 16, data := data, left := 4 }]
    ctlSeq := (f.ctlSeq + 1) % 16 }) s

/-! Schedules in a pair (R394/13). -/

/-- The frame class of a subcarrier at a later instant, with the port's placed format changes. -/
def classAt (s : State) (sc t : Nat) : Nat :=
  let p := scPort sc
  match (txPort s p).changes.filter (fun c => decide (c.boundary ≤ t) && bitOf c.mask (scIdx sc)) with
  | [] => txClass s sc
  | c :: _ => c.classes.getD (scIdx sc) 0

/-- The departures of frames that begin in `[a, b)`, four at most. -/
def departuresIn (s : State) (sc a b : Nat) : List Nat :=
  let rec go : Nat → Nat → List Nat
    | 0, _ => []
    | n + 1, t =>
      let k := classAt s sc t
      let d := gridAfter (frameTicks k) t
      if 2 ≤ k ∧ d < b then d :: go n (d + 1) else []
  go 4 a

/-- The lead originates the cells of a frame and schedules them with its status byte; in a lease gap the former lead
schedules the status alone (R386, R394/13). -/
def scheduleFrame (sc dep : Nat) (s : State) : State :=
  let lead := isLead s
  let e : Schedule :=
    { sc := sc, dep := dep, key := if lead then keyCell s sc else zeros 16
      ctl := if lead then controlCell (txFrame s sc) else idleControl, status := ownStatus s sc
      pc := (txFrame s sc).pc }
  onlyIf (lead && dropsFragment s sc) (injAct 0x034) s
    |> onTxFrame sc (fun f => reiSent { f with sched := f.sched ++ [e] })
    |> tellPartner (.schedule e)
    |> onlyIf lead (onTxFrame sc (fun f => keyAdvance (controlAdvance f)))

/-- The schedule of a frame, if it has arrived or was made. -/
def scheduleOf (s : State) (sc dep : Nat) : Option Schedule := (txFrame s sc).sched.find? (fun e => e.dep == dep)

/-- This module schedules status bytes: the lead, or the former lead in a gap. -/
def schedules (s : State) : Bool := isLead s || (s.pair.role == 3 && s.pair.wasLead)

/-! Building a frame (R177 to R207). -/

/-- Bytes 10 and 11 of frame `m` (R190, R191). -/
def descriptorField (s : State) (sc m : Nat) : Nat :=
  let v := tabGet 0 s.svc.mapVer (scPort sc)
  let d := sentDigest s (scPort sc)
  if m < 40 then sentDescriptor s sc m
  else match (m - 40) % 4 with
    | 0 => v / 65536
    | 1 => v % 65536
    | 2 => d / 65536
    | _ => d % 65536

/-- Overhead of frame `m` departing at `e.dep`, with its cells, status and protection value, and channel bytes. -/
def overhead (s : State) (sc m : Nat) (e : Schedule) (gcc uoc : List Byte) : List Byte :=
  let f := txFrame s sc
  let bip := if injFor s 0x031 sc then flip0 f.bip else f.bip
  faw ++ [byteOf m, bip, e.status, (padTo 64 f.trace).getD (m % 64) 0] ++ natBE 2 (descriptorField s sc m)
    ++ natBE 4 e.pc.toNat ++ tcBytes12 e.dep ++ gcc ++ e.key ++ e.ctl ++ uoc ++ zeros 17

/-- The payload: the content mapped into each slot, idle filler elsewhere. -/
def payload (f : TxFrame) (phase : Nat) : List Byte :=
  (List.range 40).flatMap (fun k =>
    match f.slots.find? (fun e => e.1 == k) with
    | some e => padTo 231 e.2
    | none => fillerFrom (phase + 231 * k) 231)

/-- The transmit digest register over one more frame before scrambling, and its value after frame 255 (R396/13). -/
def digestFrame (m : Nat) (frame : List Byte) (f : TxFrame) : TxFrame :=
  let r := crc32Reg (if m = 0 then 0xFFFFFFFF else f.digest.toNat) frame
  { f with
    digest := BitVec.ofNat 32 r
    lastDigest := if m = 255 then BitVec.ofNat 32 (r ^^^ 0xFFFFFFFF) else f.lastDigest
    digestDue := f.digestDue || m == 255 }

/-- Cells, status and protection value of the frame departing at `dep`: single modules originate them now; pair members take the
schedule, and without one send idle cells and their own status byte (R386, R393, R394/13). -/
def frameCells (s : State) (sc dep : Nat) : Schedule :=
  let pc := (txFrame s sc).pc
  if isSingle s then ⟨sc, dep, keyCell s sc, controlCell (txFrame s sc), ownStatus s sc, pc⟩
  else match scheduleOf s sc dep with
    | some e => ⟨sc, dep, padTo 16 e.key, padTo 8 e.ctl, if rdiForced s sc then e.status ||| 0x80 else e.status, e.pc⟩
    | none => ⟨sc, dep, zeros 16, idleControl, ownStatus s sc, pc⟩

/-- The framer after the frame's cells have left. Where this module made the schedule, the receive frames were reported with it; else
they have been reported, or the frame carried the lead's report in their place (R194, R394/13). -/
def cellsSent (single scheduled : Bool) (dep : Nat) (f : TxFrame) : TxFrame :=
  if single then reiSent (keyAdvance (controlAdvance f))
  else { (if scheduled && f.sched.any (fun e => e.dep == dep) then f else reiSent f) with sched := f.sched.filter (fun e => dep < e.dep) }

/-- FRAME_TRANSMIT: the frame that departs at `at_`. -/
def buildFrame (sc at_ : Nat) (s0 : State) : State :=
  let s := clockTo at_ s0
  let k := txClass s sc
  let m := at_ / frameTicks k % 256
  let arm := m == 0 && injFor s 0x033 sc
  let s := onlyIf arm (fun s => onTxFrame sc (fun f => { f with descFlip := 2 }) (injAct 0x033 s)) s
  let f := txFrame s sc
  let gcc := channelTake 32 f.gccIdle (if f.gcc then f.gccQ else [])
  let uoc := channelTake 64 f.uocIdle (if f.uoc then f.uocQ else [])
  let frame := overhead s sc m (frameCells s sc at_) gcc.1 uoc.1 ++ payload f (freeNat s % 6)
  let line := scramble sc frame
  let late := isStandIn s && (scheduleOf s sc at_).isNone
  useFree s
    |> onlyIf (isSingle s && dropsFragment s sc) (injAct 0x034)
    |> onlyIf (injFor s 0x031 sc) (injAct 0x031)
    |> onTxFrame sc (fun f => cellsSent (isSingle s) (schedules s) at_ (digestFrame m frame { f with
        mfc := (m + 1) % 256, bip := bip8 (payloadOf line), slots := [], frame := line, dep := at_
        pilots := pilotBits sc k
        gccIdle := gcc.2.1, gccQ := gcc.2.2, uocIdle := uoc.2.1, uocQ := uoc.2.2
        descFlip := if m = 255 then f.descFlip - 1 else f.descFlip }))
    |> onTxSc sc (fun x => { x with frames := satAdd max64 x.frames 1 })
    |> onlyIf (schedules s) (fun s =>
        forAll (scheduleFrame sc) (departuresIn s sc (at_ + ticksUs 20) (at_ + ticksUs 20 + frameTicks k)) s)
    |> onlyIf late (diverge 5 sc)
    |> paceToken (6 * scPort sc + 4)

/-- The instant is a frame boundary of the subcarrier's class (R96, R178). -/
def onFrameGrid (s : State) (sc at_ : Nat) : Bool := at_ % frameTicks (txClass s sc) == 0

def execFrameTransmit (sc at_ : Nat) (s : State) : Res :=
  need "subcarrier" (okSc sc)
    (onlyIf (txLit s sc && onFrameGrid s sc at_ && decide (now s ≤ at_)) (buildFrame sc at_) s)

/-! Alignment (R184 to R189). -/

def symbolPhases (s : State) (sc : Nat) : Nat := max 1 (symbolTimes (rxClass s sc))

/-- A false candidate: the hunt resumes at the next phase (R186). -/
def falseCandidate (sc : Nat) (s : State) : State :=
  onRxFramer sc (fun f => { f with
    st := .hunt, phase := (f.phase + 1) % symbolPhases s sc, falseC := satAdd max32 f.falseC 1, lastMfc := none }) s

/-- PILOT_CORRELATION: in HUNT, the present phase is tested, in ascending order; one whose correlation reaches the threshold is a
candidate, otherwise the next phase is tested (R184, R186). -/
def pilotCorrelation (sc phase corr : Nat) (s : State) : State :=
  let f := rxFramer s sc
  if rxLit s sc && f.st == .hunt && phase == f.phase % symbolPhases s sc then
    onRxFramer sc (fun f =>
      if (frPort s (scPort sc)).pilotThr ≤ corr then { f with st := .confirm 1, phase := phase }
      else { f with phase := (phase + 1) % symbolPhases s sc }) s
  else s

def execPilotCorrelation (sc phase corr : Nat) (s : State) : Res :=
  need "subcarrier" (okSc sc) (pilotCorrelation sc phase corr s)

/-- The subcarrier of a candidate has not converged within 10 ms (R185). -/
def execCandidateConvergeTimeout (sc : Nat) (s : State) : Res :=
  need "subcarrier" (okSc sc)
    (onlyIf ((rxFramer s sc).st == .confirm 1 && !(rxSc s sc).conv) (falseCandidate sc) s)

/-- A frame at the deframer: its 9,405 bytes as sent on the line, the errored flags of its four codewords, and what was measured
of it. -/
structure RxFrame where
  bytes : List Byte
  bad : List Bool
  arr : Nat
  corr : Nat
  deriving DecidableEq, Repr

/-- Whole bytes of a bit string, and the bits left. -/
def packBits : List Bool → List Byte × List Bool
  | a :: b :: c :: d :: e :: f :: g :: h :: t =>
    let r := packBits t
    (byteOf (bitsNat [a, b, c, d, e, f, g, h]) :: r.1, r.2)
  | l => ([], l)

/-- The frame that four codewords make (R154, R155/05). -/
def frameOf (cws : List CwOut) (o : FrameObs) : RxFrame :=
  { bytes := (packBits (cws.flatMap (·.info))).1, bad := cws.map (·.errored), arr := o.arr, corr := o.corr }

/-- Frame correctness (R185); point 0x030 inverts the FAW after decoding. -/
def frameCorrect (s : State) (sc : Nat) (f : RxFrame) : Bool :=
  decide ((frPort s (scPort sc)).pilotThr ≤ f.corr) && !f.bad.getD 0 true
    && f.bytes.take 6 == faw && !injFor s 0x030 sc

/-- The alignment state after a frame. -/
def alignFrame (sc : Nat) (ok : Bool) (s : State) : State :=
  let f := rxFramer s sc
  match f.st with
  | .hunt => s
  | .confirm k =>
    if ok then onRxFramer sc (fun f => { f with st := if k < 3 then .confirm (k + 1) else .inFrame, run := 0 }) s
    else falseCandidate sc s
  | .inFrame =>
    if ok then onRxFramer sc (fun f => { f with run := 0 }) s
    else if (frPort s (scPort sc)).lossCount ≤ f.run + 1 then
      onRxFramer sc (fun f => { f with
        st := .hunt, run := 0, lossC := satAdd max32 f.lossC 1, mf := false, lastMfc := none, parity := none }) s
    else onRxFramer sc (fun f => { f with run := f.run + 1 }) s

/-- Multiframe lock after a frame without errored overhead that carries MFC `m` (R188). -/
def mfcGood (m : Nat) (f : RxFramer) : RxFramer :=
  let locks := !f.mf && f.st == .inFrame && f.lastMfc == some ((m + 255) % 256)
  let miss := f.mf && m != f.mfcExp
  let run := if miss then f.mfcRun + 1 else 0
  let lost := miss && run == 3
  { f with
    mf := locks || (f.mf && !lost)
    mfcExp := if f.mf && !lost then (f.mfcExp + 1) % 256 else (m + 1) % 256
    mfcRun := if lost then 0 else run, lastMfc := some m, mfc := m }

/-- A frame with errored overhead advances the expected MFC (R188). -/
def mfcErrored (f : RxFramer) : RxFramer :=
  { f with mfcExp := if f.mf then (f.mfcExp + 1) % 256 else f.mfcExp, lastMfc := none }

/-! Overhead of a received frame (R193 to R206). -/

/-- BIP-8 violations of a frame: the bits of byte 7 that differ from the parity of the previous payload (R193). -/
def violations (f : RxFramer) (bip : Byte) : Nat :=
  match f.parity with
  | none => 0
  | some p => popcount 8 (p ^^^ bip).toNat

/-- REI values above 9 count as 0 (R180). -/
def reiValue (status : Byte) : Nat :=
  let v := status.toNat / 8 % 16
  if 9 < v then 0 else v

/-- One trace byte of frame `m`; `prev` is the MFC of the frame before. A copy is one quarter of a multiframe without a gap (R196). -/
def traceByte (prev : Option Nat) (m : Nat) (b : Byte) (f : RxFramer) : RxFramer :=
  if m % 64 = 0 then { f with trCur := [b], trOk := true }
  else if f.trOk && f.trCur.length == m % 64 && prev == some (m - 1) then { f with trCur := f.trCur ++ [b] }
  else { f with trOk := false }

/-- A copy is complete after this frame. -/
def traceDone (f : RxFramer) : Bool := f.trOk && f.trCur.length == 64

/-- Count a copy; three identical ones that differ from the accepted trace are accepted (R196). -/
def traceCopy (f : RxFramer) : RxFramer :=
  if traceDone f then
    let run := if f.trCur = f.trCand then f.trRun + 1 else 1
    { f with trCand := f.trCur, trRun := min 3 run, trOk := false, trCur := []
             trAcc := if 3 ≤ run then f.trCur else f.trAcc }
  else f

/-- The trace just completed is a new accepted one. -/
def traceAccepted (f : RxFramer) : Bool :=
  traceDone f && f.trCur == f.trCand && decide (2 ≤ f.trRun) && f.trCur != padTo 64 f.trAcc

/-- One protection-channel value: accepted when three consecutive frames carry it (R201). -/
def pcValue (v : Word) (f : RxFramer) : RxFramer :=
  let run := if v = f.pcCand then f.pcRun + 1 else 1
  { f with pcCand := v, pcRun := min 3 run, pcAcc := if 3 ≤ run then v else f.pcAcc }

def pcAccepted (v : Word) (f : RxFramer) : Bool := v == f.pcCand && decide (2 ≤ f.pcRun) && v != f.pcAcc

/-- A new multiframe begins: the descriptors received become those of the last multiframe (R190, R197). -/
def newMultiframe (m : Nat) (f : RxFramer) : Bool := match f.lastMfc with
  | some l => decide (m ≤ l)
  | none => m == 0

/-- Bytes 10 and 11 of frame `m` (R190, R191). -/
def descriptorIn (m v : Nat) (f : RxFramer) : RxFramer :=
  if m < 40 then { f with desc := tabSet 0xFFF0 f.desc m v }
  else match (m - 40) % 4 with
    | 0 => { f with ver := 65536 * v + f.ver % 65536 }
    | 1 => { f with ver := f.ver / 65536 * 65536 + v }
    | 2 => { f with dig := 65536 * v + f.dig % 65536 }
    | _ => { f with dig := f.dig / 65536 * 65536 + v }

/-- The digest of the descriptors received for a port, with the version its subcarrier `sc` received (R192). -/
def receivedDigest (s : State) (sc : Nat) : Nat :=
  descriptorDigest ((portScs (scPort sc)).flatMap (fun c => (List.range 40).map (fun k =>
    if rxLit s c then tabGet 0xFFF0 (rxFramer s c).desc k else 0xFFF0))) (rxFramer s sc).ver

/-- The digest comparison at the end of a multiframe of the port's lowest lit subcarrier (R192). -/
def compareDigest (sc : Nat) (s : State) : State :=
  let p := scPort sc
  if ((portScs p).find? (rxLit s)) == some sc then
    let same := receivedDigest s sc == (rxFramer s sc).dig
    let f := frPort s p
    let hit := !same && f.digRun == 1 && f.digArmed
    onFrPort p (fun f => { f with
        digRun := if same then 0 else min 2 (f.digRun + 1)
        digArmed := if same then true else f.digArmed && !hit }) s
      |> onlyIf hit (raisePort 0x0304 p (natBE 4 (rxFramer s sc).ver))
  else s

/-- A multiframe has ended: its descriptors are those of the last multiframe. -/
def endMultiframe (sc : Nat) (s : State) : State :=
  onRxFramer sc (fun x => { x with descM := x.desc }) (compareDigest sc s)

/-! The key channel (R205, R206). -/

/-- The message in progress is discarded and counted. -/
def kcDiscard (f : RxFramer) : RxFramer := match f.kc with
  | some m => { f with kc := none, kcDisc := satAdd max32 f.kcDisc 1, kcSkip := some m.num }
  | none => f

/-- A fragment of message `num` that continues nothing: the message is counted as discarded with its first such fragment. -/
def kcStray (num : Nat) (f : RxFramer) : RxFramer :=
  if f.kcSkip = some num then f else { f with kcDisc := satAdd max32 f.kcDisc 1, kcSkip := some num }

/-- A complete message enters the receive queue of 32, or the queue overruns (R206, R19/01); only a module that delivers
takes it (R386/13). -/
def kcDeliver (sc num : Nat) (data : List Byte) (s : State) : State :=
  if !delivers s then s
  else if s.frame.kcRx.length < 32 then
    onFrameSt (fun f => { f with kcRx := f.kcRx ++ [⟨sc, num, data⟩] }) s
      |> raiseSc 0x0303 sc [byteOf data.length, byteOf num]
  else onRxFramer sc (fun f => { f with kcOver := satAdd max32 f.kcOver 1 })
    (onFrameSt (fun f => { f with kcOverrun := true }) s)

/-- A key-channel cell of a received frame: host fragments are reassembled; a gap discards the
message, once (R206). -/
def kcCellIn (sc : Nat) (cell : List Byte) (s : State) : State :=
  let b0 := (cell.getD 0 0).toNat
  let b1 := (cell.getD 1 0).toNat
  let num := b1 / 16
  let idx := b1 % 16
  let data := field 2 (b0 % 16) cell
  let first := bitOf b0 5
  let last := bitOf b0 4
  if b0 / 64 ≠ 1 then s
  else
    let cur := (rxFramer s sc).kc
    let fits := match cur with
      | some m => m.num == num && m.next == idx && !first
      | none => false
    let s1 := onlyIf (!fits) (onRxFramer sc kcDiscard) s
    let part : Option (List Byte) :=
      if fits then cur.map (fun m => m.data ++ data) else if first && idx == 0 then some data else none
    match part with
    | none => onRxFramer sc (kcStray num) s1
    | some d =>
      if last then kcDeliver sc num d (onRxFramer sc (fun f => { f with kc := none, kcSkip := none }) s1)
      else onRxFramer sc (fun f => { f with kc := some ⟨num, idx + 1, d⟩, kcSkip := none }) s1

/-! GCC and UOC toward the host (R203, R204). -/

/-- A received channel packet leaves through the egress queue of its host port. -/
def channelDeliver (nn label : Nat) (body : List Byte) (s : State) : State :=
  let pk : RxPacket := { trib := 0xFFFF, label := label, cls := 2, enc := false, body := body
                         errored := false, authFail := false, replayed := false }
  onlyIf (egressFits s nn pk) (egressPut nn pk) s

def gccIn (sc : Nat) (bytes : List (Option Byte)) (s : State) : State :=
  let f := rxFramer s sc
  let d := delineateAll f.gccSync (f.gccBuf ++ bytes)
  let t := txFrame s sc
  onRxFramer sc (fun f => { f with gccSync := d.sync, gccBuf := d.rest, gccErr := satAdd max32 f.gccErr d.drops }) s
    |> onlyIf (t.gcc && delivers s) (forAll (channelDeliver t.gccNn (0x7FFF00 + sc)) d.packets)

def uocIn (sc : Nat) (bytes : List (Option Byte)) (s : State) : State :=
  let f := rxFramer s sc
  let d := delineateAll f.uocSync (f.uocBuf ++ bytes)
  let t := txFrame s sc
  onRxFramer sc (fun f => { f with uocSync := d.sync, uocBuf := d.rest, uocErr := satAdd max32 f.uocErr d.drops }) s
    |> onlyIf (t.uoc && delivers s) (forAll (channelDeliver t.uocNn (0x7FFF80 + sc)) d.packets)

/-! Blocks of PM (R209). -/

/-- A byte of slot `k` lies in an errored codeword span (R154, R155/05): codeword c covers bits 18,810 c onward. -/
def slotErrored (bad : List Bool) (k : Nat) : Bool :=
  (List.range 4).any (fun c => bad.getD c true
    && decide (8 * slotStart k < 18810 * (c + 1)) && decide (18810 * c < 8 * (slotStart k + 231)))

/-- One block of the tributary that a slot carries. -/
def slotBlock (sc : Nat) (bad : List Bool) (k : Nat) (s : State) : State :=
  let o := (slotOwner s (40 * sc + k)).rx
  onlyIf (decide (o ≠ 0xFFF))
    (onPmObj (pmKey 1 o) (fun b => { b with blocks := b.blocks + 1, errs := b.errs + b2n (slotErrored bad k) })) s

/-! Receive digests (R396/13). -/

/-- The information bits of the codewords that are not uncorrectable, in order. -/
def goodBits (f : RxFrame) : List Bool :=
  let bits := f.bytes.flatMap byteBits
  (List.range 4).flatMap (fun c => if f.bad.getD c true then [] else (bits.drop (18810 * c)).take 18810)

/-- The receive digest over one more frame of a multiframe; the mask has one bit for each of its 1,024 codewords, the
first codeword in bit 1,023. -/
def rxDigestFrame (m : Nat) (f : RxFrame) (x : RxFramer) : RxFramer :=
  let pk := packBits ((if m = 0 then [] else x.rxRest) ++ goodBits f)
  let reg := crc32Reg (if m = 0 then 0xFFFFFFFF else x.rxDigest.toNat) pk.1
  let mask := (List.range 4).foldl (fun a c => 2 * a + b2n (!f.bad.getD c true)) (if m = 0 then 0 else x.rxMask)
  let tail := if pk.2 = [] then [] else [byteOf (bitsNat (pk.2 ++ List.replicate (8 - pk.2.length) false))]
  { x with
    rxDigest := BitVec.ofNat 32 reg, rxMask := mask, rxRest := pk.2
    lastRx := if m = 255 then some (crc32Reg reg tail ^^^ 0xFFFFFFFF, mask) else x.lastRx
    rxDue := x.rxDue || m == 255 }

/-! FRAME_RECEIVE. -/

/-- The capability and cue channel: a non-idle cell is sent four times, and the receiver acts on the first copy it gets, which hands
the cell to the control firmware (R207). -/
def controlIn (cell : List Byte) (f : RxFramer) : RxFramer :=
  let typ := getU 0 1 cell / 16
  let key := (typ, getU 0 1 cell % 16)
  if typ = 0 ∨ f.ctlLast.map (fun l => (l.1, l.2.1)) = some key then f
  else { f with ctlLast := some (key.1, key.2, field 1 7 cell), ctlActs := satAdd max64 f.ctlActs 1 }

/-- The frame before this one was the last one received, so its parity is that of frame n - 1 (R193). -/
def afterPrevious (dep : Nat) (f : RxFramer) : RxFramer := if f.nextDep = some dep then f else { f with parity := none }

/-- What an IN_FRAME frame with good overhead gives (R182, R193 to R207). -/
def takeOverhead (sc : Nat) (f : RxFrame) (o : List Byte) (s : State) : State :=
  let m := getU 6 1 o
  let dep := ticksSec (getU 16 6 o) + ticksNs (getU 22 4 o) + getU 26 2 o
  let x := afterPrevious dep (rxFramer s sc)
  let v := violations x (o.getD 7 0)
  let status := o.getD 8 0
  let pc : Word := BitVec.ofNat 32 (getU 12 4 o)
  let traced := traceByte x.lastMfc m (o.getD 9 0) x
  onlyIf (newMultiframe m x) (endMultiframe sc) s
    |> onRxFramer sc (fun x => controlIn (field 76 8 o) (traceCopy (traceByte x.lastMfc m (o.getD 9 0) (pcValue pc (descriptorIn m (getU 10 2 o) (mfcGood m { x with
        status := status, remote := satAdd max64 x.remote (reiValue status), bipV := satAdd max64 x.bipV v
        stamp := some (dep, f.arr, m), sumIn := x.sumIn + (f.arr - dep : Int), nIn := x.nIn + 1
        secBip := x.secBip + b2n (decide (0 < v)) }))))))
    |> onTxFrame sc (fun t => { t with reiSum := t.reiSum + v })
    |> onlyIf (traceAccepted traced) (raiseSc 0x0305 sc [])
    |> onlyIf (pcAccepted pc x) (raiseSc 0x0302 sc (natBE 4 pc.toNat))
    |> kcCellIn sc (field 60 16 o)
    |> gccIn sc ((field 28 32 o).map some)
    |> uocIn sc ((field 84 64 o).map some)

/-- What a frame with errored overhead does: its channel bytes are lost, and a multiframe that it begins ends the last one
(R182, R188, R196). -/
def takeErrored (sc : Nat) (s : State) : State :=
  let x := rxFramer s sc
  onlyIf (x.mf && x.mfcExp == 0) (endMultiframe sc) s
    |> onRxFramer sc (fun x => mfcErrored { x with trOk := false })
    |> gccIn sc (List.replicate 32 none)
    |> uocIn sc (List.replicate 64 none)

/-- The blocks of PM, the REI report, the parity of the payload and the digest of an IN_FRAME frame. -/
def takePayload (sc : Nat) (f : RxFrame) (viol : Bool) (m : Nat) (s : State) : State :=
  let bad := (List.range 4).any (fun c => f.bad.getD c true)
  let good := !f.bad.getD 0 true
  onRxFramer sc (fun x => { x with
      secFrames := x.secFrames + 1, secErr := x.secErr + b2n (bad || viol)
      parity := if good then some (bip8 (payloadOf f.bytes)) else none }) s
    |> onTxFrame sc (fun t => { t with reiBad := t.reiBad || bad })
    |> forAll (slotBlock sc f.bad) (List.range 40)
    |> onlyIf (!isSingle s) (onRxFramer sc (rxDigestFrame m f))

/-- A slot-frame is put in its place among those that wait: by departure, then subcarrier, then slot (R281/09). -/
def insertFrame (f : SlotFrame) : List SlotFrame → List SlotFrame
  | [] => [f]
  | g :: l =>
    if f.dep < g.dep ∨ (f.dep = g.dep ∧ 40 * f.sc + f.slot < 40 * g.sc + g.slot) then f :: g :: l else g :: insertFrame f l

/-- The region of the delay-line area that a slot-frame is written into (R341/11): which one is open. -/
def delayRegionOf (t : Nat) (f : SlotFrame) : Nat := delayBase / 4096 + Config.delayRegion t f.dep f.sc f.slot % 3947520

/-- A slot-frame arrives at its tributary; one earlier than a released one, or taken as missing, comes too late (R286/09). -/
def frameArrives (t : Nat) (f : SlotFrame) (s : State) : State :=
  let x := tribOf s t
  onlyIf (x.rxEn && decide (x.pos ≤ f.dep) && decide (tabGet 0 x.seen (40 * f.sc + f.slot) ≤ f.dep))
    (fun s => onTribOf t (fun x => { x with
        arrived := insertFrame f x.arrived, seen := tabSet 0 x.seen (40 * f.sc + f.slot) (f.dep + 1) }) s
      |> onlyIf x.bulk (fillRegion (delayRegionOf t f))) s

/-- The bytes of slot `k` with the mark of the errored spans they lie in (R154, R155/05); every slot of a subcarrier under R200 is
delivered as errored. -/
def slotMarks (frame : List Byte) (bad : List Bool) (all : Bool) (k : Nat) : List (Byte × Bool) :=
  (List.range 231).map (fun i =>
    let n := slotStart k + i
    (frame.getD n 0, all || bad.getD (8 * n / 18810) true || bad.getD ((8 * n + 7) / 18810) true))

/-- The slots of a frame with departure stamp `dep` go to the tributaries that own them. -/
def takeSlots (sc dep arr : Nat) (frame : List Byte) (bad : List Bool) (s : State) : State :=
  forAll (fun k s =>
    let t := (slotOwner s (40 * sc + k)).rx
    onlyIf (decide (t < 3840))
      (frameArrives t ⟨dep, some arr, sc, k, slotMarks frame bad (deliversErrored s sc) k⟩) s) (List.range 40) s

/-- The departure stamp of a frame: its own, or, where its overhead is errored, the one due after the frame before. -/
def stampOf (good : Bool) (o : List Byte) (x : RxFramer) : Option Nat :=
  if good then some (ticksSec (getU 16 6 o) + ticksNs (getU 22 4 o) + getU 26 2 o) else x.nextDep

/-- The slots of an IN_FRAME frame, and the departure due next. -/
def takeStamped (sc arr : Nat) (frame : List Byte) (bad : List Bool) (dep : Option Nat) (s : State) : State :=
  match dep with
  | none => s
  | some d => onRxFramer sc (fun x => { x with nextDep := some (d + frameTicks (rxClass s sc)) }) (takeSlots sc d arr frame bad s)

/-- A decoded frame at the deframer. -/
def frameReceive (sc : Nat) (f : RxFrame) (s : State) : State :=
  let x0 := rxFramer s sc
  let good := !f.bad.getD 0 true
  let plain := scramble sc f.bytes
  let o := plain.take 165
  let m := if good then getU 6 1 o else x0.mfcExp
  let dep := stampOf good o x0
  let viol := good && decide (0 < violations (afterPrevious (dep.getD 0) x0) (o.getD 7 0))
  let s1 := alignFrame sc (frameCorrect s sc f) (onlyIf (injFor s 0x030 sc && x0.st != .hunt) (injAct 0x030) s)
  let x1 := rxFramer s1 sc
  if x1.st = .inFrame ∧ f.bytes.length = 9405 then
    onlyIf good (takeOverhead sc f o) s1 |> onlyIf (!good) (takeErrored sc) |> takePayload sc f viol m
      |> takeStamped sc f.arr plain f.bad dep
  else if x1.st != .hunt && good then
    onRxFramer sc (fun x => { x with lastMfc := some m, mfc := m, parity := none, nextDep := none }) s1
  else onRxFramer sc (fun x => { x with parity := none, nextDep := none }) s1

/-- A frame is judged in IN_FRAME, and as a confirmation frame once it begins after its subcarrier has converged (R185, R186). -/
def isJudged (s : State) (sc arr : Nat) : Bool :=
  (rxFramer s sc).st == .inFrame || ((rxSc s sc).conv && decide ((rxSc s sc).convAt ≤ arr))

/-- FRAME_RECEIVE: the four codewords handed over make the frame, whose arrival and pilot correlation the row gives. -/
def deframe (sc : Nat) (o : FrameObs) (s : State) : State :=
  let cws := (rxFramer s sc).cws
  if cws.length = 4 then
    let s1 := paceToken (6 * scPort sc + 3) (onRxFramer sc (fun x => { x with cws := [] }) s)
    onlyIf (isJudged s sc o.arr) (frameReceive sc (frameOf cws o)) s1
  else s

def execFrameReceive (sc : Nat) (o : FrameObs) (s : State) : Res :=
  need "subcarrier" (okSc sc) (onlyIf (rxLit s sc) (deframe sc o) s)

/-! The frame commands. -/

/-- frame.trace (0x0300). -/
def frameTrace : Req → State → Reply := onSc fun sc r s =>
  if 3 < r.u 1 1 ∨ 1 < r.u 2 1 then refuse .badarg s
  else okay (onTxFrame sc (fun f => { f with trace := field 4 64 r.pay }) s
    |> onRxFramer sc (fun f => { f with compare := r.u 1 1, timAct := r.u 2 1 == 1, expTrace := field 68 64 r.pay }))

def execFrameTrace (mb : Nat) (s : State) : Res := mailbox ⟨0x0300, some 132, [(3, 1)]⟩ frameTrace mb s

/-- A set or clear time within R198: to 60,000 ms in 0.1 ms; for DEG whole seconds from 1,000 ms. -/
def defectTimeOk (code t : Nat) : Bool :=
  decide (t ≤ 600000) && (code != 5 || (decide (10000 ≤ t) && t % 10000 == 0))

/-- Forget the integration of a defect's objects, keeping what is declared (R198). -/
def restartDefect (port code : Nat) (s : State) : State :=
  forAll (fun k => onDefSt k (fun d => { d with ctr := 0 })) ((s.frame.defects.map (·.1)).filter (fun k =>
    k / 4096 == code && (decide (8 ≤ code) || (if code = 0 then k % 4096 == port else k % 4096 / 16 == port)))) s

/-- frame.defcfg (0x0301): a threshold where the table requires zero is BADARG by R58/02. -/
def frameDefcfg (r : Req) (s : State) : Reply :=
  let p := r.u 0 1
  let code := r.u 1 1
  let thr := r.u 12 4
  if 9 < code ∨ (if code ≤ 7 then 5 < p else p ≠ 0xFF) ∨ (code ≠ 4 ∧ code ≠ 5 ∧ thr ≠ 0) then refuse .badarg s
  else if defectTimeOk code (r.u 4 4) = false ∨ defectTimeOk code (r.u 8 4) = false
      ∨ ((code = 4 ∨ code = 5) ∧ (thr < 100 ∨ 10000000 < thr)) then refuse .range s
  else okay (restartDefect p code (onFrameSt (fun f => { f with
    defcfg := tabSet {} f.defcfg (16 * min 6 p + code)
      { set := some (r.u 4 4), clear := some (r.u 8 4), thr := if code = 4 ∨ code = 5 then some thr else none } }) s))

def execFrameDefcfg (mb : Nat) (s : State) : Res := mailbox ⟨0x0301, some 16, [(2, 2)]⟩ frameDefcfg mb s

/-- frame.pcset (0x0302). -/
def framePcset : Req → State → Reply := onSc fun sc r s =>
  okay (onTxFrame sc (fun f => { f with pc := BitVec.ofNat 32 (r.u 4 4) }) s)

def execFramePcset (mb : Nat) (s : State) : Res := mailbox ⟨0x0302, some 8, [(1, 3)]⟩ framePcset mb s

/-- frame.chan (0x0303); a disabled channel's queue is emptied. -/
def frameChan : Req → State → Reply := onSc fun sc r s =>
  if 1 < r.u 1 1 ∨ 1 < r.u 2 1 then refuse .badarg s
  else if (r.u 1 1 = 1 ∧ portDefined s (r.u 4 2) = false) ∨ (r.u 2 1 = 1 ∧ portDefined s (r.u 6 2) = false) then
    refuse .range s
  else okay (onTxFrame sc (fun f => { f with
    gcc := r.u 1 1 == 1, uoc := r.u 2 1 == 1, gccNn := r.u 4 2, uocNn := r.u 6 2
    gccQ := if r.u 1 1 = 1 then f.gccQ else [], uocQ := if r.u 2 1 = 1 then f.uocQ else [] }) s)

def execFrameChan (mb : Nat) (s : State) : Res := mailbox ⟨0x0303, some 8, [(3, 1)]⟩ frameChan mb s

/-- frame.kcsend (0x0304). -/
def frameKcsend : Req → State → Reply := onSc fun sc r s =>
  let n := r.u 1 1
  let f := txFrame s sc
  if n = 0 ∨ 224 < n then refuse .range s
  else if r.len ≠ 4 + n then refuse .badarg s
  else if txClass s sc = 0 then refuse .denied s
  else if 4 ≤ f.kcq.length then refuse .nores s
  else okay (onTxFrame sc (fun f => { f with
    kcq := f.kcq ++ [⟨f.kcNum, field 4 n r.pay, 0⟩], kcNum := (f.kcNum + 1) % 16 }) s)

def execFrameKcsend (mb : Nat) (s : State) : Res := mailbox ⟨0x0304, none, [(2, 2)]⟩ frameKcsend mb s

/-- frame.kcrecv (0x0305). -/
def frameKcrecv (_ : Req) (s : State) : Reply :=
  match s.frame.kcRx with
  | [] => okWith [0, 0, 0, 0] s
  | m :: rest =>
    okWith ([byteOf m.sc, byteOf m.data.length, byteOf m.num, 0] ++ m.data)
      (onFrameSt (fun f => { f with kcRx := rest }) s)

def execFrameKcrecv (mb : Nat) (s : State) : Res := mailbox (bareShape 0x0305) frameKcrecv mb s

/-- frame.stamp (0x0306): DENIED also before any stamp was received. -/
def frameStamp : Req → State → Reply := onSc fun sc _ s =>
  let f := rxFramer s sc
  match f.stamp with
  | none => refuse .denied s
  | some (dep, arr, m) =>
    if f.st ≠ .inFrame ∨ rxLit s sc = false then refuse .denied s
    else okWith (tcBytes12 dep ++ tcBytes12 arr ++ [byteOf m, 0, 0, 0]) s

def execFrameStamp (mb : Nat) (s : State) : Res := mailbox (objShape 0x0306) frameStamp mb s

def alignNum : Align → Nat
  | .hunt => 0
  | .confirm k => k
  | .inFrame => 4

/-- The declared defects of codes 0 to 7 that concern a subcarrier. -/
def defectMask (s : State) (sc : Nat) : Nat :=
  listMask ((List.range 8).filter (fun c => declared s c (if c = 0 then scPort sc else sc)))

/-- frame.status (0x0307). -/
def frameStatus : Req → State → Reply := onSc fun sc _ s =>
  let f := rxFramer s sc
  let t := txFrame s sc
  okWith ([byteOf (if rxLit s sc then alignNum f.st else 5), byteOf (b2n f.mf)] ++ natBE 2 (defectMask s sc)
    ++ [byteOf f.mfc, f.status, 0, 0] ++ natBE 4 f.falseC ++ natBE 4 f.lossC ++ natBE 8 f.bipV ++ natBE 8 f.remote
    ++ natBE 4 f.pcAcc.toNat ++ natBE 4 f.ver ++ natBE 4 f.dig ++ zeros 4 ++ padTo 64 f.trAcc
    ++ natBE 4 f.kcDisc ++ natBE 4 f.kcOver ++ natBE 4 t.gccDrop ++ natBE 4 f.gccErr ++ natBE 4 t.uocDrop
    ++ natBE 4 f.uocErr ++ zeros 4) s

def execFrameStatus (mb : Nat) (s : State) : Res := mailbox (objShape 0x0307) frameStatus mb s

/-- `n` bytes of bits, object k in bit k mod 8 of byte k / 8. -/
def bitBytes (n : Nat) (p : Nat → Bool) : List Byte :=
  (List.range n).map (fun b => byteOf (listMask ((List.range 8).filter (fun k => p (8 * b + k)))))

/-- frame.defects (0x0308). -/
def frameDefects (_ : Req) (s : State) : Reply :=
  okWith (bitBytes 1 (fun p => decide (p < 6) && declared s 0 p) ++ zeros 3
    ++ (List.range 7).flatMap (fun c => bitBytes 12 (declared s (c + 1)))) s

def execFrameDefects (mb : Nat) (s : State) : Res := mailbox (bareShape 0x0308) frameDefects mb s

/-- frame.tribdef (0x0309). -/
def frameTribdef (r : Req) (s : State) : Reply :=
  let t := r.u 0 2
  if 3072 < t ∨ t % 768 ≠ 0 then refuse .range s
  else okWith (bitBytes 96 (fun k => declared s 8 (t + k)) ++ bitBytes 96 (fun k => declared s 9 (t + k))) s

def execFrameTribdef (mb : Nat) (s : State) : Res := mailbox ⟨0x0309, some 4, [(2, 2)]⟩ frameTribdef mb s

end Sys2Proof.Machine
end

