-- ==== Sys2Proof/Machine/Labels.lean ====
section
/-! DEFINITION. Label entries, the label cache, counters, ingress and lookup, and the label commands
(09_service_path.md R265 to R276). -/

namespace Sys2Proof.Machine

/-! The shim (R265). -/

def shimLabel (w : Word) : Nat := w.toNat / 512
def shimClass (w : Word) : Nat := w.toNat / 128 % 4

def lastLabel : Nat := 5242879

/-! Entries (R268). -/

/-- A label entry from its 16 bytes. -/
def readEntry (b : List Byte) : LabelEntry :=
  { valid := bitOf (getU 0 2 b) 15, trib := getU 0 2 b % 4096, ctx := getU 2 2 b
    bypass := bitOf (getU 4 1 b) 2, clsOvr := getU 4 1 b % 4, profile := getU 5 1 b % 16
    cset := getU 6 3 b, dset := getU 9 3 b }

/-- The line is in the cache (R270). -/
def cacheSet (line : Nat) : Nat := line % 4096

def cached (s : State) (line : Nat) : Bool := (tabGet [] s.svc.cache (cacheSet line)).contains line

/-- The line is uncorrectable in bulk memory: found so by a lookup, or by any other read of its word (R272). -/
def lineLost (s : State) (line : Nat) : Bool := s.svc.ueLines.contains line || wordBad s (labelBase + 64 * line)

/-- The entry of a label as lookup sees it: one of an unknown label, or of a lost line that no cache holds, has VALID clear
(R267, R272). -/
def entryOf (s : State) (label : Nat) : LabelEntry :=
  let e := readEntry (bulkBytes s (labelBase + 16 * label) 16)
  { e with valid := e.valid && decide (label ≤ lastLabel) && (cached s (label / 4) || !lineLost s (label / 4)) }

/-- Every field of an entry is in range, and the counter sets differ (R268, R276). -/
def entryOk (b : List Byte) : Bool :=
  let e := readEntry b
  decide (e.trib < 3840) && (decide (e.ctx < 40960) || e.ctx == 0xFFFF) && e.clsOvr != 3
    && decide (e.cset ≤ lastLabel) && (decide (e.dset ≤ lastLabel) || e.dset == 0x7FFFFF) && e.cset != e.dset

/-- The bits of an entry that R268 requires to be zero are zero (R58/02). -/
def entryZeros (b : List Byte) : Bool :=
  getU 0 2 b / 4096 % 8 == 0 && decide (getU 4 1 b < 8) && decide (getU 5 1 b < 16) && allZero (field 12 4 b)

/-! The cache (R270). -/

/-- Use a line: it becomes the most recently used of its set, 16 at most. -/
def touchLine (line : Nat) (s : State) : State :=
  onSvc (fun v => { v with
    cache := tabMod [] v.cache (cacheSet line) (fun l => (line :: without line l).take 16) }) s

/-! Counters (R274 to R276). -/

/-- Lines of the pending increment buffer in use. -/
def pendingLines (s : State) : Nat := ((s.svc.ctrPend.map (fun e => e.1 / 2)).dedup).length

/-- The pending buffer is full, or reported full by point 0x0C2. -/
def counterFull (s : State) : Bool := decide (4096 ≤ pendingLines s) || (injOf s 0x0C2).running

def addInc (d c : CtrInc) : CtrInc := { tp := c.tp + d.tp, tb := c.tb + d.tb, rp := c.rp + d.rp, rb := c.rb + d.rb }

/-- The counter cache holds the line (R275). -/
def ctrCached (s : State) (line : Nat) : Bool := s.svc.ctrCache.contains line

/-- Increments of a counter set reach its cached line, or wait in the pending buffer for the line (R275). -/
def putCounts (set : Nat) (d : CtrInc) (s : State) : State :=
  if ctrCached s (set / 2) then onSvc (fun v => { v with ctrHeld := tabMod {} v.ctrHeld set (addInc d) }) s
  else onSvc (fun v => { v with ctrPend := tabMod {} v.ctrPend set (addInc d) }) s

/-- There is room for the increments of a set: its line is cached, or merges, or the pending buffer has a line left. -/
def countRoom (s : State) (set : Nat) : Bool :=
  ctrCached s (set / 2) || s.svc.ctrPend.any (fun e => e.1 / 2 == set / 2) || !counterFull s

/-- Own counting; a stand-in takes the lead's deltas, which the lead keeps for the mirror interval, in its place (R393/13). -/
def addCounts (set : Nat) (d : CtrInc) (s : State) : State :=
  onlyIf (!isStandIn s) (fun s => putCounts set d s
    |> onlyIf (isLead s && s.pair.up) (onPair (fun p => { p with deltas := tabMod {} p.deltas set (addInc d) }))) s

def countTx (set len : Nat) : State → State := addCounts set { tp := 1, tb := len }

def countRx (set len : Nat) : State → State := addCounts set { rp := 1, rb := len }

def setAddr (set : Nat) : Nat := counterBase + 32 * set

/-- The four counters of a set, cached increments included (R274). -/
def counterValues (s : State) (set : Nat) : List Nat :=
  let b := bulkBytes s (setAddr set) 32
  let i := addInc (tabGet {} s.svc.ctrHeld set) (tabGet {} s.svc.ctrPend set)
  [satAdd max64 (getU 0 8 b) i.tp, satAdd max64 (getU 8 8 b) i.tb, satAdd max64 (getU 16 8 b) i.rp
    , satAdd max64 (getU 24 8 b) i.rb]

def counterBytes (s : State) (set : Nat) : List Byte := (counterValues s set).flatMap (natBE 8)

/-- A line leaves the counter cache: it is written back whole (R275). -/
def evictCounter (line : Nat) (s : State) : State :=
  forgetCounts line (store (counterBase + 64 * line) (counterBytes s (2 * line) ++ counterBytes s (2 * line + 1)) 0 s)
    |> onSvc (fun v => { v with ctrCache := without line v.ctrCache })

/-- A full counter cache of 131,072 lines gives one of them up; which one is a free value. -/
def makeRoom (s : State) : State :=
  if s.svc.ctrCache.length < 131072 then s
  else useFree (evictCounter (s.svc.ctrCache.getD (freeBelow s.svc.ctrCache.length s) 0) s)

/-- The increments of a line that waited reach it in the cache. -/
def takePending (line : Nat) (s : State) : State :=
  forAll (fun set => onSvc (fun v => { v with
      ctrHeld := tabMod {} v.ctrHeld set (addInc (tabGet {} v.ctrPend set)), ctrPend := tabSet {} v.ctrPend set {} }))
    [2 * line, 2 * line + 1] s

/-- COUNTER_LINE_FILL_DONE: a line that missed is read into the cache, where the increments that waited reach it (R275); an
uncorrectable line is written back as zeros, and its sets restart from zero (R337, code 5). -/
def counterFillDone (line : Nat) (bad : Bool) (s : State) : State :=
  if ctrCached s line then s
  else
    readInjected 5 (counterBase + 64 * line) (if bad then 2 else 0) s
      |> makeRoom
      |> (fun s => useFree (chipPut 66 (freeBelow 131072 s) 1 s))
      |> takePending line
      |> onSvc (fun v => { v with ctrCache := line :: v.ctrCache, ctrFull := false })

def execCounterLineFillDone (line : Nat) (bad : Bool) (s : State) : Res :=
  need "counter line" (decide (line < 2621440)) (counterFillDone line bad s)

/-! Unknown labels (R272). -/

/-- A packet with an unknown label is dropped and counted; LABEL_UNKNOWN at most once per 1 ms. -/
def dropUnknown (label : Nat) (s : State) : State :=
  let due := match s.svc.unkAt with | none => true | some t => decide (t + ticksMs 1 ≤ upTime s)
  let n := s.svc.unkSince + 1
  onSvc (fun v => { v with
      unknown := satAdd max64 v.unknown 1, unkSince := if due then 0 else n
      unkAt := if due then some (upTime s) else v.unkAt }) s
    |> onlyIf due (raise 0x0680 23 0 0 (natBE 4 label ++ natBE 4 (min max32 n)))

/-- A packet whose line is uncorrectable is dropped and counted as such, until label.set rewrites the line (R272, R336/11). -/
def dropUncorrectable (s : State) : State := onSvc (fun v => { v with uncorr := satAdd max64 v.uncorr 1 }) s

/-! Ingress (R267, R271, R257/08). -/

/-- Bytes the ingress buffers of a host port hold: the packets with their shims. -/
def ingressUse (s : State) (nn : Nat) : Nat := ((tabGet [] s.svc.ingress nn).map (fun p => p.body.length + 4)).sum

/-- A packet of a channel label enters its transmit queue of 64 KiB, or is dropped and counted (R203, R204/06). -/
def gccPut (sc : Nat) (body : List Byte) (s : State) : State :=
  let pk := tpePacket 0 2 false body
  onTxFrame sc (fun f =>
    if f.gcc && decide (f.gccQ.length + pk.length ≤ 65536) then { f with gccQ := f.gccQ ++ pk }
    else { f with gccDrop := satAdd max32 f.gccDrop 1 }) s

def uocPut (sc : Nat) (body : List Byte) (s : State) : State :=
  let pk := tpePacket 0 2 false body
  onTxFrame sc (fun f =>
    if f.uoc && decide (f.uocQ.length + pk.length ≤ 65536) then { f with uocQ := f.uocQ ++ pk }
    else { f with uocDrop := satAdd max32 f.uocDrop 1 }) s

/-- The shim parser: the first case of R267 that applies. -/
def parseShim (nn : Nat) (pk : HostPacket) (s : State) : State :=
  let blk := portBlock (hostPort s nn).width pk.lane pk.count
  let l := shimLabel pk.shim
  let c := shimClass pk.shim
  if c = 2 ∧ 0x7FFF00 ≤ l ∧ l < 0x7FFF00 + 96 then gccPut (l - 0x7FFF00) pk.body s
  else if c = 2 ∧ 0x7FFF80 ≤ l ∧ l < 0x7FFF80 + 96 then uocPut (l - 0x7FFF80) pk.body s
  else if 2 ≤ c then onSvc (fun v => { v with badClass := satAdd max64 v.badClass 1 }) s
  else if lastLabel < l then dropUnknown l s
  else if ingressUse s nn + pk.body.length + 4 ≤ 65536 * (hostPort s nn).width then
    onSvc (fun v => { v with
      ingress := tabMod [] v.ingress nn (· ++ [{ pk with blk := blk, win := windowOf s nn blk }]) }) s
  else onSvc (fun v => { v with overflow := satAdd max64 v.overflow 1 }) s

/-- Blocks of a packet on a host port: the start block takes its shim's type byte and seven bytes, each data block eight,
and a terminate block the rest (R249/08). -/
def packetBlocks (n : Nat) : Nat := 2 + (n - 7) / 8

/-- The blocks of a packet on its port of `w` lanes: for each, its lane and that lane's block count (R255/08). Port block `n` is the
block after `n / w` others, and a marker each period, on its lane. -/
def packetSpan (w : Nat) (pk : HostPacket) : List (Nat × Nat) :=
  (List.range (packetBlocks (pk.body.length + 4))).map (fun i =>
    let n := portBlock w pk.lane pk.count - i
    (n % w, n / w + 1 + n / w / 81919))

/-- A packet spans a block of an uncorrectable codeword (R253/08). -/
def spansErrored (s : State) (nn : Nat) (pk : HostPacket) : Bool :=
  (packetSpan (hostPort s nn).width pk).any (fun b =>
    (laneOf s (nn + b.1)).errBlks.any (fun c => decide (c ≤ b.2) && decide (b.2 < c + 80)))

/-- HOST_PACKET_INGRESS on a port that is up: a packet that spans an errored block, or of a length outside 64 to 9,216,
is dropped and counted; a gap below 20 bytes is counted (R253, R257/08). -/
def hostIngress (nn : Nat) (pk : HostPacket) (s : State) : State :=
  let n := pk.body.length
  let bad := spansErrored s nn pk
  let s1 := onHostPort nn (fun h => { h with
    rxPk := satAdd max64 h.rxPk 1
    shortGap := if pk.gap < 20 then satAdd max64 h.shortGap 1 else h.shortGap
    dropErr := if bad then satAdd max64 h.dropErr 1 else h.dropErr
    dropLen := if !bad && (decide (n < 64) || decide (9216 < n)) then satAdd max64 h.dropLen 1 else h.dropLen }) s
  onlyIf (!bad && decide (64 ≤ n) && decide (n ≤ 9216)) (parseShim nn pk) s1

/-- While a port is down, the blocks on its ACTIVE lanes are discarded and counted, and no packet is taken (R256/08). -/
def downBlocks (nn : Nat) (pk : HostPacket) (s : State) : State :=
  let n := (packetSpan (hostPort s nn).width pk).countP (fun b => (laneOf s (nn + b.1)).st == .active)
  onHostPort nn (fun h => { h with discarded := satAdd max64 h.discarded n }) s

def hostPacket (nn : Nat) (pk : HostPacket) (s : State) : State :=
  match (hostPort s nn).st with
  | .up => hostIngress nn pk s
  | .down => downBlocks nn pk s
  | _ => s

def execHostPacketIngress (nn : Nat) (pk : HostPacket) (s : State) : Res :=
  need "host port" (okLane nn) (onlyIf (running s) (hostPacket nn pk) s)

/-! Lookup (R269 to R272). -/

/-- The head of a host port's queue leaves it. -/
def popIngress (nn : Nat) (s : State) : State :=
  onSvc (fun v => { v with ingress := tabMod [] v.ingress nn (·.drop 1) }) s

/-- A looked-up packet with its entry: its class, and the cells it costs (R290). -/
def lookedUp (pk : InPacket) (e : LabelEntry) : TxPacket :=
  let enc := e.ctx != 0xFFFF && !(bvBit pk.shim 6 && e.bypass)
  { win := pk.win.getD 0, nn := 0, label := shimLabel pk.shim, cls := if e.clsOvr = 0 then shimClass pk.shim else e.clsOvr - 1
    de := bvBit pk.shim 4, bypassOk := bvBit pk.shim 6, ts := bvBit pk.shim 5, body := pk.body, entry := e
    cells := cellsOf (pk.body.length + 6 + (if enc then 20 else 0)) }

/-- A transmit packet is encrypted (R269). -/
def encrypts (t : TxPacket) : Bool := t.entry.ctx != 0xFFFF && !(t.bypassOk && t.entry.bypass)

/-- The packet at the head of a host port has its line: it goes on to admission, or is dropped as unknown. -/
def finishLookup (nn : Nat) (pk : InPacket) (s : State) : State :=
  let e := entryOf s (shimLabel pk.shim)
  if e.valid then onSvc (fun v => { v with looked := v.looked ++ [{ lookedUp pk e with nn := nn }] }) (popIngress nn s)
  else dropUnknown (shimLabel pk.shim) (popIngress nn s)

/-- LABEL_LOOKUP: the head of a host port is looked up, in a pair in commit order; a miss starts a fill, or joins the one under way,
and holds back the port (R270, R271; R387/13). Point 0x0C0 has the lookup of its line handled as an uncorrectable read. -/
def labelLookup (nn : Nat) (s : State) : State :=
  match tabGet [] s.svc.ingress nn with
  | [] => s
  | pk :: _ =>
    let line := shimLabel pk.shim / 4
    let count (s : State) : State := onSvc (fun v => { v with lookups := satAdd max64 v.lookups 1 }) s
    let missed (s : State) : State := onSvc (fun v => { v with held := v.held ++ [nn], misses := satAdd max64 v.misses 1 })
      (count (paceEvent 37 0x20 1 s))
    if s.svc.held.contains nn || !(committed s pk && firstToCommit s nn pk) then s
    else if s.svc.fills.contains line then missed s
    else if injArmed s 0x0C0 && (injOf s 0x0C0).arg / 4 == line then
      dropUncorrectable (popIngress nn (losesLine line (count (paceToken 37 (injAct 0x0C0 s)))))
    else if s.svc.ueLines.contains line then dropUncorrectable (popIngress nn (count (paceToken 37 s)))
    else if cached s line then finishLookup nn pk (touchLine line (count (paceToken 37 s)))
    else if s.svc.fills.length < 256 then
      onSvc (fun v => { v with fills := v.fills ++ [line] }) (missed s)
    else s

def execLabelLookup (nn : Nat) (s : State) : Res :=
  need "host port" (okLane nn) (onlyIf (running s) (labelLookup nn) s)

/-- The head of a host port is released by the fill of its line. -/
def releaseHead (line : Nat) (bad : Bool) (nn : Nat) (s : State) : State :=
  match tabGet [] s.svc.ingress nn with
  | [] => s
  | pk :: _ =>
    if shimLabel pk.shim / 4 = line then
      let s1 := onSvc (fun v => { v with held := without nn v.held }) s
      if bad then dropUncorrectable (popIngress nn (paceToken 37 s1))
      else finishLookup nn pk (touchLine line (paceToken 37 s1))
    else s

/-- LABEL_FILL_DONE: the line is in the cache, or uncorrectable; the packets at the heads of the host ports that wait for it
go on (R270, R272). -/
def labelFillDone (line : Nat) (bad : Bool) (s : State) : State :=
  if s.svc.fills.contains line then
    let addr := labelBase + 64 * line
    let s1 := readInjected 4 addr (if bad then 2 else 0) (onSvc (fun v => { v with fills := v.fills.erase line }) s)
    let lost := s1.svc.ueLines.contains line
    onlyIf (!lost) (fun s => useFree (chipPut 65 (16 * cacheSet line + freeBelow 16 s) 1 (touchLine line s))) s1
      |> forAll (releaseHead line lost) s.svc.held
  else s

def execLabelFillDone (line : Nat) (bad : Bool) (s : State) : Res :=
  need "label line" (decide (line < 1310720)) (labelFillDone line bad s)

/-! The label commands. -/

/-- The line a label.set writes: the old one with the new entry in place, or, where it was uncorrectable, VALID-clear
entries around it (R336/11). -/
def newLine (s : State) (label : Nat) (entry : List Byte) (lost : Bool) : List Byte :=
  let addr := labelBase + 64 * (label / 4)
  overlay (16 * (label % 4)) entry (if lost then zeros 64 else bulkBytes s addr 64)

/-- Write an entry as label.set does (R273, R336/11). -/
def writeLabel (label : Nat) (entry : List Byte) (s : State) : State :=
  let line := label / 4
  let addr := labelBase + 64 * line
  let lost := lineLost s line
  store addr (newLine s label entry lost) 0 s
    |> onSvc (fun v => { v with ueLines := without line v.ueLines })
    |> onlyIf lost (raise 0x0681 23 0 0 (natBE 4 (4 * line)))

/-- label.set (0x0680). -/
def labelSet (r : Req) (s : State) : Reply :=
  let label := r.u 0 4
  let entry := field 4 16 r.pay
  if entryZeros entry = false then refuse .badarg s
  else if lastLabel < label ∨ entryOk entry = false then refuse .range s
  else okay (mirror (.label label entry) (writeLabel label entry s))

def execLabelSet (mb : Nat) (s : State) : Res := mailbox ⟨0x0680, some 20, []⟩ labelSet mb s

/-- label.get (0x0681). -/
def labelGet (r : Req) (s : State) : Reply :=
  let label := r.u 0 4
  if lastLabel < label then refuse .range s
  else if lineLost s (label / 4) then refuse .fault s
  else okWith (bulkBytes s (labelBase + 16 * label) 16 ++ [b2w (cached s (label / 4)), 0, 0, 0]) s

def execLabelGet (mb : Nat) (s : State) : Res := mailbox ⟨0x0681, some 4, []⟩ labelGet mb s

/-- A counter set is cleared: what memory, the cache and the pending buffer hold of it. -/
def clearCounters (set : Nat) (s : State) : State :=
  store (setAddr set) (zeros 32) 0
    (onSvc (fun v => { v with ctrPend := tabSet {} v.ctrPend set {}, ctrHeld := tabSet {} v.ctrHeld set {} }) s)

/-- label.counters (0x0682): a clear is a change of state, so the roles answer it as R61 gives. -/
def labelCounters (r : Req) (s : State) : Reply :=
  let set := r.u 0 4
  let clear := r.u 4 1 == 1
  if 1 < r.u 4 1 then refuse .badarg s
  else if lastLabel < set then refuse .range s
  else if clear && s.pair.role == 2 then refuse .denied s
  else if clear && s.pair.role == 3 then refuse .busy s
  else okWith (counterBytes s set) (onlyIf clear (clearCounters set) s)

def execLabelCounters (mb : Nat) (s : State) : Res := mailbox ⟨0x0682, some 8, [(5, 3)]⟩ labelCounters mb s

/-- label.profile (0x0683). -/
def labelProfile (r : Req) (s : State) : Reply :=
  if 15 < r.u 0 1 then refuse .badarg s
  else if r.u 2 2 < 1 ∨ r.u 4 2 < r.u 2 2 ∨ 256 < r.u 4 2 then refuse .range s
  else okay (onProfileOf (r.u 0 1) (fun _ => { de := r.u 2 2, normal := r.u 4 2 }) s)

def execLabelProfile (mb : Nat) (s : State) : Res := mailbox ⟨0x0683, some 6, [(1, 1)]⟩ labelProfile mb s

/-- label.stats (0x0684): the read clears the overrun flag. -/
def labelStats (_ : Req) (s : State) : Reply :=
  let v := s.svc
  okWith (natBE 8 v.lookups ++ natBE 8 v.misses ++ natBE 8 v.unknown ++ natBE 8 v.uncorr ++ natBE 8 v.badClass
    ++ natBE 8 v.overflow ++ natBE 8 v.stalls ++ natBE 4 v.fills.length ++ natBE 4 (b2n v.tsOverrun))
    (onSvc (fun v => { v with tsOverrun := false }) s)

def execLabelStats (mb : Nat) (s : State) : Res := mailbox (bareShape 0x0684) labelStats mb s

/-- label.tsread (0x0685). -/
def labelTsread (_ : Req) (s : State) : Reply :=
  match s.svc.tsFifo with
  | [] => okWith (zeros 24) s
  | t :: rest =>
    okWith ([1, 0, 0, 0] ++ natBE 4 t.label ++ natBE 2 t.trib ++ [0, 0] ++ tcBytes12 t.tc)
      (onSvc (fun v => { v with tsFifo := rest }) s)

def execLabelTsread (mb : Nat) (s : State) : Res := mailbox (bareShape 0x0685) labelTsread mb s

end Sys2Proof.Machine
end

