-- ==== Sys2Proof/Machine/Service.lean ====
section
/-! DEFINITION. Tributaries: admission, the slot mapper, delineation, skew, receive delivery, the map and its commits
(09_service_path.md R277 to R295). -/

namespace Sys2Proof.Machine

/-! Slots, rates and reservations (R280, R285, R288; R40, R41/01; R341, R344/11). -/

/-- Slot rate of class Fk in Mb/s: 5,280 at F6. -/
def slotRate (k : Nat) : Nat := 880 * k

/-- The transmit class of a slot's subcarrier whether or not the transmitter is on (R285). -/
def slotTxClass (s : State) (k : Nat) : Nat := txClass s (k / 40)

def slotRxClass (s : State) (k : Nat) : Nat := rxClass s (k / 40)

/-- The slot rate of a set of slots. -/
def rateOf (cls : Nat → Nat) (slots : List Nat) : Nat := (slots.map (fun k => slotRate (cls k))).sum

/-- The slot rate that counts: slots whose port transmits and whose subcarrier is lit (R280). -/
def liveRate (s : State) (t : Nat) : Nat :=
  rateOf (slotTxClass s) ((txSlots s t).filter (fun k => txLit s (k / 40)))

/-- The summed slot rate of the enabled directions, Mb/s (R285). -/
def deskewRate (s : State) (t : Trib) (tx rx : List Nat) : Nat :=
  (if t.txEn then rateOf (slotTxClass s) tx else 0) + (if t.rxEn then rateOf (slotRxClass s) rx else 0)

/-- Regions of a delay line: rate times differential, in regions of 32,768 data bits (R341/11). -/
def delayRegions (rate diff : Nat) : Nat := ceilDiv (rate * 100 * diff) 32768

/-- Raw bandwidth of a delay line, MB/s: twice the rate times 68/64 (R341/11). -/
def delayRate (rate : Nat) : Nat := rate * 17 / 64

/-- What a tributary's delay lines reserve: rate, regions. -/
def reservation (s : State) (t : Trib) (tx rx : List Nat) : Nat × Nat :=
  if t.bulk then (deskewRate s t tx rx, delayRegions (deskewRate s t tx rx) t.maxDiff) else (0, 0)

/-- Regions of the delay-line area (R326/11, R41/01). -/
def delayLineRegions : Nat := (spareBase - delayBase) / 4096

/-- The delay lines fit: 20.2752 Tb/s of payload, the area, and the present limit (R40, R41/01, R344/11). -/
def delayFits (s : State) (rs : List (Nat × Nat)) : Bool :=
  decide ((rs.map (·.1)).sum ≤ 20275200) && decide ((rs.map (·.2)).sum ≤ delayLineRegions)
    && decide ((rs.map (fun r => delayRate r.1)).sum ≤ 100 * delayLimit s)

/-- Record the reservation of one tributary. -/
def reserve (t : Nat) (s : State) : State :=
  let x := reservation s (tribOf s t) (txSlots s t) (rxSlots s t)
  onBulk (fun b => { b with
    reserve := tabSet 0 b.reserve t x.2, reserveRate := tabSet 0 b.reserveRate t (delayRate x.1) }) s

/-- The allocation: the one set, or 75 cells for each transmit slot (R288). -/
def allocation (s : State) (t : Nat) : Nat :=
  if (tribOf s t).alloc = 0 then 75 * (txSlots s t).length else (tribOf s t).alloc

/-- Two tributaries are hitless partners when each names the other (R287). -/
def partnerOf (s : State) (t : Nat) : Option Nat :=
  let u := (tribOf s t).partner
  if u < 3840 ∧ u ≠ t ∧ (tribOf s u).partner = t then some u else none

/-- The tributary whose queues feed a tributary's slots: the lower of two partners (R287). -/
def feeder (s : State) (t : Nat) : Nat := match partnerOf s t with
  | some u => min t u
  | none => t

/-! Admission (R290). -/

/-- Into the queue of the packet's class: its cells of queue memory are written. -/
def enqueue (t : Nat) (cls : Nat) (q : QPacket) (s : State) : State :=
  onTribOf (feeder s t) (fun x =>
    if cls = 1 then { x with express := x.express ++ [q] } else { x with normal := x.normal ++ [q] }) (queueCells q.cells s)

/-- A plain or encrypted body enters the queue of its tributary. -/
def enqueueBody (p : TxPacket) (enc : Bool) (body : List Byte) (s : State) : State :=
  enqueue p.entry.trib p.cls
    { bytes := tpePacket p.label p.cls enc body, trib := p.entry.trib, cells := p.cells, label := p.label, ts := p.ts
      win := p.win } s

/-- The tributary takes no packet: locked, in test, not enabled for transmit, or without transmit slots (R290, R444/16). -/
def noCapacity (s : State) (t : Nat) : Bool :=
  (tribOf s t).locked || (tribOf s t).testSend || !(tribOf s t).txEn || (txSlots s t).isEmpty

/-- The cells a packet may bring the tributary to (R290). -/
def creditLimit (s : State) (p : TxPacket) : Nat :=
  let share := if p.de then (profileOf s p.entry.profile).de else if p.cls = 1 then 256
    else (profileOf s p.entry.profile).normal
  allocation s p.entry.trib * share / 256

/-- A packet dropped at admission counts in DSET (R276). -/
def countDrop (p : TxPacket) : State → State := onlyIf (p.entry.dset != 0x7FFFFF) (countTx p.entry.dset p.body.length)

def dropNoCapacity (p : TxPacket) (s : State) : State :=
  countDrop p (onTribOf p.entry.trib (fun t => { t with noCap := satAdd max64 t.noCap 1 }) s)

def dropNoCredit (p : TxPacket) (s : State) : State :=
  countDrop p (onTribOf p.entry.trib (fun t =>
    if p.de then { t with noCreditDe := satAdd max64 t.noCreditDe 1 }
    else if p.cls = 1 then { t with noCreditExpress := satAdd max64 t.noCreditExpress 1 }
    else { t with noCreditNormal := satAdd max64 t.noCreditNormal 1 }) s)

/-- Admitted: its cells are occupied, CSET counts it, and it goes to the cipher or the queue. -/
def admitPacket (p : TxPacket) (s : State) : State :=
  let s1 := onTribOf p.entry.trib (fun t => { t with occ := t.occ + p.cells, admitted := satAdd max64 t.admitted 1 }) s
    |> countTx p.entry.cset p.body.length
  if encrypts p then onSvc (fun v => { v with cipherIn := v.cipherIn ++ [p] }) s1
  else enqueueBody p false p.body s1

/-- R290 admits the packet. -/
def admits (p : TxPacket) (s : State) : Bool :=
  !noCapacity s p.entry.trib && decide ((tribOf s p.entry.trib).occ + p.cells ≤ creditLimit s p)

/-- The admission rule of R290. -/
def admissionRule (p : TxPacket) (s : State) : State :=
  if noCapacity s p.entry.trib then dropNoCapacity p s
  else if creditLimit s p < (tribOf s p.entry.trib).occ + p.cells then dropNoCredit p s
  else admitPacket p s

/-- While it resynchronizes, a stand-in admits by the lead's decisions (R397/13). -/
def admissionDecided (p : TxPacket) (s : State) : State :=
  match s.pair.decisions.find? (fun d => d.1 == p.entry.trib) with
  | some d =>
    let s1 := onPair (fun x => { x with decisions := x.decisions.erase d }) s
    if d.2 then admitPacket p s1 else if noCapacity s p.entry.trib then dropNoCapacity p s1 else dropNoCredit p s1
  | none => admissionRule p s

/-- PACKET_ADMISSION: the first looked-up packet is judged, in a pair against the occupancy of its commit window, and the lead tells a
resynchronizing stand-in its decision (R397/13); while the pending
increment buffer is full it waits, and each wait is one counter stall (R275, R290; R389/13). Point 0x0C2 reports the buffer full. -/
def packetAdmission (s : State) : State :=
  match s.svc.looked with
  | [] => s
  | p :: rest =>
    let inj := injFor s 0x0C2 p.entry.trib
    let s0 := onlyIf inj (fun s => onInjOf 0x0C2 (fun i => { i with running := true }) (injAct 0x0C2 s)) s
    if counterFull s0 then
      onSvc (fun v => { v with
        stalls := if v.ctrFull then v.stalls else satAdd max64 v.stalls 1, ctrFull := true }) (onlyIf (!s0.svc.ctrFull) (paceEvent 38 0x21 1) s0)
    else
      let s1 := paceToken 38 (onSvc (fun v => { v with looked := rest, ctrFull := false }) s0)
      let s2 := onlyIf (!isSingle s) (takeCredit p.win p.entry.trib) s1
      if isStandIn s && s.pair.resync != 0 then admissionDecided p s2
      else onlyIf s.pair.farResync (mirror (.admission p.entry.trib (admits p s2))) (admissionRule p s2)

def execPacketAdmission (s : State) : Res := .next (onlyIf (running s) packetAdmission s)

/-! The slot mapper (R278, R281, R291, R292). -/

/-- The next packet of a tributary: express first (R292). -/
def nextPacket (t : Trib) : Option (QPacket × Trib) :=
  match t.express, t.normal with
  | q :: es, _ => some (q, { t with express := es })
  | [], q :: ns => some (q, { t with normal := ns })
  | [], [] => none

/-- The CHECK byte of a header sent inverted (point 0x0C1). -/
def invertCheck (bs : List Byte) : List Byte := bs.take 5 ++ ((bs.drop 5).take 1).map (~~~ ·) ++ bs.drop 6

/-- A timestamp record, or an overrun of the FIFO of 1,024 (R295, R19/01). -/
def timestamp (r : TsRecord) (s : State) : State :=
  onSvc (fun v => if v.tsFifo.length < 1024 then { v with tsFifo := v.tsFifo ++ [r] } else { v with tsOverrun := true }) s

/-- The next packet that a pair member may map into the slot-frame that departs at `dep` (R390/13). -/
def nextMappable (s : State) (dep : Nat) (t : Trib) : Option (QPacket × Trib) :=
  match t.express, t.normal with
  | q :: es, ns =>
    if mappable s dep q then some (q, { t with express := es })
    else (match ns with
      | [] => none
      | p :: ps => if mappable s dep p then some (p, { t with normal := ps }) else none)
  | [], p :: ps => if mappable s dep p then some (p, { t with normal := ps }) else none
  | [], [] => none

/-- At a packet boundary of tributary `t`: the next packet, or idle filler; the header of either may be sent with its CHECK
inverted. A stand-in whose empty point is not known sends idle filler (R398/13). -/
def startPacket (t dep : Nat) (s : State) : State :=
  let x := tribOf s t
  let inj := injFor s 0x0C1 t
  let header (bs : List Byte) : List Byte := if inj then invertCheck bs else bs
  let s0 := onlyIf inj (injAct 0x0C1) s
  match (if x.emptyKnown && x.txEn && !x.locked then nextMappable s dep x else none) with
  | some (q, x') =>
    onTribOf t (fun _ => { x' with cur := header q.bytes, curCells := q.cells, curTrib := q.trib }) s0
      |> onlyIf q.ts (timestamp { label := q.label, trib := q.trib, tc := dep })
  | none => onTribOf t (fun x => { x with idle := header idleFiller }) s0

/-- The cells of the packet just sent whole are freed; their credit is due, in a pair by the departure of the slot-frame that
carries its last byte (R291; R389/13). -/
def cellsFreed (t dep : Nat) (s : State) : State :=
  let x := tribOf s t
  onTribOf x.curTrib (fun y =>
    if isSingle s then { y with freed := y.freed + x.curCells }
    else { y with freedAt := y.freedAt ++ [(dep, x.curCells)] }) (onTribOf t (fun y => { y with curCells := 0 }) s)

/-- `n` bytes of a tributary's stream; a packet, once started, is sent without interruption (R278). The first argument bounds
the packets and fillers begun. -/
def streamBytes : Nat → Nat → Nat → Nat → List Byte → State → List Byte × State
  | 0, _, _, _, acc, s => (acc, s)
  | fuel + 1, t, dep, n, acc, s =>
    if n = 0 then (acc, s)
    else
      let x := tribOf s t
      if x.cur ≠ [] then
        let a := x.cur.take n
        let s1 := onTribOf t (fun y => { y with cur := y.cur.drop n }) s
        streamBytes fuel t dep (n - a.length) (acc ++ a) (onlyIf (decide (x.cur.length ≤ n)) (cellsFreed t dep) s1)
      else if x.idle ≠ [] then
        let a := x.idle.take n
        streamBytes fuel t dep (n - a.length) (acc ++ a) (onTribOf t (fun y => { y with idle := y.idle.drop n }) s)
      else streamBytes fuel t dep n acc (startPacket t dep s)

/-- One output byte of the test PRBS x^31 + x^28 + 1 (R444/16). -/
def prbs31 : Nat → Nat → Nat → Nat × Nat
  | 0, r, v => (r, v)
  | n + 1, r, v =>
    let b := b2n (bitOf r 30 != bitOf r 27)
    prbs31 n ((2 * r + b) % 2 ^ 31) (2 * v + b)

def prbsBytes : Nat → Nat → List Byte × Nat
  | 0, r => ([], r)
  | n + 1, r =>
    let x := prbs31 8 r 0
    let y := prbsBytes n x.1
    (byteOf x.2 :: y.1, y.2)

/-- The 231 bytes of a tributary's next slot-frame: the test pattern, or its stream; hitless partners carry the same bytes
(R287). -/
def slotBytes (t dep : Nat) (s : State) : List Byte × State :=
  let x := tribOf s t
  if x.testSend then
    let p := prbsBytes 231 x.prbs
    (p.1, onTribOf t (fun y => { y with prbs := p.2 }) s)
  else
    let own := x.copy.take 231
    let s1 := onTribOf t (fun y => { y with copy := y.copy.drop 231 }) s
    let r := streamBytes 300 (feeder s t) dep (231 - own.length) [] s1
    match partnerOf s t with
    | some u => (own ++ r.1, onTribOf u (fun y => { y with copy := y.copy ++ r.1 }) r.2)
    | none => (own ++ r.1, r.2)

/-- The slot-frame of slot `j`, as 40 x SC + slot, that departs at `at_` is the next one of tributary `t`: those of an earlier departure
and the lower slots of this one are filled, none later is (R281). -/
def nextToFill (s : State) (t j at_ : Nat) : Bool :=
  let pos := (tribOf s t).mapPos
  let due (i : Nat) : Bool := txLit s (i / 40) && at_ % frameTicks (txClass s (i / 40)) == 0
  pos.all (fun q => decide (q.1 < at_ ∨ (q.1 = at_ ∧ q.2 < j)))
    && (txSlots s t).all (fun i => decide (j ≤ i) || !due i || pos.any (fun q => q.1 == at_ && decide (i ≤ q.2)))

/-- SLOT_FRAME_MAP: slot `k` of the frame of `sc` that departs at `at_`, in the order of R281 (R278). -/
def slotMap (sc k at_ : Nat) (s : State) : State :=
  let o := (slotOwner s (40 * sc + k)).tx
  if txLit s sc && decide (o < 3840) && at_ % frameTicks (txClass s sc) == 0 && decide (now s ≤ at_) && nextToFill s o (40 * sc + k) at_ then
    let r := slotBytes o at_ (onTribOf o (fun x => { x with mapPos := some (at_, 40 * sc + k) }) s)
    onTxFrame sc (fun f => { f with slots := tabSet [] f.slots k r.1 }) r.2
  else s

def execSlotFrameMap (sc k at_ : Nat) (s : State) : Res :=
  need "slot" (okSc sc && okSlot k) (slotMap sc k at_ s)

/-- CREDIT_RETURN: freed cells reach the admission stage (R291). -/
def execCreditReturn (t : Nat) (s : State) : Res :=
  need "tributary" (okTrib t) (onTribOf t (fun x => { x with occ := x.occ - x.freed, freed := 0 }) s)

/-! Delineation (R279). -/

/-- The header at the front of a stream of marked bytes, and whether it lies outside any errored span. -/
def frontHeader (l : List (Byte × Bool)) : Nat := beNat ((l.take 6).map (·.1))

def frontClean (l : List (Byte × Bool)) : Bool := !(l.take 6).any (·.2)

/-- A valid header begins here: six bytes of it have come. -/
def validFront (l : List (Byte × Bool)) : Bool := decide (6 ≤ l.length) && tpeValid (frontHeader l)

/-- The header at the front is the next one: idle filler is passed, a packet's body is due. -/
def takeHeader (x : Trib) : Trib :=
  { x with
    delin := .sync, skip := 0, stream := x.stream.drop 6, pktBad := !frontClean x.stream
    pkt := if 0 < tpeLength (frontHeader x.stream) then some (frontHeader x.stream) else none }

/-- HUNT at the byte after the present one. -/
def huntOn (x : Trib) : Trib := { x with delin := .hunt, skip := 0, stream := x.stream.drop 1 }

/-- What a packet passed over adds to the delineation loss: it has ended, and one more is known to have begun. -/
def passedOver (x : Trib) : Nat := b2n (decide (0 < tpeLength (frontHeader x.stream)))

/-- The header that the delineation state asks about, once its six bytes are in the stream (R279); TRIB_DELINEATION at each entry to
HUNT from SYNC. -/
def headerReceive (t : Nat) (s : State) : State :=
  let x := tribOf s t
  match x.delin with
  | .hunt =>
    if x.stream.length < 6 then s
    else if validFront x.stream then
      onTribOf t (fun x => { x with delin := .presync, skip := 6 + tpeLength (frontHeader x.stream) }) s
    else onTribOf t huntOn s
  | .presync =>
    if x.stream.length < x.skip + 6 then s
    else if validFront (x.stream.drop x.skip) then
      onTribOf t (fun x => takeHeader { x with
        stream := x.stream.drop x.skip, delinLoss := satAdd max64 x.delinLoss (passedOver x) }) s
    else onTribOf t huntOn s
  | .sync =>
    if x.stream.length < 6 then s
    else if validFront x.stream && frontClean x.stream then onTribOf t takeHeader s
    else raise 0x0603 23 t 0 [] (onTribOf t huntOn s)

/-- TPE_HEADER_RECEIVE: the next header of a tributary that receives, once the packet before it is taken. -/
def execTpeHeaderReceive (t : Nat) (s : State) : Res :=
  need "tributary" (okTrib t) (onlyIf ((tribOf s t).rxEn && (tribOf s t).pkt.isNone) (headerReceive t) s)

/-! The test-pattern checker (R444/16). -/

/-- One received bit: 31 bits load the register, 64 consecutive correct bits bring sync, 32 errors within 1,024 bits lose
it; bits and bit errors count in sync. -/
def checkBit (b : Bool) (x : Trib) : Trib :=
  let want := bitOf x.chk 30 != bitOf x.chk 27
  if x.inSync then
    let err := b != want
    let n := x.chkErr + b2n err
    let lost := decide (32 ≤ n)
    { x with
      chk := (2 * x.chk + b2n want) % 2 ^ 31, bits := satAdd max64 x.bits 1
      bitErrs := satAdd max64 x.bitErrs (b2n err), inSync := !lost
      syncLoss := if lost then satAdd max32 x.syncLoss 1 else x.syncLoss
      chkErr := if lost || x.chkBits == 1023 then 0 else n
      chkBits := if lost || x.chkBits == 1023 then 0 else x.chkBits + 1, chkRun := if lost then 0 else x.chkRun }
  else
    let run := if x.chkRun < 31 then x.chkRun + 1 else if b = want then x.chkRun + 1 else 1
    { x with
      chk := (2 * x.chk + b2n b) % 2 ^ 31, chkRun := if run = 95 then 0 else run, inSync := run == 95
      chkErr := 0, chkBits := 0 }

def checkBits (bs : List Byte) (x : Trib) : Trib := (bs.flatMap byteBits).foldl (fun x b => checkBit b x) x

/-! Skew and hitless alignment (R285 to R287). -/

/-- Tolerated skew, ns: 8 us on chip, the maximum differential in bulk. -/
def skewTolerance (t : Trib) : Nat := if t.bulk then 100000 * t.maxDiff else 8000

/-- A slot-frame has an errored byte. -/
def frameErrored (f : SlotFrame) : Bool := f.bytes.any (·.2)

/-- A slot-frame is released in order: its bytes join the tributary's stream, or go to the test-pattern checker (R281, R444/16). -/
def releaseFrame (t : Nat) (f : SlotFrame) (s : State) : State :=
  onTribOf t (fun x =>
    if x.testCheck then checkBits (f.bytes.map (·.1)) x else { x with stream := x.stream ++ f.bytes }) s

/-- The slot-frames of the earliest timecode of a held list. -/
def group (d : Nat) (l : List SlotFrame) : List SlotFrame := l.takeWhile (fun f => f.dep == d)

/-- A later slot-frame is held, so the group of `d` is complete. -/
def groupDone (d : Nat) (l : List SlotFrame) : Bool := l.any (fun f => decide (d < f.dep))

/-- Partners release one timecode when both hold a later one: the lower's slot-frames unless any is errored, else the
partner's (R287). -/
def hitlessSettle (lo hi : Nat) (s : State) : State :=
  let a := (tribOf s lo).held
  let b := (tribOf s hi).held
  match a, b with
  | fa :: _, fb :: _ =>
    let d := min fa.dep fb.dep
    if groupDone d a && groupDone d b then
      let ga := group d a
      let gb := group d b
      let other := ga.isEmpty || ga.any frameErrored
      let s1 := onTribOf lo (fun x => { x with
          held := x.held.drop ga.length, hitless := if other then satAdd max64 x.hitless gb.length else x.hitless }) s
        |> onTribOf hi (fun x => { x with held := x.held.drop gb.length })
      forAll (releaseFrame lo) (if other then gb else ga) s1
    else s
  | _, _ => s

/-- Every slot-frame of the tributary with a departure up to `d` has arrived, or was taken as missing: of each receive slot on a lit
subcarrier, the last one due on its frame grid (R286). -/
def allArrived (s : State) (t d : Nat) : Bool :=
  (rxSlots s t).all (fun k =>
    !rxLit s (k / 40) || decide (d - d % frameTicks (rxClass s (k / 40)) < tabGet 0 (tribOf s t).seen k))

/-- The skew of slot-frames of one departure, ns: the latest arrival less the earliest, those taken as missing left out. -/
def skewOf (l : List SlotFrame) : Nat :=
  let a := l.filterMap (·.arr)
  (a.foldl max 0 - a.foldl min (a.headD 0)) / 65536

/-- The slot-frames of departure `d` leave: their skew is measured, beyond tolerance it raises TRIB_SKEW; they are released, or held
for the hitless partner's (R286, R287). -/
def releaseGroup (t d : Nat) (s : State) : State :=
  let x := tribOf s t
  let l := group d x.arrived
  let tol := skewTolerance x
  let s1 := onTribOf t (fun x => { x with skew := skewOf l, pos := d, arrived := x.arrived.drop l.length }) s
    |> onlyIf (decide (tol < skewOf l) && decide (x.skew ≤ tol)) (raise 0x0602 23 t 0 (natBE 4 (skewOf l)))
  match partnerOf s t with
  | some u => onTribOf t (fun x => { x with held := x.held ++ l }) s1 |> hitlessSettle (min t u) (max t u)
  | none => forAll (releaseFrame t) l s1

/-- SLOT_FRAME_RELEASE: the slot-frames of the earliest departure that waits are released once all of it has arrived (R286). -/
def slotRelease (t : Nat) (s : State) : State :=
  match (tribOf s t).arrived with
  | [] => s
  | f :: _ => onlyIf (allArrived s t f.dep) (releaseGroup t f.dep) s

def execSlotFrameRelease (t : Nat) (s : State) : Res :=
  need "tributary" (okTrib t) (onlyIf (tribOf s t).rxEn (slotRelease t) s)

/-- SLOT_FRAME_DEADLINE: a slot-frame missing at its deadline is taken as errored (R286); its bytes, which nothing gives, are
free values. -/
def slotMissing (t sc k dep : Nat) (s : State) : State :=
  if (slotOwner s (40 * sc + k)).rx = t then
    useFrees 231 (frameArrives t ⟨dep, none, sc, k, (freeList 231 s).map (fun n => (byteOf n, true))⟩ s)
  else s

def execSlotFrameDeadline (t sc k dep : Nat) (s : State) : Res :=
  need "slot" (okTrib t && okSc sc && okSlot k) (slotMissing t sc k dep s)

/-! Receive delivery (R293, R294). -/

/-- A packet enters the egress queue of the tributary's host port, with the counter set its delivery counts in, or finds no room
(R276, R294). -/
def deliver (t : Nat) (p : RxPacket) (cset : Nat) (s : State) : State :=
  let nn := (tribOf s t).egress
  if egressFits s nn p then egressPut nn { p with trib := t, cset := some cset } s
  else onTribOf t (fun x => { x with egOver := satAdd max64 x.egOver 1 }) s

/-- A slot of the tributary is received with the payload signal label of a locked one (R190, R191/06). -/
def farLocked (s : State) (t : Nat) : Bool :=
  (rxSlots s t).any (fun k => tabGet 0xFFF0 (rxFramer s (k / 40)).desc (k % 40) % 16 == 0xF)

/-- The tributary delivers nothing: not enabled, locked at either end, checking the test pattern, or PLM or SMM declared (R190,
R200/06, R284, R444/16). -/
def mute (s : State) (t : Nat) : Bool :=
  let x := tribOf s t
  !x.rxEn || x.locked || x.testCheck || farLocked s t || declared s 8 t || declared s 9 t

/-- The first case of R293 that applies to a received packet. -/
def receivePacket (t : Nat) (p : RxPacket) (s : State) : State :=
  let e := entryOf s p.label
  if !e.valid then onTribOf t (fun x => { x with unknownRx := satAdd max64 x.unknownRx 1 }) s
  else if e.trib ≠ t ∧ partnerOf s t ≠ some e.trib then
    onTribOf t (fun x => { x with mismatch := satAdd max64 x.mismatch 1 }) s
  else if p.errored then
    if (tribOf s t).delErr then deliver t p e.cset s
    else onTribOf t (fun x => { x with dropErr := satAdd max64 x.dropErr 1 }) s
  else if p.enc || (e.ctx != 0xFFFF && !e.bypass) then onSvc (fun v => { v with rxq := v.rxq ++ [p] }) s
  else deliver t p e.cset s

/-- The packet that a header, `bad` where it has a byte in an errored span, and the body behind it make (R277, R293). -/
def packetOf (t h : Nat) (bad : Bool) (body : List (Byte × Bool)) : RxPacket :=
  { trib := t, label := tpeLabel h, cls := tpeClass h, enc := tpeEnc h, body := body.map (·.1)
    errored := bad || body.any (·.2), authFail := false, replayed := false }

/-- A label line that a receive lookup reads and finds uncorrectable is lost (R272; R337/11, code 4). -/
def checkLine (label : Nat) (s : State) : State :=
  let line := label / 4
  onlyIf (decide (label ≤ lastLabel) && !cached s line && !s.svc.ueLines.contains line && wordBad s (labelBase + 64 * line))
    (readWord 4 (labelBase + 64 * line) 0) s

/-- PACKET_RECEIVE: the body of the packet whose header came is whole in the stream. -/
def packetReceive (t : Nat) (s : State) : State :=
  let x := tribOf s t
  match x.pkt with
  | none => s
  | some h =>
    let n := tpeLength h
    if x.stream.length < n then s
    else
      let s1 := onTribOf t (fun x => { x with stream := x.stream.drop n, pkt := none }) s
      onlyIf (!mute s t) (fun s => receivePacket t (packetOf t h x.pktBad (x.stream.take n)) (checkLine (tpeLabel h) s)) s1

def execPacketReceive (t : Nat) (s : State) : Res := need "tributary" (okTrib t) (packetReceive t s)

/-- The shim of a packet to the host (R266). -/
def rxShim (p : RxPacket) : Word :=
  BitVec.ofNat 32 (512 * p.label + 128 * p.cls + 64 * b2n p.errored + 32 * b2n p.authFail + 16 * b2n p.replayed)

/-- A delivered packet counts in its label's receive counters and its tributary's, whatever its flags (R276). -/
def countDelivered (p : RxPacket) (s : State) : State :=
  match p.cset with
  | none => s
  | some c => countRx c p.body.length
      (onTribOf p.trib (fun x => { x with delivered := satAdd max64 x.delivered 1 }) (paceToken 38 s))

/-- The pending increment buffer has no room for what the packet counts (R275). -/
def countWaits (p : RxPacket) (s : State) : Bool := match p.cset with
  | none => false
  | some c => !isStandIn s && !countRoom s c

/-- EGRESS_SEND: the head of a host port's queue leaves on its lanes and counts as delivered, once its increments find room; a port
that is not up drops it, as an egress drop (R276, R294, R262/08). -/
def egressSend (nn : Nat) (s : State) : State :=
  match tabGet [] s.svc.egress nn with
  | [] => s
  | p :: _ =>
    if (hostPort s nn).st = .up then
      if countWaits p s then s
      else
        onSvc (fun v => { v with
            egress := tabMod [] v.egress nn (·.drop 1), lastSent := some (rxShim p, p.body) }) s
          |> onHostPort nn (fun h => { h with txPk := satAdd max64 h.txPk 1 })
          |> countDelivered p
    else
      onSvc (fun v => { v with egress := tabMod [] v.egress nn (·.drop 1) }) s
        |> onHostPort nn (fun h => { h with egDrop := satAdd max64 h.egDrop 1 })

def execEgressSend (nn : Nat) (s : State) : Res := need "host port" (okLane nn) (egressSend nn s)

/-! The map (R280 to R284). -/

/-- Packets waiting in a tributary's queues are discarded, their cells freed at once, each counted as dropped for no
capacity (R284). -/
def freeQueued (l : List QPacket) (s : State) : State :=
  forAll (fun q => onTribOf q.trib (fun x => { x with occ := x.occ - q.cells, noCap := satAdd max64 x.noCap 1 })) l s

def discardQueues (t : Nat) (s : State) : State :=
  freeQueued ((tribOf s t).express ++ (tribOf s t).normal)
    (onTribOf t (fun x => { x with express := [], normal := [] }) s)

/-- The packet whose sending is in progress is cut; its cells are freed. -/
def cutPacket (t : Nat) (s : State) : State :=
  let x := tribOf s t
  onlyIf (decide (x.cur ≠ []))
    (fun s => onTribOf x.curTrib (fun y => { y with occ := y.occ - x.curCells })
      (onTribOf t (fun y => { y with cur := [], curCells := 0, idle := [], copy := [] }) s)) s

/-- A tributary has lost its last transmit slot (R283, R284). -/
def lostCapacity (t : Nat) (s : State) : State := raise 0x0601 23 t 0 [] (cutPacket t (discardQueues t s))

/-- Ports whose transmit map differs between two maps. -/
def changedPorts (old new : Tab SlotOwner) : List Nat :=
  allPorts.filter (fun p => (List.range 640).any (fun k =>
    (tabGet {} old (640 * p + k)).tx != (tabGet {} new (640 * p + k)).tx))

/-- Present owners of two maps differ somewhere. -/
def mapChanged (old new : Tab SlotOwner) : Bool :=
  (List.range 3840).any (fun k =>
    (tabGet {} old k).tx != (tabGet {} new k).tx || (tabGet {} old k).rx != (tabGet {} new k).rx)

/-- Tributaries with transmit slots in a map. -/
def txOwners (m : Tab SlotOwner) : List Nat := ((m.map (·.2.tx)).filter (fun t => decide (t < 3840))).dedup

/-- A new map is in force: versions, TRIB_REMAP_DONE, tributaries left without transmit slots, reservations (R283). -/
def installMap (m : Tab SlotOwner) (s : State) : State :=
  let ports := changedPorts s.svc.slot m
  let lost := (txOwners s.svc.slot).filter (fun t => !(txOwners m).contains t)
  let s1 := onSvc (fun v => { v with
    slot := m, mapVer := ports.foldl (fun t p => tabMod 0 t p (fun n => (n + 1) % 2 ^ 32)) v.mapVer }) s
  onlyIf (mapChanged s.svc.slot m) (raise 0x0600 23 0 0 [byteOf (listMask ports)]) s1
    |> forAll (fun p s => mirror (.versions p (tabGet 0 s.svc.mapVer p)) s) ports
    |> forAll lostCapacity (lost.foldr including [])
    |> (fun s => forAll reserve (tribKeys s) s)
    |> budgetCheck

/-- A map with the owners of every listed slot changed. -/
def mapSlots (f : Nat → SlotOwner → SlotOwner) (m : Tab SlotOwner) : Tab SlotOwner :=
  ((m.map (·.1)).dedup).foldl (fun t k => tabMod {} t k (f k)) m

/-- The owners of a commit take effect. -/
def commitMap (m : Tab SlotOwner) : Tab SlotOwner :=
  mapSlots (fun _ o => { o with tx := o.pTx, rx := o.pRx, pTx := 0xFFF, pRx := 0xFFF }) m

/-- Every slot of the given subcarriers loses its owners, in the present, staged and pending map (R283). -/
def removeScs (scs : List Nat) (m : Tab SlotOwner) : Tab SlotOwner :=
  mapSlots (fun k o => if scs.contains (k / 40) then {} else o) m

/-- Removal of the slots of subcarriers going dark, or taken out of service (R283). -/
def removeSlots (scs : List Nat) (s : State) : State := installMap (removeScs scs s.svc.slot) s

/-- A test setting that waited for the commit takes effect; the pattern starts with all ones (R444/16). -/
def testTaken (t : Trib) : Trib :=
  match t.testNext with
  | none => t
  | some (snd_, chk_) => { t with
      testSend := snd_, testCheck := chk_, testNext := none, prbs := 0x7FFFFFFF, chk := 0, chkRun := 0, chkErr := 0
      chkBits := 0, inSync := false, bits := 0, bitErrs := 0, syncLoss := 0 }

/-- TRIB_REMAP_CUE of a commit. -/
def remapCommit (s : State) : State :=
  installMap (commitMap s.svc.slot) (onSvc (fun v => { v with
    commit := none
    trib := (v.trib.map (fun e => (e.1, testTaken e.2))).filter (fun e => decide (e.2 ≠ {})) }) s)

/-- TRIB_REMAP_CUE beside a format change: the slots of the subcarriers gone dark are removed (R283). -/
def remapDark (p : Nat) (s : State) : State :=
  let gone := maskList 16 (txPort s p).goneDark
  removeSlots (gone.map (16 * p + ·)) (onTxPort p (fun t => { t with goneDark := 0 }) s)

/-- The staged map becomes the pending one. -/
def snapshotMap (m : Tab SlotOwner) : Tab SlotOwner := mapSlots (fun _ o => { o with pTx := o.stTx, pRx := o.stRx }) m

/-- A pending commit is committed: less than 2.0 ms away (R282). -/
def commitNear (s : State) : Bool := match s.svc.commit with
  | none => false
  | some c => decide (c.1 < now s + ticksMs 2)

/-- Place the remap cue of a commit at a boundary; a pending one is replaced (R282). -/
def placeCommit (boundary tag origin : Nat) (s : State) : Option State :=
  let s1 := match s.svc.commit with
    | none => s
    | some c => onSvc (fun v => { v with commitsReplaced := v.commitsReplaced + 1 }) (clearCue c.2 s)
  match freeShared s1 with
  | none => none
  | some i =>
    some (placeCue i { state := 1, kind := 4, origin := origin, time := boundary, tag := tag } s1
      |> onSvc (fun v => { v with commit := some (boundary, i), slot := snapshotMap v.slot }))

/-- The commit of a fill policy that waited for the one just taken is placed (R438/16). -/
def placeFill (s : State) : State :=
  match s.svc.fillAt with
  | none => s
  | some b => (placeCommit b 0 1 (onSvc (fun v => { v with fillAt := none }) s)).getD s

def tribRemap (i at_ : Nat) (s : State) : State :=
  let first := boundaryAfter (cueAt s i).time
  let p := (cueAt s i).obj
  clockTo at_ s
    |> (fun t => if (s.svc.commit.map (·.2)) = some i then remapCommit t else remapDark p t)
    |> cueDone i at_ first
    |> onlyIf ((s.svc.commit.map (·.2)) == some i) placeFill

def execTribRemapCue (i at_ : Nat) (s : State) : Res :=
  need "cue" (okCue i) (onlyIf (dueOnGrid s i 4 at_) (tribRemap i at_) s)

/-! The trib commands. -/

/-- The slots of one direction lie on one port. -/
def onePort (slots : List Nat) : Bool := match slots with
  | [] => true
  | k :: l => l.all (fun j => j / 640 == k / 640)

/-- Pending owners of a commit, by tributary. -/
def pendTx (s : State) (t : Nat) : List Nat := (s.svc.slot.filter (fun e => e.2.pTx == t)).map (·.1)
def pendRx (s : State) (t : Nat) : List Nat := (s.svc.slot.filter (fun e => e.2.pRx == t)).map (·.1)
def stagedTx (s : State) (t : Nat) : List Nat := (s.svc.slot.filter (fun e => e.2.stTx == t)).map (·.1)
def stagedRx (s : State) (t : Nat) : List Nat := (s.svc.slot.filter (fun e => e.2.stRx == t)).map (·.1)

/-- The present map, and the pending one, keep each direction of the tributary on one port. -/
def fitsOnChip (s : State) (t : Nat) : Bool :=
  onePort (txSlots s t) && onePort (rxSlots s t)
    && (s.svc.commit.isNone || (onePort (pendTx s t) && onePort (pendRx s t)))

/-- Equal numbers of slots on subcarriers of each class (R287). -/
def equalSlots (s : State) (a b : List Nat) : Bool :=
  [0, 2, 3, 4, 5, 6].all (fun k =>
    (a.filter (fun x => slotTxClass s x == k)).length == (b.filter (fun x => slotTxClass s x == k)).length)

/-- The settings of a trib.config request over the present tributary. -/
def configured (r : Req) (t : Trib) : Trib :=
  { t with
    txEn := bitOf (r.u 2 1) 0, rxEn := bitOf (r.u 2 1) 1, locked := bitOf (r.u 3 1) 0, delErr := bitOf (r.u 3 1) 1
    bulk := bitOf (r.u 3 1) 2, egress := r.u 4 2, maxDiff := r.u 6 2, alloc := r.u 8 4, partner := r.u 12 2
    delin := if bitOf (r.u 2 1) 1 then t.delin else .hunt
    arrived := if bitOf (r.u 2 1) 1 then t.arrived else [], stream := if bitOf (r.u 2 1) 1 then t.stream else []
    pkt := if bitOf (r.u 2 1) 1 then t.pkt else none, held := if bitOf (r.u 2 1) 1 then t.held else [] }

/-- The partner a setting names breaks R287: bulk deskew, and equal transmit slots once each names the other. -/
def partnerBreaks (s : State) (t : Nat) (x : Trib) : Bool :=
  x.partner != 0xFFFF &&
    (x.partner == t || !x.bulk
      || ((tribOf s x.partner).partner == t
        && (!(tribOf s x.partner).bulk || !equalSlots s (txSlots s t) (txSlots s x.partner))))

/-- The sum of allocations with tributary `t` taking `alloc`. -/
def allocations (s : State) (t alloc : Nat) : Nat :=
  (((tribKeys s).filter (· != t)).map (allocation s)).sum
    + (if alloc = 0 then 75 * (txSlots s t).length else alloc)

/-- The reservations of every tributary, `t` with the settings `x`. -/
def reservations (s : State) (t : Nat) (x : Trib) : List (Nat × Nat) :=
  reservation s x (txSlots s t) (rxSlots s t)
    :: ((tribKeys s).filter (· != t)).map (fun u => reservation s (tribOf s u) (txSlots s u) (rxSlots s u))

/-- trib.config (0x0600). -/
def tribConfig (r : Req) (s : State) : Reply :=
  let t := r.u 0 2
  let x := configured r (tribOf s t)
  if 3839 < t ∨ (3839 < x.partner ∧ x.partner ≠ 0xFFFF) then refuse .badarg s
  else if (if x.bulk then x.maxDiff < 1 ∨ 60 < x.maxDiff else x.maxDiff ≠ 0)
      ∨ 294912 < allocations s t x.alloc then refuse .range s
  else if x.bulk && !delayFits s (reservations s t x) then refuse .nores s
  else if (x.egress ≠ 0xFFFF ∧ portDefined s x.egress = false) ∨ (x.bulk = false ∧ fitsOnChip s t = false)
      ∨ partnerBreaks s t x = true then refuse .denied s
  else okay (onTribOf t (fun _ => x) s |> onlyIf (x.locked && !(tribOf s t).locked) (discardQueues t) |> reserve t)

def execTribConfig (mb : Nat) (s : State) : Res := mailbox ⟨0x0600, some 16, [(14, 2)]⟩ tribConfig mb s

/-- trib.stage (0x0601). -/
def tribStage (r : Req) (s : State) : Reply :=
  let t := r.u 0 2
  let sc := r.u 2 1
  let mask := r.u 4 5
  let o := if t = 0xFFFF then 0xFFF else t
  if (3839 < t ∧ t ≠ 0xFFFF) ∨ 95 < sc ∨ mask = 0 ∨ r.u 3 1 = 0 then refuse .badarg s
  else okay (forAll (fun k => onSlotOwner (40 * sc + k) (fun x => { x with
    stTx := if bitOf (r.u 3 1) 0 then o else x.stTx, stRx := if bitOf (r.u 3 1) 1 then o else x.stRx })) (maskList 40 mask) s)

def execTribStage (mb : Nat) (s : State) : Res := mailbox ⟨0x0601, some 12, [(9, 3)]⟩ tribStage mb s

/-- The staged map breaks a rule: more than 640 slots of a direction, R285, or R287. -/
def stagedBreaks (s : State) : Bool :=
  let ts := ((s.svc.slot.flatMap (fun e => [e.2.stTx, e.2.stRx])) ++ s.svc.trib.map (·.1)).dedup.filter (fun t => decide (t < 3840))
  ts.any (fun t =>
    decide (640 < (stagedTx s t).length) || decide (640 < (stagedRx s t).length)
      || (!(tribOf s t).bulk && !(onePort (stagedTx s t) && onePort (stagedRx s t)))
      || (match partnerOf s t with | some u => !equalSlots s (stagedTx s t) (stagedTx s u) | none => false))
    || !delayFits s (ts.map (fun t => reservation s (tribOf s t) (stagedTx s t) (stagedRx s t)))

/-- trib.commit (0x0602). -/
def tribCommit (r : Req) (s : State) : Reply :=
  match wantedBoundary 0 r s with
  | none => refuse .range s
  | some b =>
    if commitNear s || stagedBreaks s then refuse .denied s
    else match placeCommit b r.tag 0 s with
      | none => refuse .nores s
      | some t =>
        okWith (tcBytes10 b ++ [byteOf (listMask (changedPorts s.svc.slot (commitMap t.svc.slot)))
          , b2w s.svc.commit.isSome] ++ zeros 4) t

def execTribCommit (mb : Nat) (s : State) : Res := mailbox ⟨0x0602, some 12, [(10, 2)]⟩ tribCommit mb s

def delinNum : Delin → Nat
  | .hunt => 0 | .presync => 1 | .sync => 2

/-- trib.status (0x0603). -/
def tribStatus (r : Req) (s : State) : Reply :=
  let t := r.u 0 2
  let x := tribOf s t
  if 3839 < t then refuse .badarg s
  else okWith ([byteOf (b2n x.txEn + 2 * b2n x.rxEn + 4 * b2n x.locked + 8 * b2n (noCapacity s t))
      , byteOf (delinNum x.delin)]
    ++ natBE 2 (txSlots s t).length ++ natBE 2 (rxSlots s t).length ++ [0, 0] ++ natBE 4 (liveRate s t)
    ++ natBE 4 (allocation s t) ++ natBE 4 x.occ ++ natBE 4 x.skew ++ natBE 8 x.admitted ++ natBE 8 x.noCreditDe
    ++ natBE 8 x.noCreditNormal ++ natBE 8 x.noCreditExpress ++ natBE 8 x.noCap ++ natBE 8 x.delivered
    ++ natBE 8 x.dropErr ++ natBE 8 x.mismatch ++ natBE 8 x.delinLoss ++ natBE 8 x.egOver ++ natBE 8 x.hitless
    ++ natBE 8 x.unknownRx) s

def execTribStatus (mb : Nat) (s : State) : Res := mailbox ⟨0x0603, some 4, [(2, 2)]⟩ tribStatus mb s

end Sys2Proof.Machine
end

