-- ==== Sys2Proof/Machine/Cipher.lean ====
section
/-! DEFINITION. The service cipher: contexts, key installation, packets, limits, rollover, replay and lanes
(10_service_cipher.md). -/

namespace Sys2Proof.Machine

/-! Key slots (R297, R301). -/

/-- The key check value: 3 bytes of the encryption of 16 bytes of 0x5A (R301). -/
def kcv (k : Option KeySlot) : List Byte := match k with
  | none => zeros 3
  | some k => (aesBlock (roundKeys k.key) (List.replicate 16 0x5A)).take 3

def slotAn (k : Option KeySlot) : Nat := match k with
  | none => 0xFF
  | some k => k.an

/-- A slot as installed: H = 0 and an empty bitmap (R302). -/
def freshSlot (key salt an : Nat) : KeySlot :=
  { key := key, salt := salt, an := an, h := 0, win := [], edge := 0, rxOnly := false }

def holdsAn (k : Option KeySlot) (an : Nat) : Bool := slotAn k == an
def holdsKey (k : Option KeySlot) (key : Nat) : Bool := match k with
  | none => false
  | some k => k.key == key

/-- The cue of a context's pending rollover. -/
def rolloverPending (x : Ctx) : Bool := x.roll.isSome

/-! Announcing a rollover (R312). -/

/-- The 16 bytes of a rollover announcement cell. -/
def rolloverCell (c an r : Nat) : List Byte :=
  [byteOf (128 + 32 + 16 + 13), 0] ++ natBE 2 c ++ [byteOf an] ++ natBE 6 (tcSec r) ++ natBE 4 (tcNs r) ++ [0]

/-- Into the lowest-numbered lit transmit subcarrier of every lit port, for 3 frames. -/
def announceCell (cell : List Byte) (s : State) : State :=
  forAll (fun p s => match (portScs p).find? (txLit s) with
    | some sc => onTxFrame sc (fun f => { f with ann := f.ann ++ [(cell, 3)] }) s
    | none => s) allPorts s

/-- Announce the rollover of cue `i`; in a lease gap the announcement waits (R386/13). -/
def announceRollover (c i : Nat) (s : State) : State :=
  let x := ctxOf s c
  match x.roll with
  | none => s
  | some (r, _, _) =>
    if s.pair.role ≤ 1 then announceCell (rolloverCell c (slotAn x.nxt) r) s
    else onCues (fun q => { q with waiting := if s.pair.role = 3 then q.waiting ++ [i] else q.waiting }) s

/-- The sixteen words of a context are written (R330/11). -/
def contextPut (c : Nat) (s : State) : State := chipPut 67 (2 * c) 2 s

/-! Installing keys (R302 to R304; R72/02). -/

/-- Install a key: OK into the empty current slot, else into the next one; with the current key retired the rollover is
placed at once, by a single module or the lead (R304, R322). -/
def installKey (j : KeyJob) (s : State) : Nat × State :=
  let x := ctxOf s j.ctx
  let k := freshSlot j.key j.salt j.an
  if 40959 < j.ctx then (4, s)
  else if holdsKey x.cur j.key || holdsKey x.nxt j.key || rolloverPending x then (3, s)
  else if x.cur.isNone then
    if holdsAn x.nxt j.an then (3, s)
    else (0, onCtxOf j.ctx (fun x => { x with
      cur := some k, pn := 1, bytes := 0, retired := false, softP := false, softB := false }) s)
  else if holdsAn x.cur j.an then (3, s)
  else
    let s1 := onCtxOf j.ctx (fun x => { x with nxt := some k }) s
    if x.retired && decide (s.pair.role ≤ 1) then
      match freeShared s with
      | none => (6, s)
      | some i =>
        let r := boundaryAfter (now s + ticksUs 200)
        (0, placeCue i { state := 1, kind := 2, origin := 1, obj := j.ctx, time := r } s1
          |> mirror (.cuePlace i 2 j.ctx r 0 0)
          |> onCtxOf j.ctx (fun x => { x with roll := some (r, i, true) })
          |> announceRollover j.ctx i)
    else (0, s1)

/-- KEY_INSTALL_DONE: the captured key is placed or refused, RESULT is set and PENDING clears. -/
def keyInstallDone (s : State) : State :=
  match s.ctrl.keyJob with
  | none => s
  | some j =>
    let r := installKey j s
    onCtrl (fun c => { c with keyJob := none, keyResult := r.1 }) (onlyIf (r.1 == 0) (contextPut j.ctx) r.2)

/-- A captured key is placed in any stage: the copy is the block's own work and PENDING falls at its end (R72/02). -/
def execKeyInstallDone (s : State) : Res := .next (keyInstallDone s)

/-! Lanes (R317 to R319). -/

/-- Change the lanes of a direction: 0 transmit, 1 receive. -/
def onLanes (d : Nat) (f : Lanes → Lanes) (s : State) : State :=
  onCipher (fun c => if d = 0 then { c with tx := f c.tx } else { c with rx := f c.rx }) s

/-- The time of `n` blocks of 16 bytes at 1.75 Tb/s, in ticks (R317). -/
def blockTicks (n : Nat) : Nat := ceilDiv (ticksNs (128 * n)) 1750

/-- A lane's work at instant `t`: none where it is free. After an express packet the suspended one resumes (R320). -/
def workAt (t : Nat) (l : Lanes) (k : Nat) : Option LaneWork :=
  let w := tabGet {} l.work k
  if t < w.ends then some w
  else match w.held with
    | some left => if t < w.ends + left then some { express := false, ends := w.ends + left, held := none } else none
    | none => none

/-- When a lane is free. -/
def freeAt (t : Nat) (l : Lanes) (k : Nat) : Nat :=
  match workAt t l k with
  | none => t
  | some w => w.ends + w.held.getD 0

/-- The lane of a list that is free first, the lower number on a tie. -/
def freeFirst (t : Nat) (l : Lanes) : List Nat → Option Nat
  | [] => none
  | k :: ks =>
    match freeFirst t l ks with
    | none => some k
    | some j => if freeAt t l k ≤ freeAt t l j then some k else some j

/-- The lane that takes a packet of `n` blocks at instant `t`, and its work: the lowest-numbered free active one; else an express packet
suspends a normal one, on the lowest-numbered lane that works on one, at its next block boundary; else the packet waits for the first
lane to be free (R317, R320). -/
def takeLane (t : Nat) (express : Bool) (n : Nat) (l : Lanes) : Option (Nat × LaneWork) :=
  match l.active.find? (fun k => (workAt t l k).isNone) with
  | some k => some (k, { express := express, ends := t + blockTicks n, held := none })
  | none =>
    match l.active.findSome? (fun k => match workAt t l k with
        | some w => if express && !w.express then some (k, w) else none
        | none => none) with
    | some (k, w) =>
      let left := (w.ends - t) / blockTicks 1 * blockTicks 1
      some (k, { express := true, ends := w.ends - left + blockTicks n, held := some left })
    | none => (freeFirst t l l.active).map (fun k =>
        (k, { express := express, ends := freeAt t l k + blockTicks n, held := none }))

/-- The comparisons that fail on a lane: those observed, or those of the injection points 0x0E0 + d and 0x0E2 + d. -/
def mismatches (s : State) (d lane mism : Nat) : Nat :=
  max (min 2 mism) (if injFor s (0x0E2 + d) lane then 2 else if injFor s (0x0E0 + d) lane then 1 else 0)

/-- A packet that mismatched: counted, CIPHER_MISMATCH with its outcome, one fault of the lane (R318). -/
def cipherMismatch (d lane n : Nat) (s : State) : State :=
  onlyIf (injFor s (0x0E2 + d) lane) (injAct (0x0E2 + d)) s
    |> onlyIf (!injFor s (0x0E2 + d) lane && injFor s (0x0E0 + d) lane) (injAct (0x0E0 + d))
    |> onLanes d (fun l => { l with
        mism := satAdd max64 l.mism n
        matched := if n = 1 then satAdd max64 l.matched 1 else l.matched
        dropped := if n = 2 then satAdd max64 l.dropped 1 else l.dropped })
    |> raise 0x0706 15 0 0 [byteOf d, byteOf lane, byteOf (n - 1)]
    |> unitFault 4 (13 * d + lane)

/-- A packet of class `cls` and `len` bytes on its lane: a mismatch has it computed once more; the lane's mismatches are counted.
Answers whether it is released (R318, R320). -/
def throughLane (d mism cls len : Nat) (s : State) : Bool × State :=
  match takeLane (upTime s) (cls == 1) (ceilDiv len 16) (cipherLanes s d) with
  | none => (false, onLanes d (fun l => { l with dropped := satAdd max64 l.dropped 1 }) s)
  | some (lane, w) =>
    let n := mismatches s d lane mism
    let again := if n = 0 then 0 else blockTicks (ceilDiv len 16)
    (decide (n < 2), onlyIf (decide (0 < n)) (cipherMismatch d lane n)
      (onLanes d (fun l => { l with work := tabSet {} l.work lane { w with ends := w.ends + again } }) s
        |> onlyIf w.held.isSome (paceEvent (39 + d) 0x22 1)))

/-- CIPHER_LANE_RETIRE, at the lane's packet boundary: the queued retirement of a lane of this direction; the spare takes its work, or it
is removed (R319). -/
def laneRetire (d : Nat) (s : State) : State :=
  match nextRetirement s 4 with
  | none => s
  | some i =>
    if i / 13 ≠ d then s
    else
      let lane := i % 13
      let l := cipherLanes s d
      let s1 := retired 4 i s
      match l.spare with
      | sp :: rest =>
        onLanes d (fun l => { l with active := including sp (without lane l.active), spare := rest, work := tabSet {} l.work lane {} }) s1
          |> raise 0x0707 15 0 0 [byteOf d, byteOf lane, byteOf sp]
      | [] =>
        let act := without lane l.active
        onLanes d (fun l => { l with active := act, work := tabSet {} l.work lane {} }) s1
          |> raise 0x0707 15 0 0 [byteOf d, byteOf lane, 0xFF]
          |> raise 0x0708 15 0 0 [byteOf d, byteOf act.length]

def execCipherLaneRetire (d : Nat) (s : State) : Res := need "direction" (okDir d) (laneRetire d s)

/-! Transmit (R305 to R309). -/

/-- The 96-bit IV: salt, then the packet number with the sender's direction bit in bit 63 (R306). -/
def ivOf (salt : Nat) (d : Bool) (pn : Nat) : Nat := salt * 2 ^ 64 + b2n d * 2 ^ 63 + pn % 2 ^ 62

/-- The security tag: AN and PN_LOW (R305). -/
def secTag (an pn : Nat) : List Byte := natBE 4 (an * 2 ^ 30 + pn % 2 ^ 30)

/-- The additional data: header bits [47:8], then the tag (R306). -/
def aadOf (label cls len : Nat) (tag : List Byte) : List Byte := natBE 5 (tpeHeader label cls true len / 256) ++ tag

/-- The protected body: tag, ciphertext, ICV (R305). -/
def protect (k : KeySlot) (d : Bool) (pn label cls : Nat) (body : List Byte) : List Byte :=
  let iv := ivOf k.salt d pn
  let tag := secTag k.an pn
  let ct := gcmCrypt k.key iv body
  tag ++ ct ++ gcmTag k.key iv (aadOf label cls (body.length + 20) tag) ct

/-- A packet's cells are freed at once (R309). -/
def freeCells (p : TxPacket) (s : State) : State := onTribOf p.entry.trib (fun t => { t with occ := t.occ - p.cells }) s

/-- Dropped for no key or a retired key (R308, R309). -/
def dropNoKey (p : TxPacket) (s : State) : State :=
  onCtxOf p.entry.ctx (fun x => { x with txDrop := satAdd max64 x.txDrop 1 }) (freeCells p s)

/-- The packet would take the key beyond a hard limit (R308). -/
def overHard (s : State) (x : Ctx) (len : Nat) : Bool :=
  decide ((limitsOf s x.prof).hardP < x.pn) || decide ((limitsOf s x.prof).hardB < x.bytes + len)

/-- The soft limits reached with this packet: CTX_SOFT_LIMIT once per key and limit (R308). -/
def softLimits (c : Nat) (s : State) : State :=
  let x := ctxOf s c
  let l := limitsOf s x.prof
  let p := !x.softP && decide (l.softP ≤ x.pn - 1)
  let b := !x.softB && decide (l.softB ≤ x.bytes)
  onCtxOf c (fun x => { x with softP := x.softP || p, softB := x.softB || b }) s
    |> onlyIf (p || b) (raise 0x0700 24 c 0 [byteOf (slotAn x.cur), byteOf (b2n p + 2 * b2n b)])

/-- Encrypt one packet under the current key with the next packet number (R307). -/
def encryptPacket (p : TxPacket) (mism : Nat) (s : State) : State :=
  let c := p.entry.ctx
  let x := ctxOf s c
  match x.cur with
  | none => dropNoKey p s
  | some k =>
    if x.retired then dropNoKey p s
    else if overHard s x p.body.length then
      dropNoKey p (onCtxOf c (fun x => { x with retired := true }) s) |> raise 0x0701 24 c 0 [byteOf k.an]
    else
      let body := protect k x.d x.pn p.label p.cls p.body
      let s1 := onCtxOf c (fun x => { x with pn := x.pn + 1, bytes := x.bytes + p.body.length }) s |> softLimits c
      let r := throughLane 0 mism p.cls p.body.length s1
      if r.1 then enqueueBody p true body r.2 else freeCells p r.2

/-- The head of the transmit cipher's input. -/
def packetEncrypt (mism : Nat) (s : State) : State :=
  match s.svc.cipherIn with
  | [] => s
  | p :: rest => encryptPacket p mism (onSvc (fun v => { v with cipherIn := rest }) s)

def execPacketEncrypt (mism : Nat) (s : State) : Res := .next (packetEncrypt mism s)

/-! Receive (R314 to R316). -/

/-- The kinds of failure of CTX_RX_FAIL. -/
inductive RxFail where
  | unprotected | noKey | auth | replayed
  deriving DecidableEq, Repr

def failNum : RxFail → Nat
  | .unprotected => 1 | .noKey => 2 | .auth => 3 | .replayed => 4

/-- Count a failure; CTX_RX_FAIL at most once per 1 ms (R315). -/
def countFail (c : Nat) (k : RxFail) (s : State) : State :=
  let due := match s.cipher.failAt with | none => true | some t => decide (t + ticksMs 1 ≤ upTime s)
  let n := s.cipher.failSince + 1
  onlyIf (decide (c < 40960)) (onCtxOf c (fun x => match k with
      | .unprotected => { x with fUnprot := satAdd max64 x.fUnprot 1 }
      | .noKey => { x with fNoKey := satAdd max64 x.fNoKey 1 }
      | .auth => { x with fAuth := satAdd max64 x.fAuth 1 }
      | .replayed => { x with fReplay := satAdd max64 x.fReplay 1 })) s
    |> onCipher (fun y => { y with failSince := if due then 0 else n, failAt := if due then some (upTime s) else y.failAt })
    |> onlyIf due (raise 0x0704 24 c 0 (natBE 4 (min max32 n) ++ [byteOf (failNum k)]))

/-- The number rebuilt from the low 30 bits and H (R314). -/
def rebuildPn (h low : Nat) : Nat :=
  let e := h + 1
  let base := if 2 ^ 29 ≤ e then e - 2 ^ 29 else 0
  base + (low + 2 ^ 30 - base % 2 ^ 30) % 2 ^ 30

/-- The number is at or below the window's edge, or seen (R314, R316). -/
def seenPn (k : KeySlot) (w pn : Nat) : Bool := decide (pn + w ≤ k.h) || decide (0 < k.edge ∧ pn ≤ k.edge) || k.win.contains pn

/-- The window with `pn` accepted. -/
def acceptPn (w pn : Nat) (k : KeySlot) : KeySlot :=
  let h := max k.h pn
  { k with h := h, win := (pn :: k.win).filter (fun n => decide (h < n + w)) }

/-- Change the slot of a context that holds an AN. -/
def onSlotAn (c an : Nat) (f : KeySlot → KeySlot) (s : State) : State :=
  onCtxOf c (fun x =>
    if holdsAn x.cur an then { x with cur := x.cur.map f } else { x with nxt := x.nxt.map f }) s

def slotFor (x : Ctx) (an : Nat) : Option KeySlot :=
  if holdsAn x.cur an then x.cur else if holdsAn x.nxt an then x.nxt else none

/-- A failed packet: counted, and delivered with its flag where R315 allows it. -/
def failPacket (c : Nat) (k : RxFail) (p : RxPacket) (cset : Nat) (plain : List Byte) (s : State) : State :=
  let shown := (ctxOf s c).delFailed && (k == .auth || k == .replayed)
  countFail c k s
    |> onlyIf shown (deliver p.trib { p with body := plain, authFail := k == .auth, replayed := k == .replayed } cset)

/-- The checks of R314 on a packet with a key. Points 0x0E4 and 0x0E5 invert a byte of the ICV, and check the packet
twice. -/
def checkPacket (c : Nat) (k : KeySlot) (p : RxPacket) (cset : Nat) (s : State) : State :=
  let x := ctxOf s c
  let tag := p.body.take 4
  let ct := (p.body.drop 4).take (p.body.length - 20)
  let icv := p.body.drop (p.body.length - 16)
  let flip := injFor s 0x0E4 c
  let twice := injFor s 0x0E5 c
  let pn := rebuildPn k.h (beNat tag % 2 ^ 30)
  let iv := ivOf k.salt (!x.d) pn
  let plain := gcmCrypt k.key iv ct
  let icv' := if flip then (icv.take 1).map (~~~ ·) ++ icv.drop 1 else icv
  let s1 := onlyIf flip (injAct 0x0E4) (onlyIf twice (injAct 0x0E5) s)
  if seenPn k x.w pn then failPacket c .replayed p cset plain s1
  else if 2 ^ 62 < pn ∨ gcmTag k.key iv (aadOf p.label p.cls p.body.length tag) ct ≠ icv' then
    failPacket c .auth p cset plain s1
  else
    onSlotAn c k.an (acceptPn x.w pn) s1
      |> onCtxOf c (fun x => { x with rxOk := satAdd max64 x.rxOk 1 })
      |> deliver p.trib { p with body := plain } cset
      |> onlyIf twice (countFail c .replayed)

/-- One packet of the receive cipher (R314). -/
def decryptPacket (p : RxPacket) (mism : Nat) (s : State) : State :=
  let e := entryOf s p.label
  if !p.enc then
    if e.ctx = 0xFFFF ∨ e.bypass then deliver p.trib p e.cset s else failPacket e.ctx .unprotected p e.cset p.body s
  else if e.ctx = 0xFFFF then countFail e.ctx .noKey s
  else match slotFor (ctxOf s e.ctx) (beNat (p.body.take 4) / 2 ^ 30) with
    | none => countFail e.ctx .noKey s
    | some k =>
      let r := throughLane 1 mism p.cls (p.body.length - 20) s
      if r.1 then checkPacket e.ctx k p e.cset r.2 else r.2

/-- The head of the receive cipher's input. -/
def packetDecrypt (mism : Nat) (s : State) : State :=
  match s.svc.rxq with
  | [] => s
  | p :: rest => decryptPacket p mism (onSvc (fun v => { v with rxq := rest }) s)

def execPacketDecrypt (mism : Nat) (s : State) : Res := .next (packetDecrypt mism s)

/-! Rollover (R310 to R313). -/

/-- Packets admitted before the boundary keep the old key: those of the context, and those ahead of them, are encrypted
first. The first argument bounds their number. -/
def drainContext : Nat → Nat → State → State
  | 0, _, s => s
  | n + 1, c, s => if s.svc.cipherIn.any (fun p => p.entry.ctx == c) then drainContext n c (packetEncrypt 0 s) else s

/-- The next slot becomes current, the previous current slot becomes next and receive-only; CTX_ROLLED (R310). -/
def rollover (c : Nat) (auto : Bool) (s : State) : State :=
  let s1 := drainContext s.svc.cipherIn.length c s
  onCtxOf c (fun x => { x with
      cur := x.nxt, nxt := x.cur.map (fun k => { k with rxOnly := true })
      pn := 1, bytes := 0, retired := false, softP := false, softB := false, roll := none }) s1
    |> (fun s => raise 0x0702 24 c 0 [byteOf (slotAn (ctxOf s c).cur), b2w auto] s)

def rolloverCue (i at_ : Nat) (s : State) : State :=
  let c := (cueAt s i).obj
  let auto := match (ctxOf s c).roll with | some (_, _, a) => a | none => false
  clockTo at_ s |> rollover c auto |> cueDone i at_ (boundaryAfter (cueAt s i).time)

def execRolloverCue (i at_ : Nat) (s : State) : Res :=
  need "cue" (okCue i) (onlyIf (dueOnGrid s i 2 at_) (rolloverCue i at_) s)

/-- ROLLOVER_ANNOUNCE_RECEIVE: the announcement is recorded; CTX_ANNOUNCE_MISMATCH where no slot holds its AN (R313). -/
def announceReceive (sc : Nat) (cell : List Byte) (s : State) : State :=
  let c := getU 2 2 cell
  let an := getU 4 1 cell % 4
  if getU 0 1 cell / 64 = 2 ∧ c < 40960 then
    onCtxOf c (fun x => { x with
        annAn := an, annR := ticksSec (getU 5 6 cell) + ticksNs (getU 11 4 cell) }) s
      |> onlyIf (slotFor (ctxOf s c) an).isNone (raise 0x0703 24 c 0 [byteOf an, byteOf sc])
  else s

def execRolloverAnnounceReceive (sc : Nat) (cell : List Byte) (s : State) : Res :=
  need "subcarrier" (okSc sc) (announceReceive sc cell s)

/-! The ctx commands. -/

/-- BADARG where the request names no context (R58/02). -/
def onCtx (body : Nat → Req → State → Reply) (r : Req) (s : State) : Reply :=
  if okCtx (r.u 0 2) then body (r.u 0 2) r s else refuse .badarg s

/-- Large windows in use (R298). -/
def largeWindows (s : State) : Nat := (s.cipher.ctx.filter (fun e => decide (64 < e.2.w))).length

/-- A slot under a new W: when W grows, numbers at or below the old lower edge count as seen (R316). -/
def rewindow (old new : Nat) (k : KeySlot) : KeySlot :=
  { k with
    edge := if old < new then max k.edge (k.h - old) else k.edge
    win := k.win.filter (fun n => decide (k.h < n + new)) }

/-- ctx.config (0x0700). -/
def ctxConfig : Req → State → Reply := onCtx fun c r s =>
  let w := r.u 4 2
  let x := ctxOf s c
  if 3 < r.u 2 1 then refuse .badarg s
  else if 4096 < w ∨ 15 < r.u 3 1 then refuse .range s
  else if 64 < w ∧ x.w ≤ 64 ∧ 2048 ≤ largeWindows s then refuse .nores s
  else okay (onCtxOf c (fun x => { x with
    d := bitOf (r.u 2 1) 0, delFailed := bitOf (r.u 2 1) 1, prof := r.u 3 1, w := w
    cur := x.cur.map (rewindow x.w w), nxt := x.nxt.map (rewindow x.w w) }) s |> contextPut c)

def execCtxConfig (mb : Nat) (s : State) : Res := mailbox ⟨0x0700, some 8, [(6, 2)]⟩ ctxConfig mb s

/-- ctx.limits (0x0701). -/
def ctxLimits (r : Req) (s : State) : Reply :=
  let sp := r.u 8 8
  let hp := r.u 16 8
  let sb := r.u 24 8
  let hb := r.u 32 8
  if 15 < r.u 0 1 ∨ hp < 1 ∨ 2 ^ 62 < hp ∨ sp < 1 ∨ hp < sp ∨ hb < 64 ∨ 2 ^ 63 < hb ∨ sb < 64 ∨ hb < sb then
    refuse .range s
  else okay (onLimitsOf (r.u 0 1) (fun _ => { softP := sp, hardP := hp, softB := sb, hardB := hb }) s)

def execCtxLimits (mb : Nat) (s : State) : Res := mailbox ⟨0x0701, some 40, [(1, 7)]⟩ ctxLimits mb s

/-- A pending rollover less than 2.0 ms away (R311). -/
def rollNear (s : State) (x : Ctx) : Bool := match x.roll with
  | none => false
  | some (r, _, _) => decide (r < now s + ticksMs 2)

/-- ctx.rollover (0x0702). -/
def ctxRollover : Req → State → Reply := onCtx fun c r s =>
  let x := ctxOf s c
  match wantedBoundary 4 r s with
  | none => refuse .range s
  | some b =>
    if (match x.nxt with | none => true | some k => k.rxOnly) || rollNear s x then refuse .denied s
    else
      let s1 := match x.roll with
        | none => s
        | some (_, i, _) => clearCue i s
      match freeShared s1 with
      | none => refuse .nores s
      | some i =>
        okWith (tcBytes10 b ++ [b2w x.roll.isSome, 0])
          (placeCue i { state := 1, kind := 2, obj := c, time := b, tag := r.tag } s1
            |> onCtxOf c (fun x => { x with
                roll := some (b, i, false), replaced := if x.roll.isSome then satAdd max32 x.replaced 1 else x.replaced })
            |> announceRollover c i)

def execCtxRollover (mb : Nat) (s : State) : Res := mailbox ⟨0x0702, some 16, [(2, 2), (14, 2)]⟩ ctxRollover mb s

/-- ctx.erase (0x0703). -/
def ctxErase : Req → State → Reply := onCtx fun c r s =>
  let m := r.u 2 1
  if m = 0 ∨ 3 < m then refuse .badarg s
  else if (ctxOf s c).roll.isSome ∧ bitOf m 0 then refuse .denied s
  else okay (onCtxOf c (fun x =>
    let y := if bitOf m 0 then { x with nxt := none } else x
    if bitOf m 1 then { y with cur := none, retired := false, softP := false, softB := false } else y) s
    |> contextPut c)

def execCtxErase (mb : Nat) (s : State) : Res := mailbox ⟨0x0703, some 4, [(3, 1)]⟩ ctxErase mb s

/-- The context view of R300. -/
def ctxView (s : State) (c : Nat) : List Byte :=
  let x := ctxOf s c
  let rx := match x.nxt with | some k => k.rxOnly | none => false
  let h (k : Option KeySlot) : Nat := match k with | some k => k.h | none => 0
  [byteOf (b2n x.d + 2 * b2n x.delFailed + 4 * b2n x.retired + 8 * b2n (x.softP || x.softB) + 16 * b2n x.roll.isSome
      + 32 * b2n rx + 64 * b2n (decide (64 < x.w)))
    , byteOf (slotAn x.cur), byteOf (slotAn x.nxt), byteOf x.prof] ++ natBE 2 x.w ++ [0, 0]
    ++ natBE 8 (x.pn % 2 ^ 62) ++ natBE 8 x.bytes ++ natBE 8 (h x.cur) ++ natBE 8 (h x.nxt)
    ++ (match x.roll with | some (r, _, _) => tcBytes10 r | none => zeros 10) ++ [0, 0]
    ++ kcv x.cur ++ kcv x.nxt ++ zeros 6

/-- ctx.status (0x0704). -/
def ctxStatus : Req → State → Reply := onCtx fun c _ s =>
  let x := ctxOf s c
  okWith (ctxView s c ++ natBE 8 x.txDrop ++ natBE 8 x.rxOk ++ natBE 8 x.fAuth ++ natBE 8 x.fReplay ++ natBE 8 x.fNoKey
    ++ natBE 8 x.fUnprot ++ [byteOf x.annAn] ++ tcBytes10 x.annR ++ [0] ++ natBE 4 x.replaced) s

def execCtxStatus (mb : Nat) (s : State) : Res := mailbox ⟨0x0704, some 4, [(2, 2)]⟩ ctxStatus mb s

def laneBytes (l : Lanes) : List Byte :=
  natBE 2 (listMask l.active) ++ [byteOf l.spare.length, 0] ++ natBE 8 l.mism ++ natBE 8 l.matched ++ natBE 8 l.dropped
    ++ zeros 4

/-- ctx.lanes (0x0705). -/
def ctxLanes (_ : Req) (s : State) : Reply := okWith (laneBytes s.cipher.tx ++ laneBytes s.cipher.rx) s

def execCtxLanes (mb : Nat) (s : State) : Res := mailbox (bareShape 0x0705) ctxLanes mb s

end Sys2Proof.Machine
end

