-- ==== Sys2Proof/Machine/Crossings.lean ====
section
/-! DEFINITION. Crossings between the islands and the handshake core, pace margins and the adaptive core voltage
(01_module_architecture.md). -/

namespace Sys2Proof.Machine

/-! Stream FIFOs (R17, R32, R33). -/

/-- A pace fault: counted against the unit, PACE_FAULT with the crossing and its object (R32). A unit whose required rate is
zero takes no part (R27). -/
def paceFault (crossing obj u : Nat) (s : State) : State :=
  onlyIf (decide (requiredUnits s u ≠ 0)) (fun s =>
    paceEvent u 0x04 1 (onPaceUnit u (fun x => { x with faults := satAdd max32 x.faults 1 }) s)
      |> raise 0x0E12 12 u 0 ([byteOf crossing, byteOf obj, 0, 0] ++ natBE 4 (satAdd max32 (paceUnit s u).faults 1))) s

/-- Points 0x024 + p and 0x02A + p of R443/16 act with the fault they cause. -/
def actIf (pt : Nat) (s : State) : State := onlyIf (injArmed s pt) (injAct pt) s

/-- An island writes into a full stream FIFO: its word is lost (R17). The table of R26 gives the pair lanes no pace unit; their
fault is charged to PU36, the unit of the host lanes that R17 treats alike (DESIGN CHOICE, notes/assumptions/51.md). -/
def fullWrite (x : Stream) (s : State) : State :=
  match x with
  | .adcToCore p =>
    actIf (0x024 + p) s |> paceFault 1 p (6 * p)
      |> (fun s => forAll (fun sc => onlyIf (rxLit s sc) (resyncSc sc)) (portScs p) s)
  | .hostRx l => paceFault 3 l 36 s |> onLaneOf l (fun x => { x with bsn := none })
  | .pairRx l =>
    paceFault 4 l 36 s |> onLaneOf (96 + l) (fun x => { x with bsn := none })
      |> leaveStep
  | _ => s

def execStreamFifoFullWrite (x : Stream) (s : State) : Res := need "crossing" (okStream x) (fullWrite x s)

/-- An island reads an empty stream FIFO: mid-scale at a DAC is a pace fault, the idle control block of a lane is rate
adaptation and no fault (R17). -/
def emptyRead (x : Stream) (s : State) : State :=
  match x with
  | .coreToDac p => actIf (0x02A + p) s |> paceFault 2 p (6 * p + 5)
  | _ => s

def execStreamFifoEmptyRead (x : Stream) (s : State) : Res := need "crossing" (okStream x) (emptyRead x s)

/-! Small FIFOs (R19). -/

/-- A write into a full small FIFO is ignored and sets its overrun bit (R19). The content of the management and event-ingress
FIFOs is not held; their full flag stands until their next read (`readSmall`), and no register shows or clears their overrun
bit (notes/assumptions/51.md). -/
def smallFullWrite (x : Small) (s : State) : State :=
  match x with
  | .monitor n => onConvOf n (fun c => { c with overrun := c.overrun || decide (4096 ≤ c.fifo.length) }) s
  | .keyChannel => onFrameSt (fun f => { f with kcOverrun := f.kcOverrun || decide (32 ≤ f.kcRx.length) }) s
  | .timestamp => onSvc (fun v => { v with tsOverrun := v.tsOverrun || decide (1024 ≤ v.tsFifo.length) }) s
  | _ => onFifoOf (smallKey x) (fun f => { f with full := true, overrun := true }) s

def execSmallFifoFullWrite (x : Small) (s : State) : Res := need "crossing" (okSmall x) (smallFullWrite x s)

/-! Merged events (R21). -/

/-- The number a 32-bit Gray code stands for. -/
def grayValue (g : Word) : Word :=
  let a := g ^^^ (g >>> 1)
  let b := a ^^^ (a >>> 2)
  let c := b ^^^ (b >>> 4)
  let d := c ^^^ (c >>> 8)
  d ^^^ (d >>> 16)

/-- The destination samples the Gray counter and adds the difference, modulo 2^32, to its 64-bit total. -/
def execMergedEventSample (x : Merged) (gray : Word) (s : State) : Res :=
  need "crossing" (okMerged x) (onMergedOf (mergedKey x) (fun m => { m with
    last := grayValue gray, total := m.total + (grayValue gray - m.last).setWidth 64 }) s)

/-! Hold-and-flag crossings (R22). -/

/-- HOLD_FLAG_VALUE: a new value at the source. -/
def execHoldFlagValue (x : Hold) (v : Nat) (s : State) : Res :=
  need "crossing" (okHold x) (holdValue x v s)

/-- The destination captures the held value and acknowledges; the source then sends its pending value (R22). -/
def execHoldFlagAck (x : Hold) (s : State) : Res :=
  need "crossing" (okHold x) (onHoldOf (holdKey x) (fun h =>
    match h.inFlight with
    | none => h
    | some v => { h with dest := v, inFlight := h.pending, pending := none }) s)

/-! The reset pointer handshake (R23 to R25). -/

/-- The words of a crossing whose content the model holds are discarded. -/
def discardWords (x : Fifo) (s : State) : State :=
  match x with
  | .small (.monitor n) => onConvOf n (fun c => { c with fifo := [], overrun := false }) s
  | .small .keyChannel => onFrameSt (fun f => { f with kcRx := [], kcOverrun := false }) s
  | .small .timestamp => onSvc (fun v => { v with tsFifo := [], tsOverrun := false }) s
  | _ => s

/-- Pointers to zero, full, empty and overrun flags cleared (R23, step 3). -/
def emptyFifo (x : Fifo) (s : State) : State := onFifoOf (fifoKey x) (fun _ => {}) (discardWords x s)

/-- A side requests a reset. With the other side's acknowledge the sequence completes; without one the request stands, and a
further request joins it (R23, R24). The core side always acknowledges. -/
def execFifoResetRequest (x : Fifo) (core acked : Bool) (s : State) : Res :=
  need "crossing" (okFifo x)
    (if acked || !core then emptyFifo x s else onFifoOf (fifoKey x) (fun f => { f with request := true }) s)

/-- 2 us without an acknowledge: the core side sets its pointer to zero and holds the crossing in reset (R25). -/
def execFifoResetTimeout (x : Fifo) (s : State) : Res :=
  need "crossing" (okFifo x) (onlyIf (fifoOf s (fifoKey x)).request
    (fun s => onFifoOf (fifoKey x) (fun f => { f with full := false, overrun := false, held := true })
      (discardWords x s)) s)

/-- The island's clock returns: it sets its pointer to zero and the crossing leaves reset (R25). -/
def execIslandClockReturn (x : Fifo) (s : State) : Res :=
  need "crossing" (okFifo x) (onlyIf (fifoOf s (fifoKey x)).held (emptyFifo x) s)

/-! Pace margins (R27 to R33). -/

/-- No datapath unit PU00 to PU43 has a pace margin (R464/18). -/
def datapathIdle (s : State) : Bool := (List.range 44).all (fun u => requiredUnits s u == 0)

/-- The units whose margins govern the rail: all, or PU44 to PU47 with an idle datapath. -/
def governing (s : State) : List Nat := if datapathIdle s then [44, 45, 46, 47] else List.range 48

/-- The margin that the rail follows; none where no unit has one. -/
def railMargin (s : State) : Option (Int × Nat) := (lowestOf s (governing s)).map (·.2)

def railFloor (s : State) : Nat := if datapathIdle s then 700 else 620

/-- R29 governs the rail from STAGE INIT on (R464/18). -/
def railGoverned (s : State) : Bool :=
  s.ctrl.stage == .init || s.ctrl.stage == .ready || s.ctrl.stage == .restart

/-- The rail rises by 5 mV: a margin below 12 %, or below its idle floor (R29, R464/18). -/
def railRises (s : State) : Bool :=
  decide (s.power.rail < railFloor s) || (match railMargin s with | some m => marginBelow m 120 | none => false)

/-- The rail may fall: every margin above 20 %, or, with an idle datapath, no margin below 12 % (R29, R464/18). -/
def railMayFall (s : State) : Bool :=
  datapathIdle s || (match railMargin s with | some m => marginAbove m 200 | none => false)

/-- One comparison of R29, every 10 us. The rail falls at the comparison 1 ms after the first one of an unbroken row that
allows it, and then 1 ms after its last fall at the earliest. -/
def railStep (s : State) : State :=
  if railRises s then onPower (fun w => { w with rail := min 820 (w.rail + 5), highTicks := 0 }) s
  else if railMayFall s then
    if 100 ≤ s.power.highTicks && decide (railFloor s < s.power.rail) then
      onPower (fun w => { w with rail := w.rail - 5, highTicks := 1 }) s
    else onPower (fun w => { w with highTicks := min 100 (w.highTicks + 1) }) s
  else onPower (fun w => { w with highTicks := 0 }) s

/-- The unit with the lowest margin, that margin and the rail as PACE_TIGHT sees them: point 0x1C1 reports 0.82 V and at most
11.9 % (R443/16). -/
def tightView (s : State) : Option (Nat × (Int × Nat) × Nat) :=
  (lowestOf s (List.range 48)).map (fun m =>
    if (injOf s 0x1C1).running then (m.1, if marginBelow m.2 120 then m.2 else (119, 1), 820)
    else (m.1, m.2, s.power.rail))

/-- PACE_TIGHT once at 0.82 V with a margin below 12 %; armed again when every margin is at or above 12 % (R30). -/
def tightCheck (s : State) : State :=
  match tightView s with
  | none => onPower (fun w => { w with tightArmed := true }) s
  | some (u, m, rail) =>
    let low := marginBelow m 120
    let hit := low && decide (820 ≤ rail) && s.power.tightArmed
    onPower (fun w => { w with tightArmed := if low then w.tightArmed && !hit else true }) s
      |> onlyIf hit (raise 0x0E10 12 0 0 ([byteOf u, 0] ++ intBE 2 (marginField (shownMargin m)) ++ natBE 2 rail))

/-- The achievable rates measured for this tick. -/
def setRates (ach : List Nat) (s : State) : State :=
  forAll (fun u => match ach[u]? with
    | some a => onPaceUnit u (fun x => { x with ach := some a })
    | none => id) (List.range 48) s

/-- PACE_LOW is armed again at a margin of 6 % (R31). -/
def rearmLow (s : State) : State := forAll rearmUnit (List.range 48) s

/-- CORE_RAIL_TICK, with the achievable rates of the 48 units in thousands of tokens per second. -/
def railTick (ach : List Nat) (s : State) : State :=
  let s1 := rearmLow (setRates ach s)
  if railGoverned s then tightCheck (railStep s1) else s1

def execCoreRailTick (ach : List Nat) (s : State) : Res := .next (railTick ach s)

/-- PACE_MARGIN_LOW: the margins of the named units have fallen below 3 % at once, at these achievable rates. Each unit acts
by itself, in ascending unit number (R31). -/
def marginLow (us : List (Nat × Nat)) (s : State) : State :=
  forAll (fun e => onPaceUnit e.1 (fun x => { x with ach := some e.2 })) us s
    |> forAll (fun u => onlyIf (us.any (fun e => e.1 == u)) (lowUnit u)) (List.range 48)

def execPaceMarginLow (us : List (Nat × Nat)) (s : State) : Res :=
  need "pace unit" (us.all (fun e => okUnit e.1)) (marginLow us s)

end Sys2Proof.Machine
end

