-- ==== Sys2Proof/Machine/HostLanes.lean ====
section
/-! DEFINITION. Host lanes and host ports (08_host_lanes.md). -/

namespace Sys2Proof.Machine

/-! Taps and the training handshake (R242, R246, R247). -/

def tapsOk (pre main post : Nat) : Bool :=
  decide (pre ≤ 15) && decide (40 ≤ main) && decide (main ≤ 64) && decide (post ≤ 23) && decide (pre + main + post ≤ 64)

/-- A tap request on a code: the new code, and the status 1 updated, 2 at minimum, 3 at maximum (R246). `fits` says that the
new code satisfies R242. -/
def tapStep (req code : Nat) (fits : Nat → Bool) : Nat × Nat :=
  if req = 1 then (if fits (code + 1) then (code + 1, 1) else (code, 3))
  else if req = 2 then (if 0 < code ∧ fits (code - 1) = true then (code - 1, 1) else (code, 2))
  else (code, 0)

def presetTaps : Nat → Nat × Nat × Nat
  | 1 => (0, 64, 0) | 2 => (4, 52, 8) | _ => (8, 44, 12)

/-- Fields of a request: pre, main, post, preset. -/
def reqField (r : BitVec 16) (lo : Nat) : Nat := (r.toNat / 2 ^ lo) % 4

/-- A non-hold request (R247). -/
def asks (r : BitVec 16) : Bool :=
  reqField r 8 != 0 || [10, 12, 14].any (fun b => reqField r b == 1 || reqField r b == 2)

/-- Apply a request to the module's transmit taps and report the outcome (R246). -/
def applyRequest (r : BitVec 16) (l : Lane) : Lane :=
  if reqField r 8 ≠ 0 then
    let t := presetTaps (reqField r 8)
    { l with pre := t.1, main := t.2.1, post := t.2.2, stat := BitVec.ofNat 16 512 }
  else
    let a := tapStep (reqField r 14) l.pre (fun v => tapsOk v l.main l.post)
    let b := tapStep (reqField r 12) l.main (fun v => tapsOk a.1 v l.post)
    let c := tapStep (reqField r 10) l.post (fun v => tapsOk a.1 b.1 v)
    { l with pre := a.1, main := b.1, post := c.1, stat := BitVec.ofNat 16 (16384 * a.2 + 4096 * b.2 + 1024 * c.2) }

/-- The responder: a new non-hold request is applied once, a hold clears the status; fixed taps answer not updated (R247,
host.txtaps). -/
def respondTaps (r : BitVec 16) (l : Lane) : Lane :=
  if l.fixed then { l with stat := 0 }
  else if !asks r then { l with stat := 0 }
  else if l.stat = 0 then applyRequest r l else l

/-- The requester: a request stands until its outcome is reported, then goes to hold until the status clears; receiver ready
is set when no further change is needed (R247). -/
def requestTaps (stat want : BitVec 16) (done : Bool) (l : Lane) : Lane :=
  if l.req ≠ 0 then (if stat ≠ 0 then { l with req := 0 } else l)
  else if stat ≠ 0 then l
  else if done || !asks want then { l with ready := l.ready || done }
  else { l with req := want }

/-! Lanes and ports. -/

def widthCode (w : Nat) : Nat := if w = 1 then 0 else if w = 2 then 1 else if w = 4 then 2 else 3

/-- The lanes of a host port (R255). -/
def portLanes (s : State) (nn : Nat) : List Nat := (List.range (hostPort s nn).width).map (nn + ·)

/-- The host port of a lane. -/
def lanePort (s : State) (l : Nat) : Option Nat := (laneOf s l).port

/-- A lane that is not retired goes to a state with its training and locks cleared (R258). -/
def restLane (st : LaneState) (l : Lane) : Lane :=
  if l.st = .retired then l
  else { l with
    st := st, stat := 0, req := 0, symRun := 0, lossRun := 0, ready := false, farReady := false, ack := false
    ackRun := 0, count := 8, farDone := false, mismatch := false, precode := false, cwLock := false, blkLock := false
    missRun := 0, confirm := false, bitLock := false, hdrRun := 0, hdrSeen := 0, hdrBad := 0, cws := 0, errBlks := [] }

/-- A host.lowpower in progress ends with a code (R262); its acceptance has advanced CFG_GEN and was mirrored. -/
def lowpowerEnd (nn : Nat) (c : Code) (s : State) : State :=
  match (hostPort s nn).target with
  | none => s
  | some (_, mb) =>
    let s1 := onHostPort nn (fun h => { h with target := none }) s
    match mb with
    | none => s1
    | some m => writeResponse (requestOf s1 m) ⟨c, [], s1, true⟩ s1

/-- A port goes down: HOST_PORT_DOWN with its cause and lane where it was not down already (R263). -/
def hostPortDown (nn cause lane : Nat) (code : Code) (s : State) : State :=
  let was := (hostPort s nn).st
  lowpowerEnd nn code (onHostPort nn (fun h => { h with st := .down }) s)
    |> onlyIf (was != .down) (raise 0x0504 22 nn 0 [byteOf cause, byteOf lane])

/-- A port goes down without a lane fault: no event (R263). -/
def quietDown (nn : Nat) (s : State) : State := lowpowerEnd nn .fault (onHostPort nn (fun h => { h with st := .down }) s)

/-- A retrain from DETECT; the port is down until the lane is ACTIVE again (R263). -/
def retrain (l : Nat) (s : State) : State :=
  onLaneOf l (fun x => { restLane .detect x with retrains := satAdd max32 x.retrains 1 }) s

/-- A lane fault of a kind: HL_FAULT, the port down, one fault of the unit, a retrain (R263). -/
def laneFault (kind l : Nat) (s : State) : State :=
  let up := (lanePort s l).any (fun nn => (hostPort s nn).st == .up)
  raise 0x0501 22 l 0 [byteOf kind] s
    |> onlyIf up (hostPortDown ((lanePort s l).getD 0) 1 l .fault)
    |> retrain l
    |> unitFault 6 l

/-- Lanes ACTIVE with equal marker BSNs and at most 937 blocks of skew bring their port up; more skew takes an up port down, with no
lane fault (R256; notes/assumptions/58.md). -/
def alignPort (nn skew : Nat) (s : State) : State :=
  let ls := portLanes s nn
  let b := (laneOf s nn).bsn
  let h := hostPort s nn
  let ok := h.enabled && h.st == .down && ls != [] && b.isSome && decide (skew ≤ 937)
    && ls.all (fun l => (laneOf s l).st == .active && (laneOf s l).cwLock && (laneOf s l).blkLock && (laneOf s l).bsn == b)
  onHostPort nn (fun h => { h with skew := skew }) s
    |> onlyIf ok (fun s => raise 0x0503 22 nn 0 [byteOf (widthCode h.width)] (onHostPort nn (fun h => { h with st := .up }) s))
    |> onlyIf (h.st == .up && decide (937 < skew)) (quietDown nn)

/-! Commands. -/

def onNn (body : Nat → Req → State → Reply) (r : Req) (s : State) : Reply :=
  if okLane (r.u 0 1) then body (r.u 0 1) r s else refuse .badarg s

/-- host.portcfg (0x0500). -/
def hostPortcfg : Req → State → Reply := onNn fun nn r s =>
  let w := 2 ^ r.u 1 1
  let ls := (List.range w).map (nn + ·)
  if 3 < r.u 1 1 ∨ 1 < r.u 2 1 ∨ 1 < r.u 4 1 then refuse .badarg s
  else if nn % w ≠ 0 then refuse .range s
  else if r.u 4 1 = 1 then
    if ls.any (fun l => (laneOf s l).st != .disabled || (laneOf s l).port.isSome) then refuse .denied s
    else okay (onHostPort nn (fun _ => {
        defined := true, width := w, degrade := r.u 2 1 == 1, precode := bitOf (r.u 3 1) 0, wake := bitOf (r.u 3 1) 1 }) s
      |> forAll (fun i => onLaneOf (nn + i) (fun x => { x with port := some nn, logical := i })) (List.range w))
  else if (hostPort s nn).defined = false then refuse .denied s
  else
    let old := portLanes s nn
    okay (hostPortDown nn 2 nn .denied s
      |> forAll (fun l => onLaneOf l (fun x => { restLane .disabled x with port := none })) old
      |> onHostPort nn (fun _ => {}))

def execHostPortcfg (mb : Nat) (s : State) : Res := mailbox ⟨0x0500, some 8, [(5, 3)]⟩ hostPortcfg mb s

/-- host.enable (0x0501). -/
def hostEnable : Req → State → Reply := onNn fun nn r s =>
  let h := hostPort s nn
  if 1 < r.u 1 1 then refuse .badarg s
  else if h.defined = false then refuse .denied s
  else if h.enabled = (r.u 1 1 == 1) then okSame s
  else if r.u 1 1 = 1 then
    okay (forAll (fun l => onLaneOf l (restLane .detect)) (portLanes s nn) (onHostPort nn (fun h => { h with enabled := true }) s))
  else
    okay (forAll (fun l => onLaneOf l (restLane .disabled)) (portLanes s nn)
      (hostPortDown nn 2 nn .denied (onHostPort nn (fun h => { h with enabled := false }) s)))

def execHostEnable (mb : Nat) (s : State) : Res := mailbox ⟨0x0501, some 4, [(2, 2)]⟩ hostEnable mb s

/-- host.txtaps (0x0502). -/
def hostTxtaps : Req → State → Reply := onNn fun l r s =>
  if 1 < r.u 1 1 then refuse .badarg s
  else if tapsOk (r.u 2 1) (r.u 3 1) (r.u 4 1) = false then refuse .range s
  else okay (onLaneOf l (fun x =>
    if r.u 1 1 = 1 then { x with fixed := true, pre := r.u 2 1, main := r.u 3 1, post := r.u 4 1 }
    else { x with fixed := false }) s)

def execHostTxtaps (mb : Nat) (s : State) : Res := mailbox ⟨0x0502, some 8, [(5, 3)]⟩ hostTxtaps mb s

/-- The low-power state a port is in, as host.lowpower numbers its targets. -/
def lowpowerNow : HpState → Option Nat
  | .up => some 0 | .quiet => some 1 | .deep => some 2 | .down => none

/-- What host.lowpower answers at once; none where the transition starts (R262). -/
def lowpowerAnswer (r : Req) (s : State) : Option Reply :=
  let h := hostPort s (r.u 0 1)
  if okLane (r.u 0 1) = false ∨ 2 < r.u 1 1 then some (refuse .badarg s)
  else if h.defined = false ∨ lowpowerNow h.st = none then some (refuse .denied s)
  else if h.target.isSome then some (refuse .busy s)
  else if lowpowerNow h.st = some (r.u 1 1) then some (okSame s)
  else none

/-- The transition starts: accepted, so CFG_GEN advances (R49/02) and the stand-in hears of it (R393/13); the mailbox stays busy until
HOST_LOWPOWER_DONE. -/
def lowpowerStart (mb : Nat) (r : Req) (s : State) : State :=
  onHostPort (r.u 0 1) (fun h => { h with target := some (r.u 1 1, some mb) }) s
    |> onCtrl (fun c => { c with rung := c.rung.erase mb, accepted := noteAccepted mb r.now c, cfgGen := c.cfgGen + 1 })
    |> mirror (.command 0x0503 r.tag (s.ctrl.cfgGen + 1).toNat r.inst r.pay)

/-- host.lowpower (0x0503): it completes when the transmit lanes are in the target state. -/
def hostLowpower (mb : Nat) (s : State) : State :=
  let r := requestOf s mb
  if accepts 0x0503 mb s then
    match gate ⟨0x0503, some 4, [(2, 2)]⟩ r s with
    | some c => respond r (refuse c s)
    | none => match lowpowerAnswer r s with
      | some a => respond r a
      | none => lowpowerStart mb r s
  else s

def execHostLowpower (mb : Nat) (s : State) : Res := need "mailbox" (okMb mb) (hostLowpower mb s)

/-- A lane in its port's new state: QUIET keeps its position, to be confirmed at the next marker; DEEP loses it (R262). -/
def laneTo (tgt : Nat) (x : Lane) : Lane :=
  if tgt = 1 then { x with st := .quiet }
  else if tgt = 2 then { x with st := .deep, cwLock := false, blkLock := false, hdrRun := 0, bsn := none }
  else { x with st := .active, confirm := x.st == .quiet && x.cwLock, missRun := 0 }

/-- HOST_LOWPOWER_DONE: lanes and port are in the target state; a port whose lanes lost their position in DEEP is up once they have
codeword lock and alignment anew. -/
def lowpowerDone (nn : Nat) (s : State) : State :=
  match (hostPort s nn).target with
  | none => s
  | some (tgt, _) =>
    let lost := (portLanes s nn).any (fun l => !(laneOf s l).cwLock)
    forAll (fun l => onLaneOf l (laneTo tgt)) (portLanes s nn) s
      |> onHostPort nn (fun h => { h with
          st := if tgt = 1 then .quiet else if tgt = 2 then .deep else if lost then .down else .up })
      |> lowpowerEnd nn .ok

def execHostLowpowerDone (nn : Nat) (s : State) : Res := need "host port" (okLane nn) (lowpowerDone nn s)

/-- Signal on a lane of a QUIET or DEEP port with wake on signal leads to exit, as host.lowpower 0 would (R262). -/
def wakeOnSignal (l : Nat) (s : State) : State :=
  match lanePort s l with
  | none => s
  | some nn =>
    let h := hostPort s nn
    onlyIf (h.wake && h.target.isNone && (h.st == .quiet || h.st == .deep))
      (onHostPort nn (fun h => { h with target := some (0, none) })) s

def execHlWakeOnSignal (l : Nat) (s : State) : Res := need "lane" (okLane l) (wakeOnSignal l s)

/-- host.retrain (0x0504): from DETECT, without a fault. -/
def hostRetrain : Req → State → Reply := onNn fun l _ s =>
  let st := (laneOf s l).st
  if st = .disabled ∨ st = .retired then refuse .denied s
  else
    let nn := (lanePort s l).getD l
    okay (retrain l (quietDown nn s))

def execHostRetrain (mb : Nat) (s : State) : Res := mailbox (objShape 0x0504) hostRetrain mb s

def laneStateNum : LaneState → Nat
  | .disabled => 0 | .detect => 1 | .train => 2 | .exchange => 3 | .switch => 4 | .active => 5 | .quiet => 6 | .deep => 7
  | .retired => 8

/-- Faults of a unit in the present window (R436/16). -/
def faultsInWindow (s : State) (typ idx : Nat) : Nat :=
  ((unitRec s (unitKey typ idx)).times.filter (fun t => upTime s < t + ticksSec (policyOf s typ).window)).length

/-- host.lanestatus (0x0505). -/
def hostLanestatus : Req → State → Reply := onNn fun l _ s =>
  let x := laneOf s l
  okWith ([byteOf (laneStateNum x.st), byteOf (x.port.getD 0xFF), byteOf x.logical, byteOf (b2n x.precode), byteOf x.pre,
      byteOf x.main, byteOf x.post, byteOf x.ctle] ++ intBE 2 x.freq ++ natBE 2 x.ser
    ++ natBE 8 (mergedTotal s (.rsSymbols l)) ++ natBE 8 x.unc ++ natBE 4 x.codeErr ++ natBE 4 (faultsInWindow s 6 l)
    ++ natBE 4 x.retrains ++ natBE 6 (x.bsn.getD 0) ++ [0, 0]) s

def execHostLanestatus (mb : Nat) (s : State) : Res := mailbox (objShape 0x0505) hostLanestatus mb s

def hpStateNum : HpState → Nat
  | .down => 0 | .up => 1 | .quiet => 2 | .deep => 3

/-- host.portstatus (0x0506). -/
def hostPortstatus : Req → State → Reply := onNn fun nn _ s =>
  let h := hostPort s nn
  if h.defined = false then refuse .denied s
  else okWith ([byteOf (hpStateNum h.st), byteOf (widthCode h.width), byteOf (b2n h.degrade),
      byteOf (listMask ((List.range h.width).filter (fun i => (laneOf s (nn + i)).st == .active)))]
    ++ natBE 2 h.skew ++ [0, 0] ++ natBE 8 h.rxPk ++ natBE 8 h.txPk ++ natBE 8 h.dropErr ++ natBE 8 h.dropLen
    ++ natBE 8 h.shortGap ++ natBE 8 h.egDrop ++ natBE 8 h.discarded) s

def execHostPortstatus (mb : Nat) (s : State) : Res := mailbox (objShape 0x0506) hostPortstatus mb s

/-! Bring-up (R258 to R260). -/

/-- HL_DETECT_TEST: termination sensed, TRAIN from preset P2 (fixed taps stay). -/
def detectTest (l : Nat) (s : State) : State :=
  onLaneOf l (fun x =>
    if x.fixed then restLane .train x else { restLane .train x with pre := 4, main := 52, post := 8 }) s

def execHlDetectTest (l : Nat) (sensed : Bool) (s : State) : Res :=
  need "lane" (okLane l) (onlyIf (sensed && (laneOf s l).st == .detect) (detectTest l) s)

/-- Bit lock: the CDR is locked. Symbol lock: three K28.5 characters at the frame spacing; lost after four bad ones (R245). -/
def symbolTrack (cdr missing : Bool) (x : Lane) : Lane :=
  if !cdr then { x with bitLock := false, symRun := 0, lossRun := 0 }
  else if missing then
    { x with
      bitLock := true
      codeErr := satAdd max32 x.codeErr 1
      symRun := if 3 ≤ x.symRun ∧ x.lossRun < 3 then x.symRun else 0
      lossRun := if 3 ≤ x.symRun ∧ x.lossRun < 3 then x.lossRun + 1 else 0 }
  else { x with bitLock := true, symRun := min 3 (x.symRun + 1), lossRun := 0 }

/-- The received record agrees with the lane's width code, logical lane and lane FEC (R259). -/
def recordMatches (s : State) (l : Nat) (rec : List Byte) : Bool :=
  let w := (hostPort s ((lanePort s l).getD 0)).width
  getU 1 1 rec == widthCode w && getU 2 1 rec == (laneOf s l).logical && bitOf (getU 3 1 rec) 0

/-- CTLE peaking, FFE and DFE taps as the receiver sets them: in TRAIN, and continuously in ACTIVE. No rule gives their values, so they
are free ones (R243). -/
def equalize (l : Nat) (s : State) : State :=
  let v (k : Nat) : Int := (Config.freeValue (s.free + k) : Int)
  useFrees 26 (onLaneOf l (fun x => { x with
    ctle := Config.freeValue s.free % 19, dfe := v 1, ffe := (List.range 24).map (fun k => v (k + 2)) }) s)

/-- A good frame in TRAIN: both handshakes, receiver ready both ways, then EXCHANGE; the equalizer stands, and the measured rate offset
is a free value. -/
def trainGood (l : Nat) (f : TrainFrame) (s : State) : State :=
  let x := requestTaps f.stat f.want f.rxDone (respondTaps f.req { laneOf s l with farReady := f.ready })
  let through := x.ready && f.ready && x.req == 0 && x.stat == 0 && !asks f.req && f.stat == 0
  if through then
    useFree (onLaneOf l (fun _ => { x with
      st := .exchange, ack := false, ackRun := 0, freq := (freeNat s % 20001 : Nat) - (10000 : Int) }) s) |> equalize l
  else onLaneOf l (fun _ => x) s

/-- A good frame in EXCHANGE: a matching record is acknowledged; three acknowledged ones lead to SWITCH. -/
def exchangeGood (l : Nat) (f : TrainFrame) (s : State) : State :=
  let x := laneOf s l
  let h := hostPort s ((lanePort s l).getD 0)
  if f.typ < 2 then onLaneOf l (fun x => { x with ackRun := 0 }) s
  else if recordMatches s l f.record then
    let n := if f.ack then x.ackRun + 1 else 0
    onLaneOf l (fun x => { x with
      ack := true, ackRun := n
      st := if x.ack ∧ 3 ≤ n then .switch else .exchange
      count := 8, farDone := false, cwLock := false, blkLock := false, bsn := none, missRun := 0
      hdrRun := 0, cws := 0, errBlks := []
      precode := h.precode && bitOf (getU 4 1 f.record) 0 }) s
  else
    onLaneOf l (fun x => { x with ackRun := 0, mismatch := true }) s
      |> onlyIf (!x.mismatch) (raise 0x0506 22 l 0 (padTo 3 (field 1 3 f.record)))

/-- A good frame in SWITCH: the far end's countdown ends at 0 (R260). -/
def switchGood (l : Nat) (f : TrainFrame) (s : State) : State :=
  onLaneOf l (fun x => { x with farDone := x.farDone || (f.typ == 3 && f.count == 0) }) s

/-- Another frame time of the own countdown has passed: a frame or a codeword was received, good or not (R260;
notes/assumptions/58.md). -/
def countOn (x : Lane) : Lane := { x with count := x.count - 1 }

/-- HL_TRAINING_FRAME in the states TRAIN to SWITCH; the module acts only on good frames (R245). -/
def trainingFrame (l : Nat) (f : TrainFrame) (s : State) : State :=
  let s1 := onLaneOf l (symbolTrack f.cdr f.missing) s
  let good := f.crcOk && (laneOf s1 l).symRun == 3
  match (laneOf s l).st with
  | .train => onlyIf good (trainGood l f) s1
  | .exchange => if good then exchangeGood l f s1 else onLaneOf l (fun x => { x with ackRun := 0 }) s1
  | .switch => onlyIf good (switchGood l f) (onLaneOf l countOn s1)
  | _ => s

def execHlTrainingFrame (l : Nat) (f : TrainFrame) (s : State) : Res :=
  need "lane" (okLane l) (onlyIf (running s) (trainingFrame l f) s)

def execHlTrainTimeout (l : Nat) (s : State) : Res :=
  need "lane" (okLane l) (onlyIf ((laneOf s l).st == .train) (laneFault 1 l) s)

def execHlExchangeTimeout (l : Nat) (s : State) : Res :=
  need "lane" (okLane l) (onlyIf ((laneOf s l).st == .exchange) (laneFault 1 l) s)

def execHlSwitchTimeout (l : Nat) (s : State) : Res :=
  need "lane" (okLane l) (onlyIf ((laneOf s l).st == .switch) (laneFault 1 l) s)

/-! Markers, codewords and lane faults (R251 to R256, R263). -/

/-- The BSN that R252 gives the next marker after `m` missed ones. -/
def nextBsn (b m : Nat) : Nat := (b + 81920 * (m + 1)) % 2 ^ 48

/-- A marker in step with the one `b` before it: one period on, or any number of periods after QUIET, in which the position is
kept (R252, R262). -/
def inStep (x : Lane) (b bsn : Nat) : Bool :=
  if x.confirm then (bsn + 2 ^ 48 - b) % 2 ^ 48 % 81920 == 0 else decide (bsn = nextBsn b x.missRun)

/-- A marker of an ACTIVE lane that is neither equal to nor one period beside that of another ACTIVE lane of its port: the host
does not send them with equal BSNs (R254). -/
def unequal (s : State) (l bsn : Nat) : Bool :=
  match lanePort s l with
  | none => false
  | some nn => (portLanes s nn).any (fun k =>
    let y := laneOf s k
    k != l && y.st == .active && y.cwLock && !y.confirm && (match y.bsn with
      | some b =>
        let e := (b + 81920 * y.missRun) % 2 ^ 48
        bsn != e && bsn != (e + 81920) % 2 ^ 48 && e != (bsn + 81920) % 2 ^ 48
      | none => false))

/-- SWITCH ends: own and far countdown done, codeword lock and block lock (R258). -/
def enterActive (l : Nat) (s : State) : State :=
  let x := laneOf s l
  onlyIf (x.st == .switch && x.count == 0 && x.farDone && x.cwLock && x.blkLock)
    (fun s => retryDone 6 l (raise 0x0500 22 l 0 [] (onLaneOf l (fun x => { x with st := .active, activeAt := now s }) s))) s

/-- A marker in place: codeword lock at the second of two; its BSN, width code and logical lane must be as configured, and the marker of
another lane beside it must be the one of equal BSN (R253, R254). After QUIET a mismatch is a retrain and no fault (R262). At the second
marker the own countdown is long past. -/
def markerGood (l : Nat) (m : MarkerObs) (bsn : Nat) (s : State) : State :=
  let x := laneOf s l
  let w := (hostPort s ((lanePort s l).getD 0)).width
  let right := m.width == widthCode w && m.logical == x.logical
    && (match x.bsn with | some b => inStep x b bsn | none => true)
    && !(x.st == .active && (unequal s l bsn || decide (40960 ≤ m.skew)))
  if !right then
    if x.confirm then quietDown ((lanePort s l).getD 0) s |> retrain l else laneFault 4 l s
  else
    onLaneOf l (fun x => { x with
        bsn := some bsn, missRun := 0, cwLock := x.cwLock || x.bsn.isSome, confirm := false, cws := 0
        count := if x.st = .switch ∧ x.bsn.isSome then 0 else x.count }) s
      |> enterActive l
      |> (fun s => match lanePort s l with | some nn => alignPort nn m.skew s | none => s)

/-- A marker missing or uncorrectable: three in a row lose codeword lock, a lane fault in ACTIVE (R253, R263). -/
def markerBad (l : Nat) (s : State) : State :=
  let x := laneOf s l
  if x.cwLock && decide (2 ≤ x.missRun) then
    if x.st = .active then laneFault 2 l s
    else onLaneOf l (fun x => { x with cwLock := false, bsn := none, missRun := 0 }) s
  else if x.cwLock then onLaneOf l (fun x => { x with missRun := x.missRun + 1 }) s
  else onLaneOf l (fun x => { x with bsn := none }) s

/-- HL_MARKER_RECEIVE in SWITCH and ACTIVE; point 0x0A1 takes the BSN as one higher (R443/16). -/
def markerReceive (l : Nat) (m : MarkerObs) (s : State) : State :=
  let st := (laneOf s l).st
  let inj := injFor s 0x0A1 l && m.ok
  if st = .switch ∨ st = .active then
    onlyIf inj (injAct 0x0A1) s
      |> (if m.ok then markerGood l m ((m.bsn + b2n inj) % 2 ^ 48) else markerBad l)
  else s

def execHlMarkerReceive (l : Nat) (m : MarkerObs) (s : State) : Res :=
  need "lane" (okLane l) (onlyIf (running s) (markerReceive l m) s)

/-- One block header: block lock after 64 valid ones in a row, lost at the 16th invalid one of 64 (R253). -/
def headerStep (valid : Bool) (x : Lane) : Lane :=
  if !x.blkLock then
    if !valid then { x with hdrRun := 0 }
    else if x.hdrRun + 1 = 64 then { x with blkLock := true, hdrRun := 0, hdrSeen := 0, hdrBad := 0 }
    else { x with hdrRun := x.hdrRun + 1 }
  else
    let bad := x.hdrBad + b2n (!valid)
    if bad = 16 then { x with blkLock := false, hdrRun := 0, hdrSeen := 0, hdrBad := 0 }
    else if x.hdrSeen + 1 = 64 then { x with hdrSeen := 0, hdrBad := 0 }
    else { x with hdrSeen := x.hdrSeen + 1, hdrBad := bad }

/-- The 80 headers of a codeword; `bad` names the invalid ones. -/
def headersPass (bad : List Nat) (x : Lane) : Lane := (List.range 80).foldl (fun x k => headerStep (!bad.contains k) x) x

/-- The first block of the lane's present codeword, by the lane's block count (R252). -/
def codewordStart (x : Lane) : Nat := x.bsn.getD 0 + 80 * x.cws

/-- The decoder's result on a codeword: corrected symbols, at most 8, are counted on the lane's side of the merged-event crossing; an
uncorrectable codeword is counted and its 80 blocks are errored (R251, R253). -/
def codewordCount (corrected : Nat) (lost : Bool) (x : Lane) : Lane :=
  { x with
    corrected := if lost then x.corrected else (x.corrected + corrected) % 2 ^ 32
    unc := if lost then satAdd max64 x.unc 1 else x.unc
    errBlks := if lost then codewordStart x :: x.errBlks.filter (fun c => decide (codewordStart x ≤ c + 163840)) else x.errBlks
    cws := x.cws + 1 }

/-- HL_RS_CODEWORD: block headers, then, under codeword lock in ACTIVE, the decoder's result; the loss of block lock is a lane fault there
(R253, R263). Point 0x0A0 reports the codeword uncorrectable. -/
def rsCodeword (l corrected : Nat) (bad : Bool) (headers : List Nat) (s : State) : State :=
  let x := laneOf s l
  let counts := x.st == .active && x.cwLock
  let inj := counts && injFor s 0x0A0 l
  let lost := bad || inj || decide (8 < corrected)
  onlyIf inj (injAct 0x0A0) s
    |> onlyIf counts (onLaneOf l (codewordCount corrected lost))
    |> onLaneOf l (fun x => countOn (headersPass headers x))
    |> onlyIf (x.st == .active) (equalize l)
    |> (fun s => if x.st = .active ∧ x.blkLock ∧ (laneOf s l).blkLock = false then laneFault 2 l s else enterActive l s)

def execHlRsCodeword (l corrected : Nat) (bad : Bool) (headers : List Nat) (s : State) : Res :=
  need "lane" (okLane l)
    (onlyIf (running s && ((laneOf s l).st == .active || ((laneOf s l).st == .switch && (laneOf s l).farDone)))
      (rsCodeword l corrected bad headers) s)

/-- HL_SER_SECOND: the ratio of the second, and a lane fault of kind 3 above 1e-4 (R263). -/
def serSecond (l errs total : Nat) (s : State) : State :=
  onLaneOf l (fun x => { x with
      ser := if errs = 0 ∨ total < errs then 0xFFFF else min 0xFFFE (milliLog total errs) }) s
    |> onlyIf (decide (total < 10000 * errs)) (laneFault 3 l)

def execHlSerSecond (l errs total : Nat) (s : State) : Res :=
  need "lane" (okLane l) (onlyIf (running s && (laneOf s l).st == .active) (serSecond l errs total) s)

/-- A host lane in ACTIVE loses its signal or recovered clock: no codeword or block lock, kind 2 (R263); QUIET and DEEP
ignore it (R262). -/
def hostLaneLoss (l : Nat) (s : State) : State := onlyIf ((laneOf s l).st == .active) (laneFault 2 l) s

/-! Retirement of a host lane (R263, R264). -/

/-- The first aligned group of `w` working lanes within a port. -/
def workingGroup (s : State) (nn width w : Nat) : Option Nat :=
  ((List.range (width / w)).map (fun i => nn + i * w)).find? (fun b =>
    b % w == 0 && (List.range w).all (fun i => (laneOf s (b + i)).st != .retired))

/-- The largest working group below the port's width, the lower lane index on a tie: its first lane and width (R264). -/
def survivor (s : State) (nn width : Nat) : Option (Nat × Nat) :=
  [4, 2, 1].findSome? (fun w => if w < width then (workingGroup s nn width w).map (fun b => (b, w)) else none)

/-- Every binding to the old port names the surviving one: tributaries, channels, and packets on their way out (R264). -/
def rebind (old new : Nat) (s : State) : State :=
  if old = new then s
  else
    { s with
      svc := { s.svc with
        trib := s.svc.trib.map (fun e => (e.1, if e.2.egress = old then { e.2 with egress := new } else e.2))
        egress := tabSet [] (tabMod [] s.svc.egress new (· ++ tabGet [] s.svc.egress old)) old [] }
      frame := { s.frame with
        tx := s.frame.tx.map (fun e => (e.1, { e.2 with
          gccNn := if e.2.gcc && e.2.gccNn == old then new else e.2.gccNn
          uocNn := if e.2.uoc && e.2.uocNn == old then new else e.2.uocNn })) } }

/-- HOST_PORT_DEGRADED with the surviving port, 0xFF for none (R264). -/
def degraded (nn width : Nat) (dest : Option (Nat × Nat)) (s : State) : State :=
  raise 0x0505 22 nn 0 (match dest with
    | some (b, w) => [byteOf nn, byteOf (widthCode width), byteOf b, byteOf (widthCode w)]
    | none => [byteOf nn, byteOf (widthCode width), 0xFF, 0]) s

/-- The port's policy after one of its lanes was retired (R264). -/
def applyPortPolicy (nn : Nat) (s : State) : State :=
  let h := hostPort s nn
  let ls := portLanes s nn
  let s1 := forAll (fun l => onLaneOf l (restLane .disabled)) ls s
  match (if h.degrade then survivor s nn h.width else none) with
  | none => degraded nn h.width none (onHostPort nn (fun h => { h with enabled := false }) s1)
  | some (b, w) =>
    forAll (fun l => onLaneOf l (fun x => { x with port := none })) ls s1
      |> onHostPort nn (fun _ => {})
      |> onHostPort b (fun _ => { h with width := w, st := .down, target := none })
      |> forAll (fun i => onLaneOf (b + i) (fun x => { x with
          st := if h.enabled then .detect else .disabled, port := some b, logical := i })) (List.range w)
      |> rebind nn b
      |> degraded nn h.width (some (b, w))

/-- HOST_LANE_RETIRE: the queued retirement of the lane runs. -/
def hostLaneRetire (l : Nat) (s : State) : State :=
  if nextRetirement s 6 = some l then
    let port := lanePort s l
    retired 6 l (onLaneOf l (fun x => { restLane .disabled x with st := .retired }) s)
      |> raise 0x0502 22 l 0 [byteOf (port.getD 0xFF)]
      |> (fun s => match port with
          | some nn => applyPortPolicy nn (hostPortDown nn 3 l .fault s)
          | none => s)
  else s

def execHostLaneRetire (l : Nat) (s : State) : Res := need "lane" (okLane l) (hostLaneRetire l s)

end Sys2Proof.Machine
end

