-- ==== Sys2Proof/Machine/Defects.lean ====
section
/-! DEFINITION. Defects and performance monitoring (06_line_frame.md R197 to R214). -/

namespace Sys2Proof.Machine

/-! Defects (R197 to R200). -/

/-- Default set times, 0.1 ms. -/
def setDefault (code : Nat) : Nat := [25, 25, 25, 25, 300, 70000, 0, 10, 10, 10].getD code 0

def clearDefault (code : Nat) : Nat := [100, 100, 100, 100, 1000, 70000, 0, 10, 100, 100].getD code 0

/-- The settings of a defect: per port, or port 6 for tributaries (R198). -/
def defectCfg (s : State) (port code : Nat) : DefCfg := tabGet {} s.frame.defcfg (16 * port + code)

/-- The threshold of EXC or DEG in parts per 10^9. -/
def defectThr (s : State) (port code : Nat) : Nat :=
  (defectCfg s port code).thr.getD (if code = 4 then 10000 else 100000)

/-- One evaluation of a defect: masked, it clears at once and its integration is zero; otherwise it toggles when its raw
indication has differed for the whole set or clear time (R197, R199). -/
def stepDefect (code obj port vec : Nat) (raw masked : Bool) (s : State) : State :=
  let key := 4096 * code + obj
  let d := defSt s key
  let c := defectCfg s port code
  let time := if d.declared then c.clear.getD (clearDefault code) else c.set.getD (setDefault code)
  let toggles := !masked && raw != d.declared && decide (time ≤ d.ctr)
  onDefSt key (fun d => {
      declared := if masked then false else if toggles then raw else d.declared
      ctr := if masked || toggles || raw == d.declared then 0 else d.ctr + 1 }) s
    |> onlyIf (toggles && raw) (raise 0x0300 vec obj 0 [byteOf code])
    |> onlyIf ((toggles && !raw) || (masked && d.declared)) (raise 0x0301 vec obj 0 [byteOf code, byteOf (b2n masked)])

/-- The compared part of the accepted trace differs from the expected trace (R197). -/
def traceMismatch (f : RxFramer) : Bool :=
  let a := padTo 64 f.trAcc
  let e := padTo 64 f.expTrace
  match f.compare with
  | 1 => a.take 32 != e.take 32
  | 2 => a.drop 32 != e.drop 32
  | 3 => a != e
  | _ => false

/-- Raw indications of a subcarrier's defects; a dark subcarrier has none (R197). -/
def scRaw (s : State) (sc code : Nat) : Bool :=
  let f := rxFramer s sc
  rxLit s sc && match code with
    | 1 => f.st == .hunt
    | 2 => f.st != .inFrame
    | 3 => !f.mf
    | 4 => (fecSc s sc).exc
    | 5 => f.degRaw
    | 6 => traceMismatch f
    | 7 => bitOf f.status.toNat 7
    | _ => false

/-- A defect of codes below `n` and 4 is declared for the subcarrier: what masks code `n` (R197). -/
def scMasked (s : State) (sc n : Nat) : Bool :=
  (List.range (min n 4)).any (fun c => declared s c (if c = 0 then scPort sc else sc))

def tickSc (sc : Nat) (s : State) : State :=
  forAll (fun k s => stepDefect (k + 1) sc (scPort sc) (16 + scPort sc) (scRaw s sc (k + 1)) (scMasked s sc (k + 1)) s)
    (List.range 7) s

/-- Light is absent, or the receiver is off (R197). -/
def lolRaw (s : State) (p : Nat) : Bool := !receiving s p || !(rxPort s p).light || lightForced s p

/-- The descriptor of a slot in the last multiframe. -/
def lastDescriptor (s : State) (k : Nat) : Nat := tabGet 0xFFF0 (rxFramer s (k / 40)).descM (k % 40)

/-- PLM: a slot of the tributary carried a label other than the expected one (R197). -/
def plmRaw (s : State) (t : Nat) : Bool :=
  (tribOf s t).rxEn && (rxSlots s t).any (fun k =>
    rxLit s (k / 40) && lastDescriptor s k % 16 != expectedLabel (tribOf s t))

/-- SMM: a slot expected for the tributary named another, or a slot naming it was not expected for it (R197). -/
def smmRaw (s : State) (t : Nat) : Bool :=
  (tribOf s t).rxEn
    && ((rxSlots s t).any (fun k => rxLit s (k / 40) && lastDescriptor s k / 16 != t)
      || s.frame.rx.any (fun x => rxLit s x.1 && x.2.descM.any (fun e =>
          e.2 / 16 == t && (slotOwner s (40 * x.1 + e.1)).rx != t)))

/-- A defect of codes 0 to 3 is declared on a subcarrier that carries the tributary. -/
def carrierDefect (s : State) (t : Nat) : Bool := (rxSlots s t).any (fun k => scDefect s (k / 40))

def tickTrib (t : Nat) (s : State) : State :=
  let s1 := stepDefect 9 t 6 23 (smmRaw s t) (carrierDefect s t) s
  stepDefect 8 t 6 23 (plmRaw s t) (carrierDefect s t || declared s1 9 t) s1

/-- The 10 ms interval of EXC ends: the fraction of uncorrectable codewords is compared (R197). -/
def excInterval (sc : Nat) (s : State) : State :=
  onFecSc sc (fun f => { f with
    exc := decide (defectThr s (scPort sc) 4 * f.all10 < f.unc10 * 1000000000), unc10 := 0, all10 := 0 }) s

/-- A masking defect of LOM is declared (R209). -/
def lomMasked (s : State) (sc : Nat) : Bool := scMasked s sc 3

/-- Masking defects of LOM and SMM that are declared in the present second (R209). -/
def noteMasks (sc : Nat) (s : State) : State :=
  onRxFramer sc (fun f => { f with secLom := f.secLom || lomMasked s sc, secSmm := f.secSmm || scDefect s sc }) s

/-- DEFECT_TICK: every 0.1 ms each defect is evaluated (R197). -/
def defectTick (s : State) : State :=
  let due := decide (99 ≤ s.frame.excTicks)
  onFrameSt (fun f => { f with excTicks := if due then 0 else f.excTicks + 1 }) s
    |> onlyIf due (forAll excInterval allScs)
    |> forAll (fun p s => stepDefect 0 p p (16 + p) (lolRaw s p) false s) allPorts
    |> forAll tickSc allScs
    |> forAll noteMasks allScs
    |> forAll tickTrib (s.svc.trib.map (·.1))

def execDefectTick (s : State) : Res := .next (onlyIf (running s) defectTick s)

/-! PM seconds (R209, R210, R213, R214). -/

/-- A second as classified (R209). -/
def classify (thr blocks errs : Nat) (defect : Bool) : PmSec :=
  let ses := defect || (decide (0 < errs) && decide (thr * blocks ≤ 100 * errs))
  { es := defect || decide (0 < errs), ses := ses, bbe := if ses then 0 else errs, age15 := 0, age24 := 0 }

/-- Change bin `n` of a list, newest first. -/
def binAt (n : Nat) (f : PmBin → PmBin) (l : List PmBin) : List PmBin :=
  (List.range (max l.length (n + 1))).map (fun k => if k = n then f (l.getD k {}) else l.getD k {})

/-- Count a second as available. -/
def binAdd (x : PmSec) (b : PmBin) : PmBin :=
  { b with bbe := b.bbe + x.bbe, es := b.es + b2n x.es, ses := b.ses + b2n x.ses }

/-- A second counted as available becomes unavailable. -/
def binTake (x : PmSec) (b : PmBin) : PmBin :=
  { b with bbe := b.bbe - x.bbe, es := b.es - b2n x.es, ses := b.ses - b2n x.ses, uas := b.uas + 1 }

/-- A second counted as unavailable becomes available. -/
def binGive (x : PmSec) (b : PmBin) : PmBin := binAdd x { b with uas := b.uas - 1 }

def binUas (b : PmBin) : PmBin := { b with uas := b.uas + 1 }

/-- Apply a correction to the bins that hold an earlier second. -/
def correctSec (f : PmSec → PmBin → PmBin) (x : PmSec) (o : PmObj) : PmObj :=
  { o with bins15 := binAt x.age15 (f x) o.bins15, bins24 := binAt x.age24 (f x) o.bins24 }

def correctAll (f : PmSec → PmBin → PmBin) : List PmSec → PmObj → PmObj
  | [], o => o
  | x :: l, o => correctAll f l (correctSec f x o)

/-- Change both current bins. -/
def bothBins (f : PmBin → PmBin) (o : PmObj) : PmObj :=
  { o with bins15 := binHead f o.bins15, bins24 := binHead f o.bins24 }

/-- One second of an object: unavailable time begins with the first of 10 consecutive SES and ends with the first of 10
consecutive seconds that are not SES; counts already placed are corrected (R210). -/
def countSecond (x : PmSec) (o : PmObj) : PmObj :=
  let run (b : Bool) : Bool := o.recent.length == 9 && o.recent.all (fun r => r.ses == b)
  let o1 :=
    if o.uas then
      if !x.ses && run false then bothBins (binAdd x) { correctAll binGive o.recent o with uas := false }
      else bothBins binUas o
    else if x.ses && run true then bothBins binUas { correctAll binTake o.recent o with uas := true }
    else bothBins (binAdd x) o
  { o1 with recent := (x :: o.recent).take 9 }

/-- What a second adds beside its class: the second itself, corrected bits, uncorrectable codewords or errored blocks. -/
def countRest (corr unc : Nat) (o : PmObj) : PmObj :=
  bothBins (fun b => { b with secs := b.secs + 1, corr := b.corr + corr, unc := b.unc + unc }) o

/-- The object is not present in this second, which breaks a run of seconds. -/
def absent (o : PmObj) : PmObj :=
  { bothBins (fun b => { b with partialBin := true }) o with blocks := 0, errs := 0, recent := [] }

/-- A count since an earlier reading; a smaller one has started anew. -/
def delta (old new : Nat) : Nat := if old ≤ new then new - old else new

/-- Corrected bits of a subcarrier: LDPC sign differences and BCH corrections (R173/05). -/
def correctedBits (s : State) (sc : Nat) : Nat := (fecSc s sc).ldpc + (fecSc s sc).bch

/-- The one-second means of OSNR, CD in 10 ps/nm, DGD, PDL, frequency offset and received power (R213). -/
def secondMeans (sc : Nat) (s : State) : State :=
  let x := rxSc s sc
  let n := x.nSum
  let v (k : Nat) : Int := meanOf k (x.sums.getD k 0) (if k = 1 then 10 * n else n)
  onlyIf (decide (0 < n)) (forAll (fun k s => noteGauge sc (k + 2) (v k) s) (List.range 6)) s
    |> onRxSc sc (fun x => { x with sums := [], nSum := 0 })

/-- One second of a subcarrier: DEG's raw indication, the class of the second, counts and gauges. -/
def secondSc (sc : Nat) (s : State) : State :=
  let f := rxFramer s sc
  let x := classify s.frame.sesThr f.secFrames f.secErr (f.secLom || lomMasked s sc)
  let c := correctedBits s sc
  let u := (fecSc s sc).unc
  let deg := decide (0 < f.secFrames) && decide (defectThr s (scPort sc) 5 * f.secFrames ≤ f.secBip * 1000000000)
  secondMeans sc s
    |> onPmObj (pmKey 0 sc) (fun o =>
        { (if 2 ≤ rxClass s sc then countRest (delta o.corr0 c) (delta o.unc0 u) (countSecond x o) else absent o) with
          corr0 := c, unc0 := u })
    |> onRxFramer sc (fun f => { f with
        degRaw := deg, secFrames := 0, secErr := 0, secBip := 0, secLom := false, secSmm := false })

/-- A masking defect of SMM was declared for the tributary in the second: one of codes 0 to 3 on a carrying subcarrier. -/
def smmMasked (s : State) (t : Nat) : Bool := carrierDefect s t || (rxSlots s t).any (fun k => (rxFramer s (k / 40)).secSmm)

/-- One second of a tributary (R209). -/
def secondTrib (t : Nat) (s : State) : State :=
  onPmObj (pmKey 1 t) (fun o =>
    if (tribOf s t).rxEn && rxSlots s t != [] then
      { countRest 0 o.errs (countSecond (classify s.frame.sesThr o.blocks o.errs (smmMasked s t)) o) with
        blocks := 0, errs := 0 }
    else absent o) s

/-! Threshold-crossing alerts (R214). -/

def tcaKey (typ bin param dir obj : Nat) : Nat := (((obj * 2 + typ) * 2 + bin) * 16 + param) * 2 + dir

/-- The parameter's value in a bin: counts, or the last one-second value of a gauge. -/
def pmValue (o : PmObj) (bin param : Nat) : Int :=
  let b := (if bin = 0 then o.bins15 else o.bins24).getD 0 {}
  match param with
  | 0 => b.bbe
  | 1 => b.es
  | 2 => b.ses
  | 3 => b.uas
  | 4 => b.corr
  | 5 => b.unc
  | n => o.last.getD (n - 6) 0

/-- The value crosses the threshold; pre-FEC BER is kept as its negative logarithm, so a high BER is a low value. -/
def crosses (param dir : Nat) (v thr : Int) : Bool :=
  if param < 6 then decide (thr ≤ v)
  else if (dir = 0) = (param ≠ 6) then decide (thr < v) else decide (v < thr)

/-- An enabled alert of an object is raised once per bin. -/
def checkTca (seen : Nat → Bool) (e : Nat × Tca) (s : State) : State :=
  let dir := e.1 % 2
  let param := e.1 / 2 % 16
  let bin := e.1 / 32 % 2
  let typ := e.1 / 64 % 2
  let obj := e.1 / 128
  let o := pmObj s (pmKey typ obj)
  let mark := e.1 % 64
  let has := decide (param < 6) || (o.last != [] && seen obj)
  if e.2.enabled && has && !o.raised.contains mark && crosses param dir (pmValue o bin param) e.2.thr then
    onPmObj (pmKey typ obj) (fun o => { o with raised := mark :: o.raised }) s
      |> raisePm 0x0381 (if typ = 0 then 16 + scPort obj else 23) obj [byteOf typ, byteOf bin, byteOf param, byteOf dir]
  else s

/-- Every second the lead sends the current bins of every object (R393/13). -/
def sendBins (s : State) : State :=
  forAll (fun e s => mirror (.pmBins (e.1 / 10000) (e.1 % 10000) (e.2.bins15.headD {}) (e.2.bins24.headD {})) s) s.frame.pm s

/-- PM_SECOND: the timecode second that ends at `at_`. -/
def pmSecond (at_ : Nat) (s : State) : State :=
  let seen (sc : Nat) : Bool := decide (0 < (rxSc s sc).nSum)
  clockTo at_ s
    |> forAll secondTrib (s.svc.trib.map (·.1))
    |> forAll secondSc allScs
    |> (fun s => forAll (checkTca seen) s.frame.tca s)
    |> sendBins

def execPmSecond (at_ : Nat) (s : State) : Res :=
  .next (onlyIf (running s && at_ % ticksSec 1 == 0 && decide (now s ≤ at_)) (pmSecond at_) s)

/-! Bins (R211, R212). -/

def older15 (x : PmSec) : PmSec := { x with age15 := x.age15 + 1 }
def older24 (x : PmSec) : PmSec := { x with age24 := x.age24 + 1 }

/-- The write of the closed bins into PM history replaces the words it covers (R211, R333/11). -/
def rewriteHistory (day : Bool) (s : State) : State :=
  let start := ((if day then s.frame.ep24 else s.frame.ep15).getD 1 ⟨0, false, false⟩).start
  onBulk (fun b => { b with status := b.status.filter (fun e =>
    !(decide (pmBase ≤ 64 * e.1) && decide (64 * e.1 < logBase) && Config.pmRewrites start day e.1)) }) s

/-- The current bins of a period become history; the new ones begin at second `start`. -/
def closeBins (day : Bool) (start : Nat) (irregular : Bool) (s : State) : State :=
  onFrameSt (fun f =>
    let mark (e : List PmEpoch) : List PmEpoch := match e with
      | [] => []
      | h :: t => { h with irregular := h.irregular || irregular } :: t
    if day then
      { f with
        ep24 := (⟨start, false, false⟩ :: mark f.ep24).take 2
        pm := f.pm.map (fun e => (e.1, { e.2 with
          bins24 := ({} :: e.2.bins24).take 2, recent := e.2.recent.map older24
          raised := e.2.raised.filter (fun r => r / 32 == 0) })) }
    else
      { f with
        ep15 := (⟨start, false, false⟩ :: mark f.ep15).take 33
        pm := f.pm.map (fun e => (e.1, { e.2 with
          bins15 := ({} :: e.2.bins15).take 33, recent := e.2.recent.map older15
          raised := e.2.raised.filter (fun r => r / 32 == 1) })) }) s
    |> rewriteHistory day

/-- The first second after `sec` that equals the day offset modulo 86,400. -/
def nextDay (off sec : Nat) : Nat := sec + 86400 - (sec + 86400 - off) % 86400

/-- A waiting change of day offset takes effect: the 24-hour bin closes as irregular, and its cue moves (R212). -/
def applyDayOffset (sec : Nat) (s : State) : State :=
  match s.frame.dayOffNext with
  | none => s
  | some d =>
    let t := ticksSec (nextDay (900 * d) sec)
    closeBins true sec true (onFrameSt (fun f => { f with dayOff := d, dayOffNext := none }) s)
      |> setCue 1 { s.cues.pm24 with time := t, nominal := t }

/-- A bin boundary cue takes effect at `at_`: a bin closed late bears its nominal boundary (R211, R373/12). -/
def pmBoundary (i at_ : Nat) (irregular : Bool) (s : State) : State :=
  let c := cueAt s i
  closeBins (i == 1) (tcSec c.nominal) irregular s
    |> cueAgain i at_ c.time
    |> onlyIf (i == 0) (applyDayOffset (tcSec c.nominal))

def execPmBinBoundary (i at_ : Nat) (s : State) : Res :=
  need "cue" (okCue i)
    (onlyIf (decide (i < 2) && decide ((cueAt s i).time ≤ at_) && decide (now s ≤ at_) && s.ctrl.stage == .ready
        && firstDue s i at_ (fun _ => true))
      (fun s => pmBoundary i at_ false (clockTo at_ s)) s)

/-- Mark the oldest closed period that is not final. -/
def finalize : List PmEpoch → Option (Bool × List PmEpoch)
  | [] => none
  | e :: l =>
    match finalize l with
    | some (i, l') => some (i, e :: l')
    | none => if e.final then none else some (e.irregular, { e with final := true } :: l)

/-- PM_BIN_FINAL: 10 s after its boundary a bin is final, and PM_BIN_CLOSED is raised for each port's subcarriers and for the
tributaries (R211). -/
def pmBinFinal (day : Bool) (s : State) : State :=
  let l := if day then s.frame.ep24 else s.frame.ep15
  match l with
  | [] => s
  | cur :: old =>
    match finalize old with
    | none => s
    | some (irr, old') =>
      let data := [byteOf (b2n day), byteOf (b2n irr)]
      onFrameSt (fun f => if day then { f with ep24 := cur :: old' } else { f with ep15 := cur :: old' }) s
        |> forAll (fun p => raisePm 0x0380 (16 + p) p data) allPorts
        |> raisePm 0x0380 23 0xFFFF data

def execPmBinFinal (day : Bool) (s : State) : Res := .next (onlyIf (running s) (pmBinFinal day) s)

/-- A step of the timecode: backward, the current bins are irregular and go on; forward across a boundary, they close at
once as irregular (R212, R363/12). -/
def pmStep (old new : Nat) (s : State) : State :=
  let mark (e : List PmEpoch) : List PmEpoch := match e with
    | [] => []
    | h :: t => { h with irregular := true } :: t
  if new < old then onFrameSt (fun f => { f with ep15 := mark f.ep15, ep24 := mark f.ep24 }) s
  else
    onlyIf (decide (s.cues.pm15.time ≤ new)) (pmBoundary 0 new true) s
      |> onlyIf (decide (s.cues.pm24.time ≤ new)) (pmBoundary 1 new true)

/-! The pm commands. -/

/-- pm.config (0x0380): a change of day offset waits for the next 15-minute boundary (R212). -/
def pmConfig (r : Req) (s : State) : Reply :=
  let d := r.u 2 2
  if r.u 0 1 < 1 ∨ 50 < r.u 0 1 ∨ 95 < d then refuse .range s
  else okay (onFrameSt (fun f => { f with
    sesThr := r.u 0 1, dayOffNext := if d = f.dayOff then none else some d }) s)

def execPmConfig (mb : Nat) (s : State) : Res := mailbox ⟨0x0380, some 4, [(1, 1)]⟩ pmConfig mb s

/-- Objects of a PM type: 96 subcarriers, 3,840 tributaries. -/
def pmObjects (typ : Nat) : Nat := if typ = 0 then 96 else 3840

/-- pm.tca (0x0381). -/
def pmTca (r : Req) (s : State) : Reply :=
  let typ := r.u 0 1
  let bin := r.u 1 1
  let param := r.u 2 1
  let dir := r.u 3 1 % 2
  let obj := r.u 4 2
  if 1 < typ ∨ 1 < bin ∨ 13 < param ∨ (dir = 1 ∧ param < 6) ∨ (typ = 1 ∧ (param = 4 ∨ 6 ≤ param))
      ∨ pmObjects typ ≤ obj then refuse .badarg s
  else okay (onFrameSt (fun f => { f with
    tca := tabSet {} f.tca (tcaKey typ bin param dir obj) { enabled := 128 ≤ r.u 3 1, thr := r.i 8 8 } }) s)

def execPmTcaConfig (mb : Nat) (s : State) : Res := mailbox ⟨0x0381, some 16, [(6, 2)]⟩ pmTca mb s

/-- A gauge of pm.read: minimum, mean and maximum; zeros for a gauge without values. -/
def gaugeBytes (k : Nat) (g : Gauge) : List Byte :=
  if g.n = 0 then zeros 6 else intBE 2 g.lo ++ intBE 2 (meanOf (16 + k) g.sum g.n) ++ intBE 2 g.hi

/-- pm.read (0x0382). A bin whose word in PM history is uncorrectable reads as zeros with its irregular flag set (R337/11, code 7). -/
def pmRead (r : Req) (s : State) : Reply :=
  let typ := r.u 0 1
  let bin := r.u 1 1
  let idx := r.u 2 1
  let obj := r.u 4 2
  if 1 < typ ∨ 1 < bin ∨ pmObjects typ ≤ obj then refuse .badarg s
  else if (if bin = 0 then 32 else 1) < idx then refuse .range s
  else
    let o := pmObj s (pmKey typ obj)
    let l := if bin = 0 then o.bins15 else o.bins24
    let kept := l.getD idx {}
    let b := if kept.lost then {} else kept
    let e := (if bin = 0 then s.frame.ep15 else s.frame.ep24).getD idx ⟨0, false, false⟩
    let missing := b.partialBin || l.length ≤ idx
    okWith ([byteOf typ, byteOf bin, byteOf idx, 0
        , byteOf (b2n (e.irregular || kept.lost) + 2 * b2n e.final + 4 * b2n b.cleared + 8 * b2n missing), 0]
      ++ natBE 6 e.start ++ natBE 4 b.secs ++ natBE 4 b.bbe ++ natBE 4 b.es ++ natBE 4 b.ses ++ natBE 4 b.uas
      ++ natBE 8 b.corr ++ natBE 8 b.unc
      ++ (List.range 8).flatMap (fun k => gaugeBytes k (b.gauges.getD k {}))) s

def execPmRead (mb : Nat) (s : State) : Res := mailbox ⟨0x0382, some 8, [(3, 1), (6, 2)]⟩ pmRead mb s

/-- The current bins are zeroed and flagged cleared, and the alerts armed again (R214). -/
def clearPm (o : PmObj) : PmObj :=
  { bothBins (fun _ => { cleared := true }) o with raised := [] }

/-- pm.clear (0x0383). -/
def pmClear (r : Req) (s : State) : Reply :=
  let typ := r.u 0 1
  let obj := r.u 2 2
  if 1 < typ then refuse .badarg s
  else if obj = 0xFFFF then okay (forAll (fun k => onPmObj (pmKey typ k) clearPm) (List.range (pmObjects typ)) s)
  else if pmObjects typ ≤ obj then refuse .range s
  else okay (onPmObj (pmKey typ obj) clearPm s)

def execPmClear (mb : Nat) (s : State) : Res := mailbox ⟨0x0383, some 4, [(1, 1)]⟩ pmClear mb s

end Sys2Proof.Machine
end

