-- ==== Sys2Proof/Machine/Firmware.lean ====
section
/-! DEFINITION. The sys commands and the firmware update session (02_control_interface.md). Resets, boot and restarts are
in Power.lean. -/

namespace Sys2Proof.Machine

/-! sys commands. -/

def slotOf (f : Fw) (n : Nat) : Slot := if n = 1 then f.slotA else f.slotB

/-- The slot not marked active. -/
def otherSlot (n : Nat) : Nat := if n = 1 then 2 else 1

def setSlot (n : Nat) (x : Slot) (f : Fw) : Fw :=
  { f with slotA := if n = 1 then x else f.slotA, slotB := if n = 1 then f.slotB else x }

/-- The version of an image; zero if the slot is empty. -/
def versionOf (x : Slot) : Nat := if x.state = 0 then 0 else x.version.toNat

/-- The highest link generation a module supports (R238/07), and the highest pair generation (R403/13). -/
def linkGeneration : Nat := 2
def pairGeneration : Nat := 2

/-- sys.identify (0x0100). -/
def sysIdentify (_ : Req) (s : State) : Reply :=
  okWith (padTo 16 Config.orderingCode ++ padTo 16 Config.serialText ++ natBE 2 Config.revision.toNat
    ++ natBE 4 Config.bootRomVersion.toNat ++ natBE 4 (versionOf s.fw.slotA) ++ natBE 4 (versionOf s.fw.slotB)
    ++ [byteOf s.ctrl.running, byteOf linkGeneration, byteOf pairGeneration, 0, 0, 0]) s

def execSysIdentify (mb : Nat) (s : State) : Res := mailbox (bareShape 0x0100) sysIdentify mb s

/-- STAGE as a number (R48). -/
def stageCode : Stage → Nat
  | .power => 0 | .rom => 1 | .load => 2 | .init => 3 | .ready => 4 | .recovery => 8 | .restart => 9 | .shutdown => 0xE

/-- Cues pending in the table, entries 0 and 1 among them (R370/12). -/
def pendingCues (s : State) : Nat :=
  b2n (s.cues.pm15.state != 0) + b2n (s.cues.pm24.state != 0)
    + (s.cues.table.filter (fun e => e.2.state != 0)).length

/-- The input power in 0.1 W, to the nearest: VIN in 10 mV times the input current in mA (R406/14; notes/assumptions/51.md). -/
def inputPower (s : State) : Int := roundDiv ((chanVal s 56).value * (chanVal s 57).value) 10000

/-- sys.status (0x0101). The rail, VIN and the input power are stored readings of the monitor (R408/14). -/
def sysStatus (_ : Req) (s : State) : Reply :=
  okWith ([byteOf (stageCode s.ctrl.stage), byteOf s.pair.role] ++ natBE 4 s.ctrl.cfgGen.toNat
    ++ natBE 4 (tcSec (upTime s)) ++ intBE 2 (hottest s).2 ++ [byteOf (hottest s).1, byteOf (lowestMargin s).1]
    ++ intBE 2 (marginField (lowestMargin s).2) ++ intBE 2 (chanVal s 48).value ++ intBE 2 (chanVal s 56).value ++ intBE 2 (inputPower s)
    ++ [byteOf (allScs.filter (txLit s)).length, byteOf (activeLanes s)] ++ natBE 2 (pendingCues s) ++ [0, 0]) s

def execSysStatus (mb : Nat) (s : State) : Res := mailbox (bareShape 0x0101) sysStatus mb s

/-- sys.evmask (0x0104): R84. -/
def sysEvmask (r : Req) (s : State) : Reply :=
  let code := r.u 0 2
  match eventVector code with
  | none => refuse .badarg s
  | some v =>
    if 1 < r.u 2 1 then refuse .badarg s
    else if isUrgent v then refuse .denied s
    else okWith [byteOf (b2n (!suppressed s code)), 0, 0, 0]
      (onEv (fun e => { e with
        suppressed := if r.u 2 1 = 0 then including code e.suppressed else without code e.suppressed }) s)

def execSysEvmask (mb : Nat) (s : State) : Res := mailbox ⟨0x0104, some 4, [(3, 1)]⟩ sysEvmask mb s

/-- sys.echo (0x0105): the same bytes. -/
def sysEcho (r : Req) (s : State) : Reply := okWith r.pay s

def execSysEcho (mb : Nat) (s : State) : Res := mailbox ⟨0x0105, none, []⟩ sysEcho mb s

/-! Module quiet (R83, R468/18). -/

/-- A port.reset in progress ends at once, and its directions do not come back (R470/18). -/
def endPortReset (p : Nat) (s : State) : State :=
  finishDeferred 0x0211 p .denied
    (onRxPort p (fun r => { r with resetOn := false }) (onTxPort p (fun t => { t with resetOn := false }) s))

/-- Both directions of a port off. -/
def darkPort (p : Nat) (s : State) : State :=
  onlyIf ((txPort s p).tx != .off) (closeTx p) s
    |> (fun s => onlyIf ((rxPort s p).st != .off) (closeRx p) s)
    |> endPortReset p

/-- Entry: each direction that is on is remembered, and the port goes dark. -/
def quietPort (p : Nat) (s : State) : State :=
  onTxPort p (fun t => { t with quietOn := t.tx == .on }) s
    |> onRxPort p (fun r => { r with quietOn := afterCalibrate r.st })
    |> darkPort p

/-- Leaving: each remembered direction is enabled again by R106 and R151, with the LO reading `lo`. -/
def unquietPort (los : List Int) (p : Nat) (s : State) : State :=
  let lo := los.getD p 0
  let tx := (txPort s p).quietOn && (txPort s p).tx == .off && feedGood s p lo
  let rx := (rxPort s p).quietOn && (rxPort s p).st == .off && feedGood s p lo
  onlyIf tx (startTx p lo) s |> onlyIf rx (startRx p lo)
    |> onTxPort p (fun t => { t with quietOn := false })
    |> onRxPort p (fun r => { r with quietOn := false })

/-- sys.quiet (0x0103). -/
def sysQuiet (los : List Int) (r : Req) (s : State) : Reply :=
  let on := r.u 0 1 == 1
  if 1 < r.u 0 1 then refuse .badarg s
  else if on = s.quiet then okSame s
  else okay { (forAll (if on then quietPort else unquietPort los) allPorts s) with quiet := on }

def execSysQuiet (mb : Nat) (los : List Int) (s : State) : Res :=
  mailbox ⟨0x0103, some 4, [(1, 3)]⟩ (sysQuiet los) mb s

/-! The update session (R79, R85, R86). -/

def stagingSize : Nat := 4194304

/-- Clear the staging area: its valid bits (R79, R331/11). -/
def clearStaging (s : State) : State :=
  onBulk (fun b => { b with
    mem := memDrop b.mem stagingBase stagingSize
    valid := b.valid.filter (fun e => decide (e.1 < stagingBase / 4096) || decide (96256 ≤ e.1))
    status := b.status.filter (fun e => decide (e.1 < stagingBase / 64) || decide (96256 * 64 ≤ e.1)) }) s

/-- Bytes staged: the ranges are disjoint and ascending. -/
def stagedBytes (l : List (Nat × Nat)) : Nat := (l.map (fun e => e.2 - e.1)).sum

/-- Add the range [a, b) to disjoint ascending ranges. -/
def addRange (a b : Nat) : List (Nat × Nat) → List (Nat × Nat)
  | [] => [(a, b)]
  | (c, d) :: l =>
    if b < c then (a, b) :: (c, d) :: l
    else if d < a then (c, d) :: addRange a b l
    else addRange (min a c) (max b d) l

/-- fw.begin (0x0F01). FORCE discards an open session unless it is activating. -/
def fwBegin (r : Req) (s : State) : Reply :=
  if r.u 0 4 < 1 ∨ 4194304 < r.u 0 4 then refuse .range s
  else if s.fw.session ≠ 0 ∧ (r.force = false ∨ s.fw.session = 3) then refuse .busy s
  else okay (onFw (fun f => { f with
      session := 1, size := r.u 0 4, crc := BitVec.ofNat 32 (r.u 4 4), version := BitVec.ofNat 32 (r.u 8 4)
      staged := [] }) (clearStaging s))

def execFwBegin (mb : Nat) (s : State) : Res := mailbox ⟨0x0F01, some 12, []⟩ fwBegin mb s

/-- fw.write (0x0F02). LENGTH is 8 + n with n from 1 to 224. -/
def fwWrite (r : Req) (s : State) : Reply :=
  let off := r.u 0 4
  let n := r.u 4 2
  if r.len < 8 ∨ n < 1 ∨ 224 < n ∨ r.len ≠ 8 + n then refuse .badarg s
  else if s.fw.session ≠ 1 then refuse .denied s
  else if s.fw.size < off + n then refuse .range s
  else okay (store (stagingBase + off) (field 8 n r.pay) 0
    (onFw (fun f => { f with staged := addRange off (off + n) f.staged }) s))

def execFwWrite (mb : Nat) (s : State) : Res := mailbox ⟨0x0F02, none, [(6, 2)]⟩ fwWrite mb s

/-- The staged image. -/
def stagedImage (s : State) : List Byte := bulkBytes s stagingBase s.fw.size

/-- The words of the staged image. -/
def stagedWords (s : State) : List Nat := (List.range ((s.fw.size + 63) / 64)).map (stagingBase + 64 * ·)

/-- The checks of R85. -/
def imageGood (s : State) : Bool :=
  let im := stagedImage s
  stagedBytes s.fw.staged == s.fw.size && crc32 im == s.fw.crc.toNat
    && Config.imageDevice im == 0x9260 && decide (Config.imageMinRev im ≤ Config.revision.toNat)

/-- fw.verify (0x0F03). A session that is activating has been verified and is not open to another check. It reads the whole image:
an uncorrectable word fails the CRC check (R337/11, code 9). -/
def fwVerify (_ : Req) (s : State) : Reply :=
  let crc := natBE 4 (crc32 (stagedImage s))
  let r := readWords 9 (stagedWords s) s
  if s.fw.session = 0 ∨ s.fw.session = 3 then refuse .denied s
  else if imageGood s && !r.1.contains true then okWith crc (onFw (fun f => { f with session := 2 }) r.2)
  else ⟨.range, crc, r.2, true⟩

def execFwVerify (mb : Nat) (s : State) : Res := mailbox (bareShape 0x0F03) fwVerify mb s

/-- The slot not marked active is programmed and read back; a match moves the active mark, a difference marks the slot
failed (R86). The session ends, a failed slot shows the new image's version, size and check value, and until the end the slot
keeps its old record (DESIGN CHOICE, notes/assumptions/52.md). -/
def programSlot (same : Bool) (s : State) : State :=
  let n := otherSlot s.fw.active
  onFw (fun f => { setSlot n
      { version := f.version, size := f.size, crc := f.crc, state := if same then 1 else 2 } f with
    active := if same then n else f.active, session := 0 }) s
    |> onlyIf (!same) (raise 0x0F01 10 0 0 [byteOf n])

def activateCode (same : Bool) : Code := if same then .ok else .fault

/-- The order of waiting work (R428/15): flush, reported flag, retirement map, calibration writes, fw.activate; an erasure,
to which the rule gives no place, comes last. -/
def workRank : FlashWork → Nat
  | .flush => 0 | .reported => 1 | .retirementMap => 2 | .cal _ _ _ _ => 3 | .activate => 4 | .erase _ _ _ => 5

/-- The first of the waiting work. -/
def firstWork : List FlashWork → Option FlashWork
  | [] => none
  | w :: l =>
    match firstWork l with
    | none => some w
    | some v => if workRank w ≤ workRank v then some w else some v

/-- While the window is open and the flash idle, the first of the waiting work starts (R428, R429/15). -/
def startWork (s : State) : State :=
  if s.therm.window && s.therm.busy.isNone then
    match firstWork s.therm.work with
    | none => s
    | some w => onTherm (fun t => { t with busy := some w, work := t.work.erase w }) s
  else s

/-- The flash takes work now: the window is open and nothing else waits or is being programmed (R427 to R429/15). -/
def flashFree (s : State) : Bool := s.therm.window && s.therm.work.isEmpty && s.therm.busy.isNone

/-- fw.activate (0x0F04): at once for an image under 256 KiB while the flash is free, DEFERRED otherwise. -/
def fwActivate (same : Bool) (r : Req) (s : State) : Reply :=
  if s.fw.session ≠ 2 then refuse .denied s
  else if decide (s.fw.size < 262144) && flashFree s then ⟨activateCode same, [], programSlot same s, false⟩
  else defer r 0 (onTherm (fun t => { t with work := t.work ++ [.activate] }) (onFw (fun f => { f with session := 3 }) s))

def execFwActivate (mb : Nat) (same : Bool) (s : State) : Res := mailbox (bareShape 0x0F04) (fwActivate same) mb s

/-- The last page of a deferred activation: the outcome, COMMAND_DONE, and the flash is free for the next work. -/
def activationDone (same : Bool) (s : State) : State :=
  programSlot same (onTherm (fun t => { t with busy := none }) s) |> finishDeferred 0x0F04 0 (activateCode same)

/-- FW_ACTIVATE_DONE: while the window is open (R429/15) and the module has its rails; a power fail before it leaves the
active mark (R86). -/
def execFwActivateDone (same : Bool) (s : State) : Res :=
  .next (onlyIf (awake s && (startWork s).therm.busy == some .activate && s.therm.window) (fun s => activationDone same (startWork s)) s)

def slotInfo (x : Slot) (active : Bool) : List Byte :=
  natBE 4 (versionOf x) ++ natBE 4 x.size ++ natBE 4 x.crc.toNat ++ [byteOf x.state, byteOf (b2n active), 0, 0]

/-- fw.info (0x0F00). -/
def fwInfo (_ : Req) (s : State) : Reply :=
  let f := s.fw
  okWith (slotInfo f.slotA (f.active == 1) ++ slotInfo f.slotB (f.active == 2)
    ++ [byteOf f.session, 0, 0, 0] ++ natBE 4 (if f.session = 0 then 0 else stagedBytes f.staged)) s

def execFwInfo (mb : Nat) (s : State) : Res := mailbox (bareShape 0x0F00) fwInfo mb s

end Sys2Proof.Machine
end

