-- ==== Sys2Proof/Machine/Hub.lean ====
section
/-! DEFINITION. Hub mode and the casting channel (07_hub_and_casting.md). -/

namespace Sys2Proof.Machine

/-! Frames of the casting channel (R222 to R226). -/

/-- The casting identity: bits [47:3] from the serial number, bits [2:0] the port (R224). -/
def castIdent (p : Nat) : Nat := 8 * (Config.serialNumber % 2 ^ 45) + p

/-- CRC-16 of the casting header (R224). -/
def crc16 (bs : List Byte) : Nat := crcMsb 16 0x1021 0xFFFF bs

/-- The 16-byte header (R224). -/
def castHeader (p typ flags len slot : Nat) : List Byte :=
  let h := natBE 6 (castIdent p) ++ [byteOf typ, byteOf flags] ++ natBE 2 len ++ natBE 2 slot ++ [0, 0]
  h ++ natBE 2 (crc16 h)

/-- `n` bits of the PRBS x^11 + x^9 + 1 from a register, and the register after them (R223). -/
def prbs11 : Nat → Nat → List Bool × Nat
  | 0, r => ([], r)
  | n + 1, r =>
    let b := bitOf r 10 != bitOf r 8
    let y := prbs11 n ((2 * r + b2n b) % 2 ^ 11)
    (b :: y.1, y.2)

/-- In-phase and quadrature levels of the symbols of a casting frame: two bits each, b0 then b1, as 1 - 2b (R223). -/
def castSymbols : List Bool → List (Int × Int)
  | b0 :: b1 :: bits => (1 - 2 * (b2n b0 : Int), 1 - 2 * (b2n b1 : Int)) :: castSymbols bits
  | _ => []

/-- Payload blocks of an upstream burst with a message of `len` bytes (R225). -/
def burstBlocks (len : Nat) : Nat := if len = 0 then 0 else ceilDiv (len + 4) 64

/-- Payload blocks of every frame that fills a slot, beacon or capability (R223; notes/assumptions/57.md). -/
def beaconBlocks : Nat := 8

/-- The payload information of `n` blocks: message, CRC-32, zeros (R225). -/
def castInfo (n : Nat) (msg : List Byte) : List Byte :=
  if n = 0 then [] else padTo (64 * n) (msg ++ natBE 4 (crc32 msg))

/-- A 64 x 64 circulant applied to a block: row x takes column (x + h) mod 64. -/
def castCirculant (h v : Nat) : Nat := (v / 2 ^ h) ||| (v * 2 ^ (64 - h) % 2 ^ 64)

/-- Row block and shift of the three circulants of information column `b` (R225). -/
def castCirculants (b : Nat) : List (Nat × Nat) :=
  [(b, (11 * b + 5) % 64), ((b + 3) % 8, (23 * b + 17) % 64), ((b + 5) % 8, (37 * b + 29) % 64)]

/-- The partial syndrome of row block `r` over the eight information blocks. -/
def castSyndrome (blocks : List Nat) (r : Nat) : Nat :=
  (List.range 8).foldl (fun a b =>
    (castCirculants b).foldl (fun a c => if c.1 = r then a ^^^ castCirculant c.2 (blocks.getD b 0) else a) a) 0

/-- The parity blocks by accumulation (R158/05). -/
def castParity (blocks : List Nat) : Nat → Nat → List Nat
  | 0, _ => []
  | n + 1, prev =>
    let v := castSyndrome blocks (7 - n) ^^^ prev
    v :: castParity blocks n v

/-- Block `b` of 64 positions: bit x of the number is position x. -/
def castBlock (bits : List Bool) (b : Nat) : Nat :=
  listMask ((List.range 64).filter (fun x => bits.getD (64 * b + x) false))

/-- The 1,024 coded bits of a 64-byte block, in position order (R225). -/
def castEncode (info : List Byte) : List Bool :=
  let bits := info.flatMap byteBits
  bits ++ (castParity ((List.range 8).map (castBlock bits)) 8 0).flatMap (fun v => (List.range 64).map (bitOf v))

def castBlocks : Nat → List Byte → List Bool
  | 0, _ => []
  | n + 1, info => castEncode (info.take 64) ++ castBlocks n (info.drop 64)

/-- Bits as bytes, the first bit most significant. -/
def castBytes (n : Nat) (bs : List Bool) : List Byte := natBE n (bitsNat bs)

/-- Every bit of the CRC-32 behind the message inverted (point 0x086 + p, R443/16). -/
def badCrc (n : Nat) (info : List Byte) : List Byte := overlay n ((field n 4 info).map (~~~ ·)) info

/-- A casting frame as sent, two bits a symbol: preamble of 256 symbols, header, coded payload, and a beacon's tail of 204
symbols (R223 to R225); `bad` inverts its CRC-32. -/
def castFrame (seed n : Nat) (tail bad : Bool) (hdr msg : List Byte) : List Byte :=
  let info := if bad then badCrc msg.length (castInfo n msg) else castInfo n msg
  let pre := prbs11 512 seed
  let bits := pre.1 ++ hdr.flatMap byteBits ++ castBlocks n info
    ++ (if tail then (prbs11 408 pre.2).1 else [])
  castBytes (bits.length / 8) bits

/-- A beacon frame: seed 0x2B5, eight blocks, with a tail (R223). -/
def beaconFrame (p typ flags slot : Nat) (bad : Bool) (msg : List Byte) : List Byte :=
  castFrame 0x2B5 beaconBlocks true bad (castHeader p typ flags msg.length slot) msg

/-- An upstream burst: seed 0x4D3, without a tail (R223). -/
def burstFrame (p typ slot : Nat) (msg : List Byte) : List Byte :=
  castFrame 0x4D3 (burstBlocks msg.length) false false (castHeader p typ 0 msg.length slot) msg

/-! Receiving a casting frame: the normalized min-sum decoder, at most 10 iterations, then the CRC-32 (R225). Its passes are those of
the line's decoder (notes/assumptions/57.md). -/

/-- The positions of check `x` of row block `r` (R225). -/
def castPositions (r x : Nat) : List Nat :=
  (List.range 8).flatMap (fun b => ((castCirculants b).filter (fun c => c.1 == r)).map (fun c => 64 * b + (x + c.2) % 64))
    ++ [64 * (8 + r) + x] ++ (if r = 0 then [] else [64 * (7 + r) + x])

/-- The message of a check from the soft values of its other positions. -/
def castMessage (qs : List Int) : Int :=
  let m := (Config.castScale (leastMagnitude qs) : Int)
  if negative qs then -m else m

/-- One check of the casting code. -/
def castCheck (r x : Nat) (m : MinSum) : MinSum :=
  let ps := castPositions r x
  let q (n : Nat) := m.soft n - m.msg (64 * r + x) n
  let fresh (n : Nat) := castMessage ((ps.erase n).map q)
  { soft := fun n => if ps.contains n then q n + fresh n else m.soft n
    msg := fun k n => if k = 64 * r + x ∧ ps.contains n then fresh n else m.msg k n }

def castIteration (m : MinSum) : MinSum :=
  (List.range 8).foldl (fun a r => (List.range 64).foldl (fun a x => castCheck r x a) a) m

/-- The information bytes of a block, once its hard decisions are a codeword; none where they are not after `left` iterations. -/
def castDecode : Nat → MinSum → Option (List Byte)
  | left, m =>
    let bits := (List.range 1024).map (fun n => hardBit (m.soft n))
    let info := castBytes 64 (bits.take 512)
    if castEncode info = bits then some info
    else match left with
      | 0 => none
      | left + 1 => castDecode left (castIteration m)

/-- The information of `n` blocks; none where a block fails. -/
def castDecodes : Nat → List Int → Option (List Byte)
  | 0, _ => some []
  | n + 1, llrs => do
    let a ← castDecode 10 (loaded (llrs.take 1024))
    let b ← castDecodes n (llrs.drop 1024)
    some (a ++ b)

/-- The message of `len` bytes in `n` blocks; none where a block or the CRC-32 fails. -/
def castPayload (n len : Nat) (llrs : List Int) : Option (List Byte) :=
  match castDecodes n llrs with
  | none => none
  | some info =>
    if n = 0 then some []
    else if crc32 (info.take len) = getU len 4 info ∧ len + 4 ≤ 64 * n then some (info.take len) else none

/-! Capability records (R237, R404/13). -/

/-- The highest link generation advertised: 2; in a pair, the lower of the two modules', once the partner's is known. -/
def ownGen (s : State) : Nat :=
  if s.pair.role = 0 ∨ s.pair.farLinkGen = 0 then 2 else min 2 s.pair.farLinkGen

def roleNum : Role → Nat
  | .p2p => 0 | .hub => 1 | .leaf => 2

/-- The classes a port is to transmit: its present ones with its placed changes. -/
def intended (s : State) (p : Nat) : List Nat :=
  (txPort s p).changes.foldl (fun cs c => applyClasses c cs) (txPort s p).classes

/-- The 32-byte capability record of a port: a subcarrier out of service is dark (R438/16). -/
def capRecord (s : State) (p : Nat) : List Byte :=
  [byteOf (ownGen s), 0x7C, 1, 1, 7, byteOf (b2n (isFollower s p)), byteOf (roleNum (hubPort s p).role), 0]
    ++ (List.range 16).map (fun k => byteOf (if (rxSc s (16 * p + k)).oos then 0 else (intended s p).getD k 0)) ++ zeros 8

/-- The far end supports class `k`: dark always (R237). -/
def supports (mask k : Nat) : Bool := k == 0 || bitOf mask k

/-! The hub's side (R217, R233 to R236). -/

/-- The control firmware decides for the port: running, and not a stand-in or a module without the lease (R236). -/
def decides (s : State) : Bool := s.ctrl.stage == .ready && decide (s.pair.role ≤ 1)

def isHub (s : State) (p : Nat) : Bool := (hubPort s p).role == .hub
def isLeaf (s : State) (p : Nat) : Bool := (hubPort s p).role == .leaf

def leafOf (s : State) (p n : Nat) : Leaf := tabGet {} (hubPort s p).leaves n

def onLeaf (p n : Nat) (f : Leaf → Leaf) (s : State) : State :=
  onHubPort p (fun h => { h with leaves := tabMod {} h.leaves n f }) s

/-- The leaf that owns subcarrier `k` of a hub port. -/
def ownerOf (s : State) (p k : Nat) : Option Nat := (List.range 16).find? (fun n => bitOf (leafOf s p n).mask k)

/-- The leaf number that holds an identity. -/
def leafByIdent (s : State) (p ident : Nat) : Option Nat :=
  (List.range 16).find? (fun n => (leafOf s p n).state != 0 && (leafOf s p n).ident == ident)

/-- A record for the next four beacon frames (R227). -/
def pushRecord (p typ ident n : Nat) (rest : List Byte) (s : State) : State :=
  onHubPort p (fun h => { h with
    recs := h.recs ++ [(byteOf typ :: natBE 6 ident ++ [byteOf n] ++ padTo 8 rest, 4)] }) s

/-- Subcarriers go dark at the next boundary at least 2.0 ms ahead, merged into an open change; at once where the cue table
has no room. -/
def darken (p mask tag : Nat) (s : State) : Option State :=
  (mergeOrPlace p mask [] (earliestBoundary s) tag s).map (fun t => t.2.2)

def darkenNow (p mask : Nat) (s : State) : State :=
  onTxPort p (fun t => { t with
    classes := (List.range 16).map (fun k => if bitOf mask k then 0 else t.classes.getD k 0) }) s

/-- On a hub, a subcarrier that no leaf owns is dark in both directions, and the upstream class of an owned one is its
leaf's (R216). -/
def ownedClass (s : State) (p k cls : Nat) : Nat := if (ownerOf s p k).isSome then cls else 0

def classesNow (s : State) (p : Nat) : List Nat := (List.range 16).map (fun k => (txPort s p).classes.getD k 0)

/-- The subcarriers that the format change of cue `i` names. -/
def changeMask (s : State) (i : Nat) : Nat :=
  match (txPort s (cueAt s i).obj).changes.find? (fun c => c.cue == i) with
  | some c => c.mask
  | none => 0

/-- What a format change of subcarriers `mask` brings on a hub: ungranted ones stay dark, and the receive class of each is
its class. -/
def hubFollow (p mask : Nat) (s : State) : State :=
  let cs := (List.range 16).map (fun k =>
    let c := (classesNow s p).getD k 0
    if bitOf mask k then ownedClass s p k c else c)
  forAll (fun k => setFarClass (16 * p + k) (cs.getD k 0)) (maskList 16 mask)
    (onTxPort p (fun t => { t with classes := cs }) s)

/-- Classes that the far end of a point-to-point port does not support are sent dark (R240). -/
def limitClasses (p : Nat) (s : State) : State :=
  let far := (getU 1 1 (hubPort s p).far)
  let bad := (List.range 16).filter (fun k => !supports far ((classesNow s p).getD k 0))
  if (hubPort s p).far = [] ∨ bad = [] then s
  else
    darkenNow p (listMask bad) s |> raisePort 0x0482 p (natBE 2 (listMask bad))

/-- FORMAT_CHANGE_CUE: the change at its common boundary, with what the port's role adds; against a far end of another role it lights
nothing (R97, R216, R240). -/
def formatChange (i at_ : Nat) (s : State) : State :=
  let p := (cueAt s i).obj
  applyFormat i at_ s
    |> onlyIf (isHub s p) (hubFollow p (changeMask s i))
    |> onlyIf ((hubPort s p).role == .p2p) (limitClasses p)
    |> onlyIf (hubPort s p).mism (darkenNow p (listMask ((List.range 16).filter (fun k => (classesNow s p).getD k 0 == 0))))

def execFormatChangeCue (i at_ : Nat) (s : State) : Res :=
  need "cue" (okCue i) (onlyIf (dueOnGrid s i 1 at_) (formatChange i at_) s)

/-- hub.role (0x0400). Releasing a role ends its grants; no subcarrier is granted under the new one, so every subcarrier is dark in both
directions and the pending format changes are void (R216). The role conflict of R145/04 ends with the roles. -/
def hubRole : Req → State → Reply := onPort fun p r s =>
  let new : Role := if r.u 1 1 = 0 then .p2p else if r.u 1 1 = 1 then .hub else .leaf
  let h := hubPort s p
  if 2 < r.u 1 1 then refuse .badarg s
  else if portLit s p then refuse .denied s
  else if h.role = new then okSame s
  else
    okay (onHubPort p (fun h => { ({} : HubPort) with
        role := new, thr := h.thr, level := h.level, keep := h.keep, ackT := h.ackT }) (endJoin p .denied s)
      |> forAll (dropChange p) (txPort s p).changes
      |> onTxPort p (fun t => { t with classes := List.replicate 16 0 })
      |> forAll (fun sc => onRxSc sc (fun x => { x with far := 0 })) (portScs p)
      |> onRxPort p (fun r => { r with conflict := false, ann := [] }))

def execHubRole (mb : Nat) (s : State) : Res := mailbox ⟨0x0400, some 4, [(2, 2)]⟩ hubRole mb s

/-- The classes a grant asks for: its class on the new mask, dark on what it takes away (R234). -/
def grantClasses (mask cls : Nat) : List Nat := (List.range 16).map (fun k => if bitOf mask k then cls else 0)

/-- hub.grant (0x0401). -/
def hubGrant : Req → State → Reply := onPort fun p r s =>
  let n := r.u 1 1
  let mask := r.u 2 2
  let cls := r.u 4 1
  let l := leafOf s p n
  if 15 < n ∨ cls < 2 ∨ 6 < cls ∨ mask = 0 then refuse .range s
  else if isHub s p = false ∨ l.state = 0 ∨ supports l.classes cls = false
      ∨ (maskList 16 mask).any (fun k => (ownerOf s p k).any (· != n)) then refuse .denied s
  else match mergeOrPlace p (mask ||| l.mask) (grantClasses mask cls) (earliestBoundary s) r.tag s with
    | none => refuse .nores s
    | some (b, _, t) =>
      okWith (tcBytes10 b ++ [0, 0])
        (onLeaf p n (fun l => { l with mask := mask, cls := cls, state := if l.state = 3 then 3 else 2 }) t
          |> pushRecord p 2 l.ident n (natBE 2 mask ++ [byteOf cls]))

def execHubGrant (mb : Nat) (s : State) : Res := mailbox ⟨0x0401, some 8, [(5, 3)]⟩ hubGrant mb s

/-- hub.release (0x0402): RELEASE for a mask, DENY with reason 4 for the whole leaf. -/
def hubRelease : Req → State → Reply := onPort fun p r s =>
  let n := r.u 1 1
  let l := leafOf s p n
  let whole := r.u 2 2 = 0
  let mask := if whole then l.mask else r.u 2 2 &&& l.mask
  if isHub s p = false ∨ l.state = 0 then refuse .denied s
  else match (if mask = 0 then some s else darken p mask r.tag s) with
    | none => refuse .nores s
    | some t =>
      if whole then okay (onLeaf p n (fun _ => {}) t |> pushRecord p 5 l.ident 0xFF [4])
      else okay (onLeaf p n (fun l => { l with
          mask := l.mask ^^^ mask, state := if l.mask = mask ∧ l.state = 2 then 1 else l.state }) t
        |> pushRecord p 4 l.ident n (natBE 2 (r.u 2 2)))

def execHubRelease (mb : Nat) (s : State) : Res := mailbox ⟨0x0402, some 4, []⟩ hubRelease mb s

/-- A leaf's entry of hub.status. -/
def leafEntry (manual : Bool) (l : Leaf) : List Byte :=
  natBE 6 l.ident ++ [byteOf l.state, byteOf l.gen] ++ natBE 2 l.mask ++ [byteOf l.cls, 0] ++ intBE 4 l.off
    ++ intBE 4 (if manual then 0 else l.disp) ++ natBE 4 l.keeps

/-- A leaf port's own entry: its digital shift at offset 12. -/
def ownEntry (p : Nat) (h : HubPort) : Leaf :=
  { ident := castIdent p, state := if h.owned ≠ 0 then 2 else if h.leafNum = 0xFF then 0 else 1, gen := h.gen
    mask := h.owned, cls := h.ownedCls, off := h.shift }

/-- hub.status (0x0405). -/
def hubStatus : Req → State → Reply := onPort fun p r s =>
  let first := r.u 1 1
  if first ≠ 0 ∧ first ≠ 8 then refuse .badarg s
  else if isLeaf s p then
    okWith (if first = 0 then leafEntry true (ownEntry p (hubPort s p)) ++ zeros 168 else zeros 192) s
  else okWith ((List.range 8).flatMap (fun i => leafEntry (rxPort s p).manual (leafOf s p (first + i)))) s

def execHubStatus (mb : Nat) (s : State) : Res := mailbox ⟨0x0405, some 4, [(2, 2)]⟩ hubStatus mb s

/-! cast.config and cast.status. -/

/-- cast.config (0x0480). The attenuator follows a new casting level (R221). -/
def castConfig : Req → State → Reply := onPort fun p r s =>
  if r.u 1 1 < 30 ∨ 90 < r.u 1 1 ∨ r.i 2 2 < -200 ∨ 0 < r.i 2 2 ∨ r.u 4 2 < 10 ∨ 1000 < r.u 4 2
      ∨ r.u 6 2 < 2 ∨ 200 < r.u 6 2 then refuse .range s
  else okay (onHubPort p (fun h => { h with
    thr := r.u 1 1, level := r.i 2 2, ackT := r.u 6 2, keep := if h.role = .leaf then h.keep else r.u 4 2 }) s
    |> retarget p)

def execCastConfig (mb : Nat) (s : State) : Res := mailbox ⟨0x0480, some 8, []⟩ castConfig mb s

/-- cast.status (0x0481). -/
def castStatus : Req → State → Reply := onPort fun p _ s =>
  let h := hubPort s p
  okWith (natBE 8 h.delivered ++ natBE 8 h.mirages ++ natBE 8 h.collision ++ natBE 8 h.lost ++ natBE 8 h.rejected
    ++ natBE 8 h.payErr ++ natBE 8 h.good ++ [byteOf (b2n h.lock), byteOf h.gen, 0, 0] ++ padTo 32 h.far) s

def execCastStatus (mb : Nat) (s : State) : Res := mailbox (objShape 0x0481) castStatus mb s

/-! Sending in slots (R222, R226, R239). -/

/-- A casting slot: 3.36 us (R222). -/
def slotTicks : Nat := ticksNs 3360

/-- The beacon message: owners, classes, generation, keepalive interval, and up to 28 records (R226). -/
def beaconMessage (s : State) (p : Nat) : List Byte :=
  let h := hubPort s p
  (List.range 16).map (fun k =>
      if (rxSc s (16 * p + k)).oos then 0xFE else match ownerOf s p k with | some n => byteOf n | none => 0xFF)
    ++ (List.range 16).map (fun k => byteOf (txClass s (16 * p + k)))
    ++ [byteOf (ownGen s), 0] ++ natBE 2 h.keep ++ zeros 12
    ++ padTo 448 ((h.recs.take 28).flatMap (·.1))

/-- The records left after one more frame: each is sent in four (R227). -/
def afterBeacon (recs : List (List Byte × Nat)) : List (List Byte × Nat) :=
  ((recs.take 28).filterMap (fun r => if 1 < r.2 then some (r.1, r.2 - 1) else none)) ++ recs.drop 28

/-- CASTING_SLOT at a slot start: a hub sends a beacon, a point-to-point port in the exchange a capability frame. -/
def castingSlot (p at_ : Nat) (s : State) : State :=
  let h := hubPort s p
  let slot := at_ / slotTicks % 160
  let bad := injArmed s (0x086 + p)
  if at_ % slotTicks = 0 ∧ now s ≤ at_ ∧ (txPort s p).tx = .on ∧ running s then
    match h.role with
    | .hub => clockTo at_ s |> onHubPort p (fun h => { h with
        slot := slot, sent := beaconFrame p 1 0 slot bad (beaconMessage s p), recs := afterBeacon h.recs })
      |> onlyIf bad (injAct (0x086 + p))
    | .p2p =>
      if h.exch = 0 then s
      else clockTo at_ s |> onHubPort p (fun h => { h with
        slot := slot, sent := beaconFrame p 2 (if h.exch = 2 then 1 else 0) slot bad (capRecord s p) })
      |> onlyIf bad (injAct (0x086 + p))
    | .leaf => s
  else s

def execCastingSlot (p at_ : Nat) (s : State) : Res := need "port" (okPort p) (castingSlot p at_ s)

/-! The burst receiver (R217, R228 to R230). -/

/-- The casting receiver runs from NO_LIGHT onward (R217). -/
def castReceives (s : State) (p : Nat) : Bool := afterCalibrate (rxPort s p).st && running s

def bursts (s : State) (p : Nat) : Bool := isHub s p && castReceives s p

def sat64 (n : Nat) : Nat := satAdd max64 n 1

/-- The frequency value of a detection, kHz: within 500 MHz, then held for its burst (R228). -/
def burstFreq (f : Int) : Int := clampInt (-500000) 500000 f

/-- A detection of power `pw`, 0.01 dB, and frequency `fq` (R229). -/
def burstDetect (pw fq : Int) (h : HubPort) : HubPort :=
  match h.burst with
  | .idle => { h with burst := .preamble pw, freq := burstFreq fq }
  | .preamble pc =>
    if pc + 600 ≤ pw then
      { h with
        collision := sat64 h.collision
        lost := if h.pend.isSome then sat64 h.lost else h.lost
        pend := none, burst := .preamble pw, freq := burstFreq fq }
    else if h.pend.isNone then { h with pend := some (pw, burstFreq fq) }
    else { h with lost := sat64 h.lost }
  | .payload => { h with lost := sat64 h.lost }

/-- BURST_DETECTION: a correlation of 0.01 `corr` over the first 128 preamble symbols, declared from the threshold on (R228). -/
def execBurstDetection (p : Nat) (power : Int) (corr : Nat) (freq : Int) (s : State) : Res :=
  need "port" (okPort p)
    (onlyIf (bursts s p && decide ((hubPort s p).thr ≤ corr)) (onHubPort p (burstDetect power freq)) s)

def headerGood (hdr : List Byte) : Bool := crc16 (hdr.take 14) == getU 14 2 hdr

/-- The checks of R230 that a header with a good CRC-16 must pass on a hub. -/
def headerValid (hdr : List Byte) : Bool :=
  let t := getU 6 1 hdr
  (t == 3 || t == 4 || t == 5) && decide (getU 8 2 hdr ≤ 508) && decide (getU 10 2 hdr ≤ 159)

/-- The header check at the end of the header time (R229, R230); `bad` reports its CRC-16 failing. -/
def burstHeader (hdr : List Byte) (bad : Bool) (h : HubPort) : HubPort :=
  match h.burst with
  | .preamble _ =>
    if bad || !headerGood hdr then
      { h with
        mirages := sat64 h.mirages, pend := none
        burst := match h.pend with | some q => .preamble q.1 | none => .idle
        freq := match h.pend with | some q => q.2 | none => h.freq }
    else
      let h1 := { h with lost := if h.pend.isSome then sat64 h.lost else h.lost, pend := none }
      if headerValid hdr then { h1 with burst := .payload, hdrType := getU 6 1 hdr, hdrIdent := getU 0 6 hdr, hdrLen := getU 8 2 hdr }
      else { h1 with rejected := sat64 h.rejected, burst := .idle }
  | _ => h

/-- BURST_HEADER_CHECK; point 0x080 + p reports the CRC-16 of the burst failing (R443/16). -/
def headerCheck (p : Nat) (hdr : List Byte) (s : State) : State :=
  let bad := injArmed s (0x080 + p) && (match (hubPort s p).burst with | .preamble _ => true | _ => false)
  onHubPort p (burstHeader (padTo 16 hdr) bad) s |> onlyIf bad (injAct (0x080 + p))

def execBurstHeaderCheck (p : Nat) (hdr : List Byte) (s : State) : Res :=
  need "port" (okPort p) (onlyIf (bursts s p) (headerCheck p hdr) s)

/-- The end of a payload, whose soft values are given, 1,024 a block: delivered, or counted as a payload error and dropped (R229). -/
def burstEnd (llrs : List Int) (h : HubPort) : HubPort :=
  match h.burst with
  | .payload =>
    match castPayload (burstBlocks h.hdrLen) h.hdrLen llrs with
    | some msg =>
      { h with delivered := sat64 h.delivered, inbox := h.inbox ++ [(h.hdrType, h.hdrIdent, msg)], burst := .idle }
    | none => { h with payErr := sat64 h.payErr, burst := .idle }
  | _ => h

def execBurstPayloadEnd (p : Nat) (llrs : List Int) (s : State) : Res :=
  need "port" (okPort p) (onlyIf (bursts s p) (onHubPort p (burstEnd llrs)) s)

/-- Take a delivered burst of a type, sender and message out of the inbox. -/
def takeBurst (p : Nat) (b : Nat × Nat × List Byte) (f : State → State) (s : State) : State :=
  if isHub s p && decides s && (hubPort s p).inbox.contains b then
    f (onHubPort p (fun h => { h with inbox := h.inbox.erase b }) s)
  else s

def joinEvent (p n ident : Nat) (rejoin : Bool) : State → State :=
  raisePort 0x0400 p ([byteOf n, byteOf (b2n rejoin)] ++ natBE 6 ident)

/-- The lowest free leaf number below `lim`. -/
def freeLeaf (s : State) (p lim : Nat) : Option Nat := (List.range lim).find? (fun n => (leafOf s p n).state == 0)

/-- The hub's response to a good JOIN (R233, R240): the leaf's generation is the lower of the two highest. -/
def joinActs (p ident : Nat) (rec : List Byte) (s : State) : State :=
  let gen := min (ownGen s) (getU 0 1 rec)
  let fill (l : Leaf) : Leaf := { l with ident := ident, gen := gen, classes := getU 1 1 rec }
  if getU 6 1 rec ≠ 2 then raisePort 0x0481 p [byteOf (getU 6 1 rec)] s
  else match leafByIdent s p ident with
    | some n => onLeaf p n fill s |> pushRecord p 1 ident n [] |> joinEvent p n ident true
    | none =>
      if gen ≤ 1 ∧ freeLeaf s p 8 = none then pushRecord p 5 ident 0xFF [3] s
      else match freeLeaf s p 16 with
        | none => pushRecord p 5 ident 0xFF [1] s
        | some n =>
          onLeaf p n (fun _ => { fill {} with state := 1 }) s |> pushRecord p 1 ident n [] |> joinEvent p n ident false

/-- A KEEPALIVE: counted; a silent leaf is heard again and LEAF_SILENT armed (R236). -/
def keepActs (p ident : Nat) (s : State) : State :=
  match leafByIdent s p ident with
  | none => s
  | some n => onLeaf p n (fun l => { l with
      keeps := satAdd max32 l.keeps 1, silentArmed := true
      state := if l.state = 3 then (if l.mask = 0 then 1 else 2) else l.state }) s

/-- A LEAVE ends the leaf's grants; its subcarriers are ungranted, so they go dark (R216, R236). -/
def leaveActs (p ident : Nat) (s : State) : State :=
  match leafByIdent s p ident with
  | none => s
  | some n =>
    let mask := (leafOf s p n).mask
    let s1 := onLeaf p n (fun _ => {}) s
    (if mask = 0 then s1 else (darken p mask 0 s1).getD (darkenNow p mask s1))
      |> raisePort 0x0404 p [byteOf n]

/-- The end of a number held 10 s without a grant: freed, DENY with reason 2 (R233). -/
def numberEnds (p n : Nat) (s : State) : State :=
  pushRecord p 5 (leafOf s p n).ident 0xFF [2] (onLeaf p n (fun _ => {}) s)

/-- Ten intervals without a KEEPALIVE: LEAF_SILENT once; the grants stay (R236). -/
def leafSilent (p n : Nat) (s : State) : State :=
  onLeaf p n (fun l => { l with state := 3, silentArmed := false }) s |> raisePort 0x0403 p [byteOf n]

/-- The average of a leaf is recorded, and its ADJUST, if one is due, goes into the beacon (R235). -/
def averageActs (p n : Nat) (off : Int) (adjust : List Byte) (s : State) : State :=
  onLeaf p n (fun l => { l with off := off }) s
    |> onlyIf (adjust != []) (pushRecord p 3 (leafOf s p n).ident n adjust)

/-- What a decision does (R233, R235, R236). -/
def hubActs (p : Nat) (d : HubDecision) (s : State) : State :=
  match d with
  | .join ident rec => joinActs p ident rec s
  | .keepalive ident => keepActs p ident s
  | .leave ident => leaveActs p ident s
  | .numberEnds n => numberEnds p n s
  | .silent n => leafSilent p n s
  | .average n off adjust => averageActs p n off adjust s

/-- A hub's decision is a state-changing command of the lead: carried out and mirrored (R236). -/
def hubDecides (p : Nat) (d : HubDecision) (s : State) : State := mirror (.hub p (now s) d) (hubActs p d s)

def execJoinReceive (p ident : Nat) (record : List Byte) (s : State) : Res :=
  need "port" (okPort p) (takeBurst p (3, ident, record) (hubDecides p (.join ident record)) s)

def execKeepaliveReceive (p ident : Nat) (msg : List Byte) (s : State) : Res :=
  need "port" (okPort p) (takeBurst p (4, ident, msg) (hubDecides p (.keepalive ident)) s)

def execLeaveReceive (p ident : Nat) (s : State) : Res :=
  need "port" (okPort p) (takeBurst p (5, ident, []) (hubDecides p (.leave ident)) s)

def execLeafNumberTimeout (p leaf : Nat) (s : State) : Res :=
  need "leaf" (okPort p && okLeaf leaf)
    (onlyIf (isHub s p && decides s && (leafOf s p leaf).state != 0 && (leafOf s p leaf).mask == 0)
      (hubDecides p (.numberEnds leaf)) s)

def execLeafSilentTimeout (p leaf : Nat) (s : State) : Res :=
  need "leaf" (okPort p && okLeaf leaf)
    (onlyIf (isHub s p && decides s && (leafOf s p leaf).state != 0 && (leafOf s p leaf).silentArmed)
      (hubDecides p (.silent leaf)) s)

/-! ADJUST and the dispersion of a leaf (R218, R235). -/

/-- Lit subcarriers of a hub port. -/
def litOf (s : State) (p : Nat) : List Nat := (List.range 16).filter (fun k => rxLit s (16 * p + k))

/-- A subcarrier of the leaf lies more than 0.5 dB from the mean power of all lit subcarriers; powers in 0.1 dB. -/
def powerOff (s : State) (p mask : Nat) (powers : List Int) : Bool :=
  let lit := litOf s p
  let sum := (lit.map (fun k => powers.getD k 0)).sum
  (lit.filter (bitOf mask)).any (fun k => decide (5 * lit.length < ((lit.length : Int) * powers.getD k 0 - sum).natAbs))

/-- Averages over 100 ms of a leaf whose subcarriers are converged: recorded; ADJUST beyond 20 MHz, and, at link generation
2, beyond 0.5 dB. The power correction is a free value: no rule gives its size (R235). -/
def adjustAverage (p n : Nat) (off : Int) (powers : List Int) (s : State) : State :=
  let l := leafOf s p n
  if isHub s p && decides s && l.mask != 0
      && (maskList 16 l.mask).all (fun k => (rxSc s (16 * p + k)).conv) then
    let f := if 20000 < off.natAbs then -off else 0
    let byPower := l.gen == 2 && powerOff s p l.mask powers
    let pw : Int := if byPower then toSigned 16 (freeNat s % 65536) else 0
    hubDecides p (.average n off (if f ≠ 0 ∨ byPower then intBE 4 f ++ intBE 2 pw else [])) (onlyIf byPower useFree s)
  else s

def execAdjustAverage (p leaf : Nat) (off : Int) (powers : List Int) (s : State) : Res :=
  need "leaf" (okPort p && okLeaf leaf) (adjustAverage p leaf off powers s)

/-- The set with the leaf's offsets at the scan's result, every total in range (R121/04, R218). -/
def leafSet (a : CdSet) (mask : Nat) (disp : Int) : CdSet :=
  { base := a.base, offsets := (List.range 16).map (fun k =>
      if bitOf mask k then clampInt (-60000 - a.base) (60000 - a.base) disp else offsetOf a k) }

/-- The offset scan of a newly granted leaf ends: in AUTO its estimate is kept, within the range of a total, and a 64-block dissolve is
cued; in MANUAL the hub does not scan (R218). Scans are each module's own (R132/04). -/
def hubScan (p n : Nat) (disp : Int) (s : State) : State :=
  let l := leafOf s p n
  if isHub s p && s.ctrl.stage == .ready && l.mask != 0 && !(rxPort s p).manual && castReceives s p && (cdOf s p).state == 0 then
    onLeaf p n (fun l => { l with disp := clampInt (-60000) 60000 ((cdOf s p).active.base + disp) }) s
      |> ownDissolve p 64 (leafSet (cdOf s p).active l.mask disp)
  else s

def execHubDispersionScan (p leaf : Nat) (disp : Int) (s : State) : Res :=
  need "leaf" (okPort p && okLeaf leaf) (hubScan p leaf disp s)

/-! The leaf's side (R219, R227, R231, R232, R234). -/

/-- hub.join (0x0403): the checks of R106, then the PIC bring-up and joining. -/
def hubJoin (lo : Int) : Req → State → Reply := onPort fun p r s =>
  if isLeaf s p = false ∨ receiving s p = false ∨ feedGood s p lo = false then refuse .denied s
  else
    let a := defer r p s
    { a with st := onlyIf (!transmitting s p) (startTx p lo) a.st
        |> onHubPort p (fun h => { h with join := .bringUp, window := 8, tries := 0, rounds := 0 }) }

def execHubJoin (mb : Nat) (lo : Int) (s : State) : Res := mailbox (objShape 0x0403) (hubJoin lo) mb s

/-- hub.leave (0x0404): three LEAVE bursts, then everything dark. -/
def hubLeave : Req → State → Reply := onPort fun p _ s =>
  if isLeaf s p = false then refuse .denied s
  else okay (onHubPort p (fun h => { h with leaves3 := 3, window := 8 }) (endJoin p .denied s))

def execHubLeave (mb : Nat) (s : State) : Res := mailbox (objShape 0x0404) hubLeave mb s

/-- A leaf may send a burst: transmitter on, beacon lock, firmware running with the lease (R227, R231). -/
def mayBurst (s : State) (p : Nat) : Bool :=
  isLeaf s p && decides s && (txPort s p).tx == .on && (hubPort s p).lock

/-- The beacon offset has been within the LTUNE threshold for 10 ms (R231). -/
def beaconSettled (s : State) (p : Nat) : Bool :=
  match (hubPort s p).inSince with
  | some t => decide (t + ticksMs 10 ≤ upTime s)
  | none => false

/-- JOIN_SEND after a backoff of `k` slots below W (R231, R232). -/
def joinSend (p k : Nat) (s : State) : State :=
  let h := hubPort s p
  if mayBurst s p && decide (k < h.window)
      && (h.join == .backoff || (h.join == .bringUp && beaconSettled s p)) then
    onHubPort p (fun h => { h with sent := burstFrame p 3 h.slot (capRecord s p), join := .waitAck }) s
  else s

def execJoinSend (p k : Nat) (s : State) : Res := need "port" (okPort p) (joinSend p k s)

/-- No ACK or DENY: W doubles up to 256; after 16 tries JOIN_FAILED, and after the third round COMMAND_DONE with TIMEOUT
(R232, hub.join). -/
def ackTimeout (p : Nat) (s : State) : State :=
  let h := hubPort s p
  if h.join = .waitAck ∧ decides s then
    if h.tries + 1 = 16 then
      onHubPort p (fun h => { h with join := .waitRetry, tries := 0, window := 8, rounds := h.rounds + 1 }) s
        |> raisePort 0x0405 p [byteOf p]
        |> onlyIf (h.rounds + 1 == 3) (finishEach 0x0403 p .timeout)
    else onHubPort p (fun h => { h with join := .backoff, tries := h.tries + 1, window := min (2 * h.window) 256 }) s
  else s

def execAckTimeout (p : Nat) (s : State) : Res := need "port" (okPort p) (ackTimeout p s)

/-- One second after JOIN_FAILED joining goes on with W = 8 (R232). -/
def execJoinRetryWait (p : Nat) (s : State) : Res :=
  need "port" (okPort p)
    (onlyIf ((hubPort s p).join == .waitRetry) (onHubPort p (fun h => { h with join := .backoff, window := 8, tries := 0 })) s)

/-- The KEEPALIVE message: downstream LQI of each subcarrier, then the declared defects 1-7 over the leaf's subcarriers
(R232). -/
def keepMessage (s : State) (p : Nat) : List Byte :=
  (List.range 16).map (fun k => byteOf (if rxLit s (16 * p + k) then (rxSc s (16 * p + k)).lqi else 0))
    ++ [byteOf (listMask ((List.range 8).filter (fun c => decide (1 ≤ c) &&
      (maskList 16 (hubPort s p).owned).any (fun k => declared s c (16 * p + k)))))]

/-- KEEPALIVE once per interval, delayed by 0 to 7 slots (R232). -/
def execKeepaliveSend (p k : Nat) (s : State) : Res :=
  need "port" (okPort p)
    (onlyIf (mayBurst s p && decide (k < 8) && (hubPort s p).leafNum != 0xFF)
      (fun s => onHubPort p (fun h => { h with sent := burstFrame p 4 h.slot (keepMessage s p) }) s) s)

/-- LEAVE, one of three; after the last the leaf darkens everything (R236). -/
def leaveSend (p k : Nat) (s : State) : State :=
  let h := hubPort s p
  if mayBurst s p && decide (k < h.window) && decide (0 < h.leaves3) then
    onHubPort p (fun h => { h with
      sent := burstFrame p 5 h.slot [], leaves3 := h.leaves3 - 1
      leafNum := if h.leaves3 = 1 then 0xFF else h.leafNum
      grants := if h.leaves3 = 1 then h.grants ++ [(0, h.ownedCls, boundaryAfter (now s), false)] else h.grants }) s
  else s

def execLeaveSend (p k : Nat) (s : State) : Res := need "port" (okPort p) (leaveSend p k s)

/-- The digital shift: the negative of the averaged beacon offset plus the corrections, within 500 MHz (R231, R235). -/
def shiftOf (off adj : Int) : Int := clampInt (-500000) 500000 (adj - 1000 * off)

/-- The shift is taken anew; LEAF_SHIFT_LIMIT as it reaches a limit. -/
def takeShift (p : Nat) (s : State) : State :=
  let h := hubPort s p
  let v := shiftOf h.beaconOff h.adj
  onHubPort p (fun h => { h with shift := v }) s
    |> onlyIf (v.natAbs == 500000 && h.shift.natAbs != 500000) (raisePort 0x0407 p (intBE 4 v))

/-- Add a hub's power correction to a subcarrier; `scPower` limits its sum with the offset of sc.txpower (R105/03, R235). -/
def addPower (v : Int) (x : TxSc) : TxSc := { x with hubPower := x.hubPower + v }

/-- The boundary a leaf acts at: its first at least 2.0 ms after the first copy (R234). -/
def leafChange (p mask cls : Nat) (granted : Bool) (s : State) : State :=
  onHubPort p (fun h => { h with grants := h.grants ++ [(mask, cls, earliestBoundary s, granted)] }) s

/-- The leaf loses subcarriers `lost` of those it holds after the changes that wait for their boundaries. -/
def leafLoses (p lost : Nat) (s : State) : State :=
  let h := hubPort s p
  let w := h.grants.getLastD (h.owned, h.ownedCls, 0, false)
  leafChange p (w.1 ^^^ (w.1 &&& lost)) w.2.1 false s

/-- What a leaf does on a record addressed to it (R226, R233 to R236). -/
def recordActs (p : Nat) (rec : List Byte) (s : State) : State :=
  let h := hubPort s p
  match getU 0 1 rec with
  | 1 =>
    onHubPort p (fun h => { h with
      leafNum := getU 7 1 rec
      join := if h.join = .waitAck ∨ h.join = .backoff ∨ h.join = .waitRetry then .waitGrant else h.join }) s
  | 2 =>
    leafChange p (getU 8 2 rec) (getU 10 1 rec) true s
      |> onHubPort p (fun h => { h with join := .idle, leafNum := getU 7 1 rec })
      |> finishEach 0x0403 p .ok
  | 3 =>
    onHubPort p (fun h => { h with adj := h.adj + getI 8 4 rec }) s
      |> forAll (fun k => onTxSc (16 * p + k) (addPower (getI 12 2 rec))) (maskList 16 h.owned)
      |> takeShift p
  | 4 => leafLoses p (getU 8 2 rec) s
  | 5 =>
    raisePort 0x0402 p [byteOf (getU 8 1 rec)] s
      |> endJoin p .denied
      |> onHubPort p (fun h => { h with leafNum := 0xFF })
      |> onlyIf (h.owned != 0 || h.grants != []) (leafChange p 0 h.ownedCls false)
  | _ => s

/-- The records of a good beacon message for this port that are no repeats. -/
def newRecords (p : Nat) (h : HubPort) (msg : List Byte) : List (List Byte) :=
  ((List.range 28).map (fun k => field (48 + 16 * k) 16 msg)).filter (fun r =>
    getU 0 1 r != 0 && getU 1 6 r == castIdent p && !h.seen.any (·.1 == r))

/-- A good beacon frame: counts and lock, slot, offset, interval and generation, then the records (R227). -/
def goodBeacon (p slot : Nat) (off : Int) (msg : List Byte) (s : State) : State :=
  let h := hubPort s p
  let rs := newRecords p h msg
  let inside := decide (off.natAbs ≤ (rxPort s p).ltThr)
  onHubPort p (fun h => { h with
      good := sat64 h.good, goodRun := h.goodRun + 1, badRun := 0, lock := h.lock || decide (3 ≤ h.goodRun + 1)
      slot := slot, beaconOff := off, mism := false
      inSince := if inside then (match h.inSince with | some t => some t | none => some (upTime s)) else none
      keep := getU 34 2 msg, gen := min (ownGen s) (getU 32 1 msg)
      seen := (h.seen.filterMap (fun r => if 1 < r.2 then some (r.1, r.2 - 1) else none)) ++ rs.map (fun r => (r, 3)) }) s
    |> takeShift p
    |> forAll (recordActs p) rs

/-- A beacon frame that is not good (R227). -/
def badBeacon (h : HubPort) : HubPort :=
  { h with
    goodRun := 0, badRun := h.badRun + 1
    seen := h.seen.filterMap (fun r => if 1 < r.2 then some (r.1, r.2 - 1) else none) }

/-- The far end's role does not go with the port's: ROLE_MISMATCH, and the port lights nothing (R240). -/
def roleMismatch (p far : Nat) (s : State) : State :=
  onlyIf (!(hubPort s p).mism) (raisePort 0x0481 p [byteOf far]) (onHubPort p (fun h => { h with exch := 0, mism := true }) s)
    |> forAll (dropChange p) (txPort s p).changes

/-- A frame that fills a slot, as received: header and message, where the CRC-16, every block and the CRC-32 are right (R227). -/
def frameRead (hdr : List Byte) (llrs : List Int) : Option (List Byte) :=
  if headerGood hdr then castPayload beaconBlocks (getU 8 2 hdr) llrs else none

/-- BEACON_RECEIVE: one slot of a leaf. A frame that its receiver, off or disturbed, does not take is one that is not good; a
capability frame is that of a point-to-point port (R227, R240). Each member of a pair receives for itself. -/
def beaconReceive (p : Nat) (hdr : List Byte) (llrs : List Int) (off : Int) (s : State) : State :=
  let missed := onHubPort p badBeacon s
  if isLeaf s p && s.ctrl.stage == .ready then
    if castReceives s p then
      match frameRead hdr llrs with
      | none => missed
      | some msg =>
        if getU 6 1 hdr = 1 then goodBeacon p (getU 10 2 hdr) off msg s
        else if getU 6 1 hdr = 2 then
          onHubPort p (fun h => { h with good := sat64 h.good }) missed |> roleMismatch p (getU 6 1 msg)
        else missed
    else missed
  else s

def execBeaconReceive (p : Nat) (hdr : List Byte) (llrs : List Int) (off : Int) (s : State) : Res :=
  need "port" (okPort p) (beaconReceive p (padTo 16 hdr) llrs off s)

/-- 32 consecutive frames that are not good lose the lock (R227). -/
def execBeaconLockLoss (p : Nat) (s : State) : Res :=
  need "port" (okPort p)
    (onlyIf (isLeaf s p && (hubPort s p).lock && decide (32 ≤ (hubPort s p).badRun))
      (fun s => raisePort 0x0406 p [byteOf p] (onHubPort p (fun h => { h with lock := false, inSince := none }) s)) s)

/-- The leaf's classes after a change: its class on the new mask, dark on what it loses (R234). -/
def leafClasses (old : List Nat) (was mask cls : Nat) : List Nat :=
  (List.range 16).map (fun k => if bitOf mask k then cls else if bitOf was k then 0 else old.getD k 0)

/-- LEAF_GRANT_APPLY at the boundary: the leaf lights, changes class or darkens in both directions; slots of subcarriers
gone dark are removed; LEAF_GRANTED; in AUTO a first grant starts the blind scan (R219, R234, R283/09). -/
def leafGrantApply (p at_ : Nat) (s : State) : State :=
  let h := hubPort s p
  match h.grants with
  | [] => s
  | (mask, cls, b, granted) :: rest =>
    if isLeaf s p && at_ % boundaryTicks == 0 && decide (b ≤ at_) && decide (now s ≤ at_) && s.ctrl.stage == .ready then
      let old := (txPort s p).classes
      let gone := (List.range 16).filter (fun k => bitOf h.owned k && !bitOf mask k)
      clockTo at_ s
        |> onHubPort p (fun h => { h with grants := rest, owned := mask, ownedCls := cls })
        |> retarget p
        |> onTxPort p (fun t => { t with classes := leafClasses old h.owned mask cls })
        |> forAll (fun k => onTxFrame (16 * p + k) (fun f => { f with mfc := 0 })) (maskList 16 mask)
        |> forAll (fun k => onlyIf (!bitOf h.owned k) (onTxSc (16 * p + k) (fun x => { x with frames := 0 }))) (maskList 16 mask)
        |> onlyIf (h.owned == 0 && mask != 0 && (rxPort s p).st == .converge && !(rxPort s p).manual)
          (onRxPort p (fun r => { r with st := .cdScan }))
        |> forAll (fun k => setFarClass (16 * p + k) cls) (maskList 16 mask)
        |> forAll (fun k => setFarClass (16 * p + k) 0) gone
        |> onlyIf (gone != []) (removeSlots (gone.map (16 * p + ·)))
        |> onlyIf granted (raisePort 0x0401 p (natBE 2 mask ++ [byteOf cls]))
    else s

def execLeafGrantApply (p at_ : Nat) (s : State) : Res := need "port" (okPort p) (leafGrantApply p at_ s)

/-! The capability exchange (R239, R240, R145/04). -/

/-- The exchange is complete: LINK_UP, the far end's classes, and the port's own classes placed for the first boundary at
least 2.0 ms ahead; both ends followers hold C. -/
def exchangeDone (p : Nat) (rec : List Byte) (s : State) : State :=
  let gen := min (ownGen s) (getU 0 1 rec)
  let cs := intended s p
  let s1 := match openChange s p with | some c => dropChange p c s | none => s
  let both := isFollower s p && getU 5 1 rec == 1
  onHubPort p (fun h => { h with exch := 0, gen := gen, far := rec }) s
    |> onlyIf (cs != (txPort s p).classes) (fun s =>
        match placeChange p 0xFFFF cs (earliestBoundary s) 0 1
          (onHubPort p (fun h => { h with exch := 0, gen := gen, far := rec }) s1) with
        | some t => t
        | none => s)
    |> forAll (fun k => setFarClass (16 * p + k) (getU (8 + k) 1 rec)) (List.range 16)
    |> raisePort 0x0480 p [byteOf gen]
    |> onRxPort p (fun r => { r with conflict := both })
    |> onlyIf both (raisePort 0x020B p [byteOf p])

/-- A good capability frame in the exchange (R239). -/
def capabilityActs (p : Nat) (ack : Bool) (rec : List Byte) (s : State) : State :=
  let h := hubPort s p
  let n := h.goodRun + 1
  let a := if ack then h.ackRun + 1 else 0
  let s1 := onHubPort p (fun h => { h with
    good := sat64 h.good, goodRun := n, ackRun := a, exch := if 3 ≤ n then 2 else h.exch }) s
  if getU 6 1 rec ≠ 0 then roleMismatch p (getU 6 1 rec) (onHubPort p (fun h => { h with far := rec }) s1)
  else onlyIf (h.exch == 2 && decide (3 ≤ a)) (exchangeDone p rec) s1

/-- CAPABILITY_RECEIVE: consecutive good frames drive the exchange; a beacon is that of a hub (R239, R240). -/
def capabilityReceive (p : Nat) (hdr : List Byte) (llrs : List Int) (s : State) : State :=
  if (hubPort s p).role == .p2p && (hubPort s p).exch != 0 && castReceives s p && decides s then
    match frameRead hdr llrs with
    | none => onHubPort p (fun h => { h with goodRun := 0, ackRun := 0 }) s
    | some msg =>
      if getU 6 1 hdr = 2 then capabilityActs p (bitOf (getU 7 1 hdr) 0) (padTo 32 msg) s
      else if getU 6 1 hdr = 1 then roleMismatch p 1 (onHubPort p (fun h => { h with good := sat64 h.good }) s)
      else s
  else s

def execCapabilityReceive (p : Nat) (hdr : List Byte) (llrs : List Int) (s : State) : Res :=
  need "port" (okPort p) (capabilityReceive p (padTo 16 hdr) llrs s)

end Sys2Proof.Machine
end

