-- ==== Sys2Proof/Machine/Timing.lean ====
section
/-! DEFINITION. References, holdover, the timecode and its transfer, cues across the link (12_timing_and_cues.md). -/

namespace Sys2Proof.Machine

/-! Candidates (R347 to R350). Offsets are in 0.1 ppb, bands in ppb, the oscillator model in 0.001 ppb. -/

def allCands : List Nat := List.range 13

/-- A candidate is active: its edges arrive, or its recovered-clock source is in the state of R347; point 0x140 stops it. -/
def candActive (s : State) (c : Nat) : Bool :=
  !((injOf s 0x140).running && (injOf s 0x140).arg == c)
    && (if c < 5 then (candOf s c).active
        else if c < 11 then (rxPort s (c - 5)).st == .track && (hubPort s (c - 5)).role != .hub
        else if c = 11 then (laneOf s 0).st == .active else (laneOf s 48).st == .active)

/-- A candidate the selector may use (R349, R354). -/
def usable (s : State) (c : Nat) : Bool :=
  (candOf s c).qual && !(candOf s c).suspect && decide (0 < (candOf s c).prio)

/-- The first of the list with the lowest priority number. -/
def bestOf (s : State) : List Nat → Option Nat
  | [] => none
  | c :: l =>
    match bestOf s l with
    | none => some c
    | some d => if (candOf s c).prio ≤ (candOf s d).prio then some c else some d

/-- The usable candidate of highest priority, the lower number on a tie (R349). -/
def bestUsable (s : State) : Option Nat := bestOf s (allCands.filter (usable s))

def candByte (c : Option Nat) : Byte := byteOf (c.getD 0xFF)

def acquire (t : Timing) : Timing := { t with st := .acquire, lockedFor := 0, heldFor := 0, expired := false }

/-- The seconds whose mean is the holdover history: the 60 of LOCKED that end 1 s before the candidate was lost, or, where it was lost by
the hard band, 1 s before it first crossed the soft band (R357). -/
def historySeconds (t : Timing) (cause : Nat) : List Int :=
  ((if cause = 2 && (t.softSamples != []) then t.softSamples else t.samples).drop 1).take 60

/-- The frequency at which the island runs in HOLDOVER, 0.001 ppb times 86,400 against LOSC_IN: the history, corrected by the model's
drift since (R358). -/
def holdoverOffset (t : Timing) : Int := 8640000 * meanOf 25 t.holdSum (max 1 t.holdN) + t.drift * t.heldFor

/-- The loop bandwidth in force: with PPS_IN selected, codes 6 to 9 act as code 5 (R356). -/
def loopCode (t : Timing) : Nat := if t.sel = some 4 then min 5 t.bw else t.bw

/-- The loop bandwidth, mHz (R356). -/
def loopBandwidth (t : Timing) : Nat := [1, 3, 10, 30, 100, 1000, 10000, 100000, 1000000, 4000000].getD (loopCode t) 1

/-- The selection becomes `new`: the loop's phase error is that against it, with no stored offset (R355); `cause` is that of CLK_SWITCH (R357). -/
def select (new : Option Nat) (cause : Nat) (s : State) : State :=
  let t := s.timing
  if new = t.sel then s
  else
    let s1 := onTiming (fun t => { t with sel := new, phaseErr := (new.map (fun c => (candOf s c).phase)).getD 0 }) s
    match new with
    | some _ =>
      onTiming acquire s1
        |> onlyIf (t.st == .holdover) (raise 0x0905 14 0 0 [0])
        |> onlyIf (t.st != .holdover && cause != 0) (raise 0x0900 14 0 0 [candByte t.sel, candByte new, byteOf cause])
    | none =>
      if t.history then
        let l := historySeconds t cause
        onTiming (fun t => { t with
            st := .holdover, lockedFor := 0, heldFor := 0, expired := false, holdSum := l.sum, holdN := l.length }) s1
          |> raise 0x0905 14 0 0 [1]
      else onTiming (fun t => { t with st := .freerun, lockedFor := 0 }) s1

/-- In revertive mode, a candidate of higher priority qualified for the wait-to-restore time displaces the selected one. -/
def reverts (s : State) (cur : Nat) : Option Nat :=
  if s.timing.revertive then
    bestOf s (allCands.filter (fun c =>
      usable s c && (candOf s c).waited && decide ((candOf s c).prio < (candOf s cur).prio)))
  else none

/-- Selection by R349: a forced candidate while it stays qualified; the present one while it is usable, unless a higher one
reverts; else the best. `cause` names why the present one may have gone. -/
def reselect (cause : Nat) (s : State) : State :=
  match s.timing.forced with
  | some f =>
    if (candOf s f).qual then select (some f) 5 s
    else
      let s1 := onTiming (fun t => { t with forced := none }) s
      select (bestUsable s1) cause s1
  | none =>
    match s.timing.sel with
    | some c =>
      if usable s c then (match reverts s c with | some d => select (some d) (if cause = 6 then 6 else 4) s | none => s)
      else select (bestUsable s) cause s
    | none => select (bestUsable s) 0 s

/-- A candidate is no longer qualified. -/
def unqualify (c : Nat) (s : State) : State :=
  onCandOf c (fun x => { x with qual := false, soft := false, suspect := false, waited := false, inBand := 0, agree := 0 }) s

/-- Loss of activity disqualifies at once (R350). -/
def loseActivity (c : Nat) (s : State) : State :=
  let was := (candOf s c).qual
  unqualify c s
    |> onlyIf was (raise 0x0902 14 c 0 [1])
    |> reselect 1

/-- CANDIDATE_ACTIVITY_LOSS: edges stop, or the recovered-clock source has left its state. -/
def activityLoss (c : Nat) (s : State) : State :=
  if c < 5 then
    loseActivity c (onCandOf c (fun x => { x with active := false }) s
      |> onlyIf (c == 4) (onTiming (fun t => { t with todCounts := false })))
  else onlyIf (!candActive s c) (loseActivity c) s

def execCandidateActivityLoss (c : Nat) (s : State) : Res := need "candidate" (okCand c) (activityLoss c s)

/-- CANDIDATE_ACTIVITY_RETURN of a REFIN or PPS_IN candidate. -/
def execCandidateActivityReturn (c : Nat) (s : State) : Res :=
  need "candidate" (okCand c && decide (c < 5)) (onCandOf c (fun x => { x with active := true }) s)

/-! The oscillator model and the hourglass (R358, R359). -/

/-- LOSC_IN serves comparisons: warm and present (R348, R351). -/
def loscUsable (s : State) : Bool := s.timing.warm && !s.timing.loscLost

/-- The model's offset of LOSC_IN, a0 + d t, in 0.001 ppb times 86,400. -/
def modelOffset (t : Timing) : Int := 86400 * t.a0 + t.drift * t.heldFor

/-- A candidate's offset less the model's, in 0.001 ppb times 86,400. -/
def againstLosc (s : State) (c : Nat) : Int := 8640000 * (candOf s c).off - modelOffset s.timing

/-- The time left in seconds; none where unbounded. ΔT is in 0.1 °C and t in seconds (R359). -/
def timeLeft (t : Timing) (dT : Int) : Option Nat :=
  let kd : Int := t.kT * (dT.natAbs : Int)
  let lim : Int := 10 * t.limE - kd
  if t.drift ≠ 0 then
    let sg : Int := if t.drift < 0 then -1 else 1
    some (meanOf 20 (86400 * (sg * lim - 10 * t.a0) * sg) (10 * t.drift.natAbs) - t.heldFor).toNat
  else if 10 * (t.a0.natAbs : Int) < lim then none
  else some 0

/-- The predicted time error in ns: a0 t + d t²/2 + k |ΔT| t. -/
def predictedError (t : Timing) (dT : Int) : Int :=
  let h : Int := t.heldFor
  meanOf 21 (1728000 * t.a0 * h + 10 * t.drift * h * h + 172800 * t.kT * (dT.natAbs : Int) * h) 1728000000

/-- HOURGLASS_TICK each second: LOCKED and holdover time pass; ΔT counts in holdover with a temperature channel. -/
def hourglassTick (dT : Int) (s : State) : State :=
  let t := s.timing
  let held := t.st == .holdover
  let t1 : Timing := { t with
    lockedFor := if t.st = .locked then t.lockedFor + 1 else t.lockedFor
    history := t.history || (t.st == .locked && decide (60 ≤ t.lockedFor + 1))
    samples := (match t.st, t.sel with
      | .locked, some c => ((candOf s c).off :: t.samples).take 61
      | _, _ => t.samples)
    heldFor := if held then t.heldFor + 1 else 0 }
  let d := if held && t.tempCh != 0xFF then dT else 0
  let left : Option Nat := if t.loscLost then some 0 else timeLeft t1 d
  let gone := held && left == some 0 && !t.expired
  onTiming (fun _ => { t1 with
      hourglass := match left with | none => max32 | some n => min (max32 - 1) n
      predErr := if t.loscLost then 0 else predictedError t1 d
      expired := t.expired || gone }) s
    |> onlyIf gone (raise 0x0906 14 0 0 (zeros 4 ++ natBE 4 t1.heldFor))

def execHourglassTick (dT : Int) (s : State) : Res := .next (onlyIf (timingRuns s) (hourglassTick dT) s)

/-! Measurement, qualification and equal rank (R351 to R354). -/

/-- A candidate's measurement: point 0x141 adds its offset, bits 23:0 in ppb, to candidate bits 31:24. -/
def measured (s : State) (c : Nat) (off : Int) : Int :=
  let i := injOf s 0x141
  if i.running && i.arg / 2 ^ 24 == c then off + 10 * toSigned 24 (i.arg % 2 ^ 24) else off

/-- Take the offsets and phases of the active candidates that have a priority; the loop's error is the selected one's phase, of which it
has removed what its bandwidth lets it (R355, R356). -/
def takeOffsets (offs phases : List Int) (s : State) : State :=
  forAll (fun c => onlyIf (candActive s c && decide (0 < (candOf s c).prio))
    (onCandOf c (fun x => { x with off := measured s c (offs.getD c 0), phase := phases.getD c 0 }))) allCands s
    |> (fun s => onTiming (fun t => { t with phaseErr := (t.sel.map (fun c => (candOf s c).phase)).getD 0 }) s)

/-- Insert in ascending order. -/
def insertAsc (v : Int) : List Int → List Int
  | [] => [v]
  | w :: l => if v ≤ w then v :: w :: l else w :: insertAsc v l

/-- Twice the median: the middle value, or the mean of the two middle ones. -/
def twiceMedian (l : List Int) : Int :=
  let a := l.foldr insertAsc []
  a.getD ((a.length - 1) / 2) 0 + a.getD (a.length / 2) 0

/-- The offsets of the ensemble of a candidate: the other qualified, non-suspect ones (R351, R354). -/
def ensemble (s : State) (c : Nat) : List Int :=
  (allCands.filter (fun d => d != c && (candOf s d).qual && !(candOf s d).suspect)).map (fun d => (candOf s d).off)

/-- A candidate lies outside a band of `ppb` by a comparison that is available (R351). -/
def outside (s : State) (c ppb : Nat) : Bool :=
  (loscUsable s && decide (86400000 * ppb < (againstLosc s c).natAbs))
    || (decide (2 ≤ (ensemble s c).length)
        && decide (20 * ppb < (2 * (candOf s c).off - twiceMedian (ensemble s c)).natAbs))

/-- The second's judgement of an active candidate (R352). -/
def judge (c : Nat) (s : State) : State :=
  let x := candOf s c
  let t := s.timing
  let softOut := outside s c t.soft
  let data := zeros 4 ++ intBE 4 x.off
  if candActive s c = false ∨ x.prio = 0 then s
  else if x.qual then
    if outside s c t.hard then
      onCandOf c (fun x => { x with hard := true }) (unqualify c s) |> raise 0x0902 14 c 0 [2]
    else
      onCandOf c (fun x => { x with soft := softOut }) s
        |> onlyIf (softOut && !x.soft && t.sel == some c) (onTiming (fun t => { t with softSamples := t.samples }))
        |> onlyIf (softOut && !x.soft) (raise 0x0901 14 c 0 data)
  else
    let n := if softOut then 0 else x.inBand + 1
    if t.window + t.qualT ≤ n then
      onCandOf c (fun x => { x with qual := true, hard := false, soft := false, inBand := n, waited := t.wtr == 0 }) s
        |> raise 0x0903 14 c 0 []
    else onCandOf c (fun x => { x with inBand := n, soft := softOut }) s

/-- The tie-breaker of a pair: LOSC_IN when warm, else the qualified third candidate of highest priority (R353). -/
def tieBreaker (s : State) (a b : Nat) : Option Nat :=
  if loscUsable s then some 0xFF
  else bestOf s (allCands.filter (fun c => c != a && c != b && usable s c))

/-- A candidate's distance from a tie-breaker, in 0.001 ppb times 86,400. -/
def distance (s : State) (c tie : Nat) : Nat :=
  if tie = 0xFF then (againstLosc s c).natAbs else (8640000 * ((candOf s c).off - (candOf s tie).off)).natAbs

/-- Who is suspect in a conflict: none without a tie-breaker or at distances within 1 ppb, else the further one (R353). -/
def suspectOf (s : State) (a b : Nat) : Option (Nat × Nat) :=
  match tieBreaker s a b with
  | none => none
  | some tie =>
    let da := distance s a tie
    let db := distance s b tie
    if da ≤ db + 86400000 ∧ db ≤ da + 86400000 then none
    else if db < da then some (a, tie) else some (b, tie)

def disagree (s : State) (a b : Nat) : Bool :=
  decide (10 * s.timing.agree < ((candOf s a).off - (candOf s b).off).natAbs)

/-- Two qualified, non-suspect candidates of equal priority disagree: the mark, the move of the selection, and
CLK_RANK_CONFLICT unless the pair has not agreed for a window since the last one (R353, R354). -/
def rankPair (a b : Nat) (s : State) : State :=
  if usable s a && usable s b && (candOf s a).prio == (candOf s b).prio && disagree s a b then
    let fresh := !s.timing.conflicts.any (fun p => p.1 == a && p.2.1 == b)
    let sus := suspectOf s a b
    let mark (s : State) : State := match sus with
      | none => s
      | some (c, tie) => onCandOf c (fun x => { x with suspect := true, tie := tie, agree := 0 }) s
    let move (s : State) : State := match sus with
      | none => s
      | some (c, _) => onlyIf (s.timing.sel == some c && s.timing.forced.isNone) (select (some (if c = a then b else a)) 3) s
    mark s
      |> onTiming (fun t => { t with conflicts := if fresh then t.conflicts ++ [(a, b, 0)] else t.conflicts })
      |> onlyIf fresh (raise 0x0904 14 a 0 [byteOf b, candByte (sus.map (·.1))])
      |> move
  else s

def candPairs : List (Nat × Nat) :=
  allCands.flatMap (fun a => (allCands.filter (fun b => decide (a < b))).map (fun b => (a, b)))

/-- Conflicting pairs that have agreed for a window are armed again (R354). -/
def agePairs (s : State) : State :=
  onTiming (fun t => { t with
    conflicts := (t.conflicts.map (fun p => (p.1, p.2.1, if disagree s p.1 p.2.1 then 0 else p.2.2 + 1))).filter
      (fun p => decide (p.2.2 < t.window)) }) s

/-- A suspect's mark clears after one window within the agreement band of its tie-breaker (R354). -/
def ageSuspect (c : Nat) (s : State) : State :=
  let x := candOf s c
  if x.suspect then
    let seen := if x.tie = 0xFF then loscUsable s else (candOf s x.tie).qual
    let near := seen && decide (distance s c x.tie ≤ 86400000 * s.timing.agree)
    let n := if near then x.agree + 1 else 0
    onCandOf c (fun x => { x with agree := n, suspect := decide (n < s.timing.window) }) s
  else s

/-- CANDIDATE_MEASURE, once per second. -/
def candidateMeasure (offs phases : List Int) (s : State) : State :=
  takeOffsets offs phases s
    |> forAll judge allCands
    |> forAll ageSuspect allCands
    |> agePairs
    |> reselect 2
    |> forAll (fun p => rankPair p.1 p.2) candPairs
    |> reselect 3

def execCandidateMeasure (offs phases : List Int) (s : State) : Res :=
  .next (onlyIf (timingRuns s) (candidateMeasure offs phases) s)

/-- WAIT_TO_RESTORE_EXPIRY: qualified for the wait-to-restore time (R349). -/
def execWaitToRestoreExpiry (c : Nat) (s : State) : Res :=
  need "candidate" (okCand c)
    (onlyIf ((candOf s c).qual && !(candOf s c).waited)
      (fun s => reselect 4 (onCandOf c (fun x => { x with waited := true }) s)) s)

/-- The phase error that LOCKED allows of a candidate, fs: 1 % of its period, 10 ns for PPS_IN; the spec names no nominal frequency of a
line-recovered clock (R347, R357). -/
def phaseLimit (s : State) (c : Nat) : Option Nat :=
  if c < 4 then some (10 ^ 13 / (candOf s c).freq) else if c = 4 then some (10 ^ 7) else if c < 11 then none else some 94

/-- The loop's phase error is below the limit of the selected candidate. -/
def phaseSettled (s : State) : Bool :=
  match s.timing.sel.bind (phaseLimit s) with
  | some lim => decide (s.timing.phaseErr.natAbs < lim)
  | none => true

/-- TIMING_LOCK: ACQUIRE to LOCKED, the phase error having stayed below its limit for 10 time constants (R357). -/
def execTimingLock (s : State) : Res :=
  .next (onlyIf (s.timing.st == .acquire && phaseSettled s) (onTiming (fun t => { t with st := .locked, lockedFor := 0 })) s)

/-- LOSC_IN is lost or restored: CLK_LOSC_LOST; the hourglass reads zero meanwhile (R348). -/
def setLosc (lost : Bool) (s : State) : State :=
  onlyIf (s.timing.loscLost != lost) (fun s =>
    onTiming (fun t => { t with loscLost := lost, hourglass := if lost then 0 else t.hourglass }) s
      |> raise 0x0907 14 0 0 [byteOf (b2n lost)]) s

def execLoscActivityLoss (lost : Bool) (s : State) : Res := .next (setLosc lost s)

/-- LOSC_WARMUP_DONE: the warm-up time since power-on has passed (R351). -/
def execLoscWarmupDone (s : State) : Res := .next (onTiming (fun t => { t with warm := true }) s)

/-! The clk commands. -/

/-- clk.candidate (0x0900). -/
def clkCandidate (r : Req) (s : State) : Reply :=
  let c := r.u 0 1
  let hz := r.u 4 4
  if 12 < c ∨ 15 < r.u 1 1 then refuse .badarg s
  else if c < 4 ∧ (hz < 8000 ∨ 800000000 < hz ∨ hz % 1000 ≠ 0) ∨ 4 ≤ c ∧ hz ≠ 0 then refuse .range s
  else
    let x := candOf s c
    let stop := decide (r.u 1 1 = 0) || decide (x.freq ≠ hz)
    okay (onCandOf c (fun x => { x with prio := r.u 1 1, freq := hz, active := x.active && x.freq == hz }) s
      |> onlyIf stop (unqualify c)
      |> reselect 6)

def execClkCandidate (mb : Nat) (s : State) : Res := mailbox ⟨0x0900, some 8, [(2, 2)]⟩ clkCandidate mb s

/-- clk.config (0x0901). A new window restarts every average. -/
def clkConfig (r : Req) (s : State) : Reply :=
  let w := r.u 2 2
  let soft := r.u 4 4
  let hard := r.u 8 4
  if 1 < r.u 1 1 then refuse .badarg s
  else if 9 < r.u 0 1 ∨ w < 1 ∨ 1000 < w ∨ soft < 10 ∨ 50000 < soft ∨ hard < 20 ∨ 100000 < hard ∨ hard ≤ soft
      ∨ r.u 12 4 < 1 ∨ 10000 < r.u 12 4 ∨ 3600 < r.u 16 2 ∨ 720 < r.u 18 2 ∨ r.u 20 4 < 10000000
      ∨ 100000000 < r.u 20 4 ∨ 3600 < r.u 24 2 then refuse .range s
  else
    let fresh := decide (w ≠ s.timing.window)
    okay (onTiming (fun t => { t with
        bw := r.u 0 1, revertive := r.u 1 1 == 1, window := w, soft := soft, hard := hard, agree := r.u 12 4
        qualT := r.u 16 2, wtr := r.u 18 2, loscHz := r.u 20 4, warmup := r.u 24 2 }) s
      |> onlyIf fresh (forAll (fun c => onCandOf c (fun x => { x with inBand := 0, agree := 0 })) allCands)
      |> reselect 4)

def execClkConfig (mb : Nat) (s : State) : Res := mailbox ⟨0x0901, some 28, [(26, 2)]⟩ clkConfig mb s

/-- clk.force (0x0902). -/
def clkForce (r : Req) (s : State) : Reply :=
  let c := r.u 0 1
  if c = 0xFF then okay (reselect 5 (onTiming (fun t => { t with forced := none }) s))
  else if 12 < c then refuse .badarg s
  else if (candOf s c).prio = 0 ∨ (candOf s c).qual = false then refuse .denied s
  else okay (reselect 5 (onTiming (fun t => { t with forced := some c }) s))

def execClkForce (mb : Nat) (s : State) : Res := mailbox (objShape 0x0902) clkForce mb s

/-- A temperature channel of R358: MCH24 to MCH33, MCH60 to MCH63, or none. -/
def tempChOk (c : Nat) : Bool := c == 0xFF || (decide (24 ≤ c) && decide (c ≤ 33)) || (decide (60 ≤ c) && decide (c ≤ 63))

/-- clk.holdover (0x0903). -/
def clkHoldover (r : Req) (s : State) : Reply :=
  if r.u 12 4 = 0 ∨ tempChOk (r.u 16 1) = false then refuse .range s
  else okay (onTiming (fun t => { t with
    a0 := r.i 0 4, drift := r.i 4 4, kT := r.u 8 4, limE := r.u 12 4, tempCh := r.u 16 1 }) s)

def execClkHoldoverSet (mb : Nat) (s : State) : Res := mailbox ⟨0x0903, some 20, [(17, 3)]⟩ clkHoldover mb s

/-- clk.refout (0x0904). -/
def clkRefout (r : Req) (s : State) : Reply :=
  let hz := r.u 4 4
  if 1 < r.u 0 1 ∨ 2 < r.u 1 1 then refuse .badarg s
  else if hz ≠ 0 ∧ (hz < 8000 ∨ 800000000 < hz ∨ hz % 1000 ≠ 0) then refuse .range s
  else okay (onTiming (fun t => { t with refout := tabSet (0, 0) t.refout (r.u 0 1) (hz, r.u 1 1) }) s)

def execClkRefout (mb : Nat) (s : State) : Res := mailbox ⟨0x0904, some 8, [(2, 2)]⟩ clkRefout mb s

/-- REFOUT `n` is held low: disabled, or squelched by its mode (R360). -/
def refoutLow (s : State) (n : Nat) : Bool :=
  let o := tabGet (0, 0) s.timing.refout n
  o.1 == 0 || (decide (1 ≤ o.2) && s.timing.st == .freerun)
    || (o.2 == 2 && s.timing.st == .holdover && s.timing.expired)

def islandNum : Island → Nat
  | .freerun => 0 | .acquire => 1 | .locked => 2 | .holdover => 3

/-- A candidate waits to restore: qualified, of higher priority than the selected one in revertive mode, not yet for the
wait-to-restore time. -/
def waiting (s : State) (c : Nat) : Bool :=
  s.timing.revertive && usable s c && !(candOf s c).waited
    && (match s.timing.sel with | some d => decide ((candOf s c).prio < (candOf s d).prio) | none => false)

def candEntry (s : State) (c : Nat) : List Byte :=
  let x := candOf s c
  [byteOf x.prio, byteOf (b2n (candActive s c) + 2 * b2n x.qual + 4 * b2n x.soft + 8 * b2n x.hard + 16 * b2n x.suspect
    + 32 * b2n (waiting s c)), 0, 0] ++ intBE 4 x.off

/-- clk.status (0x0905). -/
def clkStatus (_ : Req) (s : State) : Reply :=
  let t := s.timing
  okWith ([byteOf (islandNum t.st), candByte t.sel, candByte t.forced,
      byteOf (b2n t.warm + 2 * b2n t.loscLost + 4 * b2n t.history)]
    ++ natBE 4 t.hourglass ++ natBE 4 (if t.st = .holdover then t.heldFor else 0) ++ intBE 4 t.predErr
    ++ allCands.flatMap (candEntry s)) s

def execClkStatus (mb : Nat) (s : State) : Res := mailbox (bareShape 0x0905) clkStatus mb s

/-! The timecode (R361 to R365). -/

/-- Ticks of a difference as ps, to the nearest. -/
def ticksPs (d : Int) : Int := roundDiv (1000 * d) 65536

def psTicks (ps : Int) : Int := roundDiv (65536 * ps) 1000

def anyTransmitting (s : State) : Bool := allPorts.any (transmitting s)

/-- The timecode moves to `t`: a step, counted and reported, with its effect on PM; lit transmit subcarriers start frame 0
(R362, R363, R212/06). -/
def stepTo (t : Nat) (s : State) : State :=
  let old := now s
  onTiming (fun x => { x with tc := t, steps := satAdd max32 x.steps 1 }) s
    |> forAll (fun sc => onlyIf (txLit s sc) (onTxFrame sc (fun f => { f with mfc := 0 }))) allScs
    |> pmStep old t
    |> raise 0x0940 14 0 0 (intBE 8 (ticksPs ((t : Int) - (old : Int))))

/-- tc.set (0x0940). -/
def tcSet (r : Req) (s : State) : Reply :=
  match readTime12 0 r.pay with
  | none => refuse .range s
  | some t =>
    if s.timing.source ≠ 0 ∨ (anyTransmitting s && !r.force) = true then refuse .denied s
    else if t = now s then okSame s
    else okay (stepTo t s)

def execTcSet (mb : Nat) (s : State) : Res := mailbox ⟨0x0940, some 12, []⟩ tcSet mb s

/-- tc.source (0x0941). -/
def tcSource (r : Req) (s : State) : Reply :=
  let src := r.u 0 1
  let p := r.u 1 1
  if 2 < src ∨ (src ≠ 2 ∧ p ≠ 0) ∨ okPort p = false then refuse .badarg s
  else if r.u 4 4 < 100 ∨ 1000000000 < r.u 4 4 ∨ r.u 8 4 < 1 ∨ 1000 < r.u 8 4 then refuse .range s
  else if src = 2 ∧ ((hubPort s p).role = .hub ∨ (transferOf s p).on = false) then refuse .denied s
  else
    let moved := decide (src ≠ s.timing.source) || decide (p ≠ s.timing.srcPort)
    okay (onTiming (fun t => { t with
      source := src, srcPort := p, stepThr := r.u 4 4, slewLim := r.u 8 4
      slew := if moved then 0 else t.slew, loopRaised := t.loopRaised && !moved }) s)

def execTcSource (mb : Nat) (s : State) : Res := mailbox ⟨0x0941, some 12, [(2, 2)]⟩ tcSource mb s

/-- tc.io (0x0942). -/
def tcIo (r : Req) (s : State) : Reply :=
  if 100000 < r.u 0 4 ∨ 100000 < r.u 4 4 then refuse .range s
  else okay (onTiming (fun t => { t with
    cable := r.u 0 4, advance := r.u 4 4, todOut := bitOf (r.u 8 1) 0, falling := bitOf (r.u 8 1) 1 }) s)

def execTcIo (mb : Nat) (s : State) : Res := mailbox ⟨0x0942, some 12, [(9, 3)]⟩ tcIo mb s

/-- A transmit frequency of tc.transfer: none, or within the band, MHz. -/
def freqOk (f : Nat) : Bool := f == 0 || (decide (184450000 ≤ f) && decide (f ≤ 196550000))

/-- tc.transfer (0x0943). -/
def tcTransfer : Req → State → Reply := onPort fun p r s =>
  if freqOk (r.u 8 4) = false ∨ freqOk (r.u 12 4) = false then refuse .range s
  else okay (onTransferOf p (fun x => { x with
    on := bitOf (r.u 1 1) 0, asym := r.i 4 4, fTx := r.u 8 4, fFar := r.u 12 4
    off := if bitOf (r.u 1 1) 0 then x.off else none }) s)

def execTcTransfer (mb : Nat) (s : State) : Res := mailbox ⟨0x0943, some 16, [(2, 2)]⟩ tcTransfer mb s

/-- Both ends take their time over the port's link (R368). -/
def timeLoop (s : State) : Bool := s.timing.source == 2 && (transferOf s s.timing.srcPort).farTakes

/-- The source's offset, source minus timecode, in ticks; none without a measurement, or while each end takes its time from
the other (R362, R366, R368). -/
def sourceOffset (s : State) : Option Int :=
  if s.timing.source = 1 then (if candActive s 4 then s.timing.ppsOff else none)
  else if s.timing.source = 2 then
    if timeLoop s then none else (transferOf s s.timing.srcPort).off.map (fun o => psTicks (-o))
  else none

/-- A stand-in follows the lead ahead of its set source: the offset it measures over PL0 is slewed away (R392/13). The
stamps of PL0's markers are in no row, so the measured offset is a free value. -/
def leadCompare (s : State) : State :=
  let o := toSigned 32 (freeNat s % 2 ^ 32)
  useFree (onPair (fun p => { p with tcOff := o }) (onTiming (fun t => { t with slew := -o }) s))

/-- TC_SOURCE_COMPARE, once per second: a step while no transmitter is on and the threshold is exceeded, else the offset is
slewed away (R362). -/
def sourceCompare (s : State) : State :=
  if isStandIn s && s.pair.up then leadCompare s
  else match sourceOffset s with
  | none => s
  | some d =>
    let s1 := onTiming (fun t => { t with lastOff := ticksPs d }) s
    if anyTransmitting s = false ∧ ticksNs s.timing.stepThr < d.natAbs then
      onTiming (fun t => { t with slew := 0, ppsOff := none }) (stepTo (now s + d).toNat s1)
    else onTiming (fun t => { t with slew := ticksPs d }) s1

def execTcSourceCompare (s : State) : Res := .next (onlyIf (timingRuns s) sourceCompare s)

/-- The second nearest to an instant. -/
def nearestSec (t : Int) : Int := (2 * t + ticksSec 1) / (2 * ticksSec 1)

/-- PPS_IN_EDGE at `at_`: the edge, advanced by the cable delay, marks the TAI second the last message named, or the second by count
from it; before any message, the nearest (R364; notes/assumptions/59.md). -/
def ppsInEdge (at_ : Nat) (s : State) : State :=
  if now s ≤ at_ then
    let t := s.timing
    let e : Int := (at_ : Int) - (ticksNs t.cable : Int)
    let sec : Int := if t.todGood || t.todCounts then t.todSec else nearestSec e
    onTiming (fun t => { t with
      ppsOff := some (sec * ticksSec 1 - e), todGood := false, pps := pulse t.pps
      todSec := (sec + 1).toNat, todCounts := t.todGood || t.todCounts
      todMiss := if t.todGood then 0 else t.todMiss + 1 }) (clockTo at_ s)
  else s

def execPpsInEdge (at_ : Nat) (s : State) : Res := .next (onlyIf (timingRuns s) (ppsInEdge at_) s)

/-- A good ToD message: its form, CRC and time-valid bit (R364). -/
def todGoodMsg (m : List Byte) : Bool :=
  getU 0 2 m == 0xA55A && getU 2 1 m == 1 && m.length == 16 && crc16 (field 2 12 m) == getU 14 2 m && bitOf (getU 3 1 m) 0

/-- TOD_RECEIVE; point 0x143 takes the next message as a CRC failure. -/
def todReceive (m : List Byte) (s : State) : State :=
  let inj := injArmed s 0x143
  onlyIf inj (injAct 0x143) s
    |> onTiming (fun t =>
        if todGoodMsg m && !inj then
          { t with
            todSec := getU 4 6 m, todGood := true, taiUtc := getI 10 2 m, leap := getU 3 1 m / 2 % 4
            todMiss := 0, todArmed := true }
        else { t with todDisc := satAdd max32 t.todDisc 1 })

def execTodReceive (msg : List Byte) (s : State) : Res := .next (onlyIf (timingRuns s) (todReceive msg) s)

/-- TOD_TIMEOUT: three seconds without a good message raise TC_TOD_LOST once (R364). -/
def execTodTimeout (s : State) : Res :=
  .next (onlyIf (s.timing.todArmed && !s.timing.todGood)
    (fun s => raise 0x0941 14 0 0 [] (onTiming (fun t => { t with todArmed := false }) s)) s)

/-- The ToD message that names the next edge, with TAI - UTC and the leap flags passed through (R364, R365). -/
def todMessage (s : State) (sec : Nat) : List Byte :=
  let t := s.timing
  let body := [1, byteOf (b2n (sourceOffset s).isSome + 2 * t.leap)] ++ natBE 6 sec ++ intBE 2 t.taiUtc ++ [0, 0]
  [0xA5, 0x5A] ++ body ++ natBE 2 (crc16 body)

/-- PPS_OUT_EDGE at a timecode second less the advance; with TOD_OUT, a message that names the next edge (R365). -/
def ppsOutEdge (at_ : Nat) (s : State) : State :=
  let e := at_ + ticksNs s.timing.advance
  if now s ≤ at_ ∧ e % ticksSec 1 = 0 then
    clockTo at_ s |> onTiming (fun t => { t with
      ppsOut := t.ppsOut + 1
      todSent := if t.todOut then todMessage s (e / ticksSec 1 + 1) else t.todSent })
  else s

def execPpsOutEdge (at_ : Nat) (s : State) : Res := .next (onlyIf (timingRuns s) (ppsOutEdge at_) s)

/-! Time transfer over the line (R366 to R368). -/

/-- The lowest-numbered subcarrier of a port that is IN_FRAME. -/
def inFrameSc (s : State) (p : Nat) : Option Nat := (portScs p).find? (fun sc => (rxFramer s sc).st == .inFrame)

/-- The lowest-numbered subcarrier a port sends frames on: the carrier of its control cells. -/
def channelSc (s : State) (p : Nat) : Option Nat := (portScs p).find? (txLit s)

/-- Content of a control cell, whose layout the spec does not give. -/
def cellContent (purpose : Nat) : List Byte := (List.range 7).map (Config.controlByte purpose)

/-- The control firmware sends a cell over a port's channel: single or lead, firmware running (R377). -/
def sendCell (p typ : Nat) (s : State) : State :=
  match channelSc s p with
  | some sc => onlyIf (decides s) (queueControl sc typ (cellContent typ)) s
  | none => s

/-- The dispersion term D (λ_in - λ_out) in ps, zero without both frequencies (R367). -/
def dispersionTerm (s : State) (p : Nat) : Int :=
  let x := transferOf s p
  if x.fTx = 0 ∨ x.fFar = 0 then 0
  else meanOf 22 ((cdOf s p).active.base * 299792458000 * ((x.fTx : Int) - x.fFar)) (x.fTx * x.fFar)

/-- TIME_TRANSFER_TICK: the mean m_in of the second is sent to the far end, and, with the far end's m_out in ps, offset and
mean path delay are computed; a link over which each end takes the other's time raises TC_SOURCE_LOOP once. -/
def timeTransferTick (p : Nat) (mOut : Option Int) (far : Bool) (s : State) : State :=
  let x := transferOf s p
  if x.on = false then s
  else
    let a := x.asym + dispersionTerm s p
    let meas : Option (Int × Int) := match inFrameSc s p, mOut with
      | some sc, some m =>
        let f := rxFramer s sc
        if f.nIn = 0 then none
        else
          -- m_in = sum x 1000 / (65536 n) ps
          let num : Int := 1000 * f.sumIn
          let den : Nat := 65536 * f.nIn
          some (meanOf 23 (num - m * den - a * den) (2 * den), meanOf 24 (num + m * den) (2 * den))
      | _, _ => none
    let s1 := sendCell p 1 s
      |> forAll (fun sc => onRxFramer sc (fun f => { f with sumIn := 0, nIn := 0 })) (portScs p)
      |> onTransferOf p (fun x => { x with
          farTakes := far, asymUsed := a, off := meas.map (·.1), delay := (meas.map (·.2)).getD x.delay })
    let loop := timeLoop s1 && s1.timing.srcPort == p
    onlyIf (loop && !s.timing.loopRaised) (raise 0x0942 14 p 0 []) s1
      |> onTiming (fun t => { t with loopRaised := if t.source = 2 ∧ t.srcPort = p then loop else t.loopRaised })

def execTimeTransferTick (p : Nat) (mOut : Option Int) (farTakes : Bool) (s : State) : Res :=
  need "port" (okPort p) (onlyIf (running s) (timeTransferTick p mOut farTakes) s)

/-- The time state of tc.status: free-running, following, slewing, or the source lost. -/
def timeState (s : State) : Nat :=
  if s.timing.source = 0 ∨ timeLoop s = true then 0
  else match sourceOffset s with
    | none => 3
    | some _ => if s.timing.slew = 0 then 1 else 2

/-- tc.status (0x0944). -/
def tcStatus (_ : Req) (s : State) : Reply :=
  let t := s.timing
  let x := transferOf s t.srcPort
  let line := t.source == 2
  okWith (tcBytes12 (now s) ++ [byteOf t.source, byteOf (timeState s)] ++ intBE 2 t.taiUtc ++ intBE 8 t.lastOff
    ++ natBE 4 (if line then (roundDiv x.delay 1000).toNat else 0) ++ intBE 4 (if line then x.asymUsed else 0)
    ++ natBE 4 t.steps ++ natBE 4 t.todDisc ++ [byteOf (b2n (line && x.farTakes)), 0, 0, 0]) s

def execTcStatus (mb : Nat) (s : State) : Res := mailbox (bareShape 0x0944) tcStatus mb s

/-! Cues across the link (R375, R376). -/

/-- Entry `i` is a placed format change of this module that the far end has not acknowledged. -/
def unackedCue (s : State) (i : Nat) : Bool :=
  let c := cueAt s i
  c.state != 0 && c.kind == 1 && c.origin != 3 && !c.acked

/-- CUE_ANNOUNCE_REPEAT, every 100 us until acknowledged: the announcement of the boundary and that of the classes. -/
def announceCue (i : Nat) (s : State) : State :=
  let c := cueAt s i
  if unackedCue s i && decides s && (channelSc s c.obj).isSome then
    setCue i { c with announced := true } s |> sendCell c.obj 3 |> sendCell c.obj 2
  else s

def execCueAnnounceRepeat (i : Nat) (s : State) : Res := need "cue" (okCue i) (announceCue i s)

/-- CUE_ACK_RECEIVE: also for the lead's cue on a stand-in, whose cue table follows the lead's (R395/13). -/
def execCueAckReceive (i : Nat) (s : State) : Res :=
  need "cue" (okCue i)
    (onlyIf (unackedCue s i && ((cueAt s i).announced || (cueAt s i).origin == 2))
      (setCue i { cueAt s i with acked := true }) s)

/-- In a lease gap, a format change the far end has not acknowledged, or a rollover whose announcement waits (R386/13). -/
def waitsInGap (s : State) (i : Nat) : Bool :=
  s.ctrl.stage == .ready && s.pair.role == 3
    && (unackedCue s i || ((cueAt s i).state != 0 && (cueAt s i).kind == 2 && s.cues.waiting.contains i))

/-- CUE_UNACKED_CHECK at 1.0 ms before the boundary (R376). -/
def execCueUnackedCheck (i : Nat) (s : State) : Res :=
  need "cue" (okCue i)
    (onlyIf (((unackedCue s i && (cueAt s i).announced && decides s) || waitsInGap s i)
        && decide (boundaryAfter (cueAt s i).time ≤ now s + ticksMs 1))
      (fun s => onCues (fun c => { c with unacked := satAdd max32 c.unacked 1 }) s
        |> raise 0x0981 14 i 0 [byteOf (cueAt s i).kind]) s)

/-- The announced changes once `a` has come: a repetition changes nothing; one for a boundary already announced takes its place, what
was merged into it included; on a point-to-point port, whose far end has one change pending at a time, every other one is void
(R98/03, R375; notes/assumptions/53.md). -/
def announcedWith (p2p : Bool) (a : Announce) (ann : List Announce) : List Announce :=
  if ann.any (fun b => b.boundary == a.boundary && b.classes == a.classes && (b.mask &&& a.mask) == b.mask) then ann
  else (if p2p then [] else ann.filter (·.boundary != a.boundary)) ++ [a]

/-- A far end's announcement: a cue in the own region, the change kept for its frame, and an acknowledge; a cancellation
takes both back (R375). -/
def classAnnounce (p : Nat) (a : Announce) (s : State) : State :=
  let s0 := onCues (fun c => { c with annRx := satAdd max32 c.annRx 1 }) s
  let known := (rxPort s p).ann.any (·.boundary == a.boundary)
  if a.cancel then
    onRxPort p (fun r => { r with ann := r.ann.filter (·.boundary != a.boundary) }) s0
      |> clearFarCue p a.boundary |> sendCell p 4
  else
    let p2p := (hubPort s p).role == .p2p
    let void := if p2p then (rxPort s p).ann.filter (·.boundary != a.boundary) else []
    onRxPort p (fun r => { r with ann := announcedWith p2p a r.ann }) s0
      |> forAll (fun b => clearFarCue p b.boundary) void
      |> onlyIf (!known) (fun s => match freeOwn s with
          | some i => placeCue i { state := 1, kind := 1, origin := 3, obj := p, time := a.boundary } s
          | none => s)
      |> sendCell p 4

def execCueAnnounceReceive (p : Nat) (a : Announce) (s : State) : Res :=
  need "port" (okPort p) (onlyIf (s.ctrl.stage == .ready && receiving s p) (classAnnounce p a) s)

/-! cue.read and cue.stats. -/

/-- The boundary of a cue's kind at which it is due: the multiframe, the FFT block, the modulator clock edge, or its own time
(R35/01); a rollover waits for the frames of the subcarriers that carry its packets. -/
def dueAt (c : Cue) : Option Nat :=
  match c.kind with
  | 1 | 4 => some (boundaryAfter c.time)
  | 2 => none
  | 3 => some (blockTime (blockAfter c.time))
  | 6 => some (gridAfter 6400000 c.time)
  | _ => some c.time

/-- An entry's state as it shows: 2 once its boundary has passed and its unit still holds it (R37/01, R370). -/
def shownState (s : State) (c : Cue) : Nat :=
  if c.state = 1 && (dueAt c).any (fun b => decide (b < now s)) then 2 else c.state

/-- The 32 bytes of a cue entry (R370). -/
def cueBytes (s : State) (c : Cue) : List Byte :=
  [byteOf (shownState s c), byteOf c.kind, byteOf c.origin,
    byteOf (b2n c.periodic + 2 * b2n c.late + 4 * b2n c.announced + 8 * b2n c.acked)]
    ++ natBE 2 c.obj ++ [0, 0] ++ tcBytes12 c.time ++ natBE 4 (if c.periodic then c.period else 0) ++ natBE 2 c.tag ++ [0, 0]
    ++ natBE 4 c.lateness

/-- cue.read (0x0980). -/
def cueRead (r : Req) (s : State) : Reply :=
  if 4095 < r.u 0 2 then refuse .range s else okWith (cueBytes s (cueAt s (r.u 0 2))) s

def execCueRead (mb : Nat) (s : State) : Res := mailbox ⟨0x0980, some 4, [(2, 2)]⟩ cueRead mb s

/-- cue.stats (0x0982). -/
def cueStats (_ : Req) (s : State) : Reply :=
  okWith (natBE 2 (pendingCues s) ++ [0, 0] ++ natBE 4 (min max32 s.cues.lateMax) ++ natBE 8 s.cues.lateN
    ++ natBE 8 s.cues.shortened ++ natBE 4 s.cues.unacked ++ natBE 4 s.cues.annRx) s

def execCueStats (mb : Nat) (s : State) : Res := mailbox (bareShape 0x0982) cueStats mb s

end Sys2Proof.Machine
end

