-- ==== Sys2Proof/Machine/Pair.lean ====
section
/-! DEFINITION. Lead and stand-in: the pair link, the lease, commit windows, mirroring, digests, resynchronization and
rehearsals (13_pair_redundancy.md). -/

namespace Sys2Proof.Machine

/-- A pair member (R378). -/
def isMember (s : State) : Bool := s.pair.role != 0

/-- The module identity of the heartbeat: the casting identity with bits [2:0] = 0b111 (R381). -/
def moduleIdent : Nat := castIdent 7

/-! Frames of the lease interface (R381). -/

def leaseL (fr : List Byte) : Nat := getU 12 4 fr

/-- A valid lease frame. -/
def leaseValid (fr : List Byte) : Bool :=
  fr.length == 20 && getU 0 1 fr == 0xA7 && getU 1 1 fr == 2 && crc16 (fr.take 18) == getU 18 2 fr
    && decide (100 ≤ leaseL fr) && decide (leaseL fr ≤ 10000000)

/-- A lease of duration L µs runs for 0.999 L - 10 µs (R382). -/
def leaseTicks (l : Nat) : Nat := ticksNs (999 * l) - ticksUs 10

/-! Rehearsals placed by the control firmware (R400, R403). -/

/-- The lead places a periodic rehearsal at pair generation 2 where none is pending (R400). -/
def placePeriodic (s : State) : State :=
  if isLead s && s.pair.gen == 2 && s.pair.period != 0 && (findCue s 5 0).isNone then
    match freeShared s with
    | none => s
    | some i =>
      let ms := 3600000 * s.pair.period
      let t := now s + ticksMs ms
      placeCue i { state := 1, kind := 5, origin := 1, periodic := true, time := t, nominal := t, period := ms } s
        |> mirror (.cuePlace i 5 0 t ms 0)
  else s

/-! The lease (R382, R383, R386). -/

/-- An announcement that waited for the lease: a rollover whose boundary is ahead is announced now; that of a cue follows
R375; one whose boundary has passed is discarded (R386). -/
def sendWaiting (i : Nat) (s : State) : State :=
  let c := cueAt s i
  onlyIf (c.state != 0 && c.kind == 2 && decide (now s < boundaryAfter c.time)) (announceRollover c.obj i) s

/-- Every context with a current key jumps by 2^26 packet numbers (R323). -/
def jumpNumbers (s : State) : State :=
  forAll (fun c => onlyIf (ctxOf s c).cur.isSome (onCtxOf c (fun x => { x with pn := x.pn + 2 ^ 26 })))
    (s.cipher.ctx.map (·.1)) s

/-- PM events that waited in the gap are raised (R386). -/
def raiseWaiting (evs : List (Nat × Nat × Nat × List Byte)) (s : State) : State :=
  forAll (fun e => raisePm e.1 e.2.1 e.2.2.1 e.2.2.2) evs s

/-- The cause of PAIR_LEASE_GAINED. -/
def gainCause (q : Pair) : Nat := if !q.everHeld then 3 else if q.farRelease then 2 else 1

/-- The module gains the lease. -/
def gainLease (stop : Nat) (s : State) : State :=
  let q := s.pair
  onPair (fun p => { p with
      role := 1, ownEnd := some stop, farEnd := none, gained := satAdd max64 p.gained 1, everHeld := true
      wasLead := true, farRelease := false, pmWait := [], decisions := []
      farResync := p.up && gainCause q != 2, emptyTold := [], deltas := [], inStep := false, resync := 0, tcOff := 0 }) s
    |> onlyIf (gainCause q != 2) jumpNumbers
    |> raise 0x0A00 13 0 0 [byteOf (gainCause q)]
    |> mirror (.lease stop)
    |> forAll sendWaiting s.cues.waiting
    |> onCues (fun c => { c with waiting := [] })
    |> raiseWaiting q.pmWait
    |> placePeriodic

/-- A RENEW naming this module grants or extends its lease; while RELEASE is set it is not taken (R382, R401). -/
def renewOwn (l : Nat) (s : State) : State :=
  let stop := upTime s + leaseTicks l
  if s.pair.release then s
  else if isLead s then mirror (.lease stop) (onPair (fun p => { p with ownEnd := some stop }) s)
  else gainLease stop s

/-- A RENEW naming the partner ends the own lease at once, and a release with it; the module is the stand-in (R382, R383,
R401). -/
def renewOther (l : Nat) (s : State) : State :=
  let q := s.pair
  onPair (fun p => { p with
      role := 2, ownEnd := none, farEnd := some (upTime s + leaseTicks l), everHeld := true, release := false
      rehearsed := false, wasLead := false, farRelease := false, pmWait := []
      inStep := if q.rehearsed then p.up && !p.cfgBad else p.inStep
      intervals := if q.rehearsed then 0 else p.intervals }) s
    |> onCues (fun c => { c with waiting := [] })
    |> onlyIf (q.role == 1) (fun s => freezeLog 5 (raise 0x0A01 13 0 0 [3] s))
    |> onlyIf q.rehearsed (raise 0x0A01 13 0 0 [2])
    |> onlyIf (q.up && q.role != 2 && !q.inStep && !q.rehearsed) startResync

/-- A valid lease frame. -/
def leaseGood (fr : List Byte) (s : State) : State :=
  let id := getU 2 6 fr
  let lost := s.pair.arbLost
  let s1 := onPair (fun p => { p with
      badRun := 0, hunting := false, arbOk := true, arbLost := false, leaseSeq := getU 10 2 fr, leaseL := leaseL fr }) s
    |> onlyIf lost (raise 0x0A07 13 0 0 [0])
  if bitOf (getU 8 1 fr) 0 then
    if id = moduleIdent then renewOwn (leaseL fr) s1 else if id ≠ 0 then renewOther (leaseL fr) s1 else s1
  else s1

/-- An invalid lease frame is counted; after two in a row the receiver hunts (R381). -/
def leaseBad (s : State) : State :=
  onPair (fun p => { p with
    badFrames := if p.hunting then p.badFrames else satAdd max64 p.badFrames 1
    badRun := p.badRun + 1, hunting := p.hunting || decide (2 ≤ p.badRun + 1) }) s

/-- LEASE_FRAME_RECEIVE; point 0x161 takes the next frame as invalid. -/
def leaseFrame (fr : List Byte) (s : State) : State :=
  if injArmed s 0x161 then leaseBad (injAct 0x161 s)
  else if leaseValid fr then leaseGood fr s else leaseBad s

def execLeaseFrameReceive (fr : List Byte) (s : State) : Res :=
  .next (onlyIf (isMember s && awake s) (leaseFrame fr) s)

/-- The instant of a time since reset. -/
def instantOf (s : State) (t : Nat) : Nat := now s + (t - upTime s)

/-- LEASE_EXPIRY: the own lease lapses, the log freezes (R382, R447/16). -/
def leaseExpiry (s : State) : State :=
  match s.pair.ownEnd with
  | none => s
  | some t =>
    clockTo (instantOf s t) s
      |> onPair (fun p => { p with role := 3, ownEnd := none })
      |> raise 0x0A01 13 0 0 [1]
      |> freezeLog 5

def execLeaseExpiry (s : State) : Res := .next (onlyIf (isLead s) leaseExpiry s)

/-- PARTNER_LEASE_EXPIRY (R383). -/
def partnerExpiry (s : State) : State :=
  match s.pair.farEnd with
  | none => s
  | some t => onPair (fun p => { p with role := 3, farEnd := none }) (clockTo (instantOf s t) s)

def execPartnerLeaseExpiry (s : State) : Res := .next (onlyIf (isStandIn s) partnerExpiry s)

/-- A permanent fault of a unit of the service die: cipher lanes, host and pair lanes, cue cores, on-chip memories (R381). -/
def serviceDieFault (s : State) : Bool :=
  s.flt.unit.any (fun e =>
    let typ := e.1 / 65536
    (e.2.retired || e.2.retiring || (typ == 5 && decide (64 ≤ e.1 % 65536) && makesPermanent s typ (e.1 % 65536)
        && decide (0 < e.2.times.length)))
      && (typ == 4 || typ == 6 || typ == 7 || typ == 10 || (typ == 5 && decide (64 ≤ e.1 % 65536))))

/-- Healthy: READY, no power fail or thermal shutdown in progress, no permanent fault of the service die; cleared for 1 ms
by point 0x160 (R381). -/
def healthy (s : State) : Bool :=
  s.ctrl.stage == .ready && s.power.phase == .good && !s.therm.shut && !serviceDieFault s && !(injOf s 0x160).running

/-- The heartbeat frame (R381). -/
def heartbeatFrame (s : State) : List Byte :=
  let q := s.pair
  let b := [0xA7, 1] ++ natBE 6 moduleIdent
    ++ [byteOf (64 * q.role + 32 * b2n (healthy s) + 16 * b2n q.inStep + 8 * b2n q.release + 4 * b2n q.up
        + 2 * b2n (findCue s 5 0).isSome), 2]
    ++ natBE 2 q.hbSeq ++ natBE 2 q.leaseSeq ++ zeros 4
  b ++ natBE 2 (crc16 b)

/-- HEARTBEAT_SEND; a single module holds ARB_DO low (R378). -/
def heartbeatSend (s : State) : State :=
  onPair (fun p => { p with heartbeat := heartbeatFrame s, hbSeq := (p.hbSeq + 1) % 65536 }) s

def execHeartbeatSend (s : State) : Res := .next (onlyIf (isMember s) heartbeatSend s)

/-- ARB_LOST_TIMER: 1 ms without a valid lease frame (R381). -/
def arbLostTimer (s : State) : State :=
  onPair (fun p => { p with arbOk := false, arbLost := true }) s |> onlyIf (!s.pair.arbLost) (raise 0x0A07 13 0 0 [1])

def execArbLostTimer (s : State) : Res := .next (onlyIf (isMember s) arbLostTimer s)

/-! The pair link (R380). -/

/-- The four pair lanes enter a state. -/
def pairLanes (st : LaneState) (s : State) : State :=
  forAll (fun l => onLaneOf (96 + l) (fun x => { x with st := if x.st = .retired then .retired else st })) [0, 1, 2, 3] s

/-- The link is down. -/
def pairDown (s : State) : State :=
  onPair (fun p => { p with up := false, gen := 0, inStep := false, resync := 0, matched := 0 }) s
    |> pairLanes (if s.pair.linkEn then .detect else .disabled)
    |> onlyIf s.pair.up (raise 0x0A02 13 0 0 [0, 0])

/-- What the exchange shows against the settings: the reasons of PAIR_CFG_MISMATCH. -/
def exchangeBad (q : Pair) (x : PairExchange) : List Nat :=
  (if q.expect ≠ 0 ∧ x.ident ≠ q.expect then [1] else []) ++ (if x.d ≠ q.d then [2] else [])
    ++ (if x.period ≠ q.period then [3] else [])

/-- The link is up: the exchange, its mismatches, and the stand-in's resynchronization (R380, R399, R404). -/
def pairUp (x : PairExchange) (s : State) : State :=
  let bad := exchangeBad s.pair x
  onPair (fun p => { p with
      up := true, gen := min 2 x.gen, farGen := x.gen, farLinkGen := x.linkGen, farIdent := x.ident
      farHealthy := x.healthy, cfgBad := bad != [], farResync := p.role == 1, emptyTold := [] }) s
    |> pairLanes .active
    |> raise 0x0A02 13 0 0 [1, byteOf (min 2 x.gen)]
    |> forAll (fun k => raise 0x0A06 13 0 0 [byteOf k]) bad
    |> onlyIf (!isLead s) startResync
    |> placePeriodic

/-- PAIR_LINK_UP, which also carries the link's loss. -/
def pairLink (x : PairExchange) (s : State) : State :=
  if x.up then onlyIf (s.pair.linkEn && !(List.range 4).any (fun l => (laneOf s (96 + l)).st == .retired)) (pairUp x) s
  else onlyIf s.pair.up pairDown s

def execPairLinkUp (x : PairExchange) (s : State) : Res := .next (onlyIf (isMember s) (pairLink x) s)

/-- HL_LOSS_OF_SIGNAL: a host lane, or a pair lane, whose fault takes the link down and the stand-in out of step (R263/08,
R380, R435/16). -/
def pairLaneLoss (l : Nat) (s : State) : State :=
  onlyIf ((laneOf s (96 + l)).st == .active)
    (fun s => raise 0x0501 22 (96 + l) 0 [2] s |> leaveStep |> pairDown |> unitFault 7 l) s

def execHlLossOfSignal (pair : Bool) (l : Nat) (s : State) : Res :=
  need "lane" (if pair then okPairLane l else okLane l)
    (onlyIf (running s) (if pair then pairLaneLoss l else hostLaneLoss l) s)

/-! Commit windows (R387 to R390). -/

/-- The end of window `k`: 64 (k + 1) ns. -/
def windowEnd (k : Nat) : Nat := ticksNs (64 * (k + 1))

/-- Packets ahead of lookup that the records now cover belong to their window (R387). -/
def stampIngress (s : State) : State :=
  onSvc (fun v => { v with
    ingress := v.ingress.map (fun e => (e.1, e.2.map (fun p =>
      if p.win.isSome then p else { p with win := windowOf s e.1 p.blk }))) }) s

/-- The records of host ports. -/
def storeRecords (idx : List (Nat × Nat)) (t : Tab Nat) : Tab Nat := idx.foldl (fun t e => tabSet 0 t e.1 e.2) t

/-- The lead reports the tributaries that window `k` finds empty, after returns, to a resynchronizing stand-in: each once (R398). -/
def reportEmpty (k : Nat) (s : State) : State :=
  forAll (fun t => onlyIf (!s.pair.emptyTold.contains t && occAt s k (tribOf s t) == 0)
    (fun s => tellPartner (.emptyPoint t k) (onPair (fun p => { p with emptyTold := p.emptyTold ++ [t] }) s))) (tribKeys s) s

/-- COMMIT_WINDOW on the lead: the port block index of the last whole block of every host port that is up, of which the row gives the
logical lane and block count, is recorded and sent; the packets it covers belong to the window. In a lease gap each module records
its own (DESIGN CHOICE, notes/assumptions/55.md). Point 0x163 makes the next commit late. -/
def commitWindow (k : Nat) (idx : List (Nat × Nat × Nat)) (s : State) : State :=
  let late := injArmed s 0x163
  let up := (idx.filter (fun e => (hostPort s e.1).st == .up)).map (fun e =>
    (e.1, portBlock (hostPort s e.1).width e.2.1 e.2.2))
  if now s ≤ windowEnd k then
    clockTo (windowEnd k) s
      |> onlyIf late (injAct 0x163)
      |> onPair (fun p => { p with
          window := k, records := storeRecords up p.records, windows := (k, up) :: p.windows.take 511
          lateC := if late then satAdd max64 p.lateC 1 else p.lateC })
      |> stampIngress
      |> onlyIf (isLead s) (tellPartner (.commit k up))
      |> onlyIf (isLead s && s.pair.farResync) (reportEmpty k)
  else s

def execCommitWindow (k : Nat) (idx : List (Nat × Nat × Nat)) (s : State) : Res :=
  .next (onlyIf (isMember s && !isStandIn s && running s) (commitWindow k idx) s)

/-- COMMIT_RECORD_RECEIVE on the stand-in: the record, its margin, and a late commit, which is a divergence (R390). -/
def commitRecord (k : Nat) (idx : List (Nat × Nat)) (late : Bool) (margin : Int) (s : State) : State :=
  let inj := injArmed s 0x163
  let sec := tcSec (now s)
  onlyIf inj (injAct 0x163) s
    |> onPair (fun p => { p with
        window := k, records := storeRecords idx p.records, windows := (k, idx) :: p.windows.take 511
        margin := if p.marginSec = sec then min p.margin margin else margin, marginSec := sec
        lateC := if late || inj then satAdd max64 p.lateC 1 else p.lateC })
    |> stampIngress
    |> onlyIf (late || inj) (diverge 4 0)

def execCommitRecordReceive (k : Nat) (idx : List (Nat × Nat)) (late : Bool) (margin : Int) (s : State) : Res :=
  .next (onlyIf (isStandIn s && running s) (commitRecord k idx late margin) s)

/-! Mirror intervals and digests (R393, R396, R397). -/

/-- 89,600 ns. -/
def mirrorTicks : Nat := ticksNs 89600

/-- The state digest: occupancy of every tributary, then the next packet number of every context with a current key. -/
def stateDigest (s : State) : Word :=
  BitVec.ofNat 32 (crc32 ((List.range 3840).flatMap (fun t => natBE 4 (occAt s s.pair.window (tribOf s t)))
    ++ (s.cipher.ctx.filter (fun e => e.2.cur.isSome)).flatMap (fun e => natBE 8 e.2.pn)))

/-- The transmit and receive digests completed in the interval, and the previous state digest. -/
def dueDigests (s : State) : List Digest :=
  (allScs.filter (fun sc => (txFrame s sc).digestDue)).map (fun sc => ⟨1, sc, (txFrame s sc).lastDigest, 0⟩)
    ++ (allScs.filter (fun sc => (rxFramer s sc).rxDue)).filterMap (fun sc =>
        (rxFramer s sc).lastRx.map (fun d => ⟨2, sc, BitVec.ofNat 32 d.1, d.2⟩))
    ++ (match s.pair.stateDig with | none => [] | some w => [⟨3, 0, w, 0⟩])

/-- Point 0x162: bit 0 of the first transmit digest is sent inverted. -/
def flipDigest (ds : List Digest) : List Digest := match ds with
  | d :: l => if d.kind = 1 then { d with value := d.value ^^^ 1 } :: l else d :: l
  | [] => []

/-- The state digest of the new interval is taken at pair generation 2; the last one is kept for comparison. -/
def takeStateDigest (s : State) : State :=
  onPair (fun p => { p with
    statePrev := p.stateDig, stateDig := if p.gen = 2 then some (stateDigest s) else none }) s

/-- The packet numbers of a window as a bitmap: bit j stands for H - j. -/
def windowBits (h : Nat) (l : List Nat) : Nat := (l.map (fun n => if n ≤ h then 2 ^ (h - n) else 0)).sum

/-- A context's state as the lead sends it (R321/10). -/
def contextState (c : Nat) (x : Ctx) : ContextMirror :=
  let h (k : Option KeySlot) : Nat := (k.map (·.h)).getD 0
  let w (k : Option KeySlot) : Nat := (k.map (fun k => windowBits k.h k.win.dedup)).getD 0
  ⟨c, x.pn, h x.cur, h x.nxt, w x.cur, w x.nxt, beNat (kcv x.cur), beNat (kcv x.nxt)⟩

/-- The lead sends the counter deltas of the past interval and the state of every context with a key (R393; R321/10). -/
def sendInterval (s : State) : State :=
  forAll (fun e => mirror (.counters e.1 e.2.tp e.2.tb e.2.rp e.2.rb)) s.pair.deltas s
    |> onPair (fun p => { p with deltas := [] })
    |> forAll (fun e => onlyIf (e.2.cur.isSome || e.2.nxt.isSome) (tellPartner (.context (contextState e.1 e.2)))) s.cipher.ctx

/-- The lead sends the digests of the past interval. -/
def sendDigests (s : State) : State :=
  let ds := dueDigests s
  let inj := injArmed s 0x162 && ds.any (·.kind == 1)
  onlyIf inj (injAct 0x162) s
    |> onPair (fun p => { p with
        digests := if inj then flipDigest ds else ds, mirrored := p.mirrored + ds.length })
    |> forAll (fun sc s => onRxFramer sc (fun f => { f with rxDue := false })
        (onTxFrame sc (fun f => { f with digestDue := false }) s)) allScs

/-- The stand-in judges the past interval: 16 matched in a row after the copy, with matching settings and keys, bring it into
step (R397). -/
def judgeInterval (s : State) : State :=
  let q := s.pair
  let m := if q.mism then 0 else if q.resync = 2 then q.matched + 1 else q.matched
  let enter := q.resync == 2 && decide (16 ≤ m) && !q.cfgBad && q.kcvBad == []
  onPair (fun p => { p with
      mism := false, matched := m
      intervals := if enter then 0 else if p.inStep then p.intervals + 1 else p.intervals
      inStep := p.inStep || enter, resync := if enter then 0 else p.resync }) s
    |> onlyIf enter (raise 0x0A04 13 0 0 (zeros 4 ++ natBE 4 (min max32 ((upTime s - q.resyncAt) / ticksUs 1))))

/-- MIRROR_INTERVAL at a multiple of 89,600 ns. -/
def mirrorInterval (at_ : Nat) (s : State) : State :=
  if now s ≤ at_ ∧ at_ % mirrorTicks = 0 then
    clockTo at_ s |> onPair (fun p => { p with sent := [] })
      |> onlyIf (isLead s) (fun s => sendInterval (sendDigests s)) |> onlyIf (isStandIn s) judgeInterval |> takeStateDigest
  else s

def execMirrorInterval (at_ : Nat) (s : State) : Res :=
  .next (onlyIf (isMember s && s.pair.up && running s) (mirrorInterval at_) s)

/-- DIGEST_RECEIVE: the comparison of one digest; a receive comparison whose masks differ is skipped and counted (R396). -/
def digestReceive (d : Digest) (s : State) : State :=
  match d.kind with
  | 1 => onlyIf ((txFrame s d.sc).lastDigest != d.value) (diverge 1 d.sc) s
  | 2 =>
    match (rxFramer s d.sc).lastRx with
    | some (v, m) =>
      if m = d.mask then onlyIf (BitVec.ofNat 32 v != d.value) (diverge 2 d.sc) s
      else onPair (fun p => { p with skipped := satAdd max64 p.skipped 1 }) s
    | none => onPair (fun p => { p with skipped := satAdd max64 p.skipped 1 }) s
  | 3 => onlyIf (s.pair.gen == 2 && s.pair.statePrev.any (· != d.value)) (diverge 3 0) s
  | _ => s

def execDigestReceive (d : Digest) (s : State) : Res :=
  need "subcarrier" (okSc d.sc) (onlyIf (isStandIn s && running s) (digestReceive d) s)

/-! Context state (R321/10). -/

/-- The numbers of a window sent as a bitmap: bit j stands for H - j. -/
def windowNumbers (h w : Nat) : List Nat := (maskList 4096 w).filterMap (fun j => if j < h then some (h - j) else none)

/-- The higher H and the combined windows. -/
def mergeSlot (w h bits : Nat) (k : KeySlot) : KeySlot :=
  let top := max k.h h
  { k with h := top, win := ((windowNumbers h bits ++ k.win).dedup).filter (fun n => decide (top < n + w)) }

/-- The KCV of slot `k` against the lead's: CTX_PAIR_KEY_MISMATCH when it first differs. -/
def compareKcv (c k : Nat) (own : List Byte) (far : Nat) (s : State) : State :=
  let bad := beNat own != far
  onPair (fun p => { p with kcvBad := if bad then including (2 * c + k) p.kcvBad else without (2 * c + k) p.kcvBad }) s
    |> onlyIf (bad && !s.pair.kcvBad.contains (2 * c + k)) (raise 0x0705 24 c 0 [byteOf k])

def contextMirror (m : ContextMirror) (s : State) : State :=
  onCtxOf m.ctx (fun x => { x with
      pn := m.pn, cur := x.cur.map (mergeSlot x.w m.h0 m.w0), nxt := x.nxt.map (mergeSlot x.w m.h1 m.w1) }) s
    |> compareKcv m.ctx 0 (kcv (ctxOf s m.ctx).cur) m.kcv0
    |> compareKcv m.ctx 1 (kcv (ctxOf s m.ctx).nxt) m.kcv1

def execContextMirrorReceive (m : ContextMirror) (s : State) : Res :=
  need "context" (okCtx m.ctx) (onlyIf (isStandIn s && running s) (contextMirror m) s)

/-! Schedules (R394). -/

/-- The module takes the partner's schedules: the stand-in, and in a lease gap the one that was not the lead. -/
def takesSchedules (s : State) : Bool := isStandIn s || (s.pair.role == 3 && !s.pair.wasLead)

def scheduleReceive (e : Schedule) (s : State) : State :=
  onTxFrame e.sc (fun f => { f with sched := f.sched.filter (fun x => x.dep != e.dep) ++ [e] }) s

def execScheduleReceive (e : Schedule) (s : State) : Res :=
  need "subcarrier" (okSc e.sc) (onlyIf (takesSchedules s && decide (now s ≤ e.dep)) (scheduleReceive e) s)

/-! Resynchronization (R397, R398). -/

/-- RESYNC_COPY_DONE: the copy is complete, and digests decide from here on. -/
def execResyncCopyDone (s : State) : Res :=
  .next (onlyIf (isStandIn s && s.pair.resync == 1) (onPair (fun p => { p with resync := 2, matched := 0, mism := false })) s)

/-- Packets committed before window `k` leave a queue; their cells are free. -/
def dropBefore (k : Nat) (l : List QPacket) (s : State) : State :=
  forAll (fun q => onlyIf (decide (q.win < k)) (onTribOf q.trib (fun x => { x with occ := x.occ - q.cells }))) l s

/-- The mapping the lead has made since the empty point has used some packets of each queue and some bytes of the next: how
many is a free value (R398). -/
def dropUsed (t : Nat) (s : State) : State :=
  let x := tribOf s t
  let f := freeList 3 s
  let a := f.getD 0 0 % (x.express.length + 1)
  let b := f.getD 1 0 % (x.normal.length + 1)
  let gone := x.express.take a ++ x.normal.take b
  let y := { x with express := x.express.drop a, normal := x.normal.drop b }
  let s1 := forAll (fun q => onTribOf q.trib (fun x => { x with occ := x.occ - q.cells })) gone (useFrees 3 s)
  match nextPacket y with
  | none => onTribOf t (fun z => { z with express := y.express, normal := y.normal }) s1
  | some (q, y') =>
    let n := f.getD 2 0 % q.bytes.length
    if n = 0 then onTribOf t (fun z => { z with express := y.express, normal := y.normal }) s1
    else onTribOf t (fun z => { z with
      express := y'.express, normal := y'.normal, cur := q.bytes.drop n, curCells := q.cells, curTrib := q.trib }) s1

/-- EMPTY_POINT_RECEIVE. -/
def emptyPoint (t k : Nat) (s : State) : State :=
  let x := tribOf s t
  dropBefore k (x.express ++ x.normal) s
    |> onTribOf t (fun x => { x with
        express := x.express.filter (fun q => decide (k ≤ q.win)), normal := x.normal.filter (fun q => decide (k ≤ q.win))
        emptyKnown := true })
    |> dropUsed t

def execEmptyPointReceive (t k : Nat) (s : State) : Res :=
  need "tributary" (okTrib t) (onlyIf (isStandIn s && !(tribOf s t).emptyKnown) (emptyPoint t k) s)

/-! Rehearsals (R400 to R402). -/

/-- The first heartbeat frame, of those 6.4 µs apart that reach `at_`, that starts at or after `t`. -/
def firstHeartbeat (t at_ : Nat) : Nat := at_ - (at_ - t) / ticksNs 6400 * ticksNs 6400

/-- The cue of a rehearsal has taken effect. -/
def rehearsalOver (i at_ : Nat) (s : State) : State :=
  let c := cueAt s i
  (if c.periodic then cueAgain i at_ (firstHeartbeat c.time at_) s else cueDone i at_ (firstHeartbeat c.time at_) s)
    |> placePeriodic

/-- Why a rehearsal fails on the lead: not in step, not healthy, pair link down (R401, R402). -/
def rehearsalFails (inStep far : Bool) (s : State) : Option Nat :=
  if !inStep then some 1 else if !far then some 2 else if !s.pair.up then some 4 else none

/-- REHEARSAL_CUE: the checks, then RELEASE; in a lease gap the rehearsal fails; a stand-in's copy of the cue passes. -/
def rehearsalCue (i at_ : Nat) (inStep far : Bool) (s : State) : State :=
  let told := if inStep then [] else s.pair.emptyTold
  let s1 := onPair (fun p => { p with farHealthy := far, farResync := p.role == 1 && !inStep, emptyTold := told }) (clockTo at_ s)
  if isLead s then
    match rehearsalFails inStep far s with
    | some k => rehearsalOver i at_ (raise 0x0A05 13 0 0 [byteOf k] s1)
    | none =>
      rehearsalOver i at_ s1 |> mirror (.lease 0)
        |> onPair (fun p => { p with release := true, rehearsed := true, ownEnd := none, role := 3 })
  else rehearsalOver i at_ (onlyIf (s.pair.role == 3 && s.pair.wasLead) (raise 0x0A05 13 0 0 [5]) s1)

def execRehearsalCue (i at_ : Nat) (inStep healthy : Bool) (s : State) : Res :=
  need "cue" (okCue i) (onlyIf (isMember s && cueDue s i 5 at_ && decide (now s ≤ at_)
    && firstDue s i at_ (fun _ => true)) (rehearsalCue i at_ inStep healthy) s)

/-- REHEARSAL_RELEASE_TIMEOUT: 1 ms without a RENEW naming the partner (R402). -/
def execRehearsalReleaseTimeout (s : State) : Res :=
  .next (onlyIf s.pair.rehearsed
    (fun s => raise 0x0A05 13 0 0 [3] (onPair (fun p => { p with release := false, rehearsed := false }) s)) s)

/-! The pair commands. -/

/-- pair.config (0x0A00). A change of D or of the period, and a disable, take the link down (R380). -/
def pairConfig (r : Req) (s : State) : Reply :=
  let en := r.u 0 1 == 1
  if 1 < r.u 0 1 then refuse .badarg s
  else if isSingle s then refuse .denied s
  else if r.u 2 2 < 5 ∨ 200 < r.u 2 2 ∨ 168 < r.u 4 2 then refuse .range s
  else
    let q := s.pair
    let again := !en || r.u 2 2 != q.d || r.u 4 2 != q.period
    okay (onPair (fun p => { p with linkEn := en, d := r.u 2 2, period := r.u 4 2, expect := r.u 8 6 }) s
      |> onlyIf (q.up && again) pairDown
      |> onlyIf (!q.up && en != q.linkEn) (pairLanes (if en then .detect else .disabled)))

def execPairConfig (mb : Nat) (s : State) : Res := mailbox ⟨0x0A00, some 16, [(1, 1), (6, 2), (14, 2)]⟩ pairConfig mb s

/-- pair.rehearse (0x0A01). -/
def pairRehearse (r : Req) (s : State) : Reply :=
  if isSingle s then refuse .denied s
  else match readTime10 0 r.pay with
    | none => refuse .range s
    | some t =>
      let old := findCue s 5 0
      if t < now s + ticksMs 10 then refuse .range s
      else if !s.pair.up || old.any (fun i => decide ((cueAt s i).time < now s + ticksMs 10)) then refuse .denied s
      else
        let s1 := match old with | none => s | some i => clearCue i s
        match freeShared s1 with
        | none => refuse .nores s
        | some i =>
          okWith (tcBytes10 t ++ [b2w old.isSome, 0])
            (placeCue i { state := 1, kind := 5, origin := 0, time := t, nominal := t, tag := r.tag } s1)

def execPairRehearse (mb : Nat) (s : State) : Res := mailbox ⟨0x0A01, some 12, [(10, 2)]⟩ pairRehearse mb s

/-- Microseconds left on the running lease. -/
def leaseLeft (s : State) : Nat :=
  match s.pair.ownEnd, s.pair.farEnd with
  | some t, _ => (t - upTime s) / ticksUs 1
  | none, some t => (t - upTime s) / ticksUs 1
  | none, none => 0

/-- pair.status (0x0A02). -/
def pairStatus (_ : Req) (s : State) : Reply :=
  let q := s.pair
  if isSingle s then refuse .denied s
  else okWith ([byteOf q.role, byteOf (b2n q.up + 2 * b2n q.inStep + 4 * b2n (q.resync != 0) + 8 * b2n q.farHealthy
      + 16 * b2n q.arbOk), byteOf q.gen, byteOf q.farGen] ++ natBE 6 moduleIdent ++ natBE 6 q.farIdent
    ++ natBE 4 q.leaseL ++ natBE 4 (leaseLeft s) ++ natBE 2 q.d ++ intBE 2 (marginField q.margin)
    ++ natBE 4 (min max32 q.intervals) ++ natBE 8 q.gained ++ natBE 8 q.diverg ++ natBE 8 q.lateC ++ natBE 8 q.skipped
    ++ natBE 8 q.badFrames
    ++ (match findCue s 5 0 with | some i => tcBytes10 (cueAt s i).time | none => zeros 10) ++ [0, 0]
    ++ intBE 4 (if isLead s then 0 else q.tcOff)) s

def execPairStatus (mb : Nat) (s : State) : Res := mailbox (bareShape 0x0A02) pairStatus mb s

/-- pair.resync (0x0A03). -/
def pairResync (_ : Req) (s : State) : Reply :=
  if isStandIn s && s.pair.up then okay (startResync s) else refuse .denied s

def execPairResync (mb : Nat) (s : State) : Res := mailbox (bareShape 0x0A03) pairResync mb s

end Sys2Proof.Machine
end

