-- ==== Sys2Proof/Machine/Thermal.lean ====
section
/-! DEFINITION. Temperature, thermal protection and shutdown, the flash window and its work, calibration
(15_thermal_and_calibration.md). -/

namespace Sys2Proof.Machine

/-! Ports dark by the power-fail path (R466/18). -/

/-- A port's drivers and attenuator close, its receiver stops, and its laser enable drops, without any event. -/
def dropPort (p : Nat) (s : State) : State :=
  shutTx p .off s
    |> onTxPort p (fun t => { t with len := false })
    |> onHubPort p (fun h => { h with join := .idle })
    |> shutRx p
    |> onFecPort p fecZero

def allDark (s : State) : State := forAll dropPort allPorts s

/-- Every lane to electrical idle; host ports are down. -/
def lanesIdle (s : State) : State :=
  forAll (fun l => onLaneOf l (fun x => { x with st := if x.st = .retired then .retired else .disabled })) (List.range 100) s
    |> forAll (fun nn => onHostPort nn (fun h => { h with st := .down, target := none })) (List.range 96)
    |> onPair (fun p => { p with up := false, gen := 0, inStep := false, resync := 0 })

/-- A pending enable: port.txenable, port.rxenable, port.reset and hub.join (R425). -/
def isEnable (op : Nat) : Bool := op == 0x0201 || op == 0x0206 || op == 0x0211 || op == 0x0403

/-- Every pending enable ends with DENIED (R425). -/
def denyEnables (s : State) : State :=
  forAll (fun d => onlyIf (isEnable d.op) (commandDone d .denied)) s.ctrl.deferred s

/-! The dies (R422 to R425). -/

def dieChannels : List Nat := (List.range 14).map (34 + ·)

/-- A threshold injection runs on the die: points 0x185 to 0x187. -/
def forcedTemp (s : State) (ch : Nat) : Option Int :=
  let on (pt : Nat) : Bool := (injOf s pt).running && (injOf s pt).arg == ch
  if on 0x187 then some 1580 else if on 0x186 then some 1470 else if on 0x185 then some s.therm.warnThr else none

/-- The first diode's reading: point 0x184 lets it read 20 C low. -/
def firstDiode (s : State) (ch : Nat) (d0 : Int) : Int :=
  if (injOf s 0x184).running && (injOf s 0x184).arg == ch then d0 - 200 else d0

/-- What the detectors see of a die: the higher of its valid diodes, the shutdown threshold where neither is (R422). -/
def dieReading (s : State) (ch : Nat) (d0 d1 : Int) : Int :=
  match forcedTemp s ch with
  | some t => t
  | none =>
    match (dieOf s ch).d0Bad, (dieOf s ch).d1Bad with
    | false, false => max (firstDiode s ch d0) d1
    | false, true => firstDiode s ch d0
    | true, false => d1
    | true, true => 1580

/-- Consecutive samples at or above a threshold, three at most. -/
def countUp (n : Nat) (t thr : Int) : Nat := if thr ≤ t then min 3 (n + 1) else 0

/-- One die's sample: its counts, THERM_WARN reached at the third sample and released 5.0 C below (R423). -/
def sampleDie (ch : Nat) (t : Int) (s : State) : State :=
  let d := dieOf s ch
  let n := countUp d.nWarn t s.therm.warnThr
  let hit := n == 3 && !d.warned
  let off := d.warned && decide (t ≤ s.therm.warnThr - 50)
  onDieOf ch (fun d => { d with
      temp := t, nWarn := n, nPace := countUp d.nPace t 1470, nShut := countUp d.nShut t 1580
      warned := (d.warned || hit) && !off }) s
    |> onlyIf (hit || off) (raise 0x0B80 11 0 0 ([byteOf ch, byteOf (b2n hit)] ++ intBE 2 t))

/-- The hottest die by the detectors. -/
def hottestDie (s : State) : Nat :=
  (dieChannels.foldl (fun b k => if b.2 < (dieOf s k).temp then (k, (dieOf s k).temp) else b) (34, (dieOf s 34).temp)).1

/-- The cap of a port is held at or below the nominal budget (R424). -/
def holdCap (p : Nat) (s : State) : State :=
  let s1 := onFecPort p (fun f => { f with hold := true }) s
  let k := min (fecPort s1 p).k (fecPort s1 p).n
  onlyIf (decide (k < (fecPort s1 p).k)) (setCap p k) s1

/-- The ports of a line die's channel, MCH34 to MCH36. -/
def diePorts (ch : Nat) : List Nat := if ch ≤ 36 then [2 * (ch - 34), 2 * (ch - 34) + 1] else []

/-- Dies that have newly reached the pace-protection threshold. -/
def newlyPaced (s : State) : List Nat := dieChannels.filter (fun ch => (dieOf s ch).nPace == 3 && !(dieOf s ch).paced)

/-- Pace protection: entry, the hold of each line die that reaches the threshold, release when every die is below 144.0 C
(R424). -/
def paceProtect (s : State) : State :=
  let new := newlyPaced s
  let s1 := forAll (fun ch s => forAll holdCap (diePorts ch) (onDieOf ch (fun d => { d with paced := true }) s)) new s
  if !s.therm.pace && new != [] then
    onTherm (fun t => { t with pace := true }) s1
      |> onBulk (fun b => { b with suspended := true })
      |> raise 0x0B81 11 0 0 [1, byteOf (hottestDie s1)]
  else if s.therm.pace && dieChannels.all (fun ch => decide ((dieOf s ch).temp < 1440)) then
    onTherm (fun t => { t with pace := false }) s1
      |> onBulk (fun b => { b with suspended := false })
      |> forAll (fun ch => onDieOf ch (fun d => { d with paced := false })) dieChannels
      |> forAll (fun p => onFecPort p (fun f => { f with hold := false })) allPorts
      |> raise 0x0B81 11 0 0 [0, byteOf (hottestDie s1)]
  else s1

/-- Thermal shutdown in the order of R425. -/
def thermalShutdown (ch : Nat) (s : State) : State :=
  let t := (dieOf s ch).temp
  onTherm (fun t => { t with shut := true, shutCh := ch }) s
    |> freezeLog 1
    |> allDark
    |> lanesIdle
    |> onPower (fun w => { w with picRails := [], rail := 620 })
    |> onCtrl (fun c => { c with stage := .shutdown })
    |> raise 0x0B82 11 0 0 ([byteOf ch, 0] ++ intBE 2 t)
    |> denyEnables

/-- The dies that have reached the shutdown threshold. -/
def shutDies (s : State) : List Nat := dieChannels.filter (fun ch => (dieOf s ch).nShut == 3)

/-- THERM_SAMPLE every 10 us: the first and second diode of each die of MCH34 to MCH47, in 0.1 C. -/
def thermSample (ts : List Int) (s : State) : State :=
  let s1 := forAll (fun i s => sampleDie (34 + i) (dieReading s (34 + i) (ts.getD (2 * i) 0) (ts.getD (2 * i + 1) 0)) s)
    (List.range 14) s
  match shutDies s1 with
  | ch :: _ => thermalShutdown ch s1
  | [] => paceProtect s1

def execThermSample (temps : List Int) (s : State) : Res :=
  .next (onlyIf (awake s && !s.therm.shut) (thermSample temps) s)

/-- A diode has read outside -55 to +175 C. -/
def outOfRange (d : Int) : Bool := decide (d < -550) || decide (1750 < d)

/-- The diodes judged after 100 ms of these readings (R422). -/
def judgeDiodes (ch : Nat) (d0 d1 : Int) (s : State) : State :=
  let a := firstDiode s ch d0
  let apart := !outOfRange a && !outOfRange d1 && decide (100 < (a - d1).natAbs)
  let b0 := outOfRange a || (apart && decide (a < d1))
  let b1 := outOfRange d1 || (apart && decide (d1 < a))
  let d := dieOf s ch
  onDieOf ch (fun d => { d with d0Bad := b0, d1Bad := b1 }) s
    |> onlyIf (d.d0Bad != b0) (raise 0x0B83 11 0 0 [byteOf ch, 0, b2w b0])
    |> onlyIf (d.d1Bad != b1) (raise 0x0B83 11 0 0 [byteOf ch, 1, b2w b1])

def execDiodeValidityTimer (ch : Nat) (d0 d1 : Int) (s : State) : Res :=
  need "die channel" (decide (34 ≤ ch) && decide (ch ≤ 47)) (onlyIf (awake s) (judgeDiodes ch d0 d1) s)

/-! The flash window and its work (R427 to R429). -/

/-- The window after a reading of the FLD sensor: -25 to +110 C keeps it open, -23 to +108 C opens it (R427). -/
def windowAfter (was : Bool) (t : Int) : Bool :=
  if was then decide (-250 ≤ t) && decide (t ≤ 1100) else decide (-230 ≤ t) && decide (t ≤ 1080)

/-- FLASH_WINDOW_CHANGE. -/
def flashWindow (t : Int) (s : State) : State :=
  let w := windowAfter s.therm.window t
  onTherm (fun x => { x with fld := t, window := w }) s
    |> onlyIf (w != s.therm.window) (raise 0x0B84 10 0 0 ([b2w w, 0] ++ intBE 2 t))
    |> startWork

def execFlashWindowChange (t : Int) (s : State) : Res := .next (onlyIf s.power.powered (flashWindow t) s)

/-- The slot a flush writes: the lowest empty one, else the one flushed longest ago (R449/16). -/
def flushSlot (l : LogSt) : Nat :=
  match firstFrom (fun k => (tabGet ([], 0) l.slots k).2 == 0) 0 4 with
  | some k => k
  | none => (List.range 4).foldl (fun b k =>
      if (tabGet ([], 0) l.slots k).2 < (tabGet ([], 0) l.slots b).2 then k else b) 0

/-- The snapshot is flushed: LOG_FLUSHED (R449/16). -/
def flushDone (s : State) : State :=
  let k := flushSlot s.log
  onLog (fun l => { l with
      slots := tabSet ([], 0) l.slots k (l.snap, l.flushNo + 1), flushNo := l.flushNo + 1, flushDue := false }) s
    |> raise 0x0D81 15 0 0 [byteOf k]

/-- The reported flag of the power-fail record is written (R451/16). -/
def reportedDone (s : State) : State :=
  onLog (fun l => { l with repA := l.repA || l.numA != 0, repB := l.repB || l.numB != 0 }) s

/-- The whole present map of the retirements that survive power-on is written (R428, R472/18). -/
def mapDone (s : State) : State :=
  onFlt (fun f => { f with fldRetired := (f.unit.filter (fun e =>
      e.2.retired && e.1 / 65536 != 6 && e.1 / 65536 != 7)).map (fun e => (e.1 / 65536, e.1 % 65536)) }) s
    |> onTherm (fun t => { t with mapDue := false })

/-- COMMAND_DONE of a deferred command by opcode and tag. -/
def doneByTag (op tag : Nat) (c : Code) (s : State) : State :=
  match s.ctrl.deferred.find? (fun d => d.op == op && d.tag == tag) with
  | some d => commandDone d c s
  | none => s

/-- A user record is in the store, or removed from it. -/
def storeCal (k : Nat) (v : Option CalRec) (s : State) : State :=
  onTherm (fun t => { t with stored := match v with
    | some r => tabInsert k r (t.stored.filter (fun e => e.1 != k))
    | none => t.stored.filter (fun e => e.1 != k) }) s

/-- Snapshot slots and power-fail areas of a mask are erased (log.erase, R451/16). -/
def eraseLog (mask : Nat) (s : State) : State :=
  onLog (fun l => { l with
    slots := l.slots.filter (fun e => !(bitOf mask e.1))
    areaA := if bitOf mask 4 then [] else l.areaA, numA := if bitOf mask 4 then 0 else l.numA
    repA := l.repA && !bitOf mask 4
    areaB := if bitOf mask 5 then [] else l.areaB, numB := if bitOf mask 5 then 0 else l.numB
    repB := l.repB && !bitOf mask 5 }) s

/-- A piece of flash work is complete; `same` is the read-back of fw.activate. -/
def workDone (w : FlashWork) (same : Bool) (s : State) : State :=
  let s1 := onTherm (fun t => { t with busy := none }) s
  match w with
  | .flush => flushDone s1
  | .reported => reportedDone s1
  | .retirementMap => mapDone s1
  | .cal k v op tag => doneByTag op tag .ok (storeCal k v s1)
  | .activate => activationDone same s
  | .erase m op tag => doneByTag op tag .ok (eraseLog m s1)

/-- FLASH_PAGE_DONE: the page in progress is complete; the work ends with its last page, and pauses while the window is closed
(R429). -/
def flashPageDone (last same : Bool) (s : State) : State :=
  let s0 := startWork s
  match s0.therm.busy with
  | none => s0
  | some w =>
    if last && (s.therm.window || w != .activate) then startWork (workDone w same s0)
    else if s.therm.window then s0
    else onTherm (fun t => { t with busy := none, work := w :: t.work }) s0

def execFlashPageDone (last same : Bool) (s : State) : Res := .next (onlyIf s.power.powered (flashPageDone last same) s)

/-! The therm commands. -/

/-- The temperature of an AIN channel in 0.1 C; 0x8000 without a slope (R421). -/
def ainTemp (s : State) (ch : Nat) : Int :=
  let k := tabGet 0 s.therm.slope ch
  let v := (chanVal s ch).value - tabGet 0 s.therm.zero ch
  if k = 0 then -32768 else meanOf 33 (10 * (if k < 0 then -v else v)) k.natAbs

def waitingCals (s : State) : Nat := (s.therm.work.filter (fun w => workRank w == 3)).length

def dieBytes (s : State) (i : Nat) : List Byte :=
  let d := dieOf s (34 + i)
  intBE 2 (chanVal s (34 + i)).value
    ++ [byteOf (b2n d.warned + 2 * b2n d.paced + 4 * b2n (d.d0Bad != d.d1Bad) + 8 * b2n (d.d0Bad && d.d1Bad)), 0]

/-- therm.status (0x0B80). -/
def thermStatus (_ : Req) (s : State) : Reply :=
  let t := s.therm
  okWith ([byteOf (b2n t.shut + 2 * b2n t.pace + 4 * b2n t.window), byteOf t.shutCh] ++ intBE 2 t.fld
    ++ [byteOf (waitingCals s), byteOf (b2n (t.work.contains .activate) + 2 * b2n (t.work.contains .flush)
        + 4 * b2n (t.work.contains .retirementMap) + 8 * b2n (t.work.contains .reported)), 0, 0]
    ++ (List.range 14).flatMap (dieBytes s)
    ++ (List.range 6).flatMap (fun i => intBE 2 (chanVal s (24 + i)).value)
    ++ (List.range 4).flatMap (fun i => intBE 2 (chanVal s (30 + i)).value)
    ++ (List.range 4).flatMap (fun i => intBE 2 (ainTemp s (60 + i))) ++ zeros 4) s

def execThermStatus (mb : Nat) (s : State) : Res := mailbox (bareShape 0x0B80) thermStatus mb s

/-- therm.sensor (0x0B81). -/
def thermSensor (r : Req) (s : State) : Reply :=
  let ch := r.u 0 1
  let a := r.i 4 4
  let b := r.i 8 4
  if 24 ≤ ch ∧ ch ≤ 29 then
    if a < 1000 ∨ 100000 < a ∨ b < 2000 ∨ 6000 < b then refuse .range s
    else okay (onTherm (fun t => { t with
      r26 := tabSet 10000 t.r26 ch a.toNat, bK := tabSet 3435 t.bK ch b.toNat }) s)
  else if 30 ≤ ch ∧ ch ≤ 33 then
    if b ≠ 0 then refuse .badarg s
    else if a < 10000 ∨ 10500 < a then refuse .range s
    else okay (onTherm (fun t => { t with eta := tabSet 10080 t.eta ch a.toNat }) s)
  else if 60 ≤ ch ∧ ch ≤ 63 then
    if a ≠ 0 ∧ (a.natAbs < 1000 ∨ 100000 < a.natAbs) then refuse .range s
    else okay (onTherm (fun t => { t with slope := tabSet 0 t.slope ch a, zero := tabSet 0 t.zero ch b }) s)
  else refuse .badarg s

def execThermSensor (mb : Nat) (s : State) : Res := mailbox ⟨0x0B81, some 12, [(1, 3)]⟩ thermSensor mb s

/-- therm.warn (0x0B82). -/
def thermWarn (r : Req) (s : State) : Reply :=
  if r.i 0 2 < 1000 ∨ 1400 < r.i 0 2 then refuse .range s
  else okay (onTherm (fun t => { t with warnThr := r.i 0 2 }) s)

def execThermWarnSet (mb : Nat) (s : State) : Res := mailbox ⟨0x0B82, some 4, [(2, 2)]⟩ thermWarn mb s

/-! Calibration (R430 to R434). -/

/-- The limit of an item's offset (R431). -/
def offsetLimit (item obj : Nat) : Nat :=
  match item with
  | 1 => match fullScale obj with | some fs => fs / 100 | none => Config.channelOffsetLimit obj
  | 2 | 3 => 150 | 4 => 100 | 5 | 6 => 20 | 7 => 400 | _ => 200000

/-- The hardware range of an item in its unit, where it has one (R100/03, R116/04). -/
def hardwareRange (item : Nat) : Option Nat :=
  match item with
  | 4 => some 800 | 5 => some 100 | 6 => some 100 | 7 => some 4000 | _ => none

/-- A user value keeps within its item's limits and the hardware range. -/
def calWithin (s : State) (item obj sub slice : Nat) (off gain : Int) : Bool :=
  decide (off.natAbs ≤ offsetLimit item obj) && decide (gain.natAbs ≤ 20000)
    && (match hardwareRange item with
      | some m => decide ((factoryOff s item obj sub slice + off).natAbs ≤ m)
      | none => true)

/-- The slew step of an item in its unit; what is left of 2 fs after the background calibration's move for item 7 (R433). -/
def slewStep (s : State) (item obj sub slice : Nat) : Nat :=
  match item with
  | 2 | 4 => 5 | 3 => 10 | 5 | 6 => 1
  | 7 => 4 - (trimOf (rxPort s obj) (66 * sub + slice)).moved
  | 8 => 100
  | _ => 0

/-- The offset a value moves toward. -/
def calTarget (s : State) (k : Nat) : Int := (userRec s k).off

/-- CAL_SLEW_STEP: one step of one value toward its target. -/
def calSlew (item : Nat) (a : CalAddr) (s : State) : State :=
  let k := calKey item a.obj a.sub a.slice
  let m := slewStep s item a.obj a.sub a.slice
  onCalVal k (fun c => { c with offNow := c.offNow + clampInt (-m) m (calTarget s k - c.offNow) }) s
    |> onlyIf (item == 7) (onRxPort a.obj (fun r => { r with
        trims := tabMod none r.trims (66 * a.sub + a.slice) (·.map (fun t => { t with moved := 0 })) }))

def execCalSlewStep (item : Nat) (a : CalAddr) (s : State) : Res :=
  need "calibrated value" (calAddrOk item a.obj a.sub a.slice) (onlyIf (running s) (calSlew item a) s)

/-- BADARG for an unknown item or object. -/
def onCal (body : Nat → Nat → Nat → Nat → Req → State → Reply) (r : Req) (s : State) : Reply :=
  if calAddrOk (r.u 0 1) (r.u 1 1) (r.u 2 1) (r.u 3 1) then body (r.u 0 1) (r.u 1 1) (r.u 2 1) (r.u 3 1) r s
  else refuse .badarg s

/-- A store write of the value waits or is being programmed. -/
def calWaiting (s : State) (k : Nat) : Bool :=
  (s.therm.busy.toList ++ s.therm.work).any (fun w => match w with | .cal j _ _ _ => j == k | _ => false)

/-- cal.read (0x0C00). -/
def calRead : Req → State → Reply := onCal fun item obj sub slice _ s =>
  let k := calKey item obj sub slice
  let u := userRec s k
  let c := calVal s k
  okWith (intBE 4 (factoryOff s item obj sub slice) ++ intBE 4 (factoryGainOf s item obj sub slice) ++ intBE 4 u.off
    ++ intBE 4 u.gain ++ intBE 4 c.offNow
    ++ [byteOf (b2n c.user.isSome + 2 * b2n (c.offNow != u.off) + 4 * b2n (calWaiting s k)), byteOf u.source, 0, 0]
    ++ natBE 6 u.written ++ [0, 0] ++ intBE 4 u.ref ++ natBE 4 u.acc) s

def execCalRead (mb : Nat) (s : State) : Res := mailbox ⟨0x0C00, some 4, []⟩ calRead mb s

/-- A user record takes effect, and its store write is done now or waits: OK, DEFERRED, or NORES with 64 waiting (R427,
R428, R433). -/
def putCal (k : Nat) (v : Option CalRec) (r : Req) (pay : List Byte) (s : State) : Reply :=
  let s1 := onCalVal k (fun c => { c with user := v }) s
  if flashFree s then ⟨.ok, pay, storeCal k v s1, false⟩
  else if 64 ≤ waitingCals s then refuse .nores s
  else
    let a := defer r k s1
    { a with pay := pay, st := onTherm (fun t => { t with work := t.work ++ [.cal k v r.op r.tag] }) a.st }

/-- cal.write (0x0C01). -/
def calWrite : Req → State → Reply := onCal fun item obj sub slice r s =>
  if item ≠ 1 ∧ r.i 8 4 ≠ 0 then refuse .badarg s
  else if calWithin s item obj sub slice (r.i 4 4) (r.i 8 4) = false then refuse .range s
  else putCal (calKey item obj sub slice) (some ⟨r.i 4 4, r.i 8 4, 1, tcSec (now s), 0, 0⟩) r [] s

def execCalWrite (mb : Nat) (s : State) : Res := mailbox ⟨0x0C01, some 12, []⟩ calWrite mb s

/-- A field of cal.measure is outside its codes. -/
def measureBad (r : Req) : Bool :=
  let o := r.u 1 1
  match r.u 0 1 with
  | 1 => !(o == 58 || (decide (60 ≤ o) && decide (o ≤ 63))) || decide (2 < r.u 2 1) || r.u 12 2 != 0
  | 2 => !okPort o || r.u 2 1 != 0 || r.u 12 2 != 0
  | 3 => decide (3 < o) || r.u 2 1 != 0 || r.i 4 4 != 0 || decide (r.u 12 2 < 10) || decide (1000 < r.u 12 2)
  | _ => true

/-- The calibration step's sync reset is placed as a cue of the own region (R417/14, R370/12). -/
def measureCue (n : Nat) (s : State) : State :=
  match freeOwn s with
  | none => s
  | some i => placeCue i { state := 1, kind := 6, origin := 1, obj := 2 ^ n, time := now s + ticksUs 10 } s

/-- cal.measure (0x0C02). -/
def calMeasure (r : Req) (s : State) : Reply :=
  let kind := r.u 0 1
  let obj := r.u 1 1
  let pt := r.u 2 1
  let hk := housekeepers s
  if measureBad r then refuse .badarg s
  else if (kind ≠ 3 ∧ hk.length < 2) ∨ s.therm.job.isSome ∨ (pt = 2 ∧ s.therm.first.map (·.1) ≠ some obj) then refuse .busy s
  else if (kind = 2 ∧ (rxPort s obj).light = false) ∨ (kind = 3 ∧ candActive s obj = false) then refuse .denied s
  else
    let n := hk.getLastD 0
    let a := defer r 0 s
    { a with st := onTherm (fun t => { t with
        job := some ⟨kind, obj, pt, r.i 4 4, r.u 8 4, r.tag, n, t.stage, t.first⟩
        stage := if pt = 2 then t.stage else none, first := if pt = 2 then t.first else none }) a.st
      |> onlyIf (kind != 3) (measureCue n) }

def execCalMeasure (mb : Nat) (s : State) : Res := mailbox ⟨0x0C02, some 16, [(3, 1), (14, 2)]⟩ calMeasure mb s

/-- The item and object a measurement gives a value for. -/
def measuredItem (j : CalJob) : Nat × Nat := match j.kind with
  | 1 => (1, j.obj)
  | 2 => (2, j.obj)
  | _ => (8, 0)

/-- Offset and gain of the line through two points (R434): corrected = reading x (1 + gain) + offset. -/
def lineOf (d1 r1 d2 r2 : Int) : Int × Int :=
  let g := roundDiv ((d2 - d1 - (r2 - r1)) * 1000000 * (if r2 < r1 then -1 else 1)) (r2 - r1).natAbs
  (roundDiv (d1 * 1000000 - (1000000 + g) * r1) 1000000, g)

/-- What a measurement stages: offset and gain; none where it is a first point (R434). -/
def measuredValue (s : State) (j : CalJob) (reading : Int) : Option (Int × Int) :=
  match j.kind with
  | 1 => match j.point, s.therm.first with
    | 1, _ => none
    | 2, some (_, d, r) => some (if reading = r then (0, 1000000) else lineOf d r j.declared reading)
    | _, _ => some (j.declared - reading, 0)
  | 2 => some (roundDiv (j.declared - reading) 10, 0)
  | _ => some (reading, 0)

/-- A measured value more than 5 % from its declared value (R434); a frequency has no declared value. -/
def farOff (j : CalJob) (reading : Int) : Bool :=
  j.kind != 3 && decide (j.declared.natAbs < 20 * (reading - j.declared).natAbs)

/-- CAL_MEASURE_DONE with the averaged reading: uV, 0.001 dBm or 0.1 ppb. -/
def measureDone (reading : Int) (s : State) : State :=
  match s.therm.job with
  | none => s
  | some j =>
    let it := measuredItem j
    let s1 := onTherm (fun t => { t with job := none }) s
    if farOff j reading then finishDeferred 0x0C02 0 .range s1
    else match measuredValue s j reading with
      | none =>
        onTherm (fun t => { t with first := some (j.obj, j.declared, reading) }) s1 |> finishDeferred 0x0C02 0 .ok
      | some (o, g) =>
        if calWithin s it.1 it.2 0 0 o g then
          onTherm (fun t => { t with first := none, stage := some {
              item := it.1, obj := it.2, off := o, gain := g, reading := reading, source := j.kind + 1
              declared := j.declared, acc := j.acc } }) s1
            |> finishDeferred 0x0C02 0 .ok
        else finishDeferred 0x0C02 0 .range (onTherm (fun t => { t with first := none }) s1)

def execCalMeasureDone (reading : Int) (s : State) : Res := .next (onlyIf (running s) (measureDone reading) s)

def stageBytes (x : CalStage) : List Byte :=
  [byteOf x.item, byteOf x.obj, 0, 0] ++ intBE 4 x.off ++ intBE 4 x.gain ++ intBE 4 x.reading

/-- cal.apply (0x0C03). -/
def calApply (r : Req) (s : State) : Reply :=
  if 1 < r.u 0 1 then refuse .badarg s
  else match s.therm.stage with
    | none => refuse .denied s
    | some x =>
      let s1 := onTherm (fun t => { t with stage := none }) s
      if r.u 0 1 = 0 then okWith (stageBytes x) s1
      else if calWithin s x.item x.obj 0 0 x.off x.gain = false then refuse .range s
      else if !flashFree s && decide (64 ≤ waitingCals s) then refuse .nores s
      else
        let a := putCal (calKey x.item x.obj 0 0) (some ⟨x.off, x.gain, x.source, tcSec (now s), x.declared, x.acc⟩) r
          (stageBytes x) s1
        { a with st := onlyIf (a.code == .deferred) (onTherm (fun t => { t with
            applied := (r.tag, x) :: t.applied.filter (fun e => s.ctrl.deferred.any (fun d => d.op == 0x0C03 && d.tag == e.1)) })) a.st }

def execCalApply (mb : Nat) (s : State) : Res := mailbox ⟨0x0C03, some 4, [(1, 3)]⟩ calApply mb s

/-- cal.clear (0x0C04). -/
def calClear : Req → State → Reply := onCal fun item obj sub slice r s =>
  let k := calKey item obj sub slice
  if (calVal s k).user.isNone then refuse .denied s else putCal k none r [] s

def execCalClear (mb : Nat) (s : State) : Res := mailbox ⟨0x0C04, some 4, []⟩ calClear mb s

end Sys2Proof.Machine
end

