-- ==== Sys2Proof/Machine/Inject.lean ====
section
/-! DEFINITION. Retirement of units, cue-core traps, the fault commands but fault.inject, and the rushes log
(16_faults_and_rushes.md). -/

namespace Sys2Proof.Machine

/-! Pair lanes and die-to-die lanes (R13/01, R435). -/

/-- PAIR_LANE_RETIRE: the lane leaves every state machine, the link is down, the stand-in leaves step. -/
def pairLaneRetire (l : Nat) (s : State) : State :=
  retired 7 l s |> leaveStep |> pairDown |> onLaneOf (96 + l) (fun x => { x with st := .retired })

def execPairLaneRetire (l : Nat) (s : State) : Res :=
  need "pair lane" (okPairLane l) (onlyIf (nextRetirement s 7 == some l) (pairLaneRetire l) s)

/-- D2D_LANE_FAULT: one fault; the lane is retrained within 1 us. -/
def execD2dLaneFault (i : Nat) (s : State) : Res :=
  need "die-to-die lane" (okD2d i) (onlyIf s.power.powered (fun s => retryDone 8 i (unitFault 8 i s)) s)

/-- D2D_LANE_RETIRE: a spare of the link's direction replaces the lane; with none left, the link's two ports go dark
(R13). -/
def d2dRetire (i : Nat) (s : State) : State :=
  let k := i / 128
  let used := tabGet 0 s.flt.d2dSpare k
  let s1 := retired 8 i s
  if used < 2 then onFlt (fun f => { f with d2dSpare := tabSet 0 f.d2dSpare k (used + 1) }) s1
  else forAll (fun p s => closeRx p (closeTx p s)) [2 * (i / 256), 2 * (i / 256) + 1] s1

def execD2dLaneRetire (i : Nat) (s : State) : Res :=
  need "die-to-die lane" (okD2d i) (onlyIf (nextRetirement s 8 == some i) (d2dRetire i) s)

/-! Subcarriers out of service (R438). -/

/-- Slots of a subcarrier a tributary owns in a direction: 0 transmit, 1 receive. -/
def slotsOn (s : State) (d sc t : Nat) : Nat :=
  ((List.range 40).filter (fun k =>
    let o := slotOwner s (40 * sc + k)
    (if d = 0 then o.tx else o.rx) == t)).length

/-- Unassigned slots of a direction on the other lit subcarriers of the port, lowest first. -/
def spareSlots (s : State) (d sc : Nat) : List Nat :=
  ((portScs (scPort sc)).filter (fun x => x != sc && (if d = 0 then txLit s x else rxLit s x))).flatMap (fun x =>
    ((List.range 40).map (40 * x + ·)).filter (fun k =>
      let o := slotOwner s k
      if d = 0 then o.tx == 0xFFF && o.stTx == 0xFFF else o.rx == 0xFFF && o.stRx == 0xFFF))

/-- Stage `n` slots for a tributary; none where too few are free. Answers whether it was given them. -/
def stageSlots (d sc t n : Nat) (s : State) : Bool × State :=
  let free := spareSlots s d sc
  if free.length < n then (false, s)
  else (true, forAll (fun k => onSlotOwner k (fun o =>
    if d = 0 then { o with stTx := t } else { o with stRx := t })) (free.take n) s)

/-- Stage what every tributary lost, ascending, transmit before receive: whether any was staged, whether any fell short. -/
def stageLost (sc : Nat) : List (Nat × Nat × Nat) → Bool × Bool → State → (Bool × Bool) × State
  | [], r, s => (r, s)
  | (t, d, n) :: l, (got, short), s =>
    let x := stageSlots d sc t n s
    stageLost sc l (got || x.1, short || !x.1) x.2

/-- What each tributary loses with a subcarrier. -/
def losses (s : State) (sc : Nat) : List (Nat × Nat × Nat) :=
  ((tribKeys s).foldr including []).flatMap (fun t =>
    [0, 1].filterMap (fun d => if slotsOn s d sc t = 0 then none else some (t, d, slotsOn s d sc t)))

/-- The fill's commit: at the first common boundary at least 2.0 ms ahead, or after a pending commit nearer than that. -/
def commitFill (s : State) : State :=
  match s.svc.commit with
  | some (b, _) =>
    if commitNear s then onSvc (fun v => { v with fillAt := some (boundaryAfter (b + ticksMs 2)) }) s
    else (placeCommit (earliestBoundary s) 0 1 s).getD s
  | none => (placeCommit (earliestBoundary s) 0 1 s).getD s

/-- The remap of a retired subcarrier: 0 none, 1 fill committed, 2 fill short for some tributary. -/
def fillSlots (sc : Nat) (ls : List (Nat × Nat × Nat)) (s : State) : Nat × State :=
  if (policyOf s 9).fill && decides s && ls != [] then
    let r := stageLost sc ls (false, false) s
    (if r.1.2 then 2 else 1, if r.1.1 then commitFill r.2 else r.2)
  else (0, s)

/-- SUBCARRIER_RETIRE: dark in both directions, its slots removed at once, the fill policy applied. -/
def subcarrierRetire (sc : Nat) (s : State) : State :=
  let ls := losses s sc
  let s1 := retired 9 sc s
    |> stopSc true sc |> rehunt sc
    |> onRxSc sc (fun x => { x with oos := true })
    |> removeSlots [sc]
  let r := fillSlots sc ls s1
  raise 0x0D04 15 sc 0 [byteOf r.1] r.2

def execSubcarrierRetire (sc : Nat) (s : State) : Res :=
  need "subcarrier" (okSc sc) (onlyIf (nextRetirement s 9 == some sc) (subcarrierRetire sc) s)

/-! Cue cores (R437, R440). -/

def isCoreRetired (s : State) (c : Nat) : Bool := (coreOf s c).st == .retired

/-- The cores that are not retired. -/
def workingCores (s : State) : List Nat := (List.range 4).filter (fun c => !isCoreRetired s c)

/-- A warm restart is to start (R80/02). -/
def callWarm : State → State := onFw (fun f => { f with warmDue := true })

/-- CUE_CORE_RETIRE: the tasks move to the others; the last working core restarts the firmware instead (R437). -/
def coreRetire (c : Nat) (s : State) : State :=
  if workingCores s = [c] then callWarm (notRetired 10 c s)
  else onCoreOf c (fun x => { x with st := .retired }) (retired 10 c s)

def execCueCoreRetire (c : Nat) (s : State) : Res :=
  need "core" (okCore c) (onlyIf (nextRetirement s 10 == some c) (coreRetire c) s)

/-- The context bytes of a trap record (R445). -/
def trapContext (c cause pc addr task : Nat) : List Byte :=
  [byteOf c, byteOf cause, 0, 0] ++ natBE 4 pc ++ natBE 4 addr ++ natBE 4 task

/-- A trap: its record, CORE_TRAP, one fault of the core, which waits for its restart (R440). -/
def coreTrap (c cause pc addr task : Nat) (s : State) : State :=
  record (logEntryOf s 0x0DF1 0xFF 0 s.ev.seq 0 0 (zeros 8) (trapContext c cause pc addr task)) s
    |> raise 0x0D02 15 0 0 ([byteOf c, byteOf cause, 0, 0] ++ natBE 4 pc)
    |> unitFault 10 c
    |> onCoreOf c (fun x => { x with st := .trapped cause })
    |> coreEvent c 0x87

/-- A core that executes: the firmware runs and the core is neither trapped nor retired. -/
def coreRuns (s : State) (c : Nat) : Bool := running s && (coreOf s c).st == .running

/-- Every working core is in watchdog trap. -/
def allInWatchdog (s : State) : Bool := (workingCores s).all (fun c => (coreOf s c).st == .trapped 3)

/-- WATCHDOG_EXPIRY: cause 3, freeze 3; a warm restart where every working core is in watchdog trap. -/
def watchdogTrap (c pc task : Nat) (s : State) : State :=
  let s1 := coreTrap c 3 pc 0 task s |> freezeLog 3 |> onInjOf 0x1A1 (fun i => if i.arg = c then { i with running := false } else i)
  onlyIf (allInWatchdog s1) callWarm s1

def execWatchdogExpiry (c pc task : Nat) (s : State) : Res :=
  need "core" (okCore c) (onlyIf (coreRuns s c) (watchdogTrap c pc task) s)

/-- ILLEGAL_INSTRUCTION: cause 4, without a freeze. -/
def execIllegalInstruction (c pc task : Nat) (s : State) : Res :=
  need "core" (okCore c) (onlyIf (coreRuns s c) (coreTrap c 4 pc 0 task) s)

/-- CORE_FETCH_UE: an uncorrectable word of instruction SRAM, reloaded from the running image, or of data SRAM, which needs a
warm restart; freeze 4 (R337/11, R440). -/
def coreFetchUe (c : Nat) (data : Bool) (pc addr task : Nat) (s : State) : State :=
  let g := if data then 70 else 69
  onlyIf (!data && injFor s 0x1A0 c) (injAct 0x1A0) s
    |> uncorrectableWord 1 (onChipBase * g + addr % onChipBase)
    |> coreTrap c (if data then 2 else 1) pc addr task
    |> freezeLog 4
    |> onlyIf data callWarm

def execCoreFetchUe (c : Nat) (data : Bool) (pc addr task : Nat) (s : State) : Res :=
  need "core" (okCore c) (onlyIf (coreRuns s c) (coreFetchUe c data pc addr task) s)

/-- CORE_RESTART_DONE: a trapped core resumes its tasks. -/
def coreRestart (c : Nat) (s : State) : State :=
  match (coreOf s c).st with
  | .trapped _ => retryDone 10 c (onCoreOf c (fun x => { x with st := .running }) s)
  | _ => s

def execCoreRestartDone (c : Nat) (s : State) : Res := need "core" (okCore c) (coreRestart c s)

/-! Log entries (R445). -/

/-- The 60 bytes ahead of an entry's CRC, without the damaged flag. -/
def entryBody (e : LogEntry) : List Byte :=
  natBE 2 e.code ++ [byteOf e.vector, byteOf e.flags] ++ natBE 4 e.seq ++ tcBytes12 e.tc ++ natBE 2 e.src ++ natBE 2 e.tag
    ++ padTo 8 e.data ++ padTo 16 e.ctx ++ natBE 4 e.secs ++ natBE 2 e.rail ++ intBE 2 e.temp ++ intBE 2 (marginField e.margin)
    ++ natBE 2 e.vin

/-- The 64 bytes of an entry as read: bit 7 of byte 3 shows damage. -/
def logBytes (e : LogEntry) : List Byte :=
  let b := entryBody e ++ natBE 4 (crc32 (entryBody e))
  if e.bad then overlay 3 [byteOf (128 + e.flags)] b else b

/-- The word that this copy of an entry lies in, or was read from, is uncorrectable. -/
def entryLost (e : LogEntry) : Bool := e.word == .uncorrectable || e.word == .poisoned

/-- LOG_COPY: the oldest entry not yet copied goes to the continuous log; losses since the last report raise LOG_COPY_LOST.
Point 0x1A2 on channel 2 makes its read uncorrectable (R441, R445). -/
def logCopy (s : State) : State :=
  if s.log.uncopied = 0 ∨ s.flt.dma.contains 2 then s
  else if injFor s 0x1A2 2 then haltDma 2 (injAct 0x1A2 s)
  else
    let lost := s.log.lostSince
    match s.log.ring[s.log.uncopied - 1]? with
    | none => s
    | some e =>
      onLog (fun l => { l with
          cont := (e :: l.cont).take 1032192, contN := l.contN + 1, uncopied := l.uncopied - 1, lostSince := 0 }) s
        |> onlyIf (decide (0 < lost)) (raise 0x0D82 15 0 0 (natBE 4 lost))

def execLogCopy (s : State) : Res := .next (onlyIf s.power.powered logCopy s)

/-! The fault commands. -/

def okType (t : Nat) : Bool := decide (1 ≤ t) && decide (t ≤ 10)

/-- The unit type has such an index (R435). -/
def unitOk (typ i : Nat) : Bool :=
  match typ with
  | 1 => decide (i < 1584) | 2 => decide (i < 108) | 3 => okPort i | 4 => decide (i < 26) | 5 => okSand i
  | 6 => okLane i | 7 => okPairLane i | 8 => okD2d i | 9 => okSc i | 10 => okCore i | _ => false

/-- fault.policy (0x0D00). -/
def faultPolicy (r : Req) (s : State) : Reply :=
  let t := r.u 0 1
  if okType t = false ∨ 1 < r.u 8 1 ∨ (r.u 8 1 ≠ 0 ∧ t ≠ 9) then refuse .badarg s
  else if r.u 1 1 < 1 ∨ r.u 4 4 < 1 ∨ 86400 < r.u 4 4 then refuse .range s
  else okay (onPolicyOf t (fun _ => { count := r.u 1 1, window := r.u 4 4, fill := r.u 8 1 == 1 }) s)

def execFaultPolicy (mb : Nat) (s : State) : Res := mailbox ⟨0x0D00, some 12, [(2, 2), (9, 3)]⟩ faultPolicy mb s

/-- The unit does work now: a slice holds a phase, an engine a slot, a lane is active, a subcarrier lit. -/
def unitInUse (s : State) (typ i : Nat) : Bool :=
  match typ with
  | 1 => (List.range 64).any (fun ph => phaseSlice (rxPort s (i / 264)) (i % 264 / 66) ph == i % 66)
  | 2 => (fecPort s (i / 18)).engines.contains (i % 18)
  | 4 => (cipherLanes s (i / 13)).active.contains (i % 13)
  | 6 => (laneOf s i).st != .disabled
  | 7 => s.pair.linkEn
  | 9 => txLit s i || rxLit s i
  | _ => true

def unitState (s : State) (typ i : Nat) : Nat :=
  let u := unitRec s (unitKey typ i)
  if u.retired then 2 else if u.retrying then 1 else if unitInUse s typ i then 0 else 3

/-- Faults of a unit in the present window. -/
def faultsInWindowOf (s : State) (typ i : Nat) : Nat := (windowTimes s typ i).length - 1

/-- fault.status (0x0D01). -/
def faultStatus (r : Req) (s : State) : Reply :=
  let t := r.u 0 1
  let i := r.u 2 2
  let u := unitRec s (unitKey t i)
  if unitOk t i = false then refuse .badarg s
  else okWith ([byteOf (unitState s t i), byteOf (min 255 (faultsInWindowOf s t i)), byteOf ((sparesOf s t i).getD 0xFF), 0]
    ++ natBE 4 u.total ++ tcBytes12 u.last) s

def execFaultStatus (mb : Nat) (s : State) : Res := mailbox ⟨0x0D01, some 4, [(1, 1)]⟩ faultStatus mb s

/-- fault.clear (0x0D02): window counts are cleared. -/
def faultClear (r : Req) (s : State) : Reply :=
  let t := r.u 0 1
  if okType t = false ∧ t ≠ 0xFF then refuse .badarg s
  else okay (onFlt (fun f => { f with
    unit := f.unit.map (fun e => if t = 0xFF ∨ e.1 / 65536 = t then (e.1, { e.2 with times := [] }) else e) }) s)

def execFaultClear (mb : Nat) (s : State) : Res := mailbox ⟨0x0D02, some 4, [(1, 3)]⟩ faultClear mb s

/-- fault.injstatus (0x0D04). -/
def faultInjstatus (r : Req) (s : State) : Reply :=
  let pt := r.u 0 2
  if pointExists pt = false then refuse .badarg s
  else okWith ([b2w (injOf s pt).armed, 0, 0, 0] ++ natBE 4 (injOf s pt).arg ++ natBE 8 (injOf s pt).acted) s

def execFaultInjstatus (mb : Nat) (s : State) : Res := mailbox ⟨0x0D04, some 4, [(2, 2)]⟩ faultInjstatus mb s

/-- fault.testpattern (0x0D05): taken as part of a map commit (R444). -/
def faultTestpattern (r : Req) (s : State) : Reply :=
  let t := r.u 0 2
  let m := r.u 2 1
  if 3839 < t then refuse .badarg s
  else match wantedBoundary 4 r s with
    | none => refuse .range s
    | some b =>
      if commitNear s || stagedBreaks s || (bitOf m 0 && (txSlots s t).isEmpty) || (bitOf m 1 && (rxSlots s t).isEmpty) then
        refuse .denied s
      else match placeCommit b r.tag 0 s with
        | none => refuse .nores s
        | some s1 => okWith (tcBytes10 b ++ [0, 0]) (onTribOf t (fun x => { x with testNext := some (bitOf m 0, bitOf m 1) }) s1)

def execFaultTestpattern (mb : Nat) (s : State) : Res := mailbox ⟨0x0D05, some 16, [(3, 1), (14, 2)]⟩ faultTestpattern mb s

/-- fault.teststatus (0x0D06). -/
def faultTeststatus (r : Req) (s : State) : Reply :=
  let x := tribOf s (r.u 0 2)
  if 3839 < r.u 0 2 then refuse .badarg s
  else okWith ([byteOf (b2n x.testSend + 2 * b2n x.testCheck + 4 * b2n x.inSync), 0, 0, 0] ++ natBE 8 x.bits
    ++ natBE 8 x.bitErrs ++ natBE 4 x.syncLoss) s

def execFaultTeststatus (mb : Nat) (s : State) : Res := mailbox ⟨0x0D06, some 4, [(2, 2)]⟩ faultTeststatus mb s

/-- fault.dmarestart (0x0D07). -/
def faultDmarestart (r : Req) (s : State) : Reply :=
  let c := r.u 0 1
  if c ≠ 1 ∧ c ≠ 2 then refuse .badarg s
  else if s.flt.dma.contains c then okay (onFlt (fun f => { f with dma := without c f.dma }) s)
  else refuse .denied s

def execFaultDmarestart (mb : Nat) (s : State) : Res := mailbox ⟨0x0D07, some 4, [(1, 3)]⟩ faultDmarestart mb s

/-! The log commands (R446 to R451). -/

def slotLog (s : State) (k : Nat) : List LogEntry × Nat := tabGet ([], 0) s.log.slots k

def slotMarker (s : State) (k : Nat) : Nat :=
  if (slotLog s k).2 = 0 then max32 else match (slotLog s k).1 with | e :: _ => e.seq | [] => max32

/-- log.status (0x0D80). -/
def logStatus (_ : Req) (s : State) : Reply :=
  let l := s.log
  okWith ([byteOf (b2n l.frozen + 2 * b2n l.flushDue + 4 * b2n l.found), byteOf l.cause, 0, 0]
    ++ natBE 4 ((l.ring.getLast?).map (·.seq) |>.getD 0) ++ natBE 4 ((l.ring.head?).map (·.seq) |>.getD 0)
    ++ natBE 4 l.lostN ++ natBE 4 l.whileFrozen ++ natBE 4 l.snapsLost ++ natBE 4 (l.contN % 1032192)
    ++ (List.range 4).flatMap (fun k => natBE 4 (slotMarker s k))
    ++ [byteOf (b2n (l.numA != 0) + 2 * b2n (l.numB != 0) + 4 * b2n (l.numA == 0) + 8 * b2n (l.numB == 0)), 0, 0, 0]) s

def execLogStatus (mb : Nat) (s : State) : Res := mailbox (bareShape 0x0D80) logStatus mb s

/-- The entries of a source of log.read, newest first. -/
def logSource (s : State) (src : Nat) : List LogEntry :=
  let l := s.log
  match src with
  | 0 => l.ring | 1 => l.cont | 2 => l.snap
  | 3 | 4 | 5 | 6 => (slotLog s (src - 3)).1
  | 7 => l.areaA | 8 => l.areaB | _ => []

/-- The bulk addresses of entries `i`, 0 the oldest, of a source that bulk memory holds: the continuous log or the snapshot
(R446). -/
def logAddrs (s : State) (src : Nat) (is : List Nat) : List Nat :=
  match src with
  | 1 => is.map (fun i => logBase + 0x00100000 + 64 * ((s.log.contN - s.log.cont.length + i) % contPlaces))
  | 2 => is.map (fun i => logBase + 64 * i)
  | _ => []

/-- log.read (0x0D81): an entry whose word is uncorrectable reads with its damaged flag set (R337/11, code 8); point 0x1E1 inverts the CRC of the next entry read from its source. -/
def logRead (r : Req) (s : State) : Reply :=
  let src := r.u 0 1
  let want := r.u 1 1
  let i := r.u 4 4
  let es := logSource s src
  if 8 < src ∨ want < 1 ∨ 3 < want then refuse .badarg s
  else if es.length < i then refuse .range s
  else
    let is := (List.range' i want).filter (· < es.length)
    let reads := readWords 8 (logAddrs s src is) s
    let got := (List.range is.length).filterMap (fun k =>
      (oldest es (i + k)).map (fun e => { e with bad := e.bad || entryLost e || reads.1.getD k false }))
    let inj := injFor s 0x1E1 src && got != []
    let shown := match got with
      | e :: l => { e with bad := e.bad || inj } :: l
      | [] => []
    okWith ([byteOf got.length, 0, 0, 0] ++ natBE 4 (i + got.length) ++ shown.flatMap logBytes) (onlyIf inj (injAct 0x1E1) reads.2)

def execLogRead (mb : Nat) (s : State) : Res := mailbox ⟨0x0D81, some 8, [(2, 2)]⟩ logRead mb s

/-- log.freeze (0x0D82). -/
def logFreeze (_ : Req) (s : State) : Reply := if s.log.frozen then refuse .denied s else okay (freezeLog 6 s)

def execLogFreeze (mb : Nat) (s : State) : Res := mailbox (bareShape 0x0D82) logFreeze mb s

/-- log.rearm (0x0D83). -/
def logRearm (_ : Req) (s : State) : Reply :=
  if s.log.frozen then okay (onLog (fun l => { l with frozen := false, cause := 0 }) s) else refuse .denied s

def execLogRearm (mb : Nat) (s : State) : Res := mailbox (bareShape 0x0D83) logRearm mb s

/-- log.erase (0x0D84). -/
def logErase (r : Req) (s : State) : Reply :=
  let m := r.u 0 1
  if m = 0 ∨ 63 < m ∨ r.u 2 2 ≠ 0xA55A then refuse .badarg s
  else if flashFree s then okay (eraseLog m s)
  else
    let a := defer r m s
    { a with st := onTherm (fun t => { t with work := t.work ++ [.erase m r.op r.tag] }) a.st }

def execLogErase (mb : Nat) (s : State) : Res := mailbox ⟨0x0D84, some 4, [(1, 1)]⟩ logErase mb s

end Sys2Proof.Machine
end

