-- ==== Sys2Proof/Machine/Pace.lean ====
section
/-! DEFINITION. Slot accounting, performance counters and the tracer (17_pace_and_counters.md). -/

namespace Sys2Proof.Machine

/-! Slot classes (R453, R454). -/

/-- The class of a sample: 0 retired, 1 wasted, 2 starved-front, 3 starved-back; the first of R453's table that applies. -/
def slotClass (o : SlotObs) : Nat := if o.held then 3 else if o.waste then 1 else if o.busy then 0 else 2

/-- One more slot of class `k`, in counters of 64 bits that never saturate (R455). -/
def countSlot (k : Nat) (l : List Nat) : List Nat := l.set k ((l.getD k 0 + 1) % 2 ^ 64)

/-- A nanosecond of a unit with its margin below 12 % or below 3 % (events 0x02 and 0x03). -/
def marginSample (u : Nat) (s : State) : State :=
  match exactMargin s u with
  | none => s
  | some m => onlyIf (marginBelow m 120) (paceEvent u 0x02 1) s |> onlyIf (marginBelow m 30) (paceEvent u 0x03 1)

/-- A sample of a pace unit; one whose required rate is zero is not sampled (R453). -/
def paceSample (u : Nat) (o : SlotObs) (s : State) : State :=
  onlyIf (decide (requiredUnits s u ≠ 0)) (fun s =>
    onPaceUnit u (fun x => { x with slots := countSlot (slotClass o) x.slots }) (marginSample u s)) s

/-- An issue slot of a cue core; two of them make an issue handshake (R454). -/
def coreSlot (c : Nat) (o : SlotObs) (s : State) : State :=
  let even := (coreOf s c).slots.sum % 2 == 1
  onCoreOf c (fun x => { x with slots := countSlot (slotClass o) x.slots }) s
    |> onlyIf (slotClass o == 0) (coreEvent c 0x81) |> onlyIf even (coreEvent c 0x80)

/-- PACE_SAMPLE: a pace unit, or a cue core that executes. -/
def execPaceSample (dom : Bool) (i : Nat) (o : SlotObs) (s : State) : Res :=
  if dom then need "core" (okCore i) (onlyIf (coreRuns s i) (coreSlot i o) s)
  else need "pace unit" (okUnit i) (paceSample i o s)

/-! Counters (R455). -/

/-- The units that end at a stream FIFO (R17/01, R455). -/
def hasStreamFifo (u : Nat) : Bool := if u < 36 then u % 6 == 0 || u % 6 == 5 else u == 36 || u == 43

def knownEvents : List Nat :=
  [0x00, 0x01, 0x02, 0x03, 0x04, 0x05, 0x10, 0x11, 0x12, 0x20, 0x21, 0x22, 0x23, 0x24,
    0x80, 0x81, 0x82, 0x83, 0x84, 0x85, 0x86, 0x87]

/-- The event is defined for the pace unit (R455). -/
def paceDefines (u ev : Nat) : Bool :=
  decide (ev < 4)
    || ((ev == 4 || ev == 5) && hasStreamFifo u)
    || (decide (0x10 ≤ ev) && decide (ev ≤ 0x12) && decide (u < 36) && u % 6 == 2)
    || (ev == 0x20 && u == 37) || (ev == 0x21 && u == 38) || (ev == 0x22 && (u == 39 || u == 40))
    || ((ev == 0x23 || ev == 0x24) && u == 44)

def coreDefines (ev : Nat) : Bool := ev == 0 || (decide (0x80 ≤ ev) && decide (ev < 0x88))

/-- A unit whose tokens the commands of the model carry one by one: decoders, framers, label lookup, admission and counting. -/
def tokensCarried (u : Nat) : Bool := (decide (u < 36) && (u % 6 == 2 || u % 6 == 3 || u % 6 == 4)) || u == 37 || u == 38

/-- An event that the commands of the model carry one by one; the count of any other is a free value
(notes/assumptions/17.md). -/
def eventCarried (dom i ev : Nat) : Bool :=
  if dom = 0 then ev == 0 || (ev == 1 && tokensCarried i) || (decide (2 ≤ ev) && ev != 5 && decide (ev < 0x23))
  else ev == 0 || ev == 0x80 || ev == 0x81 || ev == 0x87

/-- perf.select (0x0E00). -/
def perfSelect (r : Req) (s : State) : Reply :=
  let dom := r.u 0 1
  let i := r.u 1 1
  let k := r.u 2 1
  let ev := r.u 3 1
  if 1 < dom ∨ (if dom = 0 then 48 else 4) ≤ i ∨ (if dom = 0 then 4 else 8) ≤ k ∨ !knownEvents.contains ev then
    refuse .badarg s
  else if !(if dom = 0 then paceDefines i ev else coreDefines ev) then refuse .range s
  else if dom = 0 then
    okay (onPaceUnit i (fun x => { x with evn := tabSet 0 x.evn k ev, ctr := tabSet 0 x.ctr k 0 }) s)
  else okay (onCoreOf i (fun x => { x with evn := tabSet 0 x.evn k ev, ctr := tabSet 0 x.ctr k 0 }) s)

def execPerfSelect (mb : Nat) (s : State) : Res := mailbox ⟨0x0E00, some 8, [(4, 4)]⟩ perfSelect mb s

/-- The counters of a unit or core as latched: those the model counts, the others free. -/
def latched (dom i : Nat) (ctr evn : Tab Nat) (free : List Nat) : List Nat :=
  (List.range 8).map (fun k =>
    if eventCarried dom i (tabGet 0 evn k) then tabGet 0 ctr k else free.getD k 0 % 2 ^ 64)

/-- The fixed counter: tokens passed, or timecode nanoseconds since reset. -/
def fixedCounter (s : State) (dom i : Nat) : Nat :=
  if dom = 0 then (if tokensCarried i then (paceUnit s i).tokens else freeNat s % 2 ^ 64)
  else upTime s / 65536 % 2 ^ 64

/-- perf.read (0x0E01): every counter of one unit or core at one timecode instant. -/
def perfRead (r : Req) (s : State) : Reply :=
  let dom := r.u 0 1
  let i := r.u 1 1
  if 1 < dom ∨ (if dom = 0 then 48 else 4) ≤ i then refuse .badarg s
  else
    let ctr := if dom = 0 then (paceUnit s i).ctr else (coreOf s i).ctr
    let evn := if dom = 0 then (paceUnit s i).evn else (coreOf s i).evn
    let slots := if dom = 0 then (paceUnit s i).slots else (coreOf s i).slots
    let vals := latched dom i ctr evn ((freeList 9 s).drop 1)
    okWith (tcBytes12 (now s) ++ zeros 4 ++ natBE 8 (fixedCounter s dom i)
      ++ (List.range 4).flatMap (fun k => natBE 8 (slots.getD k 0))
      ++ (List.range 8).flatMap (fun k => natBE 8 (if dom = 0 ∧ 4 ≤ k then 0 else vals.getD k 0))
      ++ (List.range 8).map (fun k => byteOf (tabGet 0 evn k))
      ++ natBE 4 (if dom = 0 then requiredRate s i else 0)
      ++ intBE 2 (if dom = 0 then marginField ((margin s i).getD (Config.noMargin i)) else 0) ++ zeros 2) (useFrees 9 s)

def execPerfRead (mb : Nat) (s : State) : Res := mailbox ⟨0x0E01, some 4, [(2, 2)]⟩ perfRead mb s

/-! Tracer windows (R456, R457). -/

/-- TRACER_WINDOW. -/
def raiseWindow (isOpen : Bool) : State → State := raise 0x0E01 27 0 0 [b2w isOpen]

/-- perf.tracer ends what runs: the open window closes, pending window cues are cancelled. -/
def endTracing (s : State) : State :=
  let t := s.tracer
  onlyIf t.isOpen (raiseWindow false) s
    |> onlyIf t.openCue.isSome (clearCue (t.openCue.getD 0))
    |> onlyIf t.closeCue.isSome (clearCue (t.closeCue.getD 0))
    |> onTracer (fun t => { t with
        kind := 0, isOpen := false, openCue := none, closeCue := none, lfsr := 0, advanced := 0 })

/-- A window cue in the lowest free entry of the shared region. -/
def placeWindowCue (time tag : Nat) (s : State) : Option (Nat × State) :=
  (freeShared s).map (fun i => (i, placeCue i { state := 1, kind := 8, time := time, tag := tag } s))

/-- Place the cues of a window of `len` ms; one that stays open has no closing cue (R457). -/
def placeWindow (start len tag : Nat) (s : State) : Option State :=
  match placeWindowCue start tag s with
  | none => none
  | some (i, s1) =>
    if len = 0 then some (onTracer (fun t => { t with openCue := some i }) s1)
    else (placeWindowCue (start + ticksMs len) tag s1).map (fun x =>
      onTracer (fun t => { t with openCue := some i, closeCue := some x.1 }) x.2)

/-- perf.tracer (0x0E02). Kind 0 uses no other field, but a nanoseconds field of 10^9 or more is RANGE in every command (R491). -/
def perfTracer (r : Req) (s : State) : Reply :=
  let kind := r.u 0 1
  let k := r.u 1 1
  if 4 < kind ∨ (kind ≠ 0 ∧ r.u 4 4 = 0) then refuse .badarg s
  else match readTime10 8 r.pay with
    | none => refuse .range s
    | some start =>
      if kind = 0 then
        if s.tracer.kind = 0 then okSame s else okay (endTracing s)
      else if k < 10 ∨ 30 < k ∨ start < now s + ticksUs 10 then refuse .range s
      else match placeWindow start (r.u 18 4) r.tag (endTracing s) with
        | none => refuse .nores s
        | some s1 => okay (onTracer (fun t => { t with kind := kind, k := k, filter := r.u 2 2, seed := r.u 4 4 }) s1)

def execPerfTracer (mb : Nat) (s : State) : Res := mailbox ⟨0x0E02, some 24, [(22, 2)]⟩ perfTracer mb s

/-- A window opens with the LFSR at the seed, or closes. -/
def windowCue (i : Nat) (s : State) : State :=
  if s.tracer.openCue = some i then
    onTracer (fun t => { t with isOpen := true, openCue := none, lfsr := t.seed, advanced := 0 }) s |> raiseWindow true
  else if s.tracer.closeCue = some i then
    onTracer (fun t => { t with isOpen := false, closeCue := none }) s |> raiseWindow false
  else s

/-- TRACER_WINDOW_CUE: its boundary is the cue time itself (R35/01). -/
def execTracerWindowCue (i at_ : Nat) (s : State) : Res :=
  need "cue" (okCue i)
    (onlyIf (running s && cueDue s i 8 at_ && firstDue s i at_ (fun _ => true))
      (fun s => windowCue i (cueDone i at_ (cueAt s i).time (clockTo at_ s))) s)

/-! Records (R456, R458, R459). -/

/-- One advance of the LFSR of x^32 + x^22 + x^2 + x + 1: each new bit is the sum of the bits 32, 22, 2 and 1 places before
it, and enters at bit 0. -/
def lfsrStep (x : Nat) : Nat :=
  (2 * x + b2n ((bitOf x 31 != bitOf x 21) != (bitOf x 1 != bitOf x 0))) % 2 ^ 32

/-- The low k bits are zero: the unit is tagged. -/
def isTagged (t : Tracer) (x : Nat) : Bool := x % 2 ^ t.k == 0

/-- Bytes 0 to 61 of a record. -/
def recordBody (t : Tracer) (r : TracerObs) (phase : Bool) : List Byte :=
  let st := some 0 :: r.stages.take 6
  [byteOf (128 * b2n phase + t.kind), byteOf (listMask ((List.range 7).filter (fun k => (st.getD k none).isSome)))]
    ++ natBE 2 r.object ++ natBE 4 t.seq ++ tcBytes12 r.tc0
    ++ (List.range 6).flatMap (fun k => natBE 4 ((r.stages.getD k none).getD max32))
    ++ natBE 4 t.advanced ++ natBE 4 r.label ++ natBE 2 r.trib ++ natBE 2 r.len ++ [byteOf r.outcome] ++ zeros 5

/-- The 64-byte record, with the CRC-16 of R224. -/
def recordBytes (t : Tracer) (r : TracerObs) (phase : Bool) : List Byte :=
  recordBody t r phase ++ natBE 2 (crc16 (recordBody t r phase))

def deliverySize (t : Tracer) : Nat := if t.delivery = 2 then 2 ^ t.n else 65536

/-- Write a record at the next index; the phase changes at each pass of the host ring (R64, R459). -/
def writeRecord (r : TracerObs) (t : Tracer) : Tracer :=
  let nx := (t.next + 1) % deliverySize t
  { t with
    buffer := tabSet [] t.buffer t.next (recordBytes t r (t.delivery == 2 && t.phase))
    next := nx
    phase := if t.delivery = 2 ∧ nx = 0 then !t.phase else t.phase
    full := t.delivery == 1 && (t.full || nx == 0)
    written := satAdd max64 t.written 1 }

/-- A record that bulk memory does not take: counted, TRACER_DROPPED at most once per second (R459). -/
def dropRecord (s : State) : State :=
  let t := s.tracer
  let due := match t.dropAt with | none => true | some a => decide (a + ticksSec 1 ≤ upTime s)
  onTracer (fun t => { t with
      dropped := satAdd max64 t.dropped 1, dropSince := if due then 0 else t.dropSince + 1
      dropAt := if due then some (upTime s) else t.dropAt }) s
    |> onlyIf due (raise 0x0E02 27 0 0 (natBE 4 (min max32 (t.dropSince + 1))))

/-- Deliver a record: wrap, stop or DMA by channel 1 (R459). -/
def deliverRecord (r : TracerObs) (s : State) : State :=
  let t := s.tracer
  if r.refused then dropRecord s
  else if t.delivery = 1 then
    if t.full then onTracer (fun t => { t with dropped := satAdd max64 t.dropped 1 }) s
    else
      let s1 := onTracer (writeRecord r) s
      onlyIf s1.tracer.full (raise 0x0E00 27 0 0 []) s1
  else if t.delivery = 2 ∧ injFor s 0x1A2 1 then haltDma 1 (injAct 0x1A2 s)
  else if t.delivery = 2 ∧ s.flt.dma.contains 1 then onTracer (fun t => { t with dropped := satAdd max64 t.dropped 1 }) s
  else onTracer (writeRecord r) s

/-- A tagged unit's record: counted as suspended under thermal pace protection, not kept where the filter names another
object; it takes a sequence number in each case (R457, R458). -/
def tagRecord (r : TracerObs) (s : State) : State :=
  let t := s.tracer
  (if s.therm.pace then onTracer (fun t => { t with suspendedN := satAdd max64 t.suspendedN 1 }) s
   else if t.filter = 0xFFFF ∨ t.filter = r.object then deliverRecord r s else s)
    |> onTracer (fun t => { t with seq := (t.seq + 1) % 2 ^ 32 })

/-- TRACER_RECORD: the LFSR advances over the units since the last tagged one; a unit it does not tag makes no record. -/
def tracerRecord (r : TracerObs) (s : State) : State :=
  let x := iterate lfsrStep r.units s.tracer.lfsr
  onlyIf (s.tracer.lfsr != 0 && decide (0 < r.units) && isTagged s.tracer x) (fun s =>
    tagRecord r (onTracer (fun t => { t with lfsr := x, advanced := (t.advanced + r.units) % 2 ^ 32 }) s)) s

def execTracerRecord (r : TracerObs) (s : State) : Res := .next (onlyIf (running s) (tracerRecord r) s)

/-- perf.trdeliver (0x0E03). Only DMA uses n and the address. -/
def perfTrdeliver (r : Req) (s : State) : Reply :=
  let d := r.u 0 1
  let n := r.u 1 1
  let a := r.u 4 8
  let t := s.tracer
  if 2 < d then refuse .badarg s
  else if d = 2 ∧ (n < 10 ∨ 16 < n ∨ a % 4096 ≠ 0) then refuse .range s
  else if t.delivery = d ∧ t.n = n ∧ t.addr = a then okSame s
  else okay (onTracer (fun t => { t with
    delivery := d, n := n, addr := a, next := 0, phase := true, buffer := [], full := false }) s)

def execPerfTrdeliver (mb : Nat) (s : State) : Res := mailbox ⟨0x0E03, some 16, [(2, 2), (12, 4)]⟩ perfTrdeliver mb s

/-- perf.trstatus (0x0E04). -/
def perfTrstatus (_ : Req) (s : State) : Reply :=
  let t := s.tracer
  okWith ([byteOf (b2n t.isOpen + 2 * b2n t.full + 4 * b2n (s.flt.dma.contains 1)), 0, 0, 0] ++ natBE 4 t.next
    ++ natBE 8 t.written ++ natBE 8 t.dropped ++ natBE 8 t.suspendedN) s

def execPerfTrstatus (mb : Nat) (s : State) : Res := mailbox (bareShape 0x0E04) perfTrstatus mb s

end Sys2Proof.Machine
end

