-- ==== Sys2Proof/Machine/Power.lean ====
section
/-! DEFINITION. Power input, power fail, resets, boot, warm restart and port reset (02_control_interface.md R45, R77 to
R82, R87; 18_power_and_reset.md). -/

namespace Sys2Proof.Machine

/-! Thresholds (R460, R462), VIN in 10 mV. -/

def uvloOn : Nat := 3400
def uvloOff : Nat := 3250
def powerFailAt : Nat := 3300
def ovRelease : Nat := 7600
def ovShutdownAt : Nat := 7800

/-! Retirements brought back (R472, R473). -/

/-- A slice is retired: a phase it holds goes to the lowest spare. -/
def restoreSlice (i : Nat) (s : State) : State :=
  let p := i / 264
  let a := i % 264 / 66
  let sl := i % 66
  let r := rxPort s p
  match phaseOfSlice r a sl, (spareSlices r a).head? with
  | some ph, some sp => onRxPort p (fun r => { r with
      phaseOf := tabSet 0 r.phaseOf (64 * a + ph) (if sp = ph then 0 else sp + 1)
      retired := including (66 * a + sl) r.retired }) s
  | _, _ => onRxPort p (fun r => { r with retired := including (66 * a + sl) r.retired }) s

/-- An engine is retired: a spare takes its slot, or the slot is removed. -/
def restoreEngine (i : Nat) (s : State) : State :=
  let p := i / 18
  let f := fecPort s p
  let s1 := onFecPort p (fun f => { f with retired := including (i % 18) f.retired }) s
  match f.engines.idxOf? (i % 18), (spareEngines f).head? with
  | some k, some sp => onFecPort p (fun f => { f with engines := f.engines.set k sp }) s1
  | some k, none => onFecPort p (removeSlot k) s1
  | none, _ => s1

/-- A cipher lane is retired: the spare takes its work where there is one. -/
def restoreLane (i : Nat) : State → State :=
  onLanes (i / 13) (fun l => match l.spare with
    | sp :: rest => { l with active := including sp (without (i % 13) l.active), spare := rest }
    | [] => { l with active := without (i % 13) l.active })

/-- A pseudo-channel is absent; each of its regions has its spare place. -/
def restorePc (g : Nat) (s : State) : State :=
  let pairs := (regionsOf s g).zip (freeSpares s g)
  onBulk (fun b => { b with
    pcs := tabSet .active b.pcs g .retired
    place := givePlaces pairs b.place }) s

/-- A retirement that was kept is in effect again. -/
def restoreUnit (u : Nat × Nat) (s : State) : State :=
  let s1 := onUnitRec (unitKey u.1 u.2) (fun x => { x with retired := true }) s
  match u.1 with
  | 1 => restoreSlice u.2 s1
  | 2 => restoreEngine u.2 s1
  | 4 => restoreLane u.2 s1
  | 5 => restorePc u.2 s1
  | 8 => onFlt (fun f => { f with d2dSpare := tabSet 0 f.d2dSpare (u.2 / 128) (min 2 (tabGet 0 f.d2dSpare (u.2 / 128) + 1)) }) s1
  | 9 => onRxSc u.2 (fun x => { x with oos := true }) s1
  | 10 => onCoreOf u.2 (fun x => { x with st := .retired }) s1
  | _ => s1

/-- The retirements that RESET_N keeps: all but those of host and pair lanes. -/
def keptRetirements (s : State) : List (Nat × Nat) :=
  (s.flt.unit.filter (fun e => e.2.retired && e.1 / 65536 != 6 && e.1 / 65536 != 7)).map (fun e => (e.1 / 65536, e.1 % 65536))

/-! What every reset keeps (R472): the flash device and what lies outside the module. -/

/-- The calibration that FLD gives: user records in effect at once. -/
def loadedCal (t : Tab CalRec) : Tab CalVal := t.map (fun e => (e.1, { user := some e.2, offNow := e.2.off }))

/-- The module at its reset values, with the content of FLD, host memory, its pins and the commands that wait; the ROLE pin
is sampled (R378/13). -/
def blank (role : Bool) (s : State) : State :=
  { State.reset with
    pending := s.pending
    free := s.free
    ctrl := { perst := s.ctrl.perst }
    ev := { ring := s.ev.ring }
    fw := { slotA := s.fw.slotA, slotB := s.fw.slotB, active := s.fw.active }
    power := { vin := s.power.vin, addrPins := s.power.addrPins, rolePin := role }
    pair := { role := if role then 3 else 0 }
    therm := {
      fld := s.therm.fld, window := s.therm.window, stored := s.therm.stored, cal := loadedCal s.therm.stored }
    flt := { fldRetired := s.flt.fldRetired }
    log := {
      slots := s.log.slots, flushNo := s.log.flushNo, areaA := s.log.areaA, areaB := s.log.areaB
      numA := s.log.numA, numB := s.log.numB, repA := s.log.repA, repB := s.log.repB } }

/-- A table of counts that run since power-on: the entries of `old`, each cut down to its counts. -/
def keepCounts {α : Type} [DecidableEq α] (d : α) (cut : α → α) (old : Tab α) : Tab α :=
  (old.map (fun e => (e.1, cut e.2))).filter (fun e => decide (e.2 ≠ d))

/-- The counts "since power-on", which only a power-on zeroes (notes/assumptions/22.md). -/
def keepSincePower (old s : State) : State :=
  { s with
    ctrl := { s.ctrl with restarts := old.ctrl.restarts }
    pace := keepCounts {} (fun x => { faults := x.faults }) old.pace
    txp := keepCounts {} (fun x => { replaced := x.replaced }) old.txp
    rxp := keepCounts {} (fun x => {
      cd := { overwrites := x.cd.overwrites, dissolves := x.cd.dissolves, tracks := x.cd.tracks } }) old.rxp
    fecp := keepCounts {} (fun x => {
      reductions := x.reductions, engFaults := x.engFaults, encFaults := x.encFaults }) old.fecp
    lane := keepCounts {} (fun x => { retrains := x.retrains }) old.lane
    cipher := { s.cipher with ctx := keepCounts {} (fun x => { replaced := x.replaced }) old.cipher.ctx }
    bulk := { s.bulk with sand := keepCounts {} (fun x => { overflows := x.overflows, corr := x.corr }) old.bulk.sand }
    timing := { s.timing with steps := old.timing.steps }
    cues := { s.cues with lateMax := old.cues.lateMax }
    mon := { s.mon with conv := keepCounts {} (fun x => { ovl := x.ovl, sat := x.sat }) old.mon.conv }
    flt := { s.flt with
      unit := keepCounts {} (fun x => { total := x.total }) old.flt.unit
      inj := keepCounts {} (fun x => { acted := x.acted }) old.flt.inj } }

/-- A power-on (R465): only flash is kept, with the retirements of its map; a thermal latch clears and holds the boot ROM
(R426/15); the address and ROLE pins are sampled (R46/02). -/
def powerOn (vin : Nat) (role : Bool) (addr : Nat) (s : State) : State :=
  forAll restoreUnit s.flt.fldRetired (blank role s)
    |> onPower (fun w => { w with
        phase := .softStart, vin := vin, addrPins := addr % 8, thermWait := s.therm.shut || s.power.thermWait })

/-- What RESET_N makes of the module (R472): as a power-on, but the thermal latch, the retirements and the counts since
power-on stay; all ports are dark. -/
def resetModule (role : Bool) (s : State) : State :=
  forAll restoreUnit (keptRetirements s) (keepSincePower s (blank role s))
    |> onTherm (fun t => { t with shut := s.therm.shut, shutCh := s.therm.shutCh })
    |> onPower (fun w => { w with
        phase := s.power.phase, powered := s.power.powered, thermWait := s.power.thermWait
        rail := if s.therm.shut then 620 else 820 })
    |> onCtrl (fun c => { c with stage := if s.power.powered then .rom else .power })

/-- The boot ROM starts with the image marked active (R77/02). -/
def startBoot (s : State) : State :=
  onFw (fun f => { f with trying := f.active, otherTried := false, bootStep := 1, warmDue := false }) s
    |> onCtrl (fun c => { c with
        stage := .rom, fallback := false, running := 0, fwVersion := 0 })

/-- A reset equal to RESET_N, released at once: the boot sequence runs from it. -/
def resetAndBoot (role : Bool) (s : State) : State := startBoot (resetModule role s)

/-! Power-up (R465). -/

/-- VIN_RISE_UVLO: a power-on; after a power-fail path in which VIN stayed above the UVLO off threshold, the wait ends in a
reset equal to RESET_N (R465, R467). -/
def vinRise (vin : Nat) (role : Bool) (addr : Nat) (s : State) : State :=
  if s.power.switchOpen || decide (vin < uvloOn) then s
  else match s.power.phase with
    | .off => powerOn vin role addr s
    | .waitUvlo =>
      if s.power.belowOff then powerOn vin role addr s
      else resetModule role s |> onPower (fun w => { w with phase := .softStart, vin := vin })
    | _ => s

def execVinRiseUvlo (vin : Nat) (role : Bool) (addr : Nat) (s : State) : Res := .next (vinRise vin role addr s)

/-- SOFT_START_ABORT: VIN falls below the UVLO off threshold; every rail goes off. During the wait after a power-fail path it
makes the recovery a power-on (R465, R467). -/
def softStartAbort (vin : Nat) (s : State) : State :=
  if vin < uvloOff then
    match s.power.phase with
    | .softStart => onPower (fun w => { w with phase := .off, vin := vin, belowOff := true }) s
    | .waitUvlo => onPower (fun w => { w with vin := vin, belowOff := true }) s
    | _ => s
  else s

def execSoftStartAbort (vin : Nat) (s : State) : Res := .next (softStartAbort vin s)

/-- RAILS_IN_REGULATION: PWR_GOOD, power-fail detection armed, the boot ROM starts unless RESET_N is held (R465, R469). -/
def railsGood (s : State) : State :=
  let s1 := onPower (fun w => { w with phase := .good, powered := true }) s
    |> onCtrl (fun c => { c with stage := .rom })
  onlyIf (!s.power.resetHeld) startBoot s1

def execRailsInRegulation (s : State) : Res := .next (onlyIf (s.power.phase == .softStart) railsGood s)

/-! Boot (R77 to R79, R426). -/

/-- The boot ROM works on an image. -/
def booting (s : State) : Bool :=
  (s.ctrl.stage == .rom || s.ctrl.stage == .load) && s.power.phase == .good && !s.power.resetHeld

/-- The PCIe endpoint starts with the boot, where PERST# is released (R45/02). A reset takes the link down (R82/02); it is up
again at the boot's first row after that, BOOT_THERMAL_WAIT or BOOT_IMAGE_CHECK (DESIGN CHOICE, notes/assumptions/20.md). -/
def linkStarts (s : State) : State := onCtrl (fun c => { c with pcieUp := c.pcieUp || !c.perst }) s

/-- BOOT_THERMAL_WAIT: the hottest die reads below 140.0 C (R426/15). -/
def execBootThermalWait (s : State) : Res :=
  .next (onlyIf (booting s) (fun s => linkStarts s
    |> onlyIf (s.power.thermWait && !(storedDies s).isEmpty && decide ((hottest s).2 < 1400))
      (onPower (fun w => { w with thermWait := false }))) s)

/-- RECOVERY: the staging area's valid bits are cleared (R79). -/
def recovery (s : State) : State :=
  onFw (fun f => { f with trying := 0, bootStep := 0 }) s
    |> onCtrl (fun c => { c with stage := .recovery, running := 0, fwVersion := 0 })
    |> clearStaging

/-- The image being booted has failed: the other one is tried, or RECOVERY follows (R78). -/
def imageFails (s : State) : State :=
  if s.fw.otherTried then recovery s
  else
    let other := otherSlot s.fw.trying
    onFw (fun f => { f with trying := other, otherTried := true, bootStep := 1 }) s
      |> onCtrl (fun c => { c with stage := .rom, running := 0, fwVersion := 0 })

/-- BOOT_IMAGE_CHECK: `ok` says that header and CRC-32 hold, and the image is copied (LOAD); a slot that is empty or failed has no image. FALLBACK says
whether the image that boots is the one not marked active (R78). -/
def imageCheck (ok : Bool) (s : State) : State :=
  if s.fw.bootStep == 1 && !s.power.thermWait then
    if ok && (slotOf s.fw s.fw.trying).state == 1 then
      onFw (fun f => { f with bootStep := 2 }) s
        |> onCtrl (fun c => { c with stage := .load, fallback := s.fw.trying != s.fw.active })
    else imageFails s
  else s

def execBootImageCheck (ok : Bool) (s : State) : Res := .next (onlyIf (booting s) (fun s => imageCheck ok (linkStarts s)) s)

/-- BOOT_LOAD_DONE: the image has been copied in LOAD; INIT, the cue cores run the firmware (R48, R77/02). -/
def loadDone (s : State) : State :=
  onCtrl (fun c => { c with
    stage := .init, running := s.fw.trying, fwVersion := (slotOf s.fw s.fw.trying).version }) s
    |> onFw (fun f => { f with loaded := max f.loaded (slotOf s.fw s.fw.trying).size })

def execBootLoadDone (s : State) : Res := .next (onlyIf (booting s && s.fw.bootStep == 2) loadDone s)

/-- The boot marker of each STAGE READY (R445/16). -/
def bootMarker (s : State) : State :=
  record (logEntryOf s 0x0DF2 0xFF 0 s.ev.seq 0 0 (natBE 4 s.ctrl.fwVersion.toNat ++ zeros 4) (zeros 16)) s

/-- What the boot reads in FLD (R451/16): an unreported power-fail record, whose flag is to be written, and the area without
the newest record, to be erased. -/
def readPowerFail (s : State) : State :=
  let l := s.log
  let new := (l.numA != 0 && !l.repA) || (l.numB != 0 && !l.repB)
  let old := l.numA != 0 && l.numB != 0
  onLog (fun l => { l with found := new }) s
    |> onTherm (fun t => { t with
        work := t.work ++ (if new then [.reported] else [])
          ++ (if old then [.erase (if l.numA < l.numB then 16 else 32) 0 0] else []) })

/-- BOOT_READY: READY and BOOT_DONE; with the thermal latch still set, SHUTDOWN. `calOk` says that the factory calibration
is intact (R77/02, R430/15). -/
def bootReady (calOk : Bool) (s : State) : State :=
  let s1 := onFw (fun f => { f with trying := 0, bootStep := 0 }) s
    |> onTherm (fun t => { t with factoryLost := !calOk })
    |> readPowerFail
    |> onlyIf (!calOk) (raise 0x0C00 10 0 0 [])
  if s.therm.shut then onCtrl (fun c => { c with stage := .shutdown }) s1
  else
    onCtrl (fun c => { c with stage := .ready }) s1 |> bootMarker
      |> raise 0x0101 10 0 0 [byteOf s.ctrl.running, b2w s.ctrl.fallback]

def execBootReady (calOk : Bool) (s : State) : Res :=
  .next (onlyIf (s.ctrl.stage == .init && s.power.phase == .good) (bootReady calOk) s)

/-- The image that does not reach READY is marked failed, with IMAGE_FAILED naming its slot (R78). -/
def markFailed (s : State) : State :=
  onFw (fun f => setSlot f.trying { slotOf f f.trying with state := 2 } f) s
    |> raise 0x0F01 10 0 0 [byteOf s.fw.trying]

/-- A warm restart whose image fails goes on with the other one, once and where that is valid; RECOVERY, which has no
datapath, follows otherwise (R78, R79). -/
def warmFails (s : State) : State :=
  let other := otherSlot s.fw.trying
  if s.fw.otherTried || (slotOf s.fw other).state != 1 then recovery (lanesIdle (allDark s))
  else
    onFw (fun f => { f with trying := other, otherTried := true }) s
      |> onCtrl (fun c => { c with fallback := other != s.fw.active })

/-- BOOT_WATCHDOG, 2.0 s after an image's start (R78). -/
def bootWatchdog (s : State) : State := imageFails (markFailed s)

def execBootWatchdog (s : State) : Res :=
  .next (onlyIf (mailboxesWork s) (fun s =>
    if (booting s && s.fw.bootStep != 0 && !s.power.thermWait) || s.ctrl.stage == .init then bootWatchdog s
    else if s.ctrl.stage == .restart then warmFails (markFailed s) else s) s)

/-- PERST_RELEASE: the endpoint starts (R45). -/
def execPerstRelease (s : State) : Res :=
  .next (onCtrl (fun c => { c with perst := false, pcieUp := s.power.powered && !s.power.resetHeld }) s)

/-! RESET_N and sys.reset (R82/02, R469). -/

/-- The filter passes a low level as a reset: at least 1 us by its own time base, which is within 2 % (R469); between 0.98
and 1.02 us either may happen. -/
def passesFilter (lowNs free : Nat) : Bool := decide (1020 ≤ lowNs) || (decide (980 ≤ lowNs) && free % 2 == 1)

/-- RESET_N_ASSERT: ignored from power-fail detection to the end of its path (R467). -/
def resetAssert (lowNs : Nat) (s0 : State) : State :=
  let s := useFree s0
  if passesFilter lowNs (freeNat s0) then
    match s.power.phase with
    | .good => resetModule s.power.rolePin s |> onPower (fun w => { w with resetHeld := true })
    | .softStart => onPower (fun w => { w with resetHeld := true }) s
    | _ => s
  else s

def execResetNAssert (lowNs : Nat) (s : State) : Res := .next (resetAssert lowNs s)

/-- RESET_N_RELEASE: the ROLE pin is sampled and the boot sequence starts (R470, R77/02). -/
def resetRelease (role : Bool) (s : State) : State :=
  onPower (fun w => { w with resetHeld := false, rolePin := role }) s
    |> onPair (fun p => { p with role := if role then 3 else 0 })
    |> onlyIf (s.power.phase == .good) startBoot

def execResetNRelease (role : Bool) (s : State) : Res := .next (onlyIf s.power.resetHeld (resetRelease role) s)

/-- sys.reset (0x0102). -/
def sysReset (r : Req) (s : State) : Reply :=
  if r.u 0 2 ≠ 0xA55A then refuse .badarg s else okay (onCtrl (fun c => { c with resetDue := true }) s)

def execSysReset (mb : Nat) (s : State) : Res := mailbox ⟨0x0102, some 4, [(2, 2)]⟩ sysReset mb s

/-- SYS_RESET_DELAY_END: the reset of an accepted sys.reset. -/
def execSysResetDelayEnd (role : Bool) (s : State) : Res :=
  .next (onlyIf (s.ctrl.resetDue && mailboxesWork s) (resetAndBoot role) s)

/-! Power fail (R450/16, R466, R467). -/

/-- The record of a power fail, newest first: the marker and the 255 entries before it. -/
def failEntries (l : LogSt) (wasFrozen : Bool) : List LogEntry :=
  if wasFrozen then (l.after ++ l.ring).take 256 else l.ring.take 256

/-- The record goes into an erased area, A when both are, unless the flash window is closed. -/
def writeFailRecord (wasFrozen : Bool) (s : State) : State :=
  let es := failEntries s.log wasFrozen
  let n := max s.log.numA s.log.numB + 1
  if s.therm.window = false then s
  else if s.log.numA = 0 then onLog (fun l => { l with areaA := es, numA := n, repA := false }) s
  else if s.log.numB = 0 then onLog (fun l => { l with areaB := es, numB := n, repB := false }) s
  else s

/-- VIN behind the input switch is below the UVLO off threshold. -/
def belowUvlo (vin : Nat) (s : State) : Bool := s.power.switchOpen || decide (vin < uvloOff)

/-- The path of R466: POWER_FAIL, the ring frozen with cause 2 and the record of both, ports dark, rails off. -/
def powerFail (vin : Nat) (s : State) : State :=
  onPower (fun w => { w with phase := .failPath, powered := false, vin := vin, belowOff := belowUvlo vin s }) s
    |> raise 0x0104 28 0 0 ([0, 0] ++ natBE 2 vin)
    |> freezeLog 2
    |> writeFailRecord s.log.frozen
    |> allDark
    |> lanesIdle
    |> onPower (fun w => { w with picRails := [], rail := 620 })
    |> onCtrl (fun c => { c with stage := .power, pcieUp := false })

/-- POWER_FAIL_DETECT: VIN below the threshold for the qualification time, once detection is armed. -/
def execPowerFailDetect (vin : Nat) (s : State) : Res :=
  .next (onlyIf (s.power.phase == .good && (belowUvlo vin s || decide (vin < powerFailAt))) (powerFail vin) s)

/-- POWER_FAIL_PATH_END (R467): wait for VIN where it is not back; a power-on where it was below the UVLO off threshold, a
reset equal to RESET_N otherwise. -/
def pathEnd (vin : Nat) (role : Bool) (addr : Nat) (s : State) : State :=
  onPower (fun w => { w with phase := .waitUvlo, vin := vin, belowOff := w.belowOff || belowUvlo vin s }) s
    |> vinRise vin role addr

def execPowerFailPathEnd (vin : Nat) (role : Bool) (addr : Nat) (s : State) : Res :=
  .next (onlyIf (s.power.phase == .failPath) (pathEnd vin role addr) s)

/-- OV_SHUTDOWN: the input switch opens; a soft start ends, a running module goes to the power-fail path (R462). -/
def ovShutdown (vin : Nat) (s : State) : State :=
  if vin < ovShutdownAt then s
  else
    let s1 := onPower (fun w => { w with vin := vin, switchOpen := true }) s
    match s.power.phase with
    | .softStart => onPower (fun w => { w with phase := .off, belowOff := true }) s1
    | .waitUvlo => onPower (fun w => { w with belowOff := true }) s1
    | _ => s1

def execOvShutdown (vin : Nat) (s : State) : Res := .next (ovShutdown vin s)

/-- OV_RECOVER: below 76.0 V for 100 ms the switch closes and the module powers up (R462). -/
def ovRecover (vin : Nat) (role : Bool) (addr : Nat) (s : State) : State :=
  onPower (fun w => { w with vin := vin, switchOpen := false }) s |> vinRise vin role addr

def execOvRecover (vin : Nat) (role : Bool) (addr : Nat) (s : State) : Res :=
  .next (onlyIf (s.power.switchOpen && decide (vin < ovRelease)) (ovRecover vin role addr) s)

/-- The warning that VIN calls for after 1 ms: 1 low, 2 high, 0 released (R461). -/
def vinWarnOf (vin was : Nat) : Nat :=
  if vin < 3600 then 1 else if 7500 < vin then 2 else if 3650 ≤ vin ∧ vin ≤ 7450 then 0 else was

/-- VIN_WARN_TIMER. -/
def vinWarn (vin : Nat) (s : State) : State :=
  let n := vinWarnOf vin s.power.vinWarn
  onPower (fun w => { w with vin := vin, vinWarn := n }) s
    |> onlyIf (n != s.power.vinWarn) (raise 0x0103 28 0 0 ([byteOf n, 0] ++ natBE 2 vin))

def execVinWarnTimer (vin : Nat) (s : State) : Res := .next (onlyIf s.power.powered (vinWarn vin) s)

/-! Warm restart (R80, R81, R87/02). -/

/-- The flash work of a deferred command. -/
def isWorkOf (d : Deferred) : FlashWork → Bool
  | .cal _ _ op tag => d.op == op && d.tag == tag
  | .erase _ op tag => d.op == op && d.tag == tag
  | .activate => d.op == 0x0F04
  | _ => false

/-- A deferred command's flash work no longer waits; a value it set returns to the stored record. -/
def dropWork (d : Deferred) (s : State) : State :=
  onTherm (fun t => { t with
    work := t.work.filter (fun w => !isWorkOf d w)
    busy := if t.busy.any (isWorkOf d) then none else t.busy
    cal := (t.work ++ t.busy.toList).foldl (fun c w => match w with
      | .cal k _ op tag => if d.op = op ∧ d.tag = tag then
          tabMod {} c k (fun v => { v with user := (t.stored.find? (fun e => e.1 == k)).map (·.2) }) else c
      | _ => c) t.cal }) s

/-- A deferred command leaves no change (R87). -/
def undo (d : Deferred) (s : State) : State :=
  match d.op with
  | 0x0201 => onlyIf ((txPort s d.obj).tx == .starting) (fun s => darkCheck d.obj (shutTx d.obj .off s)) s
  | 0x0206 => onlyIf ((rxPort s d.obj).st == .calibrate) (fun s => darkCheck d.obj (shutRx d.obj s)) s
  | 0x0211 => onTxPort d.obj (fun t => { t with resetOn := false }) s |> onRxPort d.obj (fun r => { r with resetOn := false })
  | 0x0403 => onlyIf ((txPort s d.obj).tx == .starting) (fun s => darkCheck d.obj (shutTx d.obj .off s)) s
      |> onHubPort d.obj (fun h => { h with join := .idle })
  | 0x0805 => onBulk (fun b => { b with
      pcs := tabSet .active b.pcs d.obj .active, migr := none, place := (b.migr.map (·.before)).getD b.place }) s
  | 0x0C02 => onTherm (fun t => { t with
      job := none, stage := (t.job.map (·.stage0)).getD t.stage, first := (t.job.map (·.first0)).getD t.first }) s
  | 0x0C03 => onTherm (fun t => { t with
      stage := (t.applied.find? (fun e => e.1 == d.tag)).map (·.2), applied := t.applied.filter (·.1 != d.tag) }) (dropWork d s)
  | 0x0F04 => dropWork d (onFw (fun f => { f with session := 2 }) s)
  | _ => dropWork d s

/-- FORCE ends each pending deferred command with TIMEOUT (R87). -/
def endDeferred (s : State) : State := forAll (fun d s => commandDone d .timeout (undo d s)) s.ctrl.deferred s

/-- fw.restart (0x0F05). Another mailbox that is BUSY holds a command in progress, a host.lowpower that waits among them. -/
def fwRestart (r : Req) (s : State) : Reply :=
  if r.u 0 1 ≠ 0 then refuse .badarg s
  else if isLead s ∨ (slotOf s.fw s.fw.active).state ≠ 1 then refuse .denied s
  else if (List.range 8).any (fun m => m != r.mb && bvBit s.ctrl.mbBusy m) ∨ (r.force = false ∧ s.ctrl.deferred ≠ []) then refuse .busy s
  else okay (callWarm s)

/-- After the OK response, deferred commands end. -/
def restartEnds (_ : Req) (s : State) : State := onlyIf s.fw.warmDue endDeferred s

def execFwRestart (mb : Nat) (s : State) : Res := mailboxThen ⟨0x0F05, some 4, [(1, 3)]⟩ fwRestart restartEnds mb s

/-- Every core that is not retired runs again. -/
def coresRun (s : State) : State :=
  forAll (fun c s => onlyIf (!isCoreRetired s c)
    (fun s => retryDone 10 c (onCoreOf c (fun x => { x with st := .running }) s)) s) (List.range 4) s

/-- The image a restart runs: the one marked active, the other where that is not valid. -/
def imageToRun (f : Fw) : Nat := if (slotOf f f.active).state = 1 then f.active else otherSlot f.active

/-- A point disarmed by a warm restart: a timed effect that already runs goes on to its end (R442/16). -/
def disarmed (i : Inject) : Inject := if i.running then { i with armed := false } else { acted := i.acted }

/-- The control firmware restarts (R80, R472): a lease held lapses, which freezes the log (R440, R447/16), a stand-in is out
of step, armed points disarm, all else goes on. -/
def warmStart (s : State) : State :=
  onFw (fun f => { f with warmDue := false, trying := imageToRun f, otherTried := false }) s
    |> onCtrl (fun c => { c with
        stage := .restart, restarts := min 15 (c.restarts + 1), running := 0, fwVersion := 0
        fallback := imageToRun s.fw != s.fw.active })
    |> onFlt (fun f => { f with inj := keepCounts {} disarmed f.inj })
    |> onPair (fun p => { p with
        role := if p.role = 1 then 3 else p.role, ownEnd := none, release := false, rehearsed := false
        inStep := false, matched := 0 })
    |> onlyIf (isLead s) (fun s => freezeLog 5 (raise 0x0A01 13 0 0 [1] s))

/-- WARM_RESTART_START: in RECOVERY, the boot ROM starts the boot sequence again (R79). -/
def execWarmRestartStart (s : State) : Res :=
  .next (onlyIf (s.fw.warmDue && mailboxesWork s)
    (fun s => if s.ctrl.stage == .recovery then startBoot s else if s.ctrl.stage == .ready then warmStart s else s) s)

/-- The restarted firmware runs; a stand-in whose pair link is up resynchronizes (R80, R399). -/
def firmwareRuns (s : State) : State :=
  onCtrl (fun c => { c with running := s.fw.trying, fwVersion := (slotOf s.fw s.fw.trying).version }) s
    |> onFw (fun f => { f with trying := 0 })
    |> coresRun
    |> onlyIf (isStandIn s && s.pair.up) startResync

/-- WARM_RESTART_DONE: READY, the boot marker, FW_RESTARTED. -/
def warmDone (s : State) : State :=
  let s1 := onCtrl (fun c => { c with stage := .ready }) (firmwareRuns s) |> bootMarker
  raise 0x0F00 10 0 0 (natBE 4 s1.ctrl.fwVersion.toNat) s1

/-- DEDUCED (log 44): after a thermal shutdown during the restart the firmware runs and STAGE stays SHUTDOWN (R425). -/
def execWarmRestartDone (s : State) : Res :=
  .next (onlyIf (mailboxesWork s)
    (fun s => if s.ctrl.stage == .restart then warmDone s
      else if s.ctrl.stage == .shutdown && s.fw.trying != 0 && s.fw.bootStep == 0 then firmwareRuns s else s) s)

/-! Port reset (R471). -/

/-- A port.reset, port.txenable or port.rxenable of the port is in progress. -/
def enabling (s : State) (p : Nat) : Bool :=
  resetting s p || (findDeferred s 0x0201 p).isSome || (findDeferred s 0x0206 p).isSome

/-- Steps 2 and 3: the stream FIFOs are emptied, debts zeroed, the cap set to 16. -/
def emptyPort (p : Nat) (s : State) : State :=
  emptyFifo (.stream (.adcToCore p)) s |> emptyFifo (.stream (.coreToDac p)) |> zeroFec p

/-- Step 1: dark as by port.txdisable and port.rxdisable. -/
def portDark (p : Nat) (s : State) : State :=
  onlyIf ((txPort s p).tx != .off) (closeTx p) s |> (fun s => onlyIf ((rxPort s p).st != .off) (closeRx p) s)

/-- Step 4: each direction that was on is enabled again by R106 and R115. -/
def reenable (p : Nat) (lo : Int) (tx rx : Bool) (s : State) : State :=
  onTxPort p (fun t => { t with resetOn := tx }) s |> onRxPort p (fun r => { r with resetOn := rx })
    |> onlyIf (tx && feedGood s p lo) (startTx p lo)
    |> onlyIf (rx && feedGood s p lo) (startRx p lo)

/-- port.reset (0x0211). -/
def portReset (lo : Int) : Req → State → Reply := onPort fun p r s =>
  let tx := transmitting s p
  let rx := receiving s p
  if enabling s p then refuse .busy s
  else if !tx && !rx then okay (emptyPort p s)
  else
    let a := defer r p s
    { a with st := portDark p a.st |> emptyPort p |> reenable p lo tx rx }

def execPortReset (mb : Nat) (lo : Int) (s : State) : Res := mailbox (objShape 0x0211) (portReset lo) mb s

/-- Each direction is back in its former state. -/
def portBack (s : State) (p : Nat) : Bool :=
  (!(txPort s p).resetOn || (txPort s p).tx == .on) && (!(rxPort s p).resetOn || afterCalibrate (rxPort s p).st)

/-- PORT_RESET_DONE: OK with each direction back; DENIED where a re-enable failed. -/
def portResetDone (p : Nat) (ok : Bool) (s : State) : State :=
  if resetting s p && (portBack s p || !ok) then
    finishDeferred 0x0211 p (if portBack s p then .ok else .denied) s
      |> onTxPort p (fun t => { t with resetOn := false }) |> onRxPort p (fun r => { r with resetOn := false })
  else s

def execPortResetDone (p : Nat) (ok : Bool) (s : State) : Res := need "port" (okPort p) (portResetDone p ok s)

end Sys2Proof.Machine
end

