-- ==== Sys2Proof/Machine/Mirror.lean ====
section
/-! DEFINITION. Cancelling a cue (12_timing_and_cues.md R371), and the stand-in's side of mirroring
(13_pair_redundancy.md R393). -/

namespace Sys2Proof.Machine

/-! cue.cancel (R371). -/

/-- The entry is pending and its time has not come. -/
def cancellable (s : State) (i : Nat) : Bool := (cueAt s i).state == 1 && decide (now s < (cueAt s i).time)

/-- The entry's time is at least `t` ticks ahead. -/
def aheadBy (s : State) (i t : Nat) : Bool := decide (now s + t ≤ (cueAt s i).time)

/-- The entry is that of a staged set, or of a cued dissolve before its start (R371, R128/04). -/
def dissolveWaits (s : State) (i : Nat) : Bool :=
  let e := cdOf s (cueAt s i).obj
  (cueAt s i).state == 1 && ((match e.staged with | some g => g.idx == i | none => false)
    || (e.state == 1 && e.cue == i && (e.start == 0 || decide (now s < e.start))))

/-- R371 lets this entry be cancelled. -/
def mayCancel (s : State) (i : Nat) : Bool :=
  match (cueAt s i).kind with
  | 1 | 4 => cancellable s i && aheadBy s i (ticksMs 2)
  | 5 => cancellable s i && aheadBy s i (ticksMs 1)
  | 3 => dissolveWaits s i
  | 6 | 8 => cancellable s i
  | _ => false

/-- The format change of a port that holds entry `i`, itself or its companion. -/
def changeOf (s : State) (p i : Nat) : Option FormatChange :=
  (txPort s p).changes.find? (fun c => c.cue == i || c.remap == i)

/-- A format change is cancelled with its companion, and at the far end where it was announced (R371, R375). -/
def cancelChange (i : Nat) (s : State) : State :=
  let p := (cueAt s i).obj
  match changeOf s p i with
  | none => clearCue i s
  | some c =>
    onlyIf (cueAt s c.cue).announced (fun s => sendCell p 2 (sendCell p 3 s)) s |> dropChange p c

/-- A far end's announced change is not applied. -/
def cancelFar (i : Nat) (s : State) : State :=
  let c := cueAt s i
  onRxPort c.obj (fun r => { r with ann := r.ann.filter (·.boundary != c.time) }) (clearCue i s)

/-- A dissolve start: the staged set's entry empties the staged store; the cued dissolve gives way to a staged set, or leaves
the equalizer idle (R128/04). -/
def cancelDissolve (i : Nat) (s : State) : State :=
  let p := (cueAt s i).obj
  let e := cdOf s p
  let s1 := clearCue i s
  if e.state = 1 ∧ e.cue = i then
    match e.staged with
    | none => onCd p (fun e => { e with state := 0 }) s1
    | some g =>
      let start := if g.loaded then blockTime (blockAfter (max (now s) g.cue)) else 0
      onCd p (fun e => { e with
          incoming := g.set, staged := none, len := g.len, start := start, cue := g.idx, loading := !g.loaded }) s1
        |> setCue g.idx { cueAt s g.idx with time := max start g.cue }
  else onCd p (fun e => { e with staged := none }) s1

/-- A commit is pending no more. -/
def cancelCommit (i : Nat) (s : State) : State :=
  onSvc (fun v => { v with commit := none, slot := mapSlots (fun _ o => { o with pTx := 0xFFF, pRx := 0xFFF }) v.slot })
    (clearCue i s)

/-- A window of the tracer loses the cue. -/
def cancelWindow (i : Nat) (s : State) : State :=
  onTracer (fun t => { t with
    openCue := if t.openCue = some i then none else t.openCue
    closeCue := if t.closeCue = some i then none else t.closeCue }) (clearCue i s)

/-- The entry becomes free, with what its kind carries along. -/
def cancelCue (i : Nat) (s : State) : State :=
  match (cueAt s i).kind with
  | 1 => if (cueAt s i).origin = 3 then cancelFar i s else cancelChange i s
  | 3 => cancelDissolve i s
  | 4 => if (s.svc.commit.map (·.2)) = some i then cancelCommit i s else cancelChange i s
  | 8 => cancelWindow i s
  | _ => clearCue i s

/-- cue.cancel (0x0981). -/
def cueCancel (r : Req) (s : State) : Reply :=
  let i := r.u 0 2
  if 4095 < i then refuse .range s
  else if mayCancel s i then okay (cancelCue i s) else refuse .denied s

def execCueCancel (mb : Nat) (s : State) : Res := mailbox ⟨0x0981, some 4, [(2, 2)]⟩ cueCancel mb s

/-! A mirrored command (R393, R61/02). -/

/-- The LO tap of the port a request names, as last read. -/
def lastLo (s : State) (r : Req) : Int := (txPort s (r.u 0 1)).loTap

/-- host.lowpower without a mailbox that waits. -/
def lowpowerMirrored (r : Req) (s : State) : Reply :=
  match lowpowerAnswer r s with
  | some a => a
  | none => okay (onHostPort (r.u 0 1) (fun h => { h with target := some (r.u 1 1, none) }) s)

/-- bulk.retire, whose migration starts at once. -/
def retireMirrored (r : Req) (s : State) : Reply :=
  let a := bulkRetire r s
  if a.code = .deferred then { a with st := startMigration (r.u 0 1) a.st } else a

/-- The rules of a state-changing command, applied without a mailbox; optical readings are the stand-in's own last ones, and
what the lead found of its feed holds. -/
def mirroredBody (op : Nat) : Req → State → Reply :=
  match op with
  | 0x0103 => fun r s => sysQuiet (allPorts.map (fun p => (txPort s p).loTap)) r s
  | 0x0200 => portLaser
  | 0x0201 => fun r s => portTxenable (lastLo s r) r s
  | 0x0202 => portTxdisable
  | 0x0203 => portTxpower 1900
  | 0x0204 => portFormat
  | 0x0206 => fun r s => portRxenable (lastLo s r) r s
  | 0x0207 => portRxdisable
  | 0x0208 => portRxconfig
  | 0x0209 => portCdset
  | 0x020A => portCdwrite
  | 0x020B => portCdstart
  | 0x020E => portLtune
  | 0x020F => portFecconfig
  | 0x0211 => fun r s => portReset (lastLo s r) r s
  | 0x0280 => scTxpower
  | 0x0282 => scRxconfig
  | 0x0300 => frameTrace
  | 0x0301 => frameDefcfg
  | 0x0302 => framePcset
  | 0x0303 => frameChan
  | 0x0304 => frameKcsend
  | 0x0380 => pmConfig
  | 0x0381 => pmTca
  | 0x0383 => pmClear
  | 0x0400 => hubRole
  | 0x0401 => hubGrant
  | 0x0402 => hubRelease
  | 0x0403 => fun r s => hubJoin (lastLo s r) r s
  | 0x0404 => hubLeave
  | 0x0480 => castConfig
  | 0x0500 => hostPortcfg
  | 0x0501 => hostEnable
  | 0x0502 => hostTxtaps
  | 0x0503 => lowpowerMirrored
  | 0x0600 => tribConfig
  | 0x0601 => tribStage
  | 0x0602 => tribCommit
  | 0x0680 => labelSet
  | 0x0683 => labelProfile
  | 0x0700 => ctxConfig
  | 0x0701 => ctxLimits
  | 0x0702 => ctxRollover
  | 0x0703 => ctxErase
  | 0x0800 => bulkSweep
  | 0x0801 => bulkSandglass
  | 0x0805 => retireMirrored
  | 0x0900 => clkCandidate
  | 0x0901 => clkConfig
  | 0x0902 => clkForce
  | 0x0903 => clkHoldover
  | 0x0904 => clkRefout
  | 0x0940 => tcSet
  | 0x0941 => tcSource
  | 0x0942 => tcIo
  | 0x0943 => tcTransfer
  | 0x0981 => cueCancel
  | 0x0A01 => pairRehearse
  | 0x0D05 => faultTestpattern
  | 0x0E02 => perfTracer
  | _ => fun _ s => okay s

/-- The request of a mirrored command. -/
def mirroredReq (op tag : Nat) (pay : List Byte) : Req :=
  { mb := 8, op := op, tag := tag, len := pay.length, flags := 0, status := 0, gen := 0, rest := 0, pay := pay
    acc := 0, now := 0, inst := 0 }

/-- The stand-in applies the command as of the lead's acceptance, so that its cues and dissolves start where the lead's do (R132/04),
and takes the lead's CFG_GEN; it posts no COMMAND_DONE of its own. -/
def applyCommand (op tag gen at_ : Nat) (pay : List Byte) (s : State) : State :=
  let t := atInstant at_ (fun s => (mirroredBody op (mirroredReq op tag pay) s).st) s
  onCtrl (fun c => { c with cfgGen := BitVec.ofNat 32 gen, deferred := s.ctrl.deferred }) t

/-! The other records. -/

/-- COMMAND_DONE of the lead, flagged MIRRORED; with another code than OK its CFG_GEN has advanced once more. -/
def applyDone (op tag code : Nat) (s : State) : State :=
  onCtrl (fun c => { c with cfgGen := if code ≠ 0 then c.cfgGen + 1 else c.cfgGen }) s
    |> raiseEvent true 0x0100 9 0 tag (natBE 2 op ++ [byteOf code])

/-- A cue placement, into the same index (R377/12). -/
def applyCue (i kind obj time period tag : Nat) (s : State) : State :=
  placeCue i {
    state := 1, kind := kind, origin := 2, periodic := period != 0, obj := obj, time := time, period := period, tag := tag
    nominal := time } s
    |> onlyIf (kind == 2) (onCtxOf obj (fun x => { x with roll := some (time, i, true) }))

/-- The lead's bins replace the stand-in's own current ones. -/
def applyPm (kind obj : Nat) (b15 b24 : PmBin) (s : State) : State :=
  onPmObj (pmKey kind obj) (fun o => { o with
    bins15 := binHead (fun _ => b15) o.bins15, bins24 := binHead (fun _ => b24) o.bins24 }) s

/-- A cue record is confirmed to the lead. -/
def confirm : State → State := onPair (fun p => { p with confirmed := p.confirmed + 1 })

/-- The vector of a mirrored PM event: its table's, or that of its subcarrier's port. -/
def mirroredVector (code src : Nat) : Nat := match eventVector code with
  | some 16 => 16 + scPort src
  | some v => v
  | none => 16 + scPort src

/-- A lease record: time 0 tells that the lead released the lease at a rehearsal. -/
def applyLease (time : Nat) (s : State) : State := onPair (fun p => { p with farRelease := time == 0 }) s

/-- A hub decision of the lead, as of its instant; the burst it answers has been dealt with here too (R236/07). -/
def applyHub (p at_ : Nat) (d : HubDecision) (s : State) : State :=
  let heard (t i : Nat) := onHubPort p (fun h => { h with inbox := h.inbox.eraseP (fun b => b.1 == t && b.2.1 == i) })
  atInstant at_ (hubActs p d) s
    |> (match d with
      | .join i _ => heard 3 i
      | .keepalive i => heard 4 i
      | .leave i => heard 5 i
      | _ => id)

def applyRecord (r : MirrorRecord) (s : State) : State :=
  match r with
  | .hub p at_ d => applyHub p at_ d s
  | .command op tag gen at_ pay => applyCommand op tag gen at_ pay s
  | .commandDone op tag code => applyDone op tag code s
  | .cuePlace i kind obj time period tag => confirm (applyCue i kind obj time period tag s)
  | .cueCancel i => confirm (cancelCue i s)
  | .label n entry => writeLabel n entry s
  | .counters set tp tb rp rb => putCounts set { tp := tp, tb := tb, rp := rp, rb := rb } s
  | .protection sc v => onTxFrame sc (fun f => { f with pc := BitVec.ofNat 32 v }) s
  | .ltune p c => onRxPort p (fun r => { r with c := c }) s
  | .pmBins kind obj b15 b24 => applyPm kind obj b15 b24 s
  | .pmEvent code src data => raiseEvent true code (mirroredVector code src) src 0 data s
  | .admission t taken => onPair (fun p => { p with decisions := p.decisions ++ [(t, taken)] }) s
  | .lease time => applyLease time s
  | .versions p v => onSvc (fun x => { x with mapVer := tabSet 0 x.mapVer p v }) s

/-- MIRROR_RECORD_RECEIVE: point 0x0A3 loses the next record, which is a divergence (R397). -/
def mirrorReceive (r : MirrorRecord) (s : State) : State :=
  if injArmed s 0x0A3 then diverge 5 0 (injAct 0x0A3 s) else applyRecord r s

def execMirrorRecordReceive (r : MirrorRecord) (s : State) : Res :=
  need "mirror record" (okRecord r) (onlyIf (isStandIn s && s.pair.up && running s) (mirrorReceive r) s)

end Sys2Proof.Machine
end

