-- ==== Sys2Proof/Machine/Arm.lean ====
section
/-! DEFINITION. fault.inject and the end of timed injections (16_faults_and_rushes.md R442, R443). -/

namespace Sys2Proof.Machine

/-- Points marked disruptive in R443; point 0x103 is for three of its memories. -/
def disruptive (pt arg : Nat) : Bool :=
  (decide (0x018 ≤ pt) && decide (pt < 0x030)) || pt == 0x033 || pt == 0x035 || pt == 0x0A1 || pt == 0x0A2
    || (pt == 0x103 && (arg == 67 || arg == 69 || arg == 70)) || pt == 0x160 || pt == 0x187 || pt == 0x188
    || pt == 0x1A0 || pt == 0x1A1

/-- The argument lies in the range that R443 gives the point; zero where it takes none. -/
def argOk (pt arg : Nat) : Bool :=
  if pt < 0x018 then okSlice arg
  else if 0x030 ≤ pt ∧ pt < 0x036 then okSc arg
  else match pt with
    | 0x0A0 | 0x0A1 | 0x0A2 => okLane arg
    | 0x0A3 => okPairLane arg
    | 0x0A4 => okD2d arg
    | 0x0C0 => decide (arg < 5242880)
    | 0x0C1 | 0x0C2 => okTrib arg
    | 0x0E0 | 0x0E1 | 0x0E2 | 0x0E3 => decide (arg < 13)
    | 0x0E4 | 0x0E5 => okCtx arg
    | 0x100 | 0x101 | 0x104 => okPc arg
    | 0x102 | 0x103 => decide (64 ≤ arg) && decide (arg < 71)
    | 0x140 => okCand arg
    | 0x141 => decide (arg < 2 ^ 32) && okCand (arg / 2 ^ 24)
    | 0x184 | 0x185 | 0x186 | 0x187 => decide (34 ≤ arg) && decide (arg < 48)
    | 0x1A0 | 0x1A1 => okCore arg
    | 0x1A2 => decide (arg < 3)
    | 0x1C0 => okUnit arg
    | 0x1E1 => decide (arg < 9)
    | _ => arg == 0

/-- The FEC points: decoding needs a lit receive subcarrier, encoding a lit transmit subcarrier. -/
def fecPointReady (s : State) (pt : Nat) : Bool :=
  if pt < 0x078 then decide (0 < rxLitCount s (portScs ((pt - 0x060) % 6)))
  else (portScs (pt - 0x078)).any (txLit s)

/-- The point's object is lit, not retired, and in the role that the point needs. -/
def objectReady (s : State) (pt arg : Nat) : Bool :=
  if pt < 0x018 then receiving s (pt / 4) && !(rxPort s (pt / 4)).retired.contains (66 * (pt % 4) + arg)
  else if pt < 0x01E then receiving s (pt - 0x018)
  else if pt < 0x024 then transmitting s (pt - 0x01E)
  else if pt < 0x02A then receiving s (pt - 0x024)
  else if pt < 0x030 then transmitting s (pt - 0x02A)
  else if 0x060 ≤ pt ∧ pt < 0x07E then fecPointReady s pt
  else if 0x080 ≤ pt ∧ pt < 0x086 then isHub s (pt - 0x080) && receiving s (pt - 0x080)
  else if 0x086 ≤ pt ∧ pt < 0x08C then transmitting s (pt - 0x086)
  else match pt with
    | 0x030 => rxLit s arg
    | 0x031 | 0x032 | 0x033 | 0x034 => txLit s arg
    | 0x035 => (rxLit s arg || txLit s arg) && !isRetired s 9 arg
    | 0x0A0 | 0x0A1 | 0x0A2 => (laneOf s arg).st != .disabled && !isRetired s 6 arg
    | 0x0A3 => isMember s && !isRetired s 7 arg
    | 0x0A4 => !isRetired s 8 arg
    | 0x0E0 | 0x0E2 => !isRetired s 4 arg
    | 0x0E1 | 0x0E3 => !isRetired s 4 (13 + arg)
    | 0x100 | 0x101 | 0x104 => pcState s arg != .retired
    | 0x160 | 0x161 | 0x162 | 0x163 => isMember s
    | 0x1A0 | 0x1A1 => !isCoreRetired s arg
    | 0x1C0 => (margin s arg).isSome
    | _ => true

/-- Points whose effect lasts a stated time from the moment they are armed. -/
def isTimed (pt : Nat) : Bool :=
  (decide (0x018 ≤ pt) && decide (pt < 0x024)) || pt == 0x032 || pt == 0x140 || pt == 0x141 || pt == 0x142 || pt == 0x160
    || (decide (0x184 ≤ pt) && decide (pt < 0x188)) || pt == 0x1A1 || pt == 0x1C0 || pt == 0x1C1

/-- A timed effect begins. -/
def startTimed (pt : Nat) (s : State) : State :=
  onInjOf pt (fun i => { i with running := true }) (injAct pt s)

/-- What a timed effect does at its start. -/
def timedEffect (pt arg : Nat) (s : State) : State :=
  if 0x018 ≤ pt ∧ pt < 0x01E then loseLight (pt - 0x018) s
  else match pt with
    | 0x140 => loseActivity arg s
    | 0x142 => setLosc true s
    | 0x1C0 => onPaceUnit arg (fun x => { x with forced := some 20 }) s
    | _ => s

/-- The points that act at once without a duration. -/
def effectAtOnce (pt arg : Nat) (s : State) : State :=
  if pt < 0x018 then adcSliceFault (pt / 4) (pt % 4) arg s
  else if 0x024 ≤ pt ∧ pt < 0x02A then fullWrite (.adcToCore (pt - 0x024)) s
  else if 0x02A ≤ pt ∧ pt < 0x030 then emptyRead (.coreToDac (pt - 0x02A)) s
  else match pt with
    | 0x035 => resyncSc arg (unitFault 9 arg (injAct 0x035 s))
    | 0x0A2 => laneFault 2 arg (injAct 0x0A2 s)
    | 0x0A4 => retryDone 8 arg (unitFault 8 arg (injAct 0x0A4 s))
    | 0x188 => powerFail s.power.vin (injAct 0x188 s)
    | 0x1E0 => freezeLog 7 (injAct 0x1E0 s)
    | _ => s

/-- fault.inject (0x0D03): the point is armed. -/
def faultInject (r : Req) (s : State) : Reply :=
  let pt := r.u 0 2
  let arg := r.u 4 4
  if pointExists pt = false ∨ r.u 2 2 ≠ (if disruptive pt arg then 0xA55A else 0) then refuse .badarg s
  else if argOk pt arg = false then refuse .range s
  else if objectReady s pt arg = false then refuse .denied s
  else okay (onInjOf pt (fun i => { i with armed := true, arg := arg }) s)

/-- A point without a next occurrence acts at once, after the response. -/
def actAtOnce (r : Req) (s : State) : State :=
  let pt := r.u 0 2
  let arg := (injOf s pt).arg
  if injArmed s pt = false then s
  else if isTimed pt then timedEffect pt arg (startTimed pt s) else effectAtOnce pt arg s

def execFaultInject (mb : Nat) (s : State) : Res := mailboxThen ⟨0x0D03, some 8, []⟩ faultInject actAtOnce mb s

/-- What the end of a timed effect gives back. -/
def endEffect (pt arg : Nat) (s : State) : State :=
  match pt with
  | 0x142 => setLosc false s
  | 0x1C0 => onPaceUnit arg (fun x => { x with forced := none }) s
  | _ => s

/-- INJECTION_END. -/
def injectionEnd (pt : Nat) (s : State) : State :=
  onlyIf (injOf s pt).running
    (fun s => endEffect pt (injOf s pt).arg (onInjOf pt (fun i => { i with running := false }) s)) s

def execInjectionEnd (pt : Nat) (s : State) : Res := need "injection point" (pointExists pt) (injectionEnd pt s)

end Sys2Proof.Machine
end

