-- ==== Sys2Proof/Machine/Control.lean ====
section
/-! DEFINITION. BAR0: register writes and reads, doorbells, mailbox ownership, interrupt control, the event ring, the key
window's registers and BAR2 (02_control_interface.md). -/

namespace Sys2Proof.Machine

/-- An access on this path reaches the registers: the module has its rails and is not held in reset; PCIe also needs its
link (R45, R46/02, R469/18). -/
def busWorks (path : Path) (s : State) : Bool :=
  mailboxesWork s && (path == .i2c || s.ctrl.pcieUp)

/-! The management ports (R44, R46/02). -/

/-- The PCIe function of the module. -/
structure Endpoint where
  vendor : Nat := 0x1FA7
  device : Nat := 0x9260
  classCode : Nat := 0x028000
  lanes : Nat := 2
  rateGts : Nat := 32                    -- the highest; any lower PCIe rate is a fallback
  bar0 : Nat := 0x10000                  -- 32-bit, non-prefetchable
  bar2 : Nat := 0x1000000                -- 64-bit, prefetchable
  maxPayload : Nat := 256
  vectors : Nat := 32                    -- MSI-X; no INTx and no MSI
  deriving DecidableEq, Repr

/-- What a configuration request finds: nothing before the endpoint answers (R44, R45/02). -/
def configAnswer (s : State) : Option Endpoint := if s.ctrl.pcieUp then some {} else none

/-- The I2C address: 0b1011 and the levels of ADDR[2:0] at power-on (R46/02). -/
def i2cAddress (s : State) : Nat := 8 * 0b1011 + s.power.addrPins % 8

/-- The offsets the I2C path reaches (R47, R48/02). -/
def i2cReaches (off : Nat) : Bool := decide (off < 0x0500) || (decide (0x0F00 ≤ off) && decide (off < 0x1000))

def reaches (path : Path) (off : Nat) (s : State) : Bool := busWorks path s && (path == .pcie || i2cReaches off)

/-! Mailboxes and doorbells (R53, R54, R57/02). -/

/-- MB7 is owned by the other path (R57/02). -/
def foreign (path : Path) (mb : Nat) (s : State) : Bool := mb == 7 && (s.ctrl.i2cOwns != (path == .i2c))

/-- MBn takes no write and no doorbell now (R54, R57/02). -/
def mbClosed (path : Path) (mb : Nat) (s : State) : Bool :=
  bvBit s.ctrl.mbBusy mb || bvBit s.ctrl.mbDone mb || foreign path mb s

def overrun (mb : Nat) (s : State) : State := onCtrl (fun c => { c with mbOverrun := bvSet c.mbOverrun mb }) s

/-- Submit one mailbox, or set its overrun bit. BUSY stands from the doorbell on, so that the request cannot change before its
acceptance (DESIGN CHOICE, notes/assumptions/52.md). -/
def ring (path : Path) (mb : Nat) (s : State) : State :=
  if mbClosed path mb s then overrun mb s
  else onCtrl (fun c => { c with rung := c.rung ++ [mb], mbBusy := bvSet c.mbBusy mb }) s

/-- A write to DOORBELL: its set bits in ascending order (R53 to R55/02). -/
def doorbell (path : Path) (val : Word) (s : State) : State := forAll (ring path) (maskList 8 val.toNat) s

def execDoorbellWrite (path : Path) (val : Word) (s : State) : Res :=
  .next (onlyIf (busWorks path s) (doorbell path val) s)

/-- A write of one word inside a mailbox: byte order as R52. -/
def mailWrite (path : Path) (off : Nat) (val : Word) (s : State) : State :=
  let mb := (off - 0x0800) / 256
  if mbClosed path mb s then overrun mb s
  else onCtrl (fun c => { c with
    mail := tabSet (zeros 256) c.mail mb (overlay (off % 256) (natBE 4 val.toNat) (mailOf s mb)) }) s

/-- A write to MB_OWNER: only the I2C path's counts (R57/02). -/
def ownerWrite (path : Path) (val : Word) (s : State) : State :=
  onCtrl (fun c => { c with
    i2cOwns := if path = .pcie then c.i2cOwns
      else if bvBit val 0 then c.i2cOwns || !(bvBit c.mbBusy 7 || bvBit c.mbDone 7)
      else false }) s

def execMbOwnerWrite (path : Path) (val : Word) (s : State) : Res :=
  .next (onlyIf (busWorks path s) (ownerWrite path val) s)

/-- 10 s without an I2C transaction while MB7 is neither busy nor done: ownership returns to PCIe (R57/02). -/
def execMb7OwnerTimeout (s : State) : Res :=
  .next (onCtrl (fun c => { c with i2cOwns := c.i2cOwns && (bvBit c.mbBusy 7 || bvBit c.mbDone 7) }) s)

/-! Interrupt control (R68, R71/02). -/

/-- A write to INT_STATUS; a cause that sets a bit in the same access wins and raises its vector again (R71/02). -/
def intStatusClear (val causes : Word) (s : State) : State :=
  forAll raiseVector (maskList 32 causes.toNat)
    (onCtrl (fun c => { c with intStatus := c.intStatus &&& ~~~val }) s)

def execIntStatusClear (val causes : Word) (s : State) : Res :=
  .next (onlyIf (mailboxesWork s) (intStatusClear val causes) s)

/-- A write to INT_MASK; messages held in the pending-bit array go out where their mask bit is now clear. -/
def intMaskWrite (val : Word) (s : State) : State :=
  let s1 := onCtrl (fun c => { c with intMask := val }) s
  let due := (maskList 32 s.ev.pba.toNat).filter (fun v => !bvBit val v)
  onEv (fun e => { e with pba := e.pba &&& val }) (forAll sendMsix due s1)

/-! The event ring's registers (R63 to R65/02). -/

def ringSize : Nat := 4096

/-- ENABLE from 0 to 1: HEAD and TAIL to zero, the base captured, a first pass begun, earlier entries abandoned
(R64/02). -/
def evrEnable (s : State) : State :=
  onEv (fun e => { e with
    enable := true
    head := if e.enable then e.head else 0
    tail := if e.enable then e.tail else 0
    phase := if e.enable then e.phase else true
    base := if e.enable then e.base else 2 ^ 32 * e.baseHi.toNat + e.baseLo.toNat
    modIdx := if e.enable then e.modIdx else [] }) s

def execEvrEnable (s : State) : Res := .next (onlyIf (mailboxesWork s) evrEnable s)

def evrDisable (s : State) : State := onEv (fun e => { e with enable := false }) s

def execEvrDisable (s : State) : Res := .next (onlyIf (mailboxesWork s) evrDisable s)

/-- The entries between two indexes, from `a` forward to before `b`. -/
def passed (a b i : Nat) : Bool := decide ((i + ringSize - a) % ringSize < (b + ringSize - a) % ringSize)

/-- A write to EVR_TAIL: taken from the present TAIL forward to HEAD, ignored otherwise (R65/02); entries it passes stop
being pending (R69/02). -/
def evrTailWrite (val : Word) (s : State) : State :=
  let new := val.toNat % ringSize
  onEv (fun e =>
    let take := decide ((new + ringSize - e.tail) % ringSize ≤ (e.head + ringSize - e.tail) % ringSize)
    { e with
      tail := if take then new else e.tail
      modIdx := if take then
          (e.modIdx.map (fun v => (v.1, v.2.filter (fun i => !passed e.tail new i)))).filter (fun v => v.2 != [])
        else e.modIdx }) s

def execEvrTailWrite (val : Word) (s : State) : Res := .next (onlyIf (mailboxesWork s) (evrTailWrite val) s)

/-! Timecode capture (R50/02). -/

def pathNum : Path → Nat
  | .pcie => 0
  | .i2c => 1

/-- A read of TC_SEC_LO captures the timecode for its path (R50/02). -/
def execTcSecLoRead (path : Path) (s : State) : Res :=
  .next (onlyIf (busWorks path s)
    (onCtrl (fun c => { c with tcCap := tabSet 0 c.tcCap (pathNum path) (now s) })) s)

/-! The key window's registers (R72, R73/02). -/

def clearStaged (c : Ctrl) : Ctrl := { c with keySalt := 0, keyData := [], keyStaged := false }

/-- INSTALL: capture the selection, key and salt, erase the staging, set PENDING; refused while PENDING (R72/02). -/
def keyCapture (c : Ctrl) : Ctrl :=
  match c.keyJob with
  | some _ => { c with keyResult := 1 }
  | none =>
    { clearStaged c with
      keyJob := some
        { ctx := c.keySel.toNat % 65536, an := c.keySel.toNat / 65536 % 4
          key := (List.range 8).foldl (fun k i => 2 ^ 32 * k + (tabGet 0 c.keyData i).toNat) 0
          salt := c.keySalt.toNat } }

/-- CLEAR: erase the staged key, salt and KEY_SEL. -/
def keyErase (c : Ctrl) : Ctrl := { clearStaged c with keySel := 0 }

/-- INSTALL, with CLEAR in the same write acting after it (R72/02). -/
def execKeyInstall (clear : Bool) (s : State) : Res :=
  .next (onlyIf (busWorks .pcie s) (onCtrl (fun c => if clear then keyErase (keyCapture c) else keyCapture c)) s)

def execKeyClear (s : State) : Res := .next (onlyIf (busWorks .pcie s) (onCtrl keyErase) s)

/-- A write inside the key window. -/
def keyWrite (off : Nat) (val : Word) (c : Ctrl) : Ctrl :=
  if off = 0x1000 then { c with keySel := val &&& 0x3FFFF }
  else if off = 0x1004 then { c with keySalt := val, keyStaged := true }
  else if 0x1010 ≤ off ∧ off ≤ 0x102C then
    { c with keyData := tabSet 0 c.keyData ((off - 0x1010) / 4) val, keyStaged := true }
  else if off = 0x1030 then
    let c1 := if bvBit val 0 then keyCapture c else c
    if bvBit val 1 then keyErase c1 else c1
  else c

def execKeyStageWrite (off : Nat) (val : Word) (s : State) : Res :=
  need "register" (okOffset off) (onlyIf (busWorks .pcie s) (onCtrl (keyWrite off val)) s)

/-- 1 s without an INSTALL after the last staging write: the staged key is erased and RESULT is TIMEOUT (R73/02). -/
def execKeyStageTimeout (s : State) : Res :=
  .next (onCtrl (fun c => if c.keyStaged then { clearStaged c with keyResult := 8 } else c) s)

/-! BAR2 (R75/02). -/

/-- A write to BAR2 is discarded and counted (R75/02). -/
def execBar2Write (_off : Nat) (_val : Word) (s : State) : Res :=
  .next (onlyIf (busWorks .pcie s) (onCtrl (fun c => { c with winWrites := satAdd max32 c.winWrites 1 })) s)

/-! Register writes (R11/00, R48/02). -/

/-- Store a word of the MSI-X table. -/
def msixWrite (off : Nat) (val : Word) (s : State) : State :=
  onCtrl (fun c => { c with msixTable := tabSet 0 c.msixTable ((off - 0x2000) / 4) val }) s

def natClr (n : Nat) (val : Word) : Nat := ((BitVec.ofNat 32 n) &&& ~~~val).toNat

/-- A write to a BAR0 register: its writable fields are stored, RW1C bits written with 1 are cleared, RSV and RO fields
are ignored; a register with a behaviour of its own has it (R11/00, R48/02). -/
def regWrite (path : Path) (off : Nat) (val : Word) (s : State) : State :=
  if off = 0x0004 then onCtrl (fun c => { c with fallback := c.fallback && !bvBit val 7 }) s
  else if off = 0x0100 then intStatusClear val 0 s
  else if off = 0x0104 then intMaskWrite val s
  else if off = 0x0108 then onCtrl (fun c => { c with intPin := val.setWidth 2 }) s
  else if off = 0x0200 then doorbell path val s
  else if off = 0x0208 then onCtrl (fun c => { c with mbDone := c.mbDone &&& ~~~(val.setWidth 8) }) s
  else if off = 0x020C then onCtrl (fun c => { c with mbOverrun := c.mbOverrun &&& ~~~(val.setWidth 8) }) s
  else if off = 0x0210 then ownerWrite path val s
  else if off = 0x0300 then onEv (fun e => { e with baseLo := val &&& 0xFFFFF000 }) s
  else if off = 0x0304 then onEv (fun e => { e with baseHi := val }) s
  else if off = 0x0308 then if bvBit val 0 then evrEnable s else evrDisable s
  else if off = 0x0310 then evrTailWrite val s
  else if off = 0x0314 then onEv (fun e => { e with lost := natClr e.lost val }) s
  else if off = 0x0318 then onEv (fun e => { e with holdUs := val.toNat / 65536, count := val.toNat % 4096 }) s
  else if off = 0x0500 then onCtrl (fun c => { c with winSel := val }) s
  else if off = 0x0504 then onCtrl (fun c => { c with winWrites := natClr c.winWrites val }) s
  else if 0x0800 ≤ off ∧ off < 0x1000 then mailWrite path off val s
  else if 0x1000 ≤ off ∧ off < 0x1100 then onCtrl (keyWrite off val) s
  else if 0x2000 ≤ off ∧ off < 0x2200 then msixWrite off val s
  else s

/-! Register reads: what a read of BAR0 returns (R48/02). -/

def stageNum : Stage → Nat
  | .power => 0 | .rom => 1 | .load => 2 | .init => 3 | .ready => 4 | .recovery => 8 | .restart => 9 | .shutdown => 0xE

def bootStatus (s : State) : Nat :=
  2 ^ 12 * min 15 s.ctrl.restarts + 2 ^ 10 * s.ctrl.running + 2 ^ 8 * s.fw.active + 2 ^ 7 * b2n s.ctrl.fallback
    + stageNum s.ctrl.stage

/-- The lit ports, one bit each (R48/02). -/
def litPorts (s : State) : Nat := listMask (allPorts.filter (portLit s))

/-- The timecode capture of a path. -/
def captured (path : Path) (s : State) : Nat := tabGet 0 s.ctrl.tcCap (pathNum path)

def signed16 (v : Int) : Nat := (v % 65536).toNat

/-- What a read of an aligned word of BAR0 returns; RSV and WO fields read as zero, TC_SEC_LO as it is captured
(R11/00, R47, R48, R50, R72/02). -/
def bar0Read (path : Path) (off : Nat) (s : State) : Word :=
  if reaches path off s = false then 0
  else if 0x0800 ≤ off ∧ off < 0x1000 then
    BitVec.ofNat 32 (getU (off % 256) 4 (mailOf s ((off - 0x0800) / 256)))
  else if 0x2000 ≤ off ∧ off < 0x2200 then tabGet 0 s.ctrl.msixTable ((off - 0x2000) / 4)
  else match off with
    | 0x0000 => BitVec.ofNat 32 (0x92600000 + Config.revision.toNat)
    | 0x0004 => BitVec.ofNat 32 (bootStatus s)
    | 0x0008 => s.ctrl.fwVersion
    | 0x000C => s.ctrl.cfgGen
    | 0x0100 => s.ctrl.intStatus
    | 0x0104 => s.ctrl.intMask
    | 0x0108 => s.ctrl.intPin.setWidth 32
    | 0x0204 => s.ctrl.mbBusy.setWidth 32
    | 0x0208 => s.ctrl.mbDone.setWidth 32
    | 0x020C => s.ctrl.mbOverrun.setWidth 32
    | 0x0210 => BitVec.ofNat 32 (b2n s.ctrl.i2cOwns)
    | 0x0300 => s.ev.baseLo
    | 0x0304 => s.ev.baseHi
    | 0x0308 => BitVec.ofNat 32 (b2n s.ev.enable)
    | 0x030C => BitVec.ofNat 32 s.ev.head
    | 0x0310 => BitVec.ofNat 32 s.ev.tail
    | 0x0314 => BitVec.ofNat 32 s.ev.lost
    | 0x0318 => BitVec.ofNat 32 (65536 * s.ev.holdUs + s.ev.count)
    | 0x0400 => BitVec.ofNat 32 (64 * s.pair.role + litPorts s)
    | 0x0404 => BitVec.ofNat 32 (2 ^ 24 * (hottest s).1 + signed16 (hottest s).2)
    | 0x0408 => BitVec.ofNat 32 (2 ^ 24 * (lowestMargin s).1 + signed16 (marginField (lowestMargin s).2))
    | 0x0410 => BitVec.ofNat 32 (tcSec (captured path s))
    | 0x0414 => BitVec.ofNat 32 (tcSec (captured path s) / 2 ^ 32 % 65536)
    | 0x0418 => BitVec.ofNat 32 (tcNs (captured path s))
    | 0x041C => BitVec.ofNat 32 (tcFrac (captured path s))
    | 0x0500 => s.ctrl.winSel
    | 0x0504 => BitVec.ofNat 32 s.ctrl.winWrites
    | 0x1000 => s.ctrl.keySel
    | 0x1034 => BitVec.ofNat 32 (256 * b2n s.ctrl.keyJob.isSome + s.ctrl.keyResult)
    | 0x2800 => s.ev.pba
    | _ => 0

/-! Register writes by PCIe word and by I2C transaction (R46, R48/02). -/

/-- Registers of which an I2C transaction that writes some bytes keeps the others: the RW registers and the mailboxes. Of an
RW1C or WO register, a byte that is not written counts as zero. -/
def keepsBytes (off : Nat) : Bool :=
  [0x0104, 0x0108, 0x0210, 0x0300, 0x0304, 0x0308, 0x0310, 0x0318].contains off || decide (0x0800 ≤ off)

/-- The bytes an I2C transaction writes into the word at `off`: those of `data`, the first at offset `first`, which lie there.
The most significant byte of a word lies at its lowest offset (notes/assumptions/13.md). -/
def i2cBytes (first : Nat) (data : List Byte) (off : Nat) : List (Option Byte) :=
  (List.range 4).map (fun k => if off + k < first then none else data[off + k - first]?)

/-- The word written: the bytes of the transaction, and for the others the register's own, or zero. -/
def i2cWord (first : Nat) (data : List Byte) (off : Nat) (s : State) : Word :=
  let old := natBE 4 (bar0Read .i2c off s).toNat
  BitVec.ofNat 32 (getU 0 4 ((List.range 4).map (fun k =>
    ((i2cBytes first data off).getD k none).getD (if keepsBytes off then old.getD k 0 else 0))))

/-- An I2C write transaction: a 16-bit offset, then data bytes at offsets that rise by one. The bytes that fall into one
register act together (R46, R47/02). -/
def i2cWrite (addr first : Nat) (data : List Byte) (s : State) : State :=
  onlyIf (addr == i2cAddress s && !data.isEmpty) (fun s =>
    forAll (fun k s =>
      let off := 4 * (first / 4 + k) % 65536
      onlyIf (reaches .i2c off s) (regWrite .i2c off (i2cWord first data (4 * (first / 4 + k)) s)) s)
      (List.range ((first % 4 + data.length + 3) / 4)) s) s

/-- What an I2C read transaction of `n` bytes returns; no answer at another address (R46, R47/02). -/
def i2cRead (addr first n : Nat) (s : State) : Option (List Byte) :=
  if busWorks .i2c s && addr == i2cAddress s then
    some ((List.range n).map (fun k =>
      (natBE 4 (bar0Read .i2c ((first + k) % 65536 / 4 * 4) s).toNat).getD ((first + k) % 4) 0))
  else none

/-- REGISTER_WRITE: the management FIFO carries it (R19/01). -/
def accessWrite (a : Access) (s : State) : State :=
  match a with
  | .pcie off val => onlyIf (reaches .pcie off s) (fun s => readSmall .management (regWrite .pcie off val s)) s
  | .i2c addr first data => i2cWrite addr first data s

def okAccess : Access → Bool
  | .pcie off _ => okOffset off
  | .i2c addr first _ => decide (addr < 128) && decide (first < 65536)

def execRegisterWrite (a : Access) (s : State) : Res := need "register" (okAccess a) (accessWrite a s)

/-! Delivery of events (R64, R65, R67 to R69/02). -/

def ringFull (e : EvSt) : Bool := (e.head + 1) % ringSize == e.tail

/-- FLAGS of an entry: PHASE, URGENT, MIRRORED (R63/02). -/
def entryFlags (e : RingEntry) : Nat :=
  128 * b2n e.phase + 64 * b2n (isUrgent e.ev.vector) + 32 * b2n e.ev.mirrored

/-- The 32 bytes of an event entry (R63/02). -/
def eventBytes (e : RingEntry) : List Byte :=
  natBE 2 e.ev.code ++ [byteOf e.ev.vector, byteOf (entryFlags e)] ++ natBE 4 e.ev.seq ++ tcBytes12 e.ev.tc
    ++ natBE 2 e.ev.src ++ natBE 2 e.ev.tag ++ padTo 8 e.ev.data

/-- Byte `a` of host memory where the ring's entries stand: entry n at 32 n above the captured base (R63, R64/02). -/
def hostByte (s : State) (a : Nat) : Option Byte :=
  (s.ev.ring.filterMap (·.2)).find? (fun e => decide (e.addr ≤ a) && decide (a < e.addr + 32))
    |>.map (fun e => (eventBytes e).getD (a - e.addr) 0)

/-- Entries can be written now: the ring enabled with room, and no warm restart (R65, R80/02). -/
def canDeliver (s : State) : Bool :=
  s.ev.enable && !ringFull s.ev && s.ctrl.stage != .restart

/-- Write one event at HEAD, then advance HEAD and raise the event's vector (R64, R68, R69, R490/02). -/
def writeEntry (ev : Event) (s : State) : State :=
  let idx := s.ev.head
  let s1 := onEv (fun e => { e with
      ring := tabSet none e.ring idx (some ⟨ev, e.phase, e.base + 32 * idx⟩)
      head := (idx + 1) % ringSize
      phase := if idx + 1 = ringSize then !e.phase else e.phase
      modIdx := tabMod [] e.modIdx ev.vector (· ++ [idx]) }) s
  let s2 := raiseVector ev.vector s1
  onlyIf (decide (max 1 s.ev.count ≤ (tabGet [] s2.ev.modIdx ev.vector).length)) (sendMsix ev.vector) s2

/-- EVENTS_LOST is due: events were discarded, and a rejected entry does not go first (R65, R67/02). -/
def lostDue (s : State) : Bool := decide (0 < s.ev.lostSince) && !s.ev.rejected

/-- EVENTS_LOST, with the count discarded since the previous one, takes its SEQ and goes ahead of the backlog
(R65/02). -/
def queueLost (s : State) : State :=
  { s with
    ev := { s.ev with
      seq := (s.ev.seq + 1) % 2 ^ 32, lostSince := 0
      backlog := eventOf s 0x0102 8 0 0 (natBE 4 s.ev.lostSince) false :: s.ev.backlog }
    log := logPut (logEntryOf s 0x0102 8 0x40 s.ev.seq 0 0 (padTo 8 (natBE 4 s.ev.lostSince)) (zeros 16)) s.log }

/-- The host rejects the write of an entry: delivery halts, INT_STATUS bit 31 is set, and the event stays at the head of
the backlog; a full backlog loses its newest event for it (R67/02). -/
def rejectEntry (s : State) : State :=
  let excess := decide (backlogSize < s.ev.backlog.length)
  raiseVector 31 (onEv (fun e => { e with
    enable := false, rejected := true
    backlog := if excess then e.backlog.dropLast else e.backlog
    lost := if excess then satAdd max32 e.lost 1 else e.lost
    lostSince := if excess then satAdd max32 e.lostSince 1 else e.lostSince }) s)

/-- Write the next backlog entry. Injection point 0x1A3 rejects it; point 0x1A2 makes channel 0's read uncorrectable, so
the item is lost, counted, and the channel halts as R67 (R441, R443/16). -/
def writeNext (s : State) : State :=
  match s.ev.backlog with
  | [] => s
  | ev :: rest =>
    if injArmed s 0x1A3 then rejectEntry (injAct 0x1A3 s)
    else if injFor s 0x1A2 0 then
      haltDma 0 (injAct 0x1A2 s)
    else writeEntry ev (onEv (fun e => { e with backlog := rest, rejected := false }) s)

/-- EVENT_RING_WRITE: EVENTS_LOST when due, then the next backlog entry while there is room (R64, R65/02). -/
def ringWrite (s : State) : State :=
  if canDeliver s then
    if lostDue s then
      let s1 := writeNext (queueLost s)
      onlyIf (canDeliver s1) writeNext s1
    else writeNext s
  else s

def execEventRingWrite (s : State) : Res := .next (ringWrite s)

/-- The host rejects a DMA write while an entry waits (R67/02). -/
def execEvrDmaReject (s : State) : Res :=
  .next (onlyIf (canDeliver s && (lostDue s || !s.ev.backlog.isEmpty))
    (fun s => rejectEntry (onlyIf (lostDue s) queueLost s)) s)

/-- HOLD_US after the first pending entry of a moderated vector: its message goes out (R69/02). -/
def execMsixModerationTimer (v : Nat) (s : State) : Res :=
  need "vector" (okVec v)
    (onlyIf (!isImmediate v && !(tabGet [] s.ev.modIdx v).isEmpty) (sendMsix v) s)

/-- A unit raises an event of the tables with its class's vector, and the event-ingress FIFO is read; an unknown code or
source raises nothing (R66/02, R19/01). -/
def execEventRaise (code src tag : Nat) (data : List Byte) (s : State) : Res :=
  match vectorOf code src data with
  | none => .next s
  | some v => .next (readSmall .eventIngress (raise code v src tag data s))

/-- A mailbox whose opcode the module does not know (R58/02). -/
def execUnknownOpcode (mb : Nat) (s : State) : Res := need "mailbox" (okMb mb) (serveUnknown mb s)

end Sys2Proof.Machine
end

