-- ==== Sys2Proof/Machine/Dsp.lean ====
section
/-! DEFINITION. The receive signal path that no row carries a sample of (04_line_receive.md R120 to R123, R133 to R137, R140): the
overlap-save equalizer and its crossfade, the demultiplexer's bins and phase ramp, one step of the MIMO equalizer, and the pilot phase.
Views over the state: what they take as samples is an operand. -/

namespace Sys2Proof.Machine

/-! The overlap-save filter (R120, R121). -/

/-- Samples of an FFT block: its length, what it discards and what it advances by. -/
def fftSamples : Nat := 262144
def fftDiscard : Nat := 81920
def fftAdvance : Nat := fftSamples - fftDiscard

/-- The bin that holds a frequency from the port centre, MHz: 384 GHz in 262,144 bins. -/
def binOf (f : Int) : Int := f * fftSamples / (1000 * sampleRateG : Nat)

/-- The first and last bin of a band of the width of a subcarrier about a frequency. -/
def bandBins (centre : Int) : Int × Int := (binOf (centre - (occupiedMHz / 2 : Nat)), binOf (centre + (occupiedMHz / 2 : Nat)))

/-- A bin is one of subcarrier `k`'s. -/
def inBand (k : Nat) (bin : Int) : Bool := decide ((bandBins (scCentre k)).1 ≤ bin ∧ bin ≤ (bandBins (scCentre k)).2)

/-- The dispersion that a set applies to a bin: the total of the subcarrier whose bin it is, the base elsewhere (R121). -/
def binDispersion (c : CdSet) (bin : Int) : Int :=
  match (List.range 16).find? (fun k => inBand k bin) with
  | some k => c.base + offsetOf c k
  | none => c.base

/-! The crossfade of a dissolve (R123). -/

/-- The weight of the incoming store at `t`, in parts of the dissolve's length: none outside a dissolve. -/
def incomingWeight (e : CdEq) (t : Nat) : Nat := if e.state = 2 then min (blocksSince e t) (e.len - 1) + 1 else 0

/-- A sample of the equalizer's output, of those of the two stores' outputs: (1 - w) x active + w x incoming, as a numerator over the
length of the dissolve, or over 1. -/
def equalizerSample (e : CdEq) (t : Nat) (active incoming : Int) : Int × Nat :=
  let w := incomingWeight e t
  if e.state = 2 then (((e.len - w : Nat) : Int) * active + (w : Int) * incoming, e.len) else (active, 1)

/-! Demultiplexing and timing (R133, R134, R137). -/

/-- The centre about which a subcarrier's bins are taken, MHz: its place on the grid plus the frozen AFC offset. -/
def demuxCentre (s : State) (sc : Nat) : Int := scCentre sc + (rxPort s (scPort sc)).afc

/-- The bins of a lit subcarrier; those of a dark one are not processed. -/
def demuxBins (s : State) (sc : Nat) : Option (Int × Int) := if rxLit s sc then some (bandBins (demuxCentre s sc)) else none

/-- Samples of a symbol behind the demultiplexer, which runs at 44.0 GS/s. -/
def demuxOversampling : Nat := 2

/-- The phase ramp of the timing phase at a bin `d` from the subcarrier's centre, in turns: a numerator over 64 x 22,000 x 262,144. -/
def rampTurns (s : State) (sc : Nat) (d : Int) : Int := -(phaseOf s sc) * d * (1000 * sampleRateG : Nat)

/-! The 2 x 2 MIMO equalizer (R135): complex numbers as pairs of integers. -/

def cMul (a b : Int × Int) : Int × Int := (a.1 * b.1 - a.2 * b.2, a.1 * b.2 + a.2 * b.1)

def cConj (a : Int × Int) : Int × Int := (a.1, -a.2)

def cSub (a b : Int × Int) : Int × Int := (a.1 - b.1, a.2 - b.2)

def cSum (l : List (Int × Int)) : Int × Int := ((l.map (·.1)).sum, (l.map (·.2)).sum)

/-- One filter over its 25 samples. -/
def filterOut (h x : List (Int × Int)) : Int × Int := cSum ((h.zip x).map (fun e => cMul e.1 e.2))

/-- The outputs X and Y for the 25 samples of each polarization. -/
def mimoOut (l x y : List (Int × Int)) : (Int × Int) × (Int × Int) :=
  let f (k : Nat) := (l.drop (25 * k)).take 25
  (cSum [filterOut (f 0) x, filterOut (f 1) y], cSum [filterOut (f 2) x, filterOut (f 3) y])

/-- The level of the 64-QAM grid nearest to `v`, levels in units of `u`: odd from -7 to 7. -/
def nearestLevel (u : Nat) (v : Int) : Int := (2 * clampInt (-4) 3 (v / (2 * (u : Int))) + 1) * u

def nearestPoint (u : Nat) (v : Int × Int) : Int × Int := (nearestLevel u v.1, nearestLevel u v.2)

/-- The error that adapts the taps: before convergence on pilots alone, against the pilot known; after it on data symbols too, against
the nearest point of the grid. -/
def mimoError (conv : Bool) (u : Nat) (pilot : Option (Int × Int)) (out : Int × Int) : Int × Int :=
  match pilot with
  | some p => cSub p out
  | none => if conv then cSub (nearestPoint u out) out else (0, 0)

/-- One tap after a step of 2^-m on an error and the sample under it, in parts of 2^m. -/
def lmsTap (m : Nat) (e x h : Int × Int) : Int × Int :=
  let d := cMul e (cConj x)
  (2 ^ m * h.1 + d.1, 2 ^ m * h.2 + d.2)

/-! Carrier phase (R140). -/

/-- What a pilot shows: the received symbol turned back by the pilot known, whose angle is the carrier phase. -/
def pilotPhase (received known : Int × Int) : Int × Int := cMul received (cConj known)

/-- The quarter turn nearest to a phase, which a known pilot removes. -/
def quarterOf (z : Int × Int) : Nat :=
  if z.2.natAbs ≤ z.1.natAbs then (if 0 ≤ z.1 then 0 else 2) else (if 0 ≤ z.2 then 1 else 3)

/-- A point turned back by `k` quarter turns. -/
def turnBack : Nat → Int × Int → Int × Int
  | 0, z => z
  | k + 1, z => turnBack k (z.2, -z.1)

/-- Symbol times from a pilot to the next (R91/03). -/
def pilotSpacing : Nat := 35

/-- The phase `n` symbol times behind a pilot, interpolated to the next one: a numerator over 35 (the interpolation is linear:
DESIGN CHOICE, notes/assumptions/56.md). -/
def interpolated (a b : Int × Int) (n : Nat) : Int × Int :=
  (((pilotSpacing - n : Nat) : Int) * a.1 + (n : Int) * b.1, ((pilotSpacing - n : Nat) : Int) * a.2 + (n : Int) * b.2)

end Sys2Proof.Machine
end

