-- ==== Sys2Proof/Machine/Dispatch.lean ====
section
/-! DEFINITION. Dispatch: one arm per row of the table of operations and events. -/

namespace Sys2Proof.Machine

def exec (i : Instr) (s : State) : Host.Outcome State Fault Refusal :=
  match i with
  | .registerWrite a => Sys2Proof.Machine.execRegisterWrite a s
  | .doorbellWrite path val => Sys2Proof.Machine.execDoorbellWrite path val s
  | .mbOwnerWrite path val => Sys2Proof.Machine.execMbOwnerWrite path val s
  | .mb7OwnerTimeout => Sys2Proof.Machine.execMb7OwnerTimeout s
  | .intStatusClear val causes => Sys2Proof.Machine.execIntStatusClear val causes s
  | .evrEnable => Sys2Proof.Machine.execEvrEnable s
  | .evrDisable => Sys2Proof.Machine.execEvrDisable s
  | .evrTailWrite val => Sys2Proof.Machine.execEvrTailWrite val s
  | .tcSecLoRead path => Sys2Proof.Machine.execTcSecLoRead path s
  | .keyStageWrite off val => Sys2Proof.Machine.execKeyStageWrite off val s
  | .keyInstall clear => Sys2Proof.Machine.execKeyInstall clear s
  | .keyClear => Sys2Proof.Machine.execKeyClear s
  | .keyInstallDone => Sys2Proof.Machine.execKeyInstallDone s
  | .keyStageTimeout => Sys2Proof.Machine.execKeyStageTimeout s
  | .bar2Write off val => Sys2Proof.Machine.execBar2Write off val s
  | .unknownOpcode mb => Sys2Proof.Machine.execUnknownOpcode mb s
  | .sysIdentify mb => Sys2Proof.Machine.execSysIdentify mb s
  | .sysStatus mb => Sys2Proof.Machine.execSysStatus mb s
  | .sysReset mb => Sys2Proof.Machine.execSysReset mb s
  | .sysResetDelayEnd role => Sys2Proof.Machine.execSysResetDelayEnd role s
  | .sysQuiet mb los => Sys2Proof.Machine.execSysQuiet mb los s
  | .sysEvmask mb => Sys2Proof.Machine.execSysEvmask mb s
  | .sysEcho mb => Sys2Proof.Machine.execSysEcho mb s
  | .fwInfo mb => Sys2Proof.Machine.execFwInfo mb s
  | .fwBegin mb => Sys2Proof.Machine.execFwBegin mb s
  | .fwWrite mb => Sys2Proof.Machine.execFwWrite mb s
  | .fwVerify mb => Sys2Proof.Machine.execFwVerify mb s
  | .fwActivate mb same => Sys2Proof.Machine.execFwActivate mb same s
  | .fwActivateDone same => Sys2Proof.Machine.execFwActivateDone same s
  | .fwRestart mb => Sys2Proof.Machine.execFwRestart mb s
  | .warmRestartStart => Sys2Proof.Machine.execWarmRestartStart s
  | .warmRestartDone => Sys2Proof.Machine.execWarmRestartDone s
  | .vinRiseUvlo vin role addr => Sys2Proof.Machine.execVinRiseUvlo vin role addr s
  | .softStartAbort vin => Sys2Proof.Machine.execSoftStartAbort vin s
  | .railsInRegulation => Sys2Proof.Machine.execRailsInRegulation s
  | .bootThermalWait => Sys2Proof.Machine.execBootThermalWait s
  | .bootImageCheck ok => Sys2Proof.Machine.execBootImageCheck ok s
  | .bootLoadDone => Sys2Proof.Machine.execBootLoadDone s
  | .bootReady calOk => Sys2Proof.Machine.execBootReady calOk s
  | .bootWatchdog => Sys2Proof.Machine.execBootWatchdog s
  | .resetNAssert lowNs => Sys2Proof.Machine.execResetNAssert lowNs s
  | .resetNRelease role => Sys2Proof.Machine.execResetNRelease role s
  | .powerFailDetect vin => Sys2Proof.Machine.execPowerFailDetect vin s
  | .powerFailPathEnd vin role addr => Sys2Proof.Machine.execPowerFailPathEnd vin role addr s
  | .ovShutdown vin => Sys2Proof.Machine.execOvShutdown vin s
  | .ovRecover vin role addr => Sys2Proof.Machine.execOvRecover vin role addr s
  | .vinWarnTimer vin => Sys2Proof.Machine.execVinWarnTimer vin s
  | .coreRailTick ach => Sys2Proof.Machine.execCoreRailTick ach s
  | .paceMarginLow us => Sys2Proof.Machine.execPaceMarginLow us s
  | .streamFifoFullWrite x => Sys2Proof.Machine.execStreamFifoFullWrite x s
  | .streamFifoEmptyRead x => Sys2Proof.Machine.execStreamFifoEmptyRead x s
  | .smallFifoFullWrite x => Sys2Proof.Machine.execSmallFifoFullWrite x s
  | .mergedEventSample x gray => Sys2Proof.Machine.execMergedEventSample x gray s
  | .holdFlagValue x v => Sys2Proof.Machine.execHoldFlagValue x v s
  | .holdFlagAck x => Sys2Proof.Machine.execHoldFlagAck x s
  | .fifoResetRequest x core acked => Sys2Proof.Machine.execFifoResetRequest x core acked s
  | .fifoResetTimeout x => Sys2Proof.Machine.execFifoResetTimeout x s
  | .islandClockReturn x => Sys2Proof.Machine.execIslandClockReturn x s
  | .eventRaise code src tag data => Sys2Proof.Machine.execEventRaise code src tag data s
  | .eventRingWrite => Sys2Proof.Machine.execEventRingWrite s
  | .evrDmaReject => Sys2Proof.Machine.execEvrDmaReject s
  | .msixModerationTimer v => Sys2Proof.Machine.execMsixModerationTimer v s
  | .portLaser mb => Sys2Proof.Machine.execPortLaser mb s
  | .portTxenable mb lo => Sys2Proof.Machine.execPortTxenable mb lo s
  | .txEnableDone p => Sys2Proof.Machine.execTxEnableDone p s
  | .portTxdisable mb => Sys2Proof.Machine.execPortTxdisable mb s
  | .txFeedLoss p lo => Sys2Proof.Machine.execTxFeedLoss p lo s
  | .biasAlarm p child => Sys2Proof.Machine.execBiasAlarm p child s
  | .portTxpower mb feed => Sys2Proof.Machine.execPortTxpower mb feed s
  | .portFormat mb => Sys2Proof.Machine.execPortFormat mb s
  | .portTxstatus mb => Sys2Proof.Machine.execPortTxstatus mb s
  | .scTxpower mb => Sys2Proof.Machine.execScTxpower mb s
  | .scTxstatus mb => Sys2Proof.Machine.execScTxstatus mb s
  | .formatChangeCue idx at_ => Sys2Proof.Machine.execFormatChangeCue idx at_ s
  | .portRxenable mb lo => Sys2Proof.Machine.execPortRxenable mb lo s
  | .rxCalibrationDone p => Sys2Proof.Machine.execRxCalibrationDone p s
  | .portRxdisable mb => Sys2Proof.Machine.execPortRxdisable mb s
  | .portRxconfig mb => Sys2Proof.Machine.execPortRxconfig mb s
  | .portCdset mb => Sys2Proof.Machine.execPortCdset mb s
  | .portCdwrite mb => Sys2Proof.Machine.execPortCdwrite mb s
  | .portCdstart mb => Sys2Proof.Machine.execPortCdstart mb s
  | .portCdstatus mb => Sys2Proof.Machine.execPortCdstatus mb s
  | .portRxstatus mb => Sys2Proof.Machine.execPortRxstatus mb s
  | .portLtune mb => Sys2Proof.Machine.execPortLtune mb s
  | .ltuneSlewStep p => Sys2Proof.Machine.execLtuneSlewStep p s
  | .scRxconfig mb => Sys2Proof.Machine.execScRxconfig mb s
  | .scRxstatus mb => Sys2Proof.Machine.execScRxstatus mb s
  | .scResync mb => Sys2Proof.Machine.execScResync mb s
  | .lightPresent p power => Sys2Proof.Machine.execLightPresent p power s
  | .lightAbsent p power => Sys2Proof.Machine.execLightAbsent p power s
  | .afcDone p off => Sys2Proof.Machine.execAfcDone p off s
  | .afcTimeout p => Sys2Proof.Machine.execAfcTimeout p s
  | .cdScanDone p o => Sys2Proof.Machine.execCdScanDone p o s
  | .convergeTimeout p => Sys2Proof.Machine.execConvergeTimeout p s
  | .scConverge sc snr => Sys2Proof.Machine.execScConverge sc snr s
  | .scUnconverge sc snr => Sys2Proof.Machine.execScUnconverge sc snr s
  | .trackLossTimer p => Sys2Proof.Machine.execTrackLossTimer p s
  | .bgCalStep p a sl skew gain off fir => Sys2Proof.Machine.execBgCalStep p a sl skew gain off fir s
  | .shadowRotate p => Sys2Proof.Machine.execShadowRotate p s
  | .adcSliceFault p a sl => Sys2Proof.Machine.execAdcSliceFault p a sl s
  | .adcSliceRetire p a => Sys2Proof.Machine.execAdcSliceRetire p a s
  | .cdLoadDone p staged => Sys2Proof.Machine.execCdLoadDone p staged s
  | .dissolveStartCue idx at_ => Sys2Proof.Machine.execDissolveStartCue idx at_ s
  | .dissolveEnd p at_ => Sys2Proof.Machine.execDissolveEnd p at_ s
  | .cdTrackEstimate p res => Sys2Proof.Machine.execCdTrackEstimate p res s
  | .ltuneUpdate p => Sys2Proof.Machine.execLtuneUpdate p s
  | .linkQualityRefresh sc q => Sys2Proof.Machine.execLinkQualityRefresh sc q s
  | .rxClassChange sc stamp => Sys2Proof.Machine.execRxClassChange sc stamp s
  | .codewordEncode sc c => Sys2Proof.Machine.execCodewordEncode sc c s
  | .codewordDecode sc c r => Sys2Proof.Machine.execCodewordDecode sc c r s
  | .codewordReadPoint sc c r => Sys2Proof.Machine.execCodewordReadPoint sc c r s
  | .fecTruncatingRearm p => Sys2Proof.Machine.execFecTruncatingRearm p s
  | .fecCapTick p ach => Sys2Proof.Machine.execFecCapTick p ach s
  | .fecEngineRetire p => Sys2Proof.Machine.execFecEngineRetire p s
  | .prefecBerWindow sc => Sys2Proof.Machine.execPrefecBerWindow sc s
  | .portFecconfig mb => Sys2Proof.Machine.execPortFecconfig mb s
  | .portFecstatus mb => Sys2Proof.Machine.execPortFecstatus mb s
  | .scFecstats mb => Sys2Proof.Machine.execScFecstats mb s
  | .frameTransmit sc at_ => Sys2Proof.Machine.execFrameTransmit sc at_ s
  | .pilotCorrelation sc phase corr => Sys2Proof.Machine.execPilotCorrelation sc phase corr s
  | .candidateConvergeTimeout sc => Sys2Proof.Machine.execCandidateConvergeTimeout sc s
  | .frameReceive sc f => Sys2Proof.Machine.execFrameReceive sc f s
  | .defectTick => Sys2Proof.Machine.execDefectTick s
  | .pmSecond at_ => Sys2Proof.Machine.execPmSecond at_ s
  | .pmBinBoundary idx at_ => Sys2Proof.Machine.execPmBinBoundary idx at_ s
  | .pmBinFinal day => Sys2Proof.Machine.execPmBinFinal day s
  | .frameTrace mb => Sys2Proof.Machine.execFrameTrace mb s
  | .frameDefcfg mb => Sys2Proof.Machine.execFrameDefcfg mb s
  | .framePcset mb => Sys2Proof.Machine.execFramePcset mb s
  | .frameChan mb => Sys2Proof.Machine.execFrameChan mb s
  | .frameKcsend mb => Sys2Proof.Machine.execFrameKcsend mb s
  | .frameKcrecv mb => Sys2Proof.Machine.execFrameKcrecv mb s
  | .frameStamp mb => Sys2Proof.Machine.execFrameStamp mb s
  | .frameStatus mb => Sys2Proof.Machine.execFrameStatus mb s
  | .frameDefects mb => Sys2Proof.Machine.execFrameDefects mb s
  | .frameTribdef mb => Sys2Proof.Machine.execFrameTribdef mb s
  | .pmConfig mb => Sys2Proof.Machine.execPmConfig mb s
  | .pmTcaConfig mb => Sys2Proof.Machine.execPmTcaConfig mb s
  | .pmRead mb => Sys2Proof.Machine.execPmRead mb s
  | .pmClear mb => Sys2Proof.Machine.execPmClear mb s
  | .hubRole mb => Sys2Proof.Machine.execHubRole mb s
  | .hubGrant mb => Sys2Proof.Machine.execHubGrant mb s
  | .hubRelease mb => Sys2Proof.Machine.execHubRelease mb s
  | .hubJoin mb lo => Sys2Proof.Machine.execHubJoin mb lo s
  | .hubLeave mb => Sys2Proof.Machine.execHubLeave mb s
  | .hubStatus mb => Sys2Proof.Machine.execHubStatus mb s
  | .castConfig mb => Sys2Proof.Machine.execCastConfig mb s
  | .castStatus mb => Sys2Proof.Machine.execCastStatus mb s
  | .castingSlot p at_ => Sys2Proof.Machine.execCastingSlot p at_ s
  | .burstDetection p power corr freq => Sys2Proof.Machine.execBurstDetection p power corr freq s
  | .burstHeaderCheck p hdr => Sys2Proof.Machine.execBurstHeaderCheck p hdr s
  | .burstPayloadEnd p llrs => Sys2Proof.Machine.execBurstPayloadEnd p llrs s
  | .joinReceive p ident record => Sys2Proof.Machine.execJoinReceive p ident record s
  | .keepaliveReceive p ident msg => Sys2Proof.Machine.execKeepaliveReceive p ident msg s
  | .leaveReceive p ident => Sys2Proof.Machine.execLeaveReceive p ident s
  | .leafNumberTimeout p leaf => Sys2Proof.Machine.execLeafNumberTimeout p leaf s
  | .leafSilentTimeout p leaf => Sys2Proof.Machine.execLeafSilentTimeout p leaf s
  | .adjustAverage p leaf off powers => Sys2Proof.Machine.execAdjustAverage p leaf off powers s
  | .hubDispersionScan p leaf disp => Sys2Proof.Machine.execHubDispersionScan p leaf disp s
  | .beaconReceive p hdr llrs off => Sys2Proof.Machine.execBeaconReceive p hdr llrs off s
  | .beaconLockLoss p => Sys2Proof.Machine.execBeaconLockLoss p s
  | .joinSend p k => Sys2Proof.Machine.execJoinSend p k s
  | .ackTimeout p => Sys2Proof.Machine.execAckTimeout p s
  | .joinRetryWait p => Sys2Proof.Machine.execJoinRetryWait p s
  | .keepaliveSend p k => Sys2Proof.Machine.execKeepaliveSend p k s
  | .leaveSend p k => Sys2Proof.Machine.execLeaveSend p k s
  | .leafGrantApply p at_ => Sys2Proof.Machine.execLeafGrantApply p at_ s
  | .capabilityReceive p hdr llrs => Sys2Proof.Machine.execCapabilityReceive p hdr llrs s
  | .hostPortcfg mb => Sys2Proof.Machine.execHostPortcfg mb s
  | .hostEnable mb => Sys2Proof.Machine.execHostEnable mb s
  | .hostTxtaps mb => Sys2Proof.Machine.execHostTxtaps mb s
  | .hostLowpower mb => Sys2Proof.Machine.execHostLowpower mb s
  | .hostLowpowerDone nn => Sys2Proof.Machine.execHostLowpowerDone nn s
  | .hlWakeOnSignal l => Sys2Proof.Machine.execHlWakeOnSignal l s
  | .hostRetrain mb => Sys2Proof.Machine.execHostRetrain mb s
  | .hostLanestatus mb => Sys2Proof.Machine.execHostLanestatus mb s
  | .hostPortstatus mb => Sys2Proof.Machine.execHostPortstatus mb s
  | .hlDetectTest l sensed => Sys2Proof.Machine.execHlDetectTest l sensed s
  | .hlTrainingFrame l f => Sys2Proof.Machine.execHlTrainingFrame l f s
  | .hlTrainTimeout l => Sys2Proof.Machine.execHlTrainTimeout l s
  | .hlExchangeTimeout l => Sys2Proof.Machine.execHlExchangeTimeout l s
  | .hlSwitchTimeout l => Sys2Proof.Machine.execHlSwitchTimeout l s
  | .hlMarkerReceive l m => Sys2Proof.Machine.execHlMarkerReceive l m s
  | .hlRsCodeword l corrected bad headers => Sys2Proof.Machine.execHlRsCodeword l corrected bad headers s
  | .hlSerSecond l errs total => Sys2Proof.Machine.execHlSerSecond l errs total s
  | .hostLaneRetire l => Sys2Proof.Machine.execHostLaneRetire l s
  | .hostPacketIngress nn pk => Sys2Proof.Machine.execHostPacketIngress nn pk s
  | .labelLookup nn => Sys2Proof.Machine.execLabelLookup nn s
  | .labelFillDone line bad => Sys2Proof.Machine.execLabelFillDone line bad s
  | .packetAdmission => Sys2Proof.Machine.execPacketAdmission s
  | .packetEncrypt mism => Sys2Proof.Machine.execPacketEncrypt mism s
  | .slotFrameMap sc k at_ => Sys2Proof.Machine.execSlotFrameMap sc k at_ s
  | .creditReturn t => Sys2Proof.Machine.execCreditReturn t s
  | .tpeHeaderReceive t => Sys2Proof.Machine.execTpeHeaderReceive t s
  | .slotFrameRelease t => Sys2Proof.Machine.execSlotFrameRelease t s
  | .slotFrameDeadline t sc k dep => Sys2Proof.Machine.execSlotFrameDeadline t sc k dep s
  | .packetReceive t => Sys2Proof.Machine.execPacketReceive t s
  | .packetDecrypt mism => Sys2Proof.Machine.execPacketDecrypt mism s
  | .egressSend nn => Sys2Proof.Machine.execEgressSend nn s
  | .tribConfig mb => Sys2Proof.Machine.execTribConfig mb s
  | .tribStage mb => Sys2Proof.Machine.execTribStage mb s
  | .tribCommit mb => Sys2Proof.Machine.execTribCommit mb s
  | .tribStatus mb => Sys2Proof.Machine.execTribStatus mb s
  | .tribRemapCue idx at_ => Sys2Proof.Machine.execTribRemapCue idx at_ s
  | .labelSet mb => Sys2Proof.Machine.execLabelSet mb s
  | .labelGet mb => Sys2Proof.Machine.execLabelGet mb s
  | .labelCounters mb => Sys2Proof.Machine.execLabelCounters mb s
  | .labelProfile mb => Sys2Proof.Machine.execLabelProfile mb s
  | .labelStats mb => Sys2Proof.Machine.execLabelStats mb s
  | .labelTsread mb => Sys2Proof.Machine.execLabelTsread mb s
  | .ctxConfig mb => Sys2Proof.Machine.execCtxConfig mb s
  | .ctxLimits mb => Sys2Proof.Machine.execCtxLimits mb s
  | .ctxRollover mb => Sys2Proof.Machine.execCtxRollover mb s
  | .ctxErase mb => Sys2Proof.Machine.execCtxErase mb s
  | .ctxStatus mb => Sys2Proof.Machine.execCtxStatus mb s
  | .ctxLanes mb => Sys2Proof.Machine.execCtxLanes mb s
  | .rolloverCue idx at_ => Sys2Proof.Machine.execRolloverCue idx at_ s
  | .rolloverAnnounceReceive sc cell => Sys2Proof.Machine.execRolloverAnnounceReceive sc cell s
  | .cipherLaneRetire d => Sys2Proof.Machine.execCipherLaneRetire d s
  | .bulkRead c addr syms => Sys2Proof.Machine.execBulkRead c addr syms s
  | .bulkPartialWrite addr data syms => Sys2Proof.Machine.execBulkPartialWrite addr data syms s
  | .sweepStep onChip addr syms => Sys2Proof.Machine.execSweepStep onChip addr syms s
  | .sweepPassEnd onChip dur => Sys2Proof.Machine.execSweepPassEnd onChip dur s
  | .sandglassLeak g => Sys2Proof.Machine.execSandglassLeak g s
  | .pseudoChannelRetire g => Sys2Proof.Machine.execPseudoChannelRetire g s
  | .migrationRegionCopy bad => Sys2Proof.Machine.execMigrationRegionCopy bad s
  | .bulkSweep mb => Sys2Proof.Machine.execBulkSweep mb s
  | .bulkSandglassSet mb => Sys2Proof.Machine.execBulkSandglassSet mb s
  | .bulkStatus mb => Sys2Proof.Machine.execBulkStatus mb s
  | .bulkMemstatus mb => Sys2Proof.Machine.execBulkMemstatus mb s
  | .bulkBudgetRead mb => Sys2Proof.Machine.execBulkBudgetRead mb s
  | .bulkRetire mb => Sys2Proof.Machine.execBulkRetire mb s
  | .candidateActivityLoss c => Sys2Proof.Machine.execCandidateActivityLoss c s
  | .candidateMeasure offs phases => Sys2Proof.Machine.execCandidateMeasure offs phases s
  | .waitToRestoreExpiry c => Sys2Proof.Machine.execWaitToRestoreExpiry c s
  | .timingLock => Sys2Proof.Machine.execTimingLock s
  | .loscActivityLoss lost => Sys2Proof.Machine.execLoscActivityLoss lost s
  | .loscWarmupDone => Sys2Proof.Machine.execLoscWarmupDone s
  | .hourglassTick dT => Sys2Proof.Machine.execHourglassTick dT s
  | .tcSourceCompare => Sys2Proof.Machine.execTcSourceCompare s
  | .ppsInEdge at_ => Sys2Proof.Machine.execPpsInEdge at_ s
  | .todReceive msg => Sys2Proof.Machine.execTodReceive msg s
  | .todTimeout => Sys2Proof.Machine.execTodTimeout s
  | .ppsOutEdge at_ => Sys2Proof.Machine.execPpsOutEdge at_ s
  | .timeTransferTick p mOut farTakes => Sys2Proof.Machine.execTimeTransferTick p mOut farTakes s
  | .cueAnnounceRepeat idx => Sys2Proof.Machine.execCueAnnounceRepeat idx s
  | .cueAckReceive idx => Sys2Proof.Machine.execCueAckReceive idx s
  | .cueAnnounceReceive p a => Sys2Proof.Machine.execCueAnnounceReceive p a s
  | .cueUnackedCheck idx => Sys2Proof.Machine.execCueUnackedCheck idx s
  | .clkCandidate mb => Sys2Proof.Machine.execClkCandidate mb s
  | .clkConfig mb => Sys2Proof.Machine.execClkConfig mb s
  | .clkForce mb => Sys2Proof.Machine.execClkForce mb s
  | .clkHoldoverSet mb => Sys2Proof.Machine.execClkHoldoverSet mb s
  | .clkRefout mb => Sys2Proof.Machine.execClkRefout mb s
  | .clkStatus mb => Sys2Proof.Machine.execClkStatus mb s
  | .tcSet mb => Sys2Proof.Machine.execTcSet mb s
  | .tcSource mb => Sys2Proof.Machine.execTcSource mb s
  | .tcIo mb => Sys2Proof.Machine.execTcIo mb s
  | .tcTransfer mb => Sys2Proof.Machine.execTcTransfer mb s
  | .tcStatus mb => Sys2Proof.Machine.execTcStatus mb s
  | .cueRead mb => Sys2Proof.Machine.execCueRead mb s
  | .cueCancel mb => Sys2Proof.Machine.execCueCancel mb s
  | .cueStats mb => Sys2Proof.Machine.execCueStats mb s
  | .leaseFrameReceive fr => Sys2Proof.Machine.execLeaseFrameReceive fr s
  | .leaseExpiry => Sys2Proof.Machine.execLeaseExpiry s
  | .partnerLeaseExpiry => Sys2Proof.Machine.execPartnerLeaseExpiry s
  | .heartbeatSend => Sys2Proof.Machine.execHeartbeatSend s
  | .arbLostTimer => Sys2Proof.Machine.execArbLostTimer s
  | .pairLinkUp x => Sys2Proof.Machine.execPairLinkUp x s
  | .commitWindow k idx => Sys2Proof.Machine.execCommitWindow k idx s
  | .commitRecordReceive k idx late margin => Sys2Proof.Machine.execCommitRecordReceive k idx late margin s
  | .mirrorInterval at_ => Sys2Proof.Machine.execMirrorInterval at_ s
  | .mirrorRecordReceive r => Sys2Proof.Machine.execMirrorRecordReceive r s
  | .contextMirrorReceive m => Sys2Proof.Machine.execContextMirrorReceive m s
  | .scheduleReceive e => Sys2Proof.Machine.execScheduleReceive e s
  | .digestReceive d => Sys2Proof.Machine.execDigestReceive d s
  | .resyncCopyDone => Sys2Proof.Machine.execResyncCopyDone s
  | .emptyPointReceive t k => Sys2Proof.Machine.execEmptyPointReceive t k s
  | .rehearsalCue idx at_ inStep healthy => Sys2Proof.Machine.execRehearsalCue idx at_ inStep healthy s
  | .rehearsalReleaseTimeout => Sys2Proof.Machine.execRehearsalReleaseTimeout s
  | .pairConfig mb => Sys2Proof.Machine.execPairConfig mb s
  | .pairRehearse mb => Sys2Proof.Machine.execPairRehearse mb s
  | .pairStatus mb => Sys2Proof.Machine.execPairStatus mb s
  | .pairResync mb => Sys2Proof.Machine.execPairResync mb s
  | .monSyncReset n at_ => Sys2Proof.Machine.execMonSyncReset n at_ s
  | .monOutput n o => Sys2Proof.Machine.execMonOutput n o s
  | .monHousekeepingSlot n code ovl => Sys2Proof.Machine.execMonHousekeepingSlot n code ovl s
  | .monConfig mb => Sys2Proof.Machine.execMonConfig mb s
  | .monSync mb => Sys2Proof.Machine.execMonSync mb s
  | .monRead mb => Sys2Proof.Machine.execMonRead mb s
  | .monStatus mb => Sys2Proof.Machine.execMonStatus mb s
  | .monValue mb => Sys2Proof.Machine.execMonValue mb s
  | .thermSample temps => Sys2Proof.Machine.execThermSample temps s
  | .diodeValidityTimer ch d0 d1 => Sys2Proof.Machine.execDiodeValidityTimer ch d0 d1 s
  | .flashWindowChange t => Sys2Proof.Machine.execFlashWindowChange t s
  | .flashPageDone last same => Sys2Proof.Machine.execFlashPageDone last same s
  | .calSlewStep item a => Sys2Proof.Machine.execCalSlewStep item a s
  | .thermStatus mb => Sys2Proof.Machine.execThermStatus mb s
  | .thermSensor mb => Sys2Proof.Machine.execThermSensor mb s
  | .thermWarnSet mb => Sys2Proof.Machine.execThermWarnSet mb s
  | .calRead mb => Sys2Proof.Machine.execCalRead mb s
  | .calWrite mb => Sys2Proof.Machine.execCalWrite mb s
  | .calMeasure mb => Sys2Proof.Machine.execCalMeasure mb s
  | .calMeasureDone reading => Sys2Proof.Machine.execCalMeasureDone reading s
  | .calApply mb => Sys2Proof.Machine.execCalApply mb s
  | .calClear mb => Sys2Proof.Machine.execCalClear mb s
  | .pairLaneRetire l => Sys2Proof.Machine.execPairLaneRetire l s
  | .d2dLaneFault idx => Sys2Proof.Machine.execD2dLaneFault idx s
  | .d2dLaneRetire idx => Sys2Proof.Machine.execD2dLaneRetire idx s
  | .subcarrierRetire sc => Sys2Proof.Machine.execSubcarrierRetire sc s
  | .cueCoreRetire c => Sys2Proof.Machine.execCueCoreRetire c s
  | .watchdogExpiry c pc task => Sys2Proof.Machine.execWatchdogExpiry c pc task s
  | .illegalInstruction c pc task => Sys2Proof.Machine.execIllegalInstruction c pc task s
  | .coreFetchUe c data pc addr task => Sys2Proof.Machine.execCoreFetchUe c data pc addr task s
  | .coreRestartDone c => Sys2Proof.Machine.execCoreRestartDone c s
  | .injectionEnd pt => Sys2Proof.Machine.execInjectionEnd pt s
  | .logCopy => Sys2Proof.Machine.execLogCopy s
  | .faultPolicy mb => Sys2Proof.Machine.execFaultPolicy mb s
  | .faultStatus mb => Sys2Proof.Machine.execFaultStatus mb s
  | .faultClear mb => Sys2Proof.Machine.execFaultClear mb s
  | .faultInject mb => Sys2Proof.Machine.execFaultInject mb s
  | .faultInjstatus mb => Sys2Proof.Machine.execFaultInjstatus mb s
  | .faultTestpattern mb => Sys2Proof.Machine.execFaultTestpattern mb s
  | .faultTeststatus mb => Sys2Proof.Machine.execFaultTeststatus mb s
  | .faultDmarestart mb => Sys2Proof.Machine.execFaultDmarestart mb s
  | .logStatus mb => Sys2Proof.Machine.execLogStatus mb s
  | .logRead mb => Sys2Proof.Machine.execLogRead mb s
  | .logFreeze mb => Sys2Proof.Machine.execLogFreeze mb s
  | .logRearm mb => Sys2Proof.Machine.execLogRearm mb s
  | .logErase mb => Sys2Proof.Machine.execLogErase mb s
  | .paceSample dom idx cls => Sys2Proof.Machine.execPaceSample dom idx cls s
  | .tracerWindowCue idx at_ => Sys2Proof.Machine.execTracerWindowCue idx at_ s
  | .tracerRecord r => Sys2Proof.Machine.execTracerRecord r s
  | .perfSelect mb => Sys2Proof.Machine.execPerfSelect mb s
  | .perfRead mb => Sys2Proof.Machine.execPerfRead mb s
  | .perfTracer mb => Sys2Proof.Machine.execPerfTracer mb s
  | .perfTrdeliver mb => Sys2Proof.Machine.execPerfTrdeliver mb s
  | .perfTrstatus mb => Sys2Proof.Machine.execPerfTrstatus mb s
  | .portReset mb lo => Sys2Proof.Machine.execPortReset mb lo s
  | .portResetDone p ok => Sys2Proof.Machine.execPortResetDone p ok s
  | .perstRelease => Sys2Proof.Machine.execPerstRelease s
  | .candidateActivityReturn c => Sys2Proof.Machine.execCandidateActivityReturn c s
  | .hlLossOfSignal pair l => Sys2Proof.Machine.execHlLossOfSignal pair l s
  | .counterLineFillDone line bad => Sys2Proof.Machine.execCounterLineFillDone line bad s
  | .sliceRetryRecheck p a sl bad => Sys2Proof.Machine.execSliceRetryRecheck p a sl bad s

end Sys2Proof.Machine
end

