-- ==== Sys2Proof/Machine/Idle.lean ====
section
/-! DEFINITION. The idle step: what happens when no command waits. -/

namespace Sys2Proof.Machine

/-- Nothing is commanded: one nanosecond passes (DESIGN CHOICE, notes/assumptions/6.md). The timecode and the time since
reset run while the module has its rails; without them nothing changes. -/
def idle (s : State) : State :=
  { s with timing := { s.timing with
      tc := if s.power.powered then s.timing.tc + ticksNs 1 else s.timing.tc
      up := if s.power.powered then s.timing.up + ticksNs 1 else s.timing.up } }

end Sys2Proof.Machine
end

