-- ==== Sys2Proof/Machine/Windows.lean ====
section
/-! DEFINITION. What BAR2 shows: the on-module table that WIN_SEL selects, byte by byte (R75/02). A view of the state: no
command reads it into another part of the module. -/

namespace Sys2Proof.Machine

/-- Byte `b` of a byte string, zero beyond its end. -/
def byteAt (bs : List Byte) (b : Nat) : Byte := bs.getD b 0

/-- Table 0x01: the label table; a line uncorrectable in bulk memory reads as zeros (R268, R272/09). -/
def labelTableByte (s : State) (b : Nat) : Byte :=
  if 16 * (lastLabel + 1) ≤ b ∨ lineLost s (b / 64) then 0 else bulkByte s (labelBase + b)

/-- Table 0x02: the counter sets with their cached increments (R274/09). -/
def counterTableByte (s : State) (b : Nat) : Byte :=
  if 32 * (lastLabel + 1) ≤ b then 0 else byteAt (counterBytes s (b / 32)) (b % 32)

/-- Table 0x03: the contexts without their keys (R300/10). -/
def contextTableByte (s : State) (b : Nat) : Byte := if okCtx (b / 64) then byteAt (ctxView s (b / 64)) (b % 64) else 0

/-- Table 0x04: the cue table (R370/12). -/
def cueTableByte (s : State) (b : Nat) : Byte := if okCue (b / 32) then byteAt (cueBytes s (cueAt s (b / 32))) (b % 32) else 0

/-- Table 0x05: the PM history, 64 MiB, whose layout the spec does not give (R211/06); a region never written reads as zero. -/
def pmTableByte (s : State) (b : Nat) : Byte :=
  if decide (b < 0x04000000) && regionHeld s (regionOf (pmBase + b)) then
    Config.pmHistoryByte _ (s.frame.pm, s.frame.ep15, s.frame.ep24) b
  else 0

/-- Table 0x06: the snapshot, oldest first, and the continuous log from 1 MiB up (R446/16). -/
def logTableByte (s : State) (b : Nat) : Byte :=
  match (if b < 0x04000000 then logEntryAt s.log (b / 64) else none) with
  | some e => byteAt (logBytes { e with bad := e.bad || entryLost e }) (b % 64)
  | none => 0

/-- Table 0x07: the tracer buffer, while records are delivered into it (R459/17). -/
def tracerTableByte (s : State) (b : Nat) : Byte :=
  if s.tracer.delivery < 2 ∧ b < 0x00400000 then byteAt (tabGet [] s.tracer.buffer (b / 64)) (b % 64) else 0

/-- Table 0x08: the slot map, transmit and expected receive descriptor of every slot (R280/09). -/
def slotTableByte (s : State) (b : Nat) : Byte :=
  if b < 15360 then byteAt (natBE 2 (txDescriptor s (b / 4)) ++ natBE 2 (rxDescriptor s (b / 4))) (b % 4) else 0

/-- Byte `b` of a table; an unknown table reads as zero, as every table does beyond its end (R75/02). -/
def tableByte (s : State) (table b : Nat) : Byte :=
  match table with
  | 0x01 => labelTableByte s b
  | 0x02 => counterTableByte s b
  | 0x03 => contextTableByte s b
  | 0x04 => cueTableByte s b
  | 0x05 => pmTableByte s b
  | 0x06 => logTableByte s b
  | 0x07 => tracerTableByte s b
  | 0x08 => slotTableByte s b
  | _ => 0

/-- Byte `b` of BAR2, which is 16 MiB: WIN_SEL [31:24] names the table, [23:0] the window's offset in it in MiB
(R75/02). -/
def windowByte (s : State) (b : Nat) : Byte :=
  tableByte s (s.ctrl.winSel.toNat / 2 ^ 24) (s.ctrl.winSel.toNat % 2 ^ 24 * 0x00100000 + b)

end Sys2Proof.Machine
end

