-- ==== Sys2Proof/Safety.lean ====
section
/-! DEFINITION. The terms that statements use: a command completes, a mailbox command is accepted and answered, the parts of
the state, and what a machine that runs keeps. -/

namespace Sys2Proof.Machine

/-- The command answers a next state, of which `P` holds. -/
def Runs (c : Instr) (s : State) (P : State → Prop) : Prop := ∃ t, exec c s = .next t ∧ P t

/-- A command of shape `h` waits in mailbox `mb`, it is the next to be executed, and no common check stops it: the stage
takes it (R45, R78/02, R425/15), its length and zero bytes are as defined (R58), the role allows it (R61) and its
generation, where it is checked, is the present one (R56). -/
abbrev Accepted (h : Shape) (mb : Nat) (s : State) : Prop :=
  okMb mb = true ∧ accepts h.op mb s = true ∧ gate h (requestOf s mb) s = none

/-- Unsigned and signed field of the request in a mailbox, by offset in the payload and size. -/
def arg (s : State) (mb off n : Nat) : Nat := (requestOf s mb).u off n
def argI (s : State) (mb off n : Nat) : Int := (requestOf s mb).i off n

/-- The completion code in a mailbox's response. -/
def codeIn (s : State) (mb : Nat) : Nat := getU 7 1 (mailOf s mb)

/-- A field, and bytes, of the response payload in a mailbox. -/
def resp (s : State) (mb off n : Nat) : Nat := getU (16 + off) n (mailOf s mb)
def respBytes (s : State) (mb off n : Nat) : List Byte := field (16 + off) n (mailOf s mb)

/-- The mailbox has been answered with this code: RESPONSE is set, BUSY is clear, DONE is set (R51, R53). -/
abbrev AnsweredWith (c : Code) (mb : Nat) (t : State) : Prop :=
  codeIn t mb = codeNum c ∧ 128 ≤ getU 6 1 (mailOf t mb)
    ∧ bvBit t.ctrl.mbBusy mb = false ∧ bvBit t.ctrl.mbDone mb = true

/-- Answered OK. -/
abbrev AnsweredOk (mb : Nat) (t : State) : Prop := AnsweredWith .ok mb t

/-- An event of this code, source and data is the newest entry of the log, or the newest of the continuous log while the
ring is frozen (R445, R447/16). -/
def Logged (code src : Nat) (data : List Byte) (t : State) : Prop :=
  ∃ e, (if t.log.frozen then t.log.cont.head? else t.log.ring.head?) = some e
    ∧ e.code = code ∧ e.src = src ∧ e.data = padTo 8 data

/-- The parts of the state. -/
inductive Part where
  | pending | free | ctrl | ev | fw | power | cross | pace | txp | txs | rxp | rxs | fecp | fecs | frame | hub | lane
  | hport | svc | cipher | bulk | timing | cues | pair | mon | therm | flt | log | tracer | quiet
  deriving DecidableEq, Repr

/-- Two states agree in a part. -/
def Part.same : Part → State → State → Prop
  | .pending, s, t => t.pending = s.pending
  | .free, s, t => t.free = s.free
  | .ctrl, s, t => t.ctrl = s.ctrl
  | .ev, s, t => t.ev = s.ev
  | .fw, s, t => t.fw = s.fw
  | .power, s, t => t.power = s.power
  | .cross, s, t => t.cross = s.cross
  | .pace, s, t => t.pace = s.pace
  | .txp, s, t => t.txp = s.txp
  | .txs, s, t => t.txs = s.txs
  | .rxp, s, t => t.rxp = s.rxp
  | .rxs, s, t => t.rxs = s.rxs
  | .fecp, s, t => t.fecp = s.fecp
  | .fecs, s, t => t.fecs = s.fecs
  | .frame, s, t => t.frame = s.frame
  | .hub, s, t => t.hub = s.hub
  | .lane, s, t => t.lane = s.lane
  | .hport, s, t => t.hport = s.hport
  | .svc, s, t => t.svc = s.svc
  | .cipher, s, t => t.cipher = s.cipher
  | .bulk, s, t => t.bulk = s.bulk
  | .timing, s, t => t.timing = s.timing
  | .cues, s, t => t.cues = s.cues
  | .pair, s, t => t.pair = s.pair
  | .mon, s, t => t.mon = s.mon
  | .therm, s, t => t.therm = s.therm
  | .flt, s, t => t.flt = s.flt
  | .log, s, t => t.log = s.log
  | .tracer, s, t => t.tracer = s.tracer
  | .quiet, s, t => t.quiet = s.quiet

/-- What every step keeps of the rushes log: the ring, the continuous log and the record of a freeze within their sizes
(R445 to R447/16). -/
abbrev LogBounded (s : State) : Prop :=
  s.log.ring.length ≤ 16384 ∧ s.log.uncopied ≤ 16384 ∧ s.log.cont.length ≤ 1032192 ∧ s.log.after.length ≤ 256

/-- The bulk memory has its canonical form. -/
abbrev MemoryCanonical (s : State) : Prop := Memory.wf s.bulk.mem

/-- The request a mailbox command answers, and its mailbox: shape by shape what R58 checks. -/
def requestFor : Instr → Option (Shape × Nat)
  | .sysIdentify mb => some ((bareShape 0x0100), mb)
  | .sysStatus mb => some ((bareShape 0x0101), mb)
  | .sysReset mb => some (⟨0x0102, some 4, [(2, 2)]⟩, mb)
  | .sysQuiet mb _ => some (⟨0x0103, some 4, [(1, 3)]⟩, mb)
  | .sysEvmask mb => some (⟨0x0104, some 4, [(3, 1)]⟩, mb)
  | .sysEcho mb => some (⟨0x0105, none, []⟩, mb)
  | .fwInfo mb => some ((bareShape 0x0F00), mb)
  | .fwBegin mb => some (⟨0x0F01, some 12, []⟩, mb)
  | .fwWrite mb => some (⟨0x0F02, none, [(6, 2)]⟩, mb)
  | .fwVerify mb => some ((bareShape 0x0F03), mb)
  | .fwActivate mb _ => some ((bareShape 0x0F04), mb)
  | .fwRestart mb => some (⟨0x0F05, some 4, [(1, 3)]⟩, mb)
  | .portLaser mb => some (⟨0x0200, some 4, [(2, 2)]⟩, mb)
  | .portTxenable mb _ => some ((objShape 0x0201), mb)
  | .portTxdisable mb => some ((objShape 0x0202), mb)
  | .portTxpower mb _ => some (⟨0x0203, some 8, []⟩, mb)
  | .portFormat mb => some (⟨0x0204, some 30, [(1, 1)]⟩, mb)
  | .portTxstatus mb => some ((objShape 0x0205), mb)
  | .scTxpower mb => some (⟨0x0280, some 4, [(1, 1)]⟩, mb)
  | .scTxstatus mb => some ((objShape 0x0281), mb)
  | .portRxenable mb _ => some ((objShape 0x0206), mb)
  | .portRxdisable mb => some ((objShape 0x0207), mb)
  | .portRxconfig mb => some (⟨0x0208, some 24, [(21, 3)]⟩, mb)
  | .portCdset mb => some (⟨0x0209, some 84, [(1, 1), (14, 2)]⟩, mb)
  | .portCdwrite mb => some (⟨0x020A, some 72, [(1, 3)]⟩, mb)
  | .portCdstart mb => some (⟨0x020B, some 16, [(1, 1), (14, 2)]⟩, mb)
  | .portCdstatus mb => some ((objShape 0x020C), mb)
  | .portRxstatus mb => some ((objShape 0x020D), mb)
  | .portLtune mb => some (⟨0x020E, some 4, [(1, 1)]⟩, mb)
  | .scRxconfig mb => some (⟨0x0282, some 4, [(3, 1)]⟩, mb)
  | .scRxstatus mb => some ((objShape 0x0283), mb)
  | .scResync mb => some ((objShape 0x0284), mb)
  | .portFecconfig mb => some (⟨0x020F, some 4, [(3, 1)]⟩, mb)
  | .portFecstatus mb => some ((objShape 0x0210), mb)
  | .scFecstats mb => some ((objShape 0x0285), mb)
  | .frameTrace mb => some (⟨0x0300, some 132, [(3, 1)]⟩, mb)
  | .frameDefcfg mb => some (⟨0x0301, some 16, [(2, 2)]⟩, mb)
  | .framePcset mb => some (⟨0x0302, some 8, [(1, 3)]⟩, mb)
  | .frameChan mb => some (⟨0x0303, some 8, [(3, 1)]⟩, mb)
  | .frameKcsend mb => some (⟨0x0304, none, [(2, 2)]⟩, mb)
  | .frameKcrecv mb => some ((bareShape 0x0305), mb)
  | .frameStamp mb => some ((objShape 0x0306), mb)
  | .frameStatus mb => some ((objShape 0x0307), mb)
  | .frameDefects mb => some ((bareShape 0x0308), mb)
  | .frameTribdef mb => some (⟨0x0309, some 4, [(2, 2)]⟩, mb)
  | .pmConfig mb => some (⟨0x0380, some 4, [(1, 1)]⟩, mb)
  | .pmTcaConfig mb => some (⟨0x0381, some 16, [(6, 2)]⟩, mb)
  | .pmRead mb => some (⟨0x0382, some 8, [(3, 1), (6, 2)]⟩, mb)
  | .pmClear mb => some (⟨0x0383, some 4, [(1, 1)]⟩, mb)
  | .hubRole mb => some (⟨0x0400, some 4, [(2, 2)]⟩, mb)
  | .hubGrant mb => some (⟨0x0401, some 8, [(5, 3)]⟩, mb)
  | .hubRelease mb => some (⟨0x0402, some 4, []⟩, mb)
  | .hubJoin mb _ => some ((objShape 0x0403), mb)
  | .hubLeave mb => some ((objShape 0x0404), mb)
  | .hubStatus mb => some (⟨0x0405, some 4, [(2, 2)]⟩, mb)
  | .castConfig mb => some (⟨0x0480, some 8, []⟩, mb)
  | .castStatus mb => some ((objShape 0x0481), mb)
  | .hostPortcfg mb => some (⟨0x0500, some 8, [(5, 3)]⟩, mb)
  | .hostEnable mb => some (⟨0x0501, some 4, [(2, 2)]⟩, mb)
  | .hostTxtaps mb => some (⟨0x0502, some 8, [(5, 3)]⟩, mb)
  | .hostRetrain mb => some ((objShape 0x0504), mb)
  | .hostLanestatus mb => some ((objShape 0x0505), mb)
  | .hostPortstatus mb => some ((objShape 0x0506), mb)
  | .tribConfig mb => some (⟨0x0600, some 16, [(14, 2)]⟩, mb)
  | .tribStage mb => some (⟨0x0601, some 12, [(9, 3)]⟩, mb)
  | .tribCommit mb => some (⟨0x0602, some 12, [(10, 2)]⟩, mb)
  | .tribStatus mb => some (⟨0x0603, some 4, [(2, 2)]⟩, mb)
  | .labelSet mb => some (⟨0x0680, some 20, []⟩, mb)
  | .labelGet mb => some (⟨0x0681, some 4, []⟩, mb)
  | .labelCounters mb => some (⟨0x0682, some 8, [(5, 3)]⟩, mb)
  | .labelProfile mb => some (⟨0x0683, some 6, [(1, 1)]⟩, mb)
  | .labelStats mb => some ((bareShape 0x0684), mb)
  | .labelTsread mb => some ((bareShape 0x0685), mb)
  | .ctxConfig mb => some (⟨0x0700, some 8, [(6, 2)]⟩, mb)
  | .ctxLimits mb => some (⟨0x0701, some 40, [(1, 7)]⟩, mb)
  | .ctxRollover mb => some (⟨0x0702, some 16, [(2, 2), (14, 2)]⟩, mb)
  | .ctxErase mb => some (⟨0x0703, some 4, [(3, 1)]⟩, mb)
  | .ctxStatus mb => some (⟨0x0704, some 4, [(2, 2)]⟩, mb)
  | .ctxLanes mb => some ((bareShape 0x0705), mb)
  | .bulkSweep mb => some (⟨0x0800, some 8, [(5, 3)]⟩, mb)
  | .bulkSandglassSet mb => some (⟨0x0801, some 8, [(1, 1)]⟩, mb)
  | .bulkStatus mb => some ((bareShape 0x0802), mb)
  | .bulkMemstatus mb => some ((objShape 0x0803), mb)
  | .bulkBudgetRead mb => some ((bareShape 0x0804), mb)
  | .bulkRetire mb => some (⟨0x0805, some 4, [(1, 1)]⟩, mb)
  | .clkCandidate mb => some (⟨0x0900, some 8, [(2, 2)]⟩, mb)
  | .clkConfig mb => some (⟨0x0901, some 28, [(26, 2)]⟩, mb)
  | .clkForce mb => some ((objShape 0x0902), mb)
  | .clkHoldoverSet mb => some (⟨0x0903, some 20, [(17, 3)]⟩, mb)
  | .clkRefout mb => some (⟨0x0904, some 8, [(2, 2)]⟩, mb)
  | .clkStatus mb => some ((bareShape 0x0905), mb)
  | .tcSet mb => some (⟨0x0940, some 12, []⟩, mb)
  | .tcSource mb => some (⟨0x0941, some 12, [(2, 2)]⟩, mb)
  | .tcIo mb => some (⟨0x0942, some 12, [(9, 3)]⟩, mb)
  | .tcTransfer mb => some (⟨0x0943, some 16, [(2, 2)]⟩, mb)
  | .tcStatus mb => some ((bareShape 0x0944), mb)
  | .cueRead mb => some (⟨0x0980, some 4, [(2, 2)]⟩, mb)
  | .cueCancel mb => some (⟨0x0981, some 4, [(2, 2)]⟩, mb)
  | .cueStats mb => some ((bareShape 0x0982), mb)
  | .pairConfig mb => some (⟨0x0A00, some 16, [(1, 1), (6, 2), (14, 2)]⟩, mb)
  | .pairRehearse mb => some (⟨0x0A01, some 12, [(10, 2)]⟩, mb)
  | .pairStatus mb => some ((bareShape 0x0A02), mb)
  | .pairResync mb => some ((bareShape 0x0A03), mb)
  | .monConfig mb => some (⟨0x0B00, some 16, []⟩, mb)
  | .monSync mb => some (⟨0x0B01, some 14, [(1, 3)]⟩, mb)
  | .monRead mb => some (⟨0x0B02, some 4, [(2, 2)]⟩, mb)
  | .monStatus mb => some (⟨0x0B03, some 4, [(2, 2)]⟩, mb)
  | .monValue mb => some (⟨0x0B04, some 4, [(1, 3)]⟩, mb)
  | .thermStatus mb => some ((bareShape 0x0B80), mb)
  | .thermSensor mb => some (⟨0x0B81, some 12, [(1, 3)]⟩, mb)
  | .thermWarnSet mb => some (⟨0x0B82, some 4, [(2, 2)]⟩, mb)
  | .calRead mb => some (⟨0x0C00, some 4, []⟩, mb)
  | .calWrite mb => some (⟨0x0C01, some 12, []⟩, mb)
  | .calMeasure mb => some (⟨0x0C02, some 16, [(3, 1), (14, 2)]⟩, mb)
  | .calApply mb => some (⟨0x0C03, some 4, [(1, 3)]⟩, mb)
  | .calClear mb => some (⟨0x0C04, some 4, []⟩, mb)
  | .faultPolicy mb => some (⟨0x0D00, some 12, [(2, 2), (9, 3)]⟩, mb)
  | .faultStatus mb => some (⟨0x0D01, some 4, [(1, 1)]⟩, mb)
  | .faultClear mb => some (⟨0x0D02, some 4, [(1, 3)]⟩, mb)
  | .faultInject mb => some (⟨0x0D03, some 8, []⟩, mb)
  | .faultInjstatus mb => some (⟨0x0D04, some 4, [(2, 2)]⟩, mb)
  | .faultTestpattern mb => some (⟨0x0D05, some 16, [(3, 1), (14, 2)]⟩, mb)
  | .faultTeststatus mb => some (⟨0x0D06, some 4, [(2, 2)]⟩, mb)
  | .faultDmarestart mb => some (⟨0x0D07, some 4, [(1, 3)]⟩, mb)
  | .logStatus mb => some ((bareShape 0x0D80), mb)
  | .logRead mb => some (⟨0x0D81, some 8, [(2, 2)]⟩, mb)
  | .logFreeze mb => some ((bareShape 0x0D82), mb)
  | .logRearm mb => some ((bareShape 0x0D83), mb)
  | .logErase mb => some (⟨0x0D84, some 4, [(1, 1)]⟩, mb)
  | .perfSelect mb => some (⟨0x0E00, some 8, [(4, 4)]⟩, mb)
  | .perfRead mb => some (⟨0x0E01, some 4, [(2, 2)]⟩, mb)
  | .perfTracer mb => some (⟨0x0E02, some 24, [(22, 2)]⟩, mb)
  | .perfTrdeliver mb => some (⟨0x0E03, some 16, [(2, 2), (12, 4)]⟩, mb)
  | .perfTrstatus mb => some ((bareShape 0x0E04), mb)
  | .portReset mb _ => some ((objShape 0x0211), mb)
  | .hostLowpower mb => some (⟨0x0503, some 4, [(2, 2)]⟩, mb)
  | _ => none

/-- The parts that a command may change: every other part is as it was. -/
def mayChange : Instr → List Part
  | .registerWrite _ => [.ctrl, .ev, .cross]
  | .intStatusClear _ _ | .unknownOpcode _ | .sysIdentify _ | .sysStatus _ | .sysReset _ | .sysEvmask _ | .sysEcho _ | .fwInfo _
  | .portTxstatus _ | .scTxstatus _ | .portCdstatus _ | .scRxstatus _ | .portFecstatus _ | .scFecstats _
  | .frameStamp _ | .frameStatus _ | .frameDefects _ | .frameTribdef _ | .pmRead _ | .hubStatus _ | .castStatus _
  | .hostLanestatus _ | .hostPortstatus _ | .tribStatus _ | .labelGet _ | .ctxStatus _ | .ctxLanes _ | .bulkStatus _
  | .bulkMemstatus _ | .clkStatus _ | .tcStatus _ | .cueRead _ | .cueStats _ | .pairStatus _ | .monValue _
  | .thermStatus _ | .calRead _ | .faultStatus _ | .faultInjstatus _ | .faultTeststatus _ | .logStatus _
  | .perfTrstatus _ => [.ctrl, .ev]
  | .doorbellWrite _ _ | .mbOwnerWrite _ _ | .mb7OwnerTimeout | .tcSecLoRead _ | .keyStageWrite _ _ | .keyInstall _
  | .keyClear | .keyStageTimeout | .bar2Write _ _ | .perstRelease => [.ctrl]
  | .bootLoadDone => [.ctrl, .fw]
  | .evrEnable | .evrDisable | .evrTailWrite _ | .msixModerationTimer _ => [.ev]
  | .keyInstallDone => [.ctrl, .frame, .cipher, .bulk, .cues, .pair]
  | .portRxstatus _ | .bulkBudgetRead _ | .perfRead _ => [.free, .ctrl, .ev]
  | .sysResetDelayEnd _
    => [.ctrl, .ev, .fw, .power, .cross, .pace, .txp, .txs, .rxp, .rxs, .fecp, .fecs, .frame, .hub, .lane, .hport,
        .svc, .cipher, .bulk, .timing, .cues, .pair, .mon, .therm, .flt, .log, .tracer, .quiet]
  | .vinRiseUvlo _ _ _ | .powerFailPathEnd _ _ _ | .ovRecover _ _ _ | .resetNAssert _
    => [.free, .ctrl, .ev, .fw, .power, .cross, .pace, .txp, .txs, .rxp, .rxs, .fecp, .fecs, .frame, .hub, .lane,
        .hport, .svc, .cipher, .bulk, .timing, .cues, .pair, .mon, .therm, .flt, .log, .tracer, .quiet]
  | .sysQuiet _ _ => [.free, .ctrl, .ev, .power, .txp, .rxp, .rxs, .fecp, .fecs, .frame, .hub, .cues, .pair, .log, .quiet]
  | .fwBegin _ => [.ctrl, .ev, .fw, .bulk]
  | .fwWrite _ => [.ctrl, .ev, .fw, .svc, .bulk, .flt, .log]
  | .fwVerify _ => [.ctrl, .ev, .fw, .bulk, .flt, .log]
  | .fwActivate _ _ | .bootReady _ => [.ctrl, .ev, .fw, .therm, .log]
  | .fwActivateDone _ => [.ctrl, .ev, .fw, .pair, .therm, .log]
  | .fwRestart _
    => [.free, .ctrl, .ev, .fw, .power, .txp, .rxp, .rxs, .fecp, .frame, .hub, .bulk, .cues, .pair, .therm, .log]
  | .warmRestartStart | .flashPageDone _ _ => [.ctrl, .ev, .fw, .pair, .therm, .flt, .log]
  | .warmRestartDone => [.ctrl, .ev, .fw, .svc, .pair, .flt, .log]
  | .softStartAbort _ | .ovShutdown _ => [.power]
  | .bootThermalWait => [.ctrl, .power]
  | .railsInRegulation => [.ctrl, .fw, .power]
  | .bootImageCheck _ => [.ctrl, .fw, .bulk]
  | .bootWatchdog
    => [.free, .ctrl, .ev, .fw, .txp, .rxp, .rxs, .fecp, .frame, .hub, .lane, .hport, .bulk, .cues, .pair, .log]
  | .resetNRelease _ => [.ctrl, .fw, .power, .pair]
  | .powerFailDetect _
    => [.free, .ctrl, .ev, .power, .txp, .rxp, .rxs, .fecp, .frame, .hub, .lane, .hport, .cues, .pair, .therm, .log]
  | .vinWarnTimer _ => [.ev, .power, .log]
  | .coreRailTick _ => [.ev, .power, .pace, .log]
  | .paceMarginLow _ | .fecCapTick _ _ => [.ev, .pace, .fecp, .log]
  | .streamFifoFullWrite _ => [.ev, .pace, .rxs, .frame, .lane, .svc, .pair, .flt, .log]
  | .streamFifoEmptyRead _ => [.ev, .pace, .flt, .log]
  | .smallFifoFullWrite _ | .fifoResetRequest _ _ _ | .fifoResetTimeout _ | .islandClockReturn _
    => [.cross, .frame, .svc, .mon]
  | .mergedEventSample _ _ | .holdFlagValue _ _ | .holdFlagAck _ => [.cross]
  | .eventRaise _ _ _ _ => [.ev, .cross, .log]
  | .eventRingWrite | .logCopy | .tracerRecord _ => [.ctrl, .ev, .flt, .log, .tracer]
  | .evrDmaReject | .logRearm _ => [.ctrl, .ev, .log]
  | .portLaser _ | .portTxdisable _ | .txFeedLoss _ _ => [.free, .ctrl, .ev, .power, .txp, .fecp, .hub, .pair, .log]
  | .portTxenable _ _ => [.ctrl, .ev, .power, .txp, .hub, .pair, .log]
  | .txEnableDone _ => [.free, .ctrl, .ev, .txp, .pair, .log]
  | .biasAlarm _ _ => [.ev, .txp, .log]
  | .portTxpower _ _ => [.ctrl, .ev, .txp, .pair]
  | .portFormat _ => [.ctrl, .ev, .txp, .cues, .pair]
  | .scTxpower _ => [.ctrl, .ev, .txs, .pair]
  | .formatChangeCue _ _ => [.ev, .txp, .txs, .rxp, .rxs, .fecs, .frame, .timing, .cues, .log]
  | .portRxenable _ _ => [.ctrl, .ev, .power, .rxp, .rxs, .fecs, .frame, .hub, .pair, .log]
  | .rxCalibrationDone _ => [.free, .ctrl, .ev, .rxp, .rxs, .cues, .pair, .log]
  | .portRxdisable _ => [.ctrl, .ev, .power, .rxp, .rxs, .fecp, .frame, .cues, .pair, .log]
  | .portRxconfig _ | .portCdwrite _ | .portLtune _ => [.ctrl, .ev, .rxp, .pair]
  | .portCdset _ | .portCdstart _ => [.ctrl, .ev, .rxp, .cues, .pair]
  | .ltuneSlewStep _ => [.rxp, .pair]
  | .scRxconfig _ => [.ctrl, .ev, .rxs, .fecs, .frame, .pair, .log]
  | .scResync _ => [.ctrl, .ev, .rxs, .frame, .log]
  | .lightPresent _ _ | .afcTimeout _ | .cdScanDone _ _ | .convergeTimeout _ | .trackLossTimer _
    => [.ev, .rxp, .rxs, .cues, .log]
  | .lightAbsent _ _ | .scConverge _ _ => [.ev, .rxp, .rxs, .log]
  | .afcDone _ _ | .shadowRotate _ => [.rxp]
  | .scUnconverge _ _ => [.ev, .rxs, .log]
  | .bgCalStep _ _ _ _ _ _ _ => [.ev, .cross, .rxp, .flt, .log]
  | .adcSliceFault _ _ _ => [.ev, .rxp, .flt, .log]
  | .adcSliceRetire _ _ => [.ev, .rxp, .therm, .flt, .log]
  | .cdLoadDone _ _ => [.rxp, .cues]
  | .dissolveStartCue _ _ | .dissolveEnd _ _ => [.ev, .rxp, .timing, .cues, .log]
  | .cdTrackEstimate _ _ => [.rxp, .rxs, .cues]
  | .ltuneUpdate _ => [.ev, .rxp, .pair, .log]
  | .linkQualityRefresh _ _ => [.free, .rxp, .rxs]
  | .rxClassChange _ _ => [.ev, .rxp, .rxs, .fecs, .frame, .cues, .log]
  | .codewordEncode _ _ => [.free, .ctrl, .ev, .power, .txp, .fecp, .fecs, .hub, .pair, .therm, .flt, .log]
  | .codewordDecode _ _ _ => [.ev, .pace, .fecp, .fecs, .flt, .log]
  | .codewordReadPoint _ _ _ => [.ev, .pace, .fecp, .fecs, .frame, .flt, .log]
  | .fecTruncatingRearm _ => [.fecp]
  | .fecEngineRetire _ => [.ev, .fecp, .therm, .flt, .log]
  | .prefecBerWindow _ => [.free, .fecs, .frame]
  | .portFecconfig _ => [.ctrl, .ev, .fecp, .pair, .log]
  | .frameTransmit _ _ => [.free, .ev, .pace, .txs, .frame, .svc, .timing, .pair, .flt, .log]
  | .pilotCorrelation _ _ _ | .candidateConvergeTimeout _ | .scheduleReceive _ => [.frame]
  | .frameReceive _ _ => [.free, .ev, .pace, .frame, .svc, .bulk, .flt, .log]
  | .defectTick => [.ev, .fecs, .frame, .log]
  | .pmSecond _ => [.ev, .rxs, .frame, .timing, .pair, .log]
  | .pmBinBoundary _ _ => [.ev, .frame, .bulk, .timing, .cues, .log]
  | .pmBinFinal _ => [.ev, .frame, .pair, .log]
  | .frameTrace _ | .frameDefcfg _ | .framePcset _ | .frameChan _ | .frameKcsend _ | .pmConfig _ | .pmTcaConfig _
  | .pmClear _ => [.ctrl, .ev, .frame, .pair]
  | .frameKcrecv _ => [.ctrl, .ev, .frame]
  | .hubRole _ => [.ctrl, .ev, .txp, .rxp, .rxs, .hub, .cues, .pair, .log]
  | .hubGrant _ | .hubRelease _ => [.ctrl, .ev, .txp, .hub, .cues, .pair]
  | .hubJoin _ _ => [.ctrl, .ev, .power, .txp, .hub, .pair]
  | .hubLeave _ | .ackTimeout _ => [.ctrl, .ev, .hub, .pair, .log]
  | .castConfig _ => [.ctrl, .ev, .txp, .hub, .pair]
  | .castingSlot _ _ => [.ev, .hub, .timing, .flt, .log]
  | .burstDetection _ _ _ _ | .burstPayloadEnd _ _ | .joinSend _ _ | .joinRetryWait _ | .keepaliveSend _ _
  | .leaveSend _ _ => [.hub]
  | .keepaliveReceive _ _ _ | .leafNumberTimeout _ _ | .joinReceive _ _ _ | .leafSilentTimeout _ _
  | .leaveReceive _ _ => [.ev, .txp, .hub, .cues, .pair, .log]
  | .burstHeaderCheck _ _ => [.ev, .hub, .flt, .log]
  | .beaconLockLoss _ => [.ev, .hub, .log]
  | .adjustAverage _ _ _ _ => [.free, .ev, .txp, .hub, .cues, .pair, .log]
  | .hubDispersionScan _ _ _ => [.rxp, .hub, .cues]
  | .beaconReceive _ _ _ _ => [.ctrl, .ev, .txp, .txs, .hub, .cues, .pair, .log]
  | .leafGrantApply _ _ => [.ev, .txp, .txs, .rxp, .rxs, .fecs, .frame, .hub, .svc, .bulk, .timing, .pair, .log]
  | .capabilityReceive _ _ _ => [.ev, .txp, .rxp, .rxs, .fecs, .frame, .hub, .cues, .log]
  | .hostPortcfg _ | .hostEnable _ => [.ctrl, .ev, .lane, .hport, .pair, .log]
  | .hostTxtaps _ => [.ctrl, .ev, .lane, .pair]
  | .hostLowpower _ => [.ctrl, .ev, .hport, .pair]
  | .hostLowpowerDone _ => [.ctrl, .ev, .lane, .hport]
  | .hostRetrain _ => [.ctrl, .ev, .lane, .hport, .pair]
  | .hlWakeOnSignal _ => [.hport]
  | .hlDetectTest _ _ => [.lane]
  | .hlTrainingFrame _ _ => [.free, .ev, .lane, .log]
  | .hlTrainTimeout _ | .hlExchangeTimeout _ | .hlSwitchTimeout _ | .hlMarkerReceive _ _ | .hlSerSecond _ _ _
    => [.ctrl, .ev, .lane, .hport, .flt, .log]
  | .hlRsCodeword _ _ _ _ => [.free, .ctrl, .ev, .lane, .hport, .flt, .log]
  | .hostLaneRetire _ => [.ctrl, .ev, .frame, .lane, .hport, .svc, .therm, .flt, .log]
  | .hostPacketIngress _ _ => [.ev, .frame, .hport, .svc, .log]
  | .labelLookup _ => [.ev, .pace, .svc, .flt, .log]
  | .labelFillDone _ _ => [.free, .ctrl, .ev, .pace, .svc, .cipher, .bulk, .flt, .log, .tracer]
  | .packetAdmission => [.free, .ev, .pace, .svc, .bulk, .pair, .flt, .log]
  | .packetEncrypt _ | .packetDecrypt _ => [.free, .ev, .pace, .svc, .cipher, .bulk, .flt, .log]
  | .slotFrameMap _ _ _ => [.ev, .frame, .svc, .flt, .log]
  | .creditReturn _ => [.svc]
  | .packetReceive _ | .bulkPartialWrite _ _ _ => [.ev, .svc, .bulk, .flt, .log]
  | .tpeHeaderReceive _ | .slotFrameRelease _ => [.ev, .svc, .log]
  | .slotFrameDeadline _ _ _ _ => [.free, .svc, .bulk]
  | .egressSend _ => [.pace, .hport, .svc, .pair]
  | .tribConfig _ => [.ctrl, .ev, .svc, .bulk, .pair]
  | .tribStage _ | .labelProfile _ | .pairResync _ => [.ctrl, .ev, .svc, .pair]
  | .tribCommit _ | .faultTestpattern _ => [.ctrl, .ev, .svc, .cues, .pair]
  | .tribRemapCue _ _ => [.ev, .txp, .svc, .bulk, .timing, .cues, .pair, .log]
  | .labelSet _ => [.ctrl, .ev, .svc, .bulk, .pair, .flt, .log]
  | .labelCounters _ => [.ctrl, .ev, .svc, .bulk, .flt, .log]
  | .labelStats _ | .labelTsread _ => [.ctrl, .ev, .svc]
  | .ctxConfig _ | .ctxErase _ => [.ctrl, .ev, .cipher, .bulk, .pair]
  | .ctxLimits _ => [.ctrl, .ev, .cipher, .pair]
  | .ctxRollover _ => [.ctrl, .ev, .frame, .cipher, .cues, .pair]
  | .rolloverCue _ _ => [.free, .ev, .pace, .svc, .cipher, .bulk, .timing, .cues, .flt, .log]
  | .rolloverAnnounceReceive _ _ => [.ev, .cipher, .log]
  | .cipherLaneRetire _ => [.ev, .cipher, .therm, .flt, .log]
  | .bulkRead _ _ _ => [.free, .ctrl, .ev, .frame, .svc, .cipher, .bulk, .flt, .log, .tracer]
  | .sweepStep _ _ _ | .counterLineFillDone _ _ => [.free, .ctrl, .ev, .svc, .cipher, .bulk, .flt, .log, .tracer]
  | .sweepPassEnd _ _ => [.ev, .bulk, .log]
  | .sandglassLeak _ => [.bulk]
  | .pseudoChannelRetire _ | .migrationRegionCopy _ | .bulkRetire _ => [.ctrl, .ev, .bulk, .pair, .therm, .flt, .log]
  | .bulkSweep _ | .bulkSandglassSet _ => [.ctrl, .ev, .bulk, .pair]
  | .candidateActivityLoss _ | .candidateMeasure _ _ | .waitToRestoreExpiry _ | .loscActivityLoss _
  | .hourglassTick _ | .todTimeout => [.ev, .timing, .log]
  | .timingLock | .loscWarmupDone | .ppsInEdge _ | .ppsOutEdge _ | .candidateActivityReturn _ => [.timing]
  | .tcSourceCompare => [.free, .ev, .frame, .bulk, .timing, .cues, .pair, .log]
  | .todReceive _ => [.ev, .timing, .flt, .log]
  | .timeTransferTick _ _ _ => [.ev, .frame, .timing, .log]
  | .cueAnnounceRepeat _ => [.frame, .cues]
  | .cueAckReceive _ => [.cues]
  | .cueAnnounceReceive _ _ => [.rxp, .frame, .cues]
  | .cueUnackedCheck _ => [.ev, .cues, .log]
  | .clkCandidate _ | .clkConfig _ | .clkForce _ => [.ctrl, .ev, .timing, .pair, .log]
  | .clkHoldoverSet _ | .clkRefout _ | .tcSource _ | .tcIo _ | .tcTransfer _ => [.ctrl, .ev, .timing, .pair]
  | .tcSet _ => [.ctrl, .ev, .frame, .bulk, .timing, .cues, .pair, .log]
  | .cueCancel _ => [.ctrl, .ev, .txp, .rxp, .frame, .svc, .cues, .pair, .tracer]
  | .leaseFrameReceive _ => [.ev, .frame, .svc, .cipher, .cues, .pair, .therm, .flt, .log]
  | .leaseExpiry => [.ev, .timing, .pair, .therm, .log]
  | .partnerLeaseExpiry => [.timing, .pair]
  | .heartbeatSend | .resyncCopyDone => [.pair]
  | .arbLostTimer | .rehearsalReleaseTimeout => [.ev, .pair, .log]
  | .pairLinkUp _ => [.ev, .lane, .svc, .cues, .pair, .log]
  | .commitWindow _ _ => [.ev, .svc, .timing, .pair, .flt, .log]
  | .commitRecordReceive _ _ _ _ => [.ev, .svc, .pair, .flt, .log]
  | .mirrorInterval _ => [.ev, .frame, .timing, .pair, .flt, .log]
  | .mirrorRecordReceive _
    => [.free, .ctrl, .ev, .power, .cross, .txp, .txs, .rxp, .rxs, .fecp, .fecs, .frame, .hub, .lane, .hport, .svc,
        .cipher, .bulk, .timing, .cues, .pair, .mon, .therm, .flt, .log, .tracer, .quiet]
  | .contextMirrorReceive _ => [.ev, .cipher, .pair, .log]
  | .digestReceive _ => [.ev, .svc, .pair, .log]
  | .emptyPointReceive _ _ => [.free, .svc]
  | .rehearsalCue _ _ _ _ => [.ev, .timing, .cues, .pair, .log]
  | .pairConfig _ => [.ctrl, .ev, .lane, .pair, .log]
  | .pairRehearse _ => [.ctrl, .ev, .cues, .pair]
  | .monSyncReset _ _ => [.ev, .timing, .cues, .mon, .log]
  | .monOutput _ _ => [.ev, .timing, .mon, .flt, .log]
  | .monHousekeepingSlot _ _ _ => [.ev, .mon, .therm, .flt, .log]
  | .monConfig _ | .monRead _ | .monStatus _ => [.ctrl, .ev, .mon]
  | .monSync _ => [.ctrl, .ev, .cues]
  | .thermSample _
    => [.free, .ctrl, .ev, .power, .txp, .rxp, .rxs, .fecp, .frame, .hub, .lane, .hport, .bulk, .cues, .pair, .therm,
        .log]
  | .diodeValidityTimer _ _ _ | .flashWindowChange _ => [.ev, .therm, .log]
  | .calSlewStep _ _ => [.rxp, .therm]
  | .thermSensor _ | .thermWarnSet _ | .calWrite _ | .calApply _ | .calClear _ => [.ctrl, .ev, .therm]
  | .calMeasure _ => [.ctrl, .ev, .cues, .therm]
  | .calMeasureDone _ => [.ctrl, .ev, .pair, .therm, .log]
  | .pairLaneRetire _ => [.ev, .lane, .svc, .pair, .therm, .flt, .log]
  | .d2dLaneFault _ | .illegalInstruction _ _ _ | .sliceRetryRecheck _ _ _ _ => [.ev, .flt, .log]
  | .d2dLaneRetire _
    => [.free, .ctrl, .ev, .power, .txp, .rxp, .rxs, .fecp, .frame, .hub, .cues, .pair, .therm, .flt, .log]
  | .subcarrierRetire _ => [.ev, .rxs, .frame, .svc, .bulk, .cues, .pair, .therm, .flt, .log]
  | .cueCoreRetire _ => [.fw, .therm, .flt]
  | .watchdogExpiry _ _ _ => [.ev, .fw, .therm, .flt, .log]
  | .coreFetchUe _ _ _ _ _ => [.ev, .fw, .bulk, .therm, .flt, .log]
  | .coreRestartDone _ => [.flt]
  | .injectionEnd _ => [.ev, .pace, .timing, .flt, .log]
  | .faultPolicy _ | .faultClear _ | .faultDmarestart _ => [.ctrl, .ev, .flt]
  | .faultInject _
    => [.free, .ctrl, .ev, .power, .pace, .txp, .rxp, .rxs, .fecp, .frame, .hub, .lane, .hport, .svc, .timing, .cues,
        .pair, .therm, .flt, .log]
  | .logRead _ => [.ctrl, .ev, .bulk, .flt, .log]
  | .logFreeze _ | .logErase _ => [.ctrl, .ev, .therm, .log]
  | .paceSample _ _ _ => [.pace, .flt]
  | .tracerWindowCue _ _ => [.ev, .timing, .cues, .log, .tracer]
  | .perfSelect _ => [.ctrl, .ev, .pace, .flt]
  | .perfTracer _ => [.ctrl, .ev, .cues, .pair, .log, .tracer]
  | .perfTrdeliver _ => [.ctrl, .ev, .tracer]
  | .portReset _ _
    => [.free, .ctrl, .ev, .power, .cross, .txp, .rxp, .rxs, .fecp, .fecs, .frame, .hub, .svc, .cues, .pair, .mon,
        .log]
  | .portResetDone _ _ => [.ctrl, .ev, .txp, .rxp, .pair, .log]
  | .hlLossOfSignal _ _ => [.ctrl, .ev, .lane, .hport, .svc, .pair, .flt, .log]

/-- The port a line command acts on: the one it names, that of its subcarrier, or that of its request. -/
def portOf (s : State) : Instr → Option Nat
  | .txEnableDone p | .txFeedLoss p _ | .biasAlarm p _ | .rxCalibrationDone p | .ltuneSlewStep p
  | .lightPresent p _ | .lightAbsent p _ | .afcDone p _ | .afcTimeout p | .cdScanDone p _
  | .convergeTimeout p | .trackLossTimer p | .bgCalStep p _ _ _ _ _ _ | .shadowRotate p | .adcSliceFault p _ _
  | .adcSliceRetire p _ | .cdLoadDone p _ | .dissolveEnd p _ | .cdTrackEstimate p _ | .ltuneUpdate p
  | .fecTruncatingRearm p | .fecCapTick p _ | .fecEngineRetire p | .castingSlot p _ | .burstDetection p _ _ _
  | .burstHeaderCheck p _ | .burstPayloadEnd p _ | .joinReceive p _ _ | .keepaliveReceive p _ _
  | .leaveReceive p _ | .leafNumberTimeout p _ | .leafSilentTimeout p _ | .adjustAverage p _ _ _
  | .hubDispersionScan p _ _ | .beaconReceive p _ _ _ | .beaconLockLoss p | .joinSend p _ | .ackTimeout p
  | .joinRetryWait p | .keepaliveSend p _ | .leaveSend p _ | .capabilityReceive p _ _
  | .timeTransferTick p _ _ | .cueAnnounceReceive p _ | .portResetDone p _ => some p
  | .scConverge sc _ | .scUnconverge sc _ | .linkQualityRefresh sc _ | .rxClassChange sc _
  | .codewordEncode sc _ | .codewordDecode sc _ _ | .codewordReadPoint sc _ _ | .prefecBerWindow sc
  | .frameTransmit sc _ | .pilotCorrelation sc _ _ | .candidateConvergeTimeout sc | .frameReceive sc _
  | .slotFrameMap sc _ _ | .subcarrierRetire sc => some (scPort sc)
  | .portLaser mb | .portTxenable mb _ | .portTxdisable mb | .portTxpower mb _ | .portFormat mb
  | .portRxenable mb _ | .portRxdisable mb | .portRxconfig mb | .portCdset mb | .portCdwrite mb
  | .portCdstart mb | .portLtune mb | .portFecconfig mb | .hubRole mb | .hubGrant mb | .hubRelease mb
  | .hubJoin mb _ | .hubLeave mb | .castConfig mb | .portReset mb _ => some (arg s mb 0 1)
  | .scTxpower mb | .scRxconfig mb | .scResync mb => some (scPort (arg s mb 0 1))
  | _ => none

/-- The line state of every port but `p`, and of its subcarriers, is as it was. -/
def OtherPortsKept (p : Nat) (s t : State) : Prop :=
  (∀ q, q ≠ p → txPort t q = txPort s q ∧ rxPort t q = rxPort s q ∧ fecPort t q = fecPort s q
    ∧ hubPort t q = hubPort s q ∧ frPort t q = frPort s q)
  ∧ ∀ sc, scPort sc ≠ p → txSc t sc = txSc s sc ∧ rxSc t sc = rxSc s sc ∧ fecSc t sc = fecSc s sc
    ∧ txFrame t sc = txFrame s sc ∧ rxFramer t sc = rxFramer s sc

end Sys2Proof.Machine
end

