-- ==== Sys2Proof/Certificates/Slice0/Obligations.lean ====
section
/-! DEFINITION. The statements for the provers. -/

open Sys2Proof Sys2Proof.Machine

/-- A step runs the command at the front of the queue. For every command c and state whose queue is c followed by rest,
step answers what exec answers for c on the state with the queue rest. (The queue is the model's own; log entry 6.) -/
def Obligations.StepRunsFrontCommand : Prop :=
  ∀ (c : Instr) (rest : List Instr) (s : State), s.pending = c :: rest → step s = exec c { s with pending := rest }

/-- Exactly the well-formed commands complete. In every state, exec answers a next state for a command exactly where the
command is well-formed, that is, where every object and address it names is one the module has; no command is
refused. -/
def Obligations.WellFormedCommandsComplete : Prop :=
  ∀ (c : Instr) (s : State), (c.wf = true ↔ ∃ t, exec c s = .next t) ∧ ∀ r, exec c s ≠ .refused r

/-- No command changes the queue of waiting commands. Whenever exec answers a next state, the queue of waiting commands
is as it was and the counter of free values has not gone back. (Both fields are the model's own; log entries 3 and
6.) -/
def Obligations.CommandsLeaveTheQueue : Prop :=
  ∀ (c : Instr) (s t : State), exec c s = .next t → t.pending = s.pending ∧ s.free ≤ t.free

/-- Every step keeps the bulk memory canonical, as reset leaves it. From every state whose bulk memory lists strictly
rising addresses and no zero byte, a step that answers a next state gives such a memory again; so equal memories are
equal lists. (The form of the memory is the model's own; an unlisted byte reads as zero, R331.) The bulk memory of
the state after reset has the canonical form, and every byte of it reads as zero. -/
def Obligations.StepKeepsMemoryCanonical : Prop :=
  (∀ s t : State, MemoryCanonical s → step s = .next t → MemoryCanonical t)
  ∧ (MemoryCanonical State.reset ∧ ∀ a, bulkByte State.reset a = 0)

/-- Every step keeps the rushes log within its sizes. The state after reset has its log within bounds, and from every
state whose ring holds at most 16,384 entries, whose continuous log at most 1,032,192 and whose after-freeze buffer
at most 256, a step that answers a next state keeps these bounds. -/
def Obligations.StepKeepsLogBounded : Prop :=
  LogBounded State.reset ∧ ∀ s t : State, LogBounded s → step s = .next t → LogBounded t

/-- Register writes, interrupt status, moderation and the timecode capture. Where the bus works, REGISTER_WRITE over
PCIe stores the writable fields, so that a read returns them: INT_PIN, EVR_BASE_LO, EVR_BASE_HI, EVR_MOD and
WIN_SEL; it clears the written 1s of MB_DONE, MB_OVERRUN, EVR_LOST and WIN_WRITES; a write to a read-only register,
and a write over I2C beyond the offsets that path reaches, changes no register (over PCIe, the full flag of the management
FIFO that carries it falls). BAR2_WRITE is discarded and counted in
WIN_WRITES, which saturates, and changes nothing else. On a powered module that is not held in reset,
INT_STATUS_CLEAR: afterwards a cause bit is set exactly where a cause sets it in the same access, or where it was
set and 1 was not written. MSIX_MODERATION_TIMER sends the message of an unmasked moderated vector that has pending
events, and its count starts anew; it changes nothing for an immediate vector. TC_SEC_LO_READ captures the present
timecode for its path and leaves the other path's capture. -/
def Obligations.RegisterWritesReadBack : Prop :=
  (∀ (val : Word) (b : Nat) (s : State),
    (busWorks .pcie s = true →
      Runs (.registerWrite (.pcie 0x0108 val)) s (fun t => bar0Read .pcie 0x0108 t = val &&& 3)
      ∧ Runs (.registerWrite (.pcie 0x0300 val)) s (fun t => bar0Read .pcie 0x0300 t = val &&& 0xFFFFF000)
      ∧ Runs (.registerWrite (.pcie 0x0304 val)) s (fun t => bar0Read .pcie 0x0304 t = val)
      ∧ Runs (.registerWrite (.pcie 0x0318 val)) s (fun t => bar0Read .pcie 0x0318 t = val &&& 0xFFFF0FFF)
      ∧ Runs (.registerWrite (.pcie 0x0500 val)) s (fun t => bar0Read .pcie 0x0500 t = val)
      ∧ (∀ off ∈ [0x0208, 0x020C, 0x0314, 0x0504], Runs (.registerWrite (.pcie off val)) s (fun t =>
          bar0Read .pcie off t = bar0Read .pcie off s &&& ~~~val))
      ∧ (∀ off ∈ [0x0000, 0x0008, 0x000C, 0x0204, 0x030C, 0x0400, 0x0404, 0x0408, 0x1034, 0x2800],
          Runs (.registerWrite (.pcie off val)) s (fun t => t = readSmall .management s)))
    ∧ (∀ off, okOffset off = true → i2cReaches off = false →
        exec (.registerWrite (.i2c (i2cAddress s) off (natBE 4 val.toNat))) s = .next s)
    ∧ (busWorks .pcie s = true → Runs (.bar2Write b val) s (fun t =>
        t = { s with ctrl := { s.ctrl with winWrites := min 0xFFFFFFFF (s.ctrl.winWrites + 1) } })))
  ∧ ((∀ (val causes : Word) (s : State), mailboxesWork s = true → Runs (.intStatusClear val causes) s (fun t => ∀ k, k < 32 →
      bvBit t.ctrl.intStatus k = (bvBit causes k || (bvBit s.ctrl.intStatus k && !bvBit val k))))
  ∧ (∀ (v : Nat) (s : State), okVec v = true → isImmediate v = false → tabGet [] s.ev.modIdx v ≠ [] →
      bvBit s.ctrl.intMask v = false →
      Runs (.msixModerationTimer v) s (fun t =>
        tabGet 0 t.ev.msix v = tabGet 0 s.ev.msix v + 1 ∧ tabGet [] t.ev.modIdx v = []))
  ∧ (∀ (v : Nat) (s : State), okVec v = true → isImmediate v = true → exec (.msixModerationTimer v) s = .next s)
  ∧ (∀ (path : Path) (s : State), busWorks path s = true → Runs (.tcSecLoRead path) s (fun t =>
      captured path t = now s ∧ ∀ q, q ≠ path → captured q t = captured q s)))

/-- DOORBELL_WRITE submits mailboxes or sets their overrun bits; ownership of MB7. Where the bus works, DOORBELL_WRITE
completes, and for each mailbox n: with its bit clear nothing of it changes; with its bit set while the mailbox is
busy, done or owned by the other path, its MB_OVERRUN bit is set and it is not submitted; otherwise it is BUSY,
waits once more in order, and its overrun bit is as it was. MB_OWNER_WRITE: an I2C write of 1 takes MB7 while it is
neither busy nor done and is ignored otherwise (an ownership held stays); an I2C write of 0 returns it; a PCIe write
is ignored. MB7_OWNER_TIMEOUT returns it while MB7 is neither busy nor done. -/
def Obligations.DoorbellSubmits : Prop :=
  (∀ (path : Path) (val : Word) (s : State), busWorks path s = true →
    Runs (.doorbellWrite path val) s (fun t => ∀ n, n < 8 →
      (bvBit val n = false →
        t.ctrl.rung.count n = s.ctrl.rung.count n ∧ bvBit t.ctrl.mbBusy n = bvBit s.ctrl.mbBusy n
          ∧ bvBit t.ctrl.mbOverrun n = bvBit s.ctrl.mbOverrun n)
      ∧ (bvBit val n = true → mbClosed path n s = true →
        t.ctrl.rung.count n = s.ctrl.rung.count n ∧ bvBit t.ctrl.mbOverrun n = true)
      ∧ (bvBit val n = true → mbClosed path n s = false →
        t.ctrl.rung.count n = s.ctrl.rung.count n + 1 ∧ bvBit t.ctrl.mbBusy n = true
          ∧ bvBit t.ctrl.mbOverrun n = bvBit s.ctrl.mbOverrun n)))
  ∧ (∀ (val : Word) (s : State),
    (busWorks .i2c s = true → bvBit val 0 = true → bvBit s.ctrl.mbBusy 7 = false → bvBit s.ctrl.mbDone 7 = false →
      Runs (.mbOwnerWrite .i2c val) s (fun t => t.ctrl.i2cOwns = true))
    ∧ (bvBit val 0 = true → (bvBit s.ctrl.mbBusy 7 || bvBit s.ctrl.mbDone 7) = true →
      exec (.mbOwnerWrite .i2c val) s = .next s)
    ∧ (busWorks .i2c s = true → bvBit val 0 = false → Runs (.mbOwnerWrite .i2c val) s (fun t => t.ctrl.i2cOwns = false))
    ∧ exec (.mbOwnerWrite .pcie val) s = .next s
    ∧ (bvBit s.ctrl.mbBusy 7 = false → bvBit s.ctrl.mbDone 7 = false →
      Runs .mb7OwnerTimeout s (fun t => t.ctrl.i2cOwns = false)))

/-- Raising events and writing them into the ring. EVENT_RAISE of a known, unsuppressed code takes the next SEQ; with
room it waits last in the backlog, with the vector of its class, with 512 waiting it is discarded and counted in EVR_LOST;
a suppressed one only takes its SEQ; an unknown code, or a source the module does not have, changes nothing. On a powered module that is not held in reset, EVR_ENABLE from 0
zeroes HEAD and TAIL, starts PHASE 1 and captures the base, and from 1 changes nothing; EVR_DISABLE clears ENABLE.
EVENT_RING_WRITE, while it can deliver and nothing was discarded or injected, writes the oldest event at HEAD with the
present phase and advances HEAD; while it cannot deliver it writes nothing. EVR_DMA_REJECT of a waiting entry clears
ENABLE, sets INT_STATUS bit 31 and keeps the event at the head of the backlog; with none waiting there is nothing to
reject. EVR_TAIL_WRITE takes an index from TAIL forward to HEAD and ignores any other. In reset or without power the
writes of EVR_CTL and EVR_TAIL reach nothing. -/
def Obligations.EventRingDelivery : Prop :=
  (∀ (code src tag v : Nat) (data : List Byte) (s : State), vectorOf code src data = some v →
      (suppressed s code = false → s.ev.backlog.length < 512 →
        Runs (.eventRaise code src tag data) s (fun t =>
          t.ev.seq = (s.ev.seq + 1) % 2 ^ 32 ∧ t.ev.lost = s.ev.lost
            ∧ ∃ e, t.ev.backlog = s.ev.backlog ++ [e] ∧ e.code = code ∧ e.seq = s.ev.seq ∧ e.tc = now s
              ∧ e.src = src ∧ e.tag = tag ∧ e.data = padTo 8 data
              ∧ e.vector = v))
      ∧ (suppressed s code = false → 512 ≤ s.ev.backlog.length →
        Runs (.eventRaise code src tag data) s (fun t =>
          t.ev.seq = (s.ev.seq + 1) % 2 ^ 32 ∧ t.ev.backlog = s.ev.backlog ∧ t.ev.lost = min 0xFFFFFFFF (s.ev.lost + 1)))
      ∧ (suppressed s code = true →
        Runs (.eventRaise code src tag data) s (fun t =>
          t.ev = { s.ev with seq := (s.ev.seq + 1) % 2 ^ 32 } ∧ t.ctrl = s.ctrl)))
  ∧ (∀ (code src tag : Nat) (data : List Byte) (s : State), vectorOf code src data = none →
      exec (.eventRaise code src tag data) s = .next s)
  ∧ (∀ s : State, mailboxesWork s = true → s.ev.enable = false → Runs .evrEnable s (fun t =>
      t.ev.enable = true ∧ t.ev.head = 0 ∧ t.ev.tail = 0 ∧ t.ev.phase = true ∧ t.ev.backlog = s.ev.backlog
        ∧ t.ev.base = 2 ^ 32 * s.ev.baseHi.toNat + s.ev.baseLo.toNat))
  ∧ (∀ s : State, mailboxesWork s = true → s.ev.enable = true → exec .evrEnable s = .next s)
  ∧ (∀ s : State, mailboxesWork s = true → Runs .evrDisable s (fun t =>
      t = { s with ev := { s.ev with enable := false } }))
  ∧ (∀ (val : Word) (s : State), mailboxesWork s = false →
      exec .evrEnable s = .next s ∧ exec .evrDisable s = .next s ∧ exec (.evrTailWrite val) s = .next s)
  ∧ (∀ s : State, canDeliver s = false → exec .eventRingWrite s = .next s ∧ exec .evrDmaReject s = .next s)
  ∧ (∀ (e : Event) (rest : List Event) (s : State), canDeliver s = true → lostDue s = false → s.ev.backlog = e :: rest →
      injArmed s 0x1A3 = false → injFor s 0x1A2 0 = false →
      Runs .eventRingWrite s (fun t =>
        tabGet none t.ev.ring s.ev.head = some ⟨e, s.ev.phase, s.ev.base + 32 * s.ev.head⟩
          ∧ t.ev.head = (s.ev.head + 1) % 4096 ∧ t.ev.backlog = rest
          ∧ (e.vector < 32 → bvBit t.ctrl.intStatus e.vector = true)))
  ∧ (∀ s : State, canDeliver s = true → lostDue s = false → s.ev.backlog ≠ [] → s.ev.backlog.length ≤ 512 →
      Runs .evrDmaReject s (fun t =>
        t.ev.enable = false ∧ t.ev.backlog = s.ev.backlog ∧ t.ev.lost = s.ev.lost ∧ bvBit t.ctrl.intStatus 31 = true))
  ∧ (∀ (val : Word) (s : State), mailboxesWork s = true →
      ((val.toNat % 4096 + 4096 - s.ev.tail) % 4096 ≤ (s.ev.head + 4096 - s.ev.tail) % 4096 →
        Runs (.evrTailWrite val) s (fun t => t.ev.tail = val.toNat % 4096 ∧ t.ev.head = s.ev.head))
      ∧ ((s.ev.head + 4096 - s.ev.tail) % 4096 < (val.toNat % 4096 + 4096 - s.ev.tail) % 4096 →
        exec (.evrTailWrite val) s = .next s))

/-- FIFO, merged-event and hold-and-flag crossings. A write into a full ADC, host-lane or pair-lane FIFO and a read of
an empty DAC FIFO are pace faults: the unit's fault count rises by one, saturating, and (DAC) PACE_FAULT names the
crossing, its object and the count; a lane's next block is taken as a first one. The other stream FIFOs have no such
fault. A write into a full small FIFO sets its overrun bit. A merged-event sample adds the modulo-2^32 difference of
the counter to the 64-bit total. A unit whose required rate is zero takes no part and is charged no fault. A hold-and-flag value starts a transfer, or replaces the pending value with a
count; an acknowledge delivers the value in flight and sends the pending one. A completed reset handshake empties
the crossing; without an acknowledge the request stands, after 2 us the crossing is held in reset, and the island's
returning clock ends that. -/
def Obligations.CrossingsBehave : Prop :=
  (∀ (p : Nat) (s : State), okPort p = true →
      Runs (.streamFifoFullWrite (.adcToCore p)) s (fun t => (paceUnit t (6 * p)).faults =
        if requiredUnits s (6 * p) = 0 then (paceUnit s (6 * p)).faults else min 0xFFFFFFFF ((paceUnit s (6 * p)).faults + 1))
      ∧ (requiredUnits s (6 * p + 5) ≠ 0 → Runs (.streamFifoEmptyRead (.coreToDac p)) s (fun t =>
        (paceUnit t (6 * p + 5)).faults = min 0xFFFFFFFF ((paceUnit s (6 * p + 5)).faults + 1)
          ∧ Logged 0x0E12 (6 * p + 5) ([2, byteOf p, 0, 0] ++ natBE 4 (paceUnit t (6 * p + 5)).faults) t))
      ∧ (requiredUnits s (6 * p + 5) = 0 → Runs (.streamFifoEmptyRead (.coreToDac p)) s (fun t =>
        (paceUnit t (6 * p + 5)).faults = (paceUnit s (6 * p + 5)).faults))
      ∧ exec (.streamFifoFullWrite (.coreToDac p)) s = .next s
      ∧ exec (.streamFifoEmptyRead (.adcToCore p)) s = .next s)
  ∧ (∀ (l : Nat) (s : State), okLane l = true →
      Runs (.streamFifoFullWrite (.hostRx l)) s (fun t =>
        (laneOf t l).bsn = none ∧ (paceUnit t 36).faults =
          if requiredUnits s 36 = 0 then (paceUnit s 36).faults else min 0xFFFFFFFF ((paceUnit s 36).faults + 1))
      ∧ exec (.streamFifoFullWrite (.hostTx l)) s = .next s)
  ∧ (∀ (l : Nat) (s : State), okPairLane l = true →
      Runs (.streamFifoFullWrite (.pairRx l)) s (fun t => (laneOf t (96 + l)).bsn = none ∧ (isStandIn s = true → t.pair.inStep = false)))
  ∧ (∀ (x : Small) (s : State), (x = .management ∨ x = .eventIngress) →
      Runs (.smallFifoFullWrite x) s (fun t => (fifoOf t (smallKey x)).overrun = true))
  ∧ (∀ (n : Nat) (s : State), okConv n = true → 4096 ≤ (convOf s n).fifo.length →
      Runs (.smallFifoFullWrite (.monitor n)) s (fun t => (convOf t n).overrun = true ∧ (convOf t n).fifo = (convOf s n).fifo))
  ∧ (∀ s : State, 1024 ≤ s.svc.tsFifo.length →
      Runs (.smallFifoFullWrite .timestamp) s (fun t => t.svc.tsOverrun = true ∧ t.svc.tsFifo = s.svc.tsFifo))
  ∧ (∀ (x : Merged) (g : Word) (s : State), okMerged x = true →
      Runs (.mergedEventSample x g) s (fun t =>
        (mergedOf t (mergedKey x)).last ^^^ ((mergedOf t (mergedKey x)).last >>> 1) = g
          ∧ (mergedOf t (mergedKey x)).total.toNat = ((mergedOf s (mergedKey x)).total.toNat
              + ((mergedOf t (mergedKey x)).last.toNat + 2 ^ 32 - (mergedOf s (mergedKey x)).last.toNat) % 2 ^ 32) % 2 ^ 64))
  ∧ (∀ (x : Hold) (v : Nat) (s : State), okHold x = true →
      Runs (.holdFlagValue x v) s (fun t =>
        ((holdOf s (holdKey x)).inFlight = none → (holdOf t (holdKey x)).inFlight = some v
          ∧ (holdOf t (holdKey x)).pending = (holdOf s (holdKey x)).pending)
        ∧ ((holdOf s (holdKey x)).inFlight ≠ none → (holdOf t (holdKey x)).pending = some v
          ∧ (holdOf t (holdKey x)).inFlight = (holdOf s (holdKey x)).inFlight
          ∧ (holdOf t (holdKey x)).overwrites = if (holdOf s (holdKey x)).pending.isSome then
              min 0xFFFFFFFF ((holdOf s (holdKey x)).overwrites + 1) else (holdOf s (holdKey x)).overwrites))
      ∧ Runs (.holdFlagAck x) s (fun t => ∀ u, (holdOf s (holdKey x)).inFlight = some u →
        (holdOf t (holdKey x)).dest = u ∧ (holdOf t (holdKey x)).inFlight = (holdOf s (holdKey x)).pending
          ∧ (holdOf t (holdKey x)).pending = none))
  ∧ (∀ (x : Fifo) (core : Bool) (s : State), okFifo x = true →
      Runs (.fifoResetRequest x core true) s (fun t => fifoOf t (fifoKey x) = {})
      ∧ Runs (.fifoResetRequest x true false) s (fun t => (fifoOf t (fifoKey x)).request = true
          ∧ (fifoOf t (fifoKey x)).held = (fifoOf s (fifoKey x)).held)
      ∧ ((fifoOf s (fifoKey x)).request = true → Runs (.fifoResetTimeout x) s (fun t => (fifoOf t (fifoKey x)).held = true
          ∧ (fifoOf t (fifoKey x)).full = false ∧ (fifoOf t (fifoKey x)).overrun = false))
      ∧ ((fifoOf s (fifoKey x)).held = true → Runs (.islandClockReturn x) s (fun t => fifoOf t (fifoKey x) = {})))

/-- The core rail and PACE_LOW follow the pace margins. CORE_RAIL_TICK from STAGE INIT on with an active datapath: a
margin below 12 % raises the rail by 5 mV to at most 0.82 V; with every measured margin above 20 % a tick that
follows 100 such ticks in a row (1 ms) lowers it by 5 mV and starts the next 1 ms, and an earlier one only counts;
otherwise it stays and the count starts anew; before INIT it stays. PACE_MARGIN_LOW stores the achievable rate;
below 3 % it raises PACE_LOW while armed, with the margin and the cap after any reduction, and disarms it; at 6 % it
is armed. -/
def Obligations.CoreRailFollowsMargins : Prop :=
  (∀ (ach : List Nat) (s : State),
      (railGoverned s = false → Runs (.coreRailTick ach) s (fun t => t.power.rail = s.power.rail))
      ∧ (railGoverned s = true → datapathIdle s = false → 620 ≤ s.power.rail →
        Runs (.coreRailTick ach) s (fun t =>
          ((∃ u m, u < 48 ∧ exactMargin t u = some m ∧ marginBelow m 120 = true) →
            t.power.rail = min 820 (s.power.rail + 5) ∧ t.power.highTicks = 0)
          ∧ ((∃ u m, u < 48 ∧ exactMargin t u = some m) → (∀ u m, u < 48 → exactMargin t u = some m → marginAbove m 200 = true) →
            620 < s.power.rail →
            (100 ≤ s.power.highTicks → t.power.rail = s.power.rail - 5 ∧ t.power.highTicks = 1)
            ∧ (s.power.highTicks < 100 → t.power.rail = s.power.rail ∧ t.power.highTicks = s.power.highTicks + 1))
          ∧ ((∀ u m, u < 48 → exactMargin t u = some m → marginBelow m 120 = false) →
            (∃ u m, u < 48 ∧ exactMargin t u = some m ∧ marginAbove m 200 = false) →
            t.power.rail = s.power.rail ∧ t.power.highTicks = 0))))
  ∧ (∀ (u ach : Nat) (s : State), okUnit u = true →
      Runs (.paceMarginLow [(u, ach)]) s (fun t => (paceUnit t u).ach = some ach
        ∧ ∀ m, exactMargin (onPaceUnit u (fun x => { x with ach := some ach }) s) u = some m →
          (marginBelow m 30 = true → (paceUnit t u).lowArmed = false ∧ ((paceUnit s u).lowArmed = true →
            Logged 0x0E11 u (intBE 2 (marginField (shownMargin m)) ++ [byteOf (capOf t u)]) t))
          ∧ (marginBelow m 60 = false → (paceUnit t u).lowArmed = true)))

/-- Lasers, transmit enable and disable, launch power. Accepted: port.laser stores LENp, and deasserting it on a
transmitting port loses the feed; port.txenable with a good feed answers DEFERRED and starts the sequence with the
attenuator at its maximum; TX_ENABLE_DONE turns the transmitter on with the bias locked and its output at the aim:
the launch target, or a leaf's casting power before its grant; port.txdisable turns it off; TX_FEED_LOSS below +9 dBm loses the feed; BIAS_ALARM of a transmitting port alarms the bias; port.txpower
stores a target within its range, and CD pre-compensation where it sets it on an idle transmitter; port.txstatus shows the state; sc.txpower stores the offset, sc.txstatus shows
class and frame count. -/
def Obligations.LineTransmit : Prop :=
  (∀ (mb : Nat) (s : State), Accepted ⟨0x0200, some 4, [(2, 2)]⟩ mb s → okPort (arg s mb 0 1) = true →
      (arg s mb 1 1 = 1 → Runs (.portLaser mb) s (fun t => AnsweredOk mb t ∧ (txPort t (arg s mb 0 1)).len = true
        ∧ (txPort t (arg s mb 0 1)).tx = (txPort s (arg s mb 0 1)).tx))
      ∧ (arg s mb 1 1 = 0 → transmitting s (arg s mb 0 1) = true → Runs (.portLaser mb) s (fun t => AnsweredOk mb t
        ∧ (txPort t (arg s mb 0 1)).len = false ∧ (txPort t (arg s mb 0 1)).tx = .feedLost)))
  ∧ (∀ (mb : Nat) (lo : Int) (s : State), Accepted ⟨0x0201, some 4, [(1, 3)]⟩ mb s → okPort (arg s mb 0 1) = true →
      ((hubPort s (arg s mb 0 1)).role = .leaf → (hubPort s (arg s mb 0 1)).owned ≠ 0) → ((txPort s (arg s mb 0 1)).tx = .off ∨ (txPort s (arg s mb 0 1)).tx = .feedLost) →
      resetting s (arg s mb 0 1) = false → feedGood s (arg s mb 0 1) lo = true →
      Runs (.portTxenable mb lo) s (fun t => AnsweredWith .deferred mb t ∧ (txPort t (arg s mb 0 1)).tx = .starting
        ∧ (txPort t (arg s mb 0 1)).bias = 1 ∧ (txPort t (arg s mb 0 1)).attn = 350
        ∧ ∀ q, q ≠ arg s mb 0 1 → txPort t q = txPort s q))
  ∧ (∀ (p : Nat) (s : State), okPort p = true → (txPort s p).tx = .starting →
      Runs (.txEnableDone p) s (fun t => (txPort t p).tx = .on ∧ (txPort t p).bias = 2 ∧ outputPower t p = launchAim s p
        ∧ ∀ q, q ≠ p → txPort t q = txPort s q))
  ∧ (∀ (mb : Nat) (s : State), Accepted ⟨0x0202, some 4, [(1, 3)]⟩ mb s → okPort (arg s mb 0 1) = true →
      (txPort s (arg s mb 0 1)).tx ≠ .off → Runs (.portTxdisable mb) s (fun t => AnsweredOk mb t
        ∧ (txPort t (arg s mb 0 1)).tx = .off ∧ (txPort t (arg s mb 0 1)).bias = 0 ∧ (txPort t (arg s mb 0 1)).attn = 350
        ∧ (txPort t (arg s mb 0 1)).power ≤ -4500))
  ∧ (∀ (p : Nat) (lo : Int) (s : State), okPort p = true → transmitting s p = true → (injOf s (0x01E + p)).running = false →
      lo < 900 → Runs (.txFeedLoss p lo) s (fun t => (txPort t p).tx = .feedLost ∧ (txPort t p).loTap = lo))
  ∧ (∀ (p child : Nat) (s : State), okPort p = true → child < 4 → transmitting s p = true →
      Runs (.biasAlarm p child) s (fun t => (txPort t p).bias = 3 ∧ (txPort t p).tx = (txPort s p).tx
        ∧ Logged 0x0203 p [byteOf p, byteOf child] t))
  ∧ (∀ (mb : Nat) (feed : Int) (s : State), Accepted ⟨0x0203, some 8, []⟩ mb s → okPort (arg s mb 0 1) = true →
      arg s mb 1 1 ≤ 1 → -150 ≤ argI s mb 2 2 → argI s mb 2 2 ≤ 10 → (argI s mb 2 2 ≤ -10 ∨ 1900 ≤ feed) →
      (arg s mb 1 1 = 1 → -20000 ≤ argI s mb 4 4 ∧ argI s mb 4 4 ≤ 20000 ∧ transmitting s (arg s mb 0 1) = false) →
      Runs (.portTxpower mb feed) s (fun t => AnsweredOk mb t ∧ (txPort t (arg s mb 0 1)).target = argI s mb 2 2
        ∧ (txPort t (arg s mb 0 1)).cdPre = if arg s mb 1 1 = 1 then argI s mb 4 4 else (txPort s (arg s mb 0 1)).cdPre))
  ∧ (∀ (mb : Nat) (s : State), Accepted ⟨0x0205, some 4, [(1, 3)]⟩ mb s → okPort (arg s mb 0 1) = true →
      Runs (.portTxstatus mb) s (fun t => AnsweredOk mb t ∧ resp t mb 0 1 = txStateNum (txPort s (arg s mb 0 1)).tx
        ∧ resp t mb 6 2 = attenuation s (arg s mb 0 1) % 65536 ∧ t.txp = s.txp))
  ∧ (∀ (mb : Nat) (s : State), Accepted ⟨0x0280, some 4, [(1, 1)]⟩ mb s → okSc (arg s mb 0 1) = true →
      -60 ≤ argI s mb 2 2 → argI s mb 2 2 ≤ 30 → Runs (.scTxpower mb) s (fun t => AnsweredOk mb t
        ∧ (txSc t (arg s mb 0 1)).offset = argI s mb 2 2 ∧ ∀ q, q ≠ arg s mb 0 1 → txSc t q = txSc s q))
  ∧ (∀ (mb : Nat) (s : State), Accepted ⟨0x0281, some 4, [(1, 3)]⟩ mb s → okSc (arg s mb 0 1) = true →
      Runs (.scTxstatus mb) s (fun t => AnsweredOk mb t ∧ resp t mb 0 1 = txClass s (arg s mb 0 1) % 256
        ∧ resp t mb 8 8 = (txSc s (arg s mb 0 1)).frames % 2 ^ 64))

/-- Format changes are placed on and take effect at a common boundary. Accepted on a port that is neither hub nor leaf,
has no change pending, and finds two free cues, port.format with permitted classes and a permitted boundary places
one change there with its cue and its remap cue, and the present classes stay. Its boundary, and the earliest one,
are multiples of 537,600 ns. FORMAT_CHANGE_CUE of a point-to-point port whose far end plays that role too, and has named
no classes or names those that the change leaves, sets exactly the classes of the mask and takes the change out. -/
def Obligations.FormatChanges : Prop :=
  (∀ (mb b i j : Nat) (s : State), Accepted ⟨0x0204, some 30, [(1, 1)]⟩ mb s → okPort (arg s mb 0 1) = true →
      (hubPort s (arg s mb 0 1)).role = .p2p → (txPort s (arg s mb 0 1)).changes = [] →
      (∀ k, k < 16 → bitOf (arg s mb 2 2) k = true → classOk (((field 14 16 (requestOf s mb).pay).map (·.toNat)).getD k 0) = true) →
      wantedBoundary 4 (requestOf s mb) s = some b → freeShared s = some i →
      freeShared (placeCue i { state := 1, kind := 1, origin := 0, obj := arg s mb 0 1, time := b, tag := (requestOf s mb).tag } s) = some j →
      Runs (.portFormat mb) s (fun t => AnsweredOk mb t
        ∧ (txPort t (arg s mb 0 1)).changes = [⟨b, arg s mb 2 2, (field 14 16 (requestOf s mb).pay).map (·.toNat), i, j⟩]
        ∧ (txPort t (arg s mb 0 1)).classes = (txPort s (arg s mb 0 1)).classes
        ∧ (cueAt t i).kind = 1 ∧ (cueAt t i).time = b ∧ (cueAt t j).kind = 4 ∧ (cueAt t j).time = b))
  ∧ (∀ (r : Req) (s : State) (off b : Nat), wantedBoundary off r s = some b →
      b % (537600 * 65536) = 0 ∧ now s + ticksMs 2 ≤ b)
  ∧ (∀ (i at_ : Nat) (c : FormatChange) (s : State), okCue i = true → dueOnGrid s i 1 at_ = true →
      (hubPort s (cueAt s i).obj).role = .p2p → (hubPort s (cueAt s i).obj).mism = false →
      ((hubPort s (cueAt s i).obj).far = [] ∨ ∀ k, k < 16 → supports (getU 1 1 (hubPort s (cueAt s i).obj).far)
        (if bitOf c.mask k then c.classes.getD k 0 else (txPort s (cueAt s i).obj).classes.getD k 0) = true) →
      (txPort s (cueAt s i).obj).changes = [c] → c.cue = i →
      Runs (.formatChangeCue i at_) s (fun t => (txPort t (cueAt s i).obj).changes = []
        ∧ (∀ k, k < 16 → (txPort t (cueAt s i).obj).classes.getD k 0 =
            (if bitOf c.mask k then c.classes.getD k 0 else (txPort s (cueAt s i).obj).classes.getD k 0))
        ∧ (cueAt t i).state = 0 ∧ ∀ q, q ≠ (cueAt s i).obj → txPort t q = txPort s q))

/-- The states of a receiver. port.rxenable from OFF with a good feed answers DEFERRED and calibrates;
RX_CALIBRATION_DONE leads to NO_LIGHT, or with light to AFC; port.rxdisable leads to OFF. LIGHT_PRESENT leads from
NO_LIGHT to AFC, LIGHT_ABSENT from any later state to NO_LIGHT. AFC_DONE leads a point-to-point port in AUTO to
CD_SCAN and in MANUAL to CONVERGE; AFC_TIMEOUT, a failed CD_SCAN and CONVERGE_TIMEOUT with none converged lead to
AFC again and count an acquisition; a CD_SCAN with a result loads it, a base within the scan window, and leads to CONVERGE.
A hub with no lit leaf keeps its gain parked. SC_CONVERGE marks the
subcarrier and leads to TRACK; SC_UNCONVERGE unmarks it; TRACK_LOSS_TIMER with none converged leads to AFC. -/
def Obligations.ReceiverAcquisition : Prop :=
  (∀ (mb : Nat) (lo : Int) (s : State), Accepted ⟨0x0206, some 4, [(1, 3)]⟩ mb s → okPort (arg s mb 0 1) = true →
      (rxPort s (arg s mb 0 1)).st = .off → resetting s (arg s mb 0 1) = false → feedGood s (arg s mb 0 1) lo = true →
      Runs (.portRxenable mb lo) s (fun t => AnsweredWith .deferred mb t ∧ (rxPort t (arg s mb 0 1)).st = .calibrate
        ∧ ∀ q, q ≠ arg s mb 0 1 → rxPort t q = rxPort s q))
  ∧ (∀ (p : Nat) (s : State), okPort p = true → (rxPort s p).st = .calibrate → Runs (.rxCalibrationDone p) s (fun t =>
      (rxPort t p).st = (if (rxPort s p).light then .afc else .noLight)))
  ∧ (∀ (mb : Nat) (s : State), Accepted ⟨0x0207, some 4, [(1, 3)]⟩ mb s → okPort (arg s mb 0 1) = true →
      (rxPort s (arg s mb 0 1)).st ≠ .off → Runs (.portRxdisable mb) s (fun t => AnsweredOk mb t
        ∧ (rxPort t (arg s mb 0 1)).st = .off))
  ∧ (∀ (p : Nat) (power : Int) (s : State), okPort p = true → (rxPort s p).st = .noLight → lightForced s p = false →
      10 * (rxPort s p).lolThr + 100 ≤ power → Runs (.lightPresent p power) s (fun t =>
        (rxPort t p).st = .afc ∧ (rxPort t p).light = true ∧ (rxPort t p).power = power ∧ (rxPort t p).gainFrozen = gainParked s p))
  ∧ (∀ (p : Nat) (power : Int) (s : State), okPort p = true → afterCalibrate (rxPort s p).st = true →
      power < 10 * (rxPort s p).lolThr → Runs (.lightAbsent p power) s (fun t =>
        (rxPort t p).st = .noLight ∧ (rxPort t p).light = false ∧ (rxPort t p).gainFrozen = true
          ∧ ∀ sc ∈ portScs p, (rxSc t sc).conv = false))
  ∧ (∀ (p : Nat) (off : Int) (s : State), okPort p = true → (rxPort s p).st = .afc → -10000 ≤ off → off ≤ 10000 →
      (hubPort s p).role = .p2p → Runs (.afcDone p off) s (fun t => (rxPort t p).afc = off
        ∧ (rxPort t p).st = (if (rxPort s p).manual then .converge else .cdScan)))
  ∧ (∀ (p : Nat) (s : State), okPort p = true → (rxPort s p).st = .afc → Runs (.afcTimeout p) s (fun t =>
      (rxPort t p).st = .afc ∧ (rxPort t p).acq = min max32 ((rxPort s p).acq + 1)))
  ∧ (∀ (p : Nat) (o : CdScores) (s : State), okPort p = true → (rxPort s p).st = .cdScan →
      (∀ b, scanBase (rxPort s p) o = some b → Runs (.cdScanDone p o) s (fun t => (rxPort t p).st = .converge
        ∧ (cdOf t p).active.base = b ∧ ((hubPort s p).role ≠ .hub → (cdOf t p).active.offsets = [])
        ∧ (rxPort s p).scanCentre - (rxPort s p).scanHalf ≤ b ∧ b ≤ (rxPort s p).scanCentre + (rxPort s p).scanHalf))
      ∧ (scanBase (rxPort s p) o = none →
        Runs (.cdScanDone p o) s (fun t => (rxPort t p).st = .afc ∧ (rxPort t p).acq = min max32 ((rxPort s p).acq + 1))))
  ∧ (∀ (p : Nat) (s : State), okPort p = true → (rxPort s p).st = .converge → ungrantedLeaf s p = false →
      convergedScs s p = [] → Runs (.convergeTimeout p) s (fun t => (rxPort t p).st = .afc))
  ∧ (∀ (sc : Nat) (snr : Int) (s : State), okSc sc = true → rxLit s sc = true → (rxSc s sc).conv = false →
      ((rxPort s (scPort sc)).st = .converge ∨ (rxPort s (scPort sc)).st = .track) →
      requiredSnr (rxClass s sc) - 300 ≤ snr → Runs (.scConverge sc snr) s (fun t => (rxSc t sc).conv = true
        ∧ (rxSc t sc).snr = snr ∧ (rxPort t (scPort sc)).st = .track))
  ∧ (∀ (sc : Nat) (snr : Int) (s : State), okSc sc = true → (rxSc s sc).conv = true →
      snr < requiredSnr (rxClass s sc) - 400 → Runs (.scUnconverge sc snr) s (fun t => (rxSc t sc).conv = false
        ∧ ∀ q, q ≠ sc → rxSc t q = rxSc s q))
  ∧ (∀ (p : Nat) (s : State), okPort p = true → (rxPort s p).st = .track → convergedScs s p = [] →
      Runs (.trackLossTimer p) s (fun t => (rxPort t p).st = .afc))

/-- Receive settings, status, link quality and class changes. Accepted with every field in its range, port.rxconfig
stores its fields and sc.rxconfig its class and loop setting; port.rxstatus and sc.rxstatus show the state;
sc.resync of a lit subcarrier restarts it in HUNT and counts it. LINK_QUALITY_REFRESH of a lit subcarrier stores the
EVM, derives SNR, margin and LQI from it (an EVM of zero aside, whose SNR is open) and holds the frequency loop within
3.5 GHz. RX_CLASS_CHANGE at an
announced frame takes the announced class. -/
def Obligations.ReceiveSettingsAndQuality : Prop :=
  (∀ (mb : Nat) (s : State), Accepted ⟨0x0208, some 24, [(21, 3)]⟩ mb s → okPort (arg s mb 0 1) = true →
      arg s mb 1 1 ≤ 1 → arg s mb 2 1 ≤ 1 → arg s mb 3 1 ≤ 1 → 1000 ≤ arg s mb 8 4 → arg s mb 8 4 ≤ 60000 →
      -60000 ≤ argI s mb 4 4 - (arg s mb 8 4 : Int) → argI s mb 4 4 + (arg s mb 8 4 : Int) ≤ 60000 →
      20 ≤ arg s mb 12 2 → arg s mb 12 2 ≤ 1000 → dissolveLenOk (arg s mb 14 2) = true →
      -350 ≤ argI s mb 16 2 → argI s mb 16 2 ≤ -200 → 100 ≤ arg s mb 18 2 → arg s mb 18 2 ≤ 1000 →
      10 ≤ arg s mb 20 1 → arg s mb 20 1 ≤ 50 → (arg s mb 2 1 = 0 ∨ (hubPort s (arg s mb 0 1)).role ≠ .hub) →
      Runs (.portRxconfig mb) s (fun t => AnsweredOk mb t
        ∧ (rxPort t (arg s mb 0 1)).manual = (arg s mb 1 1 == 1) ∧ (rxPort t (arg s mb 0 1)).follower = (arg s mb 2 1 == 1)
        ∧ (rxPort t (arg s mb 0 1)).polarity = arg s mb 3 1 ∧ (rxPort t (arg s mb 0 1)).scanCentre = argI s mb 4 4
        ∧ (rxPort t (arg s mb 0 1)).scanHalf = arg s mb 8 4 ∧ (rxPort t (arg s mb 0 1)).trackThr = arg s mb 12 2
        ∧ (rxPort t (arg s mb 0 1)).trackLen = arg s mb 14 2 ∧ (rxPort t (arg s mb 0 1)).lolThr = argI s mb 16 2
        ∧ (rxPort t (arg s mb 0 1)).ltThr = arg s mb 18 2 ∧ (rxPort t (arg s mb 0 1)).ltStep = arg s mb 20 1
        ∧ (rxPort t (arg s mb 0 1)).st = (rxPort s (arg s mb 0 1)).st))
  ∧ (∀ (mb : Nat) (s : State), Accepted ⟨0x020D, some 4, [(1, 3)]⟩ mb s → okPort (arg s mb 0 1) = true →
      Runs (.portRxstatus mb) s (fun t => AnsweredOk mb t ∧ resp t mb 0 1 = rxStateNum (rxPort s (arg s mb 0 1)).st
        ∧ resp t mb 60 4 = (rxPort s (arg s mb 0 1)).acq % 2 ^ 32 ∧ t.rxp = s.rxp ∧ t.rxs = s.rxs))
  ∧ (∀ (mb : Nat) (s : State), Accepted ⟨0x0282, some 4, [(3, 1)]⟩ mb s → okSc (arg s mb 0 1) = true →
      arg s mb 1 1 ≤ 6 → 6 ≤ arg s mb 2 1 → arg s mb 2 1 ≤ 14 →
      ((hubPort s (scPort (arg s mb 0 1))).role = .leaf → bitOf (hubPort s (scPort (arg s mb 0 1))).owned (scIdx (arg s mb 0 1)) = true) →
      Runs (.scRxconfig mb) s (fun t => AnsweredOk mb t ∧ (rxSc t (arg s mb 0 1)).cfg = arg s mb 1 1
        ∧ (rxSc t (arg s mb 0 1)).m = arg s mb 2 1))
  ∧ (∀ (mb : Nat) (s : State), Accepted ⟨0x0283, some 4, [(1, 3)]⟩ mb s → okSc (arg s mb 0 1) = true →
      Runs (.scRxstatus mb) s (fun t => AnsweredOk mb t ∧ resp t mb 0 1 = scState s (arg s mb 0 1)
        ∧ resp t mb 4 2 = (rxSc s (arg s mb 0 1)).evm % 65536 ∧ t.rxs = s.rxs))
  ∧ (∀ (mb : Nat) (s : State), Accepted ⟨0x0284, some 4, [(1, 3)]⟩ mb s → okSc (arg s mb 0 1) = true →
      rxLit s (arg s mb 0 1) = true → resetting s (scPort (arg s mb 0 1)) = false →
      Runs (.scResync mb) s (fun t => AnsweredOk mb t ∧ (rxSc t (arg s mb 0 1)).conv = false
        ∧ (rxSc t (arg s mb 0 1)).resyncs = min max32 ((rxSc s (arg s mb 0 1)).resyncs + 1)
        ∧ (rxFramer t (arg s mb 0 1)).st = .hunt))
  ∧ (∀ (sc : Nat) (q : LinkObs) (s : State), okSc sc = true → rxLit s sc = true → q.evm ≠ 0 →
      Runs (.linkQualityRefresh sc q) s (fun t => (rxSc t sc).evm = q.evm ∧ (rxSc t sc).snr = snrOfEvm q.evm
        ∧ (rxSc t sc).margin = snrOfEvm q.evm - requiredSnr (rxClass s sc)
        ∧ (rxSc t sc).lqi = lqiOf (rxSc s sc).conv (snrOfEvm q.evm - requiredSnr (rxClass s sc))
        ∧ ((rxSc s sc).conv = false → (rxSc t sc).lqi = 0) ∧ (rxSc t sc).lqi ≤ 255
        ∧ (rxSc t sc).freq = clampInt (-3500) 3500 q.freq))
  ∧ (∀ (sc stamp : Nat) (a : Announce) (s : State), okSc sc = true →
      (rxPort s (scPort sc)).ann.find? (fun a => a.boundary == stamp && bitOf a.mask (scIdx sc)) = some a →
      Runs (.rxClassChange sc stamp) s (fun t => (rxSc t sc).far = a.classes.getD (scIdx sc) 0
        ∧ ∀ q, q ≠ sc → rxSc t q = rxSc s q))

/-- Coefficient sets, dissolves and tracking. Accepted in MANUAL with the equalizer idle: port.cdset loads its set and
cues a dissolve to it; port.cdwrite loads its set without one; port.cdstart cues a dissolve to what the incoming
store holds; port.cdstatus shows the state and the active base. CD_LOAD_DONE ends a load. DISSOLVE_START_CUE starts
a cued dissolve; DISSOLVE_END with nothing staged exchanges the stores and counts it. CD_TRACK_ESTIMATE in TRACK and
AUTO beyond the threshold cues a dissolve to the corrected set. -/
def Obligations.DispersionEqualizer : Prop :=
  (∀ (mb c i : Nat) (s : State), Accepted ⟨0x0209, some 84, [(1, 1), (14, 2)]⟩ mb s → okPort (arg s mb 0 1) = true →
      dissolveLenOk (arg s mb 2 2) = true → totalsOk (readSet 16 20 (requestOf s mb)) = true →
      cdCue 4 (requestOf s mb) s = some c → cdDenied s (arg s mb 0 1) = false → (cdOf s (arg s mb 0 1)).state = 0 →
      freeShared s = some i → Runs (.portCdset mb) s (fun t => AnsweredOk mb t
        ∧ (cdOf t (arg s mb 0 1)).incoming = readSet 16 20 (requestOf s mb) ∧ (cdOf t (arg s mb 0 1)).loading = true
        ∧ (cdOf t (arg s mb 0 1)).state = 1 ∧ (cdOf t (arg s mb 0 1)).len = arg s mb 2 2 ∧ (cdOf t (arg s mb 0 1)).cue = i
        ∧ (cdOf t (arg s mb 0 1)).active = (cdOf s (arg s mb 0 1)).active ∧ (cueAt t i).kind = 3
        ∧ (cueAt t i).time = (cdOf t (arg s mb 0 1)).start))
  ∧ (∀ (mb : Nat) (s : State), Accepted ⟨0x020A, some 72, [(1, 3)]⟩ mb s → okPort (arg s mb 0 1) = true →
      totalsOk (readSet 4 8 (requestOf s mb)) = true → cdDenied s (arg s mb 0 1) = false → (cdOf s (arg s mb 0 1)).state = 0 →
      Runs (.portCdwrite mb) s (fun t => AnsweredOk mb t ∧ (cdOf t (arg s mb 0 1)).incoming = readSet 4 8 (requestOf s mb)
        ∧ (cdOf t (arg s mb 0 1)).loading = true ∧ (cdOf t (arg s mb 0 1)).state = 0))
  ∧ (∀ (mb c i : Nat) (s : State), Accepted ⟨0x020B, some 16, [(1, 1), (14, 2)]⟩ mb s → okPort (arg s mb 0 1) = true →
      dissolveLenOk (arg s mb 2 2) = true → cdCue 4 (requestOf s mb) s = some c → cdDenied s (arg s mb 0 1) = false →
      (cdOf s (arg s mb 0 1)).state = 0 → freeShared s = some i → Runs (.portCdstart mb) s (fun t => AnsweredOk mb t
        ∧ (cdOf t (arg s mb 0 1)).state = 1 ∧ (cdOf t (arg s mb 0 1)).len = arg s mb 2 2
        ∧ (cdOf t (arg s mb 0 1)).incoming = (cdOf s (arg s mb 0 1)).incoming ∧ (cueAt t i).kind = 3))
  ∧ (∀ (mb : Nat) (s : State), Accepted ⟨0x020C, some 4, [(1, 3)]⟩ mb s → okPort (arg s mb 0 1) = true →
      Runs (.portCdstatus mb) s (fun t => AnsweredOk mb t ∧ resp t mb 0 1 = (cdOf s (arg s mb 0 1)).state % 256
        ∧ respBytes t mb 4 4 = intBE 4 (cdOf s (arg s mb 0 1)).active.base ∧ t.rxp = s.rxp))
  ∧ (∀ (p : Nat) (s : State), okPort p = true → (cdOf s p).loading = true → (cdOf s p).state = 0 →
      Runs (.cdLoadDone p false) s (fun t => cdOf t p = { cdOf s p with loading := false }))
  ∧ (∀ (i at_ : Nat) (s : State), okCue i = true → cueDue s i 3 at_ = true → onBlock at_ = true → now s ≤ at_ →
      s.ctrl.stage = .ready → firstDue s i at_ (sameObj s i) = true → (cdOf s (cueAt s i).obj).state = 1 → (cdOf s (cueAt s i).obj).cue = i →
      0 < (cdOf s (cueAt s i).obj).start → (cdOf s (cueAt s i).obj).start ≤ at_ →
      Runs (.dissolveStartCue i at_) s (fun t => (cdOf t (cueAt s i).obj).state = 2 ∧ (cdOf t (cueAt s i).obj).start = at_
        ∧ (cueAt t i).state = 0))
  ∧ (∀ (p at_ : Nat) (s : State), okPort p = true → (cdOf s p).state = 2 → (cdOf s p).staged = none →
      blockTime (blockAfter (cdOf s p).start + (cdOf s p).len) ≤ at_ → now s ≤ at_ →
      Runs (.dissolveEnd p at_) s (fun t => (cdOf t p).active = (cdOf s p).incoming ∧ (cdOf t p).incoming = (cdOf s p).active
        ∧ (cdOf t p).state = 0 ∧ (cdOf t p).dissolves = min max32 ((cdOf s p).dissolves + 1)
        ∧ Logged 0x0207 p ([byteOf p, 0, 0, 0] ++ intBE 4 (cdOf s p).incoming.base) t))
  ∧ (∀ (p i sc : Nat) (res : List Int) (s : State), okPort p = true → (rxPort s p).st = .track → (rxPort s p).manual = false →
      (cdOf s p).state = 0 → sc ∈ portScs p → rxLit s sc = true → (rxPort s p).trackThr < (res.getD (scIdx sc) 0).natAbs →
      freeOwn s = some i → Runs (.cdTrackEstimate p res) s (fun t => (cdOf t p).state = 1
        ∧ (cdOf t p).incoming = trackSet s p res ∧ (cdOf t p).len = (rxPort s p).trackLen ∧ (cdOf t p).cue = i))

/-- ADC slices and the tuning of the local oscillator. BG_CAL_STEP within the trim range moves the slice's trims by one
step and sends the skew trim across; SHADOW_ROTATE takes each spare to the next of 64 phases; ADC_SLICE_FAULT returns the trims to the last that passed and
counts a fault of the slice; SLICE_RETRY_RECHECK that passes ends the retry; ADC_SLICE_RETIRE with a spare gives the
slice's phase to it. LTUNE_UPDATE moves C by at most the configured step when the offset exceeds the threshold;
port.ltune stores a target and LTUNE_SLEW_STEP approaches it by at most 50 MHz. -/
def Obligations.SlicesAndLtune : Prop :=
  (∀ (p a sl : Nat) (skew gain off : Int) (fir : Int × Int × Int) (s : State), okPort p = true → okAdc a = true →
      okSlice sl = true → (rxPort s p).light = true → afterCalibrate (rxPort s p).st = true → (rxPort s p).st ≠ .noLight →
      (66 * a + sl) ∉ (rxPort s p).retired →
      trimAtEnd (stepTrim skew gain off fir (trimOf (rxPort s p) (66 * a + sl))) = false →
      Runs (.bgCalStep p a sl skew gain off fir) s (fun t =>
        trimOf (rxPort t p) (66 * a + sl) = stepTrim skew gain off fir (trimOf (rxPort s p) (66 * a + sl))
        ∧ (∀ k, k ≠ 66 * a + sl → trimOf (rxPort t p) k = trimOf (rxPort s p) k)
        ∧ ((holdOf s (holdKey (.sliceTrims p))).inFlight = none → (holdOf t (holdKey (.sliceTrims p))).inFlight ≠ none)))
  ∧ (∀ (p : Nat) (s : State), okPort p = true → afterCalibrate (rxPort s p).st = true →
      Runs (.shadowRotate p) s (fun t => ∀ k, tabGet 0 (rxPort t p).shadow k =
        if k ∈ portSpares (rxPort s p) then (tabGet 0 (rxPort s p).shadow k + 1) % 64 else tabGet 0 (rxPort s p).shadow k))
  ∧ (∀ (p a sl : Nat) (s : State), okPort p = true → okAdc a = true → okSlice sl = true → receiving s p = true →
      injFor s (4 * p + a) sl = false → (unitRec s (unitKey 1 (sliceIndex p a sl))).retired = false →
      (unitRec s (unitKey 1 (sliceIndex p a sl))).retiring = false →
      Runs (.adcSliceFault p a sl) s (fun t =>
        tabGet none (rxPort t p).trims (66 * a + sl) = tabGet none (rxPort s p).goodTrims (66 * a + sl)
        ∧ (unitRec t (unitKey 1 (sliceIndex p a sl))).total = min max32 ((unitRec s (unitKey 1 (sliceIndex p a sl))).total + 1)))
  ∧ (∀ (p a sl : Nat) (s : State), okPort p = true → okAdc a = true → okSlice sl = true →
      (unitRec s (unitKey 1 (sliceIndex p a sl))).retrying = true →
      Runs (.sliceRetryRecheck p a sl false) s (fun t => (unitRec t (unitKey 1 (sliceIndex p a sl))).retrying = false))
  ∧ (∀ (p a sl ph sp : Nat) (rest : List Nat) (s : State), okPort p = true → okAdc a = true → okSlice sl = true →
      nextRetirement s 1 = some (sliceIndex p a sl) → phaseOfSlice (rxPort s p) a sl = some ph →
      spareSlices (rxPort s p) a = sp :: rest →
      Runs (.adcSliceRetire p a) s (fun t => phaseSlice (rxPort t p) a ph = sp ∧ (66 * a + sl) ∈ (rxPort t p).retired
        ∧ isRetired t 1 (sliceIndex p a sl) = true))
  ∧ (∀ (p : Nat) (s : State), okPort p = true → ltuneRuns s p = true → ungrantedLeaf s p = false →
      Runs (.ltuneUpdate p) s (fun t => (rxPort t p).c = ltuneStep (rxPort s p) (averagedOffset s p)
        ∧ (((averagedOffset s p).natAbs : Int) ≤ (rxPort s p).ltThr → (rxPort t p).c = (rxPort s p).c)
        ∧ (-2000 ≤ (rxPort s p).c → (rxPort s p).c ≤ 2000 →
            -2000 ≤ (rxPort t p).c ∧ (rxPort t p).c ≤ 2000 ∧ ((rxPort t p).c - (rxPort s p).c).natAbs ≤ (rxPort s p).ltStep)))
  ∧ (∀ (mb : Nat) (s : State), Accepted ⟨0x020E, some 4, [(1, 1)]⟩ mb s → okPort (arg s mb 0 1) = true →
      -2000 ≤ argI s mb 2 2 → argI s mb 2 2 ≤ 2000 → isFollower s (arg s mb 0 1) = false →
      Runs (.portLtune mb) s (fun t => AnsweredOk mb t ∧ (rxPort t (arg s mb 0 1)).cTarget = some (argI s mb 2 2)
        ∧ (rxPort t (arg s mb 0 1)).c = (rxPort s (arg s mb 0 1)).c))
  ∧ (∀ (p : Nat) (v : Int) (s : State), okPort p = true → s.ctrl.stage = .ready → s.pair.role ≤ 1 →
      isFollower s p = false → (rxPort s p).cTarget = some v → Runs (.ltuneSlewStep p) s (fun t =>
      (rxPort t p).c = (rxPort s p).c + clampInt (-50) 50 (v - (rxPort s p).c)
        ∧ ((v - (rxPort s p).c).natAbs ≤ 50 → (rxPort t p).c = v ∧ (rxPort t p).cTarget = none)))

/-- Every encoded codeword has a zero syndrome. For every information word, the codeword that the encoder forms has
21,540 bits and its 36 block rows of parity checks all sum to zero. -/
def Obligations.EncodedCodewordsSatisfyTheCode : Prop :=
  ∀ info : List Bool, (ldpcEncode info).length = 21540 ∧ syndromeZero (ldpcEncode info) = true

/-- Encoding, decoding, the iteration cap and engine retirement. CODEWORD_ENCODE on a lit subcarrier sends the encoded
form of its quarter of the frame built last, its last bit inverted where the injection point says so. CODEWORD_DECODE
counts one decoded codeword and puts it into the output store while that has room; CODEWORD_READ_POINT takes a finished
one out and hands it to the deframer, and counts an unfinished one as truncated. FEC_TRUNCATING_REARM arms the event.
FEC_CAP_TICK below a 3 % margin lowers a cap above 3 by one. FEC_ENGINE_RETIRE with a spare puts it into the slot, and
without one on a lit port leaves the slot until the frame boundary. PREFEC_BER_WINDOW
starts a new window and shows no errors as 0xFFFF. port.fecconfig stores its budgets, port.fecstatus and sc.fecstats
show settings and counts. -/
def Obligations.FecEngine : Prop :=
  (∀ (sc c : Nat) (cw : List Bool) (s : State), okSc sc = true → okCw c = true → txLit s sc = true →
      cw = ldpcEncode (codewordInfo (txFrame s sc).frame c) →
      Runs (.codewordEncode sc c) s (fun t => tabGet 0 (fecSc t sc).sent c =
        bitsNat (if injArmed s (0x078 + scPort sc) then cw.dropLast ++ [!cw.getLastD false] else cw)))
  ∧ (∀ (sc c : Nat) (r : DecodeObs) (s : State), okSc sc = true → okCw c = true → rxLit s sc = true →
      ((fecPort s (scPort sc)).out.length < 192 →
        Runs (.codewordDecode sc c r) s (fun t => (fecSc t sc).decoded = min max64 ((fecSc s sc).decoded + 1)
          ∧ ∃ e info, (fecPort t (scPort sc)).out = (fecPort s (scPort sc)).out ++ [⟨sc, c, e, info⟩]))
      ∧ (192 ≤ (fecPort s (scPort sc)).out.length → exec (.codewordDecode sc c r) s = .next s))
  ∧ (∀ (sc c : Nat) (r : DecodeObs) (o : CwOut) (s : State), okSc sc = true → okCw c = true →
      (fecPort s (scPort sc)).out.find? (fun o => o.sc == sc && o.c == c) = some o →
      Runs (.codewordReadPoint sc c r) s (fun t => (fecPort t (scPort sc)).out = (fecPort s (scPort sc)).out.erase o
        ∧ fecSc t sc = fecSc s sc ∧ (rxFramer t sc).cws =
          if o.c = 0 then [o] else if (rxFramer s sc).cws.length = o.c then (rxFramer s sc).cws ++ [o] else []))
  ∧ (∀ (sc c : Nat) (r : DecodeObs) (s : State), okSc sc = true → okCw c = true → rxLit s sc = true →
      (fecPort s (scPort sc)).out.find? (fun o => o.sc == sc && o.c == c) = none →
      Runs (.codewordReadPoint sc c r) s (fun t => (fecSc t sc).trunc = min max64 ((fecSc s sc).trunc + 1)
        ∧ (fecPort t (scPort sc)).trunc = min max64 ((fecPort s (scPort sc)).trunc + 1)
        ∧ (fecPort t (scPort sc)).truncArmed = false))
  ∧ (∀ (p : Nat) (s : State), okPort p = true → Runs (.fecTruncatingRearm p) s (fun t =>
      (fecPort t p).truncArmed = true ∧ (fecPort t p).truncSince = 0))
  ∧ (∀ (p ach : Nat) (m : Int × Nat) (s : State), okPort p = true →
      exactMargin (onPaceUnit (6 * p + 2) (fun u => { u with ach := some ach }) s) (6 * p + 2) = some m →
      marginBelow m 30 = true →
      3 < (fecPort s p).k → Runs (.fecCapTick p ach) s (fun t => (fecPort t p).k = (fecPort s p).k - 1
        ∧ ∀ e ∈ (fecPort t p).debt, e.2 ≤ cEff (fecPort t p) - nEff (fecPort t p)))
  ∧ (∀ (p e k sp : Nat) (rest : List Nat) (s : State), okPort p = true → e < 18 → nextRetirement s 2 = some (18 * p + e) →
      (fecPort s p).engines.idxOf? e = some k → spareEngines (fecPort s p) = sp :: rest →
      Runs (.fecEngineRetire p) s (fun t => (fecPort t p).engines = (fecPort s p).engines.set k sp
        ∧ e ∈ (fecPort t p).retired ∧ isRetired t 2 (18 * p + e) = true))
  ∧ (∀ (p e k : Nat) (s : State), okPort p = true → e < 18 → nextRetirement s 2 = some (18 * p + e) →
      (fecPort s p).engines.idxOf? e = some k → spareEngines (fecPort s p) = [] → lowestLit s p ≠ none →
      Runs (.fecEngineRetire p) s (fun t => (fecPort t p).engines = (fecPort s p).engines ∧ e ∈ (fecPort t p).leaving
        ∧ isRetired t 2 (18 * p + e) = true))
  ∧ (∀ (sc : Nat) (s : State), okSc sc = true → Runs (.prefecBerWindow sc) s (fun t =>
      (fecSc t sc).wErr = 0 ∧ (fecSc t sc).wGood = 0 ∧ (fecSc t sc).wAll = 0
        ∧ ((fecSc s sc).wErr = 0 → (fecSc t sc).ber = 0xFFFF) ∧ ((fecSc s sc).wErr ≠ 0 → (fecSc t sc).ber ≤ 0xFFFE)
        ∧ (fecSc t sc).none = decide ((fecSc s sc).wGood = 0)))
  ∧ (∀ (mb : Nat) (s : State), Accepted ⟨0x020F, some 4, [(3, 1)]⟩ mb s → okPort (arg s mb 0 1) = true →
      4 ≤ arg s mb 1 1 → arg s mb 1 1 ≤ 16 → arg s mb 1 1 ≤ arg s mb 2 1 → arg s mb 2 1 ≤ min 16 (2 * arg s mb 1 1) →
      Runs (.portFecconfig mb) s (fun t => AnsweredOk mb t ∧ (fecPort t (arg s mb 0 1)).n = arg s mb 1 1
        ∧ (fecPort t (arg s mb 0 1)).c = arg s mb 2 1))
  ∧ (∀ (mb : Nat) (s : State), Accepted ⟨0x0210, some 4, [(1, 3)]⟩ mb s → okPort (arg s mb 0 1) = true →
      Runs (.portFecstatus mb) s (fun t => AnsweredOk mb t ∧ resp t mb 0 1 = (fecPort s (arg s mb 0 1)).n % 256
        ∧ resp t mb 1 1 = (fecPort s (arg s mb 0 1)).c % 256 ∧ resp t mb 2 1 = (fecPort s (arg s mb 0 1)).k % 256 ∧ t.fecp = s.fecp))
  ∧ (∀ (mb : Nat) (s : State), Accepted ⟨0x0285, some 4, [(1, 3)]⟩ mb s → okSc (arg s mb 0 1) = true →
      Runs (.scFecstats mb) s (fun t => AnsweredOk mb t ∧ resp t mb 0 8 = (fecSc s (arg s mb 0 1)).decoded % 2 ^ 64
        ∧ resp t mb 32 8 = (fecSc s (arg s mb 0 1)).unc % 2 ^ 64 ∧ t.fecs = s.fecs))

/-- Frames carry their overhead; the scrambler is its own inverse. On a lit subcarrier of a single module, at a frame
boundary not before the present, with no frame injection armed, FRAME_TRANSMIT sends the scrambled form of a frame
of 9,405 bytes that carries the alignment word, the multiframe count of its instant, the parity of the previous
payload, the trace byte of its number, the protection value and its departure timecode; the multiframe count
advances, the parity kept is that of the payload as sent, and the subcarrier's frame count rises. For every
subcarrier and every frame of at least 6 bytes, scrambling the scrambled frame gives the frame: what the transmitter
scrambles, the receiver of the same subcarrier descrambles with the same operation; the 6 bytes of the alignment
word are unscrambled, and the length is kept. -/
def Obligations.FramesCarryTheirOverhead : Prop :=
  (∀ (sc at_ : Nat) (s : State), okSc sc = true → txLit s sc = true → onFrameGrid s sc at_ = true → now s ≤ at_ →
    isSingle s = true → injFor s 0x031 sc = false → injFor s 0x033 sc = false → injFor s 0x034 sc = false →
    Runs (.frameTransmit sc at_) s (fun t => ∃ raw,
      (txFrame t sc).frame = scramble sc raw ∧ raw.length = 9405 ∧ raw.take 6 = natBE 6 0x3DA758C26B19
        ∧ getU 6 1 raw = at_ / frameTicks (txClass s sc) % 256
        ∧ raw.getD 7 0 = (txFrame s sc).bip
        ∧ raw.getD 9 0 = (padTo 64 (txFrame s sc).trace).getD (getU 6 1 raw % 64) 0
        ∧ field 12 4 raw = natBE 4 (txFrame s sc).pc.toNat
        ∧ field 16 12 raw = tcBytes12 at_
        ∧ (txFrame t sc).bip = bip8 ((txFrame t sc).frame.drop 165)
        ∧ (txFrame t sc).mfc = (getU 6 1 raw + 1) % 256
        ∧ (txFrame t sc).dep = at_ ∧ (txFrame t sc).slots = []
        ∧ (txSc t sc).frames = min (2 ^ 64 - 1) ((txSc s sc).frames + 1)
        ∧ now t = at_))
  ∧ (∀ (sc : Nat) (l : List Byte), 6 ≤ l.length →
    scramble sc (scramble sc l) = l ∧ (scramble sc l).take 6 = l.take 6 ∧ (scramble sc l).length = l.length)

/-- Alignment states of a received subcarrier. In HUNT a correlation of the present phase at the threshold makes it a
candidate and another tests the next phase; a candidate that does not converge is false. FRAME_RECEIVE takes the frame
that four codewords made, judged in IN_FRAME, or once it begins after convergence: a correct one advances a candidate from
its first to its third confirmation and then into IN_FRAME; an incorrect one makes it false and counted. IN_FRAME a
correct frame ends the error run; an incorrect one extends it, and one that makes it the loss count returns to HUNT,
counts a loss and ends multiframe lock. A correct IN_FRAME frame of 9,405 bytes gives its status byte, its stamps
and its parity violations. -/
def Obligations.FrameAlignment : Prop :=
  (∀ (sc phase corr : Nat) (s : State), okSc sc = true → rxLit s sc = true → (rxFramer s sc).st = .hunt →
      phase = (rxFramer s sc).phase % symbolPhases s sc →
      Runs (.pilotCorrelation sc phase corr) s (fun t =>
        ((frPort s (scPort sc)).pilotThr ≤ corr → (rxFramer t sc).st = .confirm 1 ∧ (rxFramer t sc).phase = phase)
        ∧ (corr < (frPort s (scPort sc)).pilotThr →
          (rxFramer t sc).st = .hunt ∧ (rxFramer t sc).phase = (phase + 1) % symbolPhases s sc)))
  ∧ (∀ (sc : Nat) (s : State), okSc sc = true → (rxFramer s sc).st = .confirm 1 → (rxSc s sc).conv = false →
      Runs (.candidateConvergeTimeout sc) s (fun t => (rxFramer t sc).st = .hunt
        ∧ (rxFramer t sc).phase = ((rxFramer s sc).phase + 1) % symbolPhases s sc
        ∧ (rxFramer t sc).falseC = min 0xFFFFFFFF ((rxFramer s sc).falseC + 1)))
  ∧ (∀ (sc : Nat) (o : FrameObs) (f : RxFrame) (s : State), okSc sc = true → rxLit s sc = true →
      (rxFramer s sc).cws.length = 4 → isJudged s sc o.arr = true → f = frameOf (rxFramer s sc).cws o →
      injFor s 0x030 sc = false →
      Runs (.frameReceive sc o) s (fun t => (rxFramer t sc).cws = [] ∧
        (∀ k, (rxFramer s sc).st = .confirm k → frameCorrect s sc f = true →
          (rxFramer t sc).st = if k < 3 then .confirm (k + 1) else .inFrame)
        ∧ (∀ k, (rxFramer s sc).st = .confirm k → frameCorrect s sc f = false →
          (rxFramer t sc).st = .hunt ∧ (rxFramer t sc).falseC = min 0xFFFFFFFF ((rxFramer s sc).falseC + 1))
        ∧ ((rxFramer s sc).st = .inFrame → frameCorrect s sc f = true → (rxFramer t sc).st = .inFrame ∧ (rxFramer t sc).run = 0)
        ∧ ((rxFramer s sc).st = .inFrame → frameCorrect s sc f = false →
          (rxFramer s sc).run + 1 < (frPort s (scPort sc)).lossCount →
          (rxFramer t sc).st = .inFrame ∧ (rxFramer t sc).run = (rxFramer s sc).run + 1)
        ∧ ((rxFramer s sc).st = .inFrame → frameCorrect s sc f = false →
          (frPort s (scPort sc)).lossCount ≤ (rxFramer s sc).run + 1 →
          (rxFramer t sc).st = .hunt ∧ (rxFramer t sc).mf = false
            ∧ (rxFramer t sc).lossC = min 0xFFFFFFFF ((rxFramer s sc).lossC + 1))
        ∧ ((rxFramer s sc).st = .inFrame → frameCorrect s sc f = true → f.bytes.length = 9405 →
          ∀ dep, stampOf true ((scramble sc f.bytes).take 165) {} = some dep →
            (rxFramer t sc).status = ((scramble sc f.bytes).take 165).getD 8 0
            ∧ (rxFramer t sc).bipV = min (2 ^ 64 - 1) ((rxFramer s sc).bipV
                + violations (afterPrevious dep (rxFramer s sc)) (((scramble sc f.bytes).take 165).getD 7 0))
            ∧ (rxFramer t sc).stamp = some (dep, f.arr, getU 6 1 ((scramble sc f.bytes).take 165)))))

/-- The frame commands. Accepted and within their ranges: frame.trace stores the transmit and expected traces, the
compare part and the action; frame.defcfg stores a defect's times and threshold and restarts its integration,
keeping what is declared; frame.pcset stores the protection value; frame.chan enables GCC and UOC with their host
ports; frame.kcsend appends a numbered message to a queue with room; frame.kcrecv returns the oldest received
message, or zeros; frame.stamp returns the stamps of the last good frame; frame.status, frame.defects and
frame.tribdef return alignment, counts and declared defects. Each answers OK. -/
def Obligations.FrameCommands : Prop :=
  (∀ (mb : Nat) (s : State), Accepted ⟨0x0300, some 132, [(3, 1)]⟩ mb s → okSc (arg s mb 0 1) = true →
      arg s mb 1 1 ≤ 3 → arg s mb 2 1 ≤ 1 →
      Runs (.frameTrace mb) s (fun t => AnsweredOk mb t
        ∧ (txFrame t (arg s mb 0 1)).trace = field 4 64 (requestOf s mb).pay
        ∧ (rxFramer t (arg s mb 0 1)).expTrace = field 68 64 (requestOf s mb).pay
        ∧ (rxFramer t (arg s mb 0 1)).compare = arg s mb 1 1 ∧ (rxFramer t (arg s mb 0 1)).timAct = (arg s mb 2 1 == 1)))
  ∧ (∀ (mb : Nat) (s : State), Accepted ⟨0x0301, some 16, [(2, 2)]⟩ mb s →
      ((arg s mb 1 1 ≤ 7 ∧ arg s mb 0 1 < 6) ∨ (8 ≤ arg s mb 1 1 ∧ arg s mb 1 1 ≤ 9 ∧ arg s mb 0 1 = 0xFF)) →
      defectTimeOk (arg s mb 1 1) (arg s mb 4 4) = true → defectTimeOk (arg s mb 1 1) (arg s mb 8 4) = true →
      (if arg s mb 1 1 = 4 ∨ arg s mb 1 1 = 5 then 100 ≤ arg s mb 12 4 ∧ arg s mb 12 4 ≤ 10000000 else arg s mb 12 4 = 0) →
      Runs (.frameDefcfg mb) s (fun t => AnsweredOk mb t
        ∧ (tabGet {} t.frame.defcfg (16 * min 6 (arg s mb 0 1) + arg s mb 1 1)).set = some (arg s mb 4 4)
        ∧ (tabGet {} t.frame.defcfg (16 * min 6 (arg s mb 0 1) + arg s mb 1 1)).clear = some (arg s mb 8 4)
        ∧ (∀ code obj, declared t code obj = declared s code obj)))
  ∧ (∀ (mb : Nat) (s : State), Accepted ⟨0x0302, some 8, [(1, 3)]⟩ mb s → okSc (arg s mb 0 1) = true →
      Runs (.framePcset mb) s (fun t => AnsweredOk mb t ∧ (txFrame t (arg s mb 0 1)).pc.toNat = arg s mb 4 4))
  ∧ (∀ (mb : Nat) (s : State), Accepted ⟨0x0303, some 8, [(3, 1)]⟩ mb s → okSc (arg s mb 0 1) = true →
      arg s mb 1 1 ≤ 1 → arg s mb 2 1 ≤ 1 → (arg s mb 1 1 = 1 → portDefined s (arg s mb 4 2) = true) →
      (arg s mb 2 1 = 1 → portDefined s (arg s mb 6 2) = true) →
      Runs (.frameChan mb) s (fun t => AnsweredOk mb t
        ∧ (txFrame t (arg s mb 0 1)).gcc = (arg s mb 1 1 == 1) ∧ (txFrame t (arg s mb 0 1)).uoc = (arg s mb 2 1 == 1)
        ∧ (txFrame t (arg s mb 0 1)).gccNn = arg s mb 4 2 ∧ (txFrame t (arg s mb 0 1)).uocNn = arg s mb 6 2))
  ∧ (∀ (mb : Nat) (s : State), Accepted ⟨0x0304, none, [(2, 2)]⟩ mb s → okSc (arg s mb 0 1) = true →
      1 ≤ arg s mb 1 1 → arg s mb 1 1 ≤ 224 → (requestOf s mb).len = 4 + arg s mb 1 1 → txClass s (arg s mb 0 1) ≠ 0 →
      (txFrame s (arg s mb 0 1)).kcq.length < 4 →
      Runs (.frameKcsend mb) s (fun t => AnsweredOk mb t ∧ ∃ m,
        (txFrame t (arg s mb 0 1)).kcq = (txFrame s (arg s mb 0 1)).kcq ++ [m] ∧ m.num = (txFrame s (arg s mb 0 1)).kcNum
          ∧ m.data = field 4 (arg s mb 1 1) (requestOf s mb).pay ∧ m.frag = 0))
  ∧ (∀ (mb : Nat) (s : State), Accepted (bareShape 0x0305) mb s →
      Runs (.frameKcrecv mb) s (fun t => AnsweredOk mb t
        ∧ (s.frame.kcRx = [] → respBytes t mb 0 4 = zeros 4 ∧ t.frame.kcRx = [])
        ∧ ∀ m rest, s.frame.kcRx = m :: rest → t.frame.kcRx = rest
          ∧ respBytes t mb 0 (4 + m.data.length) = [byteOf m.sc, byteOf m.data.length, byteOf m.num, 0] ++ m.data))
  ∧ (∀ (mb : Nat) (s : State), Accepted (objShape 0x0306) mb s → okSc (arg s mb 0 1) = true →
      (rxFramer s (arg s mb 0 1)).st = .inFrame → rxLit s (arg s mb 0 1) = true →
      ∀ dep arr m, (rxFramer s (arg s mb 0 1)).stamp = some (dep, arr, m) →
      Runs (.frameStamp mb) s (fun t => AnsweredOk mb t
        ∧ respBytes t mb 0 25 = tcBytes12 dep ++ tcBytes12 arr ++ [byteOf m]))
  ∧ (∀ (mb : Nat) (s : State), Accepted (objShape 0x0307) mb s → okSc (arg s mb 0 1) = true →
      Runs (.frameStatus mb) s (fun t => AnsweredOk mb t
        ∧ resp t mb 0 1 = (if rxLit s (arg s mb 0 1) then alignNum (rxFramer s (arg s mb 0 1)).st else 5) % 256
        ∧ resp t mb 1 1 = b2n (rxFramer s (arg s mb 0 1)).mf
        ∧ resp t mb 2 2 = defectMask s (arg s mb 0 1) % 65536
        ∧ resp t mb 8 4 = (rxFramer s (arg s mb 0 1)).falseC % 2 ^ 32 ∧ resp t mb 12 4 = (rxFramer s (arg s mb 0 1)).lossC % 2 ^ 32))
  ∧ (∀ (mb : Nat) (s : State), Accepted (bareShape 0x0308) mb s →
      Runs (.frameDefects mb) s (fun t => AnsweredOk mb t
        ∧ (∀ p, p < 6 → bitOf (resp t mb 0 1) p = declared s 0 p)
        ∧ ∀ c sc, 1 ≤ c → c ≤ 7 → sc < 96 →
            bitOf (resp t mb (4 + 12 * (c - 1) + sc / 8) 1) (sc % 8) = declared s c sc))
  ∧ (∀ (mb : Nat) (s : State), Accepted ⟨0x0309, some 4, [(2, 2)]⟩ mb s → arg s mb 0 2 ≤ 3072 → arg s mb 0 2 % 768 = 0 →
      Runs (.frameTribdef mb) s (fun t => AnsweredOk mb t ∧ ∀ k, k < 768 →
        bitOf (resp t mb (k / 8) 1) (k % 8) = declared s 8 (arg s mb 0 2 + k)
          ∧ bitOf (resp t mb (96 + k / 8) 1) (k % 8) = declared s 9 (arg s mb 0 2 + k)))

/-- DEFECT_TICK integrates raw indications and masks. While the firmware runs, DEFECT_TICK: the loss of light of a port
toggles when its raw indication has differed for the whole set or clear time and counts on otherwise, and its count
is zero while they agree; a declared loss of light clears and restarts every defect 1 to 7 of the port's
subcarriers; without one, loss of pilot lock of a subcarrier integrates in the same way. -/
def Obligations.DefectsIntegrateAndMask : Prop :=
  ∀ s : State, running s = true → Runs .defectTick s (fun t =>
    (∀ p, p < 6 →
      (lolRaw s p = declared s 0 p → declared t 0 p = declared s 0 p ∧ (defSt t p).ctr = 0)
      ∧ (lolRaw s p ≠ declared s 0 p →
        (if declared s 0 p then (defectCfg s p 0).clear.getD 100 else (defectCfg s p 0).set.getD 25) ≤ (defSt s p).ctr →
        declared t 0 p = lolRaw s p ∧ (defSt t p).ctr = 0)
      ∧ (lolRaw s p ≠ declared s 0 p →
        (defSt s p).ctr < (if declared s 0 p then (defectCfg s p 0).clear.getD 100 else (defectCfg s p 0).set.getD 25) →
        declared t 0 p = declared s 0 p ∧ (defSt t p).ctr = (defSt s p).ctr + 1))
    ∧ (∀ sc code, sc < 96 → 1 ≤ code → code ≤ 7 → declared t 0 (scPort sc) = true →
      declared t code sc = false ∧ (defSt t (4096 * code + sc)).ctr = 0)
    ∧ (∀ sc, sc < 96 → declared t 0 (scPort sc) = false →
      (scRaw s sc 1 = declared s 1 sc → declared t 1 sc = declared s 1 sc ∧ (defSt t (4096 + sc)).ctr = 0)
      ∧ (scRaw s sc 1 ≠ declared s 1 sc →
        (if declared s 1 sc then (defectCfg s (scPort sc) 1).clear.getD 100 else (defectCfg s (scPort sc) 1).set.getD 25)
          ≤ (defSt s (4096 + sc)).ctr →
        declared t 1 sc = scRaw s sc 1 ∧ (defSt t (4096 + sc)).ctr = 0)))

/-- PM seconds, bins and the pm commands. PM_SECOND at a timecode second adds the class of the second of a lit,
available subcarrier to both its current bins, begins unavailable time with the tenth severely errored second in a
row, and starts the next second's counts anew. PM_BIN_BOUNDARY makes the current bin of every object history, starts
a new one at the nominal boundary and places its cue one period on. PM_BIN_FINAL marks the oldest closed period that
is not final. pm.config, pm.tca, pm.read and pm.clear set the SES threshold, an alert, return a bin (zeros where its word is
lost) and zero the current bins of one object or of all with the cleared flag. -/
def Obligations.PerformanceMonitoring : Prop :=
  (∀ (at_ : Nat) (s : State), running s = true → at_ % ticksSec 1 = 0 → now s ≤ at_ →
      Runs (.pmSecond at_) s (fun t => now t = at_ ∧ ∀ sc, sc < 96 →
        (rxFramer t sc).secFrames = 0 ∧ (rxFramer t sc).secErr = 0 ∧ (rxFramer t sc).secBip = 0
        ∧ ∀ x, x = classify s.frame.sesThr (rxFramer s sc).secFrames (rxFramer s sc).secErr ((rxFramer s sc).secLom || lomMasked s sc) →
          2 ≤ rxClass s sc → (pmObj s (pmKey 0 sc)).uas = false →
          ((x.ses = true ∧ (pmObj s (pmKey 0 sc)).recent.length = 9 ∧ ∀ r ∈ (pmObj s (pmKey 0 sc)).recent, r.ses = true) →
            (pmObj t (pmKey 0 sc)).uas = true)
          ∧ ((x.ses = false ∨ (pmObj s (pmKey 0 sc)).recent.length < 9 ∨ ∃ r ∈ (pmObj s (pmKey 0 sc)).recent, r.ses = false) →
            (pmObj t (pmKey 0 sc)).uas = false
            ∧ ∀ o v : PmBin, o = (pmObj s (pmKey 0 sc)).bins15.getD 0 {} → v = (pmObj t (pmKey 0 sc)).bins15.getD 0 {} →
              v.secs = o.secs + 1 ∧ v.es = o.es + b2n x.es ∧ v.ses = o.ses + b2n x.ses ∧ v.bbe = o.bbe + x.bbe
                ∧ v.uas = o.uas)))
  ∧ (∀ (i at_ : Nat) (s : State), i < 2 → (cueAt s i).time ≤ at_ → now s ≤ at_ → s.ctrl.stage = .ready →
      firstDue s i at_ (fun _ => true) = true → Runs (.pmBinBoundary i at_) s (fun t =>
        (i = 0 → (t.frame.ep15.getD 0 ⟨0, false, false⟩).start = tcSec (cueAt s 0).nominal
          ∧ ∀ k n, n < 32 → (pmObj t k).bins15.getD 0 {} = {} ∧ (pmObj t k).bins15.getD (n + 1) {} = (pmObj s k).bins15.getD n {})
        ∧ (i = 1 → (t.frame.ep24.getD 0 ⟨0, false, false⟩).start = tcSec (cueAt s 1).nominal
          ∧ ∀ k, (pmObj t k).bins24.getD 0 {} = {} ∧ (pmObj t k).bins24.getD 1 {} = (pmObj s k).bins24.getD 0 {})
        ∧ (cueAt t i).nominal = (cueAt s i).nominal + ticksMs (cueAt s i).period))
  ∧ (∀ (day : Bool) (cur e : PmEpoch) (rest : List PmEpoch) (s : State), running s = true →
      (if day then s.frame.ep24 else s.frame.ep15) = cur :: e :: rest → e.final = false → (∀ x ∈ rest, x.final = true) →
      Runs (.pmBinFinal day) s (fun t =>
        (if day then t.frame.ep24 else t.frame.ep15) = cur :: { e with final := true } :: rest))
  ∧ (∀ (mb : Nat) (s : State), Accepted ⟨0x0380, some 4, [(1, 1)]⟩ mb s → 1 ≤ arg s mb 0 1 → arg s mb 0 1 ≤ 50 →
      arg s mb 2 2 ≤ 95 →
      Runs (.pmConfig mb) s (fun t => AnsweredOk mb t ∧ t.frame.sesThr = arg s mb 0 1 ∧ t.frame.dayOff = s.frame.dayOff
        ∧ t.frame.dayOffNext = if arg s mb 2 2 = s.frame.dayOff then none else some (arg s mb 2 2)))
  ∧ (∀ (mb : Nat) (s : State), Accepted ⟨0x0381, some 16, [(6, 2)]⟩ mb s → arg s mb 0 1 ≤ 1 → arg s mb 1 1 ≤ 1 →
      arg s mb 2 1 ≤ 13 → (6 ≤ arg s mb 2 1 ∨ arg s mb 3 1 % 2 = 0) →
      (arg s mb 0 1 = 0 ∨ (arg s mb 2 1 ≠ 4 ∧ arg s mb 2 1 < 6)) →
      arg s mb 4 2 < (if arg s mb 0 1 = 0 then 96 else 3840) →
      Runs (.pmTcaConfig mb) s (fun t => AnsweredOk mb t ∧
        tabGet {} t.frame.tca (tcaKey (arg s mb 0 1) (arg s mb 1 1) (arg s mb 2 1) (arg s mb 3 1 % 2) (arg s mb 4 2))
          = { enabled := 128 ≤ arg s mb 3 1, thr := argI s mb 8 8 }))
  ∧ (∀ (mb : Nat) (o : PmObj) (k b : PmBin) (s : State), Accepted ⟨0x0382, some 8, [(3, 1), (6, 2)]⟩ mb s →
      arg s mb 0 1 ≤ 1 → arg s mb 1 1 ≤ 1 → arg s mb 2 1 ≤ (if arg s mb 1 1 = 0 then 32 else 1) →
      arg s mb 4 2 < (if arg s mb 0 1 = 0 then 96 else 3840) → o = pmObj s (pmKey (arg s mb 0 1) (arg s mb 4 2)) →
      k = (if arg s mb 1 1 = 0 then o.bins15 else o.bins24).getD (arg s mb 2 1) {} → b = (if k.lost then {} else k) →
      Runs (.pmRead mb) s (fun t => AnsweredOk mb t ∧
          resp t mb 12 4 = b.secs % 2 ^ 32 ∧ resp t mb 16 4 = b.bbe % 2 ^ 32 ∧ resp t mb 20 4 = b.es % 2 ^ 32
            ∧ resp t mb 24 4 = b.ses % 2 ^ 32 ∧ resp t mb 28 4 = b.uas % 2 ^ 32
            ∧ resp t mb 32 8 = b.corr % 2 ^ 64 ∧ resp t mb 40 8 = b.unc % 2 ^ 64))
  ∧ (∀ (mb : Nat) (s : State), Accepted ⟨0x0383, some 4, [(1, 1)]⟩ mb s → arg s mb 0 1 ≤ 1 →
      arg s mb 2 2 < (if arg s mb 0 1 = 0 then 96 else 3840) →
      Runs (.pmClear mb) s (fun t => AnsweredOk mb t
        ∧ ∀ o : PmObj, o = pmObj t (pmKey (arg s mb 0 1) (arg s mb 2 2)) →
          o.bins15.getD 0 {} = { cleared := true } ∧ o.bins24.getD 0 {} = { cleared := true } ∧ o.raised = []))
  ∧ (∀ (mb : Nat) (s : State), Accepted ⟨0x0383, some 4, [(1, 1)]⟩ mb s → arg s mb 0 1 ≤ 1 → arg s mb 2 2 = 0xFFFF →
      Runs (.pmClear mb) s (fun t => AnsweredOk mb t ∧ ∀ (k : Nat) (o : PmObj), k < pmObjects (arg s mb 0 1) →
        o = pmObj t (pmKey (arg s mb 0 1) k) →
          o.bins15.getD 0 {} = { cleared := true } ∧ o.bins24.getD 0 {} = { cleared := true } ∧ o.raised = []))

/-- The burst receiver of a hub. On a hub whose casting receiver runs: a correlation at the threshold is a detection, a lower
one none; a detection starts a burst when idle; in the preamble one at least 6 dB stronger captures it and counts a
collision, a weaker one waits as the one pending or is lost; in the payload it is lost. At the end of the header time a
bad CRC-16 counts a mirage and takes the pending detection; a good but impermissible header is rejected; a permissible
one enters the payload, and a pending detection is then lost. A payload that decodes with a good CRC-32 delivers its
message, any other counts a payload error, and the receiver is idle. -/
def Obligations.HubBurstReceiver : Prop :=
  ∀ (p : Nat) (s : State), okPort p = true → bursts s p = true →
    (∀ (pw fq : Int) (corr : Nat), corr < (hubPort s p).thr → exec (.burstDetection p pw corr fq) s = .next s)
    ∧ (∀ (pw fq : Int) (corr : Nat), (hubPort s p).thr ≤ corr → Runs (.burstDetection p pw corr fq) s (fun t =>
      ((hubPort s p).burst = .idle → (hubPort t p).burst = .preamble pw ∧ (hubPort t p).freq = burstFreq fq)
      ∧ (∀ q, (hubPort s p).burst = .preamble q → q + 600 ≤ pw →
        (hubPort t p).burst = .preamble pw ∧ (hubPort t p).pend = none ∧ (hubPort t p).freq = burstFreq fq
          ∧ (hubPort t p).collision = min (2 ^ 64 - 1) ((hubPort s p).collision + 1))
      ∧ (∀ q, (hubPort s p).burst = .preamble q → pw < q + 600 → (hubPort s p).pend = none →
        (hubPort t p).burst = .preamble q ∧ (hubPort t p).pend = some (pw, burstFreq fq)
          ∧ (hubPort t p).lost = (hubPort s p).lost ∧ (hubPort t p).freq = (hubPort s p).freq)
      ∧ (∀ q, (hubPort s p).burst = .preamble q → pw < q + 600 → (hubPort s p).pend ≠ none →
        (hubPort t p).burst = .preamble q ∧ (hubPort t p).lost = min (2 ^ 64 - 1) ((hubPort s p).lost + 1))
      ∧ ((hubPort s p).burst = .payload →
        (hubPort t p).burst = .payload ∧ (hubPort t p).lost = min (2 ^ 64 - 1) ((hubPort s p).lost + 1))))
    ∧ (∀ (hdr : List Byte) (q : Int), hdr.length = 16 → (hubPort s p).burst = .preamble q → injArmed s (0x080 + p) = false →
      Runs (.burstHeaderCheck p hdr) s (fun t =>
        (headerGood hdr = false → (hubPort t p).mirages = min (2 ^ 64 - 1) ((hubPort s p).mirages + 1)
          ∧ (hubPort t p).pend = none
          ∧ (hubPort t p).burst = match (hubPort s p).pend with | some w => .preamble w.1 | none => .idle)
        ∧ (headerGood hdr = true → headerValid hdr = false → (hubPort t p).burst = .idle
          ∧ (hubPort t p).rejected = min (2 ^ 64 - 1) ((hubPort s p).rejected + 1))
        ∧ (headerGood hdr = true → headerValid hdr = true → (hubPort t p).burst = .payload
          ∧ (hubPort t p).hdrType = getU 6 1 hdr ∧ (hubPort t p).hdrIdent = getU 0 6 hdr
          ∧ (hubPort t p).hdrLen = getU 8 2 hdr ∧ (hubPort t p).pend = none)))
    ∧ (∀ llrs : List Int, (hubPort s p).burst = .payload →
      (∀ msg, castPayload (burstBlocks (hubPort s p).hdrLen) (hubPort s p).hdrLen llrs = some msg →
        Runs (.burstPayloadEnd p llrs) s (fun t => (hubPort t p).burst = .idle
          ∧ (hubPort t p).inbox = (hubPort s p).inbox ++ [((hubPort s p).hdrType, (hubPort s p).hdrIdent, msg)]
          ∧ (hubPort t p).delivered = min (2 ^ 64 - 1) ((hubPort s p).delivered + 1)))
      ∧ (castPayload (burstBlocks (hubPort s p).hdrLen) (hubPort s p).hdrLen llrs = none →
        Runs (.burstPayloadEnd p llrs) s (fun t => (hubPort t p).burst = .idle
          ∧ (hubPort t p).inbox = (hubPort s p).inbox ∧ (hubPort t p).payErr = min (2 ^ 64 - 1) ((hubPort s p).payErr + 1))))

/-- A hub numbers, hears and adjusts its leaves. On a hub whose control firmware decides: a JOIN of an unknown leaf with
a number to give assigns the lowest free one, answers with a record and raises LEAF_JOINED; with none left it
answers DENY with reason 1, and for a leaf of generation 1 with none below 8 left with reason 3; a known leaf keeps its
number; a module in another role than leaf is a mismatch. A KEEPALIVE counts and rearms LEAF_SILENT; a LEAVE frees the
leaf. A number held without grant is freed with DENY reason 2; a silent leaf is marked and reported once, its grant
standing. ADJUST records the offset and is sent beyond 20 MHz, and at generation 2 where a subcarrier's power is off. The
dispersion of a leaf is stored. At a slot start a transmitting hub sends a beacon and each record counts down, and a
point-to-point port in the exchange sends a capability frame. -/
def Obligations.HubKeepsItsLeaves : Prop :=
  (∀ (p ident : Nat) (rec : List Byte) (s : State), okPort p = true → isHub s p = true → decides s = true →
      (3, ident, rec) ∈ (hubPort s p).inbox →
      (getU 6 1 rec = 2 → leafByIdent s p ident = none →
        (∀ n, freeLeaf s p 16 = some n → (1 < min (ownGen s) (getU 0 1 rec) ∨ freeLeaf s p 8 ≠ none) →
          Runs (.joinReceive p ident rec) s (fun t =>
            (leafOf t p n).state = 1 ∧ (leafOf t p n).ident = ident ∧ (leafOf t p n).gen = min (ownGen s) (getU 0 1 rec)
              ∧ (leafOf t p n).classes = getU 1 1 rec ∧ (∀ m, m ≠ n → leafOf t p m = leafOf s p m)
              ∧ (hubPort t p).recs = (hubPort s p).recs ++ [(1 :: natBE 6 ident ++ [byteOf n] ++ zeros 8, 4)]
              ∧ Logged 0x0400 p ([byteOf n, 0] ++ natBE 6 ident) t))
        ∧ (freeLeaf s p 16 = none → 1 < min (ownGen s) (getU 0 1 rec) → Runs (.joinReceive p ident rec) s (fun t =>
          (hubPort t p).leaves = (hubPort s p).leaves
            ∧ (hubPort t p).recs = (hubPort s p).recs ++ [(5 :: natBE 6 ident ++ [255] ++ (1 :: zeros 7), 4)]))
        ∧ (freeLeaf s p 8 = none → min (ownGen s) (getU 0 1 rec) ≤ 1 → Runs (.joinReceive p ident rec) s (fun t =>
          (hubPort t p).leaves = (hubPort s p).leaves
            ∧ (hubPort t p).recs = (hubPort s p).recs ++ [(5 :: natBE 6 ident ++ [255] ++ (3 :: zeros 7), 4)])))
      ∧ (getU 6 1 rec = 2 → ∀ n, leafByIdent s p ident = some n → Runs (.joinReceive p ident rec) s (fun t =>
        leafOf t p n = { leafOf s p n with
            ident := ident, gen := min (ownGen s) (getU 0 1 rec), classes := getU 1 1 rec }
          ∧ Logged 0x0400 p ([byteOf n, 1] ++ natBE 6 ident) t))
      ∧ (getU 6 1 rec ≠ 2 → Runs (.joinReceive p ident rec) s (fun t =>
        (hubPort t p).leaves = (hubPort s p).leaves ∧ Logged 0x0481 p [byteOf (getU 6 1 rec)] t)))
  ∧ (∀ (p ident n : Nat) (msg : List Byte) (s : State), okPort p = true → isHub s p = true → decides s = true →
      leafByIdent s p ident = some n →
      ((4, ident, msg) ∈ (hubPort s p).inbox → Runs (.keepaliveReceive p ident msg) s (fun t =>
        (leafOf t p n).keeps = min 0xFFFFFFFF ((leafOf s p n).keeps + 1) ∧ (leafOf t p n).silentArmed = true
          ∧ (leafOf t p n).state ≠ 3 ∧ (leafOf t p n).mask = (leafOf s p n).mask))
      ∧ ((5, ident, []) ∈ (hubPort s p).inbox → Runs (.leaveReceive p ident) s (fun t =>
        leafOf t p n = {} ∧ Logged 0x0404 p [byteOf n] t)))
  ∧ (∀ (p n : Nat) (s : State), okPort p = true → okLeaf n = true → isHub s p = true → decides s = true →
      ((leafOf s p n).state ≠ 0 → (leafOf s p n).mask = 0 → Runs (.leafNumberTimeout p n) s (fun t => leafOf t p n = {}
        ∧ (hubPort t p).recs = (hubPort s p).recs ++ [(5 :: natBE 6 (leafOf s p n).ident ++ [255] ++ (2 :: zeros 7), 4)]))
      ∧ ((leafOf s p n).state ≠ 0 → (leafOf s p n).silentArmed = true → Runs (.leafSilentTimeout p n) s (fun t =>
        leafOf t p n = { leafOf s p n with state := 3, silentArmed := false } ∧ Logged 0x0403 p [byteOf n] t)))
  ∧ (∀ (p n : Nat) (off : Int) (pws : List Int) (s : State), okPort p = true → okLeaf n = true → isHub s p = true →
      decides s = true → (leafOf s p n).mask ≠ 0 →
      (∀ k, k < 16 → bitOf (leafOf s p n).mask k = true → (rxSc s (16 * p + k)).conv = true) →
      ((powerOff s p (leafOf s p n).mask pws = false ∨ (leafOf s p n).gen ≠ 2) →
        Runs (.adjustAverage p n off pws) s (fun t => leafOf t p n = { leafOf s p n with off := off }
          ∧ (off.natAbs ≤ 20000 → (hubPort t p).recs = (hubPort s p).recs)
          ∧ (20000 < off.natAbs → (hubPort t p).recs = (hubPort s p).recs
              ++ [(3 :: natBE 6 (leafOf s p n).ident ++ [byteOf n] ++ padTo 8 (intBE 4 (-off) ++ intBE 2 0), 4)])))
      ∧ (powerOff s p (leafOf s p n).mask pws = true → (leafOf s p n).gen = 2 →
        Runs (.adjustAverage p n off pws) s (fun t => leafOf t p n = { leafOf s p n with off := off }
          ∧ ∃ v : Int, (hubPort t p).recs = (hubPort s p).recs ++ [(3 :: natBE 6 (leafOf s p n).ident ++ [byteOf n]
              ++ padTo 8 (intBE 4 (if 20000 < off.natAbs then -off else 0) ++ intBE 2 v), 4)])))
  ∧ (∀ (p n : Nat) (d : Int) (s : State), okPort p = true → okLeaf n = true → isHub s p = true → s.ctrl.stage = .ready →
      (leafOf s p n).mask ≠ 0 → (rxPort s p).manual = false → castReceives s p = true → (cdOf s p).state = 0 →
      Runs (.hubDispersionScan p n d) s (fun t =>
        (leafOf t p n).disp = clampInt (-60000) 60000 ((cdOf s p).active.base + d)
          ∧ (cdOf t p).active = (cdOf s p).active))
  ∧ (∀ (p at_ : Nat) (s : State), okPort p = true → at_ % slotTicks = 0 → now s ≤ at_ → (txPort s p).tx = .on →
      running s = true → injArmed s (0x086 + p) = false →
      (isHub s p = true → Runs (.castingSlot p at_) s (fun t => now t = at_ ∧ (hubPort t p).slot = at_ / slotTicks % 160
        ∧ (hubPort t p).sent = beaconFrame p 1 0 (at_ / slotTicks % 160) false (beaconMessage s p)
        ∧ (hubPort t p).recs = afterBeacon (hubPort s p).recs))
      ∧ ((hubPort s p).role = .p2p → (hubPort s p).exch ≠ 0 → Runs (.castingSlot p at_) s (fun t =>
        (hubPort t p).sent = beaconFrame p 2 (if (hubPort s p).exch = 2 then 1 else 0) (at_ / slotTicks % 160) false
          (capRecord s p))))

/-- A leaf's beacon, joining, grants and leaving; the capability exchange. On a leaf in READY: a frame that is not received
or not good extends the bad run; a good beacon counts, gives lock from the third in a row, stores slot, interval and
generation and takes the shift anew; a GRANT record adds a change to apply at the first boundary at least 2.0 ms ahead; a
capability frame is the mark of another role, reported once. 32 bad frames lose the lock. A leaf in backoff, or brought up
with its beacon settled, that may burst sends JOIN and waits; without an answer the window doubles to at most 256 slots,
and after 16 tries JOIN_FAILED is raised and joining waits, then goes on with a window of 8. KEEPALIVE and LEAVE are
sent. The first grant is applied at its boundary: the new mask has its class, what was owned beyond it is dark. A good
capability frame advances the exchange, three acknowledged ones after three good ones end it with LINK_UP, and a far end
of another role, or a beacon, with ROLE_MISMATCH. -/
def Obligations.LeafJoinsAndFollows : Prop :=
  (∀ (p : Nat) (off : Int) (hdr : List Byte) (llrs : List Int) (s : State), okPort p = true → isLeaf s p = true →
      s.ctrl.stage = .ready → hdr.length = 16 →
      ((castReceives s p = false ∨ frameRead hdr llrs = none) → Runs (.beaconReceive p hdr llrs off) s (fun t =>
        (hubPort t p).goodRun = 0 ∧ (hubPort t p).badRun = (hubPort s p).badRun + 1))
      ∧ (∀ msg, castReceives s p = true → frameRead hdr llrs = some msg →
        (getU 6 1 hdr = 1 → newRecords p (hubPort s p) msg = [] → Runs (.beaconReceive p hdr llrs off) s (fun t =>
          (hubPort t p).good = min (2 ^ 64 - 1) ((hubPort s p).good + 1) ∧ (hubPort t p).goodRun = (hubPort s p).goodRun + 1
            ∧ (hubPort t p).badRun = 0 ∧ ((hubPort t p).lock = true ↔ (hubPort s p).lock = true ∨ 2 ≤ (hubPort s p).goodRun)
            ∧ (hubPort t p).slot = getU 10 2 hdr ∧ (hubPort t p).keep = getU 34 2 msg
            ∧ (hubPort t p).gen = min (ownGen s) (getU 32 1 msg) ∧ (hubPort t p).shift = shiftOf off (hubPort s p).adj))
        ∧ (∀ r, getU 6 1 hdr = 1 → newRecords p (hubPort s p) msg = [r] → getU 0 1 r = 2 →
          Runs (.beaconReceive p hdr llrs off) s (fun t =>
            (hubPort t p).grants = (hubPort s p).grants ++ [(getU 8 2 r, getU 10 1 r, earliestBoundary s, true)]
              ∧ (hubPort t p).join = .idle))
        ∧ (getU 6 1 hdr = 2 → Runs (.beaconReceive p hdr llrs off) s (fun t => (hubPort t p).mism = true
          ∧ (hubPort t p).badRun = (hubPort s p).badRun + 1
          ∧ ((hubPort s p).mism = false → Logged 0x0481 p [byteOf (getU 6 1 msg)] t)))))
  ∧ (∀ (p : Nat) (s : State), okPort p = true → isLeaf s p = true → (hubPort s p).lock = true → 32 ≤ (hubPort s p).badRun →
      Runs (.beaconLockLoss p) s (fun t => (hubPort t p).lock = false ∧ Logged 0x0406 p [byteOf p] t))
  ∧ (∀ (p k : Nat) (s : State), okPort p = true → mayBurst s p = true →
      (k < (hubPort s p).window →
        ((hubPort s p).join = .backoff ∨ ((hubPort s p).join = .bringUp ∧ beaconSettled s p = true)) →
        Runs (.joinSend p k) s (fun t =>
          (hubPort t p).join = .waitAck ∧ (hubPort t p).sent = burstFrame p 3 (hubPort s p).slot (capRecord s p)))
      ∧ (k < 8 → (hubPort s p).leafNum ≠ 0xFF → Runs (.keepaliveSend p k) s (fun t =>
        (hubPort t p).sent = burstFrame p 4 (hubPort s p).slot (keepMessage s p)))
      ∧ (k < (hubPort s p).window → 0 < (hubPort s p).leaves3 → Runs (.leaveSend p k) s (fun t =>
        (hubPort t p).sent = burstFrame p 5 (hubPort s p).slot [] ∧ (hubPort t p).leaves3 = (hubPort s p).leaves3 - 1
          ∧ ((hubPort s p).leaves3 = 1 → (hubPort t p).leafNum = 0xFF))))
  ∧ (∀ (p : Nat) (s : State), okPort p = true → (hubPort s p).join = .waitAck → decides s = true →
      Runs (.ackTimeout p) s (fun t =>
        ((hubPort s p).tries + 1 = 16 → (hubPort t p).join = .waitRetry ∧ (hubPort t p).tries = 0)
        ∧ ((hubPort s p).tries + 1 ≠ 16 → (hubPort t p).join = .backoff ∧ (hubPort t p).tries = (hubPort s p).tries + 1
          ∧ (hubPort t p).window = min (2 * (hubPort s p).window) 256)))
  ∧ (∀ (p : Nat) (s : State), okPort p = true → (hubPort s p).join = .waitRetry →
      Runs (.joinRetryWait p) s (fun t => (hubPort t p).join = .backoff ∧ (hubPort t p).window = 8 ∧ (hubPort t p).tries = 0))
  ∧ (∀ (p at_ mask cls b : Nat) (granted : Bool) (rest : List (Nat × Nat × Nat × Bool)) (s : State), okPort p = true →
      (hubPort s p).grants = (mask, cls, b, granted) :: rest → isLeaf s p = true → at_ % boundaryTicks = 0 → b ≤ at_ →
      now s ≤ at_ → s.ctrl.stage = .ready →
      Runs (.leafGrantApply p at_) s (fun t => (hubPort t p).grants = rest ∧ (hubPort t p).owned = mask
        ∧ (hubPort t p).ownedCls = cls
        ∧ (∀ k, k < 16 → (txPort t p).classes.getD k 0 = if bitOf mask k then cls
            else if bitOf (hubPort s p).owned k then 0 else (txPort s p).classes.getD k 0)
        ∧ (granted = true → Logged 0x0401 p (natBE 2 mask ++ [byteOf cls]) t)))
  ∧ (∀ (p : Nat) (hdr : List Byte) (llrs : List Int) (s : State), okPort p = true → (hubPort s p).role = .p2p →
      (hubPort s p).exch ≠ 0 → castReceives s p = true → decides s = true → hdr.length = 16 →
      (frameRead hdr llrs = none →
        Runs (.capabilityReceive p hdr llrs) s (fun t => (hubPort t p).goodRun = 0 ∧ (hubPort t p).ackRun = 0))
      ∧ (∀ msg rec, frameRead hdr llrs = some msg → rec = padTo 32 msg → getU 6 1 hdr = 2 →
        (getU 6 1 rec = 0 → (hubPort s p).exch = 1 → Runs (.capabilityReceive p hdr llrs) s (fun t =>
          (hubPort t p).goodRun = (hubPort s p).goodRun + 1
            ∧ (hubPort t p).exch = if 2 ≤ (hubPort s p).goodRun then 2 else 1))
        ∧ (getU 6 1 rec = 0 → (hubPort s p).exch = 2 → 2 ≤ (hubPort s p).ackRun → bitOf (getU 7 1 hdr) 0 = true →
          Runs (.capabilityReceive p hdr llrs) s (fun t => (hubPort t p).exch = 0 ∧ (hubPort t p).far = rec
            ∧ (hubPort t p).gen = min (ownGen s) (getU 0 1 rec)
            ∧ (isFollower s p = false → Logged 0x0480 p [byteOf (hubPort t p).gen] t)))
        ∧ (getU 6 1 rec ≠ 0 → Runs (.capabilityReceive p hdr llrs) s (fun t => (hubPort t p).exch = 0
            ∧ (hubPort t p).mism = true
            ∧ ((hubPort s p).mism = false → Logged 0x0481 p [byteOf (getU 6 1 rec)] t))))
      ∧ (∀ msg, frameRead hdr llrs = some msg → getU 6 1 hdr = 1 → Runs (.capabilityReceive p hdr llrs) s (fun t =>
          (hubPort t p).exch = 0 ∧ (hubPort t p).mism = true ∧ ((hubPort s p).mism = false → Logged 0x0481 p [1] t))))

/-- The hub and cast commands. Accepted: hub.role of a dark port sets another role, ends its grants and format changes and
darkens it in both directions; hub.grant of a known leaf with a class it supports and subcarriers no other leaf owns stores the grant,
answers the boundary and sends GRANT; hub.release of a whole leaf frees it and sends DENY reason 4, of a mask takes
the mask away and sends RELEASE; hub.join of a leaf port with a receiver and a good feed starts the bring-up and
answers DEFERRED; hub.leave arms three LEAVE bursts; hub.status returns eight leaves, or a leaf's own entry; cast.config and cast.status
store the settings and return the counts. -/
def Obligations.HubCommands : Prop :=
  (∀ (mb p : Nat) (s : State), Accepted ⟨0x0400, some 4, [(2, 2)]⟩ mb s → p = arg s mb 0 1 → okPort p = true →
      arg s mb 1 1 ≤ 2 → portLit s p = false → roleNum (hubPort s p).role ≠ arg s mb 1 1 →
      Runs (.hubRole mb) s (fun t => AnsweredOk mb t ∧ roleNum (hubPort t p).role = arg s mb 1 1
        ∧ (hubPort t p).leaves = [] ∧ (hubPort t p).owned = 0 ∧ (txPort t p).changes = []
        ∧ ∀ k, k < 16 → (txPort t p).classes.getD k 0 = 0 ∧ (rxSc t (16 * p + k)).far = 0))
  ∧ (∀ (mb p n mask cls b w : Nat) (u : State) (s : State), Accepted ⟨0x0401, some 8, [(5, 3)]⟩ mb s → p = arg s mb 0 1 →
      n = arg s mb 1 1 → mask = arg s mb 2 2 → cls = arg s mb 4 1 → okPort p = true → n ≤ 15 → 2 ≤ cls → cls ≤ 6 →
      mask ≠ 0 → isHub s p = true → (leafOf s p n).state ≠ 0 → bitOf (leafOf s p n).classes cls = true →
      (∀ k, k < 16 → bitOf mask k = true → ownerOf s p k = none ∨ ownerOf s p k = some n) →
      mergeOrPlace p (mask ||| (leafOf s p n).mask) (grantClasses mask cls) (earliestBoundary s) (requestOf s mb).tag s
        = some (b, w, u) →
      Runs (.hubGrant mb) s (fun t => AnsweredOk mb t ∧ respBytes t mb 0 10 = tcBytes10 b
        ∧ (leafOf t p n).mask = mask ∧ (leafOf t p n).cls = cls
        ∧ (leafOf t p n).state = (if (leafOf s p n).state = 3 then 3 else 2)
        ∧ (hubPort t p).recs = (hubPort s p).recs
            ++ [(2 :: natBE 6 (leafOf s p n).ident ++ [byteOf n] ++ padTo 8 (natBE 2 mask ++ [byteOf cls]), 4)]))
  ∧ (∀ (mb p n : Nat) (s : State), Accepted ⟨0x0402, some 4, []⟩ mb s → p = arg s mb 0 1 → n = arg s mb 1 1 →
      okPort p = true → isHub s p = true → (leafOf s p n).state ≠ 0 →
      (arg s mb 2 2 = 0 →
        ((leafOf s p n).mask = 0 ∨ (darken p (leafOf s p n).mask (requestOf s mb).tag s).isSome = true) →
        Runs (.hubRelease mb) s (fun t => AnsweredOk mb t ∧ leafOf t p n = {}
          ∧ (hubPort t p).recs = (hubPort s p).recs
              ++ [(5 :: natBE 6 (leafOf s p n).ident ++ [255] ++ (4 :: zeros 7), 4)]))
      ∧ (arg s mb 2 2 ≠ 0 →
        (darken p (arg s mb 2 2 &&& (leafOf s p n).mask) (requestOf s mb).tag s).isSome = true →
        Runs (.hubRelease mb) s (fun t => AnsweredOk mb t
          ∧ (leafOf t p n).mask = (leafOf s p n).mask ^^^ (arg s mb 2 2 &&& (leafOf s p n).mask)
          ∧ (hubPort t p).recs = (hubPort s p).recs
              ++ [(4 :: natBE 6 (leafOf s p n).ident ++ [byteOf n] ++ padTo 8 (natBE 2 (arg s mb 2 2)), 4)])))
  ∧ (∀ (mb p : Nat) (lo : Int) (s : State), Accepted (objShape 0x0403) mb s → p = arg s mb 0 1 → okPort p = true →
      isLeaf s p = true → receiving s p = true → feedGood s p lo = true →
      Runs (.hubJoin mb lo) s (fun t => AnsweredWith .deferred mb t ∧ (hubPort t p).join = .bringUp
        ∧ (hubPort t p).window = 8 ∧ transmitting t p = true))
  ∧ (∀ (mb p : Nat) (s : State), Accepted (objShape 0x0404) mb s → p = arg s mb 0 1 → okPort p = true →
      isLeaf s p = true → Runs (.hubLeave mb) s (fun t => AnsweredOk mb t ∧ (hubPort t p).leaves3 = 3))
  ∧ (∀ (mb p : Nat) (s : State), Accepted ⟨0x0405, some 4, [(2, 2)]⟩ mb s → p = arg s mb 0 1 → okPort p = true →
      isLeaf s p = false → (arg s mb 1 1 = 0 ∨ arg s mb 1 1 = 8) →
      Runs (.hubStatus mb) s (fun t => AnsweredOk mb t ∧ ∀ i, i < 8 →
        resp t mb (24 * i) 6 = (leafOf s p (arg s mb 1 1 + i)).ident % 2 ^ 48
          ∧ resp t mb (24 * i + 6) 1 = (leafOf s p (arg s mb 1 1 + i)).state % 256
          ∧ resp t mb (24 * i + 8) 2 = (leafOf s p (arg s mb 1 1 + i)).mask % 65536))
  ∧ (∀ (mb p : Nat) (s : State), Accepted ⟨0x0405, some 4, [(2, 2)]⟩ mb s → p = arg s mb 0 1 → okPort p = true →
      isLeaf s p = true → arg s mb 1 1 = 0 →
      Runs (.hubStatus mb) s (fun t => AnsweredOk mb t ∧ resp t mb 0 6 = castIdent p
        ∧ resp t mb 8 2 = (hubPort s p).owned % 65536))
  ∧ (∀ (mb p : Nat) (s : State), Accepted ⟨0x0480, some 8, []⟩ mb s → p = arg s mb 0 1 → okPort p = true →
      30 ≤ arg s mb 1 1 → arg s mb 1 1 ≤ 90 → -200 ≤ argI s mb 2 2 → argI s mb 2 2 ≤ 0 → 10 ≤ arg s mb 4 2 →
      arg s mb 4 2 ≤ 1000 → 2 ≤ arg s mb 6 2 → arg s mb 6 2 ≤ 200 →
      Runs (.castConfig mb) s (fun t => AnsweredOk mb t ∧ (hubPort t p).thr = arg s mb 1 1
        ∧ (hubPort t p).level = argI s mb 2 2 ∧ (hubPort t p).ackT = arg s mb 6 2
        ∧ (isLeaf s p = false → (hubPort t p).keep = arg s mb 4 2)))
  ∧ (∀ (mb p : Nat) (s : State), Accepted (objShape 0x0481) mb s → p = arg s mb 0 1 → okPort p = true →
      Runs (.castStatus mb) s (fun t => AnsweredOk mb t
        ∧ resp t mb 0 8 = (hubPort s p).delivered % 2 ^ 64 ∧ resp t mb 8 8 = (hubPort s p).mirages % 2 ^ 64
        ∧ resp t mb 16 8 = (hubPort s p).collision % 2 ^ 64 ∧ resp t mb 24 8 = (hubPort s p).lost % 2 ^ 64
        ∧ resp t mb 32 8 = (hubPort s p).rejected % 2 ^ 64 ∧ resp t mb 40 8 = (hubPort s p).payErr % 2 ^ 64
        ∧ resp t mb 56 1 = b2n (hubPort s p).lock))

/-- Bring-up of a host lane. A sensed termination takes a lane from DETECT to TRAIN with preset P2 unless its taps are
fixed; none leaves it. Good training frames, with symbol lock: in TRAIN a preset request sets the taps and is
reported, and a ready lane whose handshakes rest goes to EXCHANGE with a ready far end; in EXCHANGE a matching
record is acknowledged and the third acknowledged one after that leads to SWITCH, a differing one raises
HOST_CFG_MISMATCH once; in SWITCH the countdown goes on. A bad frame counts for nothing but the countdown, and ends the run of
acknowledged ones; without a locked CDR bit and symbol lock are lost. The timeouts of TRAIN, EXCHANGE and SWITCH are lane faults:
the lane returns to DETECT, counts a retrain, and its port goes down. -/
def Obligations.HostLaneBringUp : Prop :=
  ∀ (l : Nat) (s : State), okLane l = true →
    ((laneOf s l).st = .detect →
      Runs (.hlDetectTest l true) s (fun t => (laneOf t l).st = .train ∧ (laneOf t l).symRun = 0
        ∧ ((laneOf s l).fixed = false → (laneOf t l).pre = 4 ∧ (laneOf t l).main = 52 ∧ (laneOf t l).post = 8)
        ∧ ((laneOf s l).fixed = true → (laneOf t l).pre = (laneOf s l).pre ∧ (laneOf t l).main = (laneOf s l).main
          ∧ (laneOf t l).post = (laneOf s l).post))
      ∧ exec (.hlDetectTest l false) s = .next s)
    ∧ (∀ f : TrainFrame, running s = true → f.cdr = true → f.missing = false → f.crcOk = true → 2 ≤ (laneOf s l).symRun →
      ((laneOf s l).st = .train → (laneOf s l).fixed = false → (laneOf s l).stat = 0 → reqField f.req 8 ≠ 0 →
        Runs (.hlTrainingFrame l f) s (fun t => (laneOf t l).st = .train ∧ (laneOf t l).stat = 512
          ∧ ((laneOf t l).pre, (laneOf t l).main, (laneOf t l).post) = presetTaps (reqField f.req 8)))
      ∧ ((laneOf s l).st = .train → (laneOf s l).req = 0 → f.req = 0 → f.stat = 0 → f.rxDone = true → f.ready = true →
        Runs (.hlTrainingFrame l f) s (fun t => (laneOf t l).st = .exchange ∧ (laneOf t l).ready = true ∧ (laneOf t l).ack = false))
      ∧ ((laneOf s l).st = .exchange → 2 ≤ f.typ → recordMatches s l f.record = true →
        Runs (.hlTrainingFrame l f) s (fun t => (laneOf t l).ack = true
          ∧ (laneOf t l).ackRun = (if f.ack then (laneOf s l).ackRun + 1 else 0)
          ∧ (laneOf t l).st = if (laneOf s l).ack ∧ f.ack ∧ 2 ≤ (laneOf s l).ackRun then .switch else .exchange))
      ∧ ((laneOf s l).st = .exchange → 2 ≤ f.typ → recordMatches s l f.record = false →
        Runs (.hlTrainingFrame l f) s (fun t => (laneOf t l).st = .exchange ∧ (laneOf t l).ackRun = 0 ∧ (laneOf t l).mismatch = true
          ∧ ((laneOf s l).mismatch = false → Logged 0x0506 l (padTo 3 (field 1 3 f.record)) t)))
      ∧ ((laneOf s l).st = .switch →
        Runs (.hlTrainingFrame l f) s (fun t => (laneOf t l).count = (laneOf s l).count - 1
          ∧ (laneOf t l).farDone = ((laneOf s l).farDone || (f.typ == 3 && f.count == 0)))))
    ∧ (∀ f : TrainFrame, running s = true → f.crcOk = false ∨ f.cdr = false →
      ((laneOf s l).st = .exchange → Runs (.hlTrainingFrame l f) s (fun t => (laneOf t l).st = .exchange ∧ (laneOf t l).ackRun = 0))
      ∧ ((laneOf s l).st = .switch → Runs (.hlTrainingFrame l f) s (fun t => (laneOf t l).count = (laneOf s l).count - 1
          ∧ (laneOf t l).farDone = (laneOf s l).farDone))
      ∧ ((laneOf s l).st = .train ∨ (laneOf s l).st = .exchange ∨ (laneOf s l).st = .switch → f.cdr = false →
        Runs (.hlTrainingFrame l f) s (fun t => (laneOf t l).bitLock = false ∧ (laneOf t l).symRun = 0)))
    ∧ (((laneOf s l).st = .train → Runs (.hlTrainTimeout l) s (fun t => (laneOf t l).st = .detect
          ∧ (laneOf t l).retrains = min 0xFFFFFFFF ((laneOf s l).retrains + 1)
          ∧ ∀ nn, lanePort s l = some nn → (hostPort s nn).st = .up → (hostPort t nn).st = .down))
      ∧ ((laneOf s l).st = .exchange →
        Runs (.hlExchangeTimeout l) s (fun t => (laneOf t l).st = .detect
          ∧ (laneOf t l).retrains = min 0xFFFFFFFF ((laneOf s l).retrains + 1)))
      ∧ ((laneOf s l).st = .switch →
        Runs (.hlSwitchTimeout l) s (fun t => (laneOf t l).st = .detect
          ∧ (laneOf t l).retrains = min 0xFFFFFFFF ((laneOf s l).retrains + 1))))

/-- Markers, codewords, loss, low power and retirement of a host lane. A first marker is remembered; the second in its
place locks; in SWITCH, with the far end's countdown done and block lock, it makes the lane ACTIVE; a wrong one is a lane
fault; the third missing one in a row is a lane fault in ACTIVE. Corrected symbols and
uncorrectable codewords are counted, the blocks of the latter are errored, and the loss of block lock is a lane fault. A second above 1e-4 symbol errors, and loss of signal in ACTIVE, are lane
faults. A transition of host.lowpower ends with lanes and port in the target state; signal on a QUIET or DEEP port
with wake on signal starts the exit. A queued retirement leaves the lane retired. -/
def Obligations.HostLaneMarkersAndLoss : Prop :=
  ∀ (l : Nat) (s : State), okLane l = true →
    (∀ m : MarkerObs, running s = true → injFor s 0x0A1 l = false →
      ((laneOf s l).st = .switch → m.ok = true → (laneOf s l).cwLock = false → (laneOf s l).bsn = none →
        m.width = widthCode (hostPort s ((lanePort s l).getD 0)).width → m.logical = (laneOf s l).logical →
        Runs (.hlMarkerReceive l m) s (fun t => (laneOf t l).bsn = some (m.bsn % 2 ^ 48) ∧ (laneOf t l).cwLock = false
          ∧ (laneOf t l).st = .switch))
      ∧ (∀ b, (laneOf s l).st = .switch → m.ok = true → (laneOf s l).bsn = some b → (laneOf s l).farDone = true →
        m.width = widthCode (hostPort s ((lanePort s l).getD 0)).width → m.logical = (laneOf s l).logical →
        m.bsn % 2 ^ 48 = nextBsn b (laneOf s l).missRun → (laneOf s l).confirm = false → (laneOf s l).blkLock = true →
        Runs (.hlMarkerReceive l m) s (fun t => (laneOf t l).st = .active ∧ (laneOf t l).cwLock = true
          ∧ (laneOf t l).bsn = some (m.bsn % 2 ^ 48) ∧ (laneOf t l).activeAt = now s))
      ∧ ((laneOf s l).st = .active ∨ (laneOf s l).st = .switch → m.ok = true → (laneOf s l).confirm = false →
        m.logical ≠ (laneOf s l).logical ∨ m.width ≠ widthCode (hostPort s ((lanePort s l).getD 0)).width →
        Runs (.hlMarkerReceive l m) s (fun t => (laneOf t l).st = .detect
          ∧ (laneOf t l).retrains = min 0xFFFFFFFF ((laneOf s l).retrains + 1)))
      ∧ ((laneOf s l).st = .active → m.ok = false → (laneOf s l).cwLock = true →
        Runs (.hlMarkerReceive l m) s (fun t =>
          ((laneOf s l).missRun < 2 → (laneOf t l).st = .active ∧ (laneOf t l).missRun = (laneOf s l).missRun + 1)
          ∧ (2 ≤ (laneOf s l).missRun → (laneOf t l).st = .detect))))
    ∧ (∀ (n : Nat) (bad : Bool) (headers : List Nat), running s = true → (laneOf s l).st = .active →
      (laneOf s l).cwLock = true → injFor s 0x0A0 l = false →
      Runs (.hlRsCodeword l n bad headers) s (fun t =>
        (bad = false → n ≤ 8 → (laneOf t l).corrected = ((laneOf s l).corrected + n) % 2 ^ 32 ∧ (laneOf t l).unc = (laneOf s l).unc)
        ∧ (bad = true → (laneOf t l).corrected = (laneOf s l).corrected
          ∧ (laneOf t l).unc = min (2 ^ 64 - 1) ((laneOf s l).unc + 1)))
      ∧ ((laneOf s l).blkLock = true → (laneOf s l).hdrBad < 16 → headers = [] →
        Runs (.hlRsCodeword l n bad headers) s (fun t => (laneOf t l).st = .active ∧ (laneOf t l).blkLock = true
          ∧ (bad = true → codewordStart (laneOf s l) ∈ (laneOf t l).errBlks)))
      ∧ ((laneOf s l).blkLock = true → (laneOf s l).hdrBad = 0 → (laneOf s l).hdrSeen = 0 → headers = List.range 16 →
        Runs (.hlRsCodeword l n bad headers) s (fun t => (laneOf t l).st = .detect)))
    ∧ (∀ errs total : Nat, running s = true → (laneOf s l).st = .active →
      Runs (.hlSerSecond l errs total) s (fun t =>
        (10000 * errs ≤ total → (laneOf t l).st = .active) ∧ (total < 10000 * errs → (laneOf t l).st = .detect)
        ∧ (errs = 0 → (laneOf t l).ser = 0xFFFF)))
    ∧ ((laneOf s l).st = .active → running s = true → Runs (.hlLossOfSignal false l) s (fun t => (laneOf t l).st = .detect))
    ∧ ((laneOf s l).st = .quiet ∨ (laneOf s l).st = .deep → exec (.hlLossOfSignal false l) s = .next s)
    ∧ (∀ nn, lanePort s l = some nn → (hostPort s nn).wake = true → (hostPort s nn).target = none →
      ((hostPort s nn).st = .quiet ∨ (hostPort s nn).st = .deep) →
      Runs (.hlWakeOnSignal l) s (fun t => (hostPort t nn).target = some (0, none)))
    ∧ (∀ (tgt : Nat) (m : Option Nat), (hostPort s l).target = some (tgt, m) →
      Runs (.hostLowpowerDone l) s (fun t => (hostPort t l).target = none
        ∧ (hostPort t l).st = (if tgt = 1 then .quiet else if tgt = 2 then .deep
          else if (portLanes s l).any (fun k => !(laneOf s k).cwLock) then .down else .up)
        ∧ (∀ k ∈ portLanes s l, (laneOf t k).st = if tgt = 1 then .quiet else if tgt = 2 then .deep else .active)
        ∧ ∀ b, m = some b → b < 8 → AnsweredOk b t))
    ∧ (nextRetirement s 6 = some l → Runs (.hostLaneRetire l) s (fun t =>
        (laneOf t l).st = .retired ∧ isRetired t 6 l = true
          ∧ ∀ nn, lanePort s l = some nn → (hostPort t nn).st = .down))

/-- The host commands. Accepted: host.portcfg defines a port over disabled lanes of no port, or deletes one; host.enable
takes the lanes of a defined port to DETECT, or to DISABLED with the port down; host.txtaps fixes permitted taps or
frees them; host.lowpower from another state starts the transition, its mailbox busy until it ends, and in the state
asked for answers OK; host.retrain takes the lane to DETECT with a count and without a fault; host.lanestatus and
host.portstatus return state, taps, counts. -/
def Obligations.HostCommands : Prop :=
  (∀ (mb nn : Nat) (s : State), Accepted ⟨0x0500, some 8, [(5, 3)]⟩ mb s → nn = arg s mb 0 1 → okLane nn = true →
      arg s mb 1 1 ≤ 3 → arg s mb 2 1 ≤ 1 → nn % 2 ^ arg s mb 1 1 = 0 →
      (arg s mb 4 1 = 1 → (∀ i, i < 2 ^ arg s mb 1 1 → (laneOf s (nn + i)).st = .disabled ∧ (laneOf s (nn + i)).port = none) →
        Runs (.hostPortcfg mb) s (fun t => AnsweredOk mb t ∧ (hostPort t nn).defined = true
          ∧ (hostPort t nn).width = 2 ^ arg s mb 1 1 ∧ (hostPort t nn).degrade = (arg s mb 2 1 == 1)
          ∧ (hostPort t nn).precode = bitOf (arg s mb 3 1) 0 ∧ (hostPort t nn).wake = bitOf (arg s mb 3 1) 1
          ∧ (hostPort t nn).enabled = false
          ∧ ∀ i, i < 2 ^ arg s mb 1 1 → (laneOf t (nn + i)).port = some nn ∧ (laneOf t (nn + i)).logical = i))
      ∧ (arg s mb 4 1 = 0 → (hostPort s nn).defined = true →
        Runs (.hostPortcfg mb) s (fun t => AnsweredOk mb t ∧ hostPort t nn = {}
          ∧ ∀ l ∈ portLanes s nn, (laneOf t l).port = none)))
  ∧ (∀ (mb nn : Nat) (s : State), Accepted ⟨0x0501, some 4, [(2, 2)]⟩ mb s → nn = arg s mb 0 1 → okLane nn = true →
      (hostPort s nn).defined = true →
      (arg s mb 1 1 = 1 → (hostPort s nn).enabled = false →
        Runs (.hostEnable mb) s (fun t => AnsweredOk mb t ∧ (hostPort t nn).enabled = true
          ∧ ∀ l ∈ portLanes s nn, (laneOf s l).st ≠ .retired → (laneOf t l).st = .detect))
      ∧ (arg s mb 1 1 = 0 → (hostPort s nn).enabled = true →
        Runs (.hostEnable mb) s (fun t => AnsweredOk mb t ∧ (hostPort t nn).enabled = false ∧ (hostPort t nn).st = .down
          ∧ ∀ l ∈ portLanes s nn, (laneOf s l).st ≠ .retired → (laneOf t l).st = .disabled)))
  ∧ (∀ (mb l : Nat) (s : State), Accepted ⟨0x0502, some 8, [(5, 3)]⟩ mb s → l = arg s mb 0 1 → okLane l = true →
      arg s mb 1 1 ≤ 1 → arg s mb 2 1 ≤ 15 → 40 ≤ arg s mb 3 1 → arg s mb 3 1 ≤ 64 → arg s mb 4 1 ≤ 23 →
      arg s mb 2 1 + arg s mb 3 1 + arg s mb 4 1 ≤ 64 →
      Runs (.hostTxtaps mb) s (fun t => AnsweredOk mb t ∧ (laneOf t l).fixed = (arg s mb 1 1 == 1)
        ∧ (arg s mb 1 1 = 1 → (laneOf t l).pre = arg s mb 2 1 ∧ (laneOf t l).main = arg s mb 3 1 ∧ (laneOf t l).post = arg s mb 4 1)))
  ∧ (∀ (mb nn : Nat) (s : State), Accepted ⟨0x0503, some 4, [(2, 2)]⟩ mb s → nn = arg s mb 0 1 → okLane nn = true →
      arg s mb 1 1 ≤ 2 → (hostPort s nn).defined = true → (hostPort s nn).st ≠ .down → (hostPort s nn).target = none →
      (hpStateNum (hostPort s nn).st ≠ arg s mb 1 1 + 1 →
        Runs (.hostLowpower mb) s (fun t => (hostPort t nn).target = some (arg s mb 1 1, some mb)
          ∧ t.ctrl.cfgGen = s.ctrl.cfgGen + 1 ∧ t.ctrl.rung = s.ctrl.rung.erase mb ∧ t.ctrl.mbBusy = s.ctrl.mbBusy ∧ t.ctrl.mbDone = s.ctrl.mbDone))
      ∧ (hpStateNum (hostPort s nn).st = arg s mb 1 1 + 1 →
        Runs (.hostLowpower mb) s (fun t => AnsweredOk mb t ∧ t.ctrl.cfgGen = s.ctrl.cfgGen)))
  ∧ (∀ (mb l : Nat) (s : State), Accepted (objShape 0x0504) mb s → l = arg s mb 0 1 → okLane l = true →
      (laneOf s l).st ≠ .disabled → (laneOf s l).st ≠ .retired →
      Runs (.hostRetrain mb) s (fun t => AnsweredOk mb t ∧ (laneOf t l).st = .detect
        ∧ (laneOf t l).retrains = min 0xFFFFFFFF ((laneOf s l).retrains + 1) ∧ t.flt = s.flt))
  ∧ (∀ (mb l : Nat) (s : State), Accepted (objShape 0x0505) mb s → l = arg s mb 0 1 → okLane l = true →
      Runs (.hostLanestatus mb) s (fun t => AnsweredOk mb t ∧ resp t mb 0 1 = laneStateNum (laneOf s l).st
        ∧ resp t mb 4 1 = (laneOf s l).pre % 256 ∧ resp t mb 5 1 = (laneOf s l).main % 256
        ∧ resp t mb 6 1 = (laneOf s l).post % 256 ∧ resp t mb 20 8 = (laneOf s l).unc % 2 ^ 64
        ∧ resp t mb 36 4 = (laneOf s l).retrains % 2 ^ 32))
  ∧ (∀ (mb nn : Nat) (s : State), Accepted (objShape 0x0506) mb s → nn = arg s mb 0 1 → okLane nn = true →
      (hostPort s nn).defined = true →
      Runs (.hostPortstatus mb) s (fun t => AnsweredOk mb t ∧ resp t mb 0 1 = hpStateNum (hostPort s nn).st
        ∧ resp t mb 8 8 = (hostPort s nn).rxPk % 2 ^ 64 ∧ resp t mb 16 8 = (hostPort s nn).txPk % 2 ^ 64
        ∧ resp t mb 48 8 = (hostPort s nn).egDrop % 2 ^ 64))

/-- Ingress, label lookup, counters and admission. On a port that is up a whole packet of permitted length with a data
class, a known range of label and room enters the port's queue with the commit window that covers it; a packet spanning an errored
block is dropped and counted; a port that is down takes none. A committed head, cached,
is looked up and goes on to admission; an uncached one starts a fill. A finished fill ends
the wait, with its line cached, or, uncorrectable, known as lost. Admission drops a packet without capacity, or that
would pass its share of the allocation, with its count, and otherwise occupies its cells and passes it to the cipher
or its queue. A counter line that missed is then cached with the increments that waited: the counters read as before and nothing
of it is pending. -/
def Obligations.PacketsFromTheHost : Prop :=
  (∀ (nn : Nat) (pk : HostPacket) (s : State), okLane nn = true → running s = true → (hostPort s nn).st = .up →
      (spansErrored s nn pk = false → 64 ≤ pk.body.length → pk.body.length ≤ 9216 → shimClass pk.shim < 2 →
        shimLabel pk.shim ≤ lastLabel → ingressUse s nn + pk.body.length + 4 ≤ 65536 * (hostPort s nn).width →
        Runs (.hostPacketIngress nn pk) s (fun t =>
          tabGet [] t.svc.ingress nn = tabGet [] s.svc.ingress nn ++ [{
              toHostPacket := pk, blk := portBlock (hostPort s nn).width pk.lane pk.count
              win := windowOf s nn (portBlock (hostPort s nn).width pk.lane pk.count) }]
            ∧ (hostPort t nn).rxPk = min (2 ^ 64 - 1) ((hostPort s nn).rxPk + 1)))
      ∧ (spansErrored s nn pk = true → Runs (.hostPacketIngress nn pk) s (fun t => t.svc = s.svc
          ∧ (hostPort t nn).dropErr = min (2 ^ 64 - 1) ((hostPort s nn).dropErr + 1))))
  ∧ (∀ (nn : Nat) (pk : HostPacket) (s : State), okLane nn = true → running s = true → (hostPort s nn).st = .down →
      Runs (.hostPacketIngress nn pk) s (fun t => t.svc = s.svc ∧ (hostPort t nn).rxPk = (hostPort s nn).rxPk))
  ∧ (∀ (nn line : Nat) (pk : InPacket) (rest : List InPacket) (s : State), okLane nn = true → running s = true →
      tabGet [] s.svc.ingress nn = pk :: rest → line = shimLabel pk.shim / 4 → nn ∉ s.svc.held → line ∉ s.svc.fills →
      injArmed s 0x0C0 = false → line ∉ s.svc.ueLines → committed s pk = true → firstToCommit s nn pk = true →
      (cached s line = true → (entryOf s (shimLabel pk.shim)).valid = true → Runs (.labelLookup nn) s (fun t =>
        tabGet [] t.svc.ingress nn = rest ∧ t.svc.lookups = min (2 ^ 64 - 1) (s.svc.lookups + 1)
          ∧ t.svc.looked = s.svc.looked ++ [{ lookedUp pk (entryOf s (shimLabel pk.shim)) with nn := nn }]))
      ∧ (cached s line = true → (entryOf s (shimLabel pk.shim)).valid = false → Runs (.labelLookup nn) s (fun t =>
        tabGet [] t.svc.ingress nn = rest ∧ t.svc.looked = s.svc.looked
          ∧ t.svc.unknown = min (2 ^ 64 - 1) (s.svc.unknown + 1)))
      ∧ (cached s line = false → s.svc.fills.length < 256 → Runs (.labelLookup nn) s (fun t =>
        tabGet [] t.svc.ingress nn = pk :: rest ∧ t.svc.fills = s.svc.fills ++ [line] ∧ nn ∈ t.svc.held
          ∧ t.svc.misses = min (2 ^ 64 - 1) (s.svc.misses + 1))))
  ∧ (∀ (line : Nat) (s : State), line < 1310720 → line ∈ s.svc.fills → line ∉ s.svc.ueLines →
      injectedPoint (labelBase + 64 * line) s = none → wordBad s (labelBase + 64 * line) = false →
      Runs (.labelFillDone line false) s (fun t => t.svc.fills = s.svc.fills.erase line ∧ cached t line = true
        ∧ line ∉ t.svc.ueLines)
      ∧ (regionValid s (regionOf (labelBase + 64 * line)) = true →
        Runs (.labelFillDone line true) s (fun t => t.svc.fills = s.svc.fills.erase line ∧ line ∈ t.svc.ueLines)))
  ∧ (∀ (line : Nat) (s : State), line < 2621440 → MemoryCanonical s → injectedPoint (counterBase + 64 * line) s = none →
      wordBad s (counterBase + 64 * line) = false → ctrCached s line = false →
      Runs (.counterLineFillDone line false) s (fun t => t.svc.ctrFull = false ∧ ctrCached t line = true
        ∧ tabGet {} t.svc.ctrPend (2 * line) = {} ∧ tabGet {} t.svc.ctrPend (2 * line + 1) = {}
        ∧ counterValues t (2 * line) = counterValues s (2 * line)
        ∧ counterValues t (2 * line + 1) = counterValues s (2 * line + 1)))
  ∧ (∀ (p : TxPacket) (rest : List TxPacket) (x o : Nat) (s : State), running s = true → s.svc.looked = p :: rest →
      x = p.entry.trib → o = (if isSingle s then (tribOf s x).occ else occAt s p.win (tribOf s x)) → injFor s 0x0C2 x = false → counterFull s = false → isStandIn s = false →
      (noCapacity s x = true → Runs .packetAdmission s (fun t => t.svc.looked = rest
        ∧ (tribOf t x).noCap = min (2 ^ 64 - 1) ((tribOf s x).noCap + 1) ∧ (tribOf t x).occ = o))
      ∧ (noCapacity s x = false → creditLimit s p < o + p.cells → Runs .packetAdmission s (fun t =>
        t.svc.looked = rest ∧ (tribOf t x).occ = o ∧ t.svc.cipherIn = s.svc.cipherIn
          ∧ (p.de = true → (tribOf t x).noCreditDe = min (2 ^ 64 - 1) ((tribOf s x).noCreditDe + 1))
          ∧ (p.de = false → p.cls = 1 → (tribOf t x).noCreditExpress = min (2 ^ 64 - 1) ((tribOf s x).noCreditExpress + 1))
          ∧ (p.de = false → p.cls ≠ 1 → (tribOf t x).noCreditNormal = min (2 ^ 64 - 1) ((tribOf s x).noCreditNormal + 1))))
      ∧ (noCapacity s x = false → o + p.cells ≤ creditLimit s p → Runs .packetAdmission s (fun t =>
        t.svc.looked = rest ∧ (tribOf t x).occ = o + p.cells
          ∧ (tribOf t x).admitted = min (2 ^ 64 - 1) ((tribOf s x).admitted + 1)
          ∧ (encrypts p = true → t.svc.cipherIn = s.svc.cipherIn ++ [p])
          ∧ (encrypts p = false → t.svc.cipherIn = s.svc.cipherIn
            ∧ ∃ q, q.bytes = tpePacket p.label p.cls false p.body ∧ q.trib = x ∧ q.cells = p.cells
              ∧ (p.cls = 1 → (tribOf t (feeder s x)).express = (tribOf s (feeder s x)).express ++ [q])
              ∧ (p.cls ≠ 1 → (tribOf t (feeder s x)).normal = (tribOf s (feeder s x)).normal ++ [q])))))

/-- The slot mapper, delineation and delivery to the host. SLOT_FRAME_MAP puts the next 231 bytes of a long packet in
progress into the slot that is the next to be filled, or the test pattern. CREDIT_RETURN gives the freed cells back. A valid header
takes delineation from HUNT to PRESYNC, and the one behind the packet it announces to SYNC; an invalid one leads back to HUNT at the
next byte, with TRIB_DELINEATION from SYNC; too few bytes leave all as it is. The slot-frames of the earliest departure leave once all of it
has arrived, in order, into the tributary's stream; one past its deadline is taken as errored. A packet whole in the stream leaves it: a mute
tributary delivers nothing, else the packet counts as unknown, mismatched or errored, goes to the cipher, or goes into the egress queue if it
fits there and is otherwise counted; the head of that queue leaves, and counts as delivered, on a port that is up and is dropped and counted
on one that is not. -/
def Obligations.SlotsToEgress : Prop :=
  (∀ (sc k o at_ : Nat) (s : State), okSc sc = true → okSlot k = true → o = (slotOwner s (40 * sc + k)).tx → o < 3840 →
      txLit s sc = true → at_ % frameTicks (txClass s sc) = 0 → now s ≤ at_ → nextToFill s o (40 * sc + k) at_ = true →
      partnerOf s o = none →
      ((tribOf s o).testSend = false → (tribOf s o).copy = [] → 231 ≤ (tribOf s o).cur.length →
        Runs (.slotFrameMap sc k at_) s (fun t => tabGet [] (txFrame t sc).slots k = (tribOf s o).cur.take 231
          ∧ (tribOf t o).cur = (tribOf s o).cur.drop 231 ∧ (tribOf t o).mapPos = some (at_, 40 * sc + k)))
      ∧ ((tribOf s o).testSend = true → Runs (.slotFrameMap sc k at_) s (fun t =>
          tabGet [] (txFrame t sc).slots k = (prbsBytes 231 (tribOf s o).prbs).1
            ∧ (tribOf t o).prbs = (prbsBytes 231 (tribOf s o).prbs).2)))
  ∧ (∀ (x : Nat) (s : State), okTrib x = true →
      Runs (.creditReturn x) s (fun t => (tribOf t x).occ = (tribOf s x).occ - (tribOf s x).freed ∧ (tribOf t x).freed = 0))
  ∧ (∀ (x h : Nat) (s : State), okTrib x = true → (tribOf s x).rxEn = true → (tribOf s x).pkt = none →
      ((tribOf s x).delin = .hunt → h = frontHeader (tribOf s x).stream →
        ((tribOf s x).stream.length < 6 → exec (.tpeHeaderReceive x) s = .next s)
        ∧ (6 ≤ (tribOf s x).stream.length → Runs (.tpeHeaderReceive x) s (fun t =>
          (tpeValid h = true → (tribOf t x).delin = .presync ∧ (tribOf t x).skip = 6 + tpeLength h
            ∧ (tribOf t x).stream = (tribOf s x).stream)
          ∧ (tpeValid h = false → (tribOf t x).delin = .hunt ∧ (tribOf t x).stream = (tribOf s x).stream.drop 1))))
      ∧ ((tribOf s x).delin = .presync → h = frontHeader ((tribOf s x).stream.drop (tribOf s x).skip) →
        (tribOf s x).skip + 6 ≤ (tribOf s x).stream.length → Runs (.tpeHeaderReceive x) s (fun t =>
          (tpeValid h = true → (tribOf t x).delin = .sync
            ∧ (tribOf t x).stream = (tribOf s x).stream.drop ((tribOf s x).skip + 6)
            ∧ (tribOf t x).pkt = if 0 < tpeLength h then some h else none)
          ∧ (tpeValid h = false → (tribOf t x).delin = .hunt ∧ (tribOf t x).stream = (tribOf s x).stream.drop 1)))
      ∧ ((tribOf s x).delin = .sync → h = frontHeader (tribOf s x).stream → 6 ≤ (tribOf s x).stream.length →
        Runs (.tpeHeaderReceive x) s (fun t =>
          (tpeValid h = true → frontClean (tribOf s x).stream = true → (tribOf t x).delin = .sync
            ∧ (tribOf t x).stream = (tribOf s x).stream.drop 6
            ∧ (tribOf t x).pkt = if 0 < tpeLength h then some h else none)
          ∧ (tpeValid h = false ∨ frontClean (tribOf s x).stream = false →
            (tribOf t x).delin = .hunt ∧ (tribOf t x).stream = (tribOf s x).stream.drop 1 ∧ Logged 0x0603 x [] t))))
  ∧ (∀ (x : Nat) (f : SlotFrame) (rest l : List SlotFrame) (s : State), okTrib x = true → (tribOf s x).rxEn = true →
      (tribOf s x).arrived = f :: rest → l = group f.dep (f :: rest) →
      (allArrived s x f.dep = false → exec (.slotFrameRelease x) s = .next s)
      ∧ (allArrived s x f.dep = true → partnerOf s x = none → (tribOf s x).testCheck = false →
        Runs (.slotFrameRelease x) s (fun t => (tribOf t x).pos = f.dep ∧ (tribOf t x).skew = skewOf l
          ∧ (tribOf t x).arrived = (f :: rest).drop l.length
          ∧ (tribOf t x).stream = (tribOf s x).stream ++ l.flatMap (·.bytes)
          ∧ (skewTolerance (tribOf s x) < skewOf l → (tribOf s x).skew ≤ skewTolerance (tribOf s x) →
            Logged 0x0602 x (natBE 4 (skewOf l)) t))))
  ∧ (∀ (x sc k dep : Nat) (s : State), okTrib x = true → okSc sc = true → okSlot k = true → (tribOf s x).rxEn = true →
      ((slotOwner s (40 * sc + k)).rx = x → (tribOf s x).pos ≤ dep → tabGet 0 (tribOf s x).seen (40 * sc + k) ≤ dep →
        Runs (.slotFrameDeadline x sc k dep) s (fun t => tabGet 0 (tribOf t x).seen (40 * sc + k) = dep + 1
          ∧ ∃ f ∈ (tribOf t x).arrived, f.dep = dep ∧ f.sc = sc ∧ f.slot = k ∧ f.arr = none ∧ f.bytes.length = 231
            ∧ frameErrored f = true))
      ∧ ((slotOwner s (40 * sc + k)).rx ≠ x → exec (.slotFrameDeadline x sc k dep) s = .next s))
  ∧ (∀ (x h : Nat) (p : RxPacket) (e : LabelEntry) (s : State), okTrib x = true → (tribOf s x).pkt = some h →
      tpeLength h ≤ (tribOf s x).stream.length →
      p = packetOf x h (tribOf s x).pktBad ((tribOf s x).stream.take (tpeLength h)) → e = entryOf s p.label →
      (mute s x = true → Runs (.packetReceive x) s (fun t => (tribOf t x).pkt = none
        ∧ (tribOf t x).stream = (tribOf s x).stream.drop (tpeLength h) ∧ t.svc.egress = s.svc.egress ∧ t.svc.rxq = s.svc.rxq))
      ∧ (mute s x = false → lineLost s (p.label / 4) = false → Runs (.packetReceive x) s (fun t =>
        (tribOf t x).pkt = none ∧ (tribOf t x).stream = (tribOf s x).stream.drop (tpeLength h)
        ∧ (e.valid = false →
          (tribOf t x).unknownRx = min (2 ^ 64 - 1) ((tribOf s x).unknownRx + 1) ∧ t.svc.egress = s.svc.egress)
        ∧ (e.valid = true → e.trib ≠ x → partnerOf s x ≠ some e.trib →
          (tribOf t x).mismatch = min (2 ^ 64 - 1) ((tribOf s x).mismatch + 1) ∧ t.svc.egress = s.svc.egress)
        ∧ (e.valid = true → e.trib = x → p.errored = true → (tribOf s x).delErr = false →
          (tribOf t x).dropErr = min (2 ^ 64 - 1) ((tribOf s x).dropErr + 1) ∧ t.svc.egress = s.svc.egress)
        ∧ (e.valid = true → e.trib = x → p.errored = false → (p.enc = true ∨ (e.ctx ≠ 0xFFFF ∧ e.bypass = false)) →
          t.svc.rxq = s.svc.rxq ++ [p] ∧ t.svc.egress = s.svc.egress)
        ∧ (e.valid = true → e.trib = x → p.errored = false → p.enc = false → e.ctx = 0xFFFF →
          (egressFits s (tribOf s x).egress p = true →
            tabGet [] t.svc.egress (tribOf s x).egress
              = tabGet [] s.svc.egress (tribOf s x).egress ++ [{ p with cset := some e.cset }])
          ∧ (egressFits s (tribOf s x).egress p = false → t.svc.egress = s.svc.egress
              ∧ (tribOf t x).egOver = min (2 ^ 64 - 1) ((tribOf s x).egOver + 1))))))
  ∧ (∀ (nn : Nat) (p : RxPacket) (rest : List RxPacket) (s : State), okLane nn = true →
      tabGet [] s.svc.egress nn = p :: rest →
      ((hostPort s nn).st = .up → countWaits p s = false → Runs (.egressSend nn) s (fun t => tabGet [] t.svc.egress nn = rest
        ∧ t.svc.lastSent = some (rxShim p, p.body) ∧ (hostPort t nn).txPk = min (2 ^ 64 - 1) ((hostPort s nn).txPk + 1)
        ∧ (p.cset.isSome = true → (tribOf t p.trib).delivered = min (2 ^ 64 - 1) ((tribOf s p.trib).delivered + 1))))
      ∧ ((hostPort s nn).st = .up → countWaits p s = true → exec (.egressSend nn) s = .next s)
      ∧ ((hostPort s nn).st ≠ .up → Runs (.egressSend nn) s (fun t => tabGet [] t.svc.egress nn = rest
        ∧ t.svc.lastSent = s.svc.lastSent ∧ (hostPort t nn).egDrop = min (2 ^ 64 - 1) ((hostPort s nn).egDrop + 1))))

/-- The trib commands and the map's commit. Accepted: trib.config of an on-chip tributary without partner that keeps the
rules stores its settings; trib.stage sets the staged owners of the named slots and no present owner; trib.commit of
a map that breaks no rule, with none pending, places a remap cue at its boundary and takes the staged owners as
pending; trib.status returns cells and counts. TRIB_REMAP_CUE of the pending commit makes every pending owner
present and advances the version of each port whose transmit map changes; beside a format change it clears the slots
of the subcarriers gone dark. -/
def Obligations.TributaryMapAndCommands : Prop :=
  (∀ (mb x : Nat) (s : State), Accepted ⟨0x0600, some 16, [(14, 2)]⟩ mb s → x = arg s mb 0 2 → x ≤ 3839 →
      bitOf (arg s mb 3 1) 2 = false → arg s mb 6 2 = 0 → allocations s x (arg s mb 8 4) ≤ 294912 →
      (arg s mb 4 2 = 0xFFFF ∨ portDefined s (arg s mb 4 2) = true) → fitsOnChip s x = true → arg s mb 12 2 = 0xFFFF →
      Runs (.tribConfig mb) s (fun t => AnsweredOk mb t ∧ (tribOf t x).txEn = bitOf (arg s mb 2 1) 0
        ∧ (tribOf t x).rxEn = bitOf (arg s mb 2 1) 1 ∧ (tribOf t x).locked = bitOf (arg s mb 3 1) 0
        ∧ (tribOf t x).delErr = bitOf (arg s mb 3 1) 1 ∧ (tribOf t x).bulk = false ∧ (tribOf t x).egress = arg s mb 4 2
        ∧ (tribOf t x).alloc = arg s mb 8 4 ∧ (tribOf t x).partner = 0xFFFF))
  ∧ (∀ (mb : Nat) (s : State), Accepted ⟨0x0601, some 12, [(9, 3)]⟩ mb s →
      (arg s mb 0 2 ≤ 3839 ∨ arg s mb 0 2 = 0xFFFF) → arg s mb 2 1 ≤ 95 → arg s mb 4 5 ≠ 0 → arg s mb 3 1 ≠ 0 →
      Runs (.tribStage mb) s (fun t => AnsweredOk mb t
        ∧ (∀ j, (slotOwner t j).tx = (slotOwner s j).tx ∧ (slotOwner t j).rx = (slotOwner s j).rx)
        ∧ ∀ k, k < 40 → bitOf (arg s mb 4 5) k = true →
          (bitOf (arg s mb 3 1) 0 = true → (slotOwner t (40 * arg s mb 2 1 + k)).stTx
              = if arg s mb 0 2 = 0xFFFF then 0xFFF else arg s mb 0 2)
          ∧ (bitOf (arg s mb 3 1) 1 = true → (slotOwner t (40 * arg s mb 2 1 + k)).stRx
              = if arg s mb 0 2 = 0xFFFF then 0xFFF else arg s mb 0 2)))
  ∧ (∀ (mb b i : Nat) (s : State), Accepted ⟨0x0602, some 12, [(10, 2)]⟩ mb s →
      wantedBoundary 0 (requestOf s mb) s = some b → s.svc.commit = none → stagedBreaks s = false → freeShared s = some i →
      Runs (.tribCommit mb) s (fun t => AnsweredOk mb t ∧ t.svc.commit = some (b, i) ∧ respBytes t mb 0 10 = tcBytes10 b
        ∧ (cueAt t i).state = 1 ∧ (cueAt t i).kind = 4 ∧ (cueAt t i).time = b
        ∧ ∀ k, (slotOwner t k).pTx = (slotOwner s k).stTx ∧ (slotOwner t k).pRx = (slotOwner s k).stRx
          ∧ (slotOwner t k).tx = (slotOwner s k).tx ∧ (slotOwner t k).rx = (slotOwner s k).rx))
  ∧ (∀ (mb : Nat) (s : State), Accepted ⟨0x0603, some 4, [(2, 2)]⟩ mb s → arg s mb 0 2 ≤ 3839 →
      Runs (.tribStatus mb) s (fun t => AnsweredOk mb t
        ∧ resp t mb 8 4 = liveRate s (arg s mb 0 2) % 2 ^ 32 ∧ resp t mb 12 4 = allocation s (arg s mb 0 2) % 2 ^ 32
        ∧ resp t mb 16 4 = (tribOf s (arg s mb 0 2)).occ % 2 ^ 32 ∧ resp t mb 24 8 = (tribOf s (arg s mb 0 2)).admitted % 2 ^ 64
        ∧ resp t mb 64 8 = (tribOf s (arg s mb 0 2)).delivered % 2 ^ 64))
  ∧ (∀ (i b at_ : Nat) (s : State), okCue i = true → dueOnGrid s i 4 at_ = true → s.svc.commit = some (b, i) →
      s.svc.fillAt = none →
      Runs (.tribRemapCue i at_) s (fun t => t.svc.commit = none ∧ (cueAt t i).state = 0 ∧
        (∀ k, (slotOwner t k).tx = (slotOwner s k).pTx ∧ (slotOwner t k).rx = (slotOwner s k).pRx)
        ∧ ∀ p, p < 6 → tabGet 0 t.svc.mapVer p
            = if ∃ k, k < 640 ∧ (slotOwner s (640 * p + k)).tx ≠ (slotOwner s (640 * p + k)).pTx
              then (tabGet 0 s.svc.mapVer p + 1) % 2 ^ 32 else tabGet 0 s.svc.mapVer p))
  ∧ (∀ (i at_ : Nat) (s : State), okCue i = true → dueOnGrid s i 4 at_ = true → s.svc.commit = none →
      Runs (.tribRemapCue i at_) s (fun t => (cueAt t i).state = 0 ∧ (txPort t (cueAt s i).obj).goneDark = 0
        ∧ ∀ k j, k < 16 → j < 40 → bitOf (txPort s (cueAt s i).obj).goneDark k = true →
            slotOwner t (40 * (16 * (cueAt s i).obj + k) + j) = {}))

/-- The label commands. Accepted: label.set writes the 16 bytes of a permitted entry and changes no other byte of a
readable line; label.get returns them; label.counters returns a set's four counters, and zeroes them where asked;
label.profile stores the two shares; label.stats returns the lookup counts and clears the overrun flag; label.tsread
returns and removes the oldest timestamp record. Each answers OK. -/
def Obligations.LabelCommands : Prop :=
  (∀ (mb l : Nat) (s : State), Accepted ⟨0x0680, some 20, []⟩ mb s → l = arg s mb 0 4 → l ≤ lastLabel → MemoryCanonical s →
      (requestOf s mb).pay.length = 20 → entryOk (field 4 16 (requestOf s mb).pay) = true →
      entryZeros (field 4 16 (requestOf s mb).pay) = true →
      wordBad s (labelBase + 64 * (l / 4)) = false → l / 4 ∉ s.svc.ueLines →
      Runs (.labelSet mb) s (fun t => AnsweredOk mb t
        ∧ bulkBytes t (labelBase + 16 * l) 16 = field 4 16 (requestOf s mb).pay
        ∧ ∀ a, (a < labelBase + 16 * l ∨ labelBase + 16 * l + 16 ≤ a) → bulkByte t a = bulkByte s a))
  ∧ (∀ (mb l : Nat) (s : State), Accepted ⟨0x0681, some 4, []⟩ mb s → l = arg s mb 0 4 → l ≤ lastLabel →
      wordBad s (labelBase + 64 * (l / 4)) = false → l / 4 ∉ s.svc.ueLines →
      Runs (.labelGet mb) s (fun t => AnsweredOk mb t ∧ respBytes t mb 0 16 = bulkBytes s (labelBase + 16 * l) 16
        ∧ resp t mb 16 1 = b2n (cached s (l / 4))))
  ∧ (∀ (mb k : Nat) (s : State), Accepted ⟨0x0682, some 8, [(5, 3)]⟩ mb s → k = arg s mb 0 4 → k ≤ lastLabel →
      (arg s mb 4 1 = 0 → Runs (.labelCounters mb) s (fun t => AnsweredOk mb t ∧ respBytes t mb 0 32 = counterBytes s k
        ∧ t.svc = s.svc ∧ t.bulk = s.bulk))
      ∧ (arg s mb 4 1 = 1 → s.pair.role ≤ 1 → MemoryCanonical s → Runs (.labelCounters mb) s (fun t => AnsweredOk mb t
        ∧ respBytes t mb 0 32 = counterBytes s k ∧ counterValues t k = [0, 0, 0, 0])))
  ∧ (∀ (mb : Nat) (s : State), Accepted ⟨0x0683, some 6, [(1, 1)]⟩ mb s → arg s mb 0 1 ≤ 15 → 1 ≤ arg s mb 2 2 →
      arg s mb 2 2 ≤ arg s mb 4 2 → arg s mb 4 2 ≤ 256 →
      Runs (.labelProfile mb) s (fun t => AnsweredOk mb t
        ∧ profileOf t (arg s mb 0 1) = { de := arg s mb 2 2, normal := arg s mb 4 2 }))
  ∧ (∀ (mb : Nat) (s : State), Accepted (bareShape 0x0684) mb s →
      Runs (.labelStats mb) s (fun t => AnsweredOk mb t ∧ resp t mb 0 8 = s.svc.lookups % 2 ^ 64
        ∧ resp t mb 8 8 = s.svc.misses % 2 ^ 64 ∧ resp t mb 16 8 = s.svc.unknown % 2 ^ 64
        ∧ t.svc = { s.svc with tsOverrun := false }))
  ∧ (∀ (mb : Nat) (s : State), Accepted (bareShape 0x0685) mb s →
      Runs (.labelTsread mb) s (fun t => AnsweredOk mb t
        ∧ (s.svc.tsFifo = [] → respBytes t mb 0 24 = zeros 24)
        ∧ ∀ r rest, s.svc.tsFifo = r :: rest → t.svc.tsFifo = rest ∧ resp t mb 0 1 = 1
          ∧ resp t mb 4 4 = r.label % 2 ^ 32 ∧ resp t mb 8 2 = r.trib % 65536 ∧ respBytes t mb 12 12 = tcBytes12 r.tc))

/-- The key window: staging, INSTALL, CLEAR, timeout and installation. Where the bus works, KEY_STAGE_WRITE stores
KEY_SEL, the salt or a key word, and KEY_INSTALL and KEY_CLEAR act. KEY_INSTALL with no installation pending
captures context, association number and salt, erases the staged key and salt and sets PENDING; with one pending it
answers BUSY in RESULT and keeps the pending one. KEY_CLEAR erases the staged key, salt and KEY_SEL;
KEY_STAGE_TIMEOUT erases a staged key and sets RESULT 8. KEY_INSTALL_DONE puts a key into an empty current slot with
number 1 next and an empty window, into the next slot where another key is current and in use, refuses a key the
context already holds with RESULT 3, and clears PENDING. -/
def Obligations.KeyWindowStages : Prop :=
  (∀ (val : Word) (s : State), busWorks .pcie s = true →
      Runs (.keyStageWrite 0x1000 val) s (fun t => t.ctrl.keySel = val &&& 0x3FFFF)
      ∧ Runs (.keyStageWrite 0x1004 val) s (fun t => t.ctrl.keySalt = val ∧ t.ctrl.keyStaged = true)
      ∧ ∀ k, k < 8 → Runs (.keyStageWrite (0x1010 + 4 * k) val) s (fun t =>
          tabGet 0 t.ctrl.keyData k = val ∧ t.ctrl.keyStaged = true
            ∧ ∀ q, q ≠ k → tabGet 0 t.ctrl.keyData q = tabGet 0 s.ctrl.keyData q))
  ∧ (∀ s : State, busWorks .pcie s = true → s.ctrl.keyJob = none → Runs (.keyInstall false) s (fun t =>
      t.ctrl.keySel = s.ctrl.keySel ∧ t.ctrl.keySalt = 0 ∧ t.ctrl.keyData = [] ∧ t.ctrl.keyStaged = false
        ∧ ∃ j, t.ctrl.keyJob = some j ∧ j.ctx = s.ctrl.keySel.toNat % 65536 ∧ j.an = s.ctrl.keySel.toNat / 65536 % 4
          ∧ j.salt = s.ctrl.keySalt.toNat))
  ∧ (∀ s : State, busWorks .pcie s = true → s.ctrl.keyJob ≠ none → Runs (.keyInstall false) s (fun t =>
      t.ctrl = { s.ctrl with keyResult := 1 } ∧ t.cipher = s.cipher))
  ∧ (∀ s : State, busWorks .pcie s = true → Runs .keyClear s (fun t =>
      t.ctrl.keySel = 0 ∧ t.ctrl.keySalt = 0 ∧ t.ctrl.keyData = [] ∧ t.ctrl.keyStaged = false
        ∧ t.ctrl.keyJob = s.ctrl.keyJob ∧ t.cipher = s.cipher))
  ∧ (∀ s : State, s.ctrl.keyStaged = true → Runs .keyStageTimeout s (fun t =>
      t.ctrl.keySalt = 0 ∧ t.ctrl.keyData = [] ∧ t.ctrl.keyStaged = false ∧ t.ctrl.keyResult = 8))
  ∧ (∀ (j : KeyJob) (s : State), s.ctrl.keyJob = some j → j.ctx < 40960 →
      (ctxOf s j.ctx).roll = none → holdsKey (ctxOf s j.ctx).cur j.key = false → holdsKey (ctxOf s j.ctx).nxt j.key = false →
      ((ctxOf s j.ctx).cur = none → holdsAn (ctxOf s j.ctx).nxt j.an = false →
        Runs .keyInstallDone s (fun t => t.ctrl.keyJob = none ∧ t.ctrl.keyResult = 0
          ∧ (ctxOf t j.ctx).cur = some (freshSlot j.key j.salt j.an) ∧ (ctxOf t j.ctx).pn = 1 ∧ (ctxOf t j.ctx).bytes = 0))
      ∧ ((ctxOf s j.ctx).cur ≠ none → holdsAn (ctxOf s j.ctx).cur j.an = false → (ctxOf s j.ctx).retired = false →
        Runs .keyInstallDone s (fun t => t.ctrl.keyJob = none ∧ t.ctrl.keyResult = 0
          ∧ (ctxOf t j.ctx).nxt = some (freshSlot j.key j.salt j.an) ∧ (ctxOf t j.ctx).cur = (ctxOf s j.ctx).cur)))
  ∧ (∀ (j : KeyJob) (s : State), s.ctrl.keyJob = some j → j.ctx < 40960 →
      (holdsKey (ctxOf s j.ctx).cur j.key = true ∨ holdsKey (ctxOf s j.ctx).nxt j.key = true) →
      Runs .keyInstallDone s (fun t => t.ctrl.keyJob = none ∧ t.ctrl.keyResult = 3 ∧ t.cipher = s.cipher))

/-- The ctx commands. Accepted, ctx.config stores direction bit, deliver-failed, profile and window; ctx.limits stores
the four limits of a profile; ctx.rollover of a context with a fresh next key and no pending rollover places a
rollover cue at the requested boundary; ctx.erase removes the slots its mask names; ctx.status shows the next packet
number, the bytes, the association numbers and the counts; ctx.lanes shows the active lanes of each direction. Each
answers OK. -/
def Obligations.ContextCommands : Prop :=
  (∀ (mb : Nat) (s : State), Accepted ⟨0x0700, some 8, [(6, 2)]⟩ mb s → okCtx (arg s mb 0 2) = true →
      arg s mb 2 1 ≤ 3 → arg s mb 3 1 ≤ 15 → arg s mb 4 2 ≤ 64 →
      Runs (.ctxConfig mb) s (fun t => AnsweredOk mb t
        ∧ (ctxOf t (arg s mb 0 2)).d = bitOf (arg s mb 2 1) 0 ∧ (ctxOf t (arg s mb 0 2)).delFailed = bitOf (arg s mb 2 1) 1
        ∧ (ctxOf t (arg s mb 0 2)).prof = arg s mb 3 1 ∧ (ctxOf t (arg s mb 0 2)).w = arg s mb 4 2
        ∧ ∀ c, c ≠ arg s mb 0 2 → ctxOf t c = ctxOf s c))
  ∧ (∀ (mb : Nat) (s : State), Accepted ⟨0x0701, some 40, [(1, 7)]⟩ mb s → arg s mb 0 1 ≤ 15 →
      1 ≤ arg s mb 8 8 → arg s mb 8 8 ≤ arg s mb 16 8 → arg s mb 16 8 ≤ 2 ^ 62 →
      64 ≤ arg s mb 24 8 → arg s mb 24 8 ≤ arg s mb 32 8 → arg s mb 32 8 ≤ 2 ^ 63 →
      Runs (.ctxLimits mb) s (fun t => AnsweredOk mb t ∧ limitsOf t (arg s mb 0 1) =
        { softP := arg s mb 8 8, hardP := arg s mb 16 8, softB := arg s mb 24 8, hardB := arg s mb 32 8 }))
  ∧ (∀ (mb b i : Nat) (k : KeySlot) (s : State), Accepted ⟨0x0702, some 16, [(2, 2), (14, 2)]⟩ mb s →
      okCtx (arg s mb 0 2) = true → wantedBoundary 4 (requestOf s mb) s = some b → (ctxOf s (arg s mb 0 2)).nxt = some k →
      k.rxOnly = false → (ctxOf s (arg s mb 0 2)).roll = none → freeShared s = some i →
      Runs (.ctxRollover mb) s (fun t => AnsweredOk mb t ∧ (ctxOf t (arg s mb 0 2)).roll = some (b, i, false)
        ∧ (cueAt t i).state = 1 ∧ (cueAt t i).kind = 2 ∧ (cueAt t i).obj = arg s mb 0 2 ∧ (cueAt t i).time = b))
  ∧ (∀ (mb : Nat) (s : State), Accepted ⟨0x0703, some 4, [(3, 1)]⟩ mb s → okCtx (arg s mb 0 2) = true →
      1 ≤ arg s mb 2 1 → arg s mb 2 1 ≤ 3 → ((ctxOf s (arg s mb 0 2)).roll = none ∨ bitOf (arg s mb 2 1) 0 = false) →
      Runs (.ctxErase mb) s (fun t => AnsweredOk mb t
        ∧ (ctxOf t (arg s mb 0 2)).nxt = (if bitOf (arg s mb 2 1) 0 then none else (ctxOf s (arg s mb 0 2)).nxt)
        ∧ (ctxOf t (arg s mb 0 2)).cur = (if bitOf (arg s mb 2 1) 1 then none else (ctxOf s (arg s mb 0 2)).cur)))
  ∧ (∀ (mb : Nat) (s : State), Accepted ⟨0x0704, some 4, [(2, 2)]⟩ mb s → okCtx (arg s mb 0 2) = true →
      Runs (.ctxStatus mb) s (fun t => AnsweredOk mb t
        ∧ resp t mb 8 8 = (ctxOf s (arg s mb 0 2)).pn % 2 ^ 62 ∧ resp t mb 16 8 = (ctxOf s (arg s mb 0 2)).bytes % 2 ^ 64
        ∧ resp t mb 1 1 = slotAn (ctxOf s (arg s mb 0 2)).cur % 256 ∧ resp t mb 2 1 = slotAn (ctxOf s (arg s mb 0 2)).nxt % 256
        ∧ resp t mb 72 8 = (ctxOf s (arg s mb 0 2)).rxOk % 2 ^ 64 ∧ t.cipher = s.cipher))
  ∧ (∀ (mb : Nat) (s : State), Accepted ⟨0x0705, some 0, []⟩ mb s →
      Runs (.ctxLanes mb) s (fun t => AnsweredOk mb t ∧ resp t mb 0 2 = listMask s.cipher.tx.active % 65536
        ∧ resp t mb 32 2 = listMask s.cipher.rx.active % 65536 ∧ t.cipher = s.cipher))

/-- Encryption and decryption of packets, rollovers and cipher lanes. PACKET_ENCRYPT on a packet whose context has a
current key that is neither retired nor at a hard limit uses the next packet number, adds its bytes and gives its lane its work; at a hard
limit the key is retired, the packet is dropped and counted. PACKET_DECRYPT of an unprotected packet whose label has
a context and no bypass counts one unprotected failure; of a protected packet that passes the lane comparison, the
replay check and the tag check, it counts one success, and its number is seen from then on. ROLLOVER_CUE at its
boundary makes the next key current and the former current key next and receive-only, restarts the packet number at
1, ends the pending rollover and frees its cue. ROLLOVER_ANNOUNCE_RECEIVE records the announced association number
and boundary. CIPHER_LANE_RETIRE with a spare takes the lane out of the active ones and puts the spare in. -/
def Obligations.CipherPackets : Prop :=
  ((∀ (p : TxPacket) (rest : List TxPacket) (k : KeySlot) (mism : Nat) (s : State), s.svc.cipherIn = p :: rest →
      (ctxOf s p.entry.ctx).cur = some k → (ctxOf s p.entry.ctx).retired = false →
      (overHard s (ctxOf s p.entry.ctx) p.body.length = false →
        Runs (.packetEncrypt mism) s (fun t => t.svc.cipherIn = rest
          ∧ (ctxOf t p.entry.ctx).pn = (ctxOf s p.entry.ctx).pn + 1
          ∧ (ctxOf t p.entry.ctx).bytes = (ctxOf s p.entry.ctx).bytes + p.body.length
          ∧ ∀ (lane : Nat) (w : LaneWork), takeLane (upTime s) (p.cls == 1) (ceilDiv p.body.length 16) (cipherLanes s 0) = some (lane, w) →
            mismatches s 0 lane mism = 0 → tabGet {} (cipherLanes t 0).work lane = w))
      ∧ (overHard s (ctxOf s p.entry.ctx) p.body.length = true →
        Runs (.packetEncrypt mism) s (fun t => t.svc.cipherIn = rest ∧ (ctxOf t p.entry.ctx).retired = true
          ∧ (ctxOf t p.entry.ctx).pn = (ctxOf s p.entry.ctx).pn
          ∧ (ctxOf t p.entry.ctx).txDrop = min max64 ((ctxOf s p.entry.ctx).txDrop + 1))))
  ∧ (∀ (p : RxPacket) (rest : List RxPacket) (mism : Nat) (s : State), s.svc.rxq = p :: rest → p.enc = false →
      (entryOf s p.label).ctx < 40960 → (entryOf s p.label).bypass = false →
      Runs (.packetDecrypt mism) s (fun t => t.svc.rxq = rest
        ∧ (ctxOf t (entryOf s p.label).ctx).fUnprot = min max64 ((ctxOf s (entryOf s p.label).ctx).fUnprot + 1)
        ∧ (ctxOf t (entryOf s p.label).ctx).rxOk = (ctxOf s (entryOf s p.label).ctx).rxOk))
  ∧ (∀ (p : RxPacket) (rest : List RxPacket) (k : KeySlot) (c pn lane : Nat) (w : LaneWork) (s : State), s.svc.rxq = p :: rest →
      p.enc = true → c = (entryOf s p.label).ctx → c ≠ 0xFFFF →
      slotFor (ctxOf s c) (beNat (p.body.take 4) / 2 ^ 30) = some k →
      takeLane (upTime s) (p.cls == 1) (ceilDiv (p.body.length - 20) 16) (cipherLanes s 1) = some (lane, w) →
      mismatches s 1 lane 0 = 0 →
      injFor s 0x0E4 c = false → injFor s 0x0E5 c = false → pn = rebuildPn k.h (beNat (p.body.take 4) % 2 ^ 30) →
      seenPn k (ctxOf s c).w pn = false → pn ≤ 2 ^ 62 →
      gcmTag k.key (ivOf k.salt (!(ctxOf s c).d) pn) (aadOf p.label p.cls p.body.length (p.body.take 4))
        ((p.body.drop 4).take (p.body.length - 20)) = p.body.drop (p.body.length - 16) →
      Runs (.packetDecrypt 0) s (fun t => (ctxOf t c).rxOk = min max64 ((ctxOf s c).rxOk + 1)
        ∧ ∃ k', slotFor (ctxOf t c) k.an = some k' ∧ k'.key = k.key ∧ seenPn k' (ctxOf t c).w pn = true)))
  ∧ ((∀ (i at_ : Nat) (s : State), okCue i = true → dueOnGrid s i 2 at_ = true →
      Runs (.rolloverCue i at_) s (fun t =>
        (ctxOf t (cueAt s i).obj).cur = (ctxOf s (cueAt s i).obj).nxt
        ∧ (ctxOf t (cueAt s i).obj).nxt = (ctxOf s (cueAt s i).obj).cur.map (fun k => { k with rxOnly := true })
        ∧ (ctxOf t (cueAt s i).obj).pn = 1 ∧ (ctxOf t (cueAt s i).obj).roll = none ∧ (cueAt t i).state = 0))
  ∧ (∀ (sc : Nat) (cell : List Byte) (s : State), okSc sc = true → getU 0 1 cell / 64 = 2 → getU 2 2 cell < 40960 →
      Runs (.rolloverAnnounceReceive sc cell) s (fun t =>
        (ctxOf t (getU 2 2 cell)).annAn = getU 4 1 cell % 4
        ∧ (ctxOf t (getU 2 2 cell)).annR = ticksSec (getU 5 6 cell) + ticksNs (getU 11 4 cell)
        ∧ (ctxOf t (getU 2 2 cell)).cur = (ctxOf s (getU 2 2 cell)).cur))
  ∧ (∀ (d lane sp : Nat) (rest : List Nat) (s : State), okDir d = true → lane < 13 →
      nextRetirement s 4 = some (13 * d + lane) → (cipherLanes s d).spare = sp :: rest → lane ∈ (cipherLanes s d).active →
      sp ≠ lane →
      Runs (.cipherLaneRetire d) s (fun t => lane ∉ (cipherLanes t d).active ∧ sp ∈ (cipherLanes t d).active
        ∧ (cipherLanes t d).spare = rest ∧ isRetired t 4 (13 * d + lane) = true)))

/-- A write into bulk memory stores its bytes and no other; the bulk commands. From a canonical memory, a write of any
length that ends within the memory completes: every written byte reads as written (outside the log and the history, which State holds
as structures, log entry 55), and every other byte of the
memory reads as before; a write that passes the end of the memory is no command of this module and stops as an
address it does not have. Accepted: bulk.sweep stores pass times and enables; bulk.sandglass sets depth and leak and
limits the level; bulk.status and bulk.memstatus return counts; bulk.budget answers OK and changes nothing of the
memory (what each client moved is a free value, log entry 3); bulk.retire of a pseudo-channel with spares, while
none migrates, answers DEFERRED and starts the migration. -/
def Obligations.BulkMemoryBytes : Prop :=
  (∀ (addr syms : Nat) (data : List Byte) (s : State), MemoryCanonical s →
    (addr + data.length ≤ bulkEnd → Runs (.bulkPartialWrite addr data syms) s (fun t =>
      (∀ k, k < data.length → inLog (addr + k) = false →
        (regionValid s (regionOf (addr + k)) = true
          ∨ (pmRegion s (regionOf (addr + k)) = false ∧ logRegion s (regionOf (addr + k)) = false)) → bulkByte t (addr + k) = data.getD k 0)
      ∧ ∀ a, (a < addr ∨ addr + data.length ≤ a) → bulkByte t a = bulkByte s a))
    ∧ (bulkEnd < addr + data.length → exec (.bulkPartialWrite addr data syms) s = .fault .bulkAddress))
  ∧ ((∀ (mb : Nat) (s : State), Accepted ⟨0x0800, some 8, [(5, 3)]⟩ mb s → 1 ≤ arg s mb 0 2 →
      arg s mb 0 2 ≤ 168 → 1 ≤ arg s mb 2 2 → arg s mb 2 2 ≤ 600 →
      Runs (.bulkSweep mb) s (fun t => AnsweredOk mb t ∧ t.bulk = { s.bulk with
        bulkPass := arg s mb 0 2, chipPass := arg s mb 2 2, bulkOn := bitOf (arg s mb 4 1) 0, chipOn := bitOf (arg s mb 4 1) 1 }))
  ∧ (∀ (mb g : Nat) (s : State), Accepted ⟨0x0801, some 8, [(1, 1)]⟩ mb s → 1 ≤ arg s mb 2 2 → 1 ≤ arg s mb 4 4 →
      arg s mb 4 4 ≤ 86400 → g < 71 → (arg s mb 0 1 = g ∨ arg s mb 0 1 = 255) →
      Runs (.bulkSandglassSet mb) s (fun t => AnsweredOk mb t ∧ sandOf t g = { sandOf s g with
        depth := arg s mb 2 2, leak := arg s mb 4 4, level := min (sandOf s g).level (arg s mb 2 2) }))
  ∧ (∀ (mb : Nat) (s : State), Accepted (bareShape 0x0802) mb s →
      Runs (.bulkStatus mb) s (fun t => AnsweredOk mb t ∧ resp t mb 0 1 = activePcs s % 256
        ∧ resp t mb 40 8 = s.bulk.corrected % 2 ^ 64 ∧ resp t mb 48 8 = s.bulk.unc % 2 ^ 64
        ∧ resp t mb 56 8 = s.bulk.poisonWrites % 2 ^ 64 ∧ resp t mb 64 8 = s.bulk.lastUe % 2 ^ 64))
  ∧ (∀ (mb : Nat) (s : State), Accepted (objShape 0x0803) mb s → arg s mb 0 1 ≤ 70 →
      Runs (.bulkMemstatus mb) s (fun t => AnsweredOk mb t
        ∧ resp t mb 2 2 = (sandOf s (arg s mb 0 1)).level % 65536 ∧ resp t mb 4 2 = (sandOf s (arg s mb 0 1)).depth % 65536
        ∧ resp t mb 16 8 = (sandOf s (arg s mb 0 1)).corr % 2 ^ 64 ∧ resp t mb 24 8 = (sandOf s (arg s mb 0 1)).unc % 2 ^ 64))
  ∧ (∀ (mb : Nat) (s : State), Accepted (bareShape 0x0804) mb s →
      Runs (.bulkBudgetRead mb) s (fun t => AnsweredOk mb t ∧ t.bulk = s.bulk))
  ∧ (∀ (mb : Nat) (s : State), Accepted ⟨0x0805, some 4, [(1, 1)]⟩ mb s → arg s mb 0 1 ≤ 63 → arg s mb 2 2 = 0xA55A →
      pcState s (arg s mb 0 1) ≠ .retired → s.bulk.migr = none → sparesShort s (arg s mb 0 1) = false →
      Runs (.bulkRetire mb) s (fun t => AnsweredWith .deferred mb t ∧ pcState t (arg s mb 0 1) ≠ .active)))

/-- Stored-word errors, the sandglass, the sweep and retirement. Without injection: a read of a clean word, or of one
never written, changes nothing; a correctable word is written back clean, counted and one increment of the
sandglass, which above its depth overflows to zero; an uncorrectable one is counted with its address, and its label
line is lost for the label client. A partial write into an uncorrectable word poisons it. The sweep reads the valid words in ascending
order, counts regions
at their last word and a pass's end starts the next; the leak lowers the level. A queued retirement of an active
pseudo-channel starts its migration or, without spares, ends with BULK_RETIRE_FAILED; a region copied reads from its
spare, and after the last the pseudo-channel is retired. -/
def Obligations.BulkErrorsAndSweep : Prop :=
  (∀ (c addr syms : Nat) (s : State), addr < bulkEnd → injectedPoint addr s = none →
      (regionHeld s (regionOf addr) = false ∨ readStatus s addr syms = .clean → exec (.bulkRead c addr syms) s = .next s)
      ∧ (regionHeld s (regionOf addr) = true → readStatus s addr syms = .correctable →
        Runs (.bulkRead c addr syms) s (fun t => wordStatus t (addr / 64) = .clean
          ∧ t.bulk.corrected = min (2 ^ 64 - 1) (s.bulk.corrected + 1) ∧ t.bulk.mem = s.bulk.mem
          ∧ ∀ g, g = sandIndex s addr → (sandOf t g).corr = min (2 ^ 64 - 1) ((sandOf s g).corr + 1)
            ∧ ((sandOf s g).level < (sandOf s g).depth → (sandOf t g).level = (sandOf s g).level + 1)
            ∧ ((sandOf s g).depth ≤ (sandOf s g).level → (sandOf t g).level = 0
              ∧ (sandOf t g).overflows = min 0xFFFFFFFF ((sandOf s g).overflows + 1))))
      ∧ (regionHeld s (regionOf addr) = true → readStatus s addr syms = .uncorrectable →
        Runs (.bulkRead 12 addr syms) s (fun t =>
          (inLog (64 * (addr / 64)) = false ∨ s.log.frozen = false → wordStatus t (addr / 64) = .uncorrectable)
          ∧ t.bulk.unc = min (2 ^ 64 - 1) (s.bulk.unc + 1) ∧ t.bulk.lastUe = addr ∧ t.bulk.mem = s.bulk.mem)
        ∧ Runs (.bulkRead 4 addr syms) s (fun t => addr / 64 ∈ t.svc.ueLines)))
  ∧ (∀ (addr syms : Nat) (data : List Byte) (s : State), data ≠ [] → addr % 64 + data.length ≤ 64 → data.length < 64 →
      addr + data.length ≤ bulkEnd → regionHeld s (regionOf addr) = true → injFor s 0x104 (sandIndex s addr) = false →
      readStatus s addr syms = .uncorrectable →
      Runs (.bulkPartialWrite addr data syms) s (fun t =>
        (inLog (64 * (addr / 64)) = false ∨ s.log.frozen = false → wordStatus t (addr / 64) = .poisoned)
        ∧ t.bulk.poisonWrites = min (2 ^ 64 - 1) (s.bulk.poisonWrites + 1)))
  ∧ (∀ (addr syms : Nat) (s : State), addr < bulkEnd →
      (sweepOn false s = true → nextSwept s = some (addr / 64 * 64) →
        Runs (.sweepStep false addr syms) s (fun t => t.bulk.sweepAt = addr / 64 * 64 + 64
          ∧ t.bulk.swept = if addr % 4096 / 64 = 63 then s.bulk.swept + 1 else s.bulk.swept))
      ∧ (sweepOn false s = false ∨ nextSwept s ≠ some (addr / 64 * 64) → exec (.sweepStep false addr syms) s = .next s))
  ∧ (∀ (dur : Nat) (s : State), Runs (.sweepPassEnd false dur) s (fun t => t.bulk.swept = 0 ∧ t.bulk.sweepAt = 0 ∧ t.bulk.lastPass = dur
        ∧ t.bulk.shorten = s.bulk.shorten + dur - 3600 * s.bulk.bulkPass))
  ∧ (∀ (g : Nat) (s : State), okSand g = true →
      Runs (.sandglassLeak g) s (fun t => sandOf t g = { sandOf s g with level := (sandOf s g).level - 1 }))
  ∧ (∀ (g : Nat) (s : State), okPc g = true → nextRetirement s 5 = some g → s.bulk.migr = none → pcState s g = .active →
      (sparesShort s g = true → Runs (.pseudoChannelRetire g) s (fun t => pcState t g = .active ∧ Logged 0x0806 0 [byteOf g] t))
      ∧ (sparesShort s g = false → Runs (.pseudoChannelRetire g) s (fun t => pcState t g ≠ .active)))
  ∧ (∀ (bad r q : Nat) (rest : List (Nat × Nat)) (m : Migration) (s : State), s.bulk.migr = some m → m.todo = (r, q) :: rest →
      Runs (.migrationRegionCopy bad) s (fun t => tabGet 0 t.bulk.place r = q
        ∧ (rest = [] → t.bulk.migr = none ∧ pcState t m.pc = .retired)
        ∧ (rest ≠ [] → ∃ n, t.bulk.migr = some n ∧ n.pc = m.pc ∧ n.todo = rest)))

/-- Candidates, selection, holdover and the clk commands. A REFIN or PPS_IN candidate that loses activity is
disqualified and no longer selected; its activity returns. A lone candidate without a comparison counts its seconds
and qualifies when they reach window and qualification time, and is then selected and acquired. The wait-to-restore
time passes. ACQUIRE locks once the loop's phase error is below its limit. LOSC_IN lost or restored is reported; warm-up ends. Each second LOCKED and holdover time
pass, and a minute of LOCKED gives history. clk.candidate, clk.config, clk.force, clk.holdover and clk.refout store
their settings; clk.status returns the island's state. -/
def Obligations.TimingIsland : Prop :=
  (∀ (c : Nat) (s : State), c < 5 →
      Runs (.candidateActivityLoss c) s (fun t => (candOf t c).active = false ∧ (candOf t c).qual = false
        ∧ t.timing.sel ≠ some c)
      ∧ Runs (.candidateActivityReturn c) s (fun t => candOf t c = { candOf s c with active := true }))
  ∧ (∀ (c : Nat) (offs phases : List Int) (s : State), okCand c = true → timingRuns s = true → candActive s c = true →
      0 < (candOf s c).prio → (candOf s c).qual = false → (candOf s c).suspect = false →
      (∀ d, d < 13 → d ≠ c → (candOf s d).qual = false ∧ (candOf s d).prio = 0) → loscUsable s = false →
      s.timing.sel = none → s.timing.forced = none →
      Runs (.candidateMeasure offs phases) s (fun t => (candOf t c).inBand = (candOf s c).inBand + 1
        ∧ ((candOf s c).inBand + 1 < s.timing.window + s.timing.qualT → (candOf t c).qual = false ∧ t.timing.sel = none)
        ∧ (s.timing.window + s.timing.qualT ≤ (candOf s c).inBand + 1 → (candOf t c).qual = true ∧ t.timing.sel = some c
          ∧ t.timing.st = .acquire)))
  ∧ (∀ (c : Nat) (s : State), okCand c = true → (candOf s c).qual = true → (candOf s c).waited = false →
      Runs (.waitToRestoreExpiry c) s (fun t => (candOf t c).waited = true ∧ (candOf t c).qual = true))
  ∧ (∀ s : State, s.timing.st = .acquire →
      (phaseSettled s = true → Runs .timingLock s (fun t => t.timing.st = .locked ∧ t.timing.lockedFor = 0))
      ∧ (phaseSettled s = false → exec .timingLock s = .next s))
  ∧ (∀ (lost : Bool) (s : State), s.timing.loscLost ≠ lost →
      Runs (.loscActivityLoss lost) s (fun t => t.timing.loscLost = lost ∧ Logged 0x0907 0 [byteOf (b2n lost)] t))
  ∧ (∀ s : State, Runs .loscWarmupDone s (fun t => t.timing = { s.timing with warm := true }))
  ∧ (∀ (dT : Int) (s : State), timingRuns s = true → Runs (.hourglassTick dT) s (fun t =>
        (s.timing.st = .locked → t.timing.lockedFor = s.timing.lockedFor + 1
          ∧ (t.timing.history = true ↔ s.timing.history = true ∨ 59 ≤ s.timing.lockedFor))
        ∧ t.timing.heldFor = (if s.timing.st = .holdover then s.timing.heldFor + 1 else 0)
        ∧ (s.timing.loscLost = true → t.timing.hourglass = 0)))
  ∧ (∀ (mb c : Nat) (s : State), Accepted ⟨0x0900, some 8, [(2, 2)]⟩ mb s → c = arg s mb 0 1 → c ≤ 12 → arg s mb 1 1 ≤ 15 →
      (c < 4 → 8000 ≤ arg s mb 4 4 ∧ arg s mb 4 4 ≤ 800000000 ∧ arg s mb 4 4 % 1000 = 0) → (4 ≤ c → arg s mb 4 4 = 0) →
      Runs (.clkCandidate mb) s (fun t => AnsweredOk mb t ∧ (candOf t c).prio = arg s mb 1 1 ∧ (candOf t c).freq = arg s mb 4 4
        ∧ (arg s mb 1 1 = 0 ∨ (candOf s c).freq ≠ arg s mb 4 4 → (candOf t c).qual = false)))
  ∧ (∀ (mb : Nat) (s : State), Accepted ⟨0x0901, some 28, [(26, 2)]⟩ mb s → arg s mb 0 1 ≤ 9 → arg s mb 1 1 ≤ 1 →
      1 ≤ arg s mb 2 2 → arg s mb 2 2 ≤ 1000 → 10 ≤ arg s mb 4 4 → arg s mb 4 4 ≤ 50000 → 20 ≤ arg s mb 8 4 →
      arg s mb 8 4 ≤ 100000 → arg s mb 4 4 < arg s mb 8 4 → 1 ≤ arg s mb 12 4 → arg s mb 12 4 ≤ 10000 → arg s mb 16 2 ≤ 3600 →
      arg s mb 18 2 ≤ 720 → 10000000 ≤ arg s mb 20 4 → arg s mb 20 4 ≤ 100000000 → arg s mb 24 2 ≤ 3600 →
      Runs (.clkConfig mb) s (fun t => AnsweredOk mb t ∧ t.timing.bw = arg s mb 0 1 ∧ t.timing.revertive = (arg s mb 1 1 == 1)
        ∧ t.timing.window = arg s mb 2 2 ∧ t.timing.soft = arg s mb 4 4 ∧ t.timing.hard = arg s mb 8 4
        ∧ t.timing.agree = arg s mb 12 4 ∧ t.timing.qualT = arg s mb 16 2 ∧ t.timing.wtr = arg s mb 18 2))
  ∧ (∀ (mb : Nat) (s : State), Accepted (objShape 0x0902) mb s →
      (arg s mb 0 1 ≤ 12 → (candOf s (arg s mb 0 1)).prio ≠ 0 → (candOf s (arg s mb 0 1)).qual = true →
        Runs (.clkForce mb) s (fun t => AnsweredOk mb t ∧ t.timing.forced = some (arg s mb 0 1)
          ∧ t.timing.sel = some (arg s mb 0 1)))
      ∧ (arg s mb 0 1 = 0xFF → Runs (.clkForce mb) s (fun t => AnsweredOk mb t ∧ t.timing.forced = none)))
  ∧ (∀ (mb : Nat) (s : State), Accepted ⟨0x0903, some 20, [(17, 3)]⟩ mb s → arg s mb 12 4 ≠ 0 →
      tempChOk (arg s mb 16 1) = true →
      Runs (.clkHoldoverSet mb) s (fun t => AnsweredOk mb t ∧ t.timing = { s.timing with
        a0 := argI s mb 0 4, drift := argI s mb 4 4, kT := arg s mb 8 4, limE := arg s mb 12 4, tempCh := arg s mb 16 1 }))
  ∧ (∀ (mb : Nat) (s : State), Accepted ⟨0x0904, some 8, [(2, 2)]⟩ mb s → arg s mb 0 1 ≤ 1 → arg s mb 1 1 ≤ 2 →
      (arg s mb 4 4 = 0 ∨ (8000 ≤ arg s mb 4 4 ∧ arg s mb 4 4 ≤ 800000000 ∧ arg s mb 4 4 % 1000 = 0)) →
      Runs (.clkRefout mb) s (fun t => AnsweredOk mb t
        ∧ tabGet (0, 0) t.timing.refout (arg s mb 0 1) = (arg s mb 4 4, arg s mb 1 1)))
  ∧ (∀ (mb : Nat) (s : State), Accepted (bareShape 0x0905) mb s →
      Runs (.clkStatus mb) s (fun t => AnsweredOk mb t ∧ resp t mb 0 1 = islandNum s.timing.st
        ∧ resp t mb 4 4 = s.timing.hourglass % 2 ^ 32))

/-- The timecode, time of day, time transfer and cues across the link. tc.set of a free-running timecode, with no
transmitter on or with FORCE, steps it and counts; tc.source, tc.io and tc.transfer store their settings; tc.status
returns the timecode. A comparison steps the timecode by the measured offset while no transmitter is on and the
threshold is exceeded, else slews it. PPS_IN takes the second a good ToD message named, or the one by count from it; a bad message is discarded
and counted; its loss is reported once; PPS_OUT counts its edges. The time-transfer tick starts new averages.
Announcements of cues are marked, acknowledged, taken from the far end into the own region (on a point-to-point port the new one voids
those before it, log entry 53), and counted when
unacknowledged. cue.read, cue.cancel and cue.stats act on the table. -/
def Obligations.TimecodeAndCues : Prop :=
  (∀ (mb at_ : Nat) (s : State), Accepted ⟨0x0940, some 12, []⟩ mb s → readTime12 0 (requestOf s mb).pay = some at_ →
      s.timing.source = 0 → (anyTransmitting s = false ∨ (requestOf s mb).force = true) → at_ ≠ now s →
      Runs (.tcSet mb) s (fun t => AnsweredOk mb t ∧ now t = at_ ∧ t.timing.steps = min 0xFFFFFFFF (s.timing.steps + 1)))
  ∧ (∀ (mb : Nat) (s : State), Accepted ⟨0x0941, some 12, [(2, 2)]⟩ mb s → arg s mb 0 1 ≤ 1 → arg s mb 1 1 = 0 →
      100 ≤ arg s mb 4 4 → arg s mb 4 4 ≤ 1000000000 → 1 ≤ arg s mb 8 4 → arg s mb 8 4 ≤ 1000 →
      Runs (.tcSource mb) s (fun t => AnsweredOk mb t ∧ t.timing.source = arg s mb 0 1 ∧ t.timing.srcPort = 0
        ∧ t.timing.stepThr = arg s mb 4 4 ∧ t.timing.slewLim = arg s mb 8 4))
  ∧ (∀ (mb : Nat) (s : State), Accepted ⟨0x0942, some 12, [(9, 3)]⟩ mb s → arg s mb 0 4 ≤ 100000 →
      arg s mb 4 4 ≤ 100000 →
      Runs (.tcIo mb) s (fun t => AnsweredOk mb t ∧ t.timing = { s.timing with
        cable := arg s mb 0 4, advance := arg s mb 4 4, todOut := bitOf (arg s mb 8 1) 0, falling := bitOf (arg s mb 8 1) 1 }))
  ∧ (∀ (mb : Nat) (s : State), Accepted ⟨0x0943, some 16, [(2, 2)]⟩ mb s → okPort (arg s mb 0 1) = true →
      freqOk (arg s mb 8 4) = true → freqOk (arg s mb 12 4) = true →
      Runs (.tcTransfer mb) s (fun t => AnsweredOk mb t ∧ (transferOf t (arg s mb 0 1)).on = bitOf (arg s mb 1 1) 0
        ∧ (transferOf t (arg s mb 0 1)).asym = argI s mb 4 4 ∧ (transferOf t (arg s mb 0 1)).fTx = arg s mb 8 4
        ∧ (transferOf t (arg s mb 0 1)).fFar = arg s mb 12 4))
  ∧ (∀ (mb : Nat) (s : State), Accepted (bareShape 0x0944) mb s →
      Runs (.tcStatus mb) s (fun t => AnsweredOk mb t ∧ respBytes t mb 0 12 = tcBytes12 (now s)
        ∧ resp t mb 12 1 = s.timing.source % 256))
  ∧ (∀ (d : Int) (s : State), timingRuns s = true → isStandIn s = false → sourceOffset s = some d →
      (anyTransmitting s = false → ticksNs s.timing.stepThr < d.natAbs → Runs .tcSourceCompare s (fun t =>
        now t = (now s + d).toNat ∧ t.timing.steps = min 0xFFFFFFFF (s.timing.steps + 1) ∧ t.timing.slew = 0))
      ∧ ((anyTransmitting s = true ∨ d.natAbs ≤ ticksNs s.timing.stepThr) → Runs .tcSourceCompare s (fun t =>
        now t = now s ∧ t.timing.slew = ticksPs d)))
  ∧ (∀ (at_ : Nat) (s : State), timingRuns s = true → now s ≤ at_ → s.timing.todGood = true →
      Runs (.ppsInEdge at_) s (fun t => now t = at_ ∧ t.timing.todGood = false ∧ t.timing.todCounts = true
        ∧ t.timing.todSec = s.timing.todSec + 1
        ∧ t.timing.ppsOff = some ((s.timing.todSec : Int) * ticksSec 1 - (at_ - ticksNs s.timing.cable))))
  ∧ (∀ (at_ : Nat) (s : State), timingRuns s = true → now s ≤ at_ → s.timing.todGood = false → s.timing.todCounts = true →
      Runs (.ppsInEdge at_) s (fun t => t.timing.todSec = s.timing.todSec + 1 ∧ t.timing.todMiss = s.timing.todMiss + 1
        ∧ t.timing.ppsOff = some ((s.timing.todSec : Int) * ticksSec 1 - (at_ - ticksNs s.timing.cable))))
  ∧ (∀ (m : List Byte) (s : State), timingRuns s = true → injArmed s 0x143 = false →
      (todGoodMsg m = true → Runs (.todReceive m) s (fun t => t.timing.todSec = getU 4 6 m ∧ t.timing.todGood = true
        ∧ t.timing.taiUtc = getI 10 2 m ∧ t.timing.todArmed = true))
      ∧ (todGoodMsg m = false → Runs (.todReceive m) s (fun t => t.timing = { s.timing with
          todDisc := min 0xFFFFFFFF (s.timing.todDisc + 1) })))
  ∧ (∀ s : State, s.timing.todArmed = true → s.timing.todGood = false →
      Runs .todTimeout s (fun t => t.timing.todArmed = false ∧ Logged 0x0941 0 [] t))
  ∧ (∀ (at_ : Nat) (s : State), timingRuns s = true → now s ≤ at_ → (at_ + ticksNs s.timing.advance) % ticksSec 1 = 0 →
      Runs (.ppsOutEdge at_) s (fun t => now t = at_ ∧ t.timing.ppsOut = s.timing.ppsOut + 1))
  ∧ (∀ (p : Nat) (far : Bool) (s : State), okPort p = true → running s = true → (transferOf s p).on = true →
      Runs (.timeTransferTick p none far) s (fun t => (transferOf t p).farTakes = far ∧ (transferOf t p).off = none
        ∧ ∀ sc ∈ portScs p, (rxFramer t sc).nIn = 0 ∧ (rxFramer t sc).sumIn = 0))
  ∧ (∀ (i : Nat) (s : State), okCue i = true → unackedCue s i = true →
      (decides s = true → (channelSc s (cueAt s i).obj).isSome = true → Runs (.cueAnnounceRepeat i) s (fun t =>
        cueAt t i = { cueAt s i with announced := true }))
      ∧ ((cueAt s i).announced = true → Runs (.cueAckReceive i) s (fun t => cueAt t i = { cueAt s i with acked := true }))
      ∧ ((cueAt s i).announced = true → decides s = true → boundaryAfter (cueAt s i).time ≤ now s + ticksMs 1 →
        Runs (.cueUnackedCheck i) s (fun t => t.cues.unacked = min 0xFFFFFFFF (s.cues.unacked + 1)
          ∧ Logged 0x0981 i [byteOf (cueAt s i).kind] t)))
  ∧ (∀ (p i : Nat) (a : Announce) (s : State), okPort p = true → s.ctrl.stage = .ready → receiving s p = true →
      a.cancel = false → (∀ x ∈ (rxPort s p).ann, x.boundary ≠ a.boundary) → freeOwn s = some i →
      Runs (.cueAnnounceReceive p a) s (fun t =>
        (rxPort t p).ann = (if (hubPort s p).role = .p2p then [] else (rxPort s p).ann) ++ [a]
        ∧ t.cues.annRx = min 0xFFFFFFFF (s.cues.annRx + 1)
        ∧ ((hubPort s p).role ≠ .p2p ∨ (rxPort s p).ann = [] → cueAt t i = { state := 1, kind := 1, origin := 3, obj := p, time := a.boundary })))
  ∧ (∀ (mb i : Nat) (s : State), Accepted ⟨0x0980, some 4, [(2, 2)]⟩ mb s → i = arg s mb 0 2 → i ≤ 4095 →
      Runs (.cueRead mb) s (fun t => AnsweredOk mb t ∧ resp t mb 0 1 = shownState s (cueAt s i) % 256
        ∧ resp t mb 1 1 = (cueAt s i).kind % 256 ∧ resp t mb 4 2 = (cueAt s i).obj % 65536
        ∧ respBytes t mb 8 12 = tcBytes12 (cueAt s i).time))
  ∧ (∀ (mb i : Nat) (s : State), Accepted ⟨0x0981, some 4, [(2, 2)]⟩ mb s → i = arg s mb 0 2 → i ≤ 4095 →
      (cueAt s i).state = 1 →
      (now s + ticksMs 1 ≤ (cueAt s i).time → (cueAt s i).kind = 5 →
        Runs (.cueCancel mb) s (fun t => AnsweredOk mb t ∧ cueAt t i = {}))
      ∧ (now s + ticksMs 2 ≤ (cueAt s i).time → (cueAt s i).kind = 4 → (s.svc.commit.map (·.2)) = some i →
        Runs (.cueCancel mb) s (fun t => AnsweredOk mb t ∧ cueAt t i = {} ∧ t.svc.commit = none)))
  ∧ (∀ (mb : Nat) (s : State), Accepted (bareShape 0x0982) mb s →
      Runs (.cueStats mb) s (fun t => AnsweredOk mb t ∧ resp t mb 0 2 = pendingCues s % 65536
        ∧ resp t mb 8 8 = s.cues.lateN % 2 ^ 64 ∧ resp t mb 24 4 = s.cues.unacked % 2 ^ 32
        ∧ resp t mb 28 4 = s.cues.annRx % 2 ^ 32))

/-- The lease, the pair link, rehearsals and the pair commands. On a pair member, with no injection: an invalid lease
frame is counted unless the receiver hunts; a valid RENEW naming this module extends the lead's lease, or gives the
lease with a count; one naming the partner makes it stand-in. The own lease's end leaves no lease and freezes the
log; the partner's end leaves none. A heartbeat frame is sent with its sequence number; 1 ms without lease frames is
reported once. The pair link comes up with its exchange, or goes down. A rehearsal of a lead in step releases the
lease; the release times out. pair.config, pair.rehearse, pair.status and pair.resync act on these. -/
def Obligations.LeaseAndPairLink : Prop :=
  (∀ (fr : List Byte) (s : State), isMember s = true → awake s = true → injArmed s 0x161 = false →
      (leaseValid fr = false → Runs (.leaseFrameReceive fr) s (fun t => t.pair.role = s.pair.role
        ∧ t.pair.badRun = s.pair.badRun + 1
        ∧ t.pair.badFrames = if s.pair.hunting then s.pair.badFrames else min (2 ^ 64 - 1) (s.pair.badFrames + 1)))
      ∧ (leaseValid fr = true → bitOf (getU 8 1 fr) 0 = true → getU 2 6 fr = moduleIdent → s.pair.release = false →
        Runs (.leaseFrameReceive fr) s (fun t => t.pair.role = 1 ∧ t.pair.ownEnd = some (upTime s + leaseTicks (getU 12 4 fr))
          ∧ t.pair.badRun = 0 ∧ t.pair.arbOk = true
          ∧ t.pair.gained = if s.pair.role = 1 then s.pair.gained else min (2 ^ 64 - 1) (s.pair.gained + 1)))
      ∧ (leaseValid fr = true → bitOf (getU 8 1 fr) 0 = true → getU 2 6 fr ≠ moduleIdent → getU 2 6 fr ≠ 0 →
        Runs (.leaseFrameReceive fr) s (fun t => t.pair.role = 2 ∧ t.pair.ownEnd = none
          ∧ t.pair.farEnd = some (upTime s + leaseTicks (getU 12 4 fr)) ∧ t.pair.release = false)))
  ∧ (∀ (e : Nat) (s : State), (isLead s = true → s.pair.ownEnd = some e → Runs .leaseExpiry s (fun t => t.pair.role = 3
          ∧ t.pair.ownEnd = none ∧ t.log.frozen = true))
      ∧ (isStandIn s = true → s.pair.farEnd = some e → Runs .partnerLeaseExpiry s (fun t => t.pair.role = 3
          ∧ t.pair.farEnd = none)))
  ∧ (∀ s : State, isMember s = true →
      Runs .heartbeatSend s (fun t => t.pair.heartbeat = heartbeatFrame s ∧ t.pair.hbSeq = (s.pair.hbSeq + 1) % 65536)
      ∧ Runs .arbLostTimer s (fun t => t.pair.arbOk = false ∧ t.pair.arbLost = true
        ∧ (s.pair.arbLost = false → Logged 0x0A07 0 [1] t)))
  ∧ (∀ (x : PairExchange) (s : State), isMember s = true →
      (x.up = true → s.pair.linkEn = true → (∀ l, l < 4 → (laneOf s (96 + l)).st ≠ .retired) →
        Runs (.pairLinkUp x) s (fun t => t.pair.up = true ∧ t.pair.gen = min 2 x.gen ∧ t.pair.farIdent = x.ident
          ∧ t.pair.farLinkGen = x.linkGen ∧ (∀ l, l < 4 → (laneOf t (96 + l)).st = .active)
          ∧ (isLead s = false → t.pair.resync = 1 ∧ t.pair.inStep = false)))
      ∧ (x.up = false → s.pair.up = true → Runs (.pairLinkUp x) s (fun t => t.pair.up = false ∧ t.pair.gen = 0
          ∧ t.pair.inStep = false ∧ Logged 0x0A02 0 [0, 0] t)))
  ∧ (∀ (i at_ : Nat) (inStep far : Bool) (s : State), okCue i = true → cueDue s i 5 at_ = true → now s ≤ at_ →
      firstDue s i at_ (fun _ => true) = true → isLead s = true →
      ((inStep && far && s.pair.up) = true → Runs (.rehearsalCue i at_ inStep far) s (fun t => t.pair.role = 3
        ∧ t.pair.release = true ∧ t.pair.rehearsed = true ∧ t.pair.ownEnd = none))
      ∧ ((inStep && far && s.pair.up) = false → Runs (.rehearsalCue i at_ inStep far) s (fun t => t.pair.role = 1
        ∧ t.pair.release = s.pair.release ∧ t.pair.ownEnd = s.pair.ownEnd)))
  ∧ (∀ s : State, s.pair.rehearsed = true → Runs .rehearsalReleaseTimeout s (fun t => t.pair.release = false
        ∧ t.pair.rehearsed = false ∧ Logged 0x0A05 0 [3] t))
  ∧ (∀ (mb : Nat) (s : State), Accepted ⟨0x0A00, some 16, [(1, 1), (6, 2), (14, 2)]⟩ mb s → arg s mb 0 1 ≤ 1 →
      isMember s = true → 5 ≤ arg s mb 2 2 → arg s mb 2 2 ≤ 200 → arg s mb 4 2 ≤ 168 →
      Runs (.pairConfig mb) s (fun t => AnsweredOk mb t ∧ t.pair.linkEn = (arg s mb 0 1 == 1) ∧ t.pair.d = arg s mb 2 2
        ∧ t.pair.period = arg s mb 4 2 ∧ t.pair.expect = arg s mb 8 6
        ∧ (arg s mb 0 1 = 0 → s.pair.up = true → t.pair.up = false)))
  ∧ (∀ (mb i r : Nat) (s : State), Accepted ⟨0x0A01, some 12, [(10, 2)]⟩ mb s → isLead s = true →
      readTime10 0 (requestOf s mb).pay = some r → now s + ticksMs 10 ≤ r → s.pair.up = true → findCue s 5 0 = none →
      freeShared s = some i →
      Runs (.pairRehearse mb) s (fun t => AnsweredOk mb t ∧ (cueAt t i).state = 1 ∧ (cueAt t i).kind = 5 ∧ (cueAt t i).time = r))
  ∧ (∀ (mb : Nat) (s : State), Accepted (bareShape 0x0A02) mb s → isMember s = true →
      Runs (.pairStatus mb) s (fun t => AnsweredOk mb t ∧ resp t mb 0 1 = s.pair.role % 256 ∧ resp t mb 2 1 = s.pair.gen % 256
        ∧ resp t mb 16 4 = s.pair.leaseL % 2 ^ 32))
  ∧ (∀ (mb : Nat) (s : State), Accepted (bareShape 0x0A03) mb s → isStandIn s = true → s.pair.up = true →
      Runs (.pairResync mb) s (fun t => AnsweredOk mb t ∧ t.pair.resync = 1 ∧ t.pair.inStep = false ∧ t.pair.matched = 0))

/-- Commit windows, mirror records, digests and resynchronization. The lead's commit window records the last block index
of each port that is up. On the stand-in: a commit record is stored, and a late one is a divergence that takes it
out of step; a mirror interval judges the digests, and the sixteenth matched one after the copy brings it into step;
a mirrored cue, label, protection value, ltune correction, version, admission decision and command are applied, the
command with the lead's CFG_GEN; a context takes the lead's packet number and a differing key check value is kept; a
schedule replaces one of the same frame; an equal transmit digest changes nothing and a differing one is a
divergence, and receive digests over different codewords are skipped; the end of the copy starts the comparison; an
empty point is known once received. -/
def Obligations.StandInFollowsTheLead : Prop :=
  (∀ (k : Nat) (idx : List (Nat × Nat × Nat)) (s : State), isLead s = true → running s = true → now s ≤ windowEnd k →
      injArmed s 0x163 = false → (idx.map (·.1)).Nodup →
      Runs (.commitWindow k idx) s (fun t => now t = windowEnd k ∧ t.pair.window = k ∧ t.pair.lateC = s.pair.lateC
        ∧ ∀ e ∈ idx, (hostPort s e.1).st = .up →
          tabGet 0 t.pair.records e.1 = portBlock (hostPort s e.1).width e.2.1 e.2.2))
  ∧ (∀ (k : Nat) (idx : List (Nat × Nat)) (late : Bool) (m : Int) (s : State), isStandIn s = true → running s = true →
      injArmed s 0x163 = false →
      Runs (.commitRecordReceive k idx late m) s (fun t => t.pair.window = k
        ∧ (late = false → t.pair.lateC = s.pair.lateC ∧ t.pair.inStep = s.pair.inStep ∧ t.pair.diverg = s.pair.diverg)
        ∧ (late = true → t.pair.lateC = min (2 ^ 64 - 1) (s.pair.lateC + 1) ∧ t.pair.inStep = false
          ∧ t.pair.diverg = min (2 ^ 64 - 1) (s.pair.diverg + 1))))
  ∧ (∀ (at_ : Nat) (s : State), s.pair.up = true → running s = true → now s ≤ at_ → at_ % mirrorTicks = 0 →
      (isLead s = true → Runs (.mirrorInterval at_) s (fun t => now t = at_ ∧ ∀ sc, sc < 96 → (txFrame t sc).digestDue = false))
      ∧ (isStandIn s = true → Runs (.mirrorInterval at_) s (fun t => now t = at_ ∧ t.pair.mism = false
        ∧ (s.pair.mism = true → t.pair.matched = 0 ∧ t.pair.inStep = s.pair.inStep)
        ∧ (s.pair.mism = false → s.pair.resync = 2 → 15 ≤ s.pair.matched → s.pair.cfgBad = false → s.pair.kcvBad = [] →
          t.pair.inStep = true ∧ t.pair.resync = 0 ∧ t.pair.intervals = 0)
        ∧ (s.pair.mism = false → s.pair.resync = 2 → s.pair.matched < 15 →
          t.pair.matched = s.pair.matched + 1 ∧ t.pair.inStep = s.pair.inStep))))
  ∧ (∀ s : State, isStandIn s = true → s.pair.up = true → running s = true → injArmed s 0x0A3 = false →
      (∀ i kind obj time period tag : Nat, okCue i = true → 1 ≤ kind → kind ≤ 8 →
        Runs (.mirrorRecordReceive (.cuePlace i kind obj time period tag)) s (fun t => cueAt t i =
          { state := 1, kind := kind, origin := 2, periodic := period != 0, obj := obj, time := time, period := period
            tag := tag, nominal := time }))
      ∧ (∀ (n : Nat) (e : List Byte), n ≤ lastLabel → e.length = 16 → MemoryCanonical s →
        Runs (.mirrorRecordReceive (.label n e)) s (fun t => bulkBytes t (labelBase + 16 * n) 16 = e))
      ∧ (∀ sc v : Nat, okSc sc = true → Runs (.mirrorRecordReceive (.protection sc v)) s (fun t =>
          (txFrame t sc).pc = BitVec.ofNat 32 v))
      ∧ (∀ (p : Nat) (c : Int), okPort p = true → Runs (.mirrorRecordReceive (.ltune p c)) s (fun t => (rxPort t p).c = c))
      ∧ (∀ p v : Nat, okPort p = true → Runs (.mirrorRecordReceive (.versions p v)) s (fun t => tabGet 0 t.svc.mapVer p = v))
      ∧ (∀ (x : Nat) (b : Bool), okTrib x = true → Runs (.mirrorRecordReceive (.admission x b)) s (fun t =>
          t.pair.decisions = s.pair.decisions ++ [(x, b)]))
      ∧ (∀ (op tag gen at_ : Nat) (pay : List Byte), Runs (.mirrorRecordReceive (.command op tag gen at_ pay)) s (fun t =>
          t.ctrl.cfgGen = BitVec.ofNat 32 gen ∧ t.ctrl.deferred = s.ctrl.deferred)))
  ∧ (∀ (m : ContextMirror) (s : State), okCtx m.ctx = true → isStandIn s = true → running s = true →
      Runs (.contextMirrorReceive m) s (fun t => (ctxOf t m.ctx).pn = m.pn
        ∧ (2 * m.ctx ∈ t.pair.kcvBad ↔ beNat (kcv (ctxOf s m.ctx).cur) ≠ m.kcv0)
        ∧ (2 * m.ctx + 1 ∈ t.pair.kcvBad ↔ beNat (kcv (ctxOf s m.ctx).nxt) ≠ m.kcv1)))
  ∧ (∀ (e : Schedule) (s : State), okSc e.sc = true → takesSchedules s = true → now s ≤ e.dep →
      Runs (.scheduleReceive e) s (fun t => scheduleOf t e.sc e.dep = some e
        ∧ ∀ d, d ≠ e.dep → scheduleOf t e.sc d = scheduleOf s e.sc d))
  ∧ (∀ (d : Digest) (s : State), okSc d.sc = true → isStandIn s = true → running s = true →
      (d.kind = 1 → (txFrame s d.sc).lastDigest = d.value → exec (.digestReceive d) s = .next s)
      ∧ (d.kind = 1 → (txFrame s d.sc).lastDigest ≠ d.value → Runs (.digestReceive d) s (fun t => t.pair.inStep = false
          ∧ t.pair.diverg = min (2 ^ 64 - 1) (s.pair.diverg + 1)))
      ∧ (∀ v m : Nat, d.kind = 2 → (rxFramer s d.sc).lastRx = some (v, m) → m ≠ d.mask → Runs (.digestReceive d) s (fun t =>
          t.pair = { s.pair with skipped := min (2 ^ 64 - 1) (s.pair.skipped + 1) })))
  ∧ (∀ s : State, isStandIn s = true → s.pair.resync = 1 → Runs .resyncCopyDone s (fun t => t.pair.resync = 2 ∧ t.pair.matched = 0))
  ∧ (∀ (x k : Nat) (s : State), okTrib x = true → isStandIn s = true → (tribOf s x).emptyKnown = false →
      Runs (.emptyPointReceive x k) s (fun t => (tribOf t x).emptyKnown = true))

/-- Housekeeping, sync resets, outputs and the mon commands. A housekeeping slot of a converter in housekeeping stores
the calibrated value of the slot's channel and goes on to the next channel; a lent converter's slot changes nothing.
A sync reset at a pending configuration's edge applies it, starts the output sequence and the scan again, and
empties the FIFO where the mode or the channel changes; a cue resets every converter its mask names. An output is
delivered into the FIFO while it has room; in continuous delivery a full FIFO loses it and sets overrun; in capture
the last one wanted ends the capture. mon.config answers the edge and the settling and places the configuration, for
both converters of an interleaved pair; mon.sync places its cue; mon.read takes the oldest entries; mon.status and
mon.value return what is held. -/
def Obligations.MonitorConverters : Prop :=
  (∀ (n ch : Nat) (code : Int) (ovl : Bool) (s : State), okConv n = true →
      ((convOf s n).mode = 0 → inHousekeeping s n = true → injArmed s (0x180 + n) = false → ch = (convOf s n).slotCh →
        ch ∈ scanChannels s n → Runs (.monHousekeepingSlot n code ovl) s (fun t =>
          chanVal t ch = { value := calibrated s ch code, at_ := upTime s, ovl := ovl, sat := false }
          ∧ (∀ k, k ≠ ch → chanVal t k = chanVal s k)
          ∧ (convOf t n).slotCh = nextChannel (scanChannels s n) ch
          ∧ (convOf t n).ovl = if ovl then min (2 ^ 64 - 1) ((convOf s n).ovl + 1) else (convOf s n).ovl))
      ∧ (((convOf s n).mode ≠ 0 ∨ inHousekeeping s n = false) → exec (.monHousekeepingSlot n code ovl) s = .next s))
  ∧ (∀ (n at_ : Nat) (g : MonCfg) (s : State), okConv n = true → at_ % modTicks = 0 → now s ≤ at_ →
      (convOf s n).nextEdge = some at_ → (convOf s n).next = some g → syncCue s n at_ = none →
      Runs (.monSyncReset n at_) s (fun t => now t = at_ ∧ (convOf t n).mode = g.mode ∧ (convOf t n).h = g.h
        ∧ (convOf t n).q = g.q ∧ (convOf t n).k = g.k ∧ (convOf t n).capture = g.capture ∧ (convOf t n).edge = at_
        ∧ (convOf t n).n = 0 ∧ (convOf t n).captured = 0 ∧ (convOf t n).next = none ∧ (convOf t n).nextEdge = none
        ∧ (convOf t n).slotCh = (scanChannels t n).headD 0
        ∧ ((g.mode ≠ (convOf s n).mode ∨ g.ch ≠ (convOf s n).ch) → (convOf t n).fifo = [])
        ∧ (g.mode = (convOf s n).mode → g.ch = (convOf s n).ch → (convOf t n).fifo = (convOf s n).fifo)))
  ∧ (∀ (n at_ i : Nat) (s : State), okConv n = true → at_ % modTicks = 0 → now s ≤ at_ → syncCue s n at_ = some i → 2 ≤ i →
      Runs (.monSyncReset n at_) s (fun t => cueAt t i = {}
        ∧ (∀ m, (m = n ∨ m ∈ maskWithPartners s (cueAt s i).obj) → (convOf t m).edge = at_ ∧ (convOf t m).n = 0)
        ∧ ∀ m, m ≠ n → m ∉ maskWithPartners s (cueAt s i).obj → convOf t m = convOf s m))
  ∧ (∀ (n : Nat) (o : MonObs) (s : State), okConv n = true → (convOf s n).mode ≠ 0 → isPartner s n = false →
      now s ≤ outputAt (convOf s n) → injArmed s (0x180 + n) = false →
      Runs (.monOutput n o) s (fun t => now t = outputAt (convOf s n) ∧ (convOf t n).n = (convOf s n).n + 1
        ∧ ((convOf s n).capture = false → (convOf s n).fifo.length < 4096 →
          (convOf t n).fifo = (convOf s n).fifo ++ [outEntry (convOf s n) o (o.clip || decide (max 1 o.den < o.num.natAbs))]
            ∧ (convOf t n).overrun = (convOf s n).overrun)
        ∧ ((convOf s n).capture = false → 4096 ≤ (convOf s n).fifo.length →
          (convOf t n).fifo = (convOf s n).fifo ∧ (convOf t n).overrun = true
            ∧ ((convOf s n).overrun = false → (o.clip || decide (max 1 o.den < o.num.natAbs)) = false → Logged 0x0B01 0 [byteOf n] t))
        ∧ ((convOf s n).capture = true → (convOf s n).captured < (convOf s n).capN → (convOf s n).fifo.length < 4096 →
          (convOf t n).fifo = (convOf s n).fifo ++ [outEntry (convOf s n) o (o.clip || decide (max 1 o.den < o.num.natAbs))]
            ∧ (convOf t n).captured = (convOf s n).captured + 1
            ∧ ((convOf s n).captured + 1 = (convOf s n).capN → (convOf t n).capDone = true))
        ∧ ((convOf s n).capture = true → (convOf s n).capN ≤ (convOf s n).captured →
          (convOf t n).fifo = (convOf s n).fifo ∧ (convOf t n).overrun = (convOf s n).overrun)))
  ∧ (∀ (mb n : Nat) (g : MonCfg) (s : State), Accepted ⟨0x0B00, some 16, []⟩ mb s → n = arg s mb 0 1 →
      g = cfgOf (requestOf s mb) → okConv n = true → cfgBadarg (requestOf s mb) = false → cfgRange (requestOf s mb) = false →
      leftHousekeeping s n g.mode ≠ 0 → (g.mode = 2 → n % 2 = 0 ∧ borrowed s (n + 1) = false) → borrowed s n = false →
      Runs (.monConfig mb) s (fun t => AnsweredOk mb t ∧ respBytes t mb 0 12 = tcBytes12 (edgeAfter (now s + ticksUs 10))
        ∧ resp t mb 20 2 = settling g.mode g.h g.q % 65536
        ∧ (convOf t n).next = some g ∧ (convOf t n).nextEdge = some (edgeAfter (now s + ticksUs 10))
        ∧ (convOf t n).mode = (convOf s n).mode ∧ (convOf t n).fifo = (convOf s n).fifo
        ∧ (g.mode = 2 → (convOf t (n + 1)).next = some g
          ∧ (convOf t (n + 1)).nextEdge = some (edgeAfter (now s + ticksUs 10)))))
  ∧ (∀ (mb m x i : Nat) (s : State), Accepted ⟨0x0B01, some 14, [(1, 3)]⟩ mb s → m = arg s mb 0 1 → 1 ≤ m → m ≤ 15 →
      readTime10 4 (requestOf s mb).pay = some x → now s + ticksUs 10 ≤ x →
      (∀ n, n < 4 → bitOf m n = true → monMode s n ≠ 0) → freeOwn s = some i →
      Runs (.monSync mb) s (fun t => AnsweredOk mb t ∧ respBytes t mb 0 12 = tcBytes12 (edgeAfter x)
        ∧ (cueAt t i).state = 1 ∧ (cueAt t i).kind = 6 ∧ (cueAt t i).obj = m ∧ (cueAt t i).time = x))
  ∧ (∀ (mb n w : Nat) (s : State), Accepted ⟨0x0B02, some 4, [(2, 2)]⟩ mb s → n = arg s mb 0 1 → w = arg s mb 1 1 →
      okConv n = true → 1 ≤ w → w ≤ 28 → monMode s n ≠ 0 →
      Runs (.monRead mb) s (fun t => AnsweredOk mb t ∧ resp t mb 0 1 = min w (convOf s n).fifo.length
        ∧ (convOf t n).fifo = (convOf s n).fifo.drop w
        ∧ resp t mb 2 2 = ((convOf s n).fifo.drop w).length % 65536
        ∧ ∀ k e, k < w → (convOf s n).fifo[k]? = some e → respBytes t mb (8 + 8 * k) 8 = entryBytes e))
  ∧ (∀ (mb n : Nat) (s : State), Accepted ⟨0x0B03, some 4, [(2, 2)]⟩ mb s → n = arg s mb 0 1 → okConv n = true →
      Runs (.monStatus mb) s (fun t => AnsweredOk mb t ∧ resp t mb 0 1 = (convOf s n).mode % 256
        ∧ resp t mb 6 2 = (convOf s n).fifo.length % 65536 ∧ respBytes t mb 8 12 = tcBytes12 (convOf s n).edge
        ∧ resp t mb 32 8 = (convOf s n).ovl % 2 ^ 64 ∧ resp t mb 40 8 = (convOf s n).sat % 2 ^ 64
        ∧ (convOf t n).overrun = ((convOf s n).overrun && !bitOf (arg s mb 1 1) 0)))
  ∧ (∀ (mb ch : Nat) (s : State), Accepted ⟨0x0B04, some 4, [(1, 3)]⟩ mb s → ch = arg s mb 0 1 → ch ≤ 63 →
      Runs (.monValue mb) s (fun t => AnsweredOk mb t ∧ respBytes t mb 0 4 = intBE 4 (chanVal s ch).value
        ∧ resp t mb 6 1 = 32 * b2n (chanVal s ch).ovl + 64 * b2n (chanVal s ch).sat))

/-- The thermal detectors, their thresholds and the therm commands. A sample takes each die's reading and counts
consecutive samples at or above each threshold. Where no die reaches shutdown: the third sample at the warning
threshold marks the die warned, and a warned die 5.0 C below it is released; the third sample at 147.0 C of a die
enters pace protection, which suspends the sweeps and holds both ports' caps of a line die; every die below 144.0 C
releases it. The third sample at 158.0 C shuts the module down: every port off, the rail at 0.62 V, the log frozen,
stage SHUTDOWN. A diode outside -55 to +175 C is invalid; of two more than 10.0 C apart the lower one is.
therm.status returns the stored temperatures, therm.sensor and therm.warn store their settings. -/
def Obligations.ThermalProtection : Prop :=
  (∀ (ts : List Int) (s : State) (r : Nat → Int), awake s = true → s.therm.shut = false →
      (∀ i, i < 14 → r i = dieReading s (34 + i) (ts.getD (2 * i) 0) (ts.getD (2 * i + 1) 0)) →
      ((∀ i, i < 14 → r i < 1580 ∨ (dieOf s (34 + i)).nShut < 2) →
        Runs (.thermSample ts) s (fun t => t.therm.shut = false
          ∧ (∀ i, i < 14 → (dieOf t (34 + i)).temp = r i
            ∧ (dieOf t (34 + i)).nWarn = (if s.therm.warnThr ≤ r i then min 3 ((dieOf s (34 + i)).nWarn + 1) else 0)
            ∧ (dieOf t (34 + i)).nPace = (if 1470 ≤ r i then min 3 ((dieOf s (34 + i)).nPace + 1) else 0)
            ∧ (dieOf t (34 + i)).nShut = (if 1580 ≤ r i then min 3 ((dieOf s (34 + i)).nShut + 1) else 0)
            ∧ (s.therm.warnThr ≤ r i → 2 ≤ (dieOf s (34 + i)).nWarn → (dieOf t (34 + i)).warned = true)
            ∧ (r i ≤ s.therm.warnThr - 50 → (dieOf t (34 + i)).warned = false))
          ∧ (∀ i, i < 14 → s.therm.pace = false → 1470 ≤ r i → 2 ≤ (dieOf s (34 + i)).nPace →
            (dieOf s (34 + i)).paced = false → t.therm.pace = true ∧ t.bulk.suspended = true
              ∧ (dieOf t (34 + i)).paced = true
              ∧ (i < 3 → (fecPort t (2 * i)).hold = true ∧ (fecPort t (2 * i + 1)).hold = true))
          ∧ (s.therm.pace = true → (∀ i, i < 14 → r i < 1440) → t.therm.pace = false ∧ t.bulk.suspended = false
              ∧ (∀ i, i < 14 → (dieOf t (34 + i)).paced = false) ∧ ∀ p, p < 6 → (fecPort t p).hold = false)))
      ∧ (∀ i, i < 14 → 1580 ≤ r i → 2 ≤ (dieOf s (34 + i)).nShut →
        Runs (.thermSample ts) s (fun t => t.therm.shut = true ∧ t.ctrl.stage = .shutdown ∧ t.power.rail = 620
          ∧ t.power.picRails = [] ∧ t.log.frozen = true
          ∧ ∀ p, p < 6 → (txPort t p).tx = .off ∧ (txPort t p).len = false ∧ (rxPort t p).st = .off)))
  ∧ (∀ (ch : Nat) (d0 d1 : Int) (s : State), 34 ≤ ch → ch ≤ 47 → awake s = true → (injOf s 0x184).running = false →
      Runs (.diodeValidityTimer ch d0 d1) s (fun t =>
        (outOfRange d0 = true → (dieOf t ch).d0Bad = true) ∧ (outOfRange d1 = true → (dieOf t ch).d1Bad = true)
        ∧ (outOfRange d0 = false → outOfRange d1 = false →
          ((d0 - d1).natAbs ≤ 100 → (dieOf t ch).d0Bad = false ∧ (dieOf t ch).d1Bad = false)
          ∧ (100 < (d0 - d1).natAbs → ((dieOf t ch).d0Bad = true ↔ d0 < d1) ∧ ((dieOf t ch).d1Bad = true ↔ d1 < d0)))
        ∧ ((dieOf t ch).d1Bad ≠ (dieOf s ch).d1Bad → Logged 0x0B83 0 [byteOf ch, 1, b2w (dieOf t ch).d1Bad] t)
        ∧ ((dieOf t ch).d0Bad ≠ (dieOf s ch).d0Bad → (dieOf t ch).d1Bad = (dieOf s ch).d1Bad →
          Logged 0x0B83 0 [byteOf ch, 0, b2w (dieOf t ch).d0Bad] t)))
  ∧ (∀ (mb : Nat) (s : State), Accepted (bareShape 0x0B80) mb s → Runs (.thermStatus mb) s (fun t => AnsweredOk mb t
        ∧ resp t mb 0 1 = b2n s.therm.shut + 2 * b2n s.therm.pace + 4 * b2n s.therm.window
        ∧ respBytes t mb 2 2 = intBE 2 s.therm.fld
        ∧ ∀ i, i < 14 → respBytes t mb (8 + 4 * i) 2 = intBE 2 (chanVal s (34 + i)).value))
  ∧ (∀ (mb ch : Nat) (a b : Int) (s : State), Accepted ⟨0x0B81, some 12, [(1, 3)]⟩ mb s → ch = arg s mb 0 1 →
      a = argI s mb 4 4 → b = argI s mb 8 4 →
      (24 ≤ ch → ch ≤ 29 → 1000 ≤ a → a ≤ 100000 → 2000 ≤ b → b ≤ 6000 → Runs (.thermSensor mb) s (fun t => AnsweredOk mb t
        ∧ r26Of t ch = a.toNat ∧ bOf t ch = b.toNat))
      ∧ (30 ≤ ch → ch ≤ 33 → b = 0 → 10000 ≤ a → a ≤ 10500 → Runs (.thermSensor mb) s (fun t => AnsweredOk mb t
        ∧ etaOf t ch = a.toNat))
      ∧ (60 ≤ ch → ch ≤ 63 → (a = 0 ∨ (1000 ≤ a.natAbs ∧ a.natAbs ≤ 100000)) → Runs (.thermSensor mb) s (fun t =>
        AnsweredOk mb t ∧ tabGet 0 t.therm.slope ch = a ∧ tabGet 0 t.therm.zero ch = b)))
  ∧ (∀ (mb : Nat) (s : State), Accepted ⟨0x0B82, some 4, [(2, 2)]⟩ mb s → 1000 ≤ argI s mb 0 2 → argI s mb 0 2 ≤ 1400 →
      Runs (.thermWarnSet mb) s (fun t => AnsweredOk mb t ∧ t.therm = { s.therm with warnThr := argI s mb 0 2 }))

/-- The flash window and its work, and the calibration store. The window follows the FLD sensor with its hysteresis, and
the first of the waiting work starts while it is open and the flash idle. With the last page the work is done: a
user record is stored or removed, a snapshot is in its slot, the retirement map is written; a page while the window
is closed puts the work back. A slew step moves a value toward its target by at most its step. cal.read returns what
is held; cal.write and cal.clear take effect at once and answer OK with the flash free, DEFERRED with the write
waiting otherwise; cal.measure starts the one measurement; its end stages the result, keeps the first of two points,
or ends with RANGE; cal.apply discards or applies what is staged. -/
def Obligations.FlashAndCalibration : Prop :=
  (∀ (x : Int) (s : State), s.power.powered = true → Runs (.flashWindowChange x) s (fun t => t.therm.fld = x
      ∧ (s.therm.window = true → (t.therm.window = true ↔ -250 ≤ x ∧ x ≤ 1100))
      ∧ (s.therm.window = false → (t.therm.window = true ↔ -230 ≤ x ∧ x ≤ 1080))
      ∧ (t.therm.window = true → s.therm.busy = none → t.therm.busy = firstWork s.therm.work)
      ∧ ((t.therm.window = false ∨ s.therm.busy ≠ none) → t.therm.busy = s.therm.busy ∧ t.therm.work = s.therm.work)))
  ∧ (∀ (same : Bool) (s : State), s.power.powered = true →
      (∀ (k op tag : Nat) (v : Option CalRec), s.therm.busy = some (.cal k v op tag) →
        Runs (.flashPageDone true same) s (fun t => (∀ c, (k, c) ∈ t.therm.stored ↔ v = some c)
          ∧ ∀ j c, j ≠ k → ((j, c) ∈ t.therm.stored ↔ (j, c) ∈ s.therm.stored)))
      ∧ (s.therm.busy = some .flush → Runs (.flashPageDone true same) s (fun t =>
        tabGet ([], 0) t.log.slots (flushSlot s.log) = (s.log.snap, s.log.flushNo + 1) ∧ t.log.flushDue = false
          ∧ Logged 0x0D81 0 [byteOf (flushSlot s.log)] t))
      ∧ (s.therm.busy = some .retirementMap → Runs (.flashPageDone true same) s (fun t => t.therm.mapDue = false
        ∧ ∀ typ i, i < 65536 → typ ≠ 6 → typ ≠ 7 → (∃ u, (unitKey typ i, u) ∈ s.flt.unit ∧ u.retired = true) →
          (typ, i) ∈ t.flt.fldRetired))
      ∧ (∀ w, s.therm.busy = some w → s.therm.window = true → exec (.flashPageDone false same) s = .next s)
      ∧ (∀ w, s.therm.busy = some w → s.therm.window = false → Runs (.flashPageDone false same) s (fun t =>
        t.therm = { s.therm with busy := none, work := w :: s.therm.work })))
  ∧ (∀ (item k m : Nat) (a : CalAddr) (s : State), calAddrOk item a.obj a.sub a.slice = true → running s = true →
      k = calKey item a.obj a.sub a.slice → m = slewStep s item a.obj a.sub a.slice →
      Runs (.calSlewStep item a) s (fun t =>
        ((calTarget s k - (calVal s k).offNow).natAbs ≤ m → (calVal t k).offNow = calTarget s k)
        ∧ ((m : Int) < calTarget s k - (calVal s k).offNow → (calVal t k).offNow = (calVal s k).offNow + m)
        ∧ (calTarget s k - (calVal s k).offNow < -(m : Int) → (calVal t k).offNow = (calVal s k).offNow - m)
        ∧ (calVal t k).user = (calVal s k).user))
  ∧ (∀ (mb item obj sub sl k : Nat) (s : State), item = arg s mb 0 1 → obj = arg s mb 1 1 → sub = arg s mb 2 1 →
      sl = arg s mb 3 1 → calAddrOk item obj sub sl = true → k = calKey item obj sub sl →
      (Accepted ⟨0x0C00, some 4, []⟩ mb s → Runs (.calRead mb) s (fun t => AnsweredOk mb t
        ∧ respBytes t mb 0 4 = intBE 4 (factoryOff s item obj sub sl) ∧ respBytes t mb 8 4 = intBE 4 (userRec s k).off
        ∧ respBytes t mb 12 4 = intBE 4 (userRec s k).gain ∧ respBytes t mb 16 4 = intBE 4 (calVal s k).offNow))
      ∧ (Accepted ⟨0x0C01, some 12, []⟩ mb s → (item ≠ 1 → argI s mb 8 4 = 0) →
        calWithin s item obj sub sl (argI s mb 4 4) (argI s mb 8 4) = true →
        ∀ c : CalRec, c = ⟨argI s mb 4 4, argI s mb 8 4, 1, tcSec (now s), 0, 0⟩ →
          (flashFree s = true → Runs (.calWrite mb) s (fun t => AnsweredOk mb t ∧ (calVal t k).user = some c
            ∧ (k, c) ∈ t.therm.stored))
          ∧ (flashFree s = false → waitingCals s < 64 → Runs (.calWrite mb) s (fun t => AnsweredWith .deferred mb t
            ∧ (calVal t k).user = some c
            ∧ t.therm.work = s.therm.work ++ [.cal k (some c) 0x0C01 (requestOf s mb).tag])))
      ∧ (Accepted ⟨0x0C04, some 4, []⟩ mb s → (calVal s k).user ≠ none →
        (flashFree s = true → Runs (.calClear mb) s (fun t => AnsweredOk mb t ∧ (calVal t k).user = none
            ∧ ∀ c, (k, c) ∉ t.therm.stored))
          ∧ (flashFree s = false → waitingCals s < 64 → Runs (.calClear mb) s (fun t => AnsweredWith .deferred mb t
            ∧ (calVal t k).user = none
            ∧ t.therm.work = s.therm.work ++ [.cal k none 0x0C04 (requestOf s mb).tag]))))
  ∧ (∀ (mb : Nat) (s : State), Accepted ⟨0x0C02, some 16, [(3, 1), (14, 2)]⟩ mb s → measureBad (requestOf s mb) = false →
      (arg s mb 0 1 ≠ 3 → 2 ≤ (housekeepers s).length) → s.therm.job = none → (arg s mb 2 1 = 2 → s.therm.first.map (·.1) = some (arg s mb 1 1)) →
      (arg s mb 0 1 = 2 → (rxPort s (arg s mb 1 1)).light = true) → (arg s mb 0 1 = 3 → candActive s (arg s mb 1 1) = true) →
      Runs (.calMeasure mb) s (fun t => AnsweredWith .deferred mb t ∧ (findDeferred t 0x0C02 0).isSome = true
        ∧ t.therm.job = some { kind := arg s mb 0 1, obj := arg s mb 1 1, point := arg s mb 2 1, declared := argI s mb 4 4
                               acc := arg s mb 8 4, tag := (requestOf s mb).tag, conv := (housekeepers s).getLastD 0
                               stage0 := s.therm.stage, first0 := s.therm.first }))
  ∧ (∀ (x : Int) (j : CalJob) (s : State), running s = true → s.therm.job = some j →
      (farOff j x = true → Runs (.calMeasureDone x) s (fun t => t.therm.job = none ∧ t.therm.stage = s.therm.stage
        ∧ ((findDeferred s 0x0C02 0).isSome = true → Logged 0x0100 0 (natBE 2 0x0C02 ++ [byteOf 4]) t)))
      ∧ (farOff j x = false → measuredValue s j x = none → Runs (.calMeasureDone x) s (fun t => t.therm.job = none
        ∧ t.therm.first = some (j.obj, j.declared, x)))
      ∧ (∀ o g, farOff j x = false → measuredValue s j x = some (o, g) →
        calWithin s (measuredItem j).1 (measuredItem j).2 0 0 o g = true → Runs (.calMeasureDone x) s (fun t =>
          t.therm.job = none ∧ ∃ st, t.therm.stage = some st ∧ st.item = (measuredItem j).1 ∧ st.obj = (measuredItem j).2
            ∧ st.off = o ∧ st.gain = g ∧ st.reading = x ∧ st.declared = j.declared)))
  ∧ (∀ (mb : Nat) (s : State), Accepted ⟨0x0C03, some 4, [(1, 3)]⟩ mb s → arg s mb 0 1 ≤ 1 →
      (s.therm.stage = none → Runs (.calApply mb) s (fun t => AnsweredWith .denied mb t))
      ∧ (∀ st, s.therm.stage = some st →
        (arg s mb 0 1 = 0 → Runs (.calApply mb) s (fun t => AnsweredOk mb t ∧ t.therm = { s.therm with stage := none }
          ∧ respBytes t mb 0 16 = stageBytes st))
        ∧ (arg s mb 0 1 = 1 → calWithin s st.item st.obj 0 0 st.off st.gain = true → flashFree s = true →
          Runs (.calApply mb) s (fun t => AnsweredOk mb t ∧ t.therm.stage = none ∧ respBytes t mb 0 16 = stageBytes st
            ∧ (calVal t (calKey st.item st.obj 0 0)).user
              = some ⟨st.off, st.gain, st.source, tcSec (now s), st.declared, st.acc⟩))))

/-- Retirements of lanes, subcarriers and cores; core traps; the end of an injection. The first queued retirement of a
pair lane takes the lane out of service and the pair link down; of a die-to-die lane takes a spare of its direction,
or darkens the link's two ports; of a subcarrier takes it out of service, removes its slots in both directions and
reports the remap; of a cue core takes it out of service, but the last working core calls a warm restart and stays.
A trap of a core that runs stops it with its cause and counts one fault; a watchdog trap and an uncorrectable fetch
freeze the log, an uncorrectable word of data SRAM calls a warm restart. A restarted core runs. A die-to-die lane
fault is counted and is over. A timed injection ends once. -/
def Obligations.UnitsAndCores : Prop :=
  (∀ (l : Nat) (s : State), okPairLane l = true → nextRetirement s 7 = some l →
      Runs (.pairLaneRetire l) s (fun t => isRetired t 7 l = true ∧ (laneOf t (96 + l)).st = .retired ∧ t.pair.up = false
        ∧ t.pair.inStep = false))
  ∧ (∀ (i : Nat) (s : State), okD2d i = true → nextRetirement s 8 = some i →
      Runs (.d2dLaneRetire i) s (fun t => isRetired t 8 i = true
        ∧ (tabGet 0 s.flt.d2dSpare (i / 128) < 2 →
          tabGet 0 t.flt.d2dSpare (i / 128) = tabGet 0 s.flt.d2dSpare (i / 128) + 1 ∧ t.txp = s.txp ∧ t.rxp = s.rxp)
        ∧ (2 ≤ tabGet 0 s.flt.d2dSpare (i / 128) → ∀ p, p / 2 = i / 256 → (txPort t p).tx = .off ∧ (rxPort t p).st = .off)))
  ∧ (∀ (i : Nat) (s : State), okD2d i = true → s.power.powered = true → (unitRec s (unitKey 8 i)).retired = false →
      (unitRec s (unitKey 8 i)).retiring = false → Runs (.d2dLaneFault i) s (fun t =>
        (unitRec t (unitKey 8 i)).total = min 0xFFFFFFFF ((unitRec s (unitKey 8 i)).total + 1)
          ∧ (unitRec t (unitKey 8 i)).retrying = false
          ∧ (unitRec t (unitKey 8 i)).retiring = makesPermanent s 8 i))
  ∧ (∀ (sc : Nat) (s : State), okSc sc = true → nextRetirement s 9 = some sc →
      Runs (.subcarrierRetire sc) s (fun t => isRetired t 9 sc = true ∧ (rxSc t sc).oos = true ∧ (rxSc t sc).conv = false
        ∧ (∀ k, k < 40 → (slotOwner t (40 * sc + k)).tx = 0xFFF ∧ (slotOwner t (40 * sc + k)).rx = 0xFFF)
        ∧ (∃ f, f ≤ 2 ∧ Logged 0x0D04 sc [byteOf f] t)
        ∧ ((policyOf s 9).fill = false → Logged 0x0D04 sc [0] t)))
  ∧ (∀ (c : Nat) (s : State), okCore c = true → nextRetirement s 10 = some c →
      (workingCores s ≠ [c] → Runs (.cueCoreRetire c) s (fun t => isRetired t 10 c = true ∧ (coreOf t c).st = .retired
        ∧ t.fw.warmDue = s.fw.warmDue))
      ∧ (workingCores s = [c] → Runs (.cueCoreRetire c) s (fun t => coreOf t c = coreOf s c ∧ t.fw.warmDue = true
        ∧ isRetired t 10 c = isRetired s 10 c)))
  ∧ (∀ (c pc task : Nat) (s : State), okCore c = true → coreRuns s c = true →
      (unitRec s (unitKey 10 c)).retired = false → (unitRec s (unitKey 10 c)).retiring = false →
      Runs (.watchdogExpiry c pc task) s (fun t => (coreOf t c).st = .trapped 3 ∧ t.log.frozen = true
        ∧ (unitRec t (unitKey 10 c)).total = min 0xFFFFFFFF ((unitRec s (unitKey 10 c)).total + 1)
        ∧ (workingCores s = [c] → t.fw.warmDue = true))
      ∧ Runs (.illegalInstruction c pc task) s (fun t => (coreOf t c).st = .trapped 4 ∧ t.log.frozen = s.log.frozen
        ∧ (unitRec t (unitKey 10 c)).total = min 0xFFFFFFFF ((unitRec s (unitKey 10 c)).total + 1))
      ∧ ∀ addr, Runs (.coreFetchUe c false pc addr task) s (fun t => (coreOf t c).st = .trapped 1 ∧ t.log.frozen = true
          ∧ t.fw.warmDue = s.fw.warmDue ∧ (sandOf t 69).unc = min (2 ^ 64 - 1) ((sandOf s 69).unc + 1))
        ∧ Runs (.coreFetchUe c true pc addr task) s (fun t => (coreOf t c).st = .trapped 2 ∧ t.log.frozen = true
          ∧ t.fw.warmDue = true ∧ (sandOf t 70).unc = min (2 ^ 64 - 1) ((sandOf s 70).unc + 1)))
  ∧ (∀ (c k : Nat) (s : State), okCore c = true → (coreOf s c).st = .trapped k →
      Runs (.coreRestartDone c) s (fun t => coreOf t c = { coreOf s c with st := .running }
        ∧ (unitRec t (unitKey 10 c)).retrying = false))
  ∧ (∀ (pt : Nat) (s : State), pointExists pt = true →
      ((injOf s pt).running = true → Runs (.injectionEnd pt) s (fun t => (injOf t pt).running = false
        ∧ (injOf t pt).acted = (injOf s pt).acted ∧ (pt = 0x142 → t.timing.loscLost = false)
        ∧ (pt = 0x1C0 → (paceUnit t (injOf s pt).arg).forced = none)))
      ∧ ((injOf s pt).running = false → exec (.injectionEnd pt) s = .next s))

/-- The fault and log commands, and the copy of the ring. LOG_COPY takes the oldest entry not yet copied into the
continuous log, with none waiting it changes nothing. Accepted: fault.policy sets a type's policy; fault.status
returns a unit's counts; fault.clear empties the window counts it names and no total; fault.inject arms a point that
waits for its next occurrence, with its confirmation where the point is disruptive; fault.injstatus and
fault.teststatus return what is held; fault.testpattern places the commit that takes the setting; fault.dmarestart
restarts a halted channel, and is denied for one that runs; log.status counts, log.read returns entries of its
source in order; log.freeze freezes a recording ring, log.rearm lets a frozen one record; log.erase with its key
erases the slots and areas it names. -/
def Obligations.FaultAndLogCommands : Prop :=
  (∀ s : State, s.power.powered = true →
      (s.log.uncopied = 0 → exec .logCopy s = .next s)
      ∧ (∀ e, s.log.uncopied ≠ 0 → s.log.ring[s.log.uncopied - 1]? = some e → 2 ∉ s.flt.dma →
        injFor s 0x1A2 2 = false → s.log.lostSince = 0 → Runs .logCopy s (fun t =>
          t.log = { s.log with cont := (e :: s.log.cont).take 1032192, contN := s.log.contN + 1
                               uncopied := s.log.uncopied - 1 })))
  ∧ (∀ (mb typ : Nat) (s : State), Accepted ⟨0x0D00, some 12, [(2, 2), (9, 3)]⟩ mb s → typ = arg s mb 0 1 → 1 ≤ typ → typ ≤ 10 →
      (arg s mb 8 1 = 0 ∨ (arg s mb 8 1 = 1 ∧ typ = 9)) → 1 ≤ arg s mb 1 1 → 1 ≤ arg s mb 4 4 → arg s mb 4 4 ≤ 86400 →
      Runs (.faultPolicy mb) s (fun t => AnsweredOk mb t
        ∧ policyOf t typ = { count := arg s mb 1 1, window := arg s mb 4 4, fill := arg s mb 8 1 == 1 }
        ∧ ∀ u, u ≠ typ → policyOf t u = policyOf s u))
  ∧ (∀ (mb typ i : Nat) (s : State), Accepted ⟨0x0D01, some 4, [(1, 1)]⟩ mb s → typ = arg s mb 0 1 → i = arg s mb 2 2 →
      unitOk typ i = true → Runs (.faultStatus mb) s (fun t => AnsweredOk mb t ∧ resp t mb 0 1 = unitState s typ i
        ∧ resp t mb 1 1 = min 255 (faultsInWindowOf s typ i)
        ∧ resp t mb 4 4 = (unitRec s (unitKey typ i)).total % 2 ^ 32
        ∧ respBytes t mb 8 12 = tcBytes12 (unitRec s (unitKey typ i)).last))
  ∧ (∀ (mb typ : Nat) (s : State), Accepted ⟨0x0D02, some 4, [(1, 3)]⟩ mb s → typ = arg s mb 0 1 →
      (typ = 0xFF ∨ (1 ≤ typ ∧ typ ≤ 10)) → Runs (.faultClear mb) s (fun t => AnsweredOk mb t
        ∧ ∀ k, unitRec t k = if typ = 0xFF ∨ k / 65536 = typ then { unitRec s k with times := [] } else unitRec s k))
  ∧ (∀ (mb pt a : Nat) (s : State), Accepted ⟨0x0D03, some 8, []⟩ mb s → pt = arg s mb 0 2 → a = arg s mb 4 4 →
      pointExists pt = true → arg s mb 2 2 = (if disruptive pt a then 0xA55A else 0) → argOk pt a = true →
      objectReady s pt a = true → 0x060 ≤ pt → pt ∉ [0x0A2, 0x0A4, 0x188, 0x1E0] → isTimed pt = false →
      Runs (.faultInject mb) s (fun t => AnsweredOk mb t ∧ injOf t pt = { injOf s pt with armed := true, arg := a }
        ∧ ∀ q, q ≠ pt → injOf t q = injOf s q))
  ∧ (∀ (mb pt : Nat) (s : State), Accepted ⟨0x0D04, some 4, [(2, 2)]⟩ mb s → pt = arg s mb 0 2 → pointExists pt = true →
      Runs (.faultInjstatus mb) s (fun t => AnsweredOk mb t ∧ resp t mb 0 1 = b2n (injOf s pt).armed
        ∧ resp t mb 4 4 = (injOf s pt).arg % 2 ^ 32 ∧ resp t mb 8 8 = (injOf s pt).acted % 2 ^ 64))
  ∧ (∀ (mb x b : Nat) (u s : State), Accepted ⟨0x0D05, some 16, [(3, 1), (14, 2)]⟩ mb s → x = arg s mb 0 2 → x ≤ 3839 →
      wantedBoundary 4 (requestOf s mb) s = some b → commitNear s = false → stagedBreaks s = false →
      (bitOf (arg s mb 2 1) 0 = true → txSlots s x ≠ []) → (bitOf (arg s mb 2 1) 1 = true → rxSlots s x ≠ []) →
      placeCommit b (requestOf s mb).tag 0 s = some u →
      Runs (.faultTestpattern mb) s (fun t => AnsweredOk mb t ∧ respBytes t mb 0 10 = tcBytes10 b ∧ t.cues = u.cues
        ∧ t.svc.commit = u.svc.commit
        ∧ (tribOf t x).testNext = some (bitOf (arg s mb 2 1) 0, bitOf (arg s mb 2 1) 1)))
  ∧ (∀ (mb x : Nat) (s : State), Accepted ⟨0x0D06, some 4, [(2, 2)]⟩ mb s → x = arg s mb 0 2 → x ≤ 3839 →
      Runs (.faultTeststatus mb) s (fun t => AnsweredOk mb t
        ∧ resp t mb 0 1 = b2n (tribOf s x).testSend + 2 * b2n (tribOf s x).testCheck + 4 * b2n (tribOf s x).inSync
        ∧ resp t mb 4 8 = (tribOf s x).bits % 2 ^ 64 ∧ resp t mb 12 8 = (tribOf s x).bitErrs % 2 ^ 64
        ∧ resp t mb 20 4 = (tribOf s x).syncLoss % 2 ^ 32))
  ∧ (∀ (mb c : Nat) (s : State), Accepted ⟨0x0D07, some 4, [(1, 3)]⟩ mb s → c = arg s mb 0 1 → (c = 1 ∨ c = 2) →
      (c ∈ s.flt.dma → Runs (.faultDmarestart mb) s (fun t => AnsweredOk mb t ∧ c ∉ t.flt.dma))
      ∧ (c ∉ s.flt.dma → Runs (.faultDmarestart mb) s (fun t => AnsweredWith .denied mb t ∧ t.flt = s.flt)))
  ∧ (∀ (mb : Nat) (s : State), Accepted (bareShape 0x0D80) mb s → Runs (.logStatus mb) s (fun t => AnsweredOk mb t
        ∧ resp t mb 0 1 = b2n s.log.frozen + 2 * b2n s.log.flushDue + 4 * b2n s.log.found
        ∧ resp t mb 1 1 = s.log.cause % 256 ∧ resp t mb 12 4 = s.log.lostN % 2 ^ 32
        ∧ resp t mb 16 4 = s.log.whileFrozen % 2 ^ 32 ∧ resp t mb 20 4 = s.log.snapsLost % 2 ^ 32))
  ∧ (∀ (mb src w i : Nat) (s : State), Accepted ⟨0x0D81, some 8, [(2, 2)]⟩ mb s → src = arg s mb 0 1 → w = arg s mb 1 1 →
      i = arg s mb 4 4 → src ≤ 8 → 1 ≤ w → w ≤ 3 → i ≤ (logSource s src).length → injFor s 0x1E1 src = false →
      Runs (.logRead mb) s (fun t => AnsweredOk mb t ∧ resp t mb 0 1 = min w ((logSource s src).length - i)
        ∧ resp t mb 4 4 = (i + min w ((logSource s src).length - i)) % 2 ^ 32
        ∧ ∀ k e, k < w → oldest (logSource s src) (i + k) = some e → entryLost e = false →
          (readWords 8 (logAddrs s src ((List.range' i w).filter (· < (logSource s src).length))) s).1.getD k false = false →
          respBytes t mb (8 + 64 * k) 64 = logBytes e))
  ∧ (∀ (mb : Nat) (s : State),
      (Accepted (bareShape 0x0D82) mb s → s.log.frozen = false → Runs (.logFreeze mb) s (fun t => AnsweredOk mb t
        ∧ t.log.frozen = true ∧ t.log.cause = 6 ∧ t.log.snap = (freezeMarker s 6 :: s.log.ring).take 16384))
      ∧ (Accepted (bareShape 0x0D83) mb s → s.log.frozen = true → Runs (.logRearm mb) s (fun t => AnsweredOk mb t
        ∧ t.log = { s.log with frozen := false, cause := 0 }))
      ∧ (Accepted (bareShape 0x0D83) mb s → s.log.frozen = false → Runs (.logRearm mb) s (fun t =>
        AnsweredWith .denied mb t ∧ t.log = s.log)))
  ∧ (∀ (mb m : Nat) (s : State), Accepted ⟨0x0D84, some 4, [(1, 1)]⟩ mb s → m = arg s mb 0 1 → m ≠ 0 → m ≤ 63 →
      arg s mb 2 2 = 0xA55A →
      (flashFree s = true → Runs (.logErase mb) s (fun t => AnsweredOk mb t
        ∧ (∀ k, k < 4 → slotLog t k = if bitOf m k then ([], 0) else slotLog s k)
        ∧ (bitOf m 4 = true → t.log.areaA = [] ∧ t.log.numA = 0) ∧ (bitOf m 5 = true → t.log.areaB = [] ∧ t.log.numB = 0)))
      ∧ (flashFree s = false → Runs (.logErase mb) s (fun t => AnsweredWith .deferred mb t
        ∧ t.therm.work = s.therm.work ++ [.erase m 0x0D84 (requestOf s mb).tag] ∧ t.log = s.log)))

/-- Slot classes, performance counters and the tracer. A sample of a unit with a required rate, or of a core that runs,
adds one to the count of the first class that applies and to no other; a unit without a required rate is not
sampled. The window cues open the tracer's window with the LFSR at the seed, and close it. A tagged unit's record
takes a sequence number and is written at the next index, unless pace protection holds (counted as suspended), the
filter names another object, or a full buffer stops it (counted as dropped). perf.select programs and zeroes one
counter; perf.read returns the timecode and the slot counts; perf.tracer ends what runs and places the new window;
perf.trdeliver starts delivery anew; perf.trstatus returns the counts. -/
def Obligations.PaceAndTracer : Prop :=
  (∀ (u : Nat) (o : SlotObs) (s : State), okUnit u = true →
      (requiredUnits s u = 0 → exec (.paceSample false u o) s = .next s)
      ∧ (requiredUnits s u ≠ 0 → (paceUnit s u).slots.length = 4 → Runs (.paceSample false u o) s (fun t => ∀ k, k < 4 →
        (paceUnit t u).slots.getD k 0 = if k = (if o.held then 3 else if o.waste then 1 else if o.busy then 0 else 2)
          then ((paceUnit s u).slots.getD k 0 + 1) % 2 ^ 64 else (paceUnit s u).slots.getD k 0)))
  ∧ (∀ (c : Nat) (o : SlotObs) (s : State), okCore c = true →
      (coreRuns s c = false → exec (.paceSample true c o) s = .next s)
      ∧ (coreRuns s c = true → (coreOf s c).slots.length = 4 → Runs (.paceSample true c o) s (fun t => ∀ k, k < 4 →
        (coreOf t c).slots.getD k 0 = if k = (if o.held then 3 else if o.waste then 1 else if o.busy then 0 else 2)
          then ((coreOf s c).slots.getD k 0 + 1) % 2 ^ 64 else (coreOf s c).slots.getD k 0)))
  ∧ (∀ (i at_ : Nat) (s : State), okCue i = true → 2 ≤ i → running s = true → cueDue s i 8 at_ = true → now s ≤ at_ →
      firstDue s i at_ (fun _ => true) = true →
      (s.tracer.openCue = some i → Runs (.tracerWindowCue i at_) s (fun t => now t = at_ ∧ cueAt t i = {}
        ∧ t.tracer = { s.tracer with isOpen := true, openCue := none, lfsr := s.tracer.seed, advanced := 0 }
        ∧ Logged 0x0E01 0 [1] t))
      ∧ (s.tracer.openCue ≠ some i → s.tracer.closeCue = some i → Runs (.tracerWindowCue i at_) s (fun t => now t = at_
        ∧ cueAt t i = {} ∧ t.tracer = { s.tracer with isOpen := false, closeCue := none } ∧ Logged 0x0E01 0 [0] t)))
  ∧ (∀ (r : TracerObs) (x : Nat) (s : State), running s = true → s.tracer.lfsr ≠ 0 → 0 < r.units →
      x = iterate lfsrStep r.units s.tracer.lfsr →
      (x % 2 ^ s.tracer.k ≠ 0 → exec (.tracerRecord r) s = .next s)
      ∧ (x % 2 ^ s.tracer.k = 0 → Runs (.tracerRecord r) s (fun t => t.tracer.lfsr = x
        ∧ t.tracer.seq = (s.tracer.seq + 1) % 2 ^ 32
        ∧ (s.therm.pace = true → t.tracer.suspendedN = min (2 ^ 64 - 1) (s.tracer.suspendedN + 1)
          ∧ t.tracer.buffer = s.tracer.buffer ∧ t.tracer.written = s.tracer.written)
        ∧ (s.therm.pace = false → s.tracer.filter ≠ 0xFFFF → s.tracer.filter ≠ r.object →
          t.tracer.buffer = s.tracer.buffer ∧ t.tracer.written = s.tracer.written)
        ∧ (s.therm.pace = false → (s.tracer.filter = 0xFFFF ∨ s.tracer.filter = r.object) → r.refused = false →
          s.tracer.delivery ≤ 1 →
          (s.tracer.delivery = 1 → s.tracer.full = true → t.tracer.buffer = s.tracer.buffer
            ∧ t.tracer.dropped = min (2 ^ 64 - 1) (s.tracer.dropped + 1))
          ∧ ((s.tracer.delivery = 0 ∨ s.tracer.full = false) →
            tabGet [] t.tracer.buffer s.tracer.next = recordBytes
              { s.tracer with lfsr := x, advanced := (s.tracer.advanced + r.units) % 2 ^ 32 } r false
            ∧ (∀ k, k ≠ s.tracer.next → tabGet [] t.tracer.buffer k = tabGet [] s.tracer.buffer k)
            ∧ t.tracer.next = (s.tracer.next + 1) % 65536
            ∧ t.tracer.written = min (2 ^ 64 - 1) (s.tracer.written + 1)
            ∧ (s.tracer.delivery = 1 → (t.tracer.full = true ↔ s.tracer.next % 65536 = 65535)))))))
  ∧ (∀ (mb dom i k ev : Nat) (s : State), Accepted ⟨0x0E00, some 8, [(4, 4)]⟩ mb s → dom = arg s mb 0 1 → i = arg s mb 1 1 →
      k = arg s mb 2 1 → ev = arg s mb 3 1 → knownEvents.contains ev = true →
      (dom = 0 → i < 48 → k < 4 → paceDefines i ev = true → Runs (.perfSelect mb) s (fun t => AnsweredOk mb t
        ∧ tabGet 0 (paceUnit t i).evn k = ev ∧ tabGet 0 (paceUnit t i).ctr k = 0
        ∧ ∀ j, j ≠ k → tabGet 0 (paceUnit t i).evn j = tabGet 0 (paceUnit s i).evn j
          ∧ tabGet 0 (paceUnit t i).ctr j = tabGet 0 (paceUnit s i).ctr j))
      ∧ (dom = 1 → i < 4 → k < 8 → coreDefines ev = true → Runs (.perfSelect mb) s (fun t => AnsweredOk mb t
        ∧ tabGet 0 (coreOf t i).evn k = ev ∧ tabGet 0 (coreOf t i).ctr k = 0)))
  ∧ (∀ (mb dom i : Nat) (s : State), Accepted ⟨0x0E01, some 4, [(2, 2)]⟩ mb s → dom = arg s mb 0 1 → i = arg s mb 1 1 →
      (dom = 0 → i < 48 → Runs (.perfRead mb) s (fun t => AnsweredOk mb t ∧ respBytes t mb 0 12 = tcBytes12 (now s)
        ∧ (tokensCarried i = true → resp t mb 16 8 = (paceUnit s i).tokens % 2 ^ 64)
        ∧ (∀ k, k < 4 → resp t mb (24 + 8 * k) 8 = (paceUnit s i).slots.getD k 0 % 2 ^ 64)
        ∧ ∀ k, k < 4 → eventCarried 0 i (tabGet 0 (paceUnit s i).evn k) = true →
          resp t mb (56 + 8 * k) 8 = tabGet 0 (paceUnit s i).ctr k % 2 ^ 64))
      ∧ (dom = 1 → i < 4 → Runs (.perfRead mb) s (fun t => AnsweredOk mb t ∧ respBytes t mb 0 12 = tcBytes12 (now s)
        ∧ ∀ k, k < 4 → resp t mb (24 + 8 * k) 8 = (coreOf s i).slots.getD k 0 % 2 ^ 64)))
  ∧ (∀ (mb : Nat) (s : State), Accepted ⟨0x0E02, some 24, [(22, 2)]⟩ mb s →
      (arg s mb 0 1 = 0 → s.tracer.kind ≠ 0 → (readTime10 8 (requestOf s mb).pay).isSome → Runs (.perfTracer mb) s (fun t => AnsweredOk mb t ∧ t.tracer.kind = 0
        ∧ t.tracer.isOpen = false ∧ t.tracer.lfsr = 0 ∧ t.tracer.openCue = none ∧ t.tracer.closeCue = none))
      ∧ (∀ start u, 1 ≤ arg s mb 0 1 → arg s mb 0 1 ≤ 4 → readTime10 8 (requestOf s mb).pay = some start → arg s mb 4 4 ≠ 0 →
        10 ≤ arg s mb 1 1 → arg s mb 1 1 ≤ 30 → now s + ticksUs 10 ≤ start →
        placeWindow start (arg s mb 18 4) (requestOf s mb).tag (endTracing s) = some u →
        Runs (.perfTracer mb) s (fun t => AnsweredOk mb t ∧ t.tracer.kind = arg s mb 0 1 ∧ t.tracer.k = arg s mb 1 1
          ∧ t.tracer.filter = arg s mb 2 2 ∧ t.tracer.seed = arg s mb 4 4 ∧ t.tracer.isOpen = false
          ∧ (∃ i, t.tracer.openCue = some i ∧ (cueAt u i).kind = 8) ∧ t.cues = u.cues
          ∧ (arg s mb 18 4 = 0 → t.tracer.closeCue = none))))
  ∧ (∀ (mb : Nat) (s : State), Accepted ⟨0x0E03, some 16, [(2, 2), (12, 4)]⟩ mb s → arg s mb 0 1 ≤ 2 →
      (arg s mb 0 1 = 2 → 10 ≤ arg s mb 1 1 ∧ arg s mb 1 1 ≤ 16 ∧ arg s mb 4 8 % 4096 = 0) →
      s.tracer.delivery ≠ arg s mb 0 1 →
      Runs (.perfTrdeliver mb) s (fun t => AnsweredOk mb t ∧ t.tracer = { s.tracer with
        delivery := arg s mb 0 1, n := arg s mb 1 1, addr := arg s mb 4 8, next := 0, phase := true, buffer := []
        full := false }))
  ∧ (∀ (mb : Nat) (s : State), Accepted (bareShape 0x0E04) mb s → Runs (.perfTrstatus mb) s (fun t => AnsweredOk mb t
        ∧ resp t mb 0 1 = b2n s.tracer.isOpen + 2 * b2n s.tracer.full + 4 * b2n (s.flt.dma.contains 1)
        ∧ resp t mb 4 4 = s.tracer.next % 2 ^ 32 ∧ resp t mb 8 8 = s.tracer.written % 2 ^ 64
        ∧ resp t mb 16 8 = s.tracer.dropped % 2 ^ 64 ∧ resp t mb 24 8 = s.tracer.suspendedN % 2 ^ 64))

/-- What every mailbox command writes back. For every mailbox command: where its mailbox is not rung, is not next, or
holds another opcode, nothing changes. Where it is accepted, the response overwrites the request: opcode and tag
unchanged, LENGTH of the response payload, RESPONSE set, the completion code, CFG_GEN after the command, and the
payload; BUSY clears, DONE is set, and the mailbox's interrupt bit is set. CFG_GEN advances exactly for a state-
changing command that answers OK or DEFERRED and changed something. UNKNOWN_OPCODE answers BADARG in READY. -/
def Obligations.ResponseHeader : Prop :=
  ∀ (h : Shape) (body : Req → State → Reply) (mb : Nat) (s : State), okMb mb = true →
    (accepts h.op mb s = false → mailbox h body mb s = .next s)
    ∧ (accepts h.op mb s = true → (answer h body (requestOf s mb) s).pay.length < 65536 → ∃ t, mailbox h body mb s = .next t
        ∧ getU 0 2 (mailOf t mb) = (requestOf s mb).op ∧ getU 2 2 (mailOf t mb) = (requestOf s mb).tag
        ∧ getU 4 2 (mailOf t mb) = (answer h body (requestOf s mb) s).pay.length
        ∧ bitOf (getU 6 1 (mailOf t mb)) 7 = true ∧ codeIn t mb = codeNum (answer h body (requestOf s mb) s).code
        ∧ getU 8 4 (mailOf t mb) = t.ctrl.cfgGen.toNat
        ∧ respBytes t mb 0 (answer h body (requestOf s mb) s).pay.length = (answer h body (requestOf s mb) s).pay
        ∧ bvBit t.ctrl.mbBusy mb = false ∧ bvBit t.ctrl.mbDone mb = true ∧ bvBit t.ctrl.intStatus mb = true
        ∧ t.ctrl.cfgGen = genAfter (requestOf s mb) (answer h body (requestOf s mb) s))
    ∧ (s.ctrl.stage = .ready → mailboxesWork s = true → isNext s mb = true → cmdClass (mailOp s mb) = none →
        Runs (.unknownOpcode mb) s (fun t => AnsweredWith .badarg mb t ∧ t.ctrl.cfgGen = s.ctrl.cfgGen))

/-- The sys commands. Accepted: sys.identify shows the revision and the supported generations; sys.status shows stage,
role, CFG_GEN and uptime; sys.reset with its key answers OK and the reset waits; sys.quiet 1 turns both directions
of every port off; sys.quiet 0 ends it; sys.evmask suppresses or resumes one event code that is not urgent; sys.echo
returns the request's bytes. -/
def Obligations.SysCommands : Prop :=
  (∀ (mb : Nat) (s : State), Accepted ⟨0x0100, some 0, []⟩ mb s → Runs (.sysIdentify mb) s (fun t =>
      AnsweredOk mb t ∧ resp t mb 32 2 = Config.revision.toNat ∧ resp t mb 46 1 = s.ctrl.running % 256
        ∧ resp t mb 47 1 = 2 ∧ resp t mb 48 1 = 2))
  ∧ (∀ (mb : Nat) (s : State), Accepted ⟨0x0101, some 0, []⟩ mb s → Runs (.sysStatus mb) s (fun t =>
      AnsweredOk mb t ∧ resp t mb 0 1 = stageCode s.ctrl.stage ∧ resp t mb 1 1 = s.pair.role % 256
        ∧ resp t mb 2 4 = s.ctrl.cfgGen.toNat ∧ resp t mb 6 4 = tcSec (upTime s) % 2 ^ 32))
  ∧ (∀ (mb : Nat) (s : State), Accepted ⟨0x0102, some 4, [(2, 2)]⟩ mb s → arg s mb 0 2 = 0xA55A →
      Runs (.sysReset mb) s (fun t => AnsweredOk mb t ∧ t.ctrl.resetDue = true))
  ∧ (∀ (mb : Nat) (los : List Int) (s : State), Accepted ⟨0x0103, some 4, [(1, 3)]⟩ mb s → arg s mb 0 1 = 1 →
      s.quiet = false → Runs (.sysQuiet mb los) s (fun t => AnsweredOk mb t ∧ t.quiet = true
        ∧ ∀ p, p < 6 → (txPort t p).tx = .off ∧ (rxPort t p).st = .off))
  ∧ (∀ (mb : Nat) (los : List Int) (s : State), Accepted ⟨0x0103, some 4, [(1, 3)]⟩ mb s → arg s mb 0 1 = 0 →
      s.quiet = true → Runs (.sysQuiet mb los) s (fun t => AnsweredOk mb t ∧ t.quiet = false))
  ∧ (∀ (mb v : Nat) (s : State), Accepted ⟨0x0104, some 4, [(3, 1)]⟩ mb s → eventVector (arg s mb 0 2) = some v →
      isUrgent v = false → arg s mb 2 1 ≤ 1 → Runs (.sysEvmask mb) s (fun t => AnsweredOk mb t
        ∧ suppressed t (arg s mb 0 2) = (arg s mb 2 1 == 0)
        ∧ ∀ code, code ≠ arg s mb 0 2 → suppressed t code = suppressed s code))
  ∧ (∀ (mb : Nat) (s : State), Accepted ⟨0x0105, none, []⟩ mb s → Runs (.sysEcho mb) s (fun t =>
      AnsweredOk mb t ∧ respBytes t mb 0 (requestOf s mb).pay.length = (requestOf s mb).pay))

/-- The firmware update session. Accepted: fw.begin with a size of 1 to 4,194,304 and no session open opens one;
fw.write of n bytes within the size puts exactly those bytes into the staging area (in a state with a whole mailbox
and a canonical memory); fw.verify of a good image with every word readable verifies it and answers its CRC; fw.activate of a verified image
below 256 KiB with the flash free programs the other slot and moves the active mark; FW_ACTIVATE_DONE does so for a
deferred one; fw.info shows the session and the slots' states; fw.restart makes a warm restart due. -/
def Obligations.FirmwareUpdate : Prop :=
  (∀ (mb : Nat) (s : State), Accepted ⟨0x0F01, some 12, []⟩ mb s → 1 ≤ arg s mb 0 4 → arg s mb 0 4 ≤ 4194304 →
      s.fw.session = 0 → Runs (.fwBegin mb) s (fun t => AnsweredOk mb t ∧ t.fw.session = 1 ∧ t.fw.size = arg s mb 0 4
        ∧ t.fw.crc.toNat = arg s mb 4 4 ∧ t.fw.staged = [] ∧ t.fw.active = s.fw.active))
  ∧ (∀ (mb : Nat) (s : State), Accepted ⟨0x0F02, none, [(6, 2)]⟩ mb s → 1 ≤ arg s mb 4 2 → arg s mb 4 2 ≤ 224 →
      (requestOf s mb).len = 8 + arg s mb 4 2 → s.fw.session = 1 → arg s mb 0 4 + arg s mb 4 2 ≤ s.fw.size →
      (mailOf s mb).length = 256 → MemoryCanonical s →
      Runs (.fwWrite mb) s (fun t => AnsweredOk mb t
        ∧ (∀ k, k < arg s mb 4 2 → bulkByte t (stagingBase + arg s mb 0 4 + k) = (field 8 (arg s mb 4 2) (requestOf s mb).pay).getD k 0)
        ∧ (∀ a, a < stagingBase + arg s mb 0 4 ∨ stagingBase + arg s mb 0 4 + arg s mb 4 2 ≤ a → bulkByte t a = bulkByte s a)))
  ∧ (∀ (mb : Nat) (s : State), Accepted ⟨0x0F03, some 0, []⟩ mb s → (s.fw.session = 1 ∨ s.fw.session = 2) →
      Runs (.fwVerify mb) s (fun t => respBytes t mb 0 4 = natBE 4 (crc32 (stagedImage s))
        ∧ (imageGood s = true → true ∉ (readWords 9 (stagedWords s) s).1 → AnsweredOk mb t ∧ t.fw.session = 2)
        ∧ (imageGood s = false ∨ true ∈ (readWords 9 (stagedWords s) s).1 → AnsweredWith .range mb t ∧ t.fw = s.fw)))
  ∧ (∀ (mb : Nat) (s : State), Accepted ⟨0x0F04, some 0, []⟩ mb s → s.fw.session = 2 → s.fw.size < 262144 →
      flashFree s = true → Runs (.fwActivate mb true) s (fun t => AnsweredOk mb t ∧ t.fw.session = 0
        ∧ t.fw.active = otherSlot s.fw.active ∧ (slotOf t.fw (otherSlot s.fw.active)).state = 1
        ∧ (slotOf t.fw (otherSlot s.fw.active)).version = s.fw.version))
  ∧ (∀ (same : Bool) (s : State), awake s = true → (startWork s).therm.busy = some .activate → s.therm.window = true →
      Runs (.fwActivateDone same) s (fun t => t.fw.session = 0 ∧ t.therm.busy = none
        ∧ (slotOf t.fw (otherSlot s.fw.active)).state = (if same then 1 else 2)
        ∧ t.fw.active = (if same then otherSlot s.fw.active else s.fw.active)))
  ∧ (∀ (mb : Nat) (s : State), Accepted ⟨0x0F00, some 0, []⟩ mb s → Runs (.fwInfo mb) s (fun t => AnsweredOk mb t
      ∧ resp t mb 12 1 = s.fw.slotA.state % 256 ∧ resp t mb 28 1 = s.fw.slotB.state % 256 ∧ resp t mb 32 1 = s.fw.session % 256))
  ∧ (∀ (mb : Nat) (s : State), Accepted ⟨0x0F05, some 4, [(1, 3)]⟩ mb s → arg s mb 0 1 = 0 → isLead s = false →
      (slotOf s.fw s.fw.active).state = 1 → (∀ m, m < 8 → m ≠ mb → bvBit s.ctrl.mbBusy m = false) → s.ctrl.deferred = [] →
      Runs (.fwRestart mb) s (fun t => AnsweredOk mb t ∧ t.fw.warmDue = true ∧ t.txp = s.txp ∧ t.rxp = s.rxp))

/-- Power-up and boot. VIN_RISE_UVLO at or above the threshold with the input switch closed starts a power-on: soft
start, stage POWER, CFG_GEN zero, empty memory, every transmitter and receiver off, the flash slots kept.
SOFT_START_ABORT below the UVLO off threshold turns everything off. RAILS_IN_REGULATION powers the module and starts
the boot ROM with the image marked active. BOOT_THERMAL_WAIT ends once the hottest die is below 140.0 C.
BOOT_IMAGE_CHECK starts the PCIe endpoint while PERST# is released; it passes a good image to LOAD, or goes to the other one, or after both to RECOVERY. BOOT_LOAD_DONE leads to
INIT with that image running; BOOT_READY to READY with BOOT_DONE. BOOT_WATCHDOG marks the image failed.
PERST_RELEASE starts the PCIe endpoint of a powered module. -/
def Obligations.PowerUpAndBoot : Prop :=
  (∀ (vin addr : Nat) (role : Bool) (s : State), 3400 ≤ vin → s.power.phase = .off → s.power.switchOpen = false →
      Runs (.vinRiseUvlo vin role addr) s (fun t => t.power.phase = .softStart ∧ t.ctrl.stage = .power ∧ t.ctrl.cfgGen = 0
        ∧ t.bulk.mem = [] ∧ t.ev.seq = 0 ∧ t.fw.active = s.fw.active ∧ t.fw.slotA = s.fw.slotA ∧ t.fw.slotB = s.fw.slotB
        ∧ t.pair.role = (if role then 3 else 0) ∧ ∀ p, (txPort t p).tx = .off ∧ (rxPort t p).st = .off))
  ∧ (∀ (vin : Nat) (s : State), vin < 3250 → s.power.phase = .softStart →
      Runs (.softStartAbort vin) s (fun t => t.power.phase = .off))
  ∧ (∀ s : State, s.power.phase = .softStart → s.power.resetHeld = false →
      Runs .railsInRegulation s (fun t => t.power.phase = .good ∧ t.power.powered = true ∧ t.ctrl.stage = .rom
        ∧ t.fw.trying = s.fw.active ∧ t.fw.bootStep = 1))
  ∧ (∀ (ok : Bool) (s : State), booting s = true →
      Runs (.bootImageCheck ok) s (fun t => t.ctrl.pcieUp = (s.ctrl.pcieUp || !s.ctrl.perst)))
  ∧ (∀ s : State, booting s = true → s.power.thermWait = true → storedDies s ≠ [] → (hottest s).2 < 1400 →
      Runs .bootThermalWait s (fun t => t.power.thermWait = false))
  ∧ (∀ s : State, booting s = true → s.fw.bootStep = 1 → s.power.thermWait = false →
      ((slotOf s.fw s.fw.trying).state = 1 → Runs (.bootImageCheck true) s (fun t => t.fw.bootStep = 2 ∧ t.fw.trying = s.fw.trying
        ∧ t.ctrl.stage = .load
        ∧ t.ctrl.fallback = (s.fw.trying != s.fw.active)))
      ∧ (s.fw.otherTried = false → Runs (.bootImageCheck false) s (fun t => t.fw.trying = otherSlot s.fw.trying
          ∧ t.fw.bootStep = 1 ∧ t.fw.otherTried = true ∧ t.ctrl.stage = .rom))
      ∧ (s.fw.otherTried = true → Runs (.bootImageCheck false) s (fun t => t.ctrl.stage = .recovery)))
  ∧ (∀ s : State, booting s = true → s.fw.bootStep = 2 → Runs .bootLoadDone s (fun t => t.ctrl.stage = .init
      ∧ t.ctrl.running = s.fw.trying ∧ t.ctrl.fwVersion = (slotOf s.fw s.fw.trying).version))
  ∧ (∀ (calOk : Bool) (s : State), s.ctrl.stage = .init → s.power.phase = .good →
      (s.therm.shut = false → Runs (.bootReady calOk) s (fun t => t.ctrl.stage = .ready
        ∧ Logged 0x0101 0 [byteOf s.ctrl.running, b2w s.ctrl.fallback] t))
      ∧ (s.therm.shut = true → Runs (.bootReady calOk) s (fun t => t.ctrl.stage = .shutdown)))
  ∧ (∀ s : State, s.ctrl.stage = .init → mailboxesWork s = true → s.fw.otherTried = false → s.fw.trying = 1 →
      Runs .bootWatchdog s (fun t => t.fw.slotA.state = 2 ∧ t.fw.trying = 2 ∧ t.ctrl.stage = .rom
        ∧ Logged 0x0F01 0 [1] t))
  ∧ (∀ s : State, s.power.powered = true → s.power.resetHeld = false →
      Runs .perstRelease s (fun t => t.ctrl.perst = false ∧ t.ctrl.pcieUp = true))

/-- Resets, power fail, warm restart and port reset. RESET_N_ASSERT low for more than 1.02 us on a running module resets
it and holds it; RESET_N_RELEASE samples the ROLE pin and starts the boot ROM; SYS_RESET_DELAY_END of an accepted
sys.reset does both at once. A reset zeroes CFG_GEN and SEQ, turns every port off, and keeps the flash slots, the
thermal latch and the retirements. POWER_FAIL_DETECT puts every port dark, raises POWER_FAIL and freezes the log;
POWER_FAIL_PATH_END with VIN below the on threshold waits. OV_SHUTDOWN opens the input switch, OV_RECOVER below 76.0
V closes it. VIN_WARN_TIMER raises VIN_WARNING when the warning changes. WARM_RESTART_START of a restart that is
due, in READY, goes to RESTART and counts it, with the ports, the memory and the keys as they were;
WARM_RESTART_DONE returns to READY with the image running and raises FW_RESTARTED; a stand-in whose pair link is up
then resynchronizes. port.reset of a port with both directions off empties its crossings and answers OK; of a lit
port it answers DEFERRED and takes both directions down to start them again. PORT_RESET_DONE with both directions
back ends it. -/
def Obligations.ResetsAndPowerFail : Prop :=
  ((∀ (low : Nat) (s : State), 1020 ≤ low → s.power.phase = .good → Runs (.resetNAssert low) s (fun t =>
      t.power.resetHeld = true ∧ t.power.phase = .good ∧ t.ctrl.cfgGen = 0 ∧ t.ev.seq = 0 ∧ t.therm.shut = s.therm.shut
        ∧ t.fw.slotA = s.fw.slotA ∧ t.fw.slotB = s.fw.slotB ∧ t.fw.active = s.fw.active ∧ t.fw.session = 0
        ∧ (∀ p, (txPort t p).tx = .off ∧ (rxPort t p).st = .off)
        ∧ ∀ typ idx, typ ≤ 10 → idx < 65536 → typ ≠ 6 → typ ≠ 7 → isRetired s typ idx = true → isRetired t typ idx = true))
  ∧ (∀ (role : Bool) (s : State), s.power.resetHeld = true → s.power.phase = .good → Runs (.resetNRelease role) s (fun t =>
      t.power.resetHeld = false ∧ t.ctrl.stage = .rom ∧ t.fw.trying = s.fw.active ∧ t.pair.role = (if role then 3 else 0)))
  ∧ (∀ (role : Bool) (s : State), s.ctrl.resetDue = true → mailboxesWork s = true → Runs (.sysResetDelayEnd role) s (fun t =>
      t.ctrl.stage = .rom ∧ t.ctrl.cfgGen = 0 ∧ t.ctrl.resetDue = false ∧ t.fw.trying = s.fw.active
        ∧ ∀ p, (txPort t p).tx = .off ∧ (rxPort t p).st = .off))
  ∧ (∀ (vin : Nat) (s : State), s.power.phase = .good → vin < 3300 → s.log.frozen = false →
      Runs (.powerFailDetect vin) s (fun t =>
        t.power.phase = .failPath ∧ t.power.powered = false ∧ t.log.frozen = true ∧ t.log.cause = 2
          ∧ ∀ p, p < 6 → transmitting t p = false ∧ receiving t p = false))
  ∧ (∀ (vin addr : Nat) (role : Bool) (s : State), s.power.phase = .failPath → vin < 3400 →
      Runs (.powerFailPathEnd vin role addr) s (fun t => t.power.phase = .waitUvlo
        ∧ t.power.belowOff = (s.power.belowOff || s.power.switchOpen || decide (vin < 3250))))
  ∧ (∀ (vin : Nat) (s : State), 7800 ≤ vin → Runs (.ovShutdown vin) s (fun t => t.power.switchOpen = true
      ∧ (s.power.phase = .softStart → t.power.phase = .off)))
  ∧ (∀ (vin addr : Nat) (role : Bool) (s : State), s.power.switchOpen = true → 3400 ≤ vin → vin < 7600 → s.power.phase = .off →
      Runs (.ovRecover vin role addr) s (fun t => t.power.switchOpen = false ∧ t.power.phase = .softStart))
  ∧ (∀ (vin : Nat) (s : State), s.power.powered = true → vinWarnOf vin s.power.vinWarn ≠ s.power.vinWarn →
      Runs (.vinWarnTimer vin) s (fun t => t.power.vinWarn = vinWarnOf vin s.power.vinWarn
        ∧ Logged 0x0103 0 ([byteOf (vinWarnOf vin s.power.vinWarn), 0] ++ natBE 2 vin) t)))
  ∧ ((∀ s : State, s.fw.warmDue = true → mailboxesWork s = true → s.ctrl.stage = .ready → Runs .warmRestartStart s (fun t =>
      t.ctrl.stage = .restart ∧ t.ctrl.restarts = min 15 (s.ctrl.restarts + 1) ∧ t.fw.warmDue = false ∧ t.ctrl.cfgGen = s.ctrl.cfgGen
        ∧ t.txp = s.txp ∧ t.rxp = s.rxp ∧ t.bulk = s.bulk ∧ t.cipher = s.cipher ∧ t.svc = s.svc ∧ t.cues = s.cues))
  ∧ (∀ s : State, s.ctrl.stage = .restart → mailboxesWork s = true → Runs .warmRestartDone s (fun t =>
      t.ctrl.stage = .ready ∧ t.ctrl.running = s.fw.trying
        ∧ Logged 0x0F00 0 (natBE 4 (slotOf s.fw s.fw.trying).version.toNat) t
        ∧ t.txp = s.txp ∧ t.rxp = s.rxp ∧ t.bulk = s.bulk ∧ t.cipher = s.cipher
        ∧ (isStandIn s = true → s.pair.up = true → t.pair.resync = 1 ∧ t.pair.inStep = false)
        ∧ ((isStandIn s && s.pair.up) = false → t.svc = s.svc ∧ t.pair = s.pair)))
  ∧ (∀ (mb : Nat) (lo : Int) (s : State), Accepted ⟨0x0211, some 4, [(1, 3)]⟩ mb s → okPort (arg s mb 0 1) = true →
      enabling s (arg s mb 0 1) = false →
      (portLit s (arg s mb 0 1) = false → Runs (.portReset mb lo) s (fun t => AnsweredOk mb t
        ∧ (fecPort t (arg s mb 0 1)).debt = [] ∧ fifoOf t (fifoKey (.stream (.adcToCore (arg s mb 0 1)))) = {}))
      ∧ (portLit s (arg s mb 0 1) = true → Runs (.portReset mb lo) s (fun t => AnsweredWith .deferred mb t
        ∧ (txPort t (arg s mb 0 1)).tx ≠ .on ∧ (rxPort t (arg s mb 0 1)).st ≠ .track
        ∧ (txPort t (arg s mb 0 1)).resetOn = transmitting s (arg s mb 0 1)
        ∧ (rxPort t (arg s mb 0 1)).resetOn = receiving s (arg s mb 0 1))))
  ∧ (∀ (p : Nat) (ok : Bool) (d : Deferred) (s : State), okPort p = true → findDeferred s 0x0211 p = some d →
      portBack s p = true → Runs (.portResetDone p ok) s (fun t =>
        (txPort t p).resetOn = false ∧ (rxPort t p).resetOn = false ∧ t.ctrl.deferred = s.ctrl.deferred.erase d
          ∧ Logged 0x0100 0 (natBE 2 d.op ++ [0]) t)))

/-- A wrong generation stops every command. For every mailbox command that is accepted and passes the checks ahead of
it: when CHECK_GEN is set and GENERATION differs from CFG_GEN at the command's acceptance, the command is not executed: it completes with
GENERATION, the response carries the present CFG_GEN, CFG_GEN and the pending deferred commands are as they were,
and no part of the state but the mailbox and the interrupt it raises changes. -/
def Obligations.GenerationStopsACommand : Prop :=
  ∀ (c : Instr) (h : Shape) (mb : Nat) (s : State), requestFor c = some (h, mb) → okMb mb = true → accepts h.op mb s = true →
    stageGate (requestOf s mb) s = none → h.fits (requestOf s mb) = true → roleGate (requestOf s mb) s = none →
    (requestOf s mb).checkGen = true → (requestOf s mb).gen ≠ (acceptGen s mb).toNat →
    Runs c s (fun t => AnsweredWith .generation mb t ∧ getU 8 4 (mailOf t mb) = s.ctrl.cfgGen.toNat
      ∧ t.ctrl.cfgGen = s.ctrl.cfgGen ∧ t.ctrl.deferred = s.ctrl.deferred ∧ t.ctrl.stage = s.ctrl.stage
      ∧ ∀ p : Part, p ≠ .ctrl → p ≠ .ev → p.same s t)

/-- What the I2C path reaches. Over I2C, a read at an offset outside the blocks marked Yes (0x0000 to 0x04FF) and
outside MB7 (0x0F00 to 0x0FFF), the key window, the MSI-X table and the pending-bit array among them, returns zero,
and a write there changes nothing. Inside, a read returns what PCIe returns, the timecode capture apart, which each
path has for itself, and a write of a word outside the doorbell, the owner register and the mailboxes does what PCIe's does
(whose management FIFO is then read). A transaction at another address changes nothing. -/
def Obligations.I2cReachesTheMarkedBlocks : Prop :=
  ∀ (off : Nat) (val : Word) (s : State),
    (¬(off < 0x0500 ∨ (0x0F00 ≤ off ∧ off < 0x1000)) → bar0Read .i2c off s = 0
      ∧ (okOffset off = true → exec (.registerWrite (.i2c (i2cAddress s) off (natBE 4 val.toNat))) s = .next s))
    ∧ ((off < 0x0500 ∨ (0x0F00 ≤ off ∧ off < 0x1000)) → busWorks .i2c s = true → busWorks .pcie s = true →
      (off < 0x0410 ∨ 0x0420 ≤ off) → bar0Read .i2c off s = bar0Read .pcie off s)
    ∧ (off < 0x0500 → okOffset off = true → off ≠ 0x0200 → off ≠ 0x0210 → busWorks .i2c s = true → busWorks .pcie s = true →
      ∃ t, exec (.registerWrite (.i2c (i2cAddress s) off (natBE 4 val.toNat))) s = .next t
        ∧ exec (.registerWrite (.pcie off val)) s = .next (readSmall .management t))
    ∧ (∀ (addr : Nat) (data : List Byte), addr < 128 → addr ≠ i2cAddress s → off < 65536 →
        exec (.registerWrite (.i2c addr off data)) s = .next s)

/-- Every command leaves alone what it has no business with. For each of the 345 commands, where exec answers a next
state, every part of the state outside the command's list (mayChange, which names for each command the registers,
queues, buffers, counters and records it may write) is as it was: no command of one unit changes the registers,
memories or counts of a unit that the spec gives it no effect on. -/
def Obligations.CommandsChangeOnlyTheirParts : Prop :=
  ∀ (c : Instr) (s t : State), exec c s = .next t → ∀ p : Part, p ∉ mayChange c → p.same s t

/-- A command of one port leaves every other port alone. Every transmit, receive, FEC, frame, hub and casting command of
a port or subcarrier that answers a next state leaves the transmitter, receiver, FEC, hub and frame state of every
other port, and that of every subcarrier of another port, as it was. -/
def Obligations.LineCommandsKeepOtherPorts : Prop :=
  ∀ (c : Instr) (p : Nat) (s t : State), portOf s c = some p → exec c s = .next t → OtherPortsKept p s t

/-- Read-only commands change nothing; no command answers in another's mailbox. A read-only command (label.counters with
its clear, label.stats, which clears a flag by its read, and log.read with point 0x1E1 armed or of a log in bulk
memory, whose reads are checked, apart) leaves CFG_GEN, the deferred commands and every part of the state but its
mailbox, its interrupt and the model's own counter of free values as they were. A mailbox command leaves every other mailbox's bytes as they were; the host commands and an
injection, which can end a waiting host.lowpower and so answer its mailbox, apart. -/
def Obligations.MailboxCommandsLeaveTheRest : Prop :=
  (∀ (c : Instr) (h : Shape) (mb : Nat) (s t : State), requestFor c = some (h, mb) → cmdClass h.op = some .readOnly →
      (∀ m, c = .labelCounters m → arg s m 4 1 ≠ 1) → (∀ m, c ≠ .labelStats m) →
      (∀ m, c = .logRead m → injArmed s 0x1E1 = false ∧ arg s m 0 1 ≠ 1 ∧ arg s m 0 1 ≠ 2) → exec c s = .next t →
      t.ctrl.cfgGen = s.ctrl.cfgGen ∧ t.ctrl.deferred = s.ctrl.deferred ∧ t.ctrl.stage = s.ctrl.stage
        ∧ ∀ p : Part, p ≠ .ctrl → p ≠ .ev → p ≠ .free → p.same s t)
  ∧ (∀ (c : Instr) (h : Shape) (mb : Nat) (s t : State), requestFor c = some (h, mb) → exec c s = .next t →
      (∀ m, c ≠ .hostPortcfg m) → (∀ m, c ≠ .hostEnable m) → (∀ m, c ≠ .hostLowpower m) → (∀ m, c ≠ .hostRetrain m) →
      (∀ m, c ≠ .faultInject m) → ∀ m, m ≠ mb → mailOf t m = mailOf s m)

/-- Which bytes of bulk memory a command may change. From a canonical memory, a command that answers a next state leaves
every byte of bulk memory as it reads, but for: the staging area, for fw.begin, fw.write and the boot steps that
clear it; the line of the label, for label.set; the counter set, for label.counters; the counter line and, from a full
counter cache, the line that leaves it, for a counter line fill; the counter line, for consumer 5's read of it; the written bytes, for a write of a client; the label and counter areas,
for a mirrored record; and a reset or power-on, after which every byte reads as zero. -/
def Obligations.OnlyStoresChangeBulkMemory : Prop :=
  ∀ (c : Instr) (s t : State), MemoryCanonical s → exec c s = .next t →
    match c with
    | .fwBegin _ | .fwWrite _ | .bootImageCheck _ | .bootWatchdog =>
      s.fw.size ≤ stagingSize → ∀ a, (a < stagingBase ∨ stagingBase + stagingSize ≤ a) → bulkByte t a = bulkByte s a
    | .labelSet mb => ∀ a, a / 64 ≠ labelBase / 64 + arg s mb 0 4 / 4 → bulkByte t a = bulkByte s a
    | .labelCounters mb =>
      ∀ a, (a < setAddr (arg s mb 0 4) ∨ setAddr (arg s mb 0 4) + 32 ≤ a) → bulkByte t a = bulkByte s a
    | .counterLineFillDone line _ => ∀ a, a / 64 ≠ counterBase / 64 + line →
        (s.svc.ctrCache.length < 131072 ∨ ∀ l, l ∈ s.svc.ctrCache → a / 64 ≠ counterBase / 64 + l) → bulkByte t a = bulkByte s a
    | .bulkRead k addr _ => ((k ≠ 5 ∨ (counterBase ≤ addr ∧ addr < pmBase)) →
        ∀ a, (k ≠ 5 ∨ a / 64 ≠ addr / 64) → bulkByte t a = bulkByte s a)
    | .bulkPartialWrite addr data _ => ∀ a, (a < addr ∨ addr + data.length ≤ a) → bulkByte t a = bulkByte s a
    | .mirrorRecordReceive r => (∀ n e, r = .label n e → e.length = 16) → ∀ a, pmBase ≤ a → bulkByte t a = bulkByte s a
    | .sysResetDelayEnd _ | .vinRiseUvlo _ _ _ | .resetNAssert _ | .powerFailPathEnd _ _ _ | .ovRecover _ _ _ =>
      (∀ a, bulkByte t a = bulkByte s a) ∨ ∀ a, bulkByte t a = 0
    | _ => ∀ a, bulkByte t a = bulkByte s a
end

