-- ==== Sys2Proof/Laws/Bytes.lean ====
section
/-! SUPPORT. Byte fields, checks and sparse tables: what reading gives back after writing. -/

namespace Sys2Proof.Machine

/-! Big-endian fields. -/

@[simp] theorem natBE_length (n v : Nat) : (natBE n v).length = n := by
  induction n generalizing v with
  | zero => rfl
  | succ n ih => simp [natBE, ih]

@[simp] theorem intBE_length (n : Nat) (v : Int) : (intBE n v).length = n := natBE_length n _

@[simp] theorem zeros_length (n : Nat) : (zeros n).length = n := List.length_replicate

theorem beNat_append (a b : List Byte) : beNat (a ++ b) = 256 ^ b.length * beNat a + beNat b := by
  induction b using List.reverseRecOn with
  | nil => simp [beNat]
  | append_singleton b x ih =>
    have h (l : List Byte) : beNat (l ++ [x]) = 256 * beNat l + x.toNat := by simp [beNat]
    rw [← List.append_assoc, h, h, ih]
    simp [pow_succ]
    ring

theorem beNat_lt (b : List Byte) : beNat b < 256 ^ b.length := by
  induction b using List.reverseRecOn with
  | nil => simp [beNat]
  | append_singleton b x ih =>
    have h : beNat (b ++ [x]) = 256 * beNat b + x.toNat := by simp [beNat]
    have := x.isLt
    simp only [h, List.length_append, List.length_singleton, pow_succ]
    omega

/-- A field holds the number written to it, modulo its size. -/
@[simp] theorem beNat_natBE (n v : Nat) : beNat (natBE n v) = v % 256 ^ n := by
  induction n generalizing v with
  | zero => simp [natBE, beNat, Nat.mod_one]
  | succ n ih =>
    have h (l : List Byte) (x : Byte) : beNat (l ++ [x]) = 256 * beNat l + x.toNat := by simp [beNat]
    rw [natBE, h, ih, Nat.pow_succ', Nat.mod_mul]
    simp
    omega

theorem getU_lt (off n : Nat) (b : List Byte) : getU off n b < 256 ^ n :=
  lt_of_lt_of_le (beNat_lt _) (Nat.pow_le_pow_right (by norm_num) (by simp [field]))

/-- The field behind a known beginning. -/
theorem field_append (a b : List Byte) (n : Nat) : field a.length n (a ++ b) = b.take n := by simp [field]

/-- A field of a message that stands between a known beginning and the rest. -/
theorem field_mid (a b c : List Byte) : field a.length b.length (a ++ b ++ c) = b := by simp [field]

theorem field_length_le (off n : Nat) (b : List Byte) : (field off n b).length ≤ n := by simp [field]

/-- What lies before the overlaid part, in it, and behind it. -/
theorem overlay_zero (new old : List Byte) : overlay 0 new old = new ++ old.drop new.length := by simp [overlay]

/-! Cyclic redundancy checks. -/

theorem crcBitM_lt (w poly c : Nat) (b : Bool) (hp : poly < 2 ^ w) : crcBitM w poly c b < 2 ^ w := by
  have h : 2 * c % 2 ^ w < 2 ^ w := Nat.mod_lt _ (Nat.two_pow_pos w)
  simp only [crcBitM]
  split
  · exact Nat.xor_lt_two_pow h hp
  · exact h

/-- A CRC of width `w` keeps below 2^w. -/
theorem crcMsb_lt (w poly init : Nat) (bs : List Byte) (hp : poly < 2 ^ w) (hi : init < 2 ^ w) :
    crcMsb w poly init bs < 2 ^ w := by
  have bits (l : List Bool) (c : Nat) (h : c < 2 ^ w) : l.foldl (crcBitM w poly) c < 2 ^ w := by
    induction l generalizing c with
    | nil => exact h
    | cons b l ih => exact ih _ (crcBitM_lt w poly c b hp)
  unfold crcMsb
  induction bs generalizing init with
  | nil => exact hi
  | cons b bs ih => exact ih _ (bits _ _ hi)

theorem crc16_lt (bs : List Byte) : crc16 bs < 2 ^ 16 := crcMsb_lt 16 _ _ bs (by norm_num) (by norm_num)

/-! Sparse tables: every table, whatever its order, reads back what was set. -/

variable {α : Type}

theorem tabGet_filter_ne (d : α) (t : Tab α) (k j : Nat) :
    tabGet d (t.filter (fun e => e.1 != k)) j = if j = k then d else tabGet d t j := by
  induction t with
  | nil => simp [tabGet]
  | cons e t ih =>
    by_cases he : e.1 = k <;> by_cases hj : e.1 = j <;> simp_all [tabGet]

theorem tabGet_insert (d : α) (t : Tab α) (k j : Nat) (v : α) (h : ∀ e ∈ t, e.1 ≠ k) :
    tabGet d (tabInsert k v t) j = if j = k then v else tabGet d t j := by
  induction t with
  | nil => simp [tabInsert, tabGet, eq_comm]
  | cons e t ih =>
    have ih' := ih (fun x hx => h x (List.mem_cons_of_mem _ hx))
    have he : e.1 ≠ k := h e (List.mem_cons_self ..)
    simp only [tabInsert]
    split
    · simp only [tabGet, eq_comm (a := k)]
    · simp only [tabGet, ih']
      by_cases hj : j = k
      · simp [hj, he]
      · simp [hj]

/-- What an entry reads as after a set. -/
theorem tabGet_set [DecidableEq α] (d : α) (t : Tab α) (k j : Nat) (v : α) :
    tabGet d (tabSet d t k v) j = if j = k then v else tabGet d t j := by
  unfold tabSet
  by_cases hv : v = d
  · simp [hv, tabGet_filter_ne]
  · simp only [hv, if_false]
    rw [tabGet_insert d _ k j v (by simp), tabGet_filter_ne]
    split <;> rfl

@[simp] theorem tabGet_set_same [DecidableEq α] (d : α) (t : Tab α) (k : Nat) (v : α) :
    tabGet d (tabSet d t k v) k = v := by simp [tabGet_set]

theorem tabGet_set_other [DecidableEq α] (d : α) (t : Tab α) {k j : Nat} (v : α) (h : j ≠ k) :
    tabGet d (tabSet d t k v) j = tabGet d t j := by simp [tabGet_set, h]

/-- What an entry reads as after a change. -/
theorem tabGet_mod [DecidableEq α] (d : α) (t : Tab α) (k j : Nat) (f : α → α) :
    tabGet d (tabMod d t k f) j = if j = k then f (tabGet d t k) else tabGet d t j := by
  simp [tabMod, tabGet_set]

@[simp] theorem tabGet_mod_same [DecidableEq α] (d : α) (t : Tab α) (k : Nat) (f : α → α) :
    tabGet d (tabMod d t k f) k = f (tabGet d t k) := by simp [tabGet_mod]

theorem tabGet_mod_other [DecidableEq α] (d : α) (t : Tab α) {k j : Nat} (f : α → α) (h : j ≠ k) :
    tabGet d (tabMod d t k f) j = tabGet d t j := by simp [tabGet_mod, h]

/-! Sets of numbers as ascending lists. -/

@[simp] theorem mem_including (x y : Nat) (l : List Nat) : y ∈ including x l ↔ y = x ∨ y ∈ l := by
  induction l with
  | nil => simp [including]
  | cons z l ih =>
    unfold including
    split
    · simp_all
    · split <;> simp_all
      tauto

@[simp] theorem mem_without (x y : Nat) (l : List Nat) : y ∈ without x l ↔ y ∈ l ∧ y ≠ x := by simp [without]

end Sys2Proof.Machine
end

