-- ==== Sys2Proof/Laws/Casting.lean ====
section
/-! SUPPORT. The casting code: what the encoder of R225/07 sends is what the receiver reads, where every soft value has the
sign of its bit. -/

namespace Sys2Proof.Machine

/-- Bytes are their number. -/
theorem natBE_beNat (b : List Byte) : natBE b.length (beNat b) = b := by
  induction b using List.reverseRecOn with
  | nil => rfl
  | append_singleton b x ih =>
    have h : beNat (b ++ [x]) = 256 * beNat b + x.toNat := by simp [beNat]
    have hx := x.isLt
    rw [List.length_append, List.length_singleton, natBE, h, show (256 * beNat b + x.toNat) / 256 = beNat b by omega, ih]
    congr 2
    apply BitVec.eq_of_toNat_eq
    simp
    omega

theorem bitsNat_append (a b : List Bool) : bitsNat (a ++ b) = 2 ^ b.length * bitsNat a + bitsNat b := by
  induction b using List.reverseRecOn with
  | nil => simp [bitsNat]
  | append_singleton b x ih =>
    have h (l : List Bool) : bitsNat (l ++ [x]) = 2 * bitsNat l + b2n x := by simp [bitsNat]
    rw [← List.append_assoc, h, h, ih]
    simp [pow_succ]
    ring

theorem byteBits_length (b : Byte) : (byteBits b).length = 8 := rfl

theorem bitsNat_byteBits (b : Byte) : bitsNat (byteBits b) = b.toNat := by
  revert b
  decide +kernel

theorem bits_length (l : List Byte) : (l.flatMap byteBits).length = 8 * l.length := by
  induction l with
  | nil => rfl
  | cons x l ih => simp [byteBits_length, ih]; omega

theorem bitsNat_bytes (l : List Byte) : bitsNat (l.flatMap byteBits) = beNat l := by
  induction l using List.reverseRecOn with
  | nil => rfl
  | append_singleton l x ih =>
    have h : beNat (l ++ [x]) = 256 * beNat l + x.toNat := by simp [beNat]
    rw [List.flatMap_append, bitsNat_append, ih, h]
    simp [byteBits_length, bitsNat_byteBits]

/-- The bytes that the bits of bytes spell. -/
theorem castBytes_bits (l : List Byte) : castBytes l.length (l.flatMap byteBits) = l := by
  rw [castBytes, bitsNat_bytes, natBE_beNat]

theorem castParity_length (blocks : List Nat) (n v : Nat) : (castParity blocks n v).length = n := by
  induction n generalizing v with
  | zero => rfl
  | succ n ih => simp [castParity, ih]

/-- A coded block has 1,024 bits (R225). -/
theorem castEncode_length (info : List Byte) (h : info.length = 64) : (castEncode info).length = 1024 := by
  have hb := bits_length info
  rw [castEncode, List.length_append, hb, h, List.length_flatMap]
  simp [castParity_length]

/-- One look at the hard decisions. -/
theorem castDecode_eq (left : Nat) (m : MinSum) (bits : List Bool) (h : (List.range 1024).map (fun n => hardBit (m.soft n)) = bits) :
    castDecode left m = if castEncode (castBytes 64 (bits.take 512)) = bits then some (castBytes 64 (bits.take 512))
      else match left with
        | 0 => none
        | left + 1 => castDecode left (castIteration m) := by
  subst h
  cases left <;> rfl

/-- A block whose hard decisions are its codeword decodes to its information. -/
theorem castDecode_right (left : Nat) (llrs : List Int) (info : List Byte) (h : info.length = 64)
    (hl : llrs.map hardBit = castEncode info) : castDecode left (loaded llrs) = some info := by
  have hn : llrs.length = 1024 := (List.length_map _).symm.trans ((congrArg List.length hl).trans (castEncode_length info h))
  have hb : (List.range 1024).map (fun n => hardBit ((loaded llrs).soft n)) = castEncode info := by
    rw [← hl]
    refine List.ext_getElem (by simp [hn]) (fun i h1 h2 => ?_)
    rw [List.length_map] at h2
    simp [loaded, h2]
  have hi : castBytes 64 ((castEncode info).take 512) = info := by
    have ht : (castEncode info).take 512 = info.flatMap byteBits :=
      List.take_left' (by rw [bits_length, h])
    have hx := castBytes_bits info
    rw [h] at hx
    rw [ht, hx]
  have hu := castDecode_eq left (loaded llrs) _ hb
  rw [hu, hi, if_pos rfl]

/-- So do the blocks of a message. -/
theorem castDecodes_right (n : Nat) (llrs : List Int) (info : List Byte) (h : info.length = 64 * n)
    (hl : llrs.map hardBit = castBlocks n info) : castDecodes n llrs = some info := by
  induction n generalizing llrs info with
  | zero => simp [castDecodes, List.length_eq_zero_iff.mp (by simpa using h)]
  | succ n ih =>
    have h1 : (info.take 64).length = 64 := by simp; omega
    have h2 : (info.drop 64).length = 64 * n := by simp; omega
    have e1 : (llrs.take 1024).map hardBit = castEncode (info.take 64) := by
      rw [List.map_take, hl, castBlocks]
      exact List.take_left' (castEncode_length _ h1)
    have e2 : (llrs.drop 1024).map hardBit = castBlocks n (info.drop 64) := by
      rw [List.map_drop, hl, castBlocks]
      exact List.drop_left' (castEncode_length _ h1)
    simp [castDecodes, castDecode_right 10 _ _ h1 e1, ih _ _ h2 e2]

theorem crc32Reg_lt (c : Nat) (bs : List Byte) (hc : c < 2 ^ 32) : crc32Reg c bs < 2 ^ 32 := by
  have step (x : Nat) (hx : x < 2 ^ 32) : crcBitR 0xEDB88320 x < 2 ^ 32 := by
    unfold crcBitR
    split
    · exact Nat.xor_lt_two_pow (by omega) (by norm_num)
    · omega
  have steps (n x : Nat) (hx : x < 2 ^ 32) : iterate (crcBitR 0xEDB88320) n x < 2 ^ 32 := by
    induction n generalizing x with
    | zero => exact hx
    | succ n ih => exact ih _ (step x hx)
  induction bs generalizing c with
  | nil => exact hc
  | cons b bs ih => exact ih _ (steps 8 _ (Nat.xor_lt_two_pow hc (by have := b.isLt; omega)))

theorem crc32_lt (bs : List Byte) : crc32 bs < 2 ^ 32 := Nat.xor_lt_two_pow (crc32Reg_lt _ bs (by norm_num)) (by norm_num)

/-- Blocks that are all decided right and whose CRC-32 does not match are no message (R225). -/
theorem castPayload_wrong (n len : Nat) (llrs : List Int) (info : List Byte) (hn : n ≠ 0) (hi : info.length = 64 * n)
    (hl : llrs.map hardBit = castBlocks n info) (hc : crc32 (info.take len) ≠ getU len 4 info) :
    castPayload n len llrs = none := by
  simp [castPayload, castDecodes_right n llrs _ hi hl, hn, hc]

/-- A message of at most 64 n - 4 bytes whose coded blocks are all decided right is read (R225, R227). -/
theorem castPayload_right (n : Nat) (llrs : List Int) (msg : List Byte) (hn : n ≠ 0) (h : msg.length + 4 ≤ 64 * n)
    (hl : llrs.map hardBit = castBlocks n (castInfo n msg)) : castPayload n msg.length llrs = some msg := by
  have hc : castInfo n msg = msg ++ natBE 4 (crc32 msg) ++ zeros (64 * n - (msg.length + 4)) := by
    rw [castInfo, if_neg hn, padTo, List.take_of_length_le (by simp; omega)]
    simp
  have hlen : (castInfo n msg).length = 64 * n := by rw [hc]; simp; omega
  have ht : (castInfo n msg).take msg.length = msg := by rw [hc, List.append_assoc]; exact List.take_left' rfl
  have hg : getU msg.length 4 (castInfo n msg) = crc32 msg := by
    have hf := field_mid msg (natBE 4 (crc32 msg)) (zeros (64 * n - (msg.length + 4)))
    rw [natBE_length] at hf
    rw [getU, hc, hf, beNat_natBE]
    exact Nat.mod_eq_of_lt (by simpa using crc32_lt msg)
  simp [castPayload, castDecodes_right n llrs _ hlen hl, hn, ht, hg, h]

end Sys2Proof.Machine
end

