-- ==== Sys2Proof/Laws/State.lean ====
section
/-! SUPPORT. What each named change of the state leaves alone, one lemma per field, and what it changes: a later proof
cites these and unfolds no record update. -/

namespace Sys2Proof.Machine

/-! `onTxPort` changes entry `k` of `txp` alone. -/

section OnTxPort
variable (k j : Nat) (f : TxPort → TxPort) (s : State)

@[simp] theorem onTxPort_pending : (onTxPort k f s).pending = s.pending := rfl
@[simp] theorem onTxPort_free : (onTxPort k f s).free = s.free := rfl
@[simp] theorem onTxPort_ctrl : (onTxPort k f s).ctrl = s.ctrl := rfl
@[simp] theorem onTxPort_ev : (onTxPort k f s).ev = s.ev := rfl
@[simp] theorem onTxPort_fw : (onTxPort k f s).fw = s.fw := rfl
@[simp] theorem onTxPort_power : (onTxPort k f s).power = s.power := rfl
@[simp] theorem onTxPort_cross : (onTxPort k f s).cross = s.cross := rfl
@[simp] theorem onTxPort_pace : (onTxPort k f s).pace = s.pace := rfl
@[simp] theorem onTxPort_txp : (onTxPort k f s).txp = tabMod {} s.txp k f := rfl
@[simp] theorem onTxPort_txs : (onTxPort k f s).txs = s.txs := rfl
@[simp] theorem onTxPort_rxp : (onTxPort k f s).rxp = s.rxp := rfl
@[simp] theorem onTxPort_rxs : (onTxPort k f s).rxs = s.rxs := rfl
@[simp] theorem onTxPort_fecp : (onTxPort k f s).fecp = s.fecp := rfl
@[simp] theorem onTxPort_fecs : (onTxPort k f s).fecs = s.fecs := rfl
@[simp] theorem onTxPort_frame : (onTxPort k f s).frame = s.frame := rfl
@[simp] theorem onTxPort_hub : (onTxPort k f s).hub = s.hub := rfl
@[simp] theorem onTxPort_lane : (onTxPort k f s).lane = s.lane := rfl
@[simp] theorem onTxPort_hport : (onTxPort k f s).hport = s.hport := rfl
@[simp] theorem onTxPort_svc : (onTxPort k f s).svc = s.svc := rfl
@[simp] theorem onTxPort_cipher : (onTxPort k f s).cipher = s.cipher := rfl
@[simp] theorem onTxPort_bulk : (onTxPort k f s).bulk = s.bulk := rfl
@[simp] theorem onTxPort_timing : (onTxPort k f s).timing = s.timing := rfl
@[simp] theorem onTxPort_cues : (onTxPort k f s).cues = s.cues := rfl
@[simp] theorem onTxPort_pair : (onTxPort k f s).pair = s.pair := rfl
@[simp] theorem onTxPort_mon : (onTxPort k f s).mon = s.mon := rfl
@[simp] theorem onTxPort_therm : (onTxPort k f s).therm = s.therm := rfl
@[simp] theorem onTxPort_flt : (onTxPort k f s).flt = s.flt := rfl
@[simp] theorem onTxPort_log : (onTxPort k f s).log = s.log := rfl
@[simp] theorem onTxPort_tracer : (onTxPort k f s).tracer = s.tracer := rfl
@[simp] theorem onTxPort_quiet : (onTxPort k f s).quiet = s.quiet := rfl
theorem txPort_apply : txPort (onTxPort k f s) j = if j = k then f (txPort s k) else txPort s j := tabGet_mod ..
@[simp] theorem txPort_same : txPort (onTxPort k f s) k = f (txPort s k) := tabGet_mod_same ..
theorem txPort_other {k j : Nat} (h : j ≠ k) : txPort (onTxPort k f s) j = txPort s j := tabGet_mod_other _ _ _ h
end OnTxPort

/-! `onTxSc` changes entry `k` of `txs` alone. -/

section OnTxSc
variable (k j : Nat) (f : TxSc → TxSc) (s : State)

@[simp] theorem onTxSc_pending : (onTxSc k f s).pending = s.pending := rfl
@[simp] theorem onTxSc_free : (onTxSc k f s).free = s.free := rfl
@[simp] theorem onTxSc_ctrl : (onTxSc k f s).ctrl = s.ctrl := rfl
@[simp] theorem onTxSc_ev : (onTxSc k f s).ev = s.ev := rfl
@[simp] theorem onTxSc_fw : (onTxSc k f s).fw = s.fw := rfl
@[simp] theorem onTxSc_power : (onTxSc k f s).power = s.power := rfl
@[simp] theorem onTxSc_cross : (onTxSc k f s).cross = s.cross := rfl
@[simp] theorem onTxSc_pace : (onTxSc k f s).pace = s.pace := rfl
@[simp] theorem onTxSc_txp : (onTxSc k f s).txp = s.txp := rfl
@[simp] theorem onTxSc_txs : (onTxSc k f s).txs = tabMod {} s.txs k f := rfl
@[simp] theorem onTxSc_rxp : (onTxSc k f s).rxp = s.rxp := rfl
@[simp] theorem onTxSc_rxs : (onTxSc k f s).rxs = s.rxs := rfl
@[simp] theorem onTxSc_fecp : (onTxSc k f s).fecp = s.fecp := rfl
@[simp] theorem onTxSc_fecs : (onTxSc k f s).fecs = s.fecs := rfl
@[simp] theorem onTxSc_frame : (onTxSc k f s).frame = s.frame := rfl
@[simp] theorem onTxSc_hub : (onTxSc k f s).hub = s.hub := rfl
@[simp] theorem onTxSc_lane : (onTxSc k f s).lane = s.lane := rfl
@[simp] theorem onTxSc_hport : (onTxSc k f s).hport = s.hport := rfl
@[simp] theorem onTxSc_svc : (onTxSc k f s).svc = s.svc := rfl
@[simp] theorem onTxSc_cipher : (onTxSc k f s).cipher = s.cipher := rfl
@[simp] theorem onTxSc_bulk : (onTxSc k f s).bulk = s.bulk := rfl
@[simp] theorem onTxSc_timing : (onTxSc k f s).timing = s.timing := rfl
@[simp] theorem onTxSc_cues : (onTxSc k f s).cues = s.cues := rfl
@[simp] theorem onTxSc_pair : (onTxSc k f s).pair = s.pair := rfl
@[simp] theorem onTxSc_mon : (onTxSc k f s).mon = s.mon := rfl
@[simp] theorem onTxSc_therm : (onTxSc k f s).therm = s.therm := rfl
@[simp] theorem onTxSc_flt : (onTxSc k f s).flt = s.flt := rfl
@[simp] theorem onTxSc_log : (onTxSc k f s).log = s.log := rfl
@[simp] theorem onTxSc_tracer : (onTxSc k f s).tracer = s.tracer := rfl
@[simp] theorem onTxSc_quiet : (onTxSc k f s).quiet = s.quiet := rfl
theorem txSc_apply : txSc (onTxSc k f s) j = if j = k then f (txSc s k) else txSc s j := tabGet_mod ..
@[simp] theorem txSc_same : txSc (onTxSc k f s) k = f (txSc s k) := tabGet_mod_same ..
theorem txSc_other {k j : Nat} (h : j ≠ k) : txSc (onTxSc k f s) j = txSc s j := tabGet_mod_other _ _ _ h
end OnTxSc

/-! `onRxPort` changes entry `k` of `rxp` alone. -/

section OnRxPort
variable (k j : Nat) (f : RxPort → RxPort) (s : State)

@[simp] theorem onRxPort_pending : (onRxPort k f s).pending = s.pending := rfl
@[simp] theorem onRxPort_free : (onRxPort k f s).free = s.free := rfl
@[simp] theorem onRxPort_ctrl : (onRxPort k f s).ctrl = s.ctrl := rfl
@[simp] theorem onRxPort_ev : (onRxPort k f s).ev = s.ev := rfl
@[simp] theorem onRxPort_fw : (onRxPort k f s).fw = s.fw := rfl
@[simp] theorem onRxPort_power : (onRxPort k f s).power = s.power := rfl
@[simp] theorem onRxPort_cross : (onRxPort k f s).cross = s.cross := rfl
@[simp] theorem onRxPort_pace : (onRxPort k f s).pace = s.pace := rfl
@[simp] theorem onRxPort_txp : (onRxPort k f s).txp = s.txp := rfl
@[simp] theorem onRxPort_txs : (onRxPort k f s).txs = s.txs := rfl
@[simp] theorem onRxPort_rxp : (onRxPort k f s).rxp = tabMod {} s.rxp k f := rfl
@[simp] theorem onRxPort_rxs : (onRxPort k f s).rxs = s.rxs := rfl
@[simp] theorem onRxPort_fecp : (onRxPort k f s).fecp = s.fecp := rfl
@[simp] theorem onRxPort_fecs : (onRxPort k f s).fecs = s.fecs := rfl
@[simp] theorem onRxPort_frame : (onRxPort k f s).frame = s.frame := rfl
@[simp] theorem onRxPort_hub : (onRxPort k f s).hub = s.hub := rfl
@[simp] theorem onRxPort_lane : (onRxPort k f s).lane = s.lane := rfl
@[simp] theorem onRxPort_hport : (onRxPort k f s).hport = s.hport := rfl
@[simp] theorem onRxPort_svc : (onRxPort k f s).svc = s.svc := rfl
@[simp] theorem onRxPort_cipher : (onRxPort k f s).cipher = s.cipher := rfl
@[simp] theorem onRxPort_bulk : (onRxPort k f s).bulk = s.bulk := rfl
@[simp] theorem onRxPort_timing : (onRxPort k f s).timing = s.timing := rfl
@[simp] theorem onRxPort_cues : (onRxPort k f s).cues = s.cues := rfl
@[simp] theorem onRxPort_pair : (onRxPort k f s).pair = s.pair := rfl
@[simp] theorem onRxPort_mon : (onRxPort k f s).mon = s.mon := rfl
@[simp] theorem onRxPort_therm : (onRxPort k f s).therm = s.therm := rfl
@[simp] theorem onRxPort_flt : (onRxPort k f s).flt = s.flt := rfl
@[simp] theorem onRxPort_log : (onRxPort k f s).log = s.log := rfl
@[simp] theorem onRxPort_tracer : (onRxPort k f s).tracer = s.tracer := rfl
@[simp] theorem onRxPort_quiet : (onRxPort k f s).quiet = s.quiet := rfl
theorem rxPort_apply : rxPort (onRxPort k f s) j = if j = k then f (rxPort s k) else rxPort s j := tabGet_mod ..
@[simp] theorem rxPort_same : rxPort (onRxPort k f s) k = f (rxPort s k) := tabGet_mod_same ..
theorem rxPort_other {k j : Nat} (h : j ≠ k) : rxPort (onRxPort k f s) j = rxPort s j := tabGet_mod_other _ _ _ h
end OnRxPort

/-! `onRxSc` changes entry `k` of `rxs` alone. -/

section OnRxSc
variable (k j : Nat) (f : RxSc → RxSc) (s : State)

@[simp] theorem onRxSc_pending : (onRxSc k f s).pending = s.pending := rfl
@[simp] theorem onRxSc_free : (onRxSc k f s).free = s.free := rfl
@[simp] theorem onRxSc_ctrl : (onRxSc k f s).ctrl = s.ctrl := rfl
@[simp] theorem onRxSc_ev : (onRxSc k f s).ev = s.ev := rfl
@[simp] theorem onRxSc_fw : (onRxSc k f s).fw = s.fw := rfl
@[simp] theorem onRxSc_power : (onRxSc k f s).power = s.power := rfl
@[simp] theorem onRxSc_cross : (onRxSc k f s).cross = s.cross := rfl
@[simp] theorem onRxSc_pace : (onRxSc k f s).pace = s.pace := rfl
@[simp] theorem onRxSc_txp : (onRxSc k f s).txp = s.txp := rfl
@[simp] theorem onRxSc_txs : (onRxSc k f s).txs = s.txs := rfl
@[simp] theorem onRxSc_rxp : (onRxSc k f s).rxp = s.rxp := rfl
@[simp] theorem onRxSc_rxs : (onRxSc k f s).rxs = tabMod {} s.rxs k f := rfl
@[simp] theorem onRxSc_fecp : (onRxSc k f s).fecp = s.fecp := rfl
@[simp] theorem onRxSc_fecs : (onRxSc k f s).fecs = s.fecs := rfl
@[simp] theorem onRxSc_frame : (onRxSc k f s).frame = s.frame := rfl
@[simp] theorem onRxSc_hub : (onRxSc k f s).hub = s.hub := rfl
@[simp] theorem onRxSc_lane : (onRxSc k f s).lane = s.lane := rfl
@[simp] theorem onRxSc_hport : (onRxSc k f s).hport = s.hport := rfl
@[simp] theorem onRxSc_svc : (onRxSc k f s).svc = s.svc := rfl
@[simp] theorem onRxSc_cipher : (onRxSc k f s).cipher = s.cipher := rfl
@[simp] theorem onRxSc_bulk : (onRxSc k f s).bulk = s.bulk := rfl
@[simp] theorem onRxSc_timing : (onRxSc k f s).timing = s.timing := rfl
@[simp] theorem onRxSc_cues : (onRxSc k f s).cues = s.cues := rfl
@[simp] theorem onRxSc_pair : (onRxSc k f s).pair = s.pair := rfl
@[simp] theorem onRxSc_mon : (onRxSc k f s).mon = s.mon := rfl
@[simp] theorem onRxSc_therm : (onRxSc k f s).therm = s.therm := rfl
@[simp] theorem onRxSc_flt : (onRxSc k f s).flt = s.flt := rfl
@[simp] theorem onRxSc_log : (onRxSc k f s).log = s.log := rfl
@[simp] theorem onRxSc_tracer : (onRxSc k f s).tracer = s.tracer := rfl
@[simp] theorem onRxSc_quiet : (onRxSc k f s).quiet = s.quiet := rfl
theorem rxSc_apply : rxSc (onRxSc k f s) j = if j = k then f (rxSc s k) else rxSc s j := tabGet_mod ..
@[simp] theorem rxSc_same : rxSc (onRxSc k f s) k = f (rxSc s k) := tabGet_mod_same ..
theorem rxSc_other {k j : Nat} (h : j ≠ k) : rxSc (onRxSc k f s) j = rxSc s j := tabGet_mod_other _ _ _ h
end OnRxSc

/-! `onFecPort` changes entry `k` of `fecp` alone. -/

section OnFecPort
variable (k j : Nat) (f : FecPort → FecPort) (s : State)

@[simp] theorem onFecPort_pending : (onFecPort k f s).pending = s.pending := rfl
@[simp] theorem onFecPort_free : (onFecPort k f s).free = s.free := rfl
@[simp] theorem onFecPort_ctrl : (onFecPort k f s).ctrl = s.ctrl := rfl
@[simp] theorem onFecPort_ev : (onFecPort k f s).ev = s.ev := rfl
@[simp] theorem onFecPort_fw : (onFecPort k f s).fw = s.fw := rfl
@[simp] theorem onFecPort_power : (onFecPort k f s).power = s.power := rfl
@[simp] theorem onFecPort_cross : (onFecPort k f s).cross = s.cross := rfl
@[simp] theorem onFecPort_pace : (onFecPort k f s).pace = s.pace := rfl
@[simp] theorem onFecPort_txp : (onFecPort k f s).txp = s.txp := rfl
@[simp] theorem onFecPort_txs : (onFecPort k f s).txs = s.txs := rfl
@[simp] theorem onFecPort_rxp : (onFecPort k f s).rxp = s.rxp := rfl
@[simp] theorem onFecPort_rxs : (onFecPort k f s).rxs = s.rxs := rfl
@[simp] theorem onFecPort_fecp : (onFecPort k f s).fecp = tabMod {} s.fecp k f := rfl
@[simp] theorem onFecPort_fecs : (onFecPort k f s).fecs = s.fecs := rfl
@[simp] theorem onFecPort_frame : (onFecPort k f s).frame = s.frame := rfl
@[simp] theorem onFecPort_hub : (onFecPort k f s).hub = s.hub := rfl
@[simp] theorem onFecPort_lane : (onFecPort k f s).lane = s.lane := rfl
@[simp] theorem onFecPort_hport : (onFecPort k f s).hport = s.hport := rfl
@[simp] theorem onFecPort_svc : (onFecPort k f s).svc = s.svc := rfl
@[simp] theorem onFecPort_cipher : (onFecPort k f s).cipher = s.cipher := rfl
@[simp] theorem onFecPort_bulk : (onFecPort k f s).bulk = s.bulk := rfl
@[simp] theorem onFecPort_timing : (onFecPort k f s).timing = s.timing := rfl
@[simp] theorem onFecPort_cues : (onFecPort k f s).cues = s.cues := rfl
@[simp] theorem onFecPort_pair : (onFecPort k f s).pair = s.pair := rfl
@[simp] theorem onFecPort_mon : (onFecPort k f s).mon = s.mon := rfl
@[simp] theorem onFecPort_therm : (onFecPort k f s).therm = s.therm := rfl
@[simp] theorem onFecPort_flt : (onFecPort k f s).flt = s.flt := rfl
@[simp] theorem onFecPort_log : (onFecPort k f s).log = s.log := rfl
@[simp] theorem onFecPort_tracer : (onFecPort k f s).tracer = s.tracer := rfl
@[simp] theorem onFecPort_quiet : (onFecPort k f s).quiet = s.quiet := rfl
theorem fecPort_apply : fecPort (onFecPort k f s) j = if j = k then f (fecPort s k) else fecPort s j := tabGet_mod ..
@[simp] theorem fecPort_same : fecPort (onFecPort k f s) k = f (fecPort s k) := tabGet_mod_same ..
theorem fecPort_other {k j : Nat} (h : j ≠ k) : fecPort (onFecPort k f s) j = fecPort s j := tabGet_mod_other _ _ _ h
end OnFecPort

/-! `onFecSc` changes entry `k` of `fecs` alone. -/

section OnFecSc
variable (k j : Nat) (f : FecSc → FecSc) (s : State)

@[simp] theorem onFecSc_pending : (onFecSc k f s).pending = s.pending := rfl
@[simp] theorem onFecSc_free : (onFecSc k f s).free = s.free := rfl
@[simp] theorem onFecSc_ctrl : (onFecSc k f s).ctrl = s.ctrl := rfl
@[simp] theorem onFecSc_ev : (onFecSc k f s).ev = s.ev := rfl
@[simp] theorem onFecSc_fw : (onFecSc k f s).fw = s.fw := rfl
@[simp] theorem onFecSc_power : (onFecSc k f s).power = s.power := rfl
@[simp] theorem onFecSc_cross : (onFecSc k f s).cross = s.cross := rfl
@[simp] theorem onFecSc_pace : (onFecSc k f s).pace = s.pace := rfl
@[simp] theorem onFecSc_txp : (onFecSc k f s).txp = s.txp := rfl
@[simp] theorem onFecSc_txs : (onFecSc k f s).txs = s.txs := rfl
@[simp] theorem onFecSc_rxp : (onFecSc k f s).rxp = s.rxp := rfl
@[simp] theorem onFecSc_rxs : (onFecSc k f s).rxs = s.rxs := rfl
@[simp] theorem onFecSc_fecp : (onFecSc k f s).fecp = s.fecp := rfl
@[simp] theorem onFecSc_fecs : (onFecSc k f s).fecs = tabMod {} s.fecs k f := rfl
@[simp] theorem onFecSc_frame : (onFecSc k f s).frame = s.frame := rfl
@[simp] theorem onFecSc_hub : (onFecSc k f s).hub = s.hub := rfl
@[simp] theorem onFecSc_lane : (onFecSc k f s).lane = s.lane := rfl
@[simp] theorem onFecSc_hport : (onFecSc k f s).hport = s.hport := rfl
@[simp] theorem onFecSc_svc : (onFecSc k f s).svc = s.svc := rfl
@[simp] theorem onFecSc_cipher : (onFecSc k f s).cipher = s.cipher := rfl
@[simp] theorem onFecSc_bulk : (onFecSc k f s).bulk = s.bulk := rfl
@[simp] theorem onFecSc_timing : (onFecSc k f s).timing = s.timing := rfl
@[simp] theorem onFecSc_cues : (onFecSc k f s).cues = s.cues := rfl
@[simp] theorem onFecSc_pair : (onFecSc k f s).pair = s.pair := rfl
@[simp] theorem onFecSc_mon : (onFecSc k f s).mon = s.mon := rfl
@[simp] theorem onFecSc_therm : (onFecSc k f s).therm = s.therm := rfl
@[simp] theorem onFecSc_flt : (onFecSc k f s).flt = s.flt := rfl
@[simp] theorem onFecSc_log : (onFecSc k f s).log = s.log := rfl
@[simp] theorem onFecSc_tracer : (onFecSc k f s).tracer = s.tracer := rfl
@[simp] theorem onFecSc_quiet : (onFecSc k f s).quiet = s.quiet := rfl
theorem fecSc_apply : fecSc (onFecSc k f s) j = if j = k then f (fecSc s k) else fecSc s j := tabGet_mod ..
@[simp] theorem fecSc_same : fecSc (onFecSc k f s) k = f (fecSc s k) := tabGet_mod_same ..
theorem fecSc_other {k j : Nat} (h : j ≠ k) : fecSc (onFecSc k f s) j = fecSc s j := tabGet_mod_other _ _ _ h
end OnFecSc

/-! `onTxFrame` changes entry `k` of `frame.tx` alone. -/

section OnTxFrame
variable (k j : Nat) (f : TxFrame → TxFrame) (s : State)

@[simp] theorem onTxFrame_pending : (onTxFrame k f s).pending = s.pending := rfl
@[simp] theorem onTxFrame_free : (onTxFrame k f s).free = s.free := rfl
@[simp] theorem onTxFrame_ctrl : (onTxFrame k f s).ctrl = s.ctrl := rfl
@[simp] theorem onTxFrame_ev : (onTxFrame k f s).ev = s.ev := rfl
@[simp] theorem onTxFrame_fw : (onTxFrame k f s).fw = s.fw := rfl
@[simp] theorem onTxFrame_power : (onTxFrame k f s).power = s.power := rfl
@[simp] theorem onTxFrame_cross : (onTxFrame k f s).cross = s.cross := rfl
@[simp] theorem onTxFrame_pace : (onTxFrame k f s).pace = s.pace := rfl
@[simp] theorem onTxFrame_txp : (onTxFrame k f s).txp = s.txp := rfl
@[simp] theorem onTxFrame_txs : (onTxFrame k f s).txs = s.txs := rfl
@[simp] theorem onTxFrame_rxp : (onTxFrame k f s).rxp = s.rxp := rfl
@[simp] theorem onTxFrame_rxs : (onTxFrame k f s).rxs = s.rxs := rfl
@[simp] theorem onTxFrame_fecp : (onTxFrame k f s).fecp = s.fecp := rfl
@[simp] theorem onTxFrame_fecs : (onTxFrame k f s).fecs = s.fecs := rfl
@[simp] theorem onTxFrame_frame : (onTxFrame k f s).frame = { s.frame with tx := tabMod {} s.frame.tx k f } := rfl
@[simp] theorem onTxFrame_hub : (onTxFrame k f s).hub = s.hub := rfl
@[simp] theorem onTxFrame_lane : (onTxFrame k f s).lane = s.lane := rfl
@[simp] theorem onTxFrame_hport : (onTxFrame k f s).hport = s.hport := rfl
@[simp] theorem onTxFrame_svc : (onTxFrame k f s).svc = s.svc := rfl
@[simp] theorem onTxFrame_cipher : (onTxFrame k f s).cipher = s.cipher := rfl
@[simp] theorem onTxFrame_bulk : (onTxFrame k f s).bulk = s.bulk := rfl
@[simp] theorem onTxFrame_timing : (onTxFrame k f s).timing = s.timing := rfl
@[simp] theorem onTxFrame_cues : (onTxFrame k f s).cues = s.cues := rfl
@[simp] theorem onTxFrame_pair : (onTxFrame k f s).pair = s.pair := rfl
@[simp] theorem onTxFrame_mon : (onTxFrame k f s).mon = s.mon := rfl
@[simp] theorem onTxFrame_therm : (onTxFrame k f s).therm = s.therm := rfl
@[simp] theorem onTxFrame_flt : (onTxFrame k f s).flt = s.flt := rfl
@[simp] theorem onTxFrame_log : (onTxFrame k f s).log = s.log := rfl
@[simp] theorem onTxFrame_tracer : (onTxFrame k f s).tracer = s.tracer := rfl
@[simp] theorem onTxFrame_quiet : (onTxFrame k f s).quiet = s.quiet := rfl
theorem txFrame_apply : txFrame (onTxFrame k f s) j = if j = k then f (txFrame s k) else txFrame s j := tabGet_mod ..
@[simp] theorem txFrame_same : txFrame (onTxFrame k f s) k = f (txFrame s k) := tabGet_mod_same ..
theorem txFrame_other {k j : Nat} (h : j ≠ k) : txFrame (onTxFrame k f s) j = txFrame s j := tabGet_mod_other _ _ _ h
end OnTxFrame

/-! `onRxFramer` changes entry `k` of `frame.rx` alone. -/

section OnRxFramer
variable (k j : Nat) (f : RxFramer → RxFramer) (s : State)

@[simp] theorem onRxFramer_pending : (onRxFramer k f s).pending = s.pending := rfl
@[simp] theorem onRxFramer_free : (onRxFramer k f s).free = s.free := rfl
@[simp] theorem onRxFramer_ctrl : (onRxFramer k f s).ctrl = s.ctrl := rfl
@[simp] theorem onRxFramer_ev : (onRxFramer k f s).ev = s.ev := rfl
@[simp] theorem onRxFramer_fw : (onRxFramer k f s).fw = s.fw := rfl
@[simp] theorem onRxFramer_power : (onRxFramer k f s).power = s.power := rfl
@[simp] theorem onRxFramer_cross : (onRxFramer k f s).cross = s.cross := rfl
@[simp] theorem onRxFramer_pace : (onRxFramer k f s).pace = s.pace := rfl
@[simp] theorem onRxFramer_txp : (onRxFramer k f s).txp = s.txp := rfl
@[simp] theorem onRxFramer_txs : (onRxFramer k f s).txs = s.txs := rfl
@[simp] theorem onRxFramer_rxp : (onRxFramer k f s).rxp = s.rxp := rfl
@[simp] theorem onRxFramer_rxs : (onRxFramer k f s).rxs = s.rxs := rfl
@[simp] theorem onRxFramer_fecp : (onRxFramer k f s).fecp = s.fecp := rfl
@[simp] theorem onRxFramer_fecs : (onRxFramer k f s).fecs = s.fecs := rfl
@[simp] theorem onRxFramer_frame : (onRxFramer k f s).frame = { s.frame with rx := tabMod {} s.frame.rx k f } := rfl
@[simp] theorem onRxFramer_hub : (onRxFramer k f s).hub = s.hub := rfl
@[simp] theorem onRxFramer_lane : (onRxFramer k f s).lane = s.lane := rfl
@[simp] theorem onRxFramer_hport : (onRxFramer k f s).hport = s.hport := rfl
@[simp] theorem onRxFramer_svc : (onRxFramer k f s).svc = s.svc := rfl
@[simp] theorem onRxFramer_cipher : (onRxFramer k f s).cipher = s.cipher := rfl
@[simp] theorem onRxFramer_bulk : (onRxFramer k f s).bulk = s.bulk := rfl
@[simp] theorem onRxFramer_timing : (onRxFramer k f s).timing = s.timing := rfl
@[simp] theorem onRxFramer_cues : (onRxFramer k f s).cues = s.cues := rfl
@[simp] theorem onRxFramer_pair : (onRxFramer k f s).pair = s.pair := rfl
@[simp] theorem onRxFramer_mon : (onRxFramer k f s).mon = s.mon := rfl
@[simp] theorem onRxFramer_therm : (onRxFramer k f s).therm = s.therm := rfl
@[simp] theorem onRxFramer_flt : (onRxFramer k f s).flt = s.flt := rfl
@[simp] theorem onRxFramer_log : (onRxFramer k f s).log = s.log := rfl
@[simp] theorem onRxFramer_tracer : (onRxFramer k f s).tracer = s.tracer := rfl
@[simp] theorem onRxFramer_quiet : (onRxFramer k f s).quiet = s.quiet := rfl
theorem rxFramer_apply : rxFramer (onRxFramer k f s) j = if j = k then f (rxFramer s k) else rxFramer s j := tabGet_mod ..
@[simp] theorem rxFramer_same : rxFramer (onRxFramer k f s) k = f (rxFramer s k) := tabGet_mod_same ..
theorem rxFramer_other {k j : Nat} (h : j ≠ k) : rxFramer (onRxFramer k f s) j = rxFramer s j := tabGet_mod_other _ _ _ h
end OnRxFramer

/-! `onFrPort` changes entry `k` of `frame.port` alone. -/

section OnFrPort
variable (k j : Nat) (f : FrPort → FrPort) (s : State)

@[simp] theorem onFrPort_pending : (onFrPort k f s).pending = s.pending := rfl
@[simp] theorem onFrPort_free : (onFrPort k f s).free = s.free := rfl
@[simp] theorem onFrPort_ctrl : (onFrPort k f s).ctrl = s.ctrl := rfl
@[simp] theorem onFrPort_ev : (onFrPort k f s).ev = s.ev := rfl
@[simp] theorem onFrPort_fw : (onFrPort k f s).fw = s.fw := rfl
@[simp] theorem onFrPort_power : (onFrPort k f s).power = s.power := rfl
@[simp] theorem onFrPort_cross : (onFrPort k f s).cross = s.cross := rfl
@[simp] theorem onFrPort_pace : (onFrPort k f s).pace = s.pace := rfl
@[simp] theorem onFrPort_txp : (onFrPort k f s).txp = s.txp := rfl
@[simp] theorem onFrPort_txs : (onFrPort k f s).txs = s.txs := rfl
@[simp] theorem onFrPort_rxp : (onFrPort k f s).rxp = s.rxp := rfl
@[simp] theorem onFrPort_rxs : (onFrPort k f s).rxs = s.rxs := rfl
@[simp] theorem onFrPort_fecp : (onFrPort k f s).fecp = s.fecp := rfl
@[simp] theorem onFrPort_fecs : (onFrPort k f s).fecs = s.fecs := rfl
@[simp] theorem onFrPort_frame : (onFrPort k f s).frame = { s.frame with port := tabMod {} s.frame.port k f } := rfl
@[simp] theorem onFrPort_hub : (onFrPort k f s).hub = s.hub := rfl
@[simp] theorem onFrPort_lane : (onFrPort k f s).lane = s.lane := rfl
@[simp] theorem onFrPort_hport : (onFrPort k f s).hport = s.hport := rfl
@[simp] theorem onFrPort_svc : (onFrPort k f s).svc = s.svc := rfl
@[simp] theorem onFrPort_cipher : (onFrPort k f s).cipher = s.cipher := rfl
@[simp] theorem onFrPort_bulk : (onFrPort k f s).bulk = s.bulk := rfl
@[simp] theorem onFrPort_timing : (onFrPort k f s).timing = s.timing := rfl
@[simp] theorem onFrPort_cues : (onFrPort k f s).cues = s.cues := rfl
@[simp] theorem onFrPort_pair : (onFrPort k f s).pair = s.pair := rfl
@[simp] theorem onFrPort_mon : (onFrPort k f s).mon = s.mon := rfl
@[simp] theorem onFrPort_therm : (onFrPort k f s).therm = s.therm := rfl
@[simp] theorem onFrPort_flt : (onFrPort k f s).flt = s.flt := rfl
@[simp] theorem onFrPort_log : (onFrPort k f s).log = s.log := rfl
@[simp] theorem onFrPort_tracer : (onFrPort k f s).tracer = s.tracer := rfl
@[simp] theorem onFrPort_quiet : (onFrPort k f s).quiet = s.quiet := rfl
theorem frPort_apply : frPort (onFrPort k f s) j = if j = k then f (frPort s k) else frPort s j := tabGet_mod ..
@[simp] theorem frPort_same : frPort (onFrPort k f s) k = f (frPort s k) := tabGet_mod_same ..
theorem frPort_other {k j : Nat} (h : j ≠ k) : frPort (onFrPort k f s) j = frPort s j := tabGet_mod_other _ _ _ h
end OnFrPort

/-! `onPmObj` changes entry `k` of `frame.pm` alone. -/

section OnPmObj
variable (k j : Nat) (f : PmObj → PmObj) (s : State)

@[simp] theorem onPmObj_pending : (onPmObj k f s).pending = s.pending := rfl
@[simp] theorem onPmObj_free : (onPmObj k f s).free = s.free := rfl
@[simp] theorem onPmObj_ctrl : (onPmObj k f s).ctrl = s.ctrl := rfl
@[simp] theorem onPmObj_ev : (onPmObj k f s).ev = s.ev := rfl
@[simp] theorem onPmObj_fw : (onPmObj k f s).fw = s.fw := rfl
@[simp] theorem onPmObj_power : (onPmObj k f s).power = s.power := rfl
@[simp] theorem onPmObj_cross : (onPmObj k f s).cross = s.cross := rfl
@[simp] theorem onPmObj_pace : (onPmObj k f s).pace = s.pace := rfl
@[simp] theorem onPmObj_txp : (onPmObj k f s).txp = s.txp := rfl
@[simp] theorem onPmObj_txs : (onPmObj k f s).txs = s.txs := rfl
@[simp] theorem onPmObj_rxp : (onPmObj k f s).rxp = s.rxp := rfl
@[simp] theorem onPmObj_rxs : (onPmObj k f s).rxs = s.rxs := rfl
@[simp] theorem onPmObj_fecp : (onPmObj k f s).fecp = s.fecp := rfl
@[simp] theorem onPmObj_fecs : (onPmObj k f s).fecs = s.fecs := rfl
@[simp] theorem onPmObj_frame : (onPmObj k f s).frame = { s.frame with pm := tabMod {} s.frame.pm k f } := rfl
@[simp] theorem onPmObj_hub : (onPmObj k f s).hub = s.hub := rfl
@[simp] theorem onPmObj_lane : (onPmObj k f s).lane = s.lane := rfl
@[simp] theorem onPmObj_hport : (onPmObj k f s).hport = s.hport := rfl
@[simp] theorem onPmObj_svc : (onPmObj k f s).svc = s.svc := rfl
@[simp] theorem onPmObj_cipher : (onPmObj k f s).cipher = s.cipher := rfl
@[simp] theorem onPmObj_bulk : (onPmObj k f s).bulk = s.bulk := rfl
@[simp] theorem onPmObj_timing : (onPmObj k f s).timing = s.timing := rfl
@[simp] theorem onPmObj_cues : (onPmObj k f s).cues = s.cues := rfl
@[simp] theorem onPmObj_pair : (onPmObj k f s).pair = s.pair := rfl
@[simp] theorem onPmObj_mon : (onPmObj k f s).mon = s.mon := rfl
@[simp] theorem onPmObj_therm : (onPmObj k f s).therm = s.therm := rfl
@[simp] theorem onPmObj_flt : (onPmObj k f s).flt = s.flt := rfl
@[simp] theorem onPmObj_log : (onPmObj k f s).log = s.log := rfl
@[simp] theorem onPmObj_tracer : (onPmObj k f s).tracer = s.tracer := rfl
@[simp] theorem onPmObj_quiet : (onPmObj k f s).quiet = s.quiet := rfl
theorem pmObj_apply : pmObj (onPmObj k f s) j = if j = k then f (pmObj s k) else pmObj s j := tabGet_mod ..
@[simp] theorem pmObj_same : pmObj (onPmObj k f s) k = f (pmObj s k) := tabGet_mod_same ..
theorem pmObj_other {k j : Nat} (h : j ≠ k) : pmObj (onPmObj k f s) j = pmObj s j := tabGet_mod_other _ _ _ h
end OnPmObj

/-! `onDefSt` changes entry `k` of `frame.defects` alone. -/

section OnDefSt
variable (k j : Nat) (f : DefSt → DefSt) (s : State)

@[simp] theorem onDefSt_pending : (onDefSt k f s).pending = s.pending := rfl
@[simp] theorem onDefSt_free : (onDefSt k f s).free = s.free := rfl
@[simp] theorem onDefSt_ctrl : (onDefSt k f s).ctrl = s.ctrl := rfl
@[simp] theorem onDefSt_ev : (onDefSt k f s).ev = s.ev := rfl
@[simp] theorem onDefSt_fw : (onDefSt k f s).fw = s.fw := rfl
@[simp] theorem onDefSt_power : (onDefSt k f s).power = s.power := rfl
@[simp] theorem onDefSt_cross : (onDefSt k f s).cross = s.cross := rfl
@[simp] theorem onDefSt_pace : (onDefSt k f s).pace = s.pace := rfl
@[simp] theorem onDefSt_txp : (onDefSt k f s).txp = s.txp := rfl
@[simp] theorem onDefSt_txs : (onDefSt k f s).txs = s.txs := rfl
@[simp] theorem onDefSt_rxp : (onDefSt k f s).rxp = s.rxp := rfl
@[simp] theorem onDefSt_rxs : (onDefSt k f s).rxs = s.rxs := rfl
@[simp] theorem onDefSt_fecp : (onDefSt k f s).fecp = s.fecp := rfl
@[simp] theorem onDefSt_fecs : (onDefSt k f s).fecs = s.fecs := rfl
@[simp] theorem onDefSt_frame : (onDefSt k f s).frame = { s.frame with defects := tabMod {} s.frame.defects k f } := rfl
@[simp] theorem onDefSt_hub : (onDefSt k f s).hub = s.hub := rfl
@[simp] theorem onDefSt_lane : (onDefSt k f s).lane = s.lane := rfl
@[simp] theorem onDefSt_hport : (onDefSt k f s).hport = s.hport := rfl
@[simp] theorem onDefSt_svc : (onDefSt k f s).svc = s.svc := rfl
@[simp] theorem onDefSt_cipher : (onDefSt k f s).cipher = s.cipher := rfl
@[simp] theorem onDefSt_bulk : (onDefSt k f s).bulk = s.bulk := rfl
@[simp] theorem onDefSt_timing : (onDefSt k f s).timing = s.timing := rfl
@[simp] theorem onDefSt_cues : (onDefSt k f s).cues = s.cues := rfl
@[simp] theorem onDefSt_pair : (onDefSt k f s).pair = s.pair := rfl
@[simp] theorem onDefSt_mon : (onDefSt k f s).mon = s.mon := rfl
@[simp] theorem onDefSt_therm : (onDefSt k f s).therm = s.therm := rfl
@[simp] theorem onDefSt_flt : (onDefSt k f s).flt = s.flt := rfl
@[simp] theorem onDefSt_log : (onDefSt k f s).log = s.log := rfl
@[simp] theorem onDefSt_tracer : (onDefSt k f s).tracer = s.tracer := rfl
@[simp] theorem onDefSt_quiet : (onDefSt k f s).quiet = s.quiet := rfl
theorem defSt_apply : defSt (onDefSt k f s) j = if j = k then f (defSt s k) else defSt s j := tabGet_mod ..
@[simp] theorem defSt_same : defSt (onDefSt k f s) k = f (defSt s k) := tabGet_mod_same ..
theorem defSt_other {k j : Nat} (h : j ≠ k) : defSt (onDefSt k f s) j = defSt s j := tabGet_mod_other _ _ _ h
end OnDefSt

/-! `onHubPort` changes entry `k` of `hub` alone. -/

section OnHubPort
variable (k j : Nat) (f : HubPort → HubPort) (s : State)

@[simp] theorem onHubPort_pending : (onHubPort k f s).pending = s.pending := rfl
@[simp] theorem onHubPort_free : (onHubPort k f s).free = s.free := rfl
@[simp] theorem onHubPort_ctrl : (onHubPort k f s).ctrl = s.ctrl := rfl
@[simp] theorem onHubPort_ev : (onHubPort k f s).ev = s.ev := rfl
@[simp] theorem onHubPort_fw : (onHubPort k f s).fw = s.fw := rfl
@[simp] theorem onHubPort_power : (onHubPort k f s).power = s.power := rfl
@[simp] theorem onHubPort_cross : (onHubPort k f s).cross = s.cross := rfl
@[simp] theorem onHubPort_pace : (onHubPort k f s).pace = s.pace := rfl
@[simp] theorem onHubPort_txp : (onHubPort k f s).txp = s.txp := rfl
@[simp] theorem onHubPort_txs : (onHubPort k f s).txs = s.txs := rfl
@[simp] theorem onHubPort_rxp : (onHubPort k f s).rxp = s.rxp := rfl
@[simp] theorem onHubPort_rxs : (onHubPort k f s).rxs = s.rxs := rfl
@[simp] theorem onHubPort_fecp : (onHubPort k f s).fecp = s.fecp := rfl
@[simp] theorem onHubPort_fecs : (onHubPort k f s).fecs = s.fecs := rfl
@[simp] theorem onHubPort_frame : (onHubPort k f s).frame = s.frame := rfl
@[simp] theorem onHubPort_hub : (onHubPort k f s).hub = tabMod {} s.hub k f := rfl
@[simp] theorem onHubPort_lane : (onHubPort k f s).lane = s.lane := rfl
@[simp] theorem onHubPort_hport : (onHubPort k f s).hport = s.hport := rfl
@[simp] theorem onHubPort_svc : (onHubPort k f s).svc = s.svc := rfl
@[simp] theorem onHubPort_cipher : (onHubPort k f s).cipher = s.cipher := rfl
@[simp] theorem onHubPort_bulk : (onHubPort k f s).bulk = s.bulk := rfl
@[simp] theorem onHubPort_timing : (onHubPort k f s).timing = s.timing := rfl
@[simp] theorem onHubPort_cues : (onHubPort k f s).cues = s.cues := rfl
@[simp] theorem onHubPort_pair : (onHubPort k f s).pair = s.pair := rfl
@[simp] theorem onHubPort_mon : (onHubPort k f s).mon = s.mon := rfl
@[simp] theorem onHubPort_therm : (onHubPort k f s).therm = s.therm := rfl
@[simp] theorem onHubPort_flt : (onHubPort k f s).flt = s.flt := rfl
@[simp] theorem onHubPort_log : (onHubPort k f s).log = s.log := rfl
@[simp] theorem onHubPort_tracer : (onHubPort k f s).tracer = s.tracer := rfl
@[simp] theorem onHubPort_quiet : (onHubPort k f s).quiet = s.quiet := rfl
theorem hubPort_apply : hubPort (onHubPort k f s) j = if j = k then f (hubPort s k) else hubPort s j := tabGet_mod ..
@[simp] theorem hubPort_same : hubPort (onHubPort k f s) k = f (hubPort s k) := tabGet_mod_same ..
theorem hubPort_other {k j : Nat} (h : j ≠ k) : hubPort (onHubPort k f s) j = hubPort s j := tabGet_mod_other _ _ _ h
end OnHubPort

/-! `onLaneOf` changes entry `k` of `lane` alone. -/

section OnLaneOf
variable (k j : Nat) (f : Lane → Lane) (s : State)

@[simp] theorem onLaneOf_pending : (onLaneOf k f s).pending = s.pending := rfl
@[simp] theorem onLaneOf_free : (onLaneOf k f s).free = s.free := rfl
@[simp] theorem onLaneOf_ctrl : (onLaneOf k f s).ctrl = s.ctrl := rfl
@[simp] theorem onLaneOf_ev : (onLaneOf k f s).ev = s.ev := rfl
@[simp] theorem onLaneOf_fw : (onLaneOf k f s).fw = s.fw := rfl
@[simp] theorem onLaneOf_power : (onLaneOf k f s).power = s.power := rfl
@[simp] theorem onLaneOf_cross : (onLaneOf k f s).cross = s.cross := rfl
@[simp] theorem onLaneOf_pace : (onLaneOf k f s).pace = s.pace := rfl
@[simp] theorem onLaneOf_txp : (onLaneOf k f s).txp = s.txp := rfl
@[simp] theorem onLaneOf_txs : (onLaneOf k f s).txs = s.txs := rfl
@[simp] theorem onLaneOf_rxp : (onLaneOf k f s).rxp = s.rxp := rfl
@[simp] theorem onLaneOf_rxs : (onLaneOf k f s).rxs = s.rxs := rfl
@[simp] theorem onLaneOf_fecp : (onLaneOf k f s).fecp = s.fecp := rfl
@[simp] theorem onLaneOf_fecs : (onLaneOf k f s).fecs = s.fecs := rfl
@[simp] theorem onLaneOf_frame : (onLaneOf k f s).frame = s.frame := rfl
@[simp] theorem onLaneOf_hub : (onLaneOf k f s).hub = s.hub := rfl
@[simp] theorem onLaneOf_lane : (onLaneOf k f s).lane = tabMod {} s.lane k f := rfl
@[simp] theorem onLaneOf_hport : (onLaneOf k f s).hport = s.hport := rfl
@[simp] theorem onLaneOf_svc : (onLaneOf k f s).svc = s.svc := rfl
@[simp] theorem onLaneOf_cipher : (onLaneOf k f s).cipher = s.cipher := rfl
@[simp] theorem onLaneOf_bulk : (onLaneOf k f s).bulk = s.bulk := rfl
@[simp] theorem onLaneOf_timing : (onLaneOf k f s).timing = s.timing := rfl
@[simp] theorem onLaneOf_cues : (onLaneOf k f s).cues = s.cues := rfl
@[simp] theorem onLaneOf_pair : (onLaneOf k f s).pair = s.pair := rfl
@[simp] theorem onLaneOf_mon : (onLaneOf k f s).mon = s.mon := rfl
@[simp] theorem onLaneOf_therm : (onLaneOf k f s).therm = s.therm := rfl
@[simp] theorem onLaneOf_flt : (onLaneOf k f s).flt = s.flt := rfl
@[simp] theorem onLaneOf_log : (onLaneOf k f s).log = s.log := rfl
@[simp] theorem onLaneOf_tracer : (onLaneOf k f s).tracer = s.tracer := rfl
@[simp] theorem onLaneOf_quiet : (onLaneOf k f s).quiet = s.quiet := rfl
theorem laneOf_apply : laneOf (onLaneOf k f s) j = if j = k then f (laneOf s k) else laneOf s j := tabGet_mod ..
@[simp] theorem laneOf_same : laneOf (onLaneOf k f s) k = f (laneOf s k) := tabGet_mod_same ..
theorem laneOf_other {k j : Nat} (h : j ≠ k) : laneOf (onLaneOf k f s) j = laneOf s j := tabGet_mod_other _ _ _ h
end OnLaneOf

/-! `onHostPort` changes entry `k` of `hport` alone. -/

section OnHostPort
variable (k j : Nat) (f : HPort → HPort) (s : State)

@[simp] theorem onHostPort_pending : (onHostPort k f s).pending = s.pending := rfl
@[simp] theorem onHostPort_free : (onHostPort k f s).free = s.free := rfl
@[simp] theorem onHostPort_ctrl : (onHostPort k f s).ctrl = s.ctrl := rfl
@[simp] theorem onHostPort_ev : (onHostPort k f s).ev = s.ev := rfl
@[simp] theorem onHostPort_fw : (onHostPort k f s).fw = s.fw := rfl
@[simp] theorem onHostPort_power : (onHostPort k f s).power = s.power := rfl
@[simp] theorem onHostPort_cross : (onHostPort k f s).cross = s.cross := rfl
@[simp] theorem onHostPort_pace : (onHostPort k f s).pace = s.pace := rfl
@[simp] theorem onHostPort_txp : (onHostPort k f s).txp = s.txp := rfl
@[simp] theorem onHostPort_txs : (onHostPort k f s).txs = s.txs := rfl
@[simp] theorem onHostPort_rxp : (onHostPort k f s).rxp = s.rxp := rfl
@[simp] theorem onHostPort_rxs : (onHostPort k f s).rxs = s.rxs := rfl
@[simp] theorem onHostPort_fecp : (onHostPort k f s).fecp = s.fecp := rfl
@[simp] theorem onHostPort_fecs : (onHostPort k f s).fecs = s.fecs := rfl
@[simp] theorem onHostPort_frame : (onHostPort k f s).frame = s.frame := rfl
@[simp] theorem onHostPort_hub : (onHostPort k f s).hub = s.hub := rfl
@[simp] theorem onHostPort_lane : (onHostPort k f s).lane = s.lane := rfl
@[simp] theorem onHostPort_hport : (onHostPort k f s).hport = tabMod {} s.hport k f := rfl
@[simp] theorem onHostPort_svc : (onHostPort k f s).svc = s.svc := rfl
@[simp] theorem onHostPort_cipher : (onHostPort k f s).cipher = s.cipher := rfl
@[simp] theorem onHostPort_bulk : (onHostPort k f s).bulk = s.bulk := rfl
@[simp] theorem onHostPort_timing : (onHostPort k f s).timing = s.timing := rfl
@[simp] theorem onHostPort_cues : (onHostPort k f s).cues = s.cues := rfl
@[simp] theorem onHostPort_pair : (onHostPort k f s).pair = s.pair := rfl
@[simp] theorem onHostPort_mon : (onHostPort k f s).mon = s.mon := rfl
@[simp] theorem onHostPort_therm : (onHostPort k f s).therm = s.therm := rfl
@[simp] theorem onHostPort_flt : (onHostPort k f s).flt = s.flt := rfl
@[simp] theorem onHostPort_log : (onHostPort k f s).log = s.log := rfl
@[simp] theorem onHostPort_tracer : (onHostPort k f s).tracer = s.tracer := rfl
@[simp] theorem onHostPort_quiet : (onHostPort k f s).quiet = s.quiet := rfl
theorem hostPort_apply : hostPort (onHostPort k f s) j = if j = k then f (hostPort s k) else hostPort s j := tabGet_mod ..
@[simp] theorem hostPort_same : hostPort (onHostPort k f s) k = f (hostPort s k) := tabGet_mod_same ..
theorem hostPort_other {k j : Nat} (h : j ≠ k) : hostPort (onHostPort k f s) j = hostPort s j := tabGet_mod_other _ _ _ h
end OnHostPort

/-! `onTribOf` changes entry `k` of `svc.trib` alone. -/

section OnTribOf
variable (k j : Nat) (f : Trib → Trib) (s : State)

@[simp] theorem onTribOf_pending : (onTribOf k f s).pending = s.pending := rfl
@[simp] theorem onTribOf_free : (onTribOf k f s).free = s.free := rfl
@[simp] theorem onTribOf_ctrl : (onTribOf k f s).ctrl = s.ctrl := rfl
@[simp] theorem onTribOf_ev : (onTribOf k f s).ev = s.ev := rfl
@[simp] theorem onTribOf_fw : (onTribOf k f s).fw = s.fw := rfl
@[simp] theorem onTribOf_power : (onTribOf k f s).power = s.power := rfl
@[simp] theorem onTribOf_cross : (onTribOf k f s).cross = s.cross := rfl
@[simp] theorem onTribOf_pace : (onTribOf k f s).pace = s.pace := rfl
@[simp] theorem onTribOf_txp : (onTribOf k f s).txp = s.txp := rfl
@[simp] theorem onTribOf_txs : (onTribOf k f s).txs = s.txs := rfl
@[simp] theorem onTribOf_rxp : (onTribOf k f s).rxp = s.rxp := rfl
@[simp] theorem onTribOf_rxs : (onTribOf k f s).rxs = s.rxs := rfl
@[simp] theorem onTribOf_fecp : (onTribOf k f s).fecp = s.fecp := rfl
@[simp] theorem onTribOf_fecs : (onTribOf k f s).fecs = s.fecs := rfl
@[simp] theorem onTribOf_frame : (onTribOf k f s).frame = s.frame := rfl
@[simp] theorem onTribOf_hub : (onTribOf k f s).hub = s.hub := rfl
@[simp] theorem onTribOf_lane : (onTribOf k f s).lane = s.lane := rfl
@[simp] theorem onTribOf_hport : (onTribOf k f s).hport = s.hport := rfl
@[simp] theorem onTribOf_svc : (onTribOf k f s).svc = { s.svc with trib := tabMod {} s.svc.trib k f } := rfl
@[simp] theorem onTribOf_cipher : (onTribOf k f s).cipher = s.cipher := rfl
@[simp] theorem onTribOf_bulk : (onTribOf k f s).bulk = s.bulk := rfl
@[simp] theorem onTribOf_timing : (onTribOf k f s).timing = s.timing := rfl
@[simp] theorem onTribOf_cues : (onTribOf k f s).cues = s.cues := rfl
@[simp] theorem onTribOf_pair : (onTribOf k f s).pair = s.pair := rfl
@[simp] theorem onTribOf_mon : (onTribOf k f s).mon = s.mon := rfl
@[simp] theorem onTribOf_therm : (onTribOf k f s).therm = s.therm := rfl
@[simp] theorem onTribOf_flt : (onTribOf k f s).flt = s.flt := rfl
@[simp] theorem onTribOf_log : (onTribOf k f s).log = s.log := rfl
@[simp] theorem onTribOf_tracer : (onTribOf k f s).tracer = s.tracer := rfl
@[simp] theorem onTribOf_quiet : (onTribOf k f s).quiet = s.quiet := rfl
theorem tribOf_apply : tribOf (onTribOf k f s) j = if j = k then f (tribOf s k) else tribOf s j := tabGet_mod ..
@[simp] theorem tribOf_same : tribOf (onTribOf k f s) k = f (tribOf s k) := tabGet_mod_same ..
theorem tribOf_other {k j : Nat} (h : j ≠ k) : tribOf (onTribOf k f s) j = tribOf s j := tabGet_mod_other _ _ _ h
end OnTribOf

/-! `onSlotOwner` changes entry `k` of `svc.slot` alone. -/

section OnSlotOwner
variable (k j : Nat) (f : SlotOwner → SlotOwner) (s : State)

@[simp] theorem onSlotOwner_pending : (onSlotOwner k f s).pending = s.pending := rfl
@[simp] theorem onSlotOwner_free : (onSlotOwner k f s).free = s.free := rfl
@[simp] theorem onSlotOwner_ctrl : (onSlotOwner k f s).ctrl = s.ctrl := rfl
@[simp] theorem onSlotOwner_ev : (onSlotOwner k f s).ev = s.ev := rfl
@[simp] theorem onSlotOwner_fw : (onSlotOwner k f s).fw = s.fw := rfl
@[simp] theorem onSlotOwner_power : (onSlotOwner k f s).power = s.power := rfl
@[simp] theorem onSlotOwner_cross : (onSlotOwner k f s).cross = s.cross := rfl
@[simp] theorem onSlotOwner_pace : (onSlotOwner k f s).pace = s.pace := rfl
@[simp] theorem onSlotOwner_txp : (onSlotOwner k f s).txp = s.txp := rfl
@[simp] theorem onSlotOwner_txs : (onSlotOwner k f s).txs = s.txs := rfl
@[simp] theorem onSlotOwner_rxp : (onSlotOwner k f s).rxp = s.rxp := rfl
@[simp] theorem onSlotOwner_rxs : (onSlotOwner k f s).rxs = s.rxs := rfl
@[simp] theorem onSlotOwner_fecp : (onSlotOwner k f s).fecp = s.fecp := rfl
@[simp] theorem onSlotOwner_fecs : (onSlotOwner k f s).fecs = s.fecs := rfl
@[simp] theorem onSlotOwner_frame : (onSlotOwner k f s).frame = s.frame := rfl
@[simp] theorem onSlotOwner_hub : (onSlotOwner k f s).hub = s.hub := rfl
@[simp] theorem onSlotOwner_lane : (onSlotOwner k f s).lane = s.lane := rfl
@[simp] theorem onSlotOwner_hport : (onSlotOwner k f s).hport = s.hport := rfl
@[simp] theorem onSlotOwner_svc : (onSlotOwner k f s).svc = { s.svc with slot := tabMod {} s.svc.slot k f } := rfl
@[simp] theorem onSlotOwner_cipher : (onSlotOwner k f s).cipher = s.cipher := rfl
@[simp] theorem onSlotOwner_bulk : (onSlotOwner k f s).bulk = s.bulk := rfl
@[simp] theorem onSlotOwner_timing : (onSlotOwner k f s).timing = s.timing := rfl
@[simp] theorem onSlotOwner_cues : (onSlotOwner k f s).cues = s.cues := rfl
@[simp] theorem onSlotOwner_pair : (onSlotOwner k f s).pair = s.pair := rfl
@[simp] theorem onSlotOwner_mon : (onSlotOwner k f s).mon = s.mon := rfl
@[simp] theorem onSlotOwner_therm : (onSlotOwner k f s).therm = s.therm := rfl
@[simp] theorem onSlotOwner_flt : (onSlotOwner k f s).flt = s.flt := rfl
@[simp] theorem onSlotOwner_log : (onSlotOwner k f s).log = s.log := rfl
@[simp] theorem onSlotOwner_tracer : (onSlotOwner k f s).tracer = s.tracer := rfl
@[simp] theorem onSlotOwner_quiet : (onSlotOwner k f s).quiet = s.quiet := rfl
theorem slotOwner_apply : slotOwner (onSlotOwner k f s) j = if j = k then f (slotOwner s k) else slotOwner s j := tabGet_mod ..
@[simp] theorem slotOwner_same : slotOwner (onSlotOwner k f s) k = f (slotOwner s k) := tabGet_mod_same ..
theorem slotOwner_other {k j : Nat} (h : j ≠ k) : slotOwner (onSlotOwner k f s) j = slotOwner s j := tabGet_mod_other _ _ _ h
end OnSlotOwner

/-! `onCtxOf` changes entry `k` of `cipher.ctx` alone. -/

section OnCtxOf
variable (k j : Nat) (f : Ctx → Ctx) (s : State)

@[simp] theorem onCtxOf_pending : (onCtxOf k f s).pending = s.pending := rfl
@[simp] theorem onCtxOf_free : (onCtxOf k f s).free = s.free := rfl
@[simp] theorem onCtxOf_ctrl : (onCtxOf k f s).ctrl = s.ctrl := rfl
@[simp] theorem onCtxOf_ev : (onCtxOf k f s).ev = s.ev := rfl
@[simp] theorem onCtxOf_fw : (onCtxOf k f s).fw = s.fw := rfl
@[simp] theorem onCtxOf_power : (onCtxOf k f s).power = s.power := rfl
@[simp] theorem onCtxOf_cross : (onCtxOf k f s).cross = s.cross := rfl
@[simp] theorem onCtxOf_pace : (onCtxOf k f s).pace = s.pace := rfl
@[simp] theorem onCtxOf_txp : (onCtxOf k f s).txp = s.txp := rfl
@[simp] theorem onCtxOf_txs : (onCtxOf k f s).txs = s.txs := rfl
@[simp] theorem onCtxOf_rxp : (onCtxOf k f s).rxp = s.rxp := rfl
@[simp] theorem onCtxOf_rxs : (onCtxOf k f s).rxs = s.rxs := rfl
@[simp] theorem onCtxOf_fecp : (onCtxOf k f s).fecp = s.fecp := rfl
@[simp] theorem onCtxOf_fecs : (onCtxOf k f s).fecs = s.fecs := rfl
@[simp] theorem onCtxOf_frame : (onCtxOf k f s).frame = s.frame := rfl
@[simp] theorem onCtxOf_hub : (onCtxOf k f s).hub = s.hub := rfl
@[simp] theorem onCtxOf_lane : (onCtxOf k f s).lane = s.lane := rfl
@[simp] theorem onCtxOf_hport : (onCtxOf k f s).hport = s.hport := rfl
@[simp] theorem onCtxOf_svc : (onCtxOf k f s).svc = s.svc := rfl
@[simp] theorem onCtxOf_cipher : (onCtxOf k f s).cipher = { s.cipher with ctx := tabMod {} s.cipher.ctx k f } := rfl
@[simp] theorem onCtxOf_bulk : (onCtxOf k f s).bulk = s.bulk := rfl
@[simp] theorem onCtxOf_timing : (onCtxOf k f s).timing = s.timing := rfl
@[simp] theorem onCtxOf_cues : (onCtxOf k f s).cues = s.cues := rfl
@[simp] theorem onCtxOf_pair : (onCtxOf k f s).pair = s.pair := rfl
@[simp] theorem onCtxOf_mon : (onCtxOf k f s).mon = s.mon := rfl
@[simp] theorem onCtxOf_therm : (onCtxOf k f s).therm = s.therm := rfl
@[simp] theorem onCtxOf_flt : (onCtxOf k f s).flt = s.flt := rfl
@[simp] theorem onCtxOf_log : (onCtxOf k f s).log = s.log := rfl
@[simp] theorem onCtxOf_tracer : (onCtxOf k f s).tracer = s.tracer := rfl
@[simp] theorem onCtxOf_quiet : (onCtxOf k f s).quiet = s.quiet := rfl
theorem ctxOf_apply : ctxOf (onCtxOf k f s) j = if j = k then f (ctxOf s k) else ctxOf s j := tabGet_mod ..
@[simp] theorem ctxOf_same : ctxOf (onCtxOf k f s) k = f (ctxOf s k) := tabGet_mod_same ..
theorem ctxOf_other {k j : Nat} (h : j ≠ k) : ctxOf (onCtxOf k f s) j = ctxOf s j := tabGet_mod_other _ _ _ h
end OnCtxOf

/-! `onSandOf` changes entry `k` of `bulk.sand` alone. -/

section OnSandOf
variable (k j : Nat) (f : Sand → Sand) (s : State)

@[simp] theorem onSandOf_pending : (onSandOf k f s).pending = s.pending := rfl
@[simp] theorem onSandOf_free : (onSandOf k f s).free = s.free := rfl
@[simp] theorem onSandOf_ctrl : (onSandOf k f s).ctrl = s.ctrl := rfl
@[simp] theorem onSandOf_ev : (onSandOf k f s).ev = s.ev := rfl
@[simp] theorem onSandOf_fw : (onSandOf k f s).fw = s.fw := rfl
@[simp] theorem onSandOf_power : (onSandOf k f s).power = s.power := rfl
@[simp] theorem onSandOf_cross : (onSandOf k f s).cross = s.cross := rfl
@[simp] theorem onSandOf_pace : (onSandOf k f s).pace = s.pace := rfl
@[simp] theorem onSandOf_txp : (onSandOf k f s).txp = s.txp := rfl
@[simp] theorem onSandOf_txs : (onSandOf k f s).txs = s.txs := rfl
@[simp] theorem onSandOf_rxp : (onSandOf k f s).rxp = s.rxp := rfl
@[simp] theorem onSandOf_rxs : (onSandOf k f s).rxs = s.rxs := rfl
@[simp] theorem onSandOf_fecp : (onSandOf k f s).fecp = s.fecp := rfl
@[simp] theorem onSandOf_fecs : (onSandOf k f s).fecs = s.fecs := rfl
@[simp] theorem onSandOf_frame : (onSandOf k f s).frame = s.frame := rfl
@[simp] theorem onSandOf_hub : (onSandOf k f s).hub = s.hub := rfl
@[simp] theorem onSandOf_lane : (onSandOf k f s).lane = s.lane := rfl
@[simp] theorem onSandOf_hport : (onSandOf k f s).hport = s.hport := rfl
@[simp] theorem onSandOf_svc : (onSandOf k f s).svc = s.svc := rfl
@[simp] theorem onSandOf_cipher : (onSandOf k f s).cipher = s.cipher := rfl
@[simp] theorem onSandOf_bulk : (onSandOf k f s).bulk = { s.bulk with sand := tabMod {} s.bulk.sand k f } := rfl
@[simp] theorem onSandOf_timing : (onSandOf k f s).timing = s.timing := rfl
@[simp] theorem onSandOf_cues : (onSandOf k f s).cues = s.cues := rfl
@[simp] theorem onSandOf_pair : (onSandOf k f s).pair = s.pair := rfl
@[simp] theorem onSandOf_mon : (onSandOf k f s).mon = s.mon := rfl
@[simp] theorem onSandOf_therm : (onSandOf k f s).therm = s.therm := rfl
@[simp] theorem onSandOf_flt : (onSandOf k f s).flt = s.flt := rfl
@[simp] theorem onSandOf_log : (onSandOf k f s).log = s.log := rfl
@[simp] theorem onSandOf_tracer : (onSandOf k f s).tracer = s.tracer := rfl
@[simp] theorem onSandOf_quiet : (onSandOf k f s).quiet = s.quiet := rfl
theorem sandOf_apply : sandOf (onSandOf k f s) j = if j = k then f (sandOf s k) else sandOf s j := tabGet_mod ..
@[simp] theorem sandOf_same : sandOf (onSandOf k f s) k = f (sandOf s k) := tabGet_mod_same ..
theorem sandOf_other {k j : Nat} (h : j ≠ k) : sandOf (onSandOf k f s) j = sandOf s j := tabGet_mod_other _ _ _ h
end OnSandOf

/-! `onPaceUnit` changes entry `k` of `pace` alone. -/

section OnPaceUnit
variable (k j : Nat) (f : PaceUnit → PaceUnit) (s : State)

@[simp] theorem onPaceUnit_pending : (onPaceUnit k f s).pending = s.pending := rfl
@[simp] theorem onPaceUnit_free : (onPaceUnit k f s).free = s.free := rfl
@[simp] theorem onPaceUnit_ctrl : (onPaceUnit k f s).ctrl = s.ctrl := rfl
@[simp] theorem onPaceUnit_ev : (onPaceUnit k f s).ev = s.ev := rfl
@[simp] theorem onPaceUnit_fw : (onPaceUnit k f s).fw = s.fw := rfl
@[simp] theorem onPaceUnit_power : (onPaceUnit k f s).power = s.power := rfl
@[simp] theorem onPaceUnit_cross : (onPaceUnit k f s).cross = s.cross := rfl
@[simp] theorem onPaceUnit_pace : (onPaceUnit k f s).pace = tabMod {} s.pace k f := rfl
@[simp] theorem onPaceUnit_txp : (onPaceUnit k f s).txp = s.txp := rfl
@[simp] theorem onPaceUnit_txs : (onPaceUnit k f s).txs = s.txs := rfl
@[simp] theorem onPaceUnit_rxp : (onPaceUnit k f s).rxp = s.rxp := rfl
@[simp] theorem onPaceUnit_rxs : (onPaceUnit k f s).rxs = s.rxs := rfl
@[simp] theorem onPaceUnit_fecp : (onPaceUnit k f s).fecp = s.fecp := rfl
@[simp] theorem onPaceUnit_fecs : (onPaceUnit k f s).fecs = s.fecs := rfl
@[simp] theorem onPaceUnit_frame : (onPaceUnit k f s).frame = s.frame := rfl
@[simp] theorem onPaceUnit_hub : (onPaceUnit k f s).hub = s.hub := rfl
@[simp] theorem onPaceUnit_lane : (onPaceUnit k f s).lane = s.lane := rfl
@[simp] theorem onPaceUnit_hport : (onPaceUnit k f s).hport = s.hport := rfl
@[simp] theorem onPaceUnit_svc : (onPaceUnit k f s).svc = s.svc := rfl
@[simp] theorem onPaceUnit_cipher : (onPaceUnit k f s).cipher = s.cipher := rfl
@[simp] theorem onPaceUnit_bulk : (onPaceUnit k f s).bulk = s.bulk := rfl
@[simp] theorem onPaceUnit_timing : (onPaceUnit k f s).timing = s.timing := rfl
@[simp] theorem onPaceUnit_cues : (onPaceUnit k f s).cues = s.cues := rfl
@[simp] theorem onPaceUnit_pair : (onPaceUnit k f s).pair = s.pair := rfl
@[simp] theorem onPaceUnit_mon : (onPaceUnit k f s).mon = s.mon := rfl
@[simp] theorem onPaceUnit_therm : (onPaceUnit k f s).therm = s.therm := rfl
@[simp] theorem onPaceUnit_flt : (onPaceUnit k f s).flt = s.flt := rfl
@[simp] theorem onPaceUnit_log : (onPaceUnit k f s).log = s.log := rfl
@[simp] theorem onPaceUnit_tracer : (onPaceUnit k f s).tracer = s.tracer := rfl
@[simp] theorem onPaceUnit_quiet : (onPaceUnit k f s).quiet = s.quiet := rfl
theorem paceUnit_apply : paceUnit (onPaceUnit k f s) j = if j = k then f (paceUnit s k) else paceUnit s j := tabGet_mod ..
@[simp] theorem paceUnit_same : paceUnit (onPaceUnit k f s) k = f (paceUnit s k) := tabGet_mod_same ..
theorem paceUnit_other {k j : Nat} (h : j ≠ k) : paceUnit (onPaceUnit k f s) j = paceUnit s j := tabGet_mod_other _ _ _ h
end OnPaceUnit

/-! `onCoreOf` changes entry `k` of `flt.core` alone. -/

section OnCoreOf
variable (k j : Nat) (f : Core → Core) (s : State)

@[simp] theorem onCoreOf_pending : (onCoreOf k f s).pending = s.pending := rfl
@[simp] theorem onCoreOf_free : (onCoreOf k f s).free = s.free := rfl
@[simp] theorem onCoreOf_ctrl : (onCoreOf k f s).ctrl = s.ctrl := rfl
@[simp] theorem onCoreOf_ev : (onCoreOf k f s).ev = s.ev := rfl
@[simp] theorem onCoreOf_fw : (onCoreOf k f s).fw = s.fw := rfl
@[simp] theorem onCoreOf_power : (onCoreOf k f s).power = s.power := rfl
@[simp] theorem onCoreOf_cross : (onCoreOf k f s).cross = s.cross := rfl
@[simp] theorem onCoreOf_pace : (onCoreOf k f s).pace = s.pace := rfl
@[simp] theorem onCoreOf_txp : (onCoreOf k f s).txp = s.txp := rfl
@[simp] theorem onCoreOf_txs : (onCoreOf k f s).txs = s.txs := rfl
@[simp] theorem onCoreOf_rxp : (onCoreOf k f s).rxp = s.rxp := rfl
@[simp] theorem onCoreOf_rxs : (onCoreOf k f s).rxs = s.rxs := rfl
@[simp] theorem onCoreOf_fecp : (onCoreOf k f s).fecp = s.fecp := rfl
@[simp] theorem onCoreOf_fecs : (onCoreOf k f s).fecs = s.fecs := rfl
@[simp] theorem onCoreOf_frame : (onCoreOf k f s).frame = s.frame := rfl
@[simp] theorem onCoreOf_hub : (onCoreOf k f s).hub = s.hub := rfl
@[simp] theorem onCoreOf_lane : (onCoreOf k f s).lane = s.lane := rfl
@[simp] theorem onCoreOf_hport : (onCoreOf k f s).hport = s.hport := rfl
@[simp] theorem onCoreOf_svc : (onCoreOf k f s).svc = s.svc := rfl
@[simp] theorem onCoreOf_cipher : (onCoreOf k f s).cipher = s.cipher := rfl
@[simp] theorem onCoreOf_bulk : (onCoreOf k f s).bulk = s.bulk := rfl
@[simp] theorem onCoreOf_timing : (onCoreOf k f s).timing = s.timing := rfl
@[simp] theorem onCoreOf_cues : (onCoreOf k f s).cues = s.cues := rfl
@[simp] theorem onCoreOf_pair : (onCoreOf k f s).pair = s.pair := rfl
@[simp] theorem onCoreOf_mon : (onCoreOf k f s).mon = s.mon := rfl
@[simp] theorem onCoreOf_therm : (onCoreOf k f s).therm = s.therm := rfl
@[simp] theorem onCoreOf_flt : (onCoreOf k f s).flt = { s.flt with core := tabMod {} s.flt.core k f } := rfl
@[simp] theorem onCoreOf_log : (onCoreOf k f s).log = s.log := rfl
@[simp] theorem onCoreOf_tracer : (onCoreOf k f s).tracer = s.tracer := rfl
@[simp] theorem onCoreOf_quiet : (onCoreOf k f s).quiet = s.quiet := rfl
theorem coreOf_apply : coreOf (onCoreOf k f s) j = if j = k then f (coreOf s k) else coreOf s j := tabGet_mod ..
@[simp] theorem coreOf_same : coreOf (onCoreOf k f s) k = f (coreOf s k) := tabGet_mod_same ..
theorem coreOf_other {k j : Nat} (h : j ≠ k) : coreOf (onCoreOf k f s) j = coreOf s j := tabGet_mod_other _ _ _ h
end OnCoreOf

/-! `onUnitRec` changes entry `k` of `flt.unit` alone. -/

section OnUnitRec
variable (k j : Nat) (f : UnitRec → UnitRec) (s : State)

@[simp] theorem onUnitRec_pending : (onUnitRec k f s).pending = s.pending := rfl
@[simp] theorem onUnitRec_free : (onUnitRec k f s).free = s.free := rfl
@[simp] theorem onUnitRec_ctrl : (onUnitRec k f s).ctrl = s.ctrl := rfl
@[simp] theorem onUnitRec_ev : (onUnitRec k f s).ev = s.ev := rfl
@[simp] theorem onUnitRec_fw : (onUnitRec k f s).fw = s.fw := rfl
@[simp] theorem onUnitRec_power : (onUnitRec k f s).power = s.power := rfl
@[simp] theorem onUnitRec_cross : (onUnitRec k f s).cross = s.cross := rfl
@[simp] theorem onUnitRec_pace : (onUnitRec k f s).pace = s.pace := rfl
@[simp] theorem onUnitRec_txp : (onUnitRec k f s).txp = s.txp := rfl
@[simp] theorem onUnitRec_txs : (onUnitRec k f s).txs = s.txs := rfl
@[simp] theorem onUnitRec_rxp : (onUnitRec k f s).rxp = s.rxp := rfl
@[simp] theorem onUnitRec_rxs : (onUnitRec k f s).rxs = s.rxs := rfl
@[simp] theorem onUnitRec_fecp : (onUnitRec k f s).fecp = s.fecp := rfl
@[simp] theorem onUnitRec_fecs : (onUnitRec k f s).fecs = s.fecs := rfl
@[simp] theorem onUnitRec_frame : (onUnitRec k f s).frame = s.frame := rfl
@[simp] theorem onUnitRec_hub : (onUnitRec k f s).hub = s.hub := rfl
@[simp] theorem onUnitRec_lane : (onUnitRec k f s).lane = s.lane := rfl
@[simp] theorem onUnitRec_hport : (onUnitRec k f s).hport = s.hport := rfl
@[simp] theorem onUnitRec_svc : (onUnitRec k f s).svc = s.svc := rfl
@[simp] theorem onUnitRec_cipher : (onUnitRec k f s).cipher = s.cipher := rfl
@[simp] theorem onUnitRec_bulk : (onUnitRec k f s).bulk = s.bulk := rfl
@[simp] theorem onUnitRec_timing : (onUnitRec k f s).timing = s.timing := rfl
@[simp] theorem onUnitRec_cues : (onUnitRec k f s).cues = s.cues := rfl
@[simp] theorem onUnitRec_pair : (onUnitRec k f s).pair = s.pair := rfl
@[simp] theorem onUnitRec_mon : (onUnitRec k f s).mon = s.mon := rfl
@[simp] theorem onUnitRec_therm : (onUnitRec k f s).therm = s.therm := rfl
@[simp] theorem onUnitRec_flt : (onUnitRec k f s).flt = { s.flt with unit := tabMod {} s.flt.unit k f } := rfl
@[simp] theorem onUnitRec_log : (onUnitRec k f s).log = s.log := rfl
@[simp] theorem onUnitRec_tracer : (onUnitRec k f s).tracer = s.tracer := rfl
@[simp] theorem onUnitRec_quiet : (onUnitRec k f s).quiet = s.quiet := rfl
theorem unitRec_apply : unitRec (onUnitRec k f s) j = if j = k then f (unitRec s k) else unitRec s j := tabGet_mod ..
@[simp] theorem unitRec_same : unitRec (onUnitRec k f s) k = f (unitRec s k) := tabGet_mod_same ..
theorem unitRec_other {k j : Nat} (h : j ≠ k) : unitRec (onUnitRec k f s) j = unitRec s j := tabGet_mod_other _ _ _ h
end OnUnitRec

/-! `onPolicyOf` changes entry `k` of `flt.policy` alone. -/

section OnPolicyOf
variable (k j : Nat) (f : Policy → Policy) (s : State)

@[simp] theorem onPolicyOf_pending : (onPolicyOf k f s).pending = s.pending := rfl
@[simp] theorem onPolicyOf_free : (onPolicyOf k f s).free = s.free := rfl
@[simp] theorem onPolicyOf_ctrl : (onPolicyOf k f s).ctrl = s.ctrl := rfl
@[simp] theorem onPolicyOf_ev : (onPolicyOf k f s).ev = s.ev := rfl
@[simp] theorem onPolicyOf_fw : (onPolicyOf k f s).fw = s.fw := rfl
@[simp] theorem onPolicyOf_power : (onPolicyOf k f s).power = s.power := rfl
@[simp] theorem onPolicyOf_cross : (onPolicyOf k f s).cross = s.cross := rfl
@[simp] theorem onPolicyOf_pace : (onPolicyOf k f s).pace = s.pace := rfl
@[simp] theorem onPolicyOf_txp : (onPolicyOf k f s).txp = s.txp := rfl
@[simp] theorem onPolicyOf_txs : (onPolicyOf k f s).txs = s.txs := rfl
@[simp] theorem onPolicyOf_rxp : (onPolicyOf k f s).rxp = s.rxp := rfl
@[simp] theorem onPolicyOf_rxs : (onPolicyOf k f s).rxs = s.rxs := rfl
@[simp] theorem onPolicyOf_fecp : (onPolicyOf k f s).fecp = s.fecp := rfl
@[simp] theorem onPolicyOf_fecs : (onPolicyOf k f s).fecs = s.fecs := rfl
@[simp] theorem onPolicyOf_frame : (onPolicyOf k f s).frame = s.frame := rfl
@[simp] theorem onPolicyOf_hub : (onPolicyOf k f s).hub = s.hub := rfl
@[simp] theorem onPolicyOf_lane : (onPolicyOf k f s).lane = s.lane := rfl
@[simp] theorem onPolicyOf_hport : (onPolicyOf k f s).hport = s.hport := rfl
@[simp] theorem onPolicyOf_svc : (onPolicyOf k f s).svc = s.svc := rfl
@[simp] theorem onPolicyOf_cipher : (onPolicyOf k f s).cipher = s.cipher := rfl
@[simp] theorem onPolicyOf_bulk : (onPolicyOf k f s).bulk = s.bulk := rfl
@[simp] theorem onPolicyOf_timing : (onPolicyOf k f s).timing = s.timing := rfl
@[simp] theorem onPolicyOf_cues : (onPolicyOf k f s).cues = s.cues := rfl
@[simp] theorem onPolicyOf_pair : (onPolicyOf k f s).pair = s.pair := rfl
@[simp] theorem onPolicyOf_mon : (onPolicyOf k f s).mon = s.mon := rfl
@[simp] theorem onPolicyOf_therm : (onPolicyOf k f s).therm = s.therm := rfl
@[simp] theorem onPolicyOf_flt : (onPolicyOf k f s).flt = { s.flt with policy := tabMod {} s.flt.policy k f } := rfl
@[simp] theorem onPolicyOf_log : (onPolicyOf k f s).log = s.log := rfl
@[simp] theorem onPolicyOf_tracer : (onPolicyOf k f s).tracer = s.tracer := rfl
@[simp] theorem onPolicyOf_quiet : (onPolicyOf k f s).quiet = s.quiet := rfl
theorem policyOf_apply : policyOf (onPolicyOf k f s) j = if j = k then f (policyOf s k) else policyOf s j := tabGet_mod ..
@[simp] theorem policyOf_same : policyOf (onPolicyOf k f s) k = f (policyOf s k) := tabGet_mod_same ..
theorem policyOf_other {k j : Nat} (h : j ≠ k) : policyOf (onPolicyOf k f s) j = policyOf s j := tabGet_mod_other _ _ _ h
end OnPolicyOf

/-! `onInjOf` changes entry `k` of `flt.inj` alone. -/

section OnInjOf
variable (k j : Nat) (f : Inject → Inject) (s : State)

@[simp] theorem onInjOf_pending : (onInjOf k f s).pending = s.pending := rfl
@[simp] theorem onInjOf_free : (onInjOf k f s).free = s.free := rfl
@[simp] theorem onInjOf_ctrl : (onInjOf k f s).ctrl = s.ctrl := rfl
@[simp] theorem onInjOf_ev : (onInjOf k f s).ev = s.ev := rfl
@[simp] theorem onInjOf_fw : (onInjOf k f s).fw = s.fw := rfl
@[simp] theorem onInjOf_power : (onInjOf k f s).power = s.power := rfl
@[simp] theorem onInjOf_cross : (onInjOf k f s).cross = s.cross := rfl
@[simp] theorem onInjOf_pace : (onInjOf k f s).pace = s.pace := rfl
@[simp] theorem onInjOf_txp : (onInjOf k f s).txp = s.txp := rfl
@[simp] theorem onInjOf_txs : (onInjOf k f s).txs = s.txs := rfl
@[simp] theorem onInjOf_rxp : (onInjOf k f s).rxp = s.rxp := rfl
@[simp] theorem onInjOf_rxs : (onInjOf k f s).rxs = s.rxs := rfl
@[simp] theorem onInjOf_fecp : (onInjOf k f s).fecp = s.fecp := rfl
@[simp] theorem onInjOf_fecs : (onInjOf k f s).fecs = s.fecs := rfl
@[simp] theorem onInjOf_frame : (onInjOf k f s).frame = s.frame := rfl
@[simp] theorem onInjOf_hub : (onInjOf k f s).hub = s.hub := rfl
@[simp] theorem onInjOf_lane : (onInjOf k f s).lane = s.lane := rfl
@[simp] theorem onInjOf_hport : (onInjOf k f s).hport = s.hport := rfl
@[simp] theorem onInjOf_svc : (onInjOf k f s).svc = s.svc := rfl
@[simp] theorem onInjOf_cipher : (onInjOf k f s).cipher = s.cipher := rfl
@[simp] theorem onInjOf_bulk : (onInjOf k f s).bulk = s.bulk := rfl
@[simp] theorem onInjOf_timing : (onInjOf k f s).timing = s.timing := rfl
@[simp] theorem onInjOf_cues : (onInjOf k f s).cues = s.cues := rfl
@[simp] theorem onInjOf_pair : (onInjOf k f s).pair = s.pair := rfl
@[simp] theorem onInjOf_mon : (onInjOf k f s).mon = s.mon := rfl
@[simp] theorem onInjOf_therm : (onInjOf k f s).therm = s.therm := rfl
@[simp] theorem onInjOf_flt : (onInjOf k f s).flt = { s.flt with inj := tabMod {} s.flt.inj k f } := rfl
@[simp] theorem onInjOf_log : (onInjOf k f s).log = s.log := rfl
@[simp] theorem onInjOf_tracer : (onInjOf k f s).tracer = s.tracer := rfl
@[simp] theorem onInjOf_quiet : (onInjOf k f s).quiet = s.quiet := rfl
theorem injOf_apply : injOf (onInjOf k f s) j = if j = k then f (injOf s k) else injOf s j := tabGet_mod ..
@[simp] theorem injOf_same : injOf (onInjOf k f s) k = f (injOf s k) := tabGet_mod_same ..
theorem injOf_other {k j : Nat} (h : j ≠ k) : injOf (onInjOf k f s) j = injOf s j := tabGet_mod_other _ _ _ h
end OnInjOf

/-! `onCandOf` changes entry `k` of `timing.cand` alone. -/

section OnCandOf
variable (k j : Nat) (f : Cand → Cand) (s : State)

@[simp] theorem onCandOf_pending : (onCandOf k f s).pending = s.pending := rfl
@[simp] theorem onCandOf_free : (onCandOf k f s).free = s.free := rfl
@[simp] theorem onCandOf_ctrl : (onCandOf k f s).ctrl = s.ctrl := rfl
@[simp] theorem onCandOf_ev : (onCandOf k f s).ev = s.ev := rfl
@[simp] theorem onCandOf_fw : (onCandOf k f s).fw = s.fw := rfl
@[simp] theorem onCandOf_power : (onCandOf k f s).power = s.power := rfl
@[simp] theorem onCandOf_cross : (onCandOf k f s).cross = s.cross := rfl
@[simp] theorem onCandOf_pace : (onCandOf k f s).pace = s.pace := rfl
@[simp] theorem onCandOf_txp : (onCandOf k f s).txp = s.txp := rfl
@[simp] theorem onCandOf_txs : (onCandOf k f s).txs = s.txs := rfl
@[simp] theorem onCandOf_rxp : (onCandOf k f s).rxp = s.rxp := rfl
@[simp] theorem onCandOf_rxs : (onCandOf k f s).rxs = s.rxs := rfl
@[simp] theorem onCandOf_fecp : (onCandOf k f s).fecp = s.fecp := rfl
@[simp] theorem onCandOf_fecs : (onCandOf k f s).fecs = s.fecs := rfl
@[simp] theorem onCandOf_frame : (onCandOf k f s).frame = s.frame := rfl
@[simp] theorem onCandOf_hub : (onCandOf k f s).hub = s.hub := rfl
@[simp] theorem onCandOf_lane : (onCandOf k f s).lane = s.lane := rfl
@[simp] theorem onCandOf_hport : (onCandOf k f s).hport = s.hport := rfl
@[simp] theorem onCandOf_svc : (onCandOf k f s).svc = s.svc := rfl
@[simp] theorem onCandOf_cipher : (onCandOf k f s).cipher = s.cipher := rfl
@[simp] theorem onCandOf_bulk : (onCandOf k f s).bulk = s.bulk := rfl
@[simp] theorem onCandOf_timing : (onCandOf k f s).timing = { s.timing with cand := tabMod {} s.timing.cand k f } := rfl
@[simp] theorem onCandOf_cues : (onCandOf k f s).cues = s.cues := rfl
@[simp] theorem onCandOf_pair : (onCandOf k f s).pair = s.pair := rfl
@[simp] theorem onCandOf_mon : (onCandOf k f s).mon = s.mon := rfl
@[simp] theorem onCandOf_therm : (onCandOf k f s).therm = s.therm := rfl
@[simp] theorem onCandOf_flt : (onCandOf k f s).flt = s.flt := rfl
@[simp] theorem onCandOf_log : (onCandOf k f s).log = s.log := rfl
@[simp] theorem onCandOf_tracer : (onCandOf k f s).tracer = s.tracer := rfl
@[simp] theorem onCandOf_quiet : (onCandOf k f s).quiet = s.quiet := rfl
theorem candOf_apply : candOf (onCandOf k f s) j = if j = k then f (candOf s k) else candOf s j := tabGet_mod ..
@[simp] theorem candOf_same : candOf (onCandOf k f s) k = f (candOf s k) := tabGet_mod_same ..
theorem candOf_other {k j : Nat} (h : j ≠ k) : candOf (onCandOf k f s) j = candOf s j := tabGet_mod_other _ _ _ h
end OnCandOf

/-! `onTransferOf` changes entry `k` of `timing.transfer` alone. -/

section OnTransferOf
variable (k j : Nat) (f : Transfer → Transfer) (s : State)

@[simp] theorem onTransferOf_pending : (onTransferOf k f s).pending = s.pending := rfl
@[simp] theorem onTransferOf_free : (onTransferOf k f s).free = s.free := rfl
@[simp] theorem onTransferOf_ctrl : (onTransferOf k f s).ctrl = s.ctrl := rfl
@[simp] theorem onTransferOf_ev : (onTransferOf k f s).ev = s.ev := rfl
@[simp] theorem onTransferOf_fw : (onTransferOf k f s).fw = s.fw := rfl
@[simp] theorem onTransferOf_power : (onTransferOf k f s).power = s.power := rfl
@[simp] theorem onTransferOf_cross : (onTransferOf k f s).cross = s.cross := rfl
@[simp] theorem onTransferOf_pace : (onTransferOf k f s).pace = s.pace := rfl
@[simp] theorem onTransferOf_txp : (onTransferOf k f s).txp = s.txp := rfl
@[simp] theorem onTransferOf_txs : (onTransferOf k f s).txs = s.txs := rfl
@[simp] theorem onTransferOf_rxp : (onTransferOf k f s).rxp = s.rxp := rfl
@[simp] theorem onTransferOf_rxs : (onTransferOf k f s).rxs = s.rxs := rfl
@[simp] theorem onTransferOf_fecp : (onTransferOf k f s).fecp = s.fecp := rfl
@[simp] theorem onTransferOf_fecs : (onTransferOf k f s).fecs = s.fecs := rfl
@[simp] theorem onTransferOf_frame : (onTransferOf k f s).frame = s.frame := rfl
@[simp] theorem onTransferOf_hub : (onTransferOf k f s).hub = s.hub := rfl
@[simp] theorem onTransferOf_lane : (onTransferOf k f s).lane = s.lane := rfl
@[simp] theorem onTransferOf_hport : (onTransferOf k f s).hport = s.hport := rfl
@[simp] theorem onTransferOf_svc : (onTransferOf k f s).svc = s.svc := rfl
@[simp] theorem onTransferOf_cipher : (onTransferOf k f s).cipher = s.cipher := rfl
@[simp] theorem onTransferOf_bulk : (onTransferOf k f s).bulk = s.bulk := rfl
@[simp] theorem onTransferOf_timing : (onTransferOf k f s).timing = { s.timing with transfer := tabMod {} s.timing.transfer k f } := rfl
@[simp] theorem onTransferOf_cues : (onTransferOf k f s).cues = s.cues := rfl
@[simp] theorem onTransferOf_pair : (onTransferOf k f s).pair = s.pair := rfl
@[simp] theorem onTransferOf_mon : (onTransferOf k f s).mon = s.mon := rfl
@[simp] theorem onTransferOf_therm : (onTransferOf k f s).therm = s.therm := rfl
@[simp] theorem onTransferOf_flt : (onTransferOf k f s).flt = s.flt := rfl
@[simp] theorem onTransferOf_log : (onTransferOf k f s).log = s.log := rfl
@[simp] theorem onTransferOf_tracer : (onTransferOf k f s).tracer = s.tracer := rfl
@[simp] theorem onTransferOf_quiet : (onTransferOf k f s).quiet = s.quiet := rfl
theorem transferOf_apply : transferOf (onTransferOf k f s) j = if j = k then f (transferOf s k) else transferOf s j := tabGet_mod ..
@[simp] theorem transferOf_same : transferOf (onTransferOf k f s) k = f (transferOf s k) := tabGet_mod_same ..
theorem transferOf_other {k j : Nat} (h : j ≠ k) : transferOf (onTransferOf k f s) j = transferOf s j := tabGet_mod_other _ _ _ h
end OnTransferOf

/-! `onConvOf` changes entry `k` of `mon.conv` alone. -/

section OnConvOf
variable (k j : Nat) (f : Conv → Conv) (s : State)

@[simp] theorem onConvOf_pending : (onConvOf k f s).pending = s.pending := rfl
@[simp] theorem onConvOf_free : (onConvOf k f s).free = s.free := rfl
@[simp] theorem onConvOf_ctrl : (onConvOf k f s).ctrl = s.ctrl := rfl
@[simp] theorem onConvOf_ev : (onConvOf k f s).ev = s.ev := rfl
@[simp] theorem onConvOf_fw : (onConvOf k f s).fw = s.fw := rfl
@[simp] theorem onConvOf_power : (onConvOf k f s).power = s.power := rfl
@[simp] theorem onConvOf_cross : (onConvOf k f s).cross = s.cross := rfl
@[simp] theorem onConvOf_pace : (onConvOf k f s).pace = s.pace := rfl
@[simp] theorem onConvOf_txp : (onConvOf k f s).txp = s.txp := rfl
@[simp] theorem onConvOf_txs : (onConvOf k f s).txs = s.txs := rfl
@[simp] theorem onConvOf_rxp : (onConvOf k f s).rxp = s.rxp := rfl
@[simp] theorem onConvOf_rxs : (onConvOf k f s).rxs = s.rxs := rfl
@[simp] theorem onConvOf_fecp : (onConvOf k f s).fecp = s.fecp := rfl
@[simp] theorem onConvOf_fecs : (onConvOf k f s).fecs = s.fecs := rfl
@[simp] theorem onConvOf_frame : (onConvOf k f s).frame = s.frame := rfl
@[simp] theorem onConvOf_hub : (onConvOf k f s).hub = s.hub := rfl
@[simp] theorem onConvOf_lane : (onConvOf k f s).lane = s.lane := rfl
@[simp] theorem onConvOf_hport : (onConvOf k f s).hport = s.hport := rfl
@[simp] theorem onConvOf_svc : (onConvOf k f s).svc = s.svc := rfl
@[simp] theorem onConvOf_cipher : (onConvOf k f s).cipher = s.cipher := rfl
@[simp] theorem onConvOf_bulk : (onConvOf k f s).bulk = s.bulk := rfl
@[simp] theorem onConvOf_timing : (onConvOf k f s).timing = s.timing := rfl
@[simp] theorem onConvOf_cues : (onConvOf k f s).cues = s.cues := rfl
@[simp] theorem onConvOf_pair : (onConvOf k f s).pair = s.pair := rfl
@[simp] theorem onConvOf_mon : (onConvOf k f s).mon = { s.mon with conv := tabMod {} s.mon.conv k f } := rfl
@[simp] theorem onConvOf_therm : (onConvOf k f s).therm = s.therm := rfl
@[simp] theorem onConvOf_flt : (onConvOf k f s).flt = s.flt := rfl
@[simp] theorem onConvOf_log : (onConvOf k f s).log = s.log := rfl
@[simp] theorem onConvOf_tracer : (onConvOf k f s).tracer = s.tracer := rfl
@[simp] theorem onConvOf_quiet : (onConvOf k f s).quiet = s.quiet := rfl
theorem convOf_apply : convOf (onConvOf k f s) j = if j = k then f (convOf s k) else convOf s j := tabGet_mod ..
@[simp] theorem convOf_same : convOf (onConvOf k f s) k = f (convOf s k) := tabGet_mod_same ..
theorem convOf_other {k j : Nat} (h : j ≠ k) : convOf (onConvOf k f s) j = convOf s j := tabGet_mod_other _ _ _ h
end OnConvOf

/-! `onChanVal` changes entry `k` of `mon.chan` alone. -/

section OnChanVal
variable (k j : Nat) (f : ChanVal → ChanVal) (s : State)

@[simp] theorem onChanVal_pending : (onChanVal k f s).pending = s.pending := rfl
@[simp] theorem onChanVal_free : (onChanVal k f s).free = s.free := rfl
@[simp] theorem onChanVal_ctrl : (onChanVal k f s).ctrl = s.ctrl := rfl
@[simp] theorem onChanVal_ev : (onChanVal k f s).ev = s.ev := rfl
@[simp] theorem onChanVal_fw : (onChanVal k f s).fw = s.fw := rfl
@[simp] theorem onChanVal_power : (onChanVal k f s).power = s.power := rfl
@[simp] theorem onChanVal_cross : (onChanVal k f s).cross = s.cross := rfl
@[simp] theorem onChanVal_pace : (onChanVal k f s).pace = s.pace := rfl
@[simp] theorem onChanVal_txp : (onChanVal k f s).txp = s.txp := rfl
@[simp] theorem onChanVal_txs : (onChanVal k f s).txs = s.txs := rfl
@[simp] theorem onChanVal_rxp : (onChanVal k f s).rxp = s.rxp := rfl
@[simp] theorem onChanVal_rxs : (onChanVal k f s).rxs = s.rxs := rfl
@[simp] theorem onChanVal_fecp : (onChanVal k f s).fecp = s.fecp := rfl
@[simp] theorem onChanVal_fecs : (onChanVal k f s).fecs = s.fecs := rfl
@[simp] theorem onChanVal_frame : (onChanVal k f s).frame = s.frame := rfl
@[simp] theorem onChanVal_hub : (onChanVal k f s).hub = s.hub := rfl
@[simp] theorem onChanVal_lane : (onChanVal k f s).lane = s.lane := rfl
@[simp] theorem onChanVal_hport : (onChanVal k f s).hport = s.hport := rfl
@[simp] theorem onChanVal_svc : (onChanVal k f s).svc = s.svc := rfl
@[simp] theorem onChanVal_cipher : (onChanVal k f s).cipher = s.cipher := rfl
@[simp] theorem onChanVal_bulk : (onChanVal k f s).bulk = s.bulk := rfl
@[simp] theorem onChanVal_timing : (onChanVal k f s).timing = s.timing := rfl
@[simp] theorem onChanVal_cues : (onChanVal k f s).cues = s.cues := rfl
@[simp] theorem onChanVal_pair : (onChanVal k f s).pair = s.pair := rfl
@[simp] theorem onChanVal_mon : (onChanVal k f s).mon = { s.mon with chan := tabMod {} s.mon.chan k f } := rfl
@[simp] theorem onChanVal_therm : (onChanVal k f s).therm = s.therm := rfl
@[simp] theorem onChanVal_flt : (onChanVal k f s).flt = s.flt := rfl
@[simp] theorem onChanVal_log : (onChanVal k f s).log = s.log := rfl
@[simp] theorem onChanVal_tracer : (onChanVal k f s).tracer = s.tracer := rfl
@[simp] theorem onChanVal_quiet : (onChanVal k f s).quiet = s.quiet := rfl
theorem chanVal_apply : chanVal (onChanVal k f s) j = if j = k then f (chanVal s k) else chanVal s j := tabGet_mod ..
@[simp] theorem chanVal_same : chanVal (onChanVal k f s) k = f (chanVal s k) := tabGet_mod_same ..
theorem chanVal_other {k j : Nat} (h : j ≠ k) : chanVal (onChanVal k f s) j = chanVal s j := tabGet_mod_other _ _ _ h
end OnChanVal

/-! `onDieOf` changes entry `k` of `therm.die` alone. -/

section OnDieOf
variable (k j : Nat) (f : Die → Die) (s : State)

@[simp] theorem onDieOf_pending : (onDieOf k f s).pending = s.pending := rfl
@[simp] theorem onDieOf_free : (onDieOf k f s).free = s.free := rfl
@[simp] theorem onDieOf_ctrl : (onDieOf k f s).ctrl = s.ctrl := rfl
@[simp] theorem onDieOf_ev : (onDieOf k f s).ev = s.ev := rfl
@[simp] theorem onDieOf_fw : (onDieOf k f s).fw = s.fw := rfl
@[simp] theorem onDieOf_power : (onDieOf k f s).power = s.power := rfl
@[simp] theorem onDieOf_cross : (onDieOf k f s).cross = s.cross := rfl
@[simp] theorem onDieOf_pace : (onDieOf k f s).pace = s.pace := rfl
@[simp] theorem onDieOf_txp : (onDieOf k f s).txp = s.txp := rfl
@[simp] theorem onDieOf_txs : (onDieOf k f s).txs = s.txs := rfl
@[simp] theorem onDieOf_rxp : (onDieOf k f s).rxp = s.rxp := rfl
@[simp] theorem onDieOf_rxs : (onDieOf k f s).rxs = s.rxs := rfl
@[simp] theorem onDieOf_fecp : (onDieOf k f s).fecp = s.fecp := rfl
@[simp] theorem onDieOf_fecs : (onDieOf k f s).fecs = s.fecs := rfl
@[simp] theorem onDieOf_frame : (onDieOf k f s).frame = s.frame := rfl
@[simp] theorem onDieOf_hub : (onDieOf k f s).hub = s.hub := rfl
@[simp] theorem onDieOf_lane : (onDieOf k f s).lane = s.lane := rfl
@[simp] theorem onDieOf_hport : (onDieOf k f s).hport = s.hport := rfl
@[simp] theorem onDieOf_svc : (onDieOf k f s).svc = s.svc := rfl
@[simp] theorem onDieOf_cipher : (onDieOf k f s).cipher = s.cipher := rfl
@[simp] theorem onDieOf_bulk : (onDieOf k f s).bulk = s.bulk := rfl
@[simp] theorem onDieOf_timing : (onDieOf k f s).timing = s.timing := rfl
@[simp] theorem onDieOf_cues : (onDieOf k f s).cues = s.cues := rfl
@[simp] theorem onDieOf_pair : (onDieOf k f s).pair = s.pair := rfl
@[simp] theorem onDieOf_mon : (onDieOf k f s).mon = s.mon := rfl
@[simp] theorem onDieOf_therm : (onDieOf k f s).therm = { s.therm with die := tabMod {} s.therm.die k f } := rfl
@[simp] theorem onDieOf_flt : (onDieOf k f s).flt = s.flt := rfl
@[simp] theorem onDieOf_log : (onDieOf k f s).log = s.log := rfl
@[simp] theorem onDieOf_tracer : (onDieOf k f s).tracer = s.tracer := rfl
@[simp] theorem onDieOf_quiet : (onDieOf k f s).quiet = s.quiet := rfl
theorem dieOf_apply : dieOf (onDieOf k f s) j = if j = k then f (dieOf s k) else dieOf s j := tabGet_mod ..
@[simp] theorem dieOf_same : dieOf (onDieOf k f s) k = f (dieOf s k) := tabGet_mod_same ..
theorem dieOf_other {k j : Nat} (h : j ≠ k) : dieOf (onDieOf k f s) j = dieOf s j := tabGet_mod_other _ _ _ h
end OnDieOf

/-! `onCalVal` changes entry `k` of `therm.cal` alone. -/

section OnCalVal
variable (k j : Nat) (f : CalVal → CalVal) (s : State)

@[simp] theorem onCalVal_pending : (onCalVal k f s).pending = s.pending := rfl
@[simp] theorem onCalVal_free : (onCalVal k f s).free = s.free := rfl
@[simp] theorem onCalVal_ctrl : (onCalVal k f s).ctrl = s.ctrl := rfl
@[simp] theorem onCalVal_ev : (onCalVal k f s).ev = s.ev := rfl
@[simp] theorem onCalVal_fw : (onCalVal k f s).fw = s.fw := rfl
@[simp] theorem onCalVal_power : (onCalVal k f s).power = s.power := rfl
@[simp] theorem onCalVal_cross : (onCalVal k f s).cross = s.cross := rfl
@[simp] theorem onCalVal_pace : (onCalVal k f s).pace = s.pace := rfl
@[simp] theorem onCalVal_txp : (onCalVal k f s).txp = s.txp := rfl
@[simp] theorem onCalVal_txs : (onCalVal k f s).txs = s.txs := rfl
@[simp] theorem onCalVal_rxp : (onCalVal k f s).rxp = s.rxp := rfl
@[simp] theorem onCalVal_rxs : (onCalVal k f s).rxs = s.rxs := rfl
@[simp] theorem onCalVal_fecp : (onCalVal k f s).fecp = s.fecp := rfl
@[simp] theorem onCalVal_fecs : (onCalVal k f s).fecs = s.fecs := rfl
@[simp] theorem onCalVal_frame : (onCalVal k f s).frame = s.frame := rfl
@[simp] theorem onCalVal_hub : (onCalVal k f s).hub = s.hub := rfl
@[simp] theorem onCalVal_lane : (onCalVal k f s).lane = s.lane := rfl
@[simp] theorem onCalVal_hport : (onCalVal k f s).hport = s.hport := rfl
@[simp] theorem onCalVal_svc : (onCalVal k f s).svc = s.svc := rfl
@[simp] theorem onCalVal_cipher : (onCalVal k f s).cipher = s.cipher := rfl
@[simp] theorem onCalVal_bulk : (onCalVal k f s).bulk = s.bulk := rfl
@[simp] theorem onCalVal_timing : (onCalVal k f s).timing = s.timing := rfl
@[simp] theorem onCalVal_cues : (onCalVal k f s).cues = s.cues := rfl
@[simp] theorem onCalVal_pair : (onCalVal k f s).pair = s.pair := rfl
@[simp] theorem onCalVal_mon : (onCalVal k f s).mon = s.mon := rfl
@[simp] theorem onCalVal_therm : (onCalVal k f s).therm = { s.therm with cal := tabMod {} s.therm.cal k f } := rfl
@[simp] theorem onCalVal_flt : (onCalVal k f s).flt = s.flt := rfl
@[simp] theorem onCalVal_log : (onCalVal k f s).log = s.log := rfl
@[simp] theorem onCalVal_tracer : (onCalVal k f s).tracer = s.tracer := rfl
@[simp] theorem onCalVal_quiet : (onCalVal k f s).quiet = s.quiet := rfl
theorem calVal_apply : calVal (onCalVal k f s) j = if j = k then f (calVal s k) else calVal s j := tabGet_mod ..
@[simp] theorem calVal_same : calVal (onCalVal k f s) k = f (calVal s k) := tabGet_mod_same ..
theorem calVal_other {k j : Nat} (h : j ≠ k) : calVal (onCalVal k f s) j = calVal s j := tabGet_mod_other _ _ _ h
end OnCalVal

/-! `onLimitsOf` changes entry `k` of `cipher.limits` alone. -/

section OnLimitsOf
variable (k j : Nat) (f : Limits → Limits) (s : State)

@[simp] theorem onLimitsOf_pending : (onLimitsOf k f s).pending = s.pending := rfl
@[simp] theorem onLimitsOf_free : (onLimitsOf k f s).free = s.free := rfl
@[simp] theorem onLimitsOf_ctrl : (onLimitsOf k f s).ctrl = s.ctrl := rfl
@[simp] theorem onLimitsOf_ev : (onLimitsOf k f s).ev = s.ev := rfl
@[simp] theorem onLimitsOf_fw : (onLimitsOf k f s).fw = s.fw := rfl
@[simp] theorem onLimitsOf_power : (onLimitsOf k f s).power = s.power := rfl
@[simp] theorem onLimitsOf_cross : (onLimitsOf k f s).cross = s.cross := rfl
@[simp] theorem onLimitsOf_pace : (onLimitsOf k f s).pace = s.pace := rfl
@[simp] theorem onLimitsOf_txp : (onLimitsOf k f s).txp = s.txp := rfl
@[simp] theorem onLimitsOf_txs : (onLimitsOf k f s).txs = s.txs := rfl
@[simp] theorem onLimitsOf_rxp : (onLimitsOf k f s).rxp = s.rxp := rfl
@[simp] theorem onLimitsOf_rxs : (onLimitsOf k f s).rxs = s.rxs := rfl
@[simp] theorem onLimitsOf_fecp : (onLimitsOf k f s).fecp = s.fecp := rfl
@[simp] theorem onLimitsOf_fecs : (onLimitsOf k f s).fecs = s.fecs := rfl
@[simp] theorem onLimitsOf_frame : (onLimitsOf k f s).frame = s.frame := rfl
@[simp] theorem onLimitsOf_hub : (onLimitsOf k f s).hub = s.hub := rfl
@[simp] theorem onLimitsOf_lane : (onLimitsOf k f s).lane = s.lane := rfl
@[simp] theorem onLimitsOf_hport : (onLimitsOf k f s).hport = s.hport := rfl
@[simp] theorem onLimitsOf_svc : (onLimitsOf k f s).svc = s.svc := rfl
@[simp] theorem onLimitsOf_cipher : (onLimitsOf k f s).cipher = { s.cipher with limits := tabMod {} s.cipher.limits k f } := rfl
@[simp] theorem onLimitsOf_bulk : (onLimitsOf k f s).bulk = s.bulk := rfl
@[simp] theorem onLimitsOf_timing : (onLimitsOf k f s).timing = s.timing := rfl
@[simp] theorem onLimitsOf_cues : (onLimitsOf k f s).cues = s.cues := rfl
@[simp] theorem onLimitsOf_pair : (onLimitsOf k f s).pair = s.pair := rfl
@[simp] theorem onLimitsOf_mon : (onLimitsOf k f s).mon = s.mon := rfl
@[simp] theorem onLimitsOf_therm : (onLimitsOf k f s).therm = s.therm := rfl
@[simp] theorem onLimitsOf_flt : (onLimitsOf k f s).flt = s.flt := rfl
@[simp] theorem onLimitsOf_log : (onLimitsOf k f s).log = s.log := rfl
@[simp] theorem onLimitsOf_tracer : (onLimitsOf k f s).tracer = s.tracer := rfl
@[simp] theorem onLimitsOf_quiet : (onLimitsOf k f s).quiet = s.quiet := rfl
theorem limitsOf_apply : limitsOf (onLimitsOf k f s) j = if j = k then f (limitsOf s k) else limitsOf s j := tabGet_mod ..
@[simp] theorem limitsOf_same : limitsOf (onLimitsOf k f s) k = f (limitsOf s k) := tabGet_mod_same ..
theorem limitsOf_other {k j : Nat} (h : j ≠ k) : limitsOf (onLimitsOf k f s) j = limitsOf s j := tabGet_mod_other _ _ _ h
end OnLimitsOf

/-! `onProfileOf` changes entry `k` of `svc.profiles` alone. -/

section OnProfileOf
variable (k j : Nat) (f : Profile → Profile) (s : State)

@[simp] theorem onProfileOf_pending : (onProfileOf k f s).pending = s.pending := rfl
@[simp] theorem onProfileOf_free : (onProfileOf k f s).free = s.free := rfl
@[simp] theorem onProfileOf_ctrl : (onProfileOf k f s).ctrl = s.ctrl := rfl
@[simp] theorem onProfileOf_ev : (onProfileOf k f s).ev = s.ev := rfl
@[simp] theorem onProfileOf_fw : (onProfileOf k f s).fw = s.fw := rfl
@[simp] theorem onProfileOf_power : (onProfileOf k f s).power = s.power := rfl
@[simp] theorem onProfileOf_cross : (onProfileOf k f s).cross = s.cross := rfl
@[simp] theorem onProfileOf_pace : (onProfileOf k f s).pace = s.pace := rfl
@[simp] theorem onProfileOf_txp : (onProfileOf k f s).txp = s.txp := rfl
@[simp] theorem onProfileOf_txs : (onProfileOf k f s).txs = s.txs := rfl
@[simp] theorem onProfileOf_rxp : (onProfileOf k f s).rxp = s.rxp := rfl
@[simp] theorem onProfileOf_rxs : (onProfileOf k f s).rxs = s.rxs := rfl
@[simp] theorem onProfileOf_fecp : (onProfileOf k f s).fecp = s.fecp := rfl
@[simp] theorem onProfileOf_fecs : (onProfileOf k f s).fecs = s.fecs := rfl
@[simp] theorem onProfileOf_frame : (onProfileOf k f s).frame = s.frame := rfl
@[simp] theorem onProfileOf_hub : (onProfileOf k f s).hub = s.hub := rfl
@[simp] theorem onProfileOf_lane : (onProfileOf k f s).lane = s.lane := rfl
@[simp] theorem onProfileOf_hport : (onProfileOf k f s).hport = s.hport := rfl
@[simp] theorem onProfileOf_svc : (onProfileOf k f s).svc = { s.svc with profiles := tabMod {} s.svc.profiles k f } := rfl
@[simp] theorem onProfileOf_cipher : (onProfileOf k f s).cipher = s.cipher := rfl
@[simp] theorem onProfileOf_bulk : (onProfileOf k f s).bulk = s.bulk := rfl
@[simp] theorem onProfileOf_timing : (onProfileOf k f s).timing = s.timing := rfl
@[simp] theorem onProfileOf_cues : (onProfileOf k f s).cues = s.cues := rfl
@[simp] theorem onProfileOf_pair : (onProfileOf k f s).pair = s.pair := rfl
@[simp] theorem onProfileOf_mon : (onProfileOf k f s).mon = s.mon := rfl
@[simp] theorem onProfileOf_therm : (onProfileOf k f s).therm = s.therm := rfl
@[simp] theorem onProfileOf_flt : (onProfileOf k f s).flt = s.flt := rfl
@[simp] theorem onProfileOf_log : (onProfileOf k f s).log = s.log := rfl
@[simp] theorem onProfileOf_tracer : (onProfileOf k f s).tracer = s.tracer := rfl
@[simp] theorem onProfileOf_quiet : (onProfileOf k f s).quiet = s.quiet := rfl
theorem profileOf_apply : profileOf (onProfileOf k f s) j = if j = k then f (profileOf s k) else profileOf s j := tabGet_mod ..
@[simp] theorem profileOf_same : profileOf (onProfileOf k f s) k = f (profileOf s k) := tabGet_mod_same ..
theorem profileOf_other {k j : Nat} (h : j ≠ k) : profileOf (onProfileOf k f s) j = profileOf s j := tabGet_mod_other _ _ _ h
end OnProfileOf

/-! `onFifoOf` changes entry `k` of `cross.fifo` alone. -/

section OnFifoOf
variable (k j : Nat) (f : FifoSt → FifoSt) (s : State)

@[simp] theorem onFifoOf_pending : (onFifoOf k f s).pending = s.pending := rfl
@[simp] theorem onFifoOf_free : (onFifoOf k f s).free = s.free := rfl
@[simp] theorem onFifoOf_ctrl : (onFifoOf k f s).ctrl = s.ctrl := rfl
@[simp] theorem onFifoOf_ev : (onFifoOf k f s).ev = s.ev := rfl
@[simp] theorem onFifoOf_fw : (onFifoOf k f s).fw = s.fw := rfl
@[simp] theorem onFifoOf_power : (onFifoOf k f s).power = s.power := rfl
@[simp] theorem onFifoOf_cross : (onFifoOf k f s).cross = { s.cross with fifo := tabMod {} s.cross.fifo k f } := rfl
@[simp] theorem onFifoOf_pace : (onFifoOf k f s).pace = s.pace := rfl
@[simp] theorem onFifoOf_txp : (onFifoOf k f s).txp = s.txp := rfl
@[simp] theorem onFifoOf_txs : (onFifoOf k f s).txs = s.txs := rfl
@[simp] theorem onFifoOf_rxp : (onFifoOf k f s).rxp = s.rxp := rfl
@[simp] theorem onFifoOf_rxs : (onFifoOf k f s).rxs = s.rxs := rfl
@[simp] theorem onFifoOf_fecp : (onFifoOf k f s).fecp = s.fecp := rfl
@[simp] theorem onFifoOf_fecs : (onFifoOf k f s).fecs = s.fecs := rfl
@[simp] theorem onFifoOf_frame : (onFifoOf k f s).frame = s.frame := rfl
@[simp] theorem onFifoOf_hub : (onFifoOf k f s).hub = s.hub := rfl
@[simp] theorem onFifoOf_lane : (onFifoOf k f s).lane = s.lane := rfl
@[simp] theorem onFifoOf_hport : (onFifoOf k f s).hport = s.hport := rfl
@[simp] theorem onFifoOf_svc : (onFifoOf k f s).svc = s.svc := rfl
@[simp] theorem onFifoOf_cipher : (onFifoOf k f s).cipher = s.cipher := rfl
@[simp] theorem onFifoOf_bulk : (onFifoOf k f s).bulk = s.bulk := rfl
@[simp] theorem onFifoOf_timing : (onFifoOf k f s).timing = s.timing := rfl
@[simp] theorem onFifoOf_cues : (onFifoOf k f s).cues = s.cues := rfl
@[simp] theorem onFifoOf_pair : (onFifoOf k f s).pair = s.pair := rfl
@[simp] theorem onFifoOf_mon : (onFifoOf k f s).mon = s.mon := rfl
@[simp] theorem onFifoOf_therm : (onFifoOf k f s).therm = s.therm := rfl
@[simp] theorem onFifoOf_flt : (onFifoOf k f s).flt = s.flt := rfl
@[simp] theorem onFifoOf_log : (onFifoOf k f s).log = s.log := rfl
@[simp] theorem onFifoOf_tracer : (onFifoOf k f s).tracer = s.tracer := rfl
@[simp] theorem onFifoOf_quiet : (onFifoOf k f s).quiet = s.quiet := rfl
theorem fifoOf_apply : fifoOf (onFifoOf k f s) j = if j = k then f (fifoOf s k) else fifoOf s j := tabGet_mod ..
@[simp] theorem fifoOf_same : fifoOf (onFifoOf k f s) k = f (fifoOf s k) := tabGet_mod_same ..
theorem fifoOf_other {k j : Nat} (h : j ≠ k) : fifoOf (onFifoOf k f s) j = fifoOf s j := tabGet_mod_other _ _ _ h
end OnFifoOf

/-! `onMergedOf` changes entry `k` of `cross.merged` alone. -/

section OnMergedOf
variable (k j : Nat) (f : MergedSt → MergedSt) (s : State)

@[simp] theorem onMergedOf_pending : (onMergedOf k f s).pending = s.pending := rfl
@[simp] theorem onMergedOf_free : (onMergedOf k f s).free = s.free := rfl
@[simp] theorem onMergedOf_ctrl : (onMergedOf k f s).ctrl = s.ctrl := rfl
@[simp] theorem onMergedOf_ev : (onMergedOf k f s).ev = s.ev := rfl
@[simp] theorem onMergedOf_fw : (onMergedOf k f s).fw = s.fw := rfl
@[simp] theorem onMergedOf_power : (onMergedOf k f s).power = s.power := rfl
@[simp] theorem onMergedOf_cross : (onMergedOf k f s).cross = { s.cross with merged := tabMod {} s.cross.merged k f } := rfl
@[simp] theorem onMergedOf_pace : (onMergedOf k f s).pace = s.pace := rfl
@[simp] theorem onMergedOf_txp : (onMergedOf k f s).txp = s.txp := rfl
@[simp] theorem onMergedOf_txs : (onMergedOf k f s).txs = s.txs := rfl
@[simp] theorem onMergedOf_rxp : (onMergedOf k f s).rxp = s.rxp := rfl
@[simp] theorem onMergedOf_rxs : (onMergedOf k f s).rxs = s.rxs := rfl
@[simp] theorem onMergedOf_fecp : (onMergedOf k f s).fecp = s.fecp := rfl
@[simp] theorem onMergedOf_fecs : (onMergedOf k f s).fecs = s.fecs := rfl
@[simp] theorem onMergedOf_frame : (onMergedOf k f s).frame = s.frame := rfl
@[simp] theorem onMergedOf_hub : (onMergedOf k f s).hub = s.hub := rfl
@[simp] theorem onMergedOf_lane : (onMergedOf k f s).lane = s.lane := rfl
@[simp] theorem onMergedOf_hport : (onMergedOf k f s).hport = s.hport := rfl
@[simp] theorem onMergedOf_svc : (onMergedOf k f s).svc = s.svc := rfl
@[simp] theorem onMergedOf_cipher : (onMergedOf k f s).cipher = s.cipher := rfl
@[simp] theorem onMergedOf_bulk : (onMergedOf k f s).bulk = s.bulk := rfl
@[simp] theorem onMergedOf_timing : (onMergedOf k f s).timing = s.timing := rfl
@[simp] theorem onMergedOf_cues : (onMergedOf k f s).cues = s.cues := rfl
@[simp] theorem onMergedOf_pair : (onMergedOf k f s).pair = s.pair := rfl
@[simp] theorem onMergedOf_mon : (onMergedOf k f s).mon = s.mon := rfl
@[simp] theorem onMergedOf_therm : (onMergedOf k f s).therm = s.therm := rfl
@[simp] theorem onMergedOf_flt : (onMergedOf k f s).flt = s.flt := rfl
@[simp] theorem onMergedOf_log : (onMergedOf k f s).log = s.log := rfl
@[simp] theorem onMergedOf_tracer : (onMergedOf k f s).tracer = s.tracer := rfl
@[simp] theorem onMergedOf_quiet : (onMergedOf k f s).quiet = s.quiet := rfl
theorem mergedOf_apply : mergedOf (onMergedOf k f s) j = if j = k then f (mergedOf s k) else mergedOf s j := tabGet_mod ..
@[simp] theorem mergedOf_same : mergedOf (onMergedOf k f s) k = f (mergedOf s k) := tabGet_mod_same ..
theorem mergedOf_other {k j : Nat} (h : j ≠ k) : mergedOf (onMergedOf k f s) j = mergedOf s j := tabGet_mod_other _ _ _ h
end OnMergedOf

/-! `onHoldOf` changes entry `k` of `cross.hold` alone. -/

section OnHoldOf
variable (k j : Nat) (f : HoldSt → HoldSt) (s : State)

@[simp] theorem onHoldOf_pending : (onHoldOf k f s).pending = s.pending := rfl
@[simp] theorem onHoldOf_free : (onHoldOf k f s).free = s.free := rfl
@[simp] theorem onHoldOf_ctrl : (onHoldOf k f s).ctrl = s.ctrl := rfl
@[simp] theorem onHoldOf_ev : (onHoldOf k f s).ev = s.ev := rfl
@[simp] theorem onHoldOf_fw : (onHoldOf k f s).fw = s.fw := rfl
@[simp] theorem onHoldOf_power : (onHoldOf k f s).power = s.power := rfl
@[simp] theorem onHoldOf_cross : (onHoldOf k f s).cross = { s.cross with hold := tabMod {} s.cross.hold k f } := rfl
@[simp] theorem onHoldOf_pace : (onHoldOf k f s).pace = s.pace := rfl
@[simp] theorem onHoldOf_txp : (onHoldOf k f s).txp = s.txp := rfl
@[simp] theorem onHoldOf_txs : (onHoldOf k f s).txs = s.txs := rfl
@[simp] theorem onHoldOf_rxp : (onHoldOf k f s).rxp = s.rxp := rfl
@[simp] theorem onHoldOf_rxs : (onHoldOf k f s).rxs = s.rxs := rfl
@[simp] theorem onHoldOf_fecp : (onHoldOf k f s).fecp = s.fecp := rfl
@[simp] theorem onHoldOf_fecs : (onHoldOf k f s).fecs = s.fecs := rfl
@[simp] theorem onHoldOf_frame : (onHoldOf k f s).frame = s.frame := rfl
@[simp] theorem onHoldOf_hub : (onHoldOf k f s).hub = s.hub := rfl
@[simp] theorem onHoldOf_lane : (onHoldOf k f s).lane = s.lane := rfl
@[simp] theorem onHoldOf_hport : (onHoldOf k f s).hport = s.hport := rfl
@[simp] theorem onHoldOf_svc : (onHoldOf k f s).svc = s.svc := rfl
@[simp] theorem onHoldOf_cipher : (onHoldOf k f s).cipher = s.cipher := rfl
@[simp] theorem onHoldOf_bulk : (onHoldOf k f s).bulk = s.bulk := rfl
@[simp] theorem onHoldOf_timing : (onHoldOf k f s).timing = s.timing := rfl
@[simp] theorem onHoldOf_cues : (onHoldOf k f s).cues = s.cues := rfl
@[simp] theorem onHoldOf_pair : (onHoldOf k f s).pair = s.pair := rfl
@[simp] theorem onHoldOf_mon : (onHoldOf k f s).mon = s.mon := rfl
@[simp] theorem onHoldOf_therm : (onHoldOf k f s).therm = s.therm := rfl
@[simp] theorem onHoldOf_flt : (onHoldOf k f s).flt = s.flt := rfl
@[simp] theorem onHoldOf_log : (onHoldOf k f s).log = s.log := rfl
@[simp] theorem onHoldOf_tracer : (onHoldOf k f s).tracer = s.tracer := rfl
@[simp] theorem onHoldOf_quiet : (onHoldOf k f s).quiet = s.quiet := rfl
theorem holdOf_apply : holdOf (onHoldOf k f s) j = if j = k then f (holdOf s k) else holdOf s j := tabGet_mod ..
@[simp] theorem holdOf_same : holdOf (onHoldOf k f s) k = f (holdOf s k) := tabGet_mod_same ..
theorem holdOf_other {k j : Nat} (h : j ≠ k) : holdOf (onHoldOf k f s) j = holdOf s j := tabGet_mod_other _ _ _ h
end OnHoldOf

/-! `onCtrl` changes `ctrl` alone. -/

section OnCtrl
variable (f : Ctrl → Ctrl) (s : State)

@[simp] theorem onCtrl_pending : (onCtrl f s).pending = s.pending := rfl
@[simp] theorem onCtrl_free : (onCtrl f s).free = s.free := rfl
@[simp] theorem onCtrl_ctrl : (onCtrl f s).ctrl = f s.ctrl := rfl
@[simp] theorem onCtrl_ev : (onCtrl f s).ev = s.ev := rfl
@[simp] theorem onCtrl_fw : (onCtrl f s).fw = s.fw := rfl
@[simp] theorem onCtrl_power : (onCtrl f s).power = s.power := rfl
@[simp] theorem onCtrl_cross : (onCtrl f s).cross = s.cross := rfl
@[simp] theorem onCtrl_pace : (onCtrl f s).pace = s.pace := rfl
@[simp] theorem onCtrl_txp : (onCtrl f s).txp = s.txp := rfl
@[simp] theorem onCtrl_txs : (onCtrl f s).txs = s.txs := rfl
@[simp] theorem onCtrl_rxp : (onCtrl f s).rxp = s.rxp := rfl
@[simp] theorem onCtrl_rxs : (onCtrl f s).rxs = s.rxs := rfl
@[simp] theorem onCtrl_fecp : (onCtrl f s).fecp = s.fecp := rfl
@[simp] theorem onCtrl_fecs : (onCtrl f s).fecs = s.fecs := rfl
@[simp] theorem onCtrl_frame : (onCtrl f s).frame = s.frame := rfl
@[simp] theorem onCtrl_hub : (onCtrl f s).hub = s.hub := rfl
@[simp] theorem onCtrl_lane : (onCtrl f s).lane = s.lane := rfl
@[simp] theorem onCtrl_hport : (onCtrl f s).hport = s.hport := rfl
@[simp] theorem onCtrl_svc : (onCtrl f s).svc = s.svc := rfl
@[simp] theorem onCtrl_cipher : (onCtrl f s).cipher = s.cipher := rfl
@[simp] theorem onCtrl_bulk : (onCtrl f s).bulk = s.bulk := rfl
@[simp] theorem onCtrl_timing : (onCtrl f s).timing = s.timing := rfl
@[simp] theorem onCtrl_cues : (onCtrl f s).cues = s.cues := rfl
@[simp] theorem onCtrl_pair : (onCtrl f s).pair = s.pair := rfl
@[simp] theorem onCtrl_mon : (onCtrl f s).mon = s.mon := rfl
@[simp] theorem onCtrl_therm : (onCtrl f s).therm = s.therm := rfl
@[simp] theorem onCtrl_flt : (onCtrl f s).flt = s.flt := rfl
@[simp] theorem onCtrl_log : (onCtrl f s).log = s.log := rfl
@[simp] theorem onCtrl_tracer : (onCtrl f s).tracer = s.tracer := rfl
@[simp] theorem onCtrl_quiet : (onCtrl f s).quiet = s.quiet := rfl
end OnCtrl

/-! `onEv` changes `ev` alone. -/

section OnEv
variable (f : EvSt → EvSt) (s : State)

@[simp] theorem onEv_pending : (onEv f s).pending = s.pending := rfl
@[simp] theorem onEv_free : (onEv f s).free = s.free := rfl
@[simp] theorem onEv_ctrl : (onEv f s).ctrl = s.ctrl := rfl
@[simp] theorem onEv_ev : (onEv f s).ev = f s.ev := rfl
@[simp] theorem onEv_fw : (onEv f s).fw = s.fw := rfl
@[simp] theorem onEv_power : (onEv f s).power = s.power := rfl
@[simp] theorem onEv_cross : (onEv f s).cross = s.cross := rfl
@[simp] theorem onEv_pace : (onEv f s).pace = s.pace := rfl
@[simp] theorem onEv_txp : (onEv f s).txp = s.txp := rfl
@[simp] theorem onEv_txs : (onEv f s).txs = s.txs := rfl
@[simp] theorem onEv_rxp : (onEv f s).rxp = s.rxp := rfl
@[simp] theorem onEv_rxs : (onEv f s).rxs = s.rxs := rfl
@[simp] theorem onEv_fecp : (onEv f s).fecp = s.fecp := rfl
@[simp] theorem onEv_fecs : (onEv f s).fecs = s.fecs := rfl
@[simp] theorem onEv_frame : (onEv f s).frame = s.frame := rfl
@[simp] theorem onEv_hub : (onEv f s).hub = s.hub := rfl
@[simp] theorem onEv_lane : (onEv f s).lane = s.lane := rfl
@[simp] theorem onEv_hport : (onEv f s).hport = s.hport := rfl
@[simp] theorem onEv_svc : (onEv f s).svc = s.svc := rfl
@[simp] theorem onEv_cipher : (onEv f s).cipher = s.cipher := rfl
@[simp] theorem onEv_bulk : (onEv f s).bulk = s.bulk := rfl
@[simp] theorem onEv_timing : (onEv f s).timing = s.timing := rfl
@[simp] theorem onEv_cues : (onEv f s).cues = s.cues := rfl
@[simp] theorem onEv_pair : (onEv f s).pair = s.pair := rfl
@[simp] theorem onEv_mon : (onEv f s).mon = s.mon := rfl
@[simp] theorem onEv_therm : (onEv f s).therm = s.therm := rfl
@[simp] theorem onEv_flt : (onEv f s).flt = s.flt := rfl
@[simp] theorem onEv_log : (onEv f s).log = s.log := rfl
@[simp] theorem onEv_tracer : (onEv f s).tracer = s.tracer := rfl
@[simp] theorem onEv_quiet : (onEv f s).quiet = s.quiet := rfl
end OnEv

/-! `onFw` changes `fw` alone. -/

section OnFw
variable (f : Fw → Fw) (s : State)

@[simp] theorem onFw_pending : (onFw f s).pending = s.pending := rfl
@[simp] theorem onFw_free : (onFw f s).free = s.free := rfl
@[simp] theorem onFw_ctrl : (onFw f s).ctrl = s.ctrl := rfl
@[simp] theorem onFw_ev : (onFw f s).ev = s.ev := rfl
@[simp] theorem onFw_fw : (onFw f s).fw = f s.fw := rfl
@[simp] theorem onFw_power : (onFw f s).power = s.power := rfl
@[simp] theorem onFw_cross : (onFw f s).cross = s.cross := rfl
@[simp] theorem onFw_pace : (onFw f s).pace = s.pace := rfl
@[simp] theorem onFw_txp : (onFw f s).txp = s.txp := rfl
@[simp] theorem onFw_txs : (onFw f s).txs = s.txs := rfl
@[simp] theorem onFw_rxp : (onFw f s).rxp = s.rxp := rfl
@[simp] theorem onFw_rxs : (onFw f s).rxs = s.rxs := rfl
@[simp] theorem onFw_fecp : (onFw f s).fecp = s.fecp := rfl
@[simp] theorem onFw_fecs : (onFw f s).fecs = s.fecs := rfl
@[simp] theorem onFw_frame : (onFw f s).frame = s.frame := rfl
@[simp] theorem onFw_hub : (onFw f s).hub = s.hub := rfl
@[simp] theorem onFw_lane : (onFw f s).lane = s.lane := rfl
@[simp] theorem onFw_hport : (onFw f s).hport = s.hport := rfl
@[simp] theorem onFw_svc : (onFw f s).svc = s.svc := rfl
@[simp] theorem onFw_cipher : (onFw f s).cipher = s.cipher := rfl
@[simp] theorem onFw_bulk : (onFw f s).bulk = s.bulk := rfl
@[simp] theorem onFw_timing : (onFw f s).timing = s.timing := rfl
@[simp] theorem onFw_cues : (onFw f s).cues = s.cues := rfl
@[simp] theorem onFw_pair : (onFw f s).pair = s.pair := rfl
@[simp] theorem onFw_mon : (onFw f s).mon = s.mon := rfl
@[simp] theorem onFw_therm : (onFw f s).therm = s.therm := rfl
@[simp] theorem onFw_flt : (onFw f s).flt = s.flt := rfl
@[simp] theorem onFw_log : (onFw f s).log = s.log := rfl
@[simp] theorem onFw_tracer : (onFw f s).tracer = s.tracer := rfl
@[simp] theorem onFw_quiet : (onFw f s).quiet = s.quiet := rfl
end OnFw

/-! `onPower` changes `power` alone. -/

section OnPower
variable (f : PowerSt → PowerSt) (s : State)

@[simp] theorem onPower_pending : (onPower f s).pending = s.pending := rfl
@[simp] theorem onPower_free : (onPower f s).free = s.free := rfl
@[simp] theorem onPower_ctrl : (onPower f s).ctrl = s.ctrl := rfl
@[simp] theorem onPower_ev : (onPower f s).ev = s.ev := rfl
@[simp] theorem onPower_fw : (onPower f s).fw = s.fw := rfl
@[simp] theorem onPower_power : (onPower f s).power = f s.power := rfl
@[simp] theorem onPower_cross : (onPower f s).cross = s.cross := rfl
@[simp] theorem onPower_pace : (onPower f s).pace = s.pace := rfl
@[simp] theorem onPower_txp : (onPower f s).txp = s.txp := rfl
@[simp] theorem onPower_txs : (onPower f s).txs = s.txs := rfl
@[simp] theorem onPower_rxp : (onPower f s).rxp = s.rxp := rfl
@[simp] theorem onPower_rxs : (onPower f s).rxs = s.rxs := rfl
@[simp] theorem onPower_fecp : (onPower f s).fecp = s.fecp := rfl
@[simp] theorem onPower_fecs : (onPower f s).fecs = s.fecs := rfl
@[simp] theorem onPower_frame : (onPower f s).frame = s.frame := rfl
@[simp] theorem onPower_hub : (onPower f s).hub = s.hub := rfl
@[simp] theorem onPower_lane : (onPower f s).lane = s.lane := rfl
@[simp] theorem onPower_hport : (onPower f s).hport = s.hport := rfl
@[simp] theorem onPower_svc : (onPower f s).svc = s.svc := rfl
@[simp] theorem onPower_cipher : (onPower f s).cipher = s.cipher := rfl
@[simp] theorem onPower_bulk : (onPower f s).bulk = s.bulk := rfl
@[simp] theorem onPower_timing : (onPower f s).timing = s.timing := rfl
@[simp] theorem onPower_cues : (onPower f s).cues = s.cues := rfl
@[simp] theorem onPower_pair : (onPower f s).pair = s.pair := rfl
@[simp] theorem onPower_mon : (onPower f s).mon = s.mon := rfl
@[simp] theorem onPower_therm : (onPower f s).therm = s.therm := rfl
@[simp] theorem onPower_flt : (onPower f s).flt = s.flt := rfl
@[simp] theorem onPower_log : (onPower f s).log = s.log := rfl
@[simp] theorem onPower_tracer : (onPower f s).tracer = s.tracer := rfl
@[simp] theorem onPower_quiet : (onPower f s).quiet = s.quiet := rfl
end OnPower

/-! `onCross` changes `cross` alone. -/

section OnCross
variable (f : Crossings → Crossings) (s : State)

@[simp] theorem onCross_pending : (onCross f s).pending = s.pending := rfl
@[simp] theorem onCross_free : (onCross f s).free = s.free := rfl
@[simp] theorem onCross_ctrl : (onCross f s).ctrl = s.ctrl := rfl
@[simp] theorem onCross_ev : (onCross f s).ev = s.ev := rfl
@[simp] theorem onCross_fw : (onCross f s).fw = s.fw := rfl
@[simp] theorem onCross_power : (onCross f s).power = s.power := rfl
@[simp] theorem onCross_cross : (onCross f s).cross = f s.cross := rfl
@[simp] theorem onCross_pace : (onCross f s).pace = s.pace := rfl
@[simp] theorem onCross_txp : (onCross f s).txp = s.txp := rfl
@[simp] theorem onCross_txs : (onCross f s).txs = s.txs := rfl
@[simp] theorem onCross_rxp : (onCross f s).rxp = s.rxp := rfl
@[simp] theorem onCross_rxs : (onCross f s).rxs = s.rxs := rfl
@[simp] theorem onCross_fecp : (onCross f s).fecp = s.fecp := rfl
@[simp] theorem onCross_fecs : (onCross f s).fecs = s.fecs := rfl
@[simp] theorem onCross_frame : (onCross f s).frame = s.frame := rfl
@[simp] theorem onCross_hub : (onCross f s).hub = s.hub := rfl
@[simp] theorem onCross_lane : (onCross f s).lane = s.lane := rfl
@[simp] theorem onCross_hport : (onCross f s).hport = s.hport := rfl
@[simp] theorem onCross_svc : (onCross f s).svc = s.svc := rfl
@[simp] theorem onCross_cipher : (onCross f s).cipher = s.cipher := rfl
@[simp] theorem onCross_bulk : (onCross f s).bulk = s.bulk := rfl
@[simp] theorem onCross_timing : (onCross f s).timing = s.timing := rfl
@[simp] theorem onCross_cues : (onCross f s).cues = s.cues := rfl
@[simp] theorem onCross_pair : (onCross f s).pair = s.pair := rfl
@[simp] theorem onCross_mon : (onCross f s).mon = s.mon := rfl
@[simp] theorem onCross_therm : (onCross f s).therm = s.therm := rfl
@[simp] theorem onCross_flt : (onCross f s).flt = s.flt := rfl
@[simp] theorem onCross_log : (onCross f s).log = s.log := rfl
@[simp] theorem onCross_tracer : (onCross f s).tracer = s.tracer := rfl
@[simp] theorem onCross_quiet : (onCross f s).quiet = s.quiet := rfl
end OnCross

/-! `onFrameSt` changes `frame` alone. -/

section OnFrameSt
variable (f : FrameSt → FrameSt) (s : State)

@[simp] theorem onFrameSt_pending : (onFrameSt f s).pending = s.pending := rfl
@[simp] theorem onFrameSt_free : (onFrameSt f s).free = s.free := rfl
@[simp] theorem onFrameSt_ctrl : (onFrameSt f s).ctrl = s.ctrl := rfl
@[simp] theorem onFrameSt_ev : (onFrameSt f s).ev = s.ev := rfl
@[simp] theorem onFrameSt_fw : (onFrameSt f s).fw = s.fw := rfl
@[simp] theorem onFrameSt_power : (onFrameSt f s).power = s.power := rfl
@[simp] theorem onFrameSt_cross : (onFrameSt f s).cross = s.cross := rfl
@[simp] theorem onFrameSt_pace : (onFrameSt f s).pace = s.pace := rfl
@[simp] theorem onFrameSt_txp : (onFrameSt f s).txp = s.txp := rfl
@[simp] theorem onFrameSt_txs : (onFrameSt f s).txs = s.txs := rfl
@[simp] theorem onFrameSt_rxp : (onFrameSt f s).rxp = s.rxp := rfl
@[simp] theorem onFrameSt_rxs : (onFrameSt f s).rxs = s.rxs := rfl
@[simp] theorem onFrameSt_fecp : (onFrameSt f s).fecp = s.fecp := rfl
@[simp] theorem onFrameSt_fecs : (onFrameSt f s).fecs = s.fecs := rfl
@[simp] theorem onFrameSt_frame : (onFrameSt f s).frame = f s.frame := rfl
@[simp] theorem onFrameSt_hub : (onFrameSt f s).hub = s.hub := rfl
@[simp] theorem onFrameSt_lane : (onFrameSt f s).lane = s.lane := rfl
@[simp] theorem onFrameSt_hport : (onFrameSt f s).hport = s.hport := rfl
@[simp] theorem onFrameSt_svc : (onFrameSt f s).svc = s.svc := rfl
@[simp] theorem onFrameSt_cipher : (onFrameSt f s).cipher = s.cipher := rfl
@[simp] theorem onFrameSt_bulk : (onFrameSt f s).bulk = s.bulk := rfl
@[simp] theorem onFrameSt_timing : (onFrameSt f s).timing = s.timing := rfl
@[simp] theorem onFrameSt_cues : (onFrameSt f s).cues = s.cues := rfl
@[simp] theorem onFrameSt_pair : (onFrameSt f s).pair = s.pair := rfl
@[simp] theorem onFrameSt_mon : (onFrameSt f s).mon = s.mon := rfl
@[simp] theorem onFrameSt_therm : (onFrameSt f s).therm = s.therm := rfl
@[simp] theorem onFrameSt_flt : (onFrameSt f s).flt = s.flt := rfl
@[simp] theorem onFrameSt_log : (onFrameSt f s).log = s.log := rfl
@[simp] theorem onFrameSt_tracer : (onFrameSt f s).tracer = s.tracer := rfl
@[simp] theorem onFrameSt_quiet : (onFrameSt f s).quiet = s.quiet := rfl
end OnFrameSt

/-! `onSvc` changes `svc` alone. -/

section OnSvc
variable (f : Service → Service) (s : State)

@[simp] theorem onSvc_pending : (onSvc f s).pending = s.pending := rfl
@[simp] theorem onSvc_free : (onSvc f s).free = s.free := rfl
@[simp] theorem onSvc_ctrl : (onSvc f s).ctrl = s.ctrl := rfl
@[simp] theorem onSvc_ev : (onSvc f s).ev = s.ev := rfl
@[simp] theorem onSvc_fw : (onSvc f s).fw = s.fw := rfl
@[simp] theorem onSvc_power : (onSvc f s).power = s.power := rfl
@[simp] theorem onSvc_cross : (onSvc f s).cross = s.cross := rfl
@[simp] theorem onSvc_pace : (onSvc f s).pace = s.pace := rfl
@[simp] theorem onSvc_txp : (onSvc f s).txp = s.txp := rfl
@[simp] theorem onSvc_txs : (onSvc f s).txs = s.txs := rfl
@[simp] theorem onSvc_rxp : (onSvc f s).rxp = s.rxp := rfl
@[simp] theorem onSvc_rxs : (onSvc f s).rxs = s.rxs := rfl
@[simp] theorem onSvc_fecp : (onSvc f s).fecp = s.fecp := rfl
@[simp] theorem onSvc_fecs : (onSvc f s).fecs = s.fecs := rfl
@[simp] theorem onSvc_frame : (onSvc f s).frame = s.frame := rfl
@[simp] theorem onSvc_hub : (onSvc f s).hub = s.hub := rfl
@[simp] theorem onSvc_lane : (onSvc f s).lane = s.lane := rfl
@[simp] theorem onSvc_hport : (onSvc f s).hport = s.hport := rfl
@[simp] theorem onSvc_svc : (onSvc f s).svc = f s.svc := rfl
@[simp] theorem onSvc_cipher : (onSvc f s).cipher = s.cipher := rfl
@[simp] theorem onSvc_bulk : (onSvc f s).bulk = s.bulk := rfl
@[simp] theorem onSvc_timing : (onSvc f s).timing = s.timing := rfl
@[simp] theorem onSvc_cues : (onSvc f s).cues = s.cues := rfl
@[simp] theorem onSvc_pair : (onSvc f s).pair = s.pair := rfl
@[simp] theorem onSvc_mon : (onSvc f s).mon = s.mon := rfl
@[simp] theorem onSvc_therm : (onSvc f s).therm = s.therm := rfl
@[simp] theorem onSvc_flt : (onSvc f s).flt = s.flt := rfl
@[simp] theorem onSvc_log : (onSvc f s).log = s.log := rfl
@[simp] theorem onSvc_tracer : (onSvc f s).tracer = s.tracer := rfl
@[simp] theorem onSvc_quiet : (onSvc f s).quiet = s.quiet := rfl
end OnSvc

/-! `onCipher` changes `cipher` alone. -/

section OnCipher
variable (f : Cipher → Cipher) (s : State)

@[simp] theorem onCipher_pending : (onCipher f s).pending = s.pending := rfl
@[simp] theorem onCipher_free : (onCipher f s).free = s.free := rfl
@[simp] theorem onCipher_ctrl : (onCipher f s).ctrl = s.ctrl := rfl
@[simp] theorem onCipher_ev : (onCipher f s).ev = s.ev := rfl
@[simp] theorem onCipher_fw : (onCipher f s).fw = s.fw := rfl
@[simp] theorem onCipher_power : (onCipher f s).power = s.power := rfl
@[simp] theorem onCipher_cross : (onCipher f s).cross = s.cross := rfl
@[simp] theorem onCipher_pace : (onCipher f s).pace = s.pace := rfl
@[simp] theorem onCipher_txp : (onCipher f s).txp = s.txp := rfl
@[simp] theorem onCipher_txs : (onCipher f s).txs = s.txs := rfl
@[simp] theorem onCipher_rxp : (onCipher f s).rxp = s.rxp := rfl
@[simp] theorem onCipher_rxs : (onCipher f s).rxs = s.rxs := rfl
@[simp] theorem onCipher_fecp : (onCipher f s).fecp = s.fecp := rfl
@[simp] theorem onCipher_fecs : (onCipher f s).fecs = s.fecs := rfl
@[simp] theorem onCipher_frame : (onCipher f s).frame = s.frame := rfl
@[simp] theorem onCipher_hub : (onCipher f s).hub = s.hub := rfl
@[simp] theorem onCipher_lane : (onCipher f s).lane = s.lane := rfl
@[simp] theorem onCipher_hport : (onCipher f s).hport = s.hport := rfl
@[simp] theorem onCipher_svc : (onCipher f s).svc = s.svc := rfl
@[simp] theorem onCipher_cipher : (onCipher f s).cipher = f s.cipher := rfl
@[simp] theorem onCipher_bulk : (onCipher f s).bulk = s.bulk := rfl
@[simp] theorem onCipher_timing : (onCipher f s).timing = s.timing := rfl
@[simp] theorem onCipher_cues : (onCipher f s).cues = s.cues := rfl
@[simp] theorem onCipher_pair : (onCipher f s).pair = s.pair := rfl
@[simp] theorem onCipher_mon : (onCipher f s).mon = s.mon := rfl
@[simp] theorem onCipher_therm : (onCipher f s).therm = s.therm := rfl
@[simp] theorem onCipher_flt : (onCipher f s).flt = s.flt := rfl
@[simp] theorem onCipher_log : (onCipher f s).log = s.log := rfl
@[simp] theorem onCipher_tracer : (onCipher f s).tracer = s.tracer := rfl
@[simp] theorem onCipher_quiet : (onCipher f s).quiet = s.quiet := rfl
end OnCipher

/-! `onBulk` changes `bulk` alone. -/

section OnBulk
variable (f : Bulk → Bulk) (s : State)

@[simp] theorem onBulk_pending : (onBulk f s).pending = s.pending := rfl
@[simp] theorem onBulk_free : (onBulk f s).free = s.free := rfl
@[simp] theorem onBulk_ctrl : (onBulk f s).ctrl = s.ctrl := rfl
@[simp] theorem onBulk_ev : (onBulk f s).ev = s.ev := rfl
@[simp] theorem onBulk_fw : (onBulk f s).fw = s.fw := rfl
@[simp] theorem onBulk_power : (onBulk f s).power = s.power := rfl
@[simp] theorem onBulk_cross : (onBulk f s).cross = s.cross := rfl
@[simp] theorem onBulk_pace : (onBulk f s).pace = s.pace := rfl
@[simp] theorem onBulk_txp : (onBulk f s).txp = s.txp := rfl
@[simp] theorem onBulk_txs : (onBulk f s).txs = s.txs := rfl
@[simp] theorem onBulk_rxp : (onBulk f s).rxp = s.rxp := rfl
@[simp] theorem onBulk_rxs : (onBulk f s).rxs = s.rxs := rfl
@[simp] theorem onBulk_fecp : (onBulk f s).fecp = s.fecp := rfl
@[simp] theorem onBulk_fecs : (onBulk f s).fecs = s.fecs := rfl
@[simp] theorem onBulk_frame : (onBulk f s).frame = s.frame := rfl
@[simp] theorem onBulk_hub : (onBulk f s).hub = s.hub := rfl
@[simp] theorem onBulk_lane : (onBulk f s).lane = s.lane := rfl
@[simp] theorem onBulk_hport : (onBulk f s).hport = s.hport := rfl
@[simp] theorem onBulk_svc : (onBulk f s).svc = s.svc := rfl
@[simp] theorem onBulk_cipher : (onBulk f s).cipher = s.cipher := rfl
@[simp] theorem onBulk_bulk : (onBulk f s).bulk = f s.bulk := rfl
@[simp] theorem onBulk_timing : (onBulk f s).timing = s.timing := rfl
@[simp] theorem onBulk_cues : (onBulk f s).cues = s.cues := rfl
@[simp] theorem onBulk_pair : (onBulk f s).pair = s.pair := rfl
@[simp] theorem onBulk_mon : (onBulk f s).mon = s.mon := rfl
@[simp] theorem onBulk_therm : (onBulk f s).therm = s.therm := rfl
@[simp] theorem onBulk_flt : (onBulk f s).flt = s.flt := rfl
@[simp] theorem onBulk_log : (onBulk f s).log = s.log := rfl
@[simp] theorem onBulk_tracer : (onBulk f s).tracer = s.tracer := rfl
@[simp] theorem onBulk_quiet : (onBulk f s).quiet = s.quiet := rfl
end OnBulk

/-! `onTiming` changes `timing` alone. -/

section OnTiming
variable (f : Timing → Timing) (s : State)

@[simp] theorem onTiming_pending : (onTiming f s).pending = s.pending := rfl
@[simp] theorem onTiming_free : (onTiming f s).free = s.free := rfl
@[simp] theorem onTiming_ctrl : (onTiming f s).ctrl = s.ctrl := rfl
@[simp] theorem onTiming_ev : (onTiming f s).ev = s.ev := rfl
@[simp] theorem onTiming_fw : (onTiming f s).fw = s.fw := rfl
@[simp] theorem onTiming_power : (onTiming f s).power = s.power := rfl
@[simp] theorem onTiming_cross : (onTiming f s).cross = s.cross := rfl
@[simp] theorem onTiming_pace : (onTiming f s).pace = s.pace := rfl
@[simp] theorem onTiming_txp : (onTiming f s).txp = s.txp := rfl
@[simp] theorem onTiming_txs : (onTiming f s).txs = s.txs := rfl
@[simp] theorem onTiming_rxp : (onTiming f s).rxp = s.rxp := rfl
@[simp] theorem onTiming_rxs : (onTiming f s).rxs = s.rxs := rfl
@[simp] theorem onTiming_fecp : (onTiming f s).fecp = s.fecp := rfl
@[simp] theorem onTiming_fecs : (onTiming f s).fecs = s.fecs := rfl
@[simp] theorem onTiming_frame : (onTiming f s).frame = s.frame := rfl
@[simp] theorem onTiming_hub : (onTiming f s).hub = s.hub := rfl
@[simp] theorem onTiming_lane : (onTiming f s).lane = s.lane := rfl
@[simp] theorem onTiming_hport : (onTiming f s).hport = s.hport := rfl
@[simp] theorem onTiming_svc : (onTiming f s).svc = s.svc := rfl
@[simp] theorem onTiming_cipher : (onTiming f s).cipher = s.cipher := rfl
@[simp] theorem onTiming_bulk : (onTiming f s).bulk = s.bulk := rfl
@[simp] theorem onTiming_timing : (onTiming f s).timing = f s.timing := rfl
@[simp] theorem onTiming_cues : (onTiming f s).cues = s.cues := rfl
@[simp] theorem onTiming_pair : (onTiming f s).pair = s.pair := rfl
@[simp] theorem onTiming_mon : (onTiming f s).mon = s.mon := rfl
@[simp] theorem onTiming_therm : (onTiming f s).therm = s.therm := rfl
@[simp] theorem onTiming_flt : (onTiming f s).flt = s.flt := rfl
@[simp] theorem onTiming_log : (onTiming f s).log = s.log := rfl
@[simp] theorem onTiming_tracer : (onTiming f s).tracer = s.tracer := rfl
@[simp] theorem onTiming_quiet : (onTiming f s).quiet = s.quiet := rfl
end OnTiming

/-! `onCues` changes `cues` alone. -/

section OnCues
variable (f : Cues → Cues) (s : State)

@[simp] theorem onCues_pending : (onCues f s).pending = s.pending := rfl
@[simp] theorem onCues_free : (onCues f s).free = s.free := rfl
@[simp] theorem onCues_ctrl : (onCues f s).ctrl = s.ctrl := rfl
@[simp] theorem onCues_ev : (onCues f s).ev = s.ev := rfl
@[simp] theorem onCues_fw : (onCues f s).fw = s.fw := rfl
@[simp] theorem onCues_power : (onCues f s).power = s.power := rfl
@[simp] theorem onCues_cross : (onCues f s).cross = s.cross := rfl
@[simp] theorem onCues_pace : (onCues f s).pace = s.pace := rfl
@[simp] theorem onCues_txp : (onCues f s).txp = s.txp := rfl
@[simp] theorem onCues_txs : (onCues f s).txs = s.txs := rfl
@[simp] theorem onCues_rxp : (onCues f s).rxp = s.rxp := rfl
@[simp] theorem onCues_rxs : (onCues f s).rxs = s.rxs := rfl
@[simp] theorem onCues_fecp : (onCues f s).fecp = s.fecp := rfl
@[simp] theorem onCues_fecs : (onCues f s).fecs = s.fecs := rfl
@[simp] theorem onCues_frame : (onCues f s).frame = s.frame := rfl
@[simp] theorem onCues_hub : (onCues f s).hub = s.hub := rfl
@[simp] theorem onCues_lane : (onCues f s).lane = s.lane := rfl
@[simp] theorem onCues_hport : (onCues f s).hport = s.hport := rfl
@[simp] theorem onCues_svc : (onCues f s).svc = s.svc := rfl
@[simp] theorem onCues_cipher : (onCues f s).cipher = s.cipher := rfl
@[simp] theorem onCues_bulk : (onCues f s).bulk = s.bulk := rfl
@[simp] theorem onCues_timing : (onCues f s).timing = s.timing := rfl
@[simp] theorem onCues_cues : (onCues f s).cues = f s.cues := rfl
@[simp] theorem onCues_pair : (onCues f s).pair = s.pair := rfl
@[simp] theorem onCues_mon : (onCues f s).mon = s.mon := rfl
@[simp] theorem onCues_therm : (onCues f s).therm = s.therm := rfl
@[simp] theorem onCues_flt : (onCues f s).flt = s.flt := rfl
@[simp] theorem onCues_log : (onCues f s).log = s.log := rfl
@[simp] theorem onCues_tracer : (onCues f s).tracer = s.tracer := rfl
@[simp] theorem onCues_quiet : (onCues f s).quiet = s.quiet := rfl
end OnCues

/-! `onPair` changes `pair` alone. -/

section OnPair
variable (f : Pair → Pair) (s : State)

@[simp] theorem onPair_pending : (onPair f s).pending = s.pending := rfl
@[simp] theorem onPair_free : (onPair f s).free = s.free := rfl
@[simp] theorem onPair_ctrl : (onPair f s).ctrl = s.ctrl := rfl
@[simp] theorem onPair_ev : (onPair f s).ev = s.ev := rfl
@[simp] theorem onPair_fw : (onPair f s).fw = s.fw := rfl
@[simp] theorem onPair_power : (onPair f s).power = s.power := rfl
@[simp] theorem onPair_cross : (onPair f s).cross = s.cross := rfl
@[simp] theorem onPair_pace : (onPair f s).pace = s.pace := rfl
@[simp] theorem onPair_txp : (onPair f s).txp = s.txp := rfl
@[simp] theorem onPair_txs : (onPair f s).txs = s.txs := rfl
@[simp] theorem onPair_rxp : (onPair f s).rxp = s.rxp := rfl
@[simp] theorem onPair_rxs : (onPair f s).rxs = s.rxs := rfl
@[simp] theorem onPair_fecp : (onPair f s).fecp = s.fecp := rfl
@[simp] theorem onPair_fecs : (onPair f s).fecs = s.fecs := rfl
@[simp] theorem onPair_frame : (onPair f s).frame = s.frame := rfl
@[simp] theorem onPair_hub : (onPair f s).hub = s.hub := rfl
@[simp] theorem onPair_lane : (onPair f s).lane = s.lane := rfl
@[simp] theorem onPair_hport : (onPair f s).hport = s.hport := rfl
@[simp] theorem onPair_svc : (onPair f s).svc = s.svc := rfl
@[simp] theorem onPair_cipher : (onPair f s).cipher = s.cipher := rfl
@[simp] theorem onPair_bulk : (onPair f s).bulk = s.bulk := rfl
@[simp] theorem onPair_timing : (onPair f s).timing = s.timing := rfl
@[simp] theorem onPair_cues : (onPair f s).cues = s.cues := rfl
@[simp] theorem onPair_pair : (onPair f s).pair = f s.pair := rfl
@[simp] theorem onPair_mon : (onPair f s).mon = s.mon := rfl
@[simp] theorem onPair_therm : (onPair f s).therm = s.therm := rfl
@[simp] theorem onPair_flt : (onPair f s).flt = s.flt := rfl
@[simp] theorem onPair_log : (onPair f s).log = s.log := rfl
@[simp] theorem onPair_tracer : (onPair f s).tracer = s.tracer := rfl
@[simp] theorem onPair_quiet : (onPair f s).quiet = s.quiet := rfl
end OnPair

/-! `onMon` changes `mon` alone. -/

section OnMon
variable (f : Monitor → Monitor) (s : State)

@[simp] theorem onMon_pending : (onMon f s).pending = s.pending := rfl
@[simp] theorem onMon_free : (onMon f s).free = s.free := rfl
@[simp] theorem onMon_ctrl : (onMon f s).ctrl = s.ctrl := rfl
@[simp] theorem onMon_ev : (onMon f s).ev = s.ev := rfl
@[simp] theorem onMon_fw : (onMon f s).fw = s.fw := rfl
@[simp] theorem onMon_power : (onMon f s).power = s.power := rfl
@[simp] theorem onMon_cross : (onMon f s).cross = s.cross := rfl
@[simp] theorem onMon_pace : (onMon f s).pace = s.pace := rfl
@[simp] theorem onMon_txp : (onMon f s).txp = s.txp := rfl
@[simp] theorem onMon_txs : (onMon f s).txs = s.txs := rfl
@[simp] theorem onMon_rxp : (onMon f s).rxp = s.rxp := rfl
@[simp] theorem onMon_rxs : (onMon f s).rxs = s.rxs := rfl
@[simp] theorem onMon_fecp : (onMon f s).fecp = s.fecp := rfl
@[simp] theorem onMon_fecs : (onMon f s).fecs = s.fecs := rfl
@[simp] theorem onMon_frame : (onMon f s).frame = s.frame := rfl
@[simp] theorem onMon_hub : (onMon f s).hub = s.hub := rfl
@[simp] theorem onMon_lane : (onMon f s).lane = s.lane := rfl
@[simp] theorem onMon_hport : (onMon f s).hport = s.hport := rfl
@[simp] theorem onMon_svc : (onMon f s).svc = s.svc := rfl
@[simp] theorem onMon_cipher : (onMon f s).cipher = s.cipher := rfl
@[simp] theorem onMon_bulk : (onMon f s).bulk = s.bulk := rfl
@[simp] theorem onMon_timing : (onMon f s).timing = s.timing := rfl
@[simp] theorem onMon_cues : (onMon f s).cues = s.cues := rfl
@[simp] theorem onMon_pair : (onMon f s).pair = s.pair := rfl
@[simp] theorem onMon_mon : (onMon f s).mon = f s.mon := rfl
@[simp] theorem onMon_therm : (onMon f s).therm = s.therm := rfl
@[simp] theorem onMon_flt : (onMon f s).flt = s.flt := rfl
@[simp] theorem onMon_log : (onMon f s).log = s.log := rfl
@[simp] theorem onMon_tracer : (onMon f s).tracer = s.tracer := rfl
@[simp] theorem onMon_quiet : (onMon f s).quiet = s.quiet := rfl
end OnMon

/-! `onTherm` changes `therm` alone. -/

section OnTherm
variable (f : Thermal → Thermal) (s : State)

@[simp] theorem onTherm_pending : (onTherm f s).pending = s.pending := rfl
@[simp] theorem onTherm_free : (onTherm f s).free = s.free := rfl
@[simp] theorem onTherm_ctrl : (onTherm f s).ctrl = s.ctrl := rfl
@[simp] theorem onTherm_ev : (onTherm f s).ev = s.ev := rfl
@[simp] theorem onTherm_fw : (onTherm f s).fw = s.fw := rfl
@[simp] theorem onTherm_power : (onTherm f s).power = s.power := rfl
@[simp] theorem onTherm_cross : (onTherm f s).cross = s.cross := rfl
@[simp] theorem onTherm_pace : (onTherm f s).pace = s.pace := rfl
@[simp] theorem onTherm_txp : (onTherm f s).txp = s.txp := rfl
@[simp] theorem onTherm_txs : (onTherm f s).txs = s.txs := rfl
@[simp] theorem onTherm_rxp : (onTherm f s).rxp = s.rxp := rfl
@[simp] theorem onTherm_rxs : (onTherm f s).rxs = s.rxs := rfl
@[simp] theorem onTherm_fecp : (onTherm f s).fecp = s.fecp := rfl
@[simp] theorem onTherm_fecs : (onTherm f s).fecs = s.fecs := rfl
@[simp] theorem onTherm_frame : (onTherm f s).frame = s.frame := rfl
@[simp] theorem onTherm_hub : (onTherm f s).hub = s.hub := rfl
@[simp] theorem onTherm_lane : (onTherm f s).lane = s.lane := rfl
@[simp] theorem onTherm_hport : (onTherm f s).hport = s.hport := rfl
@[simp] theorem onTherm_svc : (onTherm f s).svc = s.svc := rfl
@[simp] theorem onTherm_cipher : (onTherm f s).cipher = s.cipher := rfl
@[simp] theorem onTherm_bulk : (onTherm f s).bulk = s.bulk := rfl
@[simp] theorem onTherm_timing : (onTherm f s).timing = s.timing := rfl
@[simp] theorem onTherm_cues : (onTherm f s).cues = s.cues := rfl
@[simp] theorem onTherm_pair : (onTherm f s).pair = s.pair := rfl
@[simp] theorem onTherm_mon : (onTherm f s).mon = s.mon := rfl
@[simp] theorem onTherm_therm : (onTherm f s).therm = f s.therm := rfl
@[simp] theorem onTherm_flt : (onTherm f s).flt = s.flt := rfl
@[simp] theorem onTherm_log : (onTherm f s).log = s.log := rfl
@[simp] theorem onTherm_tracer : (onTherm f s).tracer = s.tracer := rfl
@[simp] theorem onTherm_quiet : (onTherm f s).quiet = s.quiet := rfl
end OnTherm

/-! `onFlt` changes `flt` alone. -/

section OnFlt
variable (f : Faults → Faults) (s : State)

@[simp] theorem onFlt_pending : (onFlt f s).pending = s.pending := rfl
@[simp] theorem onFlt_free : (onFlt f s).free = s.free := rfl
@[simp] theorem onFlt_ctrl : (onFlt f s).ctrl = s.ctrl := rfl
@[simp] theorem onFlt_ev : (onFlt f s).ev = s.ev := rfl
@[simp] theorem onFlt_fw : (onFlt f s).fw = s.fw := rfl
@[simp] theorem onFlt_power : (onFlt f s).power = s.power := rfl
@[simp] theorem onFlt_cross : (onFlt f s).cross = s.cross := rfl
@[simp] theorem onFlt_pace : (onFlt f s).pace = s.pace := rfl
@[simp] theorem onFlt_txp : (onFlt f s).txp = s.txp := rfl
@[simp] theorem onFlt_txs : (onFlt f s).txs = s.txs := rfl
@[simp] theorem onFlt_rxp : (onFlt f s).rxp = s.rxp := rfl
@[simp] theorem onFlt_rxs : (onFlt f s).rxs = s.rxs := rfl
@[simp] theorem onFlt_fecp : (onFlt f s).fecp = s.fecp := rfl
@[simp] theorem onFlt_fecs : (onFlt f s).fecs = s.fecs := rfl
@[simp] theorem onFlt_frame : (onFlt f s).frame = s.frame := rfl
@[simp] theorem onFlt_hub : (onFlt f s).hub = s.hub := rfl
@[simp] theorem onFlt_lane : (onFlt f s).lane = s.lane := rfl
@[simp] theorem onFlt_hport : (onFlt f s).hport = s.hport := rfl
@[simp] theorem onFlt_svc : (onFlt f s).svc = s.svc := rfl
@[simp] theorem onFlt_cipher : (onFlt f s).cipher = s.cipher := rfl
@[simp] theorem onFlt_bulk : (onFlt f s).bulk = s.bulk := rfl
@[simp] theorem onFlt_timing : (onFlt f s).timing = s.timing := rfl
@[simp] theorem onFlt_cues : (onFlt f s).cues = s.cues := rfl
@[simp] theorem onFlt_pair : (onFlt f s).pair = s.pair := rfl
@[simp] theorem onFlt_mon : (onFlt f s).mon = s.mon := rfl
@[simp] theorem onFlt_therm : (onFlt f s).therm = s.therm := rfl
@[simp] theorem onFlt_flt : (onFlt f s).flt = f s.flt := rfl
@[simp] theorem onFlt_log : (onFlt f s).log = s.log := rfl
@[simp] theorem onFlt_tracer : (onFlt f s).tracer = s.tracer := rfl
@[simp] theorem onFlt_quiet : (onFlt f s).quiet = s.quiet := rfl
end OnFlt

/-! `onLog` changes `log` alone. -/

section OnLog
variable (f : LogSt → LogSt) (s : State)

@[simp] theorem onLog_pending : (onLog f s).pending = s.pending := rfl
@[simp] theorem onLog_free : (onLog f s).free = s.free := rfl
@[simp] theorem onLog_ctrl : (onLog f s).ctrl = s.ctrl := rfl
@[simp] theorem onLog_ev : (onLog f s).ev = s.ev := rfl
@[simp] theorem onLog_fw : (onLog f s).fw = s.fw := rfl
@[simp] theorem onLog_power : (onLog f s).power = s.power := rfl
@[simp] theorem onLog_cross : (onLog f s).cross = s.cross := rfl
@[simp] theorem onLog_pace : (onLog f s).pace = s.pace := rfl
@[simp] theorem onLog_txp : (onLog f s).txp = s.txp := rfl
@[simp] theorem onLog_txs : (onLog f s).txs = s.txs := rfl
@[simp] theorem onLog_rxp : (onLog f s).rxp = s.rxp := rfl
@[simp] theorem onLog_rxs : (onLog f s).rxs = s.rxs := rfl
@[simp] theorem onLog_fecp : (onLog f s).fecp = s.fecp := rfl
@[simp] theorem onLog_fecs : (onLog f s).fecs = s.fecs := rfl
@[simp] theorem onLog_frame : (onLog f s).frame = s.frame := rfl
@[simp] theorem onLog_hub : (onLog f s).hub = s.hub := rfl
@[simp] theorem onLog_lane : (onLog f s).lane = s.lane := rfl
@[simp] theorem onLog_hport : (onLog f s).hport = s.hport := rfl
@[simp] theorem onLog_svc : (onLog f s).svc = s.svc := rfl
@[simp] theorem onLog_cipher : (onLog f s).cipher = s.cipher := rfl
@[simp] theorem onLog_bulk : (onLog f s).bulk = s.bulk := rfl
@[simp] theorem onLog_timing : (onLog f s).timing = s.timing := rfl
@[simp] theorem onLog_cues : (onLog f s).cues = s.cues := rfl
@[simp] theorem onLog_pair : (onLog f s).pair = s.pair := rfl
@[simp] theorem onLog_mon : (onLog f s).mon = s.mon := rfl
@[simp] theorem onLog_therm : (onLog f s).therm = s.therm := rfl
@[simp] theorem onLog_flt : (onLog f s).flt = s.flt := rfl
@[simp] theorem onLog_log : (onLog f s).log = f s.log := rfl
@[simp] theorem onLog_tracer : (onLog f s).tracer = s.tracer := rfl
@[simp] theorem onLog_quiet : (onLog f s).quiet = s.quiet := rfl
end OnLog

/-! `onTracer` changes `tracer` alone. -/

section OnTracer
variable (f : Tracer → Tracer) (s : State)

@[simp] theorem onTracer_pending : (onTracer f s).pending = s.pending := rfl
@[simp] theorem onTracer_free : (onTracer f s).free = s.free := rfl
@[simp] theorem onTracer_ctrl : (onTracer f s).ctrl = s.ctrl := rfl
@[simp] theorem onTracer_ev : (onTracer f s).ev = s.ev := rfl
@[simp] theorem onTracer_fw : (onTracer f s).fw = s.fw := rfl
@[simp] theorem onTracer_power : (onTracer f s).power = s.power := rfl
@[simp] theorem onTracer_cross : (onTracer f s).cross = s.cross := rfl
@[simp] theorem onTracer_pace : (onTracer f s).pace = s.pace := rfl
@[simp] theorem onTracer_txp : (onTracer f s).txp = s.txp := rfl
@[simp] theorem onTracer_txs : (onTracer f s).txs = s.txs := rfl
@[simp] theorem onTracer_rxp : (onTracer f s).rxp = s.rxp := rfl
@[simp] theorem onTracer_rxs : (onTracer f s).rxs = s.rxs := rfl
@[simp] theorem onTracer_fecp : (onTracer f s).fecp = s.fecp := rfl
@[simp] theorem onTracer_fecs : (onTracer f s).fecs = s.fecs := rfl
@[simp] theorem onTracer_frame : (onTracer f s).frame = s.frame := rfl
@[simp] theorem onTracer_hub : (onTracer f s).hub = s.hub := rfl
@[simp] theorem onTracer_lane : (onTracer f s).lane = s.lane := rfl
@[simp] theorem onTracer_hport : (onTracer f s).hport = s.hport := rfl
@[simp] theorem onTracer_svc : (onTracer f s).svc = s.svc := rfl
@[simp] theorem onTracer_cipher : (onTracer f s).cipher = s.cipher := rfl
@[simp] theorem onTracer_bulk : (onTracer f s).bulk = s.bulk := rfl
@[simp] theorem onTracer_timing : (onTracer f s).timing = s.timing := rfl
@[simp] theorem onTracer_cues : (onTracer f s).cues = s.cues := rfl
@[simp] theorem onTracer_pair : (onTracer f s).pair = s.pair := rfl
@[simp] theorem onTracer_mon : (onTracer f s).mon = s.mon := rfl
@[simp] theorem onTracer_therm : (onTracer f s).therm = s.therm := rfl
@[simp] theorem onTracer_flt : (onTracer f s).flt = s.flt := rfl
@[simp] theorem onTracer_log : (onTracer f s).log = s.log := rfl
@[simp] theorem onTracer_tracer : (onTracer f s).tracer = f s.tracer := rfl
@[simp] theorem onTracer_quiet : (onTracer f s).quiet = s.quiet := rfl
end OnTracer

/-! A free value taken advances the counter alone. -/

section UseFree
variable (s : State)

@[simp] theorem useFree_pending : (useFree s).pending = s.pending := rfl
@[simp] theorem useFree_ctrl : (useFree s).ctrl = s.ctrl := rfl
@[simp] theorem useFree_ev : (useFree s).ev = s.ev := rfl
@[simp] theorem useFree_fw : (useFree s).fw = s.fw := rfl
@[simp] theorem useFree_power : (useFree s).power = s.power := rfl
@[simp] theorem useFree_cross : (useFree s).cross = s.cross := rfl
@[simp] theorem useFree_pace : (useFree s).pace = s.pace := rfl
@[simp] theorem useFree_txp : (useFree s).txp = s.txp := rfl
@[simp] theorem useFree_txs : (useFree s).txs = s.txs := rfl
@[simp] theorem useFree_rxp : (useFree s).rxp = s.rxp := rfl
@[simp] theorem useFree_rxs : (useFree s).rxs = s.rxs := rfl
@[simp] theorem useFree_fecp : (useFree s).fecp = s.fecp := rfl
@[simp] theorem useFree_fecs : (useFree s).fecs = s.fecs := rfl
@[simp] theorem useFree_frame : (useFree s).frame = s.frame := rfl
@[simp] theorem useFree_hub : (useFree s).hub = s.hub := rfl
@[simp] theorem useFree_lane : (useFree s).lane = s.lane := rfl
@[simp] theorem useFree_hport : (useFree s).hport = s.hport := rfl
@[simp] theorem useFree_svc : (useFree s).svc = s.svc := rfl
@[simp] theorem useFree_cipher : (useFree s).cipher = s.cipher := rfl
@[simp] theorem useFree_bulk : (useFree s).bulk = s.bulk := rfl
@[simp] theorem useFree_timing : (useFree s).timing = s.timing := rfl
@[simp] theorem useFree_cues : (useFree s).cues = s.cues := rfl
@[simp] theorem useFree_pair : (useFree s).pair = s.pair := rfl
@[simp] theorem useFree_mon : (useFree s).mon = s.mon := rfl
@[simp] theorem useFree_therm : (useFree s).therm = s.therm := rfl
@[simp] theorem useFree_flt : (useFree s).flt = s.flt := rfl
@[simp] theorem useFree_log : (useFree s).log = s.log := rfl
@[simp] theorem useFree_tracer : (useFree s).tracer = s.tracer := rfl
@[simp] theorem useFree_quiet : (useFree s).quiet = s.quiet := rfl
end UseFree

/-! Free values taken advance the counter alone. -/

section UseFrees
variable (n : Nat) (s : State)

@[simp] theorem useFrees_pending : (useFrees n s).pending = s.pending := rfl
@[simp] theorem useFrees_ctrl : (useFrees n s).ctrl = s.ctrl := rfl
@[simp] theorem useFrees_ev : (useFrees n s).ev = s.ev := rfl
@[simp] theorem useFrees_fw : (useFrees n s).fw = s.fw := rfl
@[simp] theorem useFrees_power : (useFrees n s).power = s.power := rfl
@[simp] theorem useFrees_cross : (useFrees n s).cross = s.cross := rfl
@[simp] theorem useFrees_pace : (useFrees n s).pace = s.pace := rfl
@[simp] theorem useFrees_txp : (useFrees n s).txp = s.txp := rfl
@[simp] theorem useFrees_txs : (useFrees n s).txs = s.txs := rfl
@[simp] theorem useFrees_rxp : (useFrees n s).rxp = s.rxp := rfl
@[simp] theorem useFrees_rxs : (useFrees n s).rxs = s.rxs := rfl
@[simp] theorem useFrees_fecp : (useFrees n s).fecp = s.fecp := rfl
@[simp] theorem useFrees_fecs : (useFrees n s).fecs = s.fecs := rfl
@[simp] theorem useFrees_frame : (useFrees n s).frame = s.frame := rfl
@[simp] theorem useFrees_hub : (useFrees n s).hub = s.hub := rfl
@[simp] theorem useFrees_lane : (useFrees n s).lane = s.lane := rfl
@[simp] theorem useFrees_hport : (useFrees n s).hport = s.hport := rfl
@[simp] theorem useFrees_svc : (useFrees n s).svc = s.svc := rfl
@[simp] theorem useFrees_cipher : (useFrees n s).cipher = s.cipher := rfl
@[simp] theorem useFrees_bulk : (useFrees n s).bulk = s.bulk := rfl
@[simp] theorem useFrees_timing : (useFrees n s).timing = s.timing := rfl
@[simp] theorem useFrees_cues : (useFrees n s).cues = s.cues := rfl
@[simp] theorem useFrees_pair : (useFrees n s).pair = s.pair := rfl
@[simp] theorem useFrees_mon : (useFrees n s).mon = s.mon := rfl
@[simp] theorem useFrees_therm : (useFrees n s).therm = s.therm := rfl
@[simp] theorem useFrees_flt : (useFrees n s).flt = s.flt := rfl
@[simp] theorem useFrees_log : (useFrees n s).log = s.log := rfl
@[simp] theorem useFrees_tracer : (useFrees n s).tracer = s.tracer := rfl
@[simp] theorem useFrees_quiet : (useFrees n s).quiet = s.quiet := rfl
end UseFrees

/-! Time passing changes the timebase alone. -/

section ClockTo
variable (at_ : Nat) (s : State)

@[simp] theorem clockTo_pending : (clockTo at_ s).pending = s.pending := rfl
@[simp] theorem clockTo_free : (clockTo at_ s).free = s.free := rfl
@[simp] theorem clockTo_ctrl : (clockTo at_ s).ctrl = s.ctrl := rfl
@[simp] theorem clockTo_ev : (clockTo at_ s).ev = s.ev := rfl
@[simp] theorem clockTo_fw : (clockTo at_ s).fw = s.fw := rfl
@[simp] theorem clockTo_power : (clockTo at_ s).power = s.power := rfl
@[simp] theorem clockTo_cross : (clockTo at_ s).cross = s.cross := rfl
@[simp] theorem clockTo_pace : (clockTo at_ s).pace = s.pace := rfl
@[simp] theorem clockTo_txp : (clockTo at_ s).txp = s.txp := rfl
@[simp] theorem clockTo_txs : (clockTo at_ s).txs = s.txs := rfl
@[simp] theorem clockTo_rxp : (clockTo at_ s).rxp = s.rxp := rfl
@[simp] theorem clockTo_rxs : (clockTo at_ s).rxs = s.rxs := rfl
@[simp] theorem clockTo_fecp : (clockTo at_ s).fecp = s.fecp := rfl
@[simp] theorem clockTo_fecs : (clockTo at_ s).fecs = s.fecs := rfl
@[simp] theorem clockTo_frame : (clockTo at_ s).frame = s.frame := rfl
@[simp] theorem clockTo_hub : (clockTo at_ s).hub = s.hub := rfl
@[simp] theorem clockTo_lane : (clockTo at_ s).lane = s.lane := rfl
@[simp] theorem clockTo_hport : (clockTo at_ s).hport = s.hport := rfl
@[simp] theorem clockTo_svc : (clockTo at_ s).svc = s.svc := rfl
@[simp] theorem clockTo_cipher : (clockTo at_ s).cipher = s.cipher := rfl
@[simp] theorem clockTo_bulk : (clockTo at_ s).bulk = s.bulk := rfl
@[simp] theorem clockTo_cues : (clockTo at_ s).cues = s.cues := rfl
@[simp] theorem clockTo_pair : (clockTo at_ s).pair = s.pair := rfl
@[simp] theorem clockTo_mon : (clockTo at_ s).mon = s.mon := rfl
@[simp] theorem clockTo_therm : (clockTo at_ s).therm = s.therm := rfl
@[simp] theorem clockTo_flt : (clockTo at_ s).flt = s.flt := rfl
@[simp] theorem clockTo_log : (clockTo at_ s).log = s.log := rfl
@[simp] theorem clockTo_tracer : (clockTo at_ s).tracer = s.tracer := rfl
@[simp] theorem clockTo_quiet : (clockTo at_ s).quiet = s.quiet := rfl
end ClockTo

/-! Placing a cue changes the cue table alone. -/

section SetCue
variable (i : Nat) (c : Cue) (s : State)

@[simp] theorem setCue_pending : (setCue i c s).pending = s.pending := rfl
@[simp] theorem setCue_free : (setCue i c s).free = s.free := rfl
@[simp] theorem setCue_ctrl : (setCue i c s).ctrl = s.ctrl := rfl
@[simp] theorem setCue_ev : (setCue i c s).ev = s.ev := rfl
@[simp] theorem setCue_fw : (setCue i c s).fw = s.fw := rfl
@[simp] theorem setCue_power : (setCue i c s).power = s.power := rfl
@[simp] theorem setCue_cross : (setCue i c s).cross = s.cross := rfl
@[simp] theorem setCue_pace : (setCue i c s).pace = s.pace := rfl
@[simp] theorem setCue_txp : (setCue i c s).txp = s.txp := rfl
@[simp] theorem setCue_txs : (setCue i c s).txs = s.txs := rfl
@[simp] theorem setCue_rxp : (setCue i c s).rxp = s.rxp := rfl
@[simp] theorem setCue_rxs : (setCue i c s).rxs = s.rxs := rfl
@[simp] theorem setCue_fecp : (setCue i c s).fecp = s.fecp := rfl
@[simp] theorem setCue_fecs : (setCue i c s).fecs = s.fecs := rfl
@[simp] theorem setCue_frame : (setCue i c s).frame = s.frame := rfl
@[simp] theorem setCue_hub : (setCue i c s).hub = s.hub := rfl
@[simp] theorem setCue_lane : (setCue i c s).lane = s.lane := rfl
@[simp] theorem setCue_hport : (setCue i c s).hport = s.hport := rfl
@[simp] theorem setCue_svc : (setCue i c s).svc = s.svc := rfl
@[simp] theorem setCue_cipher : (setCue i c s).cipher = s.cipher := rfl
@[simp] theorem setCue_bulk : (setCue i c s).bulk = s.bulk := rfl
@[simp] theorem setCue_timing : (setCue i c s).timing = s.timing := rfl
@[simp] theorem setCue_pair : (setCue i c s).pair = s.pair := rfl
@[simp] theorem setCue_mon : (setCue i c s).mon = s.mon := rfl
@[simp] theorem setCue_therm : (setCue i c s).therm = s.therm := rfl
@[simp] theorem setCue_flt : (setCue i c s).flt = s.flt := rfl
@[simp] theorem setCue_log : (setCue i c s).log = s.log := rfl
@[simp] theorem setCue_tracer : (setCue i c s).tracer = s.tracer := rfl
@[simp] theorem setCue_quiet : (setCue i c s).quiet = s.quiet := rfl
end SetCue

/-! Freeing a cue changes the cue table alone. -/

section ClearCue
variable (i : Nat) (s : State)

@[simp] theorem clearCue_pending : (clearCue i s).pending = s.pending := rfl
@[simp] theorem clearCue_free : (clearCue i s).free = s.free := rfl
@[simp] theorem clearCue_ctrl : (clearCue i s).ctrl = s.ctrl := rfl
@[simp] theorem clearCue_ev : (clearCue i s).ev = s.ev := rfl
@[simp] theorem clearCue_fw : (clearCue i s).fw = s.fw := rfl
@[simp] theorem clearCue_power : (clearCue i s).power = s.power := rfl
@[simp] theorem clearCue_cross : (clearCue i s).cross = s.cross := rfl
@[simp] theorem clearCue_pace : (clearCue i s).pace = s.pace := rfl
@[simp] theorem clearCue_txp : (clearCue i s).txp = s.txp := rfl
@[simp] theorem clearCue_txs : (clearCue i s).txs = s.txs := rfl
@[simp] theorem clearCue_rxp : (clearCue i s).rxp = s.rxp := rfl
@[simp] theorem clearCue_rxs : (clearCue i s).rxs = s.rxs := rfl
@[simp] theorem clearCue_fecp : (clearCue i s).fecp = s.fecp := rfl
@[simp] theorem clearCue_fecs : (clearCue i s).fecs = s.fecs := rfl
@[simp] theorem clearCue_frame : (clearCue i s).frame = s.frame := rfl
@[simp] theorem clearCue_hub : (clearCue i s).hub = s.hub := rfl
@[simp] theorem clearCue_lane : (clearCue i s).lane = s.lane := rfl
@[simp] theorem clearCue_hport : (clearCue i s).hport = s.hport := rfl
@[simp] theorem clearCue_svc : (clearCue i s).svc = s.svc := rfl
@[simp] theorem clearCue_cipher : (clearCue i s).cipher = s.cipher := rfl
@[simp] theorem clearCue_bulk : (clearCue i s).bulk = s.bulk := rfl
@[simp] theorem clearCue_timing : (clearCue i s).timing = s.timing := rfl
@[simp] theorem clearCue_pair : (clearCue i s).pair = s.pair := rfl
@[simp] theorem clearCue_mon : (clearCue i s).mon = s.mon := rfl
@[simp] theorem clearCue_therm : (clearCue i s).therm = s.therm := rfl
@[simp] theorem clearCue_flt : (clearCue i s).flt = s.flt := rfl
@[simp] theorem clearCue_log : (clearCue i s).log = s.log := rfl
@[simp] theorem clearCue_tracer : (clearCue i s).tracer = s.tracer := rfl
@[simp] theorem clearCue_quiet : (clearCue i s).quiet = s.quiet := rfl
end ClearCue

/-! A log entry changes the log alone. -/

section Record
variable (e : LogEntry) (s : State)

@[simp] theorem record_pending : (record e s).pending = s.pending := rfl
@[simp] theorem record_free : (record e s).free = s.free := rfl
@[simp] theorem record_ctrl : (record e s).ctrl = s.ctrl := rfl
@[simp] theorem record_ev : (record e s).ev = s.ev := rfl
@[simp] theorem record_fw : (record e s).fw = s.fw := rfl
@[simp] theorem record_power : (record e s).power = s.power := rfl
@[simp] theorem record_cross : (record e s).cross = s.cross := rfl
@[simp] theorem record_pace : (record e s).pace = s.pace := rfl
@[simp] theorem record_txp : (record e s).txp = s.txp := rfl
@[simp] theorem record_txs : (record e s).txs = s.txs := rfl
@[simp] theorem record_rxp : (record e s).rxp = s.rxp := rfl
@[simp] theorem record_rxs : (record e s).rxs = s.rxs := rfl
@[simp] theorem record_fecp : (record e s).fecp = s.fecp := rfl
@[simp] theorem record_fecs : (record e s).fecs = s.fecs := rfl
@[simp] theorem record_frame : (record e s).frame = s.frame := rfl
@[simp] theorem record_hub : (record e s).hub = s.hub := rfl
@[simp] theorem record_lane : (record e s).lane = s.lane := rfl
@[simp] theorem record_hport : (record e s).hport = s.hport := rfl
@[simp] theorem record_svc : (record e s).svc = s.svc := rfl
@[simp] theorem record_cipher : (record e s).cipher = s.cipher := rfl
@[simp] theorem record_bulk : (record e s).bulk = s.bulk := rfl
@[simp] theorem record_timing : (record e s).timing = s.timing := rfl
@[simp] theorem record_cues : (record e s).cues = s.cues := rfl
@[simp] theorem record_pair : (record e s).pair = s.pair := rfl
@[simp] theorem record_mon : (record e s).mon = s.mon := rfl
@[simp] theorem record_therm : (record e s).therm = s.therm := rfl
@[simp] theorem record_flt : (record e s).flt = s.flt := rfl
@[simp] theorem record_tracer : (record e s).tracer = s.tracer := rfl
@[simp] theorem record_quiet : (record e s).quiet = s.quiet := rfl
end Record

/-! An event changes the event ring and the log alone. -/

section RaiseEvent
variable (m : Bool) (code vector src tag : Nat) (data : List Byte) (s : State)

@[simp] theorem raiseEvent_pending : (raiseEvent m code vector src tag data s).pending = s.pending := rfl
@[simp] theorem raiseEvent_free : (raiseEvent m code vector src tag data s).free = s.free := rfl
@[simp] theorem raiseEvent_ctrl : (raiseEvent m code vector src tag data s).ctrl = s.ctrl := rfl
@[simp] theorem raiseEvent_fw : (raiseEvent m code vector src tag data s).fw = s.fw := rfl
@[simp] theorem raiseEvent_power : (raiseEvent m code vector src tag data s).power = s.power := rfl
@[simp] theorem raiseEvent_cross : (raiseEvent m code vector src tag data s).cross = s.cross := rfl
@[simp] theorem raiseEvent_pace : (raiseEvent m code vector src tag data s).pace = s.pace := rfl
@[simp] theorem raiseEvent_txp : (raiseEvent m code vector src tag data s).txp = s.txp := rfl
@[simp] theorem raiseEvent_txs : (raiseEvent m code vector src tag data s).txs = s.txs := rfl
@[simp] theorem raiseEvent_rxp : (raiseEvent m code vector src tag data s).rxp = s.rxp := rfl
@[simp] theorem raiseEvent_rxs : (raiseEvent m code vector src tag data s).rxs = s.rxs := rfl
@[simp] theorem raiseEvent_fecp : (raiseEvent m code vector src tag data s).fecp = s.fecp := rfl
@[simp] theorem raiseEvent_fecs : (raiseEvent m code vector src tag data s).fecs = s.fecs := rfl
@[simp] theorem raiseEvent_frame : (raiseEvent m code vector src tag data s).frame = s.frame := rfl
@[simp] theorem raiseEvent_hub : (raiseEvent m code vector src tag data s).hub = s.hub := rfl
@[simp] theorem raiseEvent_lane : (raiseEvent m code vector src tag data s).lane = s.lane := rfl
@[simp] theorem raiseEvent_hport : (raiseEvent m code vector src tag data s).hport = s.hport := rfl
@[simp] theorem raiseEvent_svc : (raiseEvent m code vector src tag data s).svc = s.svc := rfl
@[simp] theorem raiseEvent_cipher : (raiseEvent m code vector src tag data s).cipher = s.cipher := rfl
@[simp] theorem raiseEvent_bulk : (raiseEvent m code vector src tag data s).bulk = s.bulk := rfl
@[simp] theorem raiseEvent_timing : (raiseEvent m code vector src tag data s).timing = s.timing := rfl
@[simp] theorem raiseEvent_cues : (raiseEvent m code vector src tag data s).cues = s.cues := rfl
@[simp] theorem raiseEvent_pair : (raiseEvent m code vector src tag data s).pair = s.pair := rfl
@[simp] theorem raiseEvent_mon : (raiseEvent m code vector src tag data s).mon = s.mon := rfl
@[simp] theorem raiseEvent_therm : (raiseEvent m code vector src tag data s).therm = s.therm := rfl
@[simp] theorem raiseEvent_flt : (raiseEvent m code vector src tag data s).flt = s.flt := rfl
@[simp] theorem raiseEvent_tracer : (raiseEvent m code vector src tag data s).tracer = s.tracer := rfl
@[simp] theorem raiseEvent_quiet : (raiseEvent m code vector src tag data s).quiet = s.quiet := rfl
end RaiseEvent

/-! An event changes the event ring and the log alone. -/

section Raise
variable (code vector src tag : Nat) (data : List Byte) (s : State)

@[simp] theorem raise_pending : (raise code vector src tag data s).pending = s.pending := rfl
@[simp] theorem raise_free : (raise code vector src tag data s).free = s.free := rfl
@[simp] theorem raise_ctrl : (raise code vector src tag data s).ctrl = s.ctrl := rfl
@[simp] theorem raise_fw : (raise code vector src tag data s).fw = s.fw := rfl
@[simp] theorem raise_power : (raise code vector src tag data s).power = s.power := rfl
@[simp] theorem raise_cross : (raise code vector src tag data s).cross = s.cross := rfl
@[simp] theorem raise_pace : (raise code vector src tag data s).pace = s.pace := rfl
@[simp] theorem raise_txp : (raise code vector src tag data s).txp = s.txp := rfl
@[simp] theorem raise_txs : (raise code vector src tag data s).txs = s.txs := rfl
@[simp] theorem raise_rxp : (raise code vector src tag data s).rxp = s.rxp := rfl
@[simp] theorem raise_rxs : (raise code vector src tag data s).rxs = s.rxs := rfl
@[simp] theorem raise_fecp : (raise code vector src tag data s).fecp = s.fecp := rfl
@[simp] theorem raise_fecs : (raise code vector src tag data s).fecs = s.fecs := rfl
@[simp] theorem raise_frame : (raise code vector src tag data s).frame = s.frame := rfl
@[simp] theorem raise_hub : (raise code vector src tag data s).hub = s.hub := rfl
@[simp] theorem raise_lane : (raise code vector src tag data s).lane = s.lane := rfl
@[simp] theorem raise_hport : (raise code vector src tag data s).hport = s.hport := rfl
@[simp] theorem raise_svc : (raise code vector src tag data s).svc = s.svc := rfl
@[simp] theorem raise_cipher : (raise code vector src tag data s).cipher = s.cipher := rfl
@[simp] theorem raise_bulk : (raise code vector src tag data s).bulk = s.bulk := rfl
@[simp] theorem raise_timing : (raise code vector src tag data s).timing = s.timing := rfl
@[simp] theorem raise_cues : (raise code vector src tag data s).cues = s.cues := rfl
@[simp] theorem raise_pair : (raise code vector src tag data s).pair = s.pair := rfl
@[simp] theorem raise_mon : (raise code vector src tag data s).mon = s.mon := rfl
@[simp] theorem raise_therm : (raise code vector src tag data s).therm = s.therm := rfl
@[simp] theorem raise_flt : (raise code vector src tag data s).flt = s.flt := rfl
@[simp] theorem raise_tracer : (raise code vector src tag data s).tracer = s.tracer := rfl
@[simp] theorem raise_quiet : (raise code vector src tag data s).quiet = s.quiet := rfl
end Raise

/-! An event of a port changes the event ring and the log alone. -/

section RaisePort
variable (code p : Nat) (data : List Byte) (s : State)

@[simp] theorem raisePort_pending : (raisePort code p data s).pending = s.pending := rfl
@[simp] theorem raisePort_free : (raisePort code p data s).free = s.free := rfl
@[simp] theorem raisePort_ctrl : (raisePort code p data s).ctrl = s.ctrl := rfl
@[simp] theorem raisePort_fw : (raisePort code p data s).fw = s.fw := rfl
@[simp] theorem raisePort_power : (raisePort code p data s).power = s.power := rfl
@[simp] theorem raisePort_cross : (raisePort code p data s).cross = s.cross := rfl
@[simp] theorem raisePort_pace : (raisePort code p data s).pace = s.pace := rfl
@[simp] theorem raisePort_txp : (raisePort code p data s).txp = s.txp := rfl
@[simp] theorem raisePort_txs : (raisePort code p data s).txs = s.txs := rfl
@[simp] theorem raisePort_rxp : (raisePort code p data s).rxp = s.rxp := rfl
@[simp] theorem raisePort_rxs : (raisePort code p data s).rxs = s.rxs := rfl
@[simp] theorem raisePort_fecp : (raisePort code p data s).fecp = s.fecp := rfl
@[simp] theorem raisePort_fecs : (raisePort code p data s).fecs = s.fecs := rfl
@[simp] theorem raisePort_frame : (raisePort code p data s).frame = s.frame := rfl
@[simp] theorem raisePort_hub : (raisePort code p data s).hub = s.hub := rfl
@[simp] theorem raisePort_lane : (raisePort code p data s).lane = s.lane := rfl
@[simp] theorem raisePort_hport : (raisePort code p data s).hport = s.hport := rfl
@[simp] theorem raisePort_svc : (raisePort code p data s).svc = s.svc := rfl
@[simp] theorem raisePort_cipher : (raisePort code p data s).cipher = s.cipher := rfl
@[simp] theorem raisePort_bulk : (raisePort code p data s).bulk = s.bulk := rfl
@[simp] theorem raisePort_timing : (raisePort code p data s).timing = s.timing := rfl
@[simp] theorem raisePort_cues : (raisePort code p data s).cues = s.cues := rfl
@[simp] theorem raisePort_pair : (raisePort code p data s).pair = s.pair := rfl
@[simp] theorem raisePort_mon : (raisePort code p data s).mon = s.mon := rfl
@[simp] theorem raisePort_therm : (raisePort code p data s).therm = s.therm := rfl
@[simp] theorem raisePort_flt : (raisePort code p data s).flt = s.flt := rfl
@[simp] theorem raisePort_tracer : (raisePort code p data s).tracer = s.tracer := rfl
@[simp] theorem raisePort_quiet : (raisePort code p data s).quiet = s.quiet := rfl
end RaisePort

/-! An event of a subcarrier changes the event ring and the log alone. -/

section RaiseSc
variable (code sc : Nat) (data : List Byte) (s : State)

@[simp] theorem raiseSc_pending : (raiseSc code sc data s).pending = s.pending := rfl
@[simp] theorem raiseSc_free : (raiseSc code sc data s).free = s.free := rfl
@[simp] theorem raiseSc_ctrl : (raiseSc code sc data s).ctrl = s.ctrl := rfl
@[simp] theorem raiseSc_fw : (raiseSc code sc data s).fw = s.fw := rfl
@[simp] theorem raiseSc_power : (raiseSc code sc data s).power = s.power := rfl
@[simp] theorem raiseSc_cross : (raiseSc code sc data s).cross = s.cross := rfl
@[simp] theorem raiseSc_pace : (raiseSc code sc data s).pace = s.pace := rfl
@[simp] theorem raiseSc_txp : (raiseSc code sc data s).txp = s.txp := rfl
@[simp] theorem raiseSc_txs : (raiseSc code sc data s).txs = s.txs := rfl
@[simp] theorem raiseSc_rxp : (raiseSc code sc data s).rxp = s.rxp := rfl
@[simp] theorem raiseSc_rxs : (raiseSc code sc data s).rxs = s.rxs := rfl
@[simp] theorem raiseSc_fecp : (raiseSc code sc data s).fecp = s.fecp := rfl
@[simp] theorem raiseSc_fecs : (raiseSc code sc data s).fecs = s.fecs := rfl
@[simp] theorem raiseSc_frame : (raiseSc code sc data s).frame = s.frame := rfl
@[simp] theorem raiseSc_hub : (raiseSc code sc data s).hub = s.hub := rfl
@[simp] theorem raiseSc_lane : (raiseSc code sc data s).lane = s.lane := rfl
@[simp] theorem raiseSc_hport : (raiseSc code sc data s).hport = s.hport := rfl
@[simp] theorem raiseSc_svc : (raiseSc code sc data s).svc = s.svc := rfl
@[simp] theorem raiseSc_cipher : (raiseSc code sc data s).cipher = s.cipher := rfl
@[simp] theorem raiseSc_bulk : (raiseSc code sc data s).bulk = s.bulk := rfl
@[simp] theorem raiseSc_timing : (raiseSc code sc data s).timing = s.timing := rfl
@[simp] theorem raiseSc_cues : (raiseSc code sc data s).cues = s.cues := rfl
@[simp] theorem raiseSc_pair : (raiseSc code sc data s).pair = s.pair := rfl
@[simp] theorem raiseSc_mon : (raiseSc code sc data s).mon = s.mon := rfl
@[simp] theorem raiseSc_therm : (raiseSc code sc data s).therm = s.therm := rfl
@[simp] theorem raiseSc_flt : (raiseSc code sc data s).flt = s.flt := rfl
@[simp] theorem raiseSc_tracer : (raiseSc code sc data s).tracer = s.tracer := rfl
@[simp] theorem raiseSc_quiet : (raiseSc code sc data s).quiet = s.quiet := rfl
end RaiseSc

end Sys2Proof.Machine
end

