-- ==== Sys2Proof/Laws/Memory.lean ====
section
/-! SUPPORT. The byte memory: what a byte reads as after each operation, and that each keeps the canonical form. -/

namespace Sys2Proof.Machine

theorem memByte_of_lt {m : List Host.Cell} {k : Nat} (h : ∀ c ∈ m, k < c.1) : memByte m k = 0 := by
  induction m with
  | nil => rfl
  | cons c m ih =>
    have hc := h c (List.mem_cons_self ..)
    simp only [memByte, Nat.ne_of_gt hc, if_false]
    exact ih (fun x hx => h x (List.mem_cons_of_mem _ hx))

/-- The cells after a write lie where cells lay before, or at the written address. -/
theorem mem_memPut {m : List Host.Cell} {k : Nat} {v : Byte} {c : Host.Cell} (h : c ∈ memPut m k v) :
    c ∈ m ∨ c = (k, v) := by
  induction m with
  | nil => by_cases hv : v = 0 <;> simp_all [memPut]
  | cons x m ih =>
    simp only [memPut] at h
    split at h
    · rcases List.mem_cons.mp h with h | h
      · exact .inl (h ▸ List.mem_cons_self ..)
      · exact (ih h).imp_left (List.mem_cons_of_mem _)
    · split at h <;> split at h <;> simp_all <;> tauto

/-- Writing a byte keeps the canonical form. -/
theorem memPut_wf {m : List Host.Cell} (k : Nat) (v : Byte) (h : Memory.wf m) : Memory.wf (memPut m k v) := by
  induction m with
  | nil =>
    simp only [memPut]
    split
    · exact ⟨.nil, by simp⟩
    · rename_i hv
      exact ⟨List.pairwise_singleton .., by simpa using hv⟩
  | cons x m ih =>
    obtain ⟨hp, hz⟩ := h
    rw [List.pairwise_cons] at hp
    have hm : Memory.wf m := ⟨hp.2, fun c hc => hz c (List.mem_cons_of_mem _ hc)⟩
    simp only [memPut]
    split
    · rename_i hlt
      obtain ⟨ip, iz⟩ := ih hm
      refine ⟨List.pairwise_cons.mpr ⟨fun c hc => ?_, ip⟩, fun c hc => ?_⟩
      · rcases mem_memPut hc with h | h
        · exact hp.1 c h
        · exact h ▸ hlt
      · rcases List.mem_cons.mp hc with h | h
        · exact h ▸ hz x (List.mem_cons_self ..)
        · exact iz c h
    · rename_i hge
      have hrest : Memory.wf (if x.1 = k then m else x :: m) := by
        split
        · exact hm
        · exact ⟨List.pairwise_cons.mpr hp, hz⟩
      have habove : ∀ c ∈ (if x.1 = k then m else x :: m), k < c.1 := by
        intro c hc
        split at hc
        · rename_i hk
          exact hk ▸ hp.1 c hc
        · rename_i hk
          rcases List.mem_cons.mp hc with h | h
          · subst h; omega
          · have := hp.1 c h; omega
      split
      · exact hrest
      · rename_i hv
        refine ⟨List.pairwise_cons.mpr ⟨habove, hrest.1⟩, fun c hc => ?_⟩
        rcases List.mem_cons.mp hc with h | h
        · exact h ▸ hv
        · exact hrest.2 c h

/-- A byte after a write: the written one at its address, any other as before. -/
theorem memByte_memPut {m : List Host.Cell} (k j : Nat) (v : Byte) (h : Memory.wf m) :
    memByte (memPut m k v) j = if j = k then v else memByte m j := by
  induction m with
  | nil =>
    simp only [memPut]
    split <;> rename_i hv <;> by_cases hj : j = k
    · rw [if_pos hj, hv]; rfl
    · rw [if_neg hj]
    · rw [if_pos hj]; exact if_pos hj.symm
    · rw [if_neg hj]; exact if_neg (Ne.symm hj)
  | cons x m ih =>
    obtain ⟨hp, hz⟩ := h
    rw [List.pairwise_cons] at hp
    have ih := ih ⟨hp.2, fun c hc => hz c (List.mem_cons_of_mem _ hc)⟩
    simp only [memPut]
    split
    · rename_i hlt
      simp only [memByte, ih]
      by_cases h : x.1 = j
      · subst h; rw [if_pos rfl, if_neg (Nat.ne_of_lt hlt), if_pos rfl]
      · rw [if_neg h, if_neg h]
    · rename_i hge
      have hrest : memByte (if x.1 = k then m else x :: m) j = if j = k then 0 else memByte (x :: m) j := by
        by_cases hx : x.1 = k <;> by_cases hj : j = k
        · rw [if_pos hx, if_pos hj]
          exact memByte_of_lt (fun c hc => hj ▸ hx ▸ hp.1 c hc)
        · rw [if_pos hx, if_neg hj, memByte, if_neg (by omega)]
        · rw [if_neg hx, if_pos hj]
          refine memByte_of_lt (fun c hc => ?_)
          rcases List.mem_cons.mp hc with h | h
          · subst h; omega
          · have := hp.1 c h; omega
        · rw [if_neg hx, if_neg hj]
      split <;> rename_i hv
      · rw [hrest, hv]
      · rw [memByte, hrest]
        by_cases hj : j = k
        · rw [if_pos hj.symm, if_pos hj]
        · rw [if_neg (Ne.symm hj), if_neg hj, if_neg hj]

/-- Writing consecutive bytes keeps the canonical form. -/
theorem memPutAll_wf {m : List Host.Cell} (k : Nat) (bs : List Byte) (h : Memory.wf m) :
    Memory.wf (memPutAll m k bs) := by
  induction bs generalizing m k with
  | nil => exact h
  | cons b bs ih => exact ih _ (memPut_wf k b h)

/-- A byte after a write of consecutive bytes. -/
theorem memByte_memPutAll {m : List Host.Cell} (k j : Nat) (bs : List Byte) (h : Memory.wf m) :
    memByte (memPutAll m k bs) j = if k ≤ j ∧ j < k + bs.length then bs.getD (j - k) 0 else memByte m j := by
  induction bs generalizing m k with
  | nil => simp only [memPutAll, List.length_nil]; rw [if_neg (by omega)]
  | cons b bs ih =>
    rw [memPutAll, ih (k + 1) (memPut_wf k b h), memByte_memPut k j b h]
    by_cases hj : j = k
    · subst hj; simp
    · by_cases hk : k ≤ j
      · obtain ⟨d, rfl⟩ : ∃ d, j = k + 1 + d := ⟨j - k - 1, by omega⟩
        have : k + 1 + d - k = d + 1 := by omega
        simp [this]
        by_cases hd : d < bs.length
        · rw [if_pos (by omega), if_pos (by omega)]
        · rw [if_neg (by omega), if_neg (by omega), if_neg (by omega)]
      · rw [if_neg (by omega), if_neg hj, if_neg (by omega)]

/-- Forgetting bytes keeps the canonical form. -/
theorem memDrop_wf {m : List Host.Cell} (k n : Nat) (h : Memory.wf m) : Memory.wf (memDrop m k n) :=
  ⟨h.1.filter _, fun c hc => h.2 c (List.mem_of_mem_filter hc)⟩

/-- A byte after bytes are forgotten. -/
theorem memByte_memDrop (m : List Host.Cell) (k n j : Nat) :
    memByte (memDrop m k n) j = if k ≤ j ∧ j < k + n then 0 else memByte m j := by
  induction m with
  | nil => simp [memDrop, memByte]
  | cons x m ih =>
    have ih : memByte (m.filter (fun c => decide (c.1 < k) || decide (k + n ≤ c.1))) j
        = if k ≤ j ∧ j < k + n then 0 else memByte m j := ih
    by_cases hx : x.1 < k ∨ k + n ≤ x.1
    · simp only [memDrop, List.filter_cons, Bool.or_eq_true, decide_eq_true_eq, hx, if_true, memByte, ih]
      by_cases hj : x.1 = j
      · rw [if_pos hj, if_pos hj, if_neg (by omega)]
      · simp [hj]
    · simp only [memDrop, List.filter_cons, Bool.or_eq_true, decide_eq_true_eq, hx, if_false, ih, memByte]
      by_cases hj : x.1 = j
      · rw [if_pos (by omega), if_pos (by omega)]
      · simp [hj]

end Sys2Proof.Machine
end

