-- ==== Sys2Proof/Laws/Ops.lean ====
section
/-! SUPPORT. What each shared operation can do: the parts of the state it changes, what the mailbox path answers, and the
memory operations over the state. -/

namespace Sys2Proof.Machine

variable {s t u : State}

/-! Agreement outside named parts. -/

/-- `t` agrees with `s` in every part that `ps` does not name. -/
abbrev Within (ps : List Part) (s t : State) : Prop := ∀ q, q ∉ ps → q.same s t

theorem Part.same_refl (q : Part) (s : State) : q.same s s := by cases q <;> rfl

theorem Part.same_trans {q : Part} (h : q.same s t) (k : q.same t u) : q.same s u := by
  cases q <;> exact Eq.trans k h

theorem within_refl (ps : List Part) (s : State) : Within ps s s := fun q _ => q.same_refl s

theorem Within.trans {ps : List Part} (h : Within ps s t) (k : Within ps t u) : Within ps s u :=
  fun q hq => Part.same_trans (h q hq) (k q hq)

theorem Within.mono {ps qs : List Part} (h : Within ps s t) (sub : ∀ q ∈ ps, q ∈ qs) : Within qs s t :=
  fun q hq => h q (fun m => hq (sub q m))

/-- Two changes in a row change at most the parts that either names. -/
theorem Within.andThen {ps qs : List Part} (h : Within ps s t) (k : Within qs t u) : Within (ps ++ qs) s u :=
  (h.mono (by simp_all)).trans (k.mono (by simp_all))

theorem within_onlyIf {ps : List Part} (c : Bool) (f : State → State) (h : Within ps s (f s)) :
    Within ps s (onlyIf c f s) := by
  cases c
  · exact within_refl ps s
  · exact h

theorem within_onlyIf_after {ps : List Part} {c : Bool} {f : State → State} (h : Within ps s t)
    (k : Within ps t (f t)) : Within ps s (onlyIf c f t) := h.trans (within_onlyIf c f k)

theorem within_forAll {α : Type} {ps : List Part} (f : α → State → State) (l : List α)
    (h : ∀ a s, Within ps s (f a s)) (s : State) : Within ps s (forAll f l s) := by
  induction l generalizing s with
  | nil => exact within_refl ps s
  | cons a l ih => exact (h a s).trans (ih (f a s))

/-- An invariant that each element keeps, all of them keep. -/
theorem forAll_keeps {α : Type} {P : State → Prop} (f : α → State → State) (l : List α)
    (h : ∀ a s, P s → P (f a s)) (s : State) (hs : P s) : P (forAll f l s) := by
  induction l generalizing s with
  | nil => exact hs
  | cons a l ih => exact ih _ (h a s hs)

@[simp] theorem onlyIf_true (f : State → State) (s : State) : onlyIf true f s = f s := rfl

@[simp] theorem onlyIf_false (f : State → State) (s : State) : onlyIf false f s = s := rfl

theorem onlyIf_keeps {P : State → Prop} (c : Bool) (f : State → State) (h : P s → P (f s)) (hs : P s) :
    P (onlyIf c f s) := by
  cases c
  · exact hs
  · exact h hs

/-! Outcomes. -/

@[simp] theorem need_true (kind : String) (t : State) : need kind true t = .next t := rfl

/-- A command that needs an object answers a next state exactly where the module has it. -/
theorem need_next {kind : String} {ok : Bool} : need kind ok t = .next u ↔ ok = true ∧ t = u := by
  cases ok <;> simp [need]

/-! Time, cues and free values. -/

@[simp] theorem clockTo_tc (at_ : Nat) (s : State) : (clockTo at_ s).timing.tc = max s.timing.tc at_ := rfl

theorem now_le_clockTo (at_ : Nat) (s : State) : now s ≤ now (clockTo at_ s) := Nat.le_max_left ..

theorem cueAt_setCue (i j : Nat) (c : Cue) (s : State) : cueAt (setCue i c s) j = if j = i then c else cueAt s j := by
  unfold cueAt setCue
  by_cases hj : j = i
  · subst hj
    by_cases h0 : j = 0
    · simp [h0]
    · by_cases h1 : j = 1
      · simp [h1]
      · simp [h0, h1, show 2 ≤ j by omega]
  · by_cases h0 : j = 0
    · simp [h0, show ¬ i = 0 by omega, show ¬ 0 = i by omega]
    · by_cases h1 : j = 1
      · simp [h1, show ¬ i = 1 by omega, show ¬ 1 = i by omega]
      · by_cases hi : 2 ≤ i <;> simp [h0, h1, hi, hj, tabGet_set]

@[simp] theorem cueAt_setCue_same (i : Nat) (c : Cue) (s : State) : cueAt (setCue i c s) i = c := by
  simp [cueAt_setCue]

@[simp] theorem cueAt_clearCue_same (i : Nat) (s : State) : cueAt (clearCue i s) i = {} := cueAt_setCue_same ..

/-! Log entries and events. -/

theorem within_onEv (f : EvSt → EvSt) (s : State) : Within [.ev] s (onEv f s) := by
  intro q hq; cases q <;> simp_all [Part.same]

theorem within_onLog (f : LogSt → LogSt) (s : State) : Within [.log] s (onLog f s) := by
  intro q hq; cases q <;> simp_all [Part.same]

theorem within_onTherm (f : Thermal → Thermal) (s : State) : Within [.therm] s (onTherm f s) := by
  intro q hq; cases q <;> simp_all [Part.same]

theorem within_onFlt (f : Faults → Faults) (s : State) : Within [.flt] s (onFlt f s) := by
  intro q hq; cases q <;> simp_all [Part.same]

theorem within_onPair (f : Pair → Pair) (s : State) : Within [.pair] s (onPair f s) := by
  intro q hq; cases q <;> simp_all [Part.same]

theorem within_onCtrl (f : Ctrl → Ctrl) (s : State) : Within [.ctrl] s (onCtrl f s) := by
  intro q hq; cases q <;> simp_all [Part.same]

theorem within_onCues (f : Cues → Cues) (s : State) : Within [.cues] s (onCues f s) := by
  intro q hq; cases q <;> simp_all [Part.same]

theorem within_onBulk (f : Bulk → Bulk) (s : State) : Within [.bulk] s (onBulk f s) := by
  intro q hq; cases q <;> simp_all [Part.same]

theorem within_setCue (i : Nat) (c : Cue) (s : State) : Within [.cues] s (setCue i c s) := by
  intro q hq; cases q <;> simp_all [Part.same]

theorem within_clockTo (at_ : Nat) (s : State) : Within [.timing] s (clockTo at_ s) := by
  intro q hq; cases q <;> simp_all [Part.same]

theorem within_onUnitRec (k : Nat) (f : UnitRec → UnitRec) (s : State) : Within [.flt] s (onUnitRec k f s) := by
  intro q hq; cases q <;> simp_all [Part.same]

theorem within_onInjOf (k : Nat) (f : Inject → Inject) (s : State) : Within [.flt] s (onInjOf k f s) := by
  intro q hq; cases q <;> simp_all [Part.same]

theorem within_onSandOf (k : Nat) (f : Sand → Sand) (s : State) : Within [.bulk] s (onSandOf k f s) := by
  intro q hq; cases q <;> simp_all [Part.same]

theorem within_onTribOf (k : Nat) (f : Trib → Trib) (s : State) : Within [.svc] s (onTribOf k f s) := by
  intro q hq; cases q <;> simp_all [Part.same]

theorem within_raise (code vector src tag : Nat) (data : List Byte) (s : State) :
    Within [.ev, .log] s (raise code vector src tag data s) := by
  intro q hq; cases q <;> simp_all [Part.same]

theorem within_raiseEvent (m : Bool) (code vector src tag : Nat) (data : List Byte) (s : State) :
    Within [.ev, .log] s (raiseEvent m code vector src tag data s) := by
  intro q hq; cases q <;> simp_all [Part.same]

theorem within_record (e : LogEntry) (s : State) : Within [.log] s (record e s) := by
  intro q hq; cases q <;> simp_all [Part.same]

theorem within_sendMsix (v : Nat) (s : State) : Within [.ev] s (sendMsix v s) := by
  intro q hq; cases q <;> simp_all [Part.same, sendMsix]

theorem within_raiseVector (v : Nat) (s : State) : Within [.ctrl, .ev] s (raiseVector v s) :=
  ((within_onCtrl _ s).mono (by simp)).trans (within_onlyIf _ _ ((within_sendMsix v _).mono (by simp)))

/-- A log entry keeps the log within its sizes. -/
theorem logPut_bounded (e : LogEntry) (l : LogSt)
    (h : l.ring.length ≤ 16384 ∧ l.uncopied ≤ 16384 ∧ l.cont.length ≤ 1032192 ∧ l.after.length ≤ 256) :
    (logPut e l).ring.length ≤ 16384 ∧ (logPut e l).uncopied ≤ 16384 ∧ (logPut e l).cont.length ≤ 1032192
      ∧ (logPut e l).after.length ≤ 256 := by
  obtain ⟨h1, h2, h3, h4⟩ := h
  cases hf : l.frozen <;> simp [logPut, hf] <;> omega

theorem raise_bounded (code vector src tag : Nat) (data : List Byte) (h : LogBounded s) :
    LogBounded (raise code vector src tag data s) := logPut_bounded _ _ h

theorem record_bounded (e : LogEntry) (h : LogBounded s) : LogBounded (record e s) := logPut_bounded _ _ h

/-- The event just raised is the newest entry of the log. -/
theorem logged_raise (code vector src tag : Nat) (data : List Byte) (s : State) :
    Logged code src data (raise code vector src tag data s) := by
  cases hf : s.log.frozen
  · exact ⟨_, by simp [raise, raiseEvent, logPut, hf]; rfl, rfl, rfl, rfl⟩
  · exact ⟨_, by simp [raise, raiseEvent, logPut, hf]; rfl, rfl, rfl, rfl⟩

theorem within_freezeLog (cause : Nat) (s : State) : Within [.ev, .therm, .log] s (freezeLog cause s) := by
  unfold freezeLog
  split
  · exact ((within_record _ s).andThen (within_onLog _ _)).mono (by simp)
  · exact ((((within_record _ s).andThen (within_onLog _ _)).andThen (within_onTherm _ _)).andThen
      (within_raise _ _ _ _ _ _)).mono (by simp)

/-! Units, injection points and pair members. -/

theorem within_unitFault (typ idx : Nat) (s : State) : Within [.ev, .flt, .log] s (unitFault typ idx s) := by
  unfold unitFault
  dsimp only
  split
  · exact within_refl _ s
  · split
    · exact (((within_onUnitRec _ _ s).andThen (within_raise _ _ _ _ _ _)).andThen
        (within_onlyIf _ _ (within_onFlt _ _))).mono (by simp)
    · exact ((within_onUnitRec _ _ s).andThen (within_raise _ _ _ _ _ _)).mono (by simp)

@[simp] theorem unitFault_bulk (typ idx : Nat) (s : State) : (unitFault typ idx s).bulk = s.bulk :=
  within_unitFault typ idx s .bulk (by simp)

theorem within_retired (typ idx : Nat) (s : State) : Within [.therm, .flt] s (retired typ idx s) :=
  (((within_onUnitRec _ _ s).andThen (within_onFlt _ _)).andThen (within_onTherm _ _)).mono (by simp)

theorem within_notRetired (typ idx : Nat) (s : State) : Within [.flt] s (notRetired typ idx s) :=
  ((within_onUnitRec _ _ s).andThen (within_onFlt _ _)).mono (by simp)

theorem within_injAct (pt : Nat) (s : State) : Within [.ev, .flt, .log] s (injAct pt s) :=
  ((within_onInjOf _ _ s).andThen (within_raise _ _ _ _ _ _)).mono (by simp)

/-- A point that acts is disarmed. -/
theorem injAct_disarms (pt : Nat) (s : State) : injArmed (injAct pt s) pt = false := by
  have h : (injAct pt s).flt = (onInjOf pt (fun i => { i with armed := false, acted := satAdd max64 i.acted 1 }) s).flt :=
    rfl
  simp [injArmed, injOf, h]

theorem within_mirror (r : MirrorRecord) (s : State) : Within [.pair] s (mirror r s) :=
  within_onlyIf _ _ (within_onlyIf _ _ (within_onPair _ s))

theorem within_startResync (s : State) : Within [.svc, .pair] s (startResync s) :=
  ((within_onPair _ s).andThen (within_forAll _ _ (fun _ _ => within_onTribOf _ _ _) _)).mono (by simp)

theorem within_noteLate (late : Nat) (s : State) : Within [.ev, .cues, .log] s (noteLate late s) :=
  ((within_onCues _ s).andThen (within_onlyIf _ _ (within_raise _ _ _ _ _ _))).mono (by simp)

theorem within_cueDone (i at_ first : Nat) (s : State) : Within [.ev, .cues, .log] s (cueDone i at_ first s) :=
  (((within_setCue i {} s).andThen (within_onCues _ _)).andThen (within_onlyIf _ _ (within_noteLate _ _))).mono (by simp)

/-! Mailbox commands. -/

theorem within_mirrorCommand (r : Req) (a : Reply) : Within [.pair] a.st (mirrorCommand r a) :=
  within_onlyIf _ _ (within_mirror _ _)

/-- A response changes the registers, the interrupt flags and, on a lead, the mirror alone. -/
theorem within_respond (r : Req) (a : Reply) : Within [.ctrl, .ev, .pair] a.st (respond r a) :=
  (((within_mirrorCommand r a).andThen (within_onCtrl _ _)).andThen (within_raiseVector _ _)).mono (by simp)

/-- A command that a common check stops leaves every part but the response as it was. -/
theorem answer_of_gate {h : Shape} {body : Req → State → Reply} {r : Req} {c : Code} (g : gate h r s = some c) :
    answer h body r s = refuse c s := by simp [answer, g]

/-- A command that no common check stops answers by its own rules. -/
theorem answer_of_open {h : Shape} {body : Req → State → Reply} {r : Req} (g : gate h r s = none) :
    answer h body r s = body r s := by simp [answer, g]

/-- What an accepted command leaves: its own rules' reply, written as the response. -/
theorem mailbox_accepted {h : Shape} {mb : Nat} (body : Req → State → Reply) (acc : Accepted h mb s) :
    mailbox h body mb s = .next (respond (requestOf s mb) (body (requestOf s mb) s)) := by
  obtain ⟨hm, ha, hg⟩ := acc
  simp [mailbox, serve, hm, ha, answer_of_open hg]

/-- The same of a command whose execution goes on after its response. -/
theorem mailboxThen_accepted {h : Shape} {mb : Nat} (body : Req → State → Reply) (after : Req → State → State)
    (acc : Accepted h mb s) :
    mailboxThen h body after mb s = .next (onlyIf (!(body (requestOf s mb) s).same) (after (requestOf s mb))
      (respond (requestOf s mb) (body (requestOf s mb) s))) := by
  obtain ⟨hm, ha, hg⟩ := acc
  simp [mailboxThen, serveThen, serve, hm, ha, answer_of_open hg]

/-- A mailbox that holds no such command to be executed is left alone. -/
theorem serve_not_accepted {h : Shape} {body : Req → State → Reply} {mb : Nat} (acc : accepts h.op mb s = false) :
    serve h body mb s = s := by simp [serve, acc]

/-- A command changes at most what its own rules change, the response and, on a lead, the mirror. -/
theorem within_serve {ps : List Part} {h : Shape} {body : Req → State → Reply} (mb : Nat)
    (hb : ∀ r s, Within ps s (body r s).st) (s : State) :
    Within (ps ++ [.ctrl, .ev, .pair]) s (serve h body mb s) := by
  unfold serve
  split
  · refine Within.andThen ?_ (within_respond _ _)
    cases g : gate h (requestOf s mb) s with
    | some c => rw [answer_of_gate g]; exact within_refl ps s
    | none => rw [answer_of_open g]; exact hb _ s
  · exact within_refl _ s

/-! Bulk memory. -/

theorem memoryCanonical_of_bulk (h : t.bulk = s.bulk) (hs : MemoryCanonical s) : MemoryCanonical t := by
  simpa [MemoryCanonical, h] using hs

/-- A change outside the bulk memory keeps its form. -/
theorem Within.memoryCanonical {ps : List Part} (h : Within ps s t) (hp : Part.bulk ∉ ps) (hs : MemoryCanonical s) :
    MemoryCanonical t := memoryCanonical_of_bulk (h .bulk hp) hs

/-- A change outside the log keeps it within its sizes. -/
theorem Within.logBounded {ps : List Part} (h : Within ps s t) (hp : Part.log ∉ ps) (hs : LogBounded s) :
    LogBounded t := by
  have e : t.log = s.log := h .log hp
  simpa [LogBounded, e] using hs

theorem fillRegion_canonical (r : Nat) (h : MemoryCanonical s) : MemoryCanonical (fillRegion r s) :=
  onlyIf_keeps (P := MemoryCanonical) _ _ (fun hs => memDrop_wf _ _ hs) h

theorem within_sandAdd (g : Nat) (s : State) : Within [.ev, .bulk, .flt, .log] s (sandAdd g s) := by
  unfold sandAdd
  dsimp only
  apply within_onlyIf_after ((within_onSandOf g _ s).mono (by simp))
  exact ((within_raise _ _ _ _ _ _).andThen (within_unitFault 5 g _)).mono (by simp)

@[simp] theorem sandAdd_mem (g : Nat) (s : State) : (sandAdd g s).bulk.mem = s.bulk.mem :=
  onlyIf_keeps (P := fun t => t.bulk.mem = s.bulk.mem) _ _ (fun h => by rw [unitFault_bulk]; exact h) rfl

theorem within_correctedWord (addr : Nat) (s : State) :
    Within [.ev, .bulk, .flt, .log] s (correctedWord addr s) :=
  ((within_onBulk _ s).mono (by simp)).trans (within_sandAdd _ _)

theorem correctedWord_mem (addr : Nat) (s : State) : (correctedWord addr s).bulk.mem = s.bulk.mem := by
  rw [correctedWord, sandAdd_mem]; rfl

theorem uncorrectableWord_mem (c addr : Nat) (s : State) : (uncorrectableWord c addr s).bulk.mem = s.bulk.mem := by
  unfold uncorrectableWord
  rw [unitFault_bulk]; rfl

/-- A word's status stands beside the stored bytes. -/
@[simp] theorem setStatus_mem (w : Nat) (st : WordStatus) (s : State) : (setStatus w st s).bulk.mem = s.bulk.mem := by
  unfold setStatus
  split
  · rw [onLog_bulk]
  · rfl

@[simp] theorem losesLine_mem (w : Nat) (s : State) : (losesLine w s).bulk.mem = s.bulk.mem := rfl

theorem mergeWord_mem (addr syms : Nat) (s : State) : (mergeWord addr syms s).bulk.mem = s.bulk.mem := by
  unfold mergeWord
  split
  · exact setStatus_mem _ _ _
  · rw [correctedWord_mem, setStatus_mem]
  · exact onlyIf_keeps (P := fun t => t.bulk.mem = s.bulk.mem) _ _ (fun h => by rw [losesLine_mem]; exact h)
      (by rw [uncorrectableWord_mem]; exact setStatus_mem _ _ _)
  · rfl

/-- A write within a word keeps the canonical form. -/
theorem storeWord_canonical (addr : Nat) (data : List Byte) (syms : Nat) (h : MemoryCanonical s) :
    MemoryCanonical (storeWord addr data syms s) := by
  have hf := fillRegion_canonical (regionOf addr) h
  refine memPutAll_wf addr data ?_
  split
  · rw [setStatus_mem]; exact hf
  · rw [mergeWord_mem]; exact hf

/-- A write of any length keeps the canonical form. -/
theorem store_canonical (addr : Nat) (data : List Byte) (syms : Nat) (h : MemoryCanonical s) :
    MemoryCanonical (store addr data syms s) := by
  unfold store
  generalize data.length / 64 + 2 = n
  induction n generalizing addr data syms s with
  | zero => exact h
  | succ n ih =>
    simp only [storeFrom]
    split
    · exact h
    · exact ih _ _ _ (storeWord_canonical _ _ _ h)

theorem reset_canonical : MemoryCanonical State.reset := ⟨.nil, by decide⟩

theorem reset_logBounded : LogBounded State.reset := by decide

end Sys2Proof.Machine
end

