-- ==== Sys2Proof/Machine/Codes.lean ====
section
/-! DEFINITION. The Reed-Solomon codes of a bulk word (11_bulk_memory.md R327, R328) and of a host or pair lane (08_host_lanes.md
R251). A view: commands observe what a decoder reports of a word or codeword, not its symbols. The first symbol is the
coefficient of the highest power. -/

namespace Sys2Proof.Machine

/-! Reed-Solomon codes over a field whose product is `mul`. -/

def fieldPow (mul : Nat → Nat → Nat) (a : Nat) : Nat → Nat
  | 0 => 1
  | n + 1 => mul a (fieldPow mul a n)

/-- The generator polynomial with roots alpha^0 to alpha^(n - 1), alpha = 2: its coefficients from x^(n-1) down to x^0. -/
def rsGenerator (mul : Nat → Nat → Nat) (n : Nat) : List Nat :=
  (List.range n).foldl (fun p i =>
    (List.range p.length).map (fun k => p.getD (k + 1) 0 ^^^ mul (fieldPow mul 2 i) (p.getD k 0))
      |> fun q => p.headD 0 :: q) [1] |>.drop 1

/-- The check symbols of a message: the remainder of the message times x^n by the generator. -/
def rsCheck (mul : Nat → Nat → Nat) (gen msg : List Nat) : List Nat :=
  msg.foldl (fun reg m =>
    let f := m ^^^ reg.headD 0
    List.zipWith (fun r g => r ^^^ mul f g) (reg.drop 1 ++ [0]) gen) (List.replicate gen.length 0)

/-- Syndrome S_i of a word: its value at alpha^i. -/
def rsSyndrome (mul : Nat → Nat → Nat) (word : List Nat) (i : Nat) : Nat :=
  word.foldl (fun r c => mul r (fieldPow mul 2 i) ^^^ c) 0

/-! The bulk word (R327, R328). Elements of GF(2^8) are numbers whose bit i is the coefficient of x^i. -/

/-- Multiplication by alpha in GF(2^8), with x^8 = x^4 + x^3 + x^2 + 1. -/
def byteTimesAlpha (a : Nat) : Nat := if 128 ≤ a then (2 * a) ^^^ 0x11D else 2 * a

/-- The product in GF(2^8). -/
def byteMul (a b : Nat) : Nat :=
  (List.range 8).foldl (fun r i => let r2 := byteTimesAlpha r; if bitOf b (7 - i) then r2 ^^^ a else r2) 0

/-- The check bytes of 64 data bytes. -/
def wordCheck (data : List Nat) : List Nat := rsCheck byteMul (rsGenerator byteMul 4) data

/-- A stored word: its data and check bytes. -/
def storedWord (data : List Nat) : List Nat := data ++ wordCheck data

/-- The one change of the check bytes whose syndrome is (0, 0x01, 0, 0). -/
def poisonChange : List Nat := [146, 4, 33, 183]

/-- A poisoned word over its data bytes (R328). -/
def poisonedWord (data : List Nat) : List Nat := data ++ List.zipWith (· ^^^ ·) (wordCheck data) poisonChange

def wordSyndromes (w : List Nat) : List Nat := (List.range 4).map (rsSyndrome byteMul w)

/-- The syndromes of an error `e` in symbol `k`. -/
def symbolSyndromes (k e : Nat) : List Nat := (List.range 4).map (fun i => byteMul e (fieldPow byteMul 2 (i * (67 - k))))

/-- What the decoder reports of a word: a corrected one with its symbol and the value there. -/
inductive WordReport where
  | clean | corrected (symbol value : Nat) | poisoned | uncorrectable
  deriving DecidableEq, Repr

/-- The decoder: no error, poison, one symbol in error, or uncorrectable. -/
def wordReport (w : List Nat) : WordReport :=
  let ss := wordSyndromes w
  if ss = [0, 0, 0, 0] then .clean
  else if ss = [0, 1, 0, 0] then .poisoned
  else match (List.range 68).find? (fun k => symbolSyndromes k (ss.headD 0) == ss) with
    | some k => .corrected k (w.getD k 0 ^^^ ss.headD 0)
    | none => .uncorrectable

/-! The lane FEC (R251). -/

/-- The parity symbols of 528 symbols. -/
def laneParity (msg : List Nat) : List Nat := rsCheck codeMul (rsGenerator codeMul 16) msg

/-- The symbols of a codeword's bits: ten bits each, the first most significant. -/
def laneSymbols : Nat → List Bool → List Nat
  | 0, _ => []
  | n + 1, bs => bitsNat (bs.take 10) :: laneSymbols n (bs.drop 10)

/-- The codeword of 80 blocks given as 5,280 bits in transmission order. -/
def laneCodeword (bits : List Bool) : List Nat :=
  let msg := laneSymbols 528 bits
  msg ++ laneParity msg

/-- The product of two polynomials, constant coefficient first, below x^n. -/
def polyMul (n : Nat) (a b : List Nat) : List Nat :=
  (List.range n).map (fun k => (List.range (k + 1)).foldl (fun r i => r ^^^ codeMul (a.getD i 0) (b.getD (k - i) 0)) 0)

/-- The formal derivative: the odd powers, one lower. -/
def polyDerivative (a : List Nat) : List Nat :=
  (List.range (a.length - 1)).map (fun i => if i % 2 = 0 then a.getD (i + 1) 0 else 0)

/-- The value of the error at exponent `e` of x, by the locator and the evaluator. -/
def errorValue (loc eval : List Nat) (e : Nat) : Nat :=
  let y := codePow 2 (1023 - e)
  codeMul (codePow 2 e) (codeMul (codeEval eval y) (codeInv (codeEval (polyDerivative loc) y)))

/-- The lane decoder: the symbols it corrected and the codeword after it; none where more than 8 symbols are in error and it
finds no codeword within 8 (R251). -/
def laneDecode (cw : List Nat) : Option (Nat × List Nat) :=
  let ss := (List.range 16).map (rsSyndrome codeMul cw)
  let loc := berlekampMassey ss 16 0 [1] [1] 0 1 1
  let es := chienExponents loc
  let fixed := es.foldl (fun w e => w.set (543 - e) (w.getD (543 - e) 0 ^^^ errorValue loc (polyMul 16 ss loc) e)) cw
  if polyDegree loc ≤ 8 ∧ es.length = polyDegree loc ∧ es.all (· < 544) = true
    ∧ (List.range 16).all (fun i => rsSyndrome codeMul fixed i == 0) = true then some (es.length, fixed) else none

end Sys2Proof.Machine
end

