-- ==== Sys2Proof/Machine/LaneStream.lean ====
section
/-! DEFINITION. What a host lane sends, bit by bit (08_host_lanes.md R244, R248 to R251, R259): training frames, blocks, the
scrambler and the symbols. A view: commands take the content of frames and blocks, not their bits. -/

namespace Sys2Proof.Machine

/-! Training frames (R244, R259). -/

/-- The lane capability record that the module sends. -/
def laneRecord (s : State) (l : Nat) : List Byte :=
  let h := hostPort s ((lanePort s l).getD 0)
  [1, byteOf (widthCode h.width), byteOf (laneOf s l).logical, 1, b2w h.precode] ++ zeros 11

/-- The type of the frames that a lane sends; none where it sends none. After its countdown a lane in SWITCH sends PAM4 (R260). -/
def frameType (x : Lane) : Option Nat :=
  match x.st with
  | .detect | .train => some 1
  | .exchange => some 2
  | .switch => if x.count = 0 then none else some 3
  | .disabled | .active | .quiet | .deep | .retired => none

/-- Characters 1 to 23 of the next frame. -/
def frameBody (s : State) (l typ : Nat) : List Byte :=
  let x := laneOf s l
  [byteOf typ] ++ natBE 2 x.req.toNat ++ natBE 2 x.stat.toNat
    ++ [byteOf (b2n x.ready + 2 * b2n x.ack + (if typ = 3 then 16 * (x.count - 1) else 0)), 0]
    ++ (if typ = 1 then zeros 16 else laneRecord s l)

/-- The training pattern of characters 26 to 255. -/
def trainingPattern : List Byte := castBytes 230 (prbs11 1840 0x5A5).1

/-- Characters 1 to 255 of the next frame; character 0 is K28.5. -/
def frameChars (s : State) (l typ : Nat) : List Byte :=
  let b := frameBody s l typ
  b ++ natBE 2 (crc16 b) ++ trainingPattern

/-! The 8b/10b code (R244): the tables are those of IEEE 802.3 clause 36, to which the rule refers. -/

/-- abcdei of EDCBA at negative running disparity, a most significant. -/
def sixOf (x : Nat) : Nat :=
  [0x27, 0x1D, 0x2D, 0x31, 0x35, 0x29, 0x19, 0x38, 0x39, 0x25, 0x15, 0x34, 0x0D, 0x2C, 0x1C, 0x17,
    0x1B, 0x23, 0x13, 0x32, 0x0B, 0x2A, 0x1A, 0x3A, 0x33, 0x26, 0x16, 0x36, 0x0E, 0x2E, 0x1E, 0x2B].getD x 0

/-- fghj of HGF at negative running disparity, f most significant. -/
def fourOf (y : Nat) : Nat := [0xB, 0x9, 0x5, 0xC, 0xD, 0xA, 0x6, 0xE].getD y 0

def countOnes (w v : Nat) : Nat := (List.range w).countP (bitOf v)

/-- A sub-block of `w` bits as sent at a running disparity, true for positive, and the disparity after it: the complement
where it is unbalanced or one of the two balanced ones that alternate. -/
def subBlock (w v : Nat) (rd : Bool) : Nat × Bool :=
  let even := 2 * countOnes w v == w
  let turns := !even || v == 0x38 || (w == 4 && v == 0xC)
  (if rd && turns then 2 ^ w - 1 - v else v, rd != !even)

/-- The second sub-block's alternative of D.x.7, which avoids a run of five. -/
def alternate7 (x : Nat) (rd : Bool) : Bool :=
  if rd then x == 11 || x == 13 || x == 14 else x == 17 || x == 18 || x == 20

/-- A data character: ten bits, a first, and the running disparity after it. -/
def encodeData (b : Byte) (rd : Bool) : List Bool × Bool :=
  let x := b.toNat % 32
  let a := subBlock 6 (sixOf x) rd
  let c := subBlock 4 (if b.toNat / 32 = 7 ∧ alternate7 x a.2 = true then 0x7 else fourOf (b.toNat / 32)) a.2
  (bitsMsb 6 a.1 ++ bitsMsb 4 c.1, c.2)

/-- K28.5, which turns the running disparity. -/
def encodeComma (rd : Bool) : List Bool × Bool := (bitsMsb 10 (if rd then 0x305 else 0x0FA), !rd)

def encodeChars : List Byte → Bool → List Bool × Bool
  | [], rd => ([], rd)
  | b :: bs, rd =>
    let a := encodeData b rd
    let c := encodeChars bs a.2
    (a.1 ++ c.1, c.2)

/-- The 2,560 bits of the next frame from a running disparity, which is negative after electrical idle (R244). -/
def frameBits (s : State) (l typ : Nat) (rd : Bool) : List Bool × Bool :=
  let k := encodeComma rd
  let c := encodeChars (frameChars s l typ) k.2
  (k.1 ++ c.1, c.2)

/-! Blocks (R249): type codes of IEEE 802.3 clause 82, to which the rule refers, and the lane marker. -/

/-- A 66-bit block. `term` ends a packet with its last bytes, seven at most; `ordered` carries three bytes. -/
inductive LaneBlock where
  | data (bs : List Byte)
  | idle
  | start (bs : List Byte)
  | term (bs : List Byte)
  | ordered (bs : List Byte)
  | marker (width logical bsn : Nat)
  deriving DecidableEq, Repr

/-- Type of a terminate block by its data bytes. -/
def termType (n : Nat) : Byte := ([0x87, 0x99, 0xAA, 0xB4, 0xCC, 0xD2, 0xE1, 0xFF] : List Byte).getD n 0xFF

/-- The 8 payload bytes. -/
def blockPayload : LaneBlock → List Byte
  | .data bs => padTo 8 bs
  | .idle => 0x1E :: zeros 7
  | .start bs => 0x78 :: padTo 7 bs
  | .term bs => termType bs.length :: padTo 7 bs
  | .ordered bs => 0x4B :: padTo 7 bs
  | .marker w l bsn => [0x6C, byteOf (16 * w + l)] ++ natBE 6 bsn

/-- The header, its first bit first: 01 for data, 10 for every other block. -/
def blockHeader : LaneBlock → List Bool
  | .data _ => [false, true]
  | _ => [true, false]

/-- The blocks after a packet's start block: data blocks of eight bytes, and a terminate block of the rest. -/
def restBlocks : Nat → List Byte → List LaneBlock
  | 0, _ => []
  | n + 1, bs => if bs.length < 8 then [.term bs] else .data (bs.take 8) :: restBlocks n (bs.drop 8)

/-- A packet, shim first, as blocks: it begins in a start block and ends in a terminate block. -/
def streamOf (bs : List Byte) : List LaneBlock := .start (bs.take 7) :: restBlocks (bs.length / 8 + 1) (bs.drop 7)

/-! The port's stream (R255 to R257). -/

/-- Idle blocks between a packet of `n` bytes, shim included, and the next: with the rest of its terminate block they leave at least 20
bytes (R257). -/
def gapBlocks (n : Nat) : Nat := ceilDiv (20 - (7 - (n - 7) % 8)) 8

/-- The block stream of a port that sends packets, shims first, back to back; an empty queue gives idle blocks. -/
def portStream : List (List Byte) → List LaneBlock
  | [] => [.idle]
  | p :: ps => streamOf p ++ List.replicate (gapBlocks p.length) .idle ++ portStream ps

/-- The share of logical lane `i` of `w`: block n goes to lane n mod w (R255). -/
def laneShare (w i : Nat) (bs : List LaneBlock) : List LaneBlock :=
  (List.range (ceilDiv bs.length w)).map (fun k => bs.getD (w * k + i) .idle)

/-- What a lane carries of its port's stream: its share while the port is up; idle blocks on an ACTIVE lane of a port that is down; nothing
otherwise (R256). -/
def laneBlocks (s : State) (l : Nat) (bs : List LaneBlock) : List LaneBlock :=
  match lanePort s l with
  | none => []
  | some nn =>
    if (laneOf s l).st ≠ .active then []
    else
      let own := laneShare (hostPort s nn).width (laneOf s l).logical bs
      if (hostPort s nn).st = .up then own else List.replicate own.length .idle

/-! Low power (R262). -/

/-- What a transmit lane sends after the packet in progress on its way into QUIET or DEEP, before electrical idle. -/
def idleEntry : List LaneBlock := List.replicate 64 .idle

/-- A lane sends electrical idle. -/
def electricalIdle : LaneState → Bool
  | .disabled | .quiet | .deep | .retired => true
  | _ => false

/-- The transmit PLL and the CDR run; in QUIET the CDR holds phase and frequency, in DEEP both are off. -/
def pllOn : LaneState → Bool
  | .deep | .disabled | .retired => false
  | _ => true

/-- The CDR tracks what it receives. -/
def cdrTracks : LaneState → Bool
  | .quiet => false
  | st => pllOn st

/-! The scrambler (R250). Its register holds the last 58 bits sent, the newest first. -/

def scrambleBits : List Bool → List Bool → List Bool × List Bool
  | [], reg => ([], reg)
  | d :: ds, reg =>
    let b := d != (reg.getD 38 false != reg.getD 57 false)
    let r := scrambleBits ds (b :: reg.take 57)
    (b :: r.1, r.2)

/-- A block as sent: a lane marker is not scrambled and does not advance the scrambler. -/
def sentBlock (b : LaneBlock) (reg : List Bool) : List Bool × List Bool :=
  let bits := (blockPayload b).flatMap byteBits
  match b with
  | .marker .. => (blockHeader b ++ bits, reg)
  | _ => let r := scrambleBits bits reg
    (blockHeader b ++ r.1, r.2)

def sentBlocks : List LaneBlock → List Bool → List Bool × List Bool
  | [], reg => ([], reg)
  | b :: bs, reg =>
    let a := sentBlock b reg
    let c := sentBlocks bs a.2
    (a.1 ++ c.1, c.2)

/-- The codeword of 80 blocks, and the scrambler after it (R251). -/
def sentCodeword (bs : List LaneBlock) (reg : List Bool) : List Nat × List Bool :=
  let x := sentBlocks bs reg
  (laneCodeword x.1, x.2)

/-- The blocks of codeword `n` of a lane, counted from its entry to ACTIVE: a lane marker first in every 1,024th (R252, R254). -/
def codewordBlocks (s : State) (l n : Nat) (port : List LaneBlock) : List LaneBlock :=
  let w := widthCode (hostPort s ((lanePort s l).getD 0)).width
  (if n % 1024 = 0 then [LaneBlock.marker w (laneOf s l).logical (80 * n % 2 ^ 48)] else []) ++ port |>.take 80

/-! Symbols (R248). -/

/-- The Gray-mapped value 0 to 3 of a bit pair, for levels -3, -1, +1 and +3. -/
def pamValue (a b : Bool) : Nat := if a then (if b then 2 else 3) else (if b then 1 else 0)

def pamValues : List Bool → List Nat
  | a :: b :: l => pamValue a b :: pamValues l
  | _ => []

/-- The precoder 1/(1 + D) modulo 4, after the value sent last. -/
def precoded : List Nat → Nat → List Nat
  | [], _ => []
  | v :: vs, last =>
    let p := (v + 4 - last) % 4
    p :: precoded vs p

/-- The levels of a codeword on a lane, with the precoder where both records ask for it. -/
def pamLevels (s : State) (l : Nat) (cw : List Nat) (last : Nat) : List Int :=
  let vs := pamValues (cw.flatMap (bitsMsb 10))
  (if (laneOf s l).precode then precoded vs last else vs).map (fun v => 2 * (v : Int) - 3)

end Sys2Proof.Machine
end

