-- ==== Sys2Proof/Machine/Pins.lean ====
section
/-! DEFINITION. What the output lands show (19_package_and_pins.md R475 to R480), and the land grid: a view of the state. A level is `true` for
high, or for released on an open-drain land; no command reads a land into another part of the module. -/

namespace Sys2Proof.Machine

/-- PWR_GOOD (R463/18). -/
def pinPwrGood (s : State) : Bool := s.power.powered

/-- The outputs are at the levels of R477's last column: PWR_GOOD low, or RESET_N low. -/
def pinsAtRest (s : State) : Bool := !pinPwrGood s || s.power.resetHeld

/-- FAULT_N: low exactly while the healthy bit would be clear (R479). -/
def pinFaultN (s : State) : Bool := healthy s && !pinsAtRest s

/-- THERM_N: low while the thermal shutdown is latched; released at rest. -/
def pinThermN (s : State) : Bool := pinsAtRest s || !s.therm.shut

/-- INT_N0 and INT_N1 (R70/02). -/
def pinIntN (s : State) (n : Nat) : Bool := pinsAtRest s || !intPin s n

/-- LEN0 to LEN5, high asserted (R106, R108/03). -/
def pinLen (s : State) (p : Nat) : Bool := (txPort s p).len && !pinsAtRest s

/-- LTUNE0 to LTUNE5 in mV: none while at high impedance in the power-fail path and without power, 1,250 at rest
(R142/04, R465, R466/18). -/
def pinLtune (s : State) (p : Nat) : Option Int :=
  match s.power.phase with
  | .good => some (if s.power.resetHeld then 1250 else ltuneMv (rxPort s p))
  | .softStart => some 1250
  | _ => none

/-- REFOUT0 and REFOUT1 carry their clock: held low when disabled, squelched or at rest (R360/12). -/
def pinRefoutRuns (s : State) (n : Nat) : Bool := !pinsAtRest s && !refoutLow s n

/-! The land grid (R475, R476) and the fibres (R5/00, R480). -/

/-- The signal of a land; `neg` marks the N land of a differential pair. -/
inductive Land where
  | hostTx (lane : Nat) (neg : Bool) | hostRx (lane : Nat) (neg : Bool)
  | pairTx (lane : Nat) (neg : Bool) | pairRx (lane : Nat) (neg : Bool)
  | pcieTx (lane : Nat) (neg : Bool) | pcieRx (lane : Nat) (neg : Bool) | pcieRefclk (neg : Bool)
  | perst | scl | sda | addr (k : Nat) | intN (k : Nat) | faultN | thermN | resetN | pwrGood | role
  | arbClk | arbDi | arbDo | refin (k : Nat) (neg : Bool) | ppsIn | ppsOut | todIn | todOut
  | refout (k : Nat) (neg : Bool) | loscIn | len (p : Nat)
  | ltune (p : Nat) | th (p : Nat) | thRtn | rd (k : Nat) (neg : Bool) | ain (k : Nat) | calRef
  | dnc | vin | vinRtn | gnd
  deriving DecidableEq, Repr

/-- Pairs at columns 3i + 1 and 3i + 2. -/
def pairLand (n : Nat) (f : Nat → Bool → Land) (col : Nat) : Land :=
  if (col - 1) / 3 < n ∧ (col - 1) % 3 < 2 then f ((col - 1) / 3) ((col - 1) % 3 == 1) else .gnd

/-- Rows 1 to 16. -/
def hostLand (row col : Nat) : Land :=
  let lane (i : Nat) : Nat := 24 * ((row - 1) / 4) + i
  match (row - 1) % 4 with
  | 0 => pairLand 24 (fun i n => .hostTx (lane i) n) col
  | 2 => pairLand 24 (fun i n => .hostRx (lane i) n) col
  | _ => .gnd

/-- Row 59 (R477). -/
def controlLand (col : Nat) : Land :=
  match col with
  | 1 => .perst | 2 => .scl | 3 => .sda | 4 => .addr 0 | 5 => .addr 1 | 6 => .addr 2 | 7 => .intN 0 | 8 => .intN 1
  | 9 => .faultN | 10 => .thermN | 11 => .resetN | 12 => .pwrGood | 13 => .role | 14 => .arbClk | 15 => .arbDi
  | 16 => .arbDo | 25 => .ppsIn | 26 => .ppsOut | 27 => .todIn | 28 => .todOut | 33 => .loscIn
  | c =>
    if 17 ≤ c ∧ c ≤ 24 then .refin ((c - 17) / 2) ((c - 17) % 2 == 1)
    else if 29 ≤ c ∧ c ≤ 32 then .refout ((c - 29) / 2) ((c - 29) % 2 == 1)
    else if 34 ≤ c ∧ c ≤ 39 then .len (c - 34)
    else .gnd

/-- Row 61. -/
def analogLand (c : Nat) : Land :=
  if c < 7 then .ltune (c - 1)
  else if c < 13 then .th (c - 7)
  else if c = 13 then .thRtn
  else if c < 22 then .rd ((c - 14) / 2) ((c - 14) % 2 == 1)
  else if c < 26 then .ain (c - 22)
  else if c = 26 then .calRef
  else .gnd

/-- Land rr/cc, row 1 to 64 and column 1 to 72 (R476); every land that the table does not name is GND. -/
def landAt (row col : Nat) : Land :=
  if row ≤ 16 then hostLand row col
  else match row with
    | 17 => pairLand 4 .pairTx col
    | 19 => pairLand 4 .pairRx col
    | 21 => pairLand 3 (fun i n => if i < 2 then .pcieTx i n else .pcieRefclk n) col
    | 23 => pairLand 2 .pcieRx col
    | 57 => if col ≤ 16 then .dnc else .gnd
    | 59 => controlLand col
    | 61 => analogLand col
    | 63 | 64 => if col ≤ 24 then .vin else if col ≤ 48 then .vinRtn else .gnd
    | _ => .gnd

/-- The level that an output land holds; none for an input, an analog land or a land whose level follows a waveform now. -/
def landLevel (s : State) : Land → Option Bool
  | .pwrGood => some (pinPwrGood s)
  | .faultN => some (pinFaultN s)
  | .thermN => some (pinThermN s)
  | .intN k => some (pinIntN s k)
  | .len p => some (pinLen s p)
  | .refout k n => if pinRefoutRuns s k then none else some n
  | .arbDo | .ppsOut => if pinsAtRest s then some false else none
  | .todOut => if pinsAtRest s then some true else none
  | .scl | .sda => if pinsAtRest s then some true else none
  | _ => none

/-- The fibre at a position of the signal pigtail: whether it transmits, and its port (R480). -/
def signalFibre (pos : Nat) : Option (Bool × Nat) :=
  if 1 ≤ pos ∧ pos ≤ 6 then some (true, pos - 1) else if 7 ≤ pos ∧ pos ≤ 12 then some (false, 12 - pos) else none

/-- The port that a position of the laser-feed pigtail feeds (R5/00). -/
def feedFibre (pos : Nat) : Option Nat := if 1 ≤ pos ∧ pos ≤ 6 then some (pos - 1) else none

end Sys2Proof.Machine
end

