-- ==== Sys2Proof/Tests/Slice0.lean ====
section
/-! SUPPORT. Tests: ill-formed commands are stopped, worked examples of the spec and of the standards it names, and, for
every statement with hypotheses, a state and operands that meet them, clause by clause. -/

set_option Elab.async false

namespace Sys2Proof.Tests
open Sys2Proof Sys2Proof.Machine

/-- A module that is ready: the state after reset with power good and the firmware running. -/
def ready : State := { State.reset with
  ctrl := { stage := .ready, pcieUp := true, perst := false }
  power := { phase := .good, vin := 1200, powered := true } }

/-- Mailbox `mb` holds a request and is rung. -/
def mail (op : Nat) (pay : List Byte) (mb : Nat) (s : State) : State :=
  onCtrl (fun c => { c with
    mail := tabSet (zeros 256) c.mail mb (natBE 2 op ++ natBE 2 7 ++ natBE 2 pay.length ++ zeros 10 ++ pay ++ zeros (240 - pay.length))
    rung := c.rung ++ [mb]
    mbBusy := bvSet c.mbBusy mb }) s

/-- A payload from numbers of given sizes. -/
def bs (l : List (Nat × Nat)) : List Byte := l.flatMap (fun x => natBE x.1 x.2)


/-- The LLRs of some blocks as sent, each with the sign of its bit, and of a message's blocks. -/
def softBlocks (n : Nat) (info : List Byte) : List Int := (castBlocks n info).map (fun b => if b then -1 else 1)
def sentLlrs (n : Nat) (msg : List Byte) : List Int := softBlocks n (castInfo n msg)

theorem softBlocks_hard (n : Nat) (info : List Byte) : (softBlocks n info).map hardBit = castBlocks n info := by
  have hb : hardBit ∘ (fun b : Bool => if b then (-1 : Int) else 1) = id := by
    funext b
    cases b <;> rfl
  simp [softBlocks, hb]

theorem sentLlrs_read (n : Nat) (msg : List Byte) (hn : n ≠ 0) (h : msg.length + 4 ≤ 64 * n) :
    castPayload n msg.length (sentLlrs n msg) = some msg := castPayload_right n _ msg hn h (softBlocks_hard n _)

/-- A header of a module with identity 0. -/
def header (typ flags len : Nat) : List Byte :=
  let h := zeros 6 ++ [byteOf typ, byteOf flags] ++ natBE 2 len ++ zeros 4
  h ++ natBE 2 (crc16 h)

/-- A frame with a good header and every bit of its payload right is read. -/
theorem frame_read (hdr msg : List Byte) (h : msg.length ≤ 508) (hg : headerGood hdr = true)
    (hl : getU 8 2 hdr = msg.length) : frameRead hdr (sentLlrs beaconBlocks msg) = some msg := by
  rw [frameRead, if_pos hg, hl]
  exact sentLlrs_read _ msg (by decide) (by simp only [beaconBlocks]; omega)

/-- A beacon that grants a leaf of identity castIdent 4 the subcarriers of mask 6 in class 4. -/
def grantRecord : List Byte := [2] ++ natBE 6 (castIdent 4) ++ [3] ++ natBE 2 6 ++ [4] ++ zeros 5
/-- Capability records of a point-to-point port and of a hub. -/
def p2pRecord : List Byte := [2, 0x7C, 1, 1, 7, 0, 0, 0, 4, 4, 5, 6]
def hubRecord : List Byte := [2, 0x7C, 1, 1, 7, 0, 1, 0, 4, 4, 5, 6]

def grantBeacon : List Byte := zeros 48 ++ grantRecord ++ zeros 432

theorem grantRecord_ident : getU 1 6 grantRecord = castIdent 4 := by
  have h : field 1 6 grantRecord = natBE 6 (castIdent 4) := by simp [field, grantRecord, natBE]
  have hm : castIdent 4 < 256 ^ 6 := by
    have := Nat.mod_lt Config.serialNumber (show 0 < 2 ^ 45 by norm_num)
    simp only [castIdent]
    omega
  rw [getU, h, beNat_natBE, Nat.mod_eq_of_lt hm]

theorem grantBeacon_record : newRecords 4 { role := .leaf, join := .waitGrant } grantBeacon = [grantRecord] := by
  set_option maxRecDepth 4000 in
  have hf : (List.range 28).map (fun k => field (48 + 16 * k) 16 grantBeacon) = grantRecord :: List.replicate 27 (zeros 16) := by
    rfl
  have h0 : getU 0 1 grantRecord = 2 := by decide +kernel
  have hz : getU 0 1 (zeros 16) = 0 := by decide +kernel
  simp [newRecords, hf, h0, hz, grantRecord_ident]

/-! Ill-formed commands: one for each kind of operand. -/

theorem test_ill_formed_line : (Instr.rxCalibrationDone 6).wf = false ∧ (Instr.prefecBerWindow 96).wf = false
    ∧ (Instr.biasAlarm 0 4).wf = false ∧ (Instr.adcSliceRetire 0 4).wf = false ∧ (Instr.adcSliceFault 0 0 66).wf = false
    ∧ (Instr.codewordEncode 0 4).wf = false ∧ (Instr.leafSilentTimeout 0 16).wf = false := by decide +kernel

theorem test_ill_formed_service : (Instr.labelLookup 96).wf = false ∧ (Instr.creditReturn 3840).wf = false
    ∧ (Instr.slotFrameMap 0 40 0).wf = false ∧ (Instr.labelFillDone 1310720 false).wf = false
    ∧ (Instr.counterLineFillDone 2621440 false).wf = false ∧ (Instr.cipherLaneRetire 2).wf = false
    ∧ (Instr.contextMirrorReceive ⟨40960, 0, 0, 0, 0, 0, 0, 0⟩).wf = false := by decide +kernel

theorem test_ill_formed_memory : (Instr.bulkPartialWrite bulkEnd [0] 0).wf = false ∧ (Instr.sandglassLeak 71).wf = false
    ∧ (Instr.pseudoChannelRetire 64).wf = false ∧ (Instr.bulkRead 0 bulkEnd 0).wf = false := by decide +kernel

theorem test_ill_formed_control : (Instr.registerWrite (.pcie 2 0)).wf = false ∧ (Instr.registerWrite (.i2c 128 0 [])).wf = false
    ∧ (Instr.sysStatus 8).wf = false ∧ (Instr.msixModerationTimer 32).wf = false ∧ (Instr.cueAckReceive 4096).wf = false
    ∧ (Instr.waitToRestoreExpiry 13).wf = false ∧ (Instr.candidateActivityReturn 5).wf = false := by decide +kernel

theorem test_ill_formed_units : (Instr.paceMarginLow [(0, 5), (48, 0)]).wf = false ∧ (Instr.coreRestartDone 4).wf = false
    ∧ (Instr.pairLaneRetire 4).wf = false ∧ (Instr.d2dLaneRetire 66).wf = false ∧ (Instr.injectionEnd 0x036).wf = false
    ∧ (Instr.monSyncReset 4 0).wf = false ∧ (Instr.diodeValidityTimer 48 0 0).wf = false
    ∧ (Instr.calSlewStep 9 ⟨0, 0, 0⟩).wf = false ∧ (Instr.streamFifoFullWrite (.pairRx 4)).wf = false
    ∧ (Instr.smallFifoFullWrite (.monitor 4)).wf = false ∧ (Instr.mergedEventSample (.rsSymbols 96) 0).wf = false
    ∧ (Instr.holdFlagAck (.laneTaps 96)).wf = false ∧ (Instr.islandClockReturn (.bulkPhy 4 true)).wf = false
    ∧ (Instr.mirrorRecordReceive (.label 5242880 [])).wf = false := by decide +kernel

/-- A command that names an object the module does not have stops by name. -/
theorem test_ill_formed_faults : ∃ f, exec (.rxCalibrationDone 6) ready = .fault f := ⟨_, rfl⟩

/-! No row of the opcode table has bits. -/

theorem test_no_word_spells_a_command : decodeTableWord 32 0x12345678 = none := rfl

theorem test_fetch_word_changes_nothing : ready.withFetchWord 32 7 = ready := rfl

/-! The queue. -/

/-- With nothing waiting, one nanosecond passes. -/
theorem test_idle : step ready = .next { ready with timing := { tc := 65536, up := 65536 } } := rfl

theorem test_step_takes_the_front : (match step { ready with pending := [.loscWarmupDone, .timingLock] } with
    | .next t => t.timing.warm && t.pending == [.timingLock] | _ => false) = true := by decide +kernel

/-! Worked examples of the spec. -/

/-- LP2 with 16 subcarriers in use, `f5` of them at F5 and the others at F6, and its decoders' rate in iterations (R27/01, R170/05). -/
def lp2 (f5 rate : Nat) : State :=
  onPaceUnit 14 (fun u => { u with ach := some rate })
    (forAll (fun k => onRxSc (32 + k) (fun x => { x with cfg := if k < f5 then 5 else 6 })) (List.range 16)
      (onRxPort 2 (fun r => { r with st := .track, light := true }) ready))

theorem test_margin_example : margin (lp2 0 (8 * 201000)) 14 = some 99 ∧ margin (lp2 0 (8 * 206500)) 14 = some 129
    ∧ margin (lp2 8 (8 * 206500)) 14 = some 232 := by decide +kernel

theorem test_required_rate_example : requiredRate (lp2 0 0) 14 = 182857 ∧ requiredRate (lp2 8 0) 14 = 167619 := by
  decide +kernel

/-- The shims of R265's example. -/
theorem test_shim_example : shimLabel 0x20000E00 = 1048583 ∧ shimClass 0x20000E00 = 0 ∧ shimLabel 0x20000E90 = 1048583
    ∧ shimClass 0x20000E90 = 1 := by decide +kernel

/-- SC53 lies 55,625 MHz below the centre of LP3 (03_line_transmit.md). -/
theorem test_subcarrier_centre_example : scCentre 53 = -55625 := by decide +kernel

/-- Packet numbers of the example of R314. -/
theorem test_packet_number_example : rebuildPn 1073741820 5 = 1073741829
    ∧ rebuildPn 1073741829 0x3FFFFFFA = 1073741818 ∧ rebuildPn 0 1 = 1 ∧ rebuildPn 1073741829 7 = 1073741831 := by
  decide +kernel

theorem test_iv_example : ivOf 0x5EED0A11 true 1 = 0x5EED0A118000000000000001 := by decide +kernel

/-- A lease of 2 ms runs for 1,988 µs (the failover example of 13_pair_redundancy.md). -/
theorem test_lease_example : leaseTicks 2000 = ticksUs 1988 := by decide +kernel

/-- MC2 and MC3 interleaved, h = 2, Q = 49,152 (14_monitor_converters.md). -/
theorem test_converter_example : settling 2 2 49152 = 30 ∧ groupDelay 2 2 0 49152 = 1232422 := by decide +kernel

/-- The two-point calibration of MCH58 (15_thermal_and_calibration.md). -/
theorem test_two_point_example : lineOf 1000000 1001200 2500000 2502450 = (-366, -833) := by decide +kernel

/-- A thermistor of 10 kOhm at half of the full scale, the resistance it is specified at, is at 25.0 C (R421/15). -/
theorem test_thermistor_example : (thermistorTemp (2 ^ 19) 10000 3435).map (fun x => decide (x.1 = 250 * (x.2 : Int))) = some true := by
  decide +kernel

/-- A pre-FEC BER of 2.0e-2 is a Q of 6.25 dB (R174/05). -/
theorem test_q_example : qOfBer 2 100 = 625 := by decide +kernel

/-! Standards the spec names. -/

/-- The check values of CRC-32 (IEEE 802.3) and CRC-16 with polynomial 0x1021 and preset 0xFFFF over "123456789". -/
theorem test_crc_check_values : crc32 [0x31, 0x32, 0x33, 0x34, 0x35, 0x36, 0x37, 0x38, 0x39] = 0xCBF43926
    ∧ crc16 [0x31, 0x32, 0x33, 0x34, 0x35, 0x36, 0x37, 0x38, 0x39] = 0x29B1 := by decide +kernel

/-- The S-box example of FIPS 197. -/
theorem test_s_box : sBox 0x53 = 0xED := by decide +kernel

/-- The field and the checks of the codes (05_fec_engine.md R156, R158): x^10 is x^3 + 1, alpha has order 1,023, and a check
of row block 0 has the one parity position that the bidiagonal form gives it. -/
theorem test_code_field : codePow 2 10 = 9 ∧ codeMul 0x155 (codeInv 0x155) = 1 ∧ codePow (codePow 2 93) 11 = 1 := by decide +kernel
theorem test_check_positions : (checkPositions 0 5).filter (19380 ≤ ·) = [19385]
    ∧ (checkPositions 1 5).filter (19380 ≤ ·) = [19445, 19385] ∧ (checkPositions 0 5).head? = some 8 := by decide +kernel

/-- The example of R476 (19_package_and_pins.md): HL53 at 09/16 and 09/17, 11/16 and 11/17; 09/18 is GND. -/
theorem test_land_example : landAt 9 16 = .hostTx 53 false ∧ landAt 9 17 = .hostTx 53 true ∧ landAt 11 16 = .hostRx 53 false
    ∧ landAt 11 17 = .hostRx 53 true ∧ landAt 9 18 = .gnd := by decide +kernel
/-- 4,021 of the 4,608 lands are GND (R476). -/
theorem test_land_count : ((List.range 64).map (fun r => (List.range 72).countP (fun c => landAt (r + 1) (c + 1) == .gnd))).sum
    = 4021 := by decide +kernel
/-- A poisoned word, by itself and with one more symbol in error (11_bulk_memory.md R328). -/
theorem test_poisoned_word : wordReport (poisonedWord (List.replicate 64 0)) = .poisoned
    ∧ wordReport ((poisonedWord (List.replicate 64 0)).set 9 5) = .uncorrectable := by decide +kernel
/-- The Gray mapping of R248 (08_host_lanes.md), and K28.5 at negative running disparity. -/
theorem test_lane_symbols : pamValues [false, false, false, true, true, true, true, false] = [0, 1, 2, 3]
    ∧ (encodeComma false).1 = [false, false, true, true, true, true, true, false, true, false] := by decide +kernel

/-! Memory. -/

theorem test_memory_keeps_its_form : memPut (memPut [(3, 7)] 9 1) 3 0 = [(9, 1)]
    ∧ memPut (memPut [] 9 1) 3 7 = [(3, 7), (9, 1)] := by decide +kernel

/-- The first spares of a retirement are the lowest that another pseudo-channel holds (R345). -/
theorem test_first_spare : spareCount ready 5 = 3756879 ∧ regionCount ready 5 = 63728 := by decide +kernel


/-! Hypotheses that are met: one theorem for each statement, one conjunct for each clause. -/

theorem witness_StepRunsFrontCommand : ∃ (c : Instr) (rest : List Instr) (s : State), s.pending = c :: rest :=
    ⟨.timingLock, [.loscWarmupDone], { ready with pending := [.timingLock, .loscWarmupDone] }, rfl⟩

theorem witness_CommandsLeaveTheQueue : ∃ (c : Instr) (s t : State), exec c s = .next t := ⟨.loscWarmupDone, ready, _,
    rfl⟩

theorem witness_StepKeepsMemoryCanonical : ∃ s t : State, MemoryCanonical s ∧ step s = .next t :=
    ⟨{ ready with pending := [.loscWarmupDone], bulk := { mem := [(3, 7), (9, 1)] } }, _, by decide +kernel, rfl⟩

theorem witness_StepKeepsLogBounded : ∃ s t : State, LogBounded s ∧ step s = .next t :=
    ⟨{ ready with pending := [.loscWarmupDone] }, _, by decide +kernel, rfl⟩

theorem witness_RegisterWritesReadBack : (∃ s : State, busWorks .pcie s = true) ∧ (∃ (s : State), ∃ off, busWorks
    .pcie s = true ∧ off ∈ [0x0208, 0x020C, 0x0314, 0x0504]) ∧ (∃ (s : State), ∃ off, busWorks .pcie s = true ∧ off ∈
    [0x0000, 0x0008, 0x000C, 0x0204, 0x030C, 0x0400, 0x0404, 0x0408, 0x1034, 0x2800]) ∧ (∃ off, okOffset off = true ∧
    i2cReaches off = false) ∧ (∃ s : State, mailboxesWork s = true) ∧ (∃ v : Nat, ∃ s : State, okVec v = true ∧
    isImmediate v = false ∧ tabGet [] s.ev.modIdx v ≠ [] ∧ bvBit s.ctrl.intMask v = false) ∧ (∃ v : Nat, okVec v = true ∧
    isImmediate v = true) ∧ (∃ path : Path, ∃ s : State, busWorks path s = true) :=
  ⟨⟨ready, by decide +kernel⟩,
    ⟨ready, 0x0504, by decide +kernel⟩,
    ⟨ready, 0x2800, by decide +kernel⟩,
    ⟨0x0500, by decide +kernel⟩,
    ⟨onCtrl (fun c => { c with intStatus := 0xF000000F }) ready, by decide +kernel⟩,
    ⟨16, onEv (fun e => { e with modIdx := [(16, [3, 4])] }) (onCtrl (fun c => { c with intMask := 0 }) ready),
      by decide +kernel⟩,
    ⟨3, by decide +kernel⟩,
    ⟨.i2c, onTiming (fun x => { x with tc := 123456789 }) ready, by decide +kernel⟩⟩

theorem witness_DoorbellSubmits : (∃ path : Path, ∃ s : State, busWorks path s = true) ∧ (∃ val : Word, ∃ s : State,
    busWorks .i2c s = true ∧ bvBit val 0 = true ∧ bvBit s.ctrl.mbBusy 7 = false ∧ bvBit s.ctrl.mbDone 7 = false) ∧ (∃ val
    : Word, ∃ s : State, bvBit val 0 = true ∧ (bvBit s.ctrl.mbBusy 7 || bvBit s.ctrl.mbDone 7) = true) ∧ (∃ val : Word, ∃
    s : State, busWorks .i2c s = true ∧ bvBit val 0 = false) ∧ (∃ s : State, bvBit s.ctrl.mbBusy 7 = false ∧ bvBit
    s.ctrl.mbDone 7 = false) :=
  ⟨⟨.i2c, onCtrl (fun c => { c with i2cOwns := true, mbBusy := 5, mbDone := 2, rung := [0, 2] }) ready, by decide +kernel⟩,
    ⟨1, ready, by decide +kernel⟩,
    ⟨1, onCtrl (fun c => { c with mbBusy := 128 }) ready, by decide +kernel⟩,
    ⟨2, onCtrl (fun c => { c with i2cOwns := true }) ready, by decide +kernel⟩,
    ⟨onCtrl (fun c => { c with i2cOwns := true }) ready, by decide +kernel⟩⟩

theorem witness_EventRingDelivery : (∃ code src v : Nat, ∃ data : List Byte, ∃ s : State, vectorOf code src data =
    some v ∧ suppressed s code = false ∧ s.ev.backlog.length < 512) ∧ (∃ code src v : Nat, ∃ data : List Byte, ∃ s :
    State, vectorOf code src data = some v ∧ suppressed s code = false ∧ 512 ≤ s.ev.backlog.length) ∧ (∃ code src v : Nat,
    ∃ data : List Byte, ∃ s : State, vectorOf code src data = some v ∧ suppressed s code = true) ∧ (∃ code src : Nat, ∃
    data : List Byte, vectorOf code src data = none) ∧ (∃ s : State, mailboxesWork s = true ∧ s.ev.enable = false) ∧ (∃ (s
    : State), mailboxesWork s = true ∧ s.ev.enable = true) ∧ (∃ s : State, mailboxesWork s = true) ∧ (∃ (s : State),
    mailboxesWork s = false) ∧ (∃ (s : State), canDeliver s = false) ∧ (∃ e : Event, ∃ rest : List Event, ∃ s : State,
    canDeliver s = true ∧ lostDue s = false ∧ s.ev.backlog = e :: rest ∧ injArmed s 0x1A3 = false ∧ injFor s 0x1A2 0 =
    false) ∧ (∃ s : State, canDeliver s = true ∧ lostDue s = false ∧ s.ev.backlog ≠ [] ∧ s.ev.backlog.length ≤ 512) ∧ (∃
    val : Word, ∃ s : State, mailboxesWork s = true ∧ (val.toNat % 4096 + 4096 - s.ev.tail) % 4096 ≤ (s.ev.head + 4096 -
    s.ev.tail) % 4096) ∧ (∃ val : Word, ∃ s : State, mailboxesWork s = true ∧ (s.ev.head + 4096 - s.ev.tail) % 4096 <
    (val.toNat % 4096 + 4096 - s.ev.tail) % 4096) :=
  ⟨⟨0x0280, 95, 21, [], ready, by decide +kernel⟩,
    ⟨0x0100, 0, 9, [], onEv (fun e =>
      { e with backlog := List.replicate 512 (Event.mk 1 2 false 3 4 5 6 []), seq := 0xFFFFFFFF, lost := 0xFFFFFFFF })
      ready, by decide +kernel⟩,
    ⟨0x0100, 0, 9, [], onEv (fun e => { e with suppressed := [0x0100] }) ready, by decide +kernel⟩,
    ⟨0x0280, 96, [], by decide +kernel⟩,
    ⟨onEv (fun e => { e with baseLo := 0x1000, baseHi := 2, head := 5, tail := 3 }) ready, by decide +kernel⟩,
    ⟨onEv (fun e => { e with enable := true, head := 3 }) ready, by decide +kernel⟩,
    ⟨onEv (fun e => { e with enable := true }) ready, by decide +kernel⟩,
    ⟨State.reset, by decide +kernel⟩,
    ⟨ready, by decide +kernel⟩,
    ⟨Event.mk 0x0203 18 false 3 4 5 6 [], [Event.mk 0x0203 18 false 3 4 5 6 []], onEv (fun e =>
      { e with enable := true, head := 0, tail := 9, base := 0x1000, backlog := [Event.mk 0x0203 18 false 3 4 5 6 [], Event.mk 0x0203 18 false 3 4 5 6 []] })
      ready, by decide +kernel⟩,
    ⟨onEv (fun e =>
      { e with enable := true, head := 7, tail := 9, base := 0x1000, backlog := [Event.mk 0x0203 18 false 3 4 5 6 [], Event.mk 0x0203 18 false 3 4 5 6 []] })
      ready, by decide +kernel⟩,
    ⟨4097, onEv (fun e => { e with enable := true, head := 3, tail := 4095 }) ready, by decide +kernel⟩,
    ⟨5, onEv (fun e => { e with enable := true, head := 3, tail := 4095 }) ready, by decide +kernel⟩⟩

theorem witness_CrossingsBehave : (∃ p : Nat, okPort p = true) ∧ (∃ p : Nat, ∃ s : State, okPort p = true ∧ requiredUnits s
    (6 * p + 5) ≠ 0) ∧ (∃ p : Nat, ∃ s : State, okPort p = true ∧ requiredUnits s (6 * p + 5) = 0) ∧ (∃ l : Nat, okLane l = true) ∧ (∃ l : Nat, okPairLane l =
    true) ∧ (∃ x : Small, (x = .management ∨ x = .eventIngress)) ∧ (∃ n : Nat, ∃ s : State, okConv n = true ∧ 4096 ≤
    (convOf s n).fifo.length) ∧ (∃ s : State, 1024 ≤ s.svc.tsFifo.length) ∧ (∃ x : Merged, okMerged x = true) ∧ (∃ x :
    Hold, okHold x = true) ∧ (∃ x : Fifo, okFifo x = true) ∧ (∃ x : Fifo, ∃ s : State, okFifo x = true ∧ (fifoOf s
    (fifoKey x)).request = true) ∧ (∃ x : Fifo, ∃ s : State, okFifo x = true ∧ (fifoOf s (fifoKey x)).held = true) :=
  ⟨⟨5, by decide +kernel⟩,
    ⟨5, onTxPort 5 (fun x => { x with tx := .on }) ready, by decide +kernel⟩,
    ⟨5, ready, by decide +kernel⟩,
    ⟨95, by decide +kernel⟩,
    ⟨3, by decide +kernel⟩,
    ⟨.management, by decide +kernel⟩,
    ⟨3, onConvOf 3 (fun c => { c with fifo := List.replicate 4096 (3,4) }) ready, by decide +kernel⟩,
    ⟨onSvc (fun c => { c with tsFifo := List.replicate 1024 ⟨1,2,3⟩ }) ready, by decide +kernel⟩,
    ⟨.dacClip 1 0, by decide +kernel⟩,
    ⟨.timecode, by decide +kernel⟩,
    ⟨.stream (.adcToCore 3), by decide +kernel⟩,
    ⟨.stream (.adcToCore 3), onCross (fun c =>
      { c with fifo := (List.range 2000).map (fun k => (k, { full := true, overrun := true, request := true, held := true })) })
      ready, by decide +kernel⟩,
    ⟨.stream (.adcToCore 3), onCross (fun c =>
      { c with fifo := (List.range 2000).map (fun k => (k, { full := true, overrun := true, request := true, held := true })) })
      ready, by decide +kernel⟩⟩

theorem witness_CoreRailFollowsMargins : (∃ s : State, railGoverned s = false) ∧ (∃ s : State, railGoverned s = true ∧
    datapathIdle s = false ∧ 620 ≤ s.power.rail) ∧ (∃ (u : Nat), okUnit u = true) ∧ (∃ u ach : Nat, ∃ m : Int × Nat, ∃ s :
    State, okUnit u = true ∧ exactMargin (onPaceUnit u (fun x => { x with ach := some ach }) s) u = some m ∧ marginBelow m
    30 = true) ∧ (∃ u ach : Nat, ∃ m : Int × Nat, ∃ s : State, okUnit u = true ∧ exactMargin (onPaceUnit u (fun x =>
    { x with ach := some ach }) s) u = some m ∧ marginBelow m 60 = false) :=
  ⟨⟨State.reset, by decide +kernel⟩,
    ⟨onPower (fun w => { w with highTicks := 0, rail := 700 }) (onTxPort 0 (fun p => { p with tx := .on }) ([5, 4, 44,
      45, 46, 47].foldl (fun s u => onPaceUnit u (fun x => { x with forced := some 100 }) s) ready)), by decide +kernel⟩,
    ⟨47, by decide +kernel⟩,
    ⟨45, 16479999, (10079979000, 336000000), ready, by decide +kernel⟩,
    ⟨45, 16960000, (20160000000, 336000000), ready, by decide +kernel⟩⟩

theorem witness_LineTransmit : (∃ mb : Nat, ∃ s : State, Accepted ⟨0x0200, some 4, [(2, 2)]⟩ mb s ∧ okPort (arg s mb 0
    1) = true ∧ arg s mb 1 1 = 1) ∧ (∃ mb : Nat, ∃ s : State, Accepted ⟨0x0200, some 4, [(2, 2)]⟩ mb s ∧ okPort (arg s mb
    0 1) = true ∧ arg s mb 1 1 = 0 ∧ transmitting s (arg s mb 0 1) = true) ∧ (∃ (mb : Nat) (lo : Int) (s : State),
    Accepted ⟨0x0201, some 4, [(1, 3)]⟩ mb s ∧ okPort (arg s mb 0 1) = true ∧ ((hubPort s (arg s mb 0 1)).role = .leaf →
    (hubPort s (arg s mb 0 1)).owned ≠ 0) ∧ ((txPort s (arg s mb 0 1)).tx = .off ∨ (txPort s (arg s mb 0 1)).tx =
    .feedLost) ∧ resetting s (arg s mb 0 1) = false ∧ feedGood s (arg s mb 0 1) lo = true) ∧ (∃ p : Nat, ∃ s : State,
    okPort p = true ∧ (txPort s p).tx = .starting) ∧ (∃ mb : Nat, ∃ s : State, Accepted ⟨0x0202, some 4, [(1, 3)]⟩ mb s ∧
    okPort (arg s mb 0 1) = true ∧ (txPort s (arg s mb 0 1)).tx ≠ .off) ∧ (∃ p : Nat, ∃ lo : Int, ∃ s : State, okPort p =
    true ∧ transmitting s p = true ∧ (injOf s (0x01E + p)).running = false ∧ lo < 900) ∧ (∃ p : Nat, ∃ child : Nat, ∃ s :
    State, okPort p = true ∧ child < 4 ∧ transmitting s p = true) ∧ (∃ (mb : Nat) (feed : Int) (s : State), Accepted
    ⟨0x0203, some 8, []⟩ mb s ∧ okPort (arg s mb 0 1) = true ∧ arg s mb 1 1 ≤ 1 ∧ -150 ≤ argI s mb 2 2 ∧ argI s mb 2 2 ≤
    10 ∧ (argI s mb 2 2 ≤ -10 ∨ 1900 ≤ feed) ∧ (arg s mb 1 1 = 1 → -20000 ≤ argI s mb 4 4 ∧ argI s mb 4 4 ≤ 20000 ∧
    transmitting s (arg s mb 0 1) = false)) ∧ (∃ mb : Nat, ∃ s : State, Accepted ⟨0x0205, some 4, [(1, 3)]⟩ mb s ∧ okPort
    (arg s mb 0 1) = true) ∧ (∃ mb : Nat, ∃ s : State, Accepted ⟨0x0280, some 4, [(1, 1)]⟩ mb s ∧ okSc (arg s mb 0 1) =
    true ∧ -60 ≤ argI s mb 2 2 ∧ argI s mb 2 2 ≤ 30) ∧ (∃ mb : Nat, ∃ s : State, Accepted ⟨0x0281, some 4, [(1, 3)]⟩ mb s
    ∧ okSc (arg s mb 0 1) = true) :=
  ⟨⟨0, mail 0x0200 (bs [(1, 4), (1, 1), (2, 0)]) 0 (ready), by decide +kernel⟩,
    ⟨0, mail 0x0200 (bs [(1, 4), (1, 0), (2, 0)]) 0 (onTxPort 4 (fun z => { z with tx := .on, len := true }) (ready)),
      by decide +kernel⟩,
    ⟨0, 1100, mail 0x0201 (bs [(1, 4), (3, 0)]) 0 (onHubPort 4 (fun h => { h with role := .leaf, owned := 3 }) (onTxPort
      4 (fun z => { z with len := true }) (ready))), by decide +kernel⟩,
    ⟨4, onCtrl (fun c => { c with deferred := [⟨0x0201, 7, 4⟩] }) (onTxPort 4 (fun z =>
      { z with tx := .starting, bias := 1, len := true }) (ready)), by decide +kernel⟩,
    ⟨0, mail 0x0202 (bs [(1, 4), (3, 0)]) 0 (onTxPort 4 (fun z => { z with tx := .feedLost }) (ready)),
      by decide +kernel⟩,
    ⟨4, 899, onTxPort 4 (fun z => { z with tx := .on, len := true }) (ready), by decide +kernel⟩,
    ⟨4, 3, onTxPort 4 (fun z => { z with tx := .on, len := true }) (ready), by decide +kernel⟩,
    ⟨0, 1900, mail 0x0203 (bs [(1, 4), (1, 1), (2, 10), (4, 20000)]) 0 (ready), by decide +kernel⟩,
    ⟨0, mail 0x0205 (bs [(1, 4), (3, 0)]) 0 (onTxPort 4 (fun z => { z with tx := .on, len := true }) (ready)),
      by decide +kernel⟩,
    ⟨0, mail 0x0280 (bs [(1, 95), (1, 0), (2, 30)]) 0 (ready), by decide +kernel⟩,
    ⟨0, mail 0x0281 (bs [(1, 95), (3, 0)]) 0 (onTxSc 95 (fun z => { z with frames := 77 }) (ready)), by decide +kernel⟩⟩

theorem witness_FormatChanges : (∃ (mb : Nat) (b : Nat) (i : Nat) (j : Nat) (s : State), Accepted ⟨0x0204, some 30,
    [(1, 1)]⟩ mb s ∧ okPort (arg s mb 0 1) = true ∧ (hubPort s (arg s mb 0 1)).role = .p2p ∧ (txPort s (arg s mb 0
    1)).changes = [] ∧ (∀ k, k < 16 → bitOf (arg s mb 2 2) k = true → classOk (((field 14 16 (requestOf s mb).pay).map
    (·.toNat)).getD k 0) = true) ∧ wantedBoundary 4 (requestOf s mb) s = some b ∧ freeShared s = some i ∧ freeShared
    (placeCue i { state := 1, kind := 1, origin := 0, obj := arg s mb 0 1, time := b, tag := (requestOf s mb).tag } s) =
    some j) ∧ (∃ r : Req, ∃ s : State, ∃ off : Nat, ∃ b : Nat, wantedBoundary off r s = some b) ∧ (∃ (i : Nat) (at_ : Nat)
    (c : FormatChange) (s : State), okCue i = true ∧ dueOnGrid s i 1 at_ = true ∧ (hubPort s (cueAt s i).obj).role = .p2p
    ∧ (hubPort s (cueAt s i).obj).mism = false ∧ ((hubPort s (cueAt s i).obj).far = [] ∨ ∀ k, k < 16 → supports (getU 1 1
    (hubPort s (cueAt s i).obj).far) (if bitOf c.mask k then c.classes.getD k 0 else (txPort s (cueAt s
    i).obj).classes.getD k 0) = true) ∧ (txPort s (cueAt s i).obj).changes = [c] ∧ c.cue = i) :=
  ⟨⟨0, 281857228800, ((freeShared (mail 0x0204 (bs [(1, 4), (1, 0), (2, 32769), (10, 0), (1, 2), (1, 1), (1, 1), (1,
      1), (1, 1), (1, 1), (1, 1), (1, 1), (1, 1), (1, 1), (1, 1), (1, 1), (1, 1), (1, 1), (1, 1), (1, 6)]) 0 (onTiming
      (fun z => { z with tc := 123456789012 }) (ready)))).getD 999), ((fun (s : State) => (freeShared (placeCue
      ((freeShared s).getD 999) { state := 1, kind := 1, origin := 0, obj := 4, time := 281857228800, tag := 7 } s)).getD
      999) (mail 0x0204 (bs [(1, 4), (1, 0), (2, 32769), (10, 0), (1, 2), (1, 1), (1, 1), (1, 1), (1, 1), (1, 1), (1, 1),
      (1, 1), (1, 1), (1, 1), (1, 1), (1, 1), (1, 1), (1, 1), (1, 1), (1, 6)]) 0 (onTiming (fun z =>
      { z with tc := 123456789012 }) (ready)))), mail 0x0204 (bs [(1, 4), (1, 0), (2, 32769), (10, 0), (1, 2), (1, 1), (1,
      1), (1, 1), (1, 1), (1, 1), (1, 1), (1, 1), (1, 1), (1, 1), (1, 1), (1, 1), (1, 1), (1, 1), (1, 1), (1, 6)]) 0
      (onTiming (fun z => { z with tc := 123456789012 }) (ready)), by decide +kernel⟩,
    ⟨requestOf (mail 0x0204 (bs [(1, 4), (1, 0), (2, 32769), (10, 0), (1, 2), (1, 1), (1, 1), (1, 1), (1, 1), (1, 1),
      (1, 1), (1, 1), (1, 1), (1, 1), (1, 1), (1, 1), (1, 1), (1, 1), (1, 1), (1, 6)]) 0 (onTiming (fun z =>
      { z with tc := 123456789012 }) (ready))) 0, onTiming (fun z => { z with tc := 123456789012 }) (ready), 4,
      281857228800, by decide +kernel⟩,
    ⟨2, 281857228800, ⟨281857228800, 7, [6, 0, 3, 3, 3, 3, 3, 3, 3, 3, 3, 3, 3, 3, 3, 3], 2, 3⟩, onTxPort 4 (fun z =>
      { z with tx := .on, classes := [2,2,0,2,2,2,2,2,2,2,2,2,2,2,2,2], changes := [⟨281857228800, 7, [6, 0, 3, 3, 3, 3, 3, 3, 3, 3, 3, 3, 3, 3, 3, 3], 2, 3⟩] })
      (setCue 2 { state := 1, kind := 1, obj := 4, time := 281857228800 } (setCue 3
      { state := 1, kind := 4, origin := 1, obj := 4, time := 281857228800 } (onTiming (fun z =>
      { z with tc := 123456789012 }) (ready)))), by decide +kernel⟩⟩

theorem witness_ReceiverAcquisition : (∃ mb : Nat, ∃ lo : Int, ∃ s : State, Accepted ⟨0x0206, some 4, [(1, 3)]⟩ mb s ∧
    okPort (arg s mb 0 1) = true ∧ (rxPort s (arg s mb 0 1)).st = .off ∧ resetting s (arg s mb 0 1) = false ∧ feedGood s
    (arg s mb 0 1) lo = true) ∧ (∃ p : Nat, ∃ s : State, okPort p = true ∧ (rxPort s p).st = .calibrate) ∧ (∃ mb : Nat, ∃
    s : State, Accepted ⟨0x0207, some 4, [(1, 3)]⟩ mb s ∧ okPort (arg s mb 0 1) = true ∧ (rxPort s (arg s mb 0 1)).st ≠
    .off) ∧ (∃ p : Nat, ∃ power : Int, ∃ s : State, okPort p = true ∧ (rxPort s p).st = .noLight ∧ lightForced s p = false
    ∧ 10 * (rxPort s p).lolThr + 100 ≤ power) ∧ (∃ p : Nat, ∃ power : Int, ∃ s : State, okPort p = true ∧ afterCalibrate
    (rxPort s p).st = true ∧ power < 10 * (rxPort s p).lolThr) ∧ (∃ p : Nat, ∃ off : Int, ∃ s : State, okPort p = true ∧
    (rxPort s p).st = .afc ∧ -10000 ≤ off ∧ off ≤ 10000 ∧ (hubPort s p).role = .p2p) ∧ (∃ p : Nat, ∃ s : State, okPort p =
    true ∧ (rxPort s p).st = .afc) ∧ (∃ (p : Nat) (o : CdScores) (s : State), ∃ b, okPort p = true ∧ (rxPort s p).st =
    .cdScan ∧ scanBase (rxPort s p) o = some b) ∧ (∃ (p : Nat) (o : CdScores) (s : State), okPort p = true ∧ (rxPort s
    p).st = .cdScan ∧ scanBase (rxPort s p) o = none) ∧ (∃ (p : Nat) (s : State), okPort p = true ∧ (rxPort s p).st =
    .converge ∧ ungrantedLeaf s p = false ∧ convergedScs s p = []) ∧ (∃ sc : Nat, ∃ snr : Int, ∃ s : State, okSc sc = true
    ∧ rxLit s sc = true ∧ (rxSc s sc).conv = false ∧ ((rxPort s (scPort sc)).st = .converge ∨ (rxPort s (scPort sc)).st =
    .track) ∧ requiredSnr (rxClass s sc) - 300 ≤ snr) ∧ (∃ sc : Nat, ∃ snr : Int, ∃ s : State, okSc sc = true ∧ (rxSc s
    sc).conv = true ∧ snr < requiredSnr (rxClass s sc) - 400) ∧ (∃ p : Nat, ∃ s : State, okPort p = true ∧ (rxPort s p).st
    = .track ∧ convergedScs s p = []) :=
  ⟨⟨0, 1100, mail 0x0206 (bs [(1, 4), (3, 0)]) 0 (onTxPort 4 (fun z => { z with len := true }) (ready)),
      by decide +kernel⟩,
    ⟨4, onRxPort 4 (fun z => { z with st := .calibrate }) (ready), by decide +kernel⟩,
    ⟨0, mail 0x0207 (bs [(1, 4), (3, 0)]) 0 (onRxPort 4 (fun z => { z with st := .track }) (ready)), by decide +kernel⟩,
    ⟨4, -2900, onRxPort 4 (fun z => { z with st := .noLight }) (ready), by decide +kernel⟩,
    ⟨4, -3001, onRxSc 64 (fun z => { z with conv := true, cfg := 6 }) (onRxSc 65 (fun z =>
      { z with conv := true, cfg := 6 }) (onRxPort 4 (fun z => { z with st := .track }) (ready))), by decide +kernel⟩,
    ⟨4, -10000, onRxPort 4 (fun z => { z with st := .afc, manual := true }) (ready), by decide +kernel⟩,
    ⟨4, onRxPort 4 (fun z => { z with st := .afc }) (ready), by decide +kernel⟩,
    ⟨4, ⟨[Config.scanLimit + 1], []⟩, onRxPort 4 (fun z => { z with st := .cdScan }) (ready), -60000, by decide +kernel,
      by decide +kernel, by rw [show rxPort (onRxPort 4 (fun z => { z with st := .cdScan }) ready) 4 = { st := .cdScan }
      from by decide +kernel]; simp [scanBase, bestScore, scanSteps, clampInt]⟩,
    ⟨4, ⟨[], []⟩, onRxPort 4 (fun z => { z with st := .cdScan }) (ready), by decide +kernel⟩,
    ⟨4, onRxPort 4 (fun z => { z with st := .converge }) (ready), by decide +kernel⟩,
    ⟨64, 1450, onRxSc 64 (fun z => { z with cfg := 6 }) (onRxPort 4 (fun z => { z with st := .track }) (ready)),
      by decide +kernel⟩,
    ⟨64, 1349, onRxSc 64 (fun z => { z with conv := true, cfg := 6 }) (onRxSc 65 (fun z =>
      { z with conv := true, cfg := 6 }) (onRxPort 4 (fun z => { z with st := .track }) (ready))), by decide +kernel⟩,
    ⟨4, onRxPort 4 (fun z => { z with st := .track }) (ready), by decide +kernel⟩⟩

theorem witness_ReceiveSettingsAndQuality : (∃ mb : Nat, ∃ s : State, Accepted ⟨0x0208, some 24, [(21, 3)]⟩ mb s ∧
    okPort (arg s mb 0 1) = true ∧ arg s mb 1 1 ≤ 1 ∧ arg s mb 2 1 ≤ 1 ∧ arg s mb 3 1 ≤ 1 ∧ 1000 ≤ arg s mb 8 4 ∧ arg s mb
    8 4 ≤ 60000 ∧ -60000 ≤ argI s mb 4 4 - (arg s mb 8 4 : Int) ∧ argI s mb 4 4 + (arg s mb 8 4 : Int) ≤ 60000 ∧ 20 ≤ arg
    s mb 12 2 ∧ arg s mb 12 2 ≤ 1000 ∧ dissolveLenOk (arg s mb 14 2) = true ∧ -350 ≤ argI s mb 16 2 ∧ argI s mb 16 2 ≤
    -200 ∧ 100 ≤ arg s mb 18 2 ∧ arg s mb 18 2 ≤ 1000 ∧ 10 ≤ arg s mb 20 1 ∧ arg s mb 20 1 ≤ 50 ∧ (arg s mb 2 1 = 0 ∨
    (hubPort s (arg s mb 0 1)).role ≠ .hub)) ∧ (∃ mb : Nat, ∃ s : State, Accepted ⟨0x020D, some 4, [(1, 3)]⟩ mb s ∧ okPort
    (arg s mb 0 1) = true) ∧ (∃ (mb : Nat) (s : State), Accepted ⟨0x0282, some 4, [(3, 1)]⟩ mb s ∧ okSc (arg s mb 0 1) =
    true ∧ arg s mb 1 1 ≤ 6 ∧ 6 ≤ arg s mb 2 1 ∧ arg s mb 2 1 ≤ 14 ∧ ((hubPort s (scPort (arg s mb 0 1))).role = .leaf →
    bitOf (hubPort s (scPort (arg s mb 0 1))).owned (scIdx (arg s mb 0 1)) = true)) ∧ (∃ mb : Nat, ∃ s : State, Accepted
    ⟨0x0283, some 4, [(1, 3)]⟩ mb s ∧ okSc (arg s mb 0 1) = true) ∧ (∃ mb : Nat, ∃ s : State, Accepted ⟨0x0284, some 4,
    [(1, 3)]⟩ mb s ∧ okSc (arg s mb 0 1) = true ∧ rxLit s (arg s mb 0 1) = true ∧ resetting s (scPort (arg s mb 0 1)) =
    false) ∧ (∃ (sc : Nat) (q : LinkObs) (s : State), okSc sc = true ∧ rxLit s sc = true ∧ q.evm ≠ 0) ∧ (∃ sc : Nat, ∃
    stamp : Nat, ∃ a : Announce, ∃ s : State, okSc sc = true ∧ (rxPort s (scPort sc)).ann.find? (fun a => a.boundary ==
    stamp && bitOf a.mask (scIdx sc)) = some a) :=
  ⟨⟨0, mail 0x0208 (bs [(1, 4), (1, 1), (1, 1), (1, 1), (4, 4294917296), (4, 10000), (2, 20), (2, 256), (2, 65186), (2,
      1000), (1, 50), (3, 0)]) 0 (onRxPort 4 (fun z => { z with st := .track }) (ready)), by decide +kernel⟩,
    ⟨0, mail 0x020D (bs [(1, 4), (3, 0)]) 0 (onRxSc 64 (fun z => { z with conv := true, cfg := 6 }) (onRxSc 65 (fun z =>
      { z with conv := true, cfg := 6 }) (onRxPort 4 (fun z => { z with st := .track }) (ready)))), by decide +kernel⟩,
    ⟨0, mail 0x0282 (bs [(1, 64), (1, 6), (1, 14), (1, 0)]) 0 (onHubPort 4 (fun h =>
      { h with role := .leaf, owned := 1 }) (onRxPort 4 (fun z => { z with st := .track }) (ready))), by decide +kernel⟩,
    ⟨0, mail 0x0283 (bs [(1, 64), (3, 0)]) 0 (onRxSc 64 (fun z => { z with conv := true, cfg := 6 }) (onRxSc 65 (fun z
      => { z with conv := true, cfg := 6 }) (onRxPort 4 (fun z => { z with st := .track }) (ready)))), by decide +kernel⟩,
    ⟨0, mail 0x0284 (bs [(1, 64), (3, 0)]) 0 (onRxSc 64 (fun z => { z with conv := true, cfg := 6 }) (onRxSc 65 (fun z
      => { z with conv := true, cfg := 6 }) (onRxPort 4 (fun z => { z with st := .track }) (ready)))), by decide +kernel⟩,
    ⟨64, ⟨1, 5, 3, 2, 100, 0, 0, []⟩, onRxSc 64 (fun z => { z with cfg := 6 }) (onRxPort 4 (fun z =>
      { z with st := .converge }) (ready)), by decide +kernel⟩,
    ⟨64, 777, ⟨777, 0x8001, [6,0,0,0,0,0,0,0,0,0,0,0,0,0,0,5], false⟩, onRxPort 4 (fun z =>
      { z with ann := [⟨3, 0x8001, [6,0,0,0,0,0,0,0,0,0,0,0,0,0,0,5], false⟩, ⟨777, 0x8001, [6,0,0,0,0,0,0,0,0,0,0,0,0,0,0,5], false⟩] })
      (onRxSc 64 (fun z => { z with conv := true, cfg := 6 }) (onRxSc 65 (fun z => { z with conv := true, cfg := 6 })
      (onRxPort 4 (fun z => { z with st := .track }) (ready)))), by decide +kernel⟩⟩

theorem witness_DispersionEqualizer : (∃ mb : Nat, ∃ c : Nat, ∃ i : Nat, ∃ s : State, Accepted ⟨0x0209, some 84, [(1,
    1), (14, 2)]⟩ mb s ∧ okPort (arg s mb 0 1) = true ∧ dissolveLenOk (arg s mb 2 2) = true ∧ totalsOk (readSet 16 20
    (requestOf s mb)) = true ∧ cdCue 4 (requestOf s mb) s = some c ∧ cdDenied s (arg s mb 0 1) = false ∧ (cdOf s (arg s mb
    0 1)).state = 0 ∧ freeShared s = some i) ∧ (∃ mb : Nat, ∃ s : State, Accepted ⟨0x020A, some 72, [(1, 3)]⟩ mb s ∧
    okPort (arg s mb 0 1) = true ∧ totalsOk (readSet 4 8 (requestOf s mb)) = true ∧ cdDenied s (arg s mb 0 1) = false ∧
    (cdOf s (arg s mb 0 1)).state = 0) ∧ (∃ mb : Nat, ∃ c : Nat, ∃ i : Nat, ∃ s : State, Accepted ⟨0x020B, some 16, [(1,
    1), (14, 2)]⟩ mb s ∧ okPort (arg s mb 0 1) = true ∧ dissolveLenOk (arg s mb 2 2) = true ∧ cdCue 4 (requestOf s mb) s =
    some c ∧ cdDenied s (arg s mb 0 1) = false ∧ (cdOf s (arg s mb 0 1)).state = 0 ∧ freeShared s = some i) ∧ (∃ mb : Nat,
    ∃ s : State, Accepted ⟨0x020C, some 4, [(1, 3)]⟩ mb s ∧ okPort (arg s mb 0 1) = true) ∧ (∃ p : Nat, ∃ s : State,
    okPort p = true ∧ (cdOf s p).loading = true ∧ (cdOf s p).state = 0) ∧ (∃ (i : Nat) (at_ : Nat) (s : State), okCue i =
    true ∧ cueDue s i 3 at_ = true ∧ onBlock at_ = true ∧ now s ≤ at_ ∧ s.ctrl.stage = .ready ∧ firstDue s i at_ (sameObj
    s i) = true ∧ (cdOf s (cueAt s i).obj).state = 1 ∧ (cdOf s (cueAt s i).obj).cue = i ∧ 0 < (cdOf s (cueAt s
    i).obj).start ∧ (cdOf s (cueAt s i).obj).start ≤ at_) ∧ (∃ p : Nat, ∃ at_ : Nat, ∃ s : State, okPort p = true ∧ (cdOf
    s p).state = 2 ∧ (cdOf s p).staged = none ∧ blockTime (blockAfter (cdOf s p).start + (cdOf s p).len) ≤ at_ ∧ now s ≤
    at_) ∧ (∃ p : Nat, ∃ i : Nat, ∃ sc : Nat, ∃ res : List Int, ∃ s : State, okPort p = true ∧ (rxPort s p).st = .track ∧
    (rxPort s p).manual = false ∧ (cdOf s p).state = 0 ∧ sc ∈ portScs p ∧ rxLit s sc = true ∧ (rxPort s p).trackThr <
    (res.getD (scIdx sc) 0).natAbs ∧ freeOwn s = some i) :=
  ⟨⟨0, 0, ((fun (s : State) => (freeShared s).getD 999) (mail 0x0209 (bs [(1, 4), (1, 0), (2, 4096), (10, 0), (2, 0),
      (4, 60000), (4, 4294847296), (4, 4294847296), (4, 4294847296), (4, 4294847296), (4, 4294847296), (4, 4294847296),
      (4, 4294847296), (4, 4294847296), (4, 4294847296), (4, 4294847296), (4, 4294847296), (4, 4294847296), (4,
      4294847296), (4, 4294847296), (4, 4294847296), (4, 4294847296)]) 0 (onRxPort 4 (fun z =>
      { z with st := .track, manual := true }) (onTiming (fun z => { z with tc := 123456789012 }) (ready))))), mail 0x0209
      (bs [(1, 4), (1, 0), (2, 4096), (10, 0), (2, 0), (4, 60000), (4, 4294847296), (4, 4294847296), (4, 4294847296), (4,
      4294847296), (4, 4294847296), (4, 4294847296), (4, 4294847296), (4, 4294847296), (4, 4294847296), (4, 4294847296),
      (4, 4294847296), (4, 4294847296), (4, 4294847296), (4, 4294847296), (4, 4294847296), (4, 4294847296)]) 0 (onRxPort 4
      (fun z => { z with st := .track, manual := true }) (onTiming (fun z => { z with tc := 123456789012 }) (ready))),
      by decide +kernel⟩,
    ⟨0, mail 0x020A (bs [(1, 4), (3, 0), (4, 60000), (4, 4294847296), (4, 4294847296), (4, 4294847296), (4, 4294847296),
      (4, 4294847296), (4, 4294847296), (4, 4294847296), (4, 4294847296), (4, 4294847296), (4, 4294847296), (4,
      4294847296), (4, 4294847296), (4, 4294847296), (4, 4294847296), (4, 4294847296), (4, 4294847296)]) 0 (onRxPort 4
      (fun z => { z with st := .track, manual := true }) (onTiming (fun z => { z with tc := 123456789012 }) (ready))),
      by decide +kernel⟩,
    ⟨0, 0, ((fun (s : State) => (freeShared s).getD 999) (mail 0x020B (bs [(1, 4), (1, 0), (2, 16), (10, 0), (2, 0)]) 0
      (onRxPort 4 (fun z => { z with st := .track, manual := true }) (onTiming (fun z => { z with tc := 123456789012 })
      (ready))))), mail 0x020B (bs [(1, 4), (1, 0), (2, 16), (10, 0), (2, 0)]) 0 (onRxPort 4 (fun z =>
      { z with st := .track, manual := true }) (onTiming (fun z => { z with tc := 123456789012 }) (ready))),
      by decide +kernel⟩,
    ⟨0, mail 0x020C (bs [(1, 4), (3, 0)]) 0 (onRxPort 4 (fun z => { z with cd := { active := ⟨-5, []⟩, state := 2 } })
      (ready)), by decide +kernel⟩,
    ⟨4, onRxPort 4 (fun z => { z with cd := { loading := true } }) (ready), by decide +kernel⟩,
    ⟨9, 123494290773, onRxPort 4 (fun z => { z with cd := { state := 1, cue := 9, start := 123494290773, len := 16 } })
      (setCue 9 { state := 1, kind := 3, obj := 4, time := 123494290773 } (onTiming (fun z =>
      { z with tc := 123456789012 }) (ready))), by decide +kernel⟩,
    ⟨4, 123986422442, onRxPort 4 (fun z =>
      { z with cd := { state := 2, start := 123494290773, len := 16, active := ⟨3, []⟩, incoming := ⟨-7, []⟩ } })
      (onTiming (fun z => { z with tc := 123456789012 }) (ready)), by decide +kernel⟩,
    ⟨4, ((fun (s : State) => (freeOwn s).getD 999) (onRxSc 65 (fun z => { z with cfg := 6 }) (onRxPort 4 (fun z =>
      { z with st := .track }) (ready)))), 65, [0, -101], onRxSc 65 (fun z => { z with cfg := 6 }) (onRxPort 4 (fun z =>
      { z with st := .track }) (ready)), by decide +kernel⟩⟩

theorem witness_SlicesAndLtune : (∃ (p : Nat) (a : Nat) (sl : Nat) (skew : Int) (gain : Int) (off : Int) (fir : Int ×
    Int × Int), ∃ (s : State), okPort p = true ∧ okAdc a = true ∧ okSlice sl = true ∧ (rxPort s p).light = true ∧
    afterCalibrate (rxPort s p).st = true ∧ (rxPort s p).st ≠ .noLight ∧ (66 * a + sl) ∉ (rxPort s p).retired ∧ trimAtEnd
    (stepTrim skew gain off fir (trimOf (rxPort s p) (66 * a + sl))) = false) ∧ (∃ (p : Nat) (s : State), okPort p = true
    ∧ afterCalibrate (rxPort s p).st = true) ∧ (∃ (p : Nat) (a : Nat) (sl : Nat) (s : State), okPort p = true ∧ okAdc a =
    true ∧ okSlice sl = true ∧ receiving s p = true ∧ injFor s (4 * p + a) sl = false ∧ (unitRec s (unitKey 1 (sliceIndex
    p a sl))).retired = false ∧ (unitRec s (unitKey 1 (sliceIndex p a sl))).retiring = false) ∧ (∃ p : Nat, ∃ a : Nat, ∃
    sl : Nat, ∃ s : State, okPort p = true ∧ okAdc a = true ∧ okSlice sl = true ∧ (unitRec s (unitKey 1 (sliceIndex p a
    sl))).retrying = true) ∧ (∃ p : Nat, ∃ a : Nat, ∃ sl : Nat, ∃ ph : Nat, ∃ sp : Nat, ∃ rest : List Nat, ∃ s : State,
    okPort p = true ∧ okAdc a = true ∧ okSlice sl = true ∧ nextRetirement s 1 = some (sliceIndex p a sl) ∧ phaseOfSlice
    (rxPort s p) a sl = some ph ∧ spareSlices (rxPort s p) a = sp :: rest) ∧ (∃ p : Nat, ∃ s : State, okPort p = true ∧
    ltuneRuns s p = true ∧ ungrantedLeaf s p = false) ∧ (∃ mb : Nat, ∃ s : State, Accepted ⟨0x020E, some 4, [(1, 1)]⟩ mb s
    ∧ okPort (arg s mb 0 1) = true ∧ -2000 ≤ argI s mb 2 2 ∧ argI s mb 2 2 ≤ 2000 ∧ isFollower s (arg s mb 0 1) = false) ∧
    (∃ p : Nat, ∃ v : Int, ∃ s : State, okPort p = true ∧ s.ctrl.stage = .ready ∧ s.pair.role ≤ 1 ∧ isFollower s p = false
    ∧ (rxPort s p).cTarget = some v) :=
  ⟨⟨4, 3, 65, -1, 0, 1, (0, 0, 0), onRxPort 4 (fun z => { z with st := .track, light := true }) (ready),
      by decide +kernel⟩,
    ⟨4, onRxPort 4 (fun z => { z with st := .track, shadow := [(1, 63)] }) (ready), by decide +kernel⟩,
    ⟨4, 3, 65, onRxPort 4 (fun z =>
      { z with st := .track, goodTrims := [(263, some { skew := 1 })], trims := [(263, some { skew := 9 })] }) (ready),
      by decide +kernel⟩,
    ⟨4, 3, 65, onUnitRec (unitKey 1 (sliceIndex 4 3 65)) (fun u => { u with retrying := true }) (onRxPort 4 (fun z =>
      { z with st := .track }) (ready)), by decide +kernel⟩,
    ⟨4, 3, 5, 5, 64, [65], onFlt (fun z => { z with queue := [(1, sliceIndex 4 3 5)] }) (onRxPort 4 (fun z =>
      { z with st := .track }) (ready)), by decide +kernel⟩,
    ⟨4, onHubPort 4 (fun z => { z with role := .p2p }) (onHubPort 4 (fun z =>
      { z with role := .leaf, owned := 1, beaconOff := 700 }) (onRxSc 64 (fun z =>
      { z with conv := true, cfg := 6, freq := -600 }) (onRxPort 4 (fun z =>
      { z with st := .track, follower := true, afc := 100 }) (ready)))), by decide +kernel⟩,
    ⟨0, mail 0x020E (bs [(1, 4), (1, 0), (2, 63536)]) 0 (ready), by decide +kernel⟩,
    ⟨4, 30, onRxPort 4 (fun z => { z with st := .track, c := 0, cTarget := some 30 }) (ready), by decide +kernel⟩⟩

theorem witness_FecEngine : (∃ (sc : Nat) (c : Nat) (cw : List Bool), ∃ (s : State), okSc sc = true ∧ okCw c = true ∧
    txLit s sc = true ∧ cw = ldpcEncode (codewordInfo (txFrame s sc).frame c)) ∧ (∃ (sc : Nat) (c : Nat) (s : State), okSc
    sc = true ∧ okCw c = true ∧ rxLit s sc = true ∧ (fecPort s (scPort sc)).out.length < 192) ∧ (∃ (sc : Nat) (c : Nat) (s
    : State), okSc sc = true ∧ okCw c = true ∧ rxLit s sc = true ∧ 192 ≤ (fecPort s (scPort sc)).out.length) ∧ (∃ (sc :
    Nat) (c : Nat) (o : CwOut) (s : State), okSc sc = true ∧ okCw c = true ∧ (fecPort s (scPort sc)).out.find? (fun o =>
    o.sc == sc && o.c == c) = some o) ∧ (∃ sc : Nat, ∃ c : Nat, ∃ s : State, okSc sc = true ∧ okCw c = true ∧ rxLit s sc =
    true ∧ (fecPort s (scPort sc)).out.find? (fun o => o.sc == sc && o.c == c) = none) ∧ (∃ p : Nat, okPort p = true) ∧ (∃
    (p : Nat) (ach : Nat) (m : Int × Nat), ∃ (s : State), okPort p = true ∧ exactMargin (onPaceUnit (6 * p + 2) (fun u =>
    { u with ach := some ach }) s) (6 * p + 2) = some m ∧ marginBelow m 30 = true ∧ 3 < (fecPort s p).k) ∧ (∃ p : Nat, ∃ e
    : Nat, ∃ k : Nat, ∃ sp : Nat, ∃ rest : List Nat, ∃ s : State, okPort p = true ∧ e < 18 ∧ nextRetirement s 2 = some (18
    * p + e) ∧ (fecPort s p).engines.idxOf? e = some k ∧ spareEngines (fecPort s p) = sp :: rest) ∧ (∃ (p : Nat) (e : Nat)
    (k : Nat) (s : State), okPort p = true ∧ e < 18 ∧ nextRetirement s 2 = some (18 * p + e) ∧ (fecPort s
    p).engines.idxOf? e = some k ∧ spareEngines (fecPort s p) = [] ∧ lowestLit s p ≠ none) ∧ (∃ sc : Nat, okSc sc = true)
    ∧ (∃ mb : Nat, ∃ s : State, Accepted ⟨0x020F, some 4, [(3, 1)]⟩ mb s ∧ okPort (arg s mb 0 1) = true ∧ 4 ≤ arg s mb 1 1
    ∧ arg s mb 1 1 ≤ 16 ∧ arg s mb 1 1 ≤ arg s mb 2 1 ∧ arg s mb 2 1 ≤ min 16 (2 * arg s mb 1 1)) ∧ (∃ mb : Nat, ∃ s :
    State, Accepted ⟨0x0210, some 4, [(1, 3)]⟩ mb s ∧ okPort (arg s mb 0 1) = true) ∧ (∃ mb : Nat, ∃ s : State, Accepted
    ⟨0x0285, some 4, [(1, 3)]⟩ mb s ∧ okSc (arg s mb 0 1) = true) :=
  ⟨⟨64, 3, _, onTxPort 4 (fun z => { z with tx := .on, len := true, classes := [6,5,4,3,2,6,6,6,6,6,6,6,6,6,6,6] })
      (ready), by decide +kernel, by decide +kernel, by decide +kernel, rfl⟩,
    ⟨64, 3, (onRxSc 65 (fun z => { z with cfg := 6, conv := true }) (onRxSc 64 (fun z =>
      { z with cfg := 6, conv := true }) (onRxPort 4 (fun z => { z with st := .track, light := true }) (ready)))),
      by decide +kernel⟩,
    ⟨64, 3, onFecPort 4 (fun z => { z with out := List.replicate 192 ⟨64, 0, false, []⟩ }) (onRxSc 65 (fun z =>
      { z with cfg := 6, conv := true }) (onRxSc 64 (fun z => { z with cfg := 6, conv := true }) (onRxPort 4 (fun z =>
      { z with st := .track, light := true }) (ready)))), by decide +kernel⟩,
    ⟨64, 3, ⟨64, 3, true, []⟩, onFecPort 4 (fun z => { z with out := [⟨64, 2, false, []⟩, ⟨64, 3, true, []⟩] }) (onRxSc
      65 (fun z => { z with cfg := 6, conv := true }) (onRxSc 64 (fun z => { z with cfg := 6, conv := true }) (onRxPort 4
      (fun z => { z with st := .track, light := true }) (ready)))), by decide +kernel⟩,
    ⟨64, 3, onRxSc 65 (fun z => { z with cfg := 6, conv := true }) (onRxSc 64 (fun z =>
      { z with cfg := 6, conv := true }) (onRxPort 4 (fun z => { z with st := .track, light := true }) (ready))),
      by decide +kernel⟩,
    ⟨4, by decide +kernel⟩,
    ⟨4, 30000, (29, 1), onPaceUnit 26 (fun z => { z with forced := some 29 }) (onFecPort 4 (fun z =>
      { z with k := 4, n := 8, c := 16, debt := [(0, 9), (3, 20)] }) (onRxSc 65 (fun z =>
      { z with cfg := 6, conv := true }) (onRxSc 64 (fun z => { z with cfg := 6, conv := true }) (onRxPort 4 (fun z =>
      { z with st := .track, light := true }) (ready))))), by decide +kernel⟩,
    ⟨4, 2, 2, 16, [17], onFlt (fun z => { z with queue := [(2, 74)] }) ready, by decide +kernel⟩,
    ⟨4, 3, 2, onFlt (fun z => { z with queue := [(2, 75)] }) (onFecPort 4 (fun z =>
      { z with engines := [0, 1, 3], retired := [2, 4, 5, 6, 7, 8, 9, 10, 11, 12, 13, 14, 15, 16, 17] }) (onRxSc 65 (fun z
      => { z with cfg := 6, conv := true }) (onRxSc 64 (fun z => { z with cfg := 6, conv := true }) (onRxPort 4 (fun z =>
      { z with st := .track, light := true }) (ready))))), by decide +kernel⟩,
    ⟨64, by decide +kernel⟩,
    ⟨0, mail 0x020F (bs [(1, 4), (1, 4), (1, 8), (1, 0)]) 0 (ready), by decide +kernel⟩,
    ⟨0, mail 0x0210 (bs [(1, 4), (3, 0)]) 0 (onRxSc 65 (fun z => { z with cfg := 6, conv := true }) (onRxSc 64 (fun z =>
      { z with cfg := 6, conv := true }) (onRxPort 4 (fun z => { z with st := .track, light := true }) (ready)))),
      by decide +kernel⟩,
    ⟨0, mail 0x0285 (bs [(1, 64), (3, 0)]) 0 (onFecSc 64 (fun z => { z with decoded := 99, unc := 7 }) (onRxSc 65 (fun z
      => { z with cfg := 6, conv := true }) (onRxSc 64 (fun z => { z with cfg := 6, conv := true }) (onRxPort 4 (fun z =>
      { z with st := .track, light := true }) (ready))))), by decide +kernel⟩⟩

theorem witness_FramesCarryTheirOverhead : (∃ sc : Nat, ∃ at_ : Nat, ∃ s : State, okSc sc = true ∧ txLit s sc = true ∧
    onFrameGrid s sc at_ = true ∧ now s ≤ at_ ∧ isSingle s = true ∧ injFor s 0x031 sc = false ∧ injFor s 0x033 sc = false
    ∧ injFor s 0x034 sc = false) ∧ (∃ l : List Byte, 6 ≤ l.length) :=
  ⟨⟨64, 129207500800, onTxFrame 64 (fun z =>
      { z with trace := (List.range 64).map byteOf, pc := 0x12345678, gcc := true, gccQ := [1,2,3], bip := 7, kcq := [⟨3, [1,2,3], 0⟩], ctl := [⟨3, 4, [1], 2⟩] })
      (onTxPort 4 (fun z => { z with tx := .on, len := true, classes := [6,5,4,3,2,6,6,6,6,6,6,6,6,6,6,6] }) (onTiming
      (fun z => { z with tc := 123456789012 }) (ready))), by decide +kernel⟩,
    ⟨(List.range 30).map byteOf, by decide +kernel⟩⟩

theorem witness_FrameAlignment : (∃ (sc : Nat) (phase : Nat) (s : State), okSc sc = true ∧ rxLit s sc = true ∧
    (rxFramer s sc).st = .hunt ∧ phase = (rxFramer s sc).phase % symbolPhases s sc) ∧ (∃ sc : Nat, ∃ s : State, okSc sc =
    true ∧ (rxFramer s sc).st = .confirm 1 ∧ (rxSc s sc).conv = false) ∧ (∃ (sc : Nat) (o : FrameObs) (f : RxFrame) (s :
    State), okSc sc = true ∧ rxLit s sc = true ∧ (rxFramer s sc).cws.length = 4 ∧ isJudged s sc o.arr = true ∧ f = frameOf
    (rxFramer s sc).cws o ∧ injFor s 0x030 sc = false) :=
  ⟨⟨64, 7699, onRxFramer 64 (fun z => { z with st := .hunt, phase := 7699 }) (onRxSc 65 (fun z =>
      { z with cfg := 6, conv := true }) (onRxSc 64 (fun z => { z with cfg := 6, conv := true }) (onRxPort 4 (fun z =>
      { z with st := .track, light := true }) (ready)))), by decide +kernel⟩,
    ⟨64, onRxFramer 64 (fun z => { z with st := .confirm 1, phase := 7699 }) (onRxSc 64 (fun z =>
      { z with conv := false }) (onRxSc 65 (fun z => { z with cfg := 6, conv := true }) (onRxSc 64 (fun z =>
      { z with cfg := 6, conv := true }) (onRxPort 4 (fun z => { z with st := .track, light := true }) (ready))))),
      by decide +kernel⟩,
    ⟨64, ⟨123, 5000⟩, _, onRxFramer 64 (fun z =>
      { z with st := .inFrame, run := 4, cws := (List.range 4).map (fun c => ⟨64, c, false, List.replicate 18810 false⟩) })
      (onRxSc 65 (fun z => { z with cfg := 6, conv := true }) (onRxSc 64 (fun z => { z with cfg := 6, conv := true })
      (onRxPort 4 (fun z => { z with st := .track, light := true }) (ready)))), by decide +kernel, by decide +kernel,
      by decide +kernel, by decide +kernel, rfl, by decide +kernel⟩⟩

theorem witness_FrameCommands : (∃ mb : Nat, ∃ s : State, Accepted ⟨0x0300, some 132, [(3, 1)]⟩ mb s ∧ okSc (arg s mb 0 1)
    = true ∧ arg s mb 1 1 ≤ 3 ∧ arg s mb 2 1 ≤ 1) ∧ (∃ mb : Nat, ∃ s : State, Accepted ⟨0x0301, some 16, [(2, 2)]⟩ mb s ∧
    ((arg s mb 1 1 ≤ 7 ∧ arg s mb 0 1 < 6) ∨ (8 ≤ arg s mb 1 1 ∧ arg s mb 1 1 ≤ 9 ∧ arg s mb 0 1 = 0xFF)) ∧ defectTimeOk
    (arg s mb 1 1) (arg s mb 4 4) = true ∧ defectTimeOk (arg s mb 1 1) (arg s mb 8 4) = true ∧ (if arg s mb 1 1 = 4 ∨ arg
    s mb 1 1 = 5 then 100 ≤ arg s mb 12 4 ∧ arg s mb 12 4 ≤ 10000000 else arg s mb 12 4 = 0)) ∧ (∃ mb : Nat, ∃ s : State,
    Accepted ⟨0x0302, some 8, [(1, 3)]⟩ mb s ∧ okSc (arg s mb 0 1) = true) ∧ (∃ mb : Nat, ∃ s : State, Accepted ⟨0x0303,
    some 8, [(3, 1)]⟩ mb s ∧ okSc (arg s mb 0 1) = true ∧ arg s mb 1 1 ≤ 1 ∧ arg s mb 2 1 ≤ 1 ∧ (arg s mb 1 1 = 1 →
    portDefined s (arg s mb 4 2) = true) ∧ (arg s mb 2 1 = 1 → portDefined s (arg s mb 6 2) = true)) ∧ (∃ mb : Nat, ∃ s :
    State, Accepted ⟨0x0304, none, [(2, 2)]⟩ mb s ∧ okSc (arg s mb 0 1) = true ∧ 1 ≤ arg s mb 1 1 ∧ arg s mb 1 1 ≤ 224 ∧
    (requestOf s mb).len = 4 + arg s mb 1 1 ∧ txClass s (arg s mb 0 1) ≠ 0 ∧ (txFrame s (arg s mb 0 1)).kcq.length < 4) ∧
    (∃ mb : Nat, ∃ s : State, Accepted (bareShape 0x0305) mb s) ∧ (∃ mb : Nat, ∃ s : State, ∃ dep, ∃ arr, ∃ m, Accepted
    (objShape 0x0306) mb s ∧ okSc (arg s mb 0 1) = true ∧ (rxFramer s (arg s mb 0 1)).st = .inFrame ∧ rxLit s (arg s mb 0
    1) = true ∧ (rxFramer s (arg s mb 0 1)).stamp = some (dep, arr, m)) ∧ (∃ mb : Nat, ∃ s : State, Accepted (objShape
    0x0307) mb s ∧ okSc (arg s mb 0 1) = true) ∧ (∃ mb : Nat, ∃ s : State, Accepted (bareShape 0x0308) mb s) ∧ (∃ mb :
    Nat, ∃ s : State, Accepted ⟨0x0309, some 4, [(2, 2)]⟩ mb s ∧ arg s mb 0 2 ≤ 3072 ∧ arg s mb 0 2 % 768 = 0) :=
  ⟨⟨0, mail 0x0300 (bs [(1, 64), (1, 3), (1, 1), (1, 0), (1, 0), (1, 1), (1, 2), (1, 3), (1, 4), (1, 5), (1, 6), (1, 7), (1,
      8), (1, 9), (1, 10), (1, 11), (1, 12), (1, 13), (1, 14), (1, 15), (1, 16), (1, 17), (1, 18), (1, 19), (1, 20), (1,
      21), (1, 22), (1, 23), (1, 24), (1, 25), (1, 26), (1, 27), (1, 28), (1, 29), (1, 30), (1, 31), (1, 32), (1, 33), (1,
      34), (1, 35), (1, 36), (1, 37), (1, 38), (1, 39), (1, 40), (1, 41), (1, 42), (1, 43), (1, 44), (1, 45), (1, 46), (1,
      47), (1, 48), (1, 49), (1, 50), (1, 51), (1, 52), (1, 53), (1, 54), (1, 55), (1, 56), (1, 57), (1, 58), (1, 59), (1,
      60), (1, 61), (1, 62), (1, 63), (1, 64), (1, 65), (1, 66), (1, 67), (1, 68), (1, 69), (1, 70), (1, 71), (1, 72), (1,
      73), (1, 74), (1, 75), (1, 76), (1, 77), (1, 78), (1, 79), (1, 80), (1, 81), (1, 82), (1, 83), (1, 84), (1, 85), (1,
      86), (1, 87), (1, 88), (1, 89), (1, 90), (1, 91), (1, 92), (1, 93), (1, 94), (1, 95), (1, 96), (1, 97), (1, 98), (1,
      99), (1, 100), (1, 101), (1, 102), (1, 103), (1, 104), (1, 105), (1, 106), (1, 107), (1, 108), (1, 109), (1, 110),
      (1, 111), (1, 112), (1, 113), (1, 114), (1, 115), (1, 116), (1, 117), (1, 118), (1, 119), (1, 120), (1, 121), (1,
      122), (1, 123), (1, 124), (1, 125), (1, 126), (1, 127)]) 0 (ready), by decide +kernel⟩,
    ⟨0, mail 0x0301 (bs [(1, 255), (1, 9), (2, 0), (4, 0), (4, 5), (4, 0)]) 0 (onFrameSt (fun z =>
      { z with defects := [(5, ⟨true, 4⟩), (20544, ⟨false, 9⟩), (32768, ⟨true, 3⟩)] }) (ready)), by decide +kernel⟩,
    ⟨0, mail 0x0302 (bs [(1, 64), (3, 0), (4, 2271560481)]) 0 (ready), by decide +kernel⟩,
    ⟨0, mail 0x0303 (bs [(1, 64), (1, 0), (1, 0), (1, 0), (2, 9), (2, 65535)]) 0 (onTxFrame 64 (fun z =>
      { z with gccQ := [1] }) (ready)), by decide +kernel⟩,
    ⟨0, mail 0x0304 (bs [(1, 64), (1, 1), (2, 0), (1, 0)]) 0 (onTxFrame 64 (fun z => { z with kcNum := 15 }) (onTxPort 4 (fun
      z => { z with tx := .on, len := true, classes := [6,5,4,3,2,6,6,6,6,6,6,6,6,6,6,6] }) (ready))), by decide +kernel⟩,
    ⟨0, mail 0x0305 (bs []) 0 (ready), by decide +kernel⟩,
    ⟨0, mail 0x0306 (bs [(1, 64), (3, 0)]) 0 (onRxFramer 64 (fun z =>
      { z with st := .inFrame, stamp := some (123456789012345678, 1234567890123, 200) }) (onRxSc 65 (fun z =>
      { z with cfg := 6, conv := true }) (onRxSc 64 (fun z => { z with cfg := 6, conv := true }) (onRxPort 4 (fun z =>
      { z with st := .track, light := true }) (ready))))), 123456789012345678, 1234567890123, 200, by decide +kernel⟩,
    ⟨0, mail 0x0307 (bs [(1, 64), (3, 0)]) 0 (onFrameSt (fun z =>
      { z with defects := [(4, ⟨true, 4⟩), (4160, ⟨true, 4⟩), (8256, ⟨false, 4⟩), (28736, ⟨true, 0⟩), (28767, ⟨true, 0⟩)] })
      (onRxFramer 64 (fun z => { z with st := .confirm 2, mf := true, falseC := 7 }) (onRxSc 65 (fun z =>
      { z with cfg := 6, conv := true }) (onRxSc 64 (fun z => { z with cfg := 6, conv := true }) (onRxPort 4 (fun z =>
      { z with st := .track, light := true }) (ready)))))), by decide +kernel⟩,
    ⟨0, mail 0x0308 (bs []) 0 (onFrameSt (fun z =>
      { z with defects := [(4, ⟨true, 4⟩), (4160, ⟨true, 4⟩), (8256, ⟨false, 4⟩), (28736, ⟨true, 0⟩), (28767, ⟨true, 0⟩)] })
      (onRxFramer 64 (fun z => { z with st := .confirm 2, mf := true, falseC := 7 }) (onRxSc 65 (fun z =>
      { z with cfg := 6, conv := true }) (onRxSc 64 (fun z => { z with cfg := 6, conv := true }) (onRxPort 4 (fun z =>
      { z with st := .track, light := true }) (ready)))))), by decide +kernel⟩,
    ⟨0, mail 0x0309 (bs [(2, 768), (2, 0)]) 0 (onFrameSt (fun z =>
      { z with defects := [(33536, ⟨true, 4⟩), (37632, ⟨true, 4⟩), (38400, ⟨true, 4⟩), (33543, ⟨true, 4⟩)] }) (ready)), by
      decide +kernel⟩⟩

theorem witness_DefectsIntegrateAndMask : ∃ s : State, running s = true := ⟨ready, by decide +kernel⟩

theorem witness_PerformanceMonitoring : (∃ at_ : Nat, ∃ s : State, running s = true ∧ at_ % ticksSec 1 = 0 ∧ now s ≤
    at_) ∧ (∃ (i : Nat) (at_ : Nat) (s : State), i < 2 ∧ (cueAt s i).time ≤ at_ ∧ now s ≤ at_ ∧ s.ctrl.stage = .ready ∧
    firstDue s i at_ (fun _ => true) = true) ∧ (∃ day : Bool, ∃ cur : PmEpoch, ∃ e : PmEpoch, ∃ rest : List PmEpoch, ∃ s :
    State, running s = true ∧ (if day then s.frame.ep24 else s.frame.ep15) = cur :: e :: rest ∧ e.final = false ∧ (∀ x ∈
    rest, x.final = true)) ∧ (∃ mb : Nat, ∃ s : State, Accepted ⟨0x0380, some 4, [(1, 1)]⟩ mb s ∧ 1 ≤ arg s mb 0 1 ∧ arg s
    mb 0 1 ≤ 50 ∧ arg s mb 2 2 ≤ 95) ∧ (∃ mb : Nat, ∃ s : State, Accepted ⟨0x0381, some 16, [(6, 2)]⟩ mb s ∧ arg s mb 0 1
    ≤ 1 ∧ arg s mb 1 1 ≤ 1 ∧ arg s mb 2 1 ≤ 13 ∧ (6 ≤ arg s mb 2 1 ∨ arg s mb 3 1 % 2 = 0) ∧ (arg s mb 0 1 = 0 ∨ (arg s mb
    2 1 ≠ 4 ∧ arg s mb 2 1 < 6)) ∧ arg s mb 4 2 < (if arg s mb 0 1 = 0 then 96 else 3840)) ∧ (∃ (mb : Nat) (o : PmObj) (k
    : PmBin) (b : PmBin) (s : State), Accepted ⟨0x0382, some 8, [(3, 1), (6, 2)]⟩ mb s ∧ arg s mb 0 1 ≤ 1 ∧ arg s mb 1 1 ≤
    1 ∧ arg s mb 2 1 ≤ (if arg s mb 1 1 = 0 then 32 else 1) ∧ arg s mb 4 2 < (if arg s mb 0 1 = 0 then 96 else 3840) ∧ o =
    pmObj s (pmKey (arg s mb 0 1) (arg s mb 4 2)) ∧ k = (if arg s mb 1 1 = 0 then o.bins15 else o.bins24).getD (arg s mb 2
    1) {} ∧ b = (if k.lost then {} else k)) ∧ (∃ mb : Nat, ∃ s : State, Accepted ⟨0x0383, some 4, [(1, 1)]⟩ mb s ∧ arg s
    mb 0 1 ≤ 1 ∧ arg s mb 2 2 < (if arg s mb 0 1 = 0 then 96 else 3840)) ∧ (∃ (mb : Nat) (s : State), Accepted ⟨0x0383,
    some 4, [(1, 1)]⟩ mb s ∧ arg s mb 0 1 ≤ 1 ∧ arg s mb 2 2 = 0xFFFF) :=
  ⟨⟨131072000000000, onTiming (fun z => { z with tc := 123456789012 }) (onFrameSt (fun z =>
      { z with pm := [(64, { recent := List.replicate 9 ⟨true, true, 0, 0, 0⟩, bins15 := [{ secs := 9, es := 3, ses := 9, bbe := 4 }, {}] })] })
      (onRxFramer 64 (fun z => { z with st := .inFrame, mf := true, secFrames := 100, secErr := 0 }) (onRxSc 65 (fun z =>
      { z with cfg := 6, conv := true }) (onRxSc 64 (fun z => { z with cfg := 6, conv := true }) (onRxPort 4 (fun z =>
      { z with st := .track, light := true }) (ready)))))), by decide +kernel⟩,
    ⟨0, 131072000000000, setCue 0
      { state := 1, kind := 9, period := 900000, nominal := 65536000000000, time := 65536000000000 } (onFrameSt (fun z =>
      { z with pm := [(64, { raised := [4], bins15 := [{ secs := 9, corr := 5 }, { secs := 8 }, { bbe := 3 }], bins24 := [{ secs := 99 }, {}] }), (10007, { bins15 := (List.range 40).map (fun k => { secs := k }) })], ep15 := [⟨5, false, false⟩, ⟨4, false, false⟩], ep24 := [⟨3, false, false⟩] })
      (onTiming (fun z => { z with tc := 123456789012 }) (ready))), by decide +kernel⟩,
    ⟨false, ⟨5, false, false⟩, ⟨4, false, false⟩, [], onFrameSt (fun z =>
      { z with pm := [(64, { raised := [4], bins15 := [{ secs := 9, corr := 5 }, { secs := 8 }, { bbe := 3 }], bins24 := [{ secs := 99 }, {}] }), (10007, { bins15 := (List.range 40).map (fun k => { secs := k }) })], ep15 := [⟨5, false, false⟩, ⟨4, false, false⟩], ep24 := [⟨3, false, false⟩] })
      (onTiming (fun z => { z with tc := 123456789012 }) (ready)), by decide +kernel⟩,
    ⟨0, mail 0x0380 (bs [(1, 50), (1, 0), (2, 0)]) 0 (onFrameSt (fun z => { z with dayOff := 95, dayOffNext := some 3 })
      (ready)), by decide +kernel⟩,
    ⟨0, mail 0x0381 (bs [(1, 0), (1, 0), (1, 13), (1, 1), (2, 0), (2, 0), (8, 18446744073709551611)]) 0 (ready),
      by decide +kernel⟩,
    ⟨0, _, _, _, mail 0x0382 (bs [(1, 1), (1, 0), (1, 3), (1, 0), (2, 7), (2, 0)]) 0 (onFrameSt (fun z =>
      { z with pm := [(64, { raised := [4], bins15 := [{ secs := 9, corr := 5 }, { secs := 8 }, { bbe := 3 }], bins24 := [{ secs := 99 }, {}] }), (10007, { bins15 := (List.range 40).map (fun k => { secs := k }) })], ep15 := [⟨5, false, false⟩, ⟨4, false, false⟩], ep24 := [⟨3, false, false⟩] })
      (onTiming (fun z => { z with tc := 123456789012 }) (ready))), by decide +kernel, by decide +kernel,
      by decide +kernel, by decide +kernel, by decide +kernel, rfl, rfl, rfl⟩,
    ⟨0, mail 0x0383 (bs [(1, 1), (1, 0), (2, 7)]) 0 (onFrameSt (fun z =>
      { z with pm := [(64, { raised := [4], bins15 := [{ secs := 9, corr := 5 }, { secs := 8 }, { bbe := 3 }], bins24 := [{ secs := 99 }, {}] }), (10007, { bins15 := (List.range 40).map (fun k => { secs := k }) })], ep15 := [⟨5, false, false⟩, ⟨4, false, false⟩], ep24 := [⟨3, false, false⟩] })
      (onTiming (fun z => { z with tc := 123456789012 }) (ready))), by decide +kernel⟩,
    ⟨0, mail 0x0383 (bs [(1, 1), (1, 0), (2, 0xFFFF)]) 0 (onFrameSt (fun z =>
      { z with pm := [(64, { raised := [4], bins15 := [{ secs := 9, corr := 5 }, { secs := 8 }, { bbe := 3 }], bins24 := [{ secs := 99 }, {}] }), (10007, { bins15 := (List.range 40).map (fun k => { secs := k }) })], ep15 := [⟨5, false, false⟩, ⟨4, false, false⟩], ep24 := [⟨3, false, false⟩] })
      (onTiming (fun z => { z with tc := 123456789012 }) (ready))), by decide +kernel⟩⟩

theorem witness_HubBurstReceiver : (∃ (p : Nat) (s : State) (corr : Nat), okPort p = true ∧ bursts s p = true ∧ corr <
    (hubPort s p).thr) ∧ (∃ (p : Nat) (s : State) (corr : Nat), okPort p = true ∧ bursts s p = true ∧ (hubPort s p).thr ≤
    corr) ∧ (∃ p : Nat, ∃ s : State, ∃ hdr : List Byte, ∃ q : Int, okPort p = true ∧ bursts s p = true ∧ hdr.length = 16 ∧
    (hubPort s p).burst = .preamble q ∧ injArmed s (0x080 + p) = false) ∧ (∃ (p : Nat) (s : State) (llrs : List Int), ∃
    msg, okPort p = true ∧ bursts s p = true ∧ (hubPort s p).burst = .payload ∧ castPayload (burstBlocks (hubPort s
    p).hdrLen) (hubPort s p).hdrLen llrs = some msg) ∧ (∃ (p : Nat) (s : State) (llrs : List Int), okPort p = true ∧
    bursts s p = true ∧ (hubPort s p).burst = .payload ∧ castPayload (burstBlocks (hubPort s p).hdrLen) (hubPort s
    p).hdrLen llrs = none) :=
  ⟨⟨4, (onHubPort 4 (fun z => { z with role := .hub, burst := .idle, pend := none }) (onRxPort 4 (fun z =>
      { z with st := .track, light := true }) (onTxPort 4 (fun z => { z with tx := .on, len := true }) (onTiming (fun z =>
      { z with tc := 123456789012 }) (ready))))), 0, by decide +kernel⟩,
    ⟨4, (onHubPort 4 (fun z => { z with role := .hub, burst := .idle, pend := none }) (onRxPort 4 (fun z =>
      { z with st := .track, light := true }) (onTxPort 4 (fun z => { z with tx := .on, len := true }) (onTiming (fun z =>
      { z with tc := 123456789012 }) (ready))))), 1000, by decide +kernel⟩,
    ⟨4, onHubPort 4 (fun z => { z with role := .hub, burst := .preamble 100, pend := none }) (onRxPort 4 (fun z =>
      { z with st := .track, light := true }) (onTxPort 4 (fun z => { z with tx := .on, len := true }) (onTiming (fun z =>
      { z with tc := 123456789012 }) (ready)))), List.replicate 16 1, 100, by decide +kernel⟩,
    ⟨4, (onHubPort 4 (fun z => { z with role := .hub, burst := .payload, hdrType := 5 }) (onRxPort 4 (fun z =>
      { z with st := .track, light := true }) (onTxPort 4 (fun z => { z with tx := .on, len := true }) (onTiming (fun z =>
      { z with tc := 123456789012 }) (ready))))), [], [], by decide +kernel⟩,
    ⟨4, (onHubPort 4 (fun z => { z with role := .hub, burst := .payload, hdrType := 3, hdrLen := 8 }) (onRxPort 4 (fun z
      => { z with st := .track, light := true }) (onTxPort 4 (fun z => { z with tx := .on, len := true }) (onTiming (fun z
      => { z with tc := 123456789012 }) (ready))))), softBlocks 1 (zeros 64), by decide +kernel, by decide +kernel,
      by decide +kernel, castPayload_wrong 1 8 _ (zeros 64) (by decide) (by decide) (softBlocks_hard 1 (zeros 64))
      (by decide +kernel)⟩⟩

theorem witness_HubKeepsItsLeaves : (∃ (p : Nat) (ident : Nat) (rec : List Byte), ∃ (s : State), ∃ n, okPort p = true
    ∧ isHub s p = true ∧ decides s = true ∧ (3, ident, rec) ∈ (hubPort s p).inbox ∧ getU 6 1 rec = 2 ∧ leafByIdent s p
    ident = none ∧ freeLeaf s p 16 = some n ∧ (1 < min (ownGen s) (getU 0 1 rec) ∨ freeLeaf s p 8 ≠ none)) ∧ (∃ (p : Nat)
    (ident : Nat) (rec : List Byte), ∃ (s : State), okPort p = true ∧ isHub s p = true ∧ decides s = true ∧ (3, ident,
    rec) ∈ (hubPort s p).inbox ∧ getU 6 1 rec = 2 ∧ leafByIdent s p ident = none ∧ freeLeaf s p 16 = none ∧ 1 < min
    (ownGen s) (getU 0 1 rec)) ∧ (∃ (p : Nat) (ident : Nat) (rec : List Byte), ∃ (s : State), okPort p = true ∧ isHub s p
    = true ∧ decides s = true ∧ (3, ident, rec) ∈ (hubPort s p).inbox ∧ getU 6 1 rec = 2 ∧ leafByIdent s p ident = none ∧
    freeLeaf s p 8 = none ∧ min (ownGen s) (getU 0 1 rec) ≤ 1) ∧ (∃ (p : Nat) (ident : Nat) (rec : List Byte), ∃ (s :
    State), ∃ n, okPort p = true ∧ isHub s p = true ∧ decides s = true ∧ (3, ident, rec) ∈ (hubPort s p).inbox ∧ getU 6 1
    rec = 2 ∧ leafByIdent s p ident = some n) ∧ (∃ (p : Nat) (ident : Nat) (rec : List Byte), ∃ (s : State), okPort p =
    true ∧ isHub s p = true ∧ decides s = true ∧ (3, ident, rec) ∈ (hubPort s p).inbox ∧ getU 6 1 rec ≠ 2) ∧ (∃ p : Nat, ∃
    ident : Nat, ∃ n : Nat, ∃ msg : List Byte, ∃ s : State, okPort p = true ∧ isHub s p = true ∧ decides s = true ∧
    leafByIdent s p ident = some n ∧ (4, ident, msg) ∈ (hubPort s p).inbox) ∧ (∃ p : Nat, ∃ ident : Nat, ∃ n : Nat, ∃ s :
    State, okPort p = true ∧ isHub s p = true ∧ decides s = true ∧ leafByIdent s p ident = some n ∧ (5, ident, []) ∈
    (hubPort s p).inbox) ∧ (∃ (p : Nat) (n : Nat) (s : State), okPort p = true ∧ okLeaf n = true ∧ isHub s p = true ∧
    decides s = true ∧ (leafOf s p n).state ≠ 0 ∧ (leafOf s p n).mask = 0) ∧ (∃ p : Nat, ∃ n : Nat, ∃ s : State, okPort p
    = true ∧ okLeaf n = true ∧ isHub s p = true ∧ decides s = true ∧ (leafOf s p n).state ≠ 0 ∧ (leafOf s p n).silentArmed
    = true) ∧ (∃ (p : Nat) (n : Nat) (pws : List Int), ∃ (s : State), okPort p = true ∧ okLeaf n = true ∧ isHub s p = true
    ∧ decides s = true ∧ (leafOf s p n).mask ≠ 0 ∧ (∀ k, k < 16 → bitOf (leafOf s p n).mask k = true → (rxSc s (16 * p +
    k)).conv = true) ∧ (powerOff s p (leafOf s p n).mask pws = false ∨ (leafOf s p n).gen ≠ 2)) ∧ (∃ (p : Nat) (n : Nat)
    (pws : List Int), ∃ (s : State), okPort p = true ∧ okLeaf n = true ∧ isHub s p = true ∧ decides s = true ∧ (leafOf s p
    n).mask ≠ 0 ∧ (∀ k, k < 16 → bitOf (leafOf s p n).mask k = true → (rxSc s (16 * p + k)).conv = true) ∧ powerOff s p
    (leafOf s p n).mask pws = true ∧ (leafOf s p n).gen = 2) ∧ (∃ (p : Nat) (n : Nat) (s : State), okPort p = true ∧
    okLeaf n = true ∧ isHub s p = true ∧ s.ctrl.stage = .ready ∧ (leafOf s p n).mask ≠ 0 ∧ (rxPort s p).manual = false ∧
    castReceives s p = true ∧ (cdOf s p).state = 0) ∧ (∃ p : Nat, ∃ at_ : Nat, ∃ s : State, okPort p = true ∧ at_ %
    slotTicks = 0 ∧ now s ≤ at_ ∧ (txPort s p).tx = .on ∧ running s = true ∧ injArmed s (0x086 + p) = false ∧ isHub s p =
    true) ∧ (∃ p : Nat, ∃ at_ : Nat, ∃ s : State, okPort p = true ∧ at_ % slotTicks = 0 ∧ now s ≤ at_ ∧ (txPort s p).tx =
    .on ∧ running s = true ∧ injArmed s (0x086 + p) = false ∧ (hubPort s p).role = .p2p ∧ (hubPort s p).exch ≠ 0) :=
  ⟨⟨4, 77, [2, 0x7C, 1, 1, 7, 0, 2, 0], (onHubPort 4 (fun z =>
      { z with role := .hub, inbox := [(3, 77, [2, 0x7C, 1, 1, 7, 0, 2, 0])] }) (onRxPort 4 (fun z =>
      { z with st := .track, light := true }) (onTxPort 4 (fun z => { z with tx := .on, len := true }) (onTiming (fun z =>
      { z with tc := 123456789012 }) (ready))))), 0, by decide +kernel⟩,
    ⟨4, 77, [2, 0x7C, 1, 1, 7, 0, 2, 0], (onHubPort 4 (fun z =>
      { z with role := .hub, inbox := [(3, 77, [2, 0x7C, 1, 1, 7, 0, 2, 0])], leaves := (List.range 16).map (fun k => (k, { ident := 78 + k, state := 1 })) })
      (onRxPort 4 (fun z => { z with st := .track, light := true }) (onTxPort 4 (fun z =>
      { z with tx := .on, len := true }) (onTiming (fun z => { z with tc := 123456789012 }) (ready))))),
      by decide +kernel⟩,
    ⟨4, 77, [1, 0x7C, 1, 1, 7, 0, 2, 0], (onHubPort 4 (fun z =>
      { z with role := .hub, inbox := [(3, 77, [1, 0x7C, 1, 1, 7, 0, 2, 0])], leaves := (List.range 8).map (fun k => (k, { ident := 78 + k, state := 1 })) })
      (onRxPort 4 (fun z => { z with st := .track, light := true }) (onTxPort 4 (fun z =>
      { z with tx := .on, len := true }) (onTiming (fun z => { z with tc := 123456789012 }) (ready))))),
      by decide +kernel⟩,
    ⟨4, 77, [2, 0x7C, 1, 1, 7, 0, 2, 0], (onHubPort 4 (fun z =>
      { z with role := .hub, inbox := [(3, 77, [2, 0x7C, 1, 1, 7, 0, 2, 0])], leaves := [(5, { ident := 77, state := 1 })] })
      (onRxPort 4 (fun z => { z with st := .track, light := true }) (onTxPort 4 (fun z =>
      { z with tx := .on, len := true }) (onTiming (fun z => { z with tc := 123456789012 }) (ready))))), 5,
      by decide +kernel⟩,
    ⟨4, 77, [2, 0x7C, 1, 1, 7, 0, 1, 0], (onHubPort 4 (fun z =>
      { z with role := .hub, inbox := [(3, 77, [2, 0x7C, 1, 1, 7, 0, 1, 0])] }) (onRxPort 4 (fun z =>
      { z with st := .track, light := true }) (onTxPort 4 (fun z => { z with tx := .on, len := true }) (onTiming (fun z =>
      { z with tc := 123456789012 }) (ready))))), by decide +kernel⟩,
    ⟨4, 77, 5, [1], onHubPort 4 (fun z =>
      { z with role := .hub, inbox := [(4, 77, [1])], leaves := [(5, { ident := 77, state := 2, gen := 2, classes := 0x7C, mask := 6, cls := 4 })] })
      (onRxPort 4 (fun z => { z with st := .track, light := true }) (onTxPort 4 (fun z =>
      { z with tx := .on, len := true }) (onTiming (fun z => { z with tc := 123456789012 }) (ready)))), by decide +kernel⟩,
    ⟨4, 77, 5, onHubPort 4 (fun z =>
      { z with role := .hub, inbox := [(5, 77, [])], leaves := [(5, { ident := 77, state := 2, gen := 2, classes := 0x7C, mask := 6, cls := 4 })] })
      (onRxPort 4 (fun z => { z with st := .track, light := true }) (onTxPort 4 (fun z =>
      { z with tx := .on, len := true }) (onTiming (fun z => { z with tc := 123456789012 }) (ready)))), by decide +kernel⟩,
    ⟨4, 5, (onHubPort 4 (fun z => { z with role := .hub, leaves := [(5, { ident := 77, state := 1 })] }) (onRxPort 4
      (fun z => { z with st := .track, light := true }) (onTxPort 4 (fun z => { z with tx := .on, len := true }) (onTiming
      (fun z => { z with tc := 123456789012 }) (ready))))), by decide +kernel⟩,
    ⟨4, 5, onHubPort 4 (fun z =>
      { z with role := .hub, leaves := [(5, { ident := 77, state := 2, gen := 2, classes := 0x7C, mask := 6, cls := 4 })] })
      (onRxPort 4 (fun z => { z with st := .track, light := true }) (onTxPort 4 (fun z =>
      { z with tx := .on, len := true }) (onTiming (fun z => { z with tc := 123456789012 }) (ready)))), by decide +kernel⟩,
    ⟨4, 5, [0, 5, 5], (onRxSc 65 (fun z => { z with conv := true, far := 4 }) (onRxSc 66 (fun z =>
      { z with conv := true, far := 4 }) (onHubPort 4 (fun z =>
      { z with role := .hub, leaves := [(5, { ident := 77, state := 2, gen := 2, classes := 0x7C, mask := 6, cls := 4 })] })
      (onRxPort 4 (fun z => { z with st := .track, light := true }) (onTxPort 4 (fun z =>
      { z with tx := .on, len := true }) (onTiming (fun z => { z with tc := 123456789012 }) (ready))))))),
      by decide +kernel⟩,
    ⟨4, 5, [0, 5, 25], (onRxSc 65 (fun z => { z with conv := true, far := 4 }) (onRxSc 66 (fun z =>
      { z with conv := true, far := 4 }) (onHubPort 4 (fun z =>
      { z with role := .hub, leaves := [(5, { ident := 77, state := 2, gen := 2, classes := 0x7C, mask := 6, cls := 4 })] })
      (onRxPort 4 (fun z => { z with st := .track, light := true }) (onTxPort 4 (fun z =>
      { z with tx := .on, len := true }) (onTiming (fun z => { z with tc := 123456789012 }) (ready))))))),
      by decide +kernel⟩,
    ⟨4, 5, (onRxSc 65 (fun z => { z with conv := true, far := 4 }) (onRxSc 66 (fun z =>
      { z with conv := true, far := 4 }) (onHubPort 4 (fun z =>
      { z with role := .hub, leaves := [(5, { ident := 77, state := 2, gen := 2, classes := 0x7C, mask := 6, cls := 4 })] })
      (onRxPort 4 (fun z => { z with st := .track, light := true }) (onTxPort 4 (fun z =>
      { z with tx := .on, len := true }) (onTiming (fun z => { z with tc := 123456789012 }) (ready))))))),
      by decide +kernel⟩,
    ⟨4, 124853944320, onHubPort 4 (fun z =>
      { z with role := .hub, leaves := [(5, { ident := 77, state := 2, gen := 2, classes := 0x7C, mask := 6, cls := 4 })], recs := [([1,2], 4), ([3], 1)] })
      (onRxPort 4 (fun z => { z with st := .track, light := true }) (onTxPort 4 (fun z =>
      { z with tx := .on, len := true }) (onTiming (fun z => { z with tc := 123456789012 }) (ready)))), by decide +kernel⟩,
    ⟨4, 124853944320, onHubPort 4 (fun z => { z with exch := 1 }) (onRxPort 4 (fun z =>
      { z with st := .track, light := true }) (onTxPort 4 (fun z => { z with tx := .on, len := true }) (onTiming (fun z =>
      { z with tc := 123456789012 }) (ready)))), by decide +kernel⟩⟩

/-- A beacon frame with one record: a grant to port 4 of this module, whatever its serial number is. -/
theorem witness_LeafJoinsAndFollows : (∃ (p : Nat) (hdr : List Byte), ∃ (llrs : List Int), ∃ (s : State), okPort p =
    true ∧ isLeaf s p = true ∧ s.ctrl.stage = .ready ∧ hdr.length = 16 ∧ (castReceives s p = false ∨ frameRead hdr llrs =
    none)) ∧ (∃ (p : Nat) (hdr : List Byte), ∃ (llrs : List Int), ∃ (s : State), ∃ msg, okPort p = true ∧ isLeaf s p =
    true ∧ s.ctrl.stage = .ready ∧ hdr.length = 16 ∧ castReceives s p = true ∧ frameRead hdr llrs = some msg ∧ getU 6 1
    hdr = 1 ∧ newRecords p (hubPort s p) msg = []) ∧ (∃ (p : Nat) (hdr : List Byte), ∃ (llrs : List Int), ∃ (s : State), ∃
    msg, ∃ r, okPort p = true ∧ isLeaf s p = true ∧ s.ctrl.stage = .ready ∧ hdr.length = 16 ∧ castReceives s p = true ∧
    frameRead hdr llrs = some msg ∧ getU 6 1 hdr = 1 ∧ newRecords p (hubPort s p) msg = [r] ∧ getU 0 1 r = 2) ∧ (∃ (p :
    Nat) (hdr : List Byte), ∃ (llrs : List Int), ∃ (s : State), ∃ msg, okPort p = true ∧ isLeaf s p = true ∧ s.ctrl.stage
    = .ready ∧ hdr.length = 16 ∧ castReceives s p = true ∧ frameRead hdr llrs = some msg ∧ getU 6 1 hdr = 2) ∧ (∃ p : Nat,
    ∃ s : State, okPort p = true ∧ isLeaf s p = true ∧ (hubPort s p).lock = true ∧ 32 ≤ (hubPort s p).badRun) ∧ (∃ (p :
    Nat) (k : Nat) (s : State), okPort p = true ∧ mayBurst s p = true ∧ k < (hubPort s p).window ∧ ((hubPort s p).join =
    .backoff ∨ ((hubPort s p).join = .bringUp ∧ beaconSettled s p = true))) ∧ (∃ p : Nat, ∃ k : Nat, ∃ s : State, okPort p
    = true ∧ mayBurst s p = true ∧ k < 8 ∧ (hubPort s p).leafNum ≠ 0xFF) ∧ (∃ p : Nat, ∃ k : Nat, ∃ s : State, okPort p =
    true ∧ mayBurst s p = true ∧ k < (hubPort s p).window ∧ 0 < (hubPort s p).leaves3) ∧ (∃ p : Nat, ∃ s : State, okPort p
    = true ∧ (hubPort s p).join = .waitAck ∧ decides s = true) ∧ (∃ p : Nat, ∃ s : State, okPort p = true ∧ (hubPort s
    p).join = .waitRetry) ∧ (∃ (p : Nat) (at_ : Nat) (mask : Nat) (cls : Nat) (b : Nat) (granted : Bool) (rest : List (Nat
    × Nat × Nat × Bool)), ∃ (s : State), okPort p = true ∧ (hubPort s p).grants = (mask, cls, b, granted) :: rest ∧ isLeaf
    s p = true ∧ at_ % boundaryTicks = 0 ∧ b ≤ at_ ∧ now s ≤ at_ ∧ s.ctrl.stage = .ready) ∧ (∃ (p : Nat) (hdr : List
    Byte), ∃ (llrs : List Int), ∃ (s : State), okPort p = true ∧ (hubPort s p).role = .p2p ∧ (hubPort s p).exch ≠ 0 ∧
    castReceives s p = true ∧ decides s = true ∧ hdr.length = 16 ∧ frameRead hdr llrs = none) ∧ (∃ (p : Nat) (hdr : List
    Byte), ∃ (llrs : List Int), ∃ (s : State), ∃ msg, ∃ rec, okPort p = true ∧ (hubPort s p).role = .p2p ∧ (hubPort s
    p).exch ≠ 0 ∧ castReceives s p = true ∧ decides s = true ∧ hdr.length = 16 ∧ frameRead hdr llrs = some msg ∧ rec =
    padTo 32 msg ∧ getU 6 1 hdr = 2 ∧ getU 6 1 rec = 0 ∧ (hubPort s p).exch = 1) ∧ (∃ (p : Nat) (hdr : List Byte), ∃ (llrs
    : List Int), ∃ (s : State), ∃ msg, ∃ rec, okPort p = true ∧ (hubPort s p).role = .p2p ∧ (hubPort s p).exch ≠ 0 ∧
    castReceives s p = true ∧ decides s = true ∧ hdr.length = 16 ∧ frameRead hdr llrs = some msg ∧ rec = padTo 32 msg ∧
    getU 6 1 hdr = 2 ∧ getU 6 1 rec = 0 ∧ (hubPort s p).exch = 2 ∧ 2 ≤ (hubPort s p).ackRun ∧ bitOf (getU 7 1 hdr) 0 =
    true) ∧ (∃ (p : Nat) (hdr : List Byte), ∃ (llrs : List Int), ∃ (s : State), ∃ msg, ∃ rec, okPort p = true ∧ (hubPort s
    p).role = .p2p ∧ (hubPort s p).exch ≠ 0 ∧ castReceives s p = true ∧ decides s = true ∧ hdr.length = 16 ∧ frameRead hdr
    llrs = some msg ∧ rec = padTo 32 msg ∧ getU 6 1 hdr = 2 ∧ getU 6 1 rec ≠ 0) ∧ (∃ (p : Nat) (hdr : List Byte), ∃ (llrs
    : List Int), ∃ (s : State), ∃ msg, okPort p = true ∧ (hubPort s p).role = .p2p ∧ (hubPort s p).exch ≠ 0 ∧ castReceives
    s p = true ∧ decides s = true ∧ hdr.length = 16 ∧ frameRead hdr llrs = some msg ∧ getU 6 1 hdr = 1) :=
  ⟨⟨4, zeros 16, [], onHubPort 4 (fun z => { z with role := .leaf, lock := true, badRun := 31 }) ready,
      by decide +kernel, by decide +kernel, by decide +kernel, by decide +kernel, .inl (by decide +kernel)⟩,
    ⟨4, header 1 0 496, sentLlrs 8 (zeros 496), (onHubPort 4 (fun z => { z with role := .leaf, goodRun := 2 }) (onRxPort
      4 (fun z => { z with st := .track, light := true }) (onTxPort 4 (fun z => { z with tx := .on, len := true })
      (onTiming (fun z => { z with tc := 123456789012 }) (ready))))), zeros 496, by decide +kernel, by decide +kernel,
      by decide +kernel, by decide +kernel, by decide +kernel, frame_read _ _ (by decide +kernel) (by decide +kernel)
      (by decide +kernel), by decide +kernel, by decide +kernel⟩,
    ⟨4, header 1 0 496, sentLlrs 8 grantBeacon, (onHubPort 4 (fun z => { z with role := .leaf, join := .waitGrant })
      (onRxPort 4 (fun z => { z with st := .track, light := true }) (onTxPort 4 (fun z =>
      { z with tx := .on, len := true }) ready))), grantBeacon, grantRecord, by decide +kernel, by decide +kernel,
      by decide +kernel, by decide +kernel, by decide +kernel, frame_read _ _ (by decide +kernel) (by decide +kernel)
      (by decide +kernel), by decide +kernel, grantBeacon_record, by decide +kernel⟩,
    ⟨4, header 2 0 12, sentLlrs 8 hubRecord, (onHubPort 4 (fun z => { z with role := .leaf, goodRun := 2 }) (onRxPort 4
      (fun z => { z with st := .track, light := true }) (onTxPort 4 (fun z => { z with tx := .on, len := true }) (onTiming
      (fun z => { z with tc := 123456789012 }) (ready))))), hubRecord, by decide +kernel, by decide +kernel,
      by decide +kernel, by decide +kernel, by decide +kernel, frame_read _ _ (by decide +kernel) (by decide +kernel)
      (by decide +kernel), by decide +kernel⟩,
    ⟨4, onHubPort 4 (fun z => { z with role := .leaf, lock := true, badRun := 32 }) (onRxPort 4 (fun z =>
      { z with st := .track, light := true }) (onTxPort 4 (fun z => { z with tx := .on, len := true }) (onTiming (fun z =>
      { z with tc := 123456789012 }) (ready)))), by decide +kernel⟩,
    ⟨4, 7, (onHubPort 4 (fun z => { z with role := .leaf, lock := true, join := .bringUp, inSince := some 0 }) (onRxPort
      4 (fun z => { z with st := .track, light := true }) (onTxPort 4 (fun z => { z with tx := .on, len := true })
      (onTiming (fun z => { z with up := 655360000000, tc := 123456789012 }) (ready))))), by decide +kernel⟩,
    ⟨4, 7, onHubPort 4 (fun z => { z with role := .leaf, lock := true, leafNum := 3 }) (onRxPort 4 (fun z =>
      { z with st := .track, light := true }) (onTxPort 4 (fun z => { z with tx := .on, len := true }) (onTiming (fun z =>
      { z with tc := 123456789012 }) (ready)))), by decide +kernel⟩,
    ⟨4, 7, onHubPort 4 (fun z => { z with role := .leaf, lock := true, leafNum := 3, leaves3 := 1 }) (onRxPort 4 (fun z
      => { z with st := .track, light := true }) (onTxPort 4 (fun z => { z with tx := .on, len := true }) (onTiming (fun z
      => { z with tc := 123456789012 }) (ready)))), by decide +kernel⟩,
    ⟨4, onHubPort 4 (fun z => { z with role := .leaf, join := .waitAck, tries := 3, window := 8, rounds := 2 })
      (onRxPort 4 (fun z => { z with st := .track, light := true }) (onTxPort 4 (fun z =>
      { z with tx := .on, len := true }) (onTiming (fun z => { z with tc := 123456789012 }) (ready)))), by decide +kernel⟩,
    ⟨4, onHubPort 4 (fun z => { z with role := .leaf, join := .waitRetry, window := 256, tries := 4 }) (onRxPort 4 (fun
      z => { z with st := .track, light := true }) (onTxPort 4 (fun z => { z with tx := .on, len := true }) (onTiming (fun
      z => { z with tc := 123456789012 }) (ready)))), by decide +kernel⟩,
    ⟨4, 281857228800, 6, 4, 246625075200, true, [(9, 4, 281857228800, true)], onRxPort 4 (fun z =>
      { z with st := .converge }) (onHubPort 4 (fun z =>
      { z with role := .leaf, owned := 0, grants := [(6, 4, 246625075200, true), (9, 4, 281857228800, true)] }) (onRxPort
      4 (fun z => { z with st := .track, light := true }) (onTxPort 4 (fun z => { z with tx := .on, len := true })
      (onTiming (fun z => { z with tc := 123456789012 }) (ready))))), by decide +kernel⟩,
    ⟨4, zeros 16, [], (onHubPort 4 (fun z => { z with exch := 2, goodRun := 5, ackRun := 2 }) (onRxPort 4 (fun z =>
      { z with st := .track, light := true }) (onTxPort 4 (fun z => { z with tx := .on, len := true }) (onTiming (fun z =>
      { z with tc := 123456789012 }) (ready))))), by decide +kernel⟩,
    ⟨4, header 2 0 12, sentLlrs 8 p2pRecord, (onHubPort 4 (fun z => { z with exch := 1, goodRun := 1, ackRun := 2 })
      (onRxPort 4 (fun z => { z with st := .track, light := true }) (onTxPort 4 (fun z =>
      { z with tx := .on, len := true }) (onTiming (fun z => { z with tc := 123456789012 }) (ready))))), p2pRecord, _,
      by decide +kernel, by decide +kernel, by decide +kernel, by decide +kernel, by decide +kernel, by decide +kernel,
      frame_read _ _ (by decide +kernel) (by decide +kernel) (by decide +kernel), rfl, by decide +kernel⟩,
    ⟨4, header 2 1 12, sentLlrs 8 p2pRecord, (onHubPort 4 (fun z => { z with exch := 2, goodRun := 5, ackRun := 2 })
      (onRxPort 4 (fun z => { z with st := .track, light := true }) (onTxPort 4 (fun z =>
      { z with tx := .on, len := true }) (onTiming (fun z => { z with tc := 123456789012 }) (ready))))), p2pRecord, _,
      by decide +kernel, by decide +kernel, by decide +kernel, by decide +kernel, by decide +kernel, by decide +kernel,
      frame_read _ _ (by decide +kernel) (by decide +kernel) (by decide +kernel), rfl, by decide +kernel⟩,
    ⟨4, header 2 0 12, sentLlrs 8 hubRecord, (onHubPort 4 (fun z => { z with exch := 2, goodRun := 5, ackRun := 2 })
      (onRxPort 4 (fun z => { z with st := .track, light := true }) (onTxPort 4 (fun z =>
      { z with tx := .on, len := true }) (onTiming (fun z => { z with tc := 123456789012 }) (ready))))), hubRecord, _,
      by decide +kernel, by decide +kernel, by decide +kernel, by decide +kernel, by decide +kernel, by decide +kernel,
      frame_read _ _ (by decide +kernel) (by decide +kernel) (by decide +kernel), rfl, by decide +kernel⟩,
    ⟨4, header 1 0 12, sentLlrs 8 p2pRecord, (onHubPort 4 (fun z => { z with exch := 2, goodRun := 5, ackRun := 2 })
      (onRxPort 4 (fun z => { z with st := .track, light := true }) (onTxPort 4 (fun z =>
      { z with tx := .on, len := true }) (onTiming (fun z => { z with tc := 123456789012 }) (ready))))), p2pRecord,
      by decide +kernel, by decide +kernel, by decide +kernel, by decide +kernel, by decide +kernel, by decide +kernel,
      frame_read _ _ (by decide +kernel) (by decide +kernel) (by decide +kernel), by decide +kernel⟩⟩

theorem witness_HubCommands : (∃ mb : Nat, ∃ p : Nat, ∃ s : State, Accepted ⟨0x0400, some 4, [(2, 2)]⟩ mb s ∧ p = arg
    s mb 0 1 ∧ okPort p = true ∧ arg s mb 1 1 ≤ 2 ∧ portLit s p = false ∧ roleNum (hubPort s p).role ≠ arg s mb 1 1) ∧ (∃
    mb : Nat, ∃ p : Nat, ∃ n : Nat, ∃ mask : Nat, ∃ cls : Nat, ∃ b : Nat, ∃ w : Nat, ∃ u : State, ∃ s : State, Accepted
    ⟨0x0401, some 8, [(5, 3)]⟩ mb s ∧ p = arg s mb 0 1 ∧ n = arg s mb 1 1 ∧ mask = arg s mb 2 2 ∧ cls = arg s mb 4 1 ∧
    okPort p = true ∧ n ≤ 15 ∧ 2 ≤ cls ∧ cls ≤ 6 ∧ mask ≠ 0 ∧ isHub s p = true ∧ (leafOf s p n).state ≠ 0 ∧ bitOf (leafOf
    s p n).classes cls = true ∧ (∀ k, k < 16 → bitOf mask k = true → ownerOf s p k = none ∨ ownerOf s p k = some n) ∧
    mergeOrPlace p (mask ||| (leafOf s p n).mask) (grantClasses mask cls) (earliestBoundary s) (requestOf s mb).tag s =
    some (b, w, u)) ∧ (∃ mb : Nat, ∃ p : Nat, ∃ n : Nat, ∃ s : State, Accepted ⟨0x0402, some 4, []⟩ mb s ∧ p = arg s mb 0
    1 ∧ n = arg s mb 1 1 ∧ okPort p = true ∧ isHub s p = true ∧ (leafOf s p n).state ≠ 0 ∧ arg s mb 2 2 = 0 ∧ ((leafOf s p
    n).mask = 0 ∨ (darken p (leafOf s p n).mask (requestOf s mb).tag s).isSome = true)) ∧ (∃ mb : Nat, ∃ p : Nat, ∃ n :
    Nat, ∃ s : State, Accepted ⟨0x0402, some 4, []⟩ mb s ∧ p = arg s mb 0 1 ∧ n = arg s mb 1 1 ∧ okPort p = true ∧ isHub s
    p = true ∧ (leafOf s p n).state ≠ 0 ∧ arg s mb 2 2 ≠ 0 ∧ (darken p (arg s mb 2 2 &&& (leafOf s p n).mask) (requestOf s
    mb).tag s).isSome = true) ∧ (∃ mb : Nat, ∃ p : Nat, ∃ lo : Int, ∃ s : State, Accepted (objShape 0x0403) mb s ∧ p = arg
    s mb 0 1 ∧ okPort p = true ∧ isLeaf s p = true ∧ receiving s p = true ∧ feedGood s p lo = true) ∧ (∃ mb : Nat, ∃ p :
    Nat, ∃ s : State, Accepted (objShape 0x0404) mb s ∧ p = arg s mb 0 1 ∧ okPort p = true ∧ isLeaf s p = true) ∧ (∃ mb :
    Nat, ∃ p : Nat, ∃ s : State, Accepted ⟨0x0405, some 4, [(2, 2)]⟩ mb s ∧ p = arg s mb 0 1 ∧ okPort p = true ∧ isLeaf s
    p = false ∧ (arg s mb 1 1 = 0 ∨ arg s mb 1 1 = 8)) ∧ (∃ (mb : Nat) (p : Nat) (s : State), Accepted ⟨0x0405, some 4,
    [(2, 2)]⟩ mb s ∧ p = arg s mb 0 1 ∧ okPort p = true ∧ isLeaf s p = true ∧ arg s mb 1 1 = 0) ∧ (∃ mb : Nat, ∃ p : Nat,
    ∃ s : State, Accepted ⟨0x0480, some 8, []⟩ mb s ∧ p = arg s mb 0 1 ∧ okPort p = true ∧ 30 ≤ arg s mb 1 1 ∧ arg s mb 1
    1 ≤ 90 ∧ -200 ≤ argI s mb 2 2 ∧ argI s mb 2 2 ≤ 0 ∧ 10 ≤ arg s mb 4 2 ∧ arg s mb 4 2 ≤ 1000 ∧ 2 ≤ arg s mb 6 2 ∧ arg s
    mb 6 2 ≤ 200) ∧ (∃ mb : Nat, ∃ p : Nat, ∃ s : State, Accepted (objShape 0x0481) mb s ∧ p = arg s mb 0 1 ∧ okPort p =
    true) :=
  ⟨⟨0, 4, mail 0x0400 (bs [(1, 4), (1, 2), (2, 0)]) 0 (ready), by decide +kernel⟩,
    ⟨0, 4, 5, 0x30, 6, ((fun (s : State) => earliestBoundary s) (mail 0x0401 (bs [(1, 4), (1, 5), (2, 48), (1, 6), (3,
      0)]) 0 (onRxSc 65 (fun z => { z with conv := true, cfg := 4 }) (onRxSc 66 (fun z =>
      { z with conv := true, cfg := 4 }) (onHubPort 4 (fun z =>
      { z with role := .hub, leaves := [(5, { ident := 77, state := 2, gen := 2, classes := 0x7C, mask := 6, cls := 4 })] })
      (onRxPort 4 (fun z => { z with st := .track, light := true }) (onTxPort 4 (fun z =>
      { z with tx := .on, len := true }) (onTiming (fun z => { z with tc := 123456789012 }) (ready))))))))), 0, ((fun (s :
      State) => ((mergeOrPlace 4 (0x30 ||| 6) (grantClasses 0x30 6) (earliestBoundary s) 7 s).getD (0,0,s)).2.2) (mail
      0x0401 (bs [(1, 4), (1, 5), (2, 48), (1, 6), (3, 0)]) 0 (onRxSc 65 (fun z => { z with conv := true, cfg := 4 })
      (onRxSc 66 (fun z => { z with conv := true, cfg := 4 }) (onHubPort 4 (fun z =>
      { z with role := .hub, leaves := [(5, { ident := 77, state := 2, gen := 2, classes := 0x7C, mask := 6, cls := 4 })] })
      (onRxPort 4 (fun z => { z with st := .track, light := true }) (onTxPort 4 (fun z =>
      { z with tx := .on, len := true }) (onTiming (fun z => { z with tc := 123456789012 }) (ready))))))))), mail 0x0401
      (bs [(1, 4), (1, 5), (2, 48), (1, 6), (3, 0)]) 0 (onRxSc 65 (fun z => { z with conv := true, cfg := 4 }) (onRxSc 66
      (fun z => { z with conv := true, cfg := 4 }) (onHubPort 4 (fun z =>
      { z with role := .hub, leaves := [(5, { ident := 77, state := 2, gen := 2, classes := 0x7C, mask := 6, cls := 4 })] })
      (onRxPort 4 (fun z => { z with st := .track, light := true }) (onTxPort 4 (fun z =>
      { z with tx := .on, len := true }) (onTiming (fun z => { z with tc := 123456789012 }) (ready))))))),
      by decide +kernel⟩,
    ⟨0, 4, 5, mail 0x0402 (bs [(1, 4), (1, 5), (2, 0)]) 0 (onHubPort 4 (fun z =>
      { z with role := .hub, leaves := [(5, { ident := 77, state := 2, gen := 2, classes := 0x7C, mask := 6, cls := 4 })] })
      (onRxPort 4 (fun z => { z with st := .track, light := true }) (onTxPort 4 (fun z =>
      { z with tx := .on, len := true }) (onTiming (fun z => { z with tc := 123456789012 }) (ready))))),
      by decide +kernel⟩,
    ⟨0, 4, 5, mail 0x0402 (bs [(1, 4), (1, 5), (2, 2)]) 0 (onRxSc 65 (fun z => { z with conv := true, cfg := 4 })
      (onRxSc 66 (fun z => { z with conv := true, cfg := 4 }) (onHubPort 4 (fun z =>
      { z with role := .hub, leaves := [(5, { ident := 77, state := 2, gen := 2, classes := 0x7C, mask := 6, cls := 4 })] })
      (onRxPort 4 (fun z => { z with st := .track, light := true }) (onTxPort 4 (fun z =>
      { z with tx := .on, len := true }) (onTiming (fun z => { z with tc := 123456789012 }) (ready))))))),
      by decide +kernel⟩,
    ⟨0, 4, 1100, mail 0x0403 (bs [(1, 4), (3, 0)]) 0 (onHubPort 4 (fun z => { z with role := .leaf }) (onRxPort 4 (fun z
      => { z with st := .track, light := true }) (onTxPort 4 (fun z => { z with tx := .on, len := true }) (onTiming (fun z
      => { z with tc := 123456789012 }) (ready))))), by decide +kernel⟩,
    ⟨0, 4, mail 0x0404 (bs [(1, 4), (3, 0)]) 0 (onHubPort 4 (fun z => { z with role := .leaf, leafNum := 3 }) (onRxPort
      4 (fun z => { z with st := .track, light := true }) (onTxPort 4 (fun z => { z with tx := .on, len := true })
      (onTiming (fun z => { z with tc := 123456789012 }) (ready))))), by decide +kernel⟩,
    ⟨0, 4, mail 0x0405 (bs [(1, 4), (1, 0), (2, 0)]) 0 (onRxSc 65 (fun z => { z with conv := true, cfg := 4 }) (onRxSc
      66 (fun z => { z with conv := true, cfg := 4 }) (onHubPort 4 (fun z =>
      { z with role := .hub, leaves := [(5, { ident := 77, state := 2, gen := 2, classes := 0x7C, mask := 6, cls := 4 })] })
      (onRxPort 4 (fun z => { z with st := .track, light := true }) (onTxPort 4 (fun z =>
      { z with tx := .on, len := true }) (onTiming (fun z => { z with tc := 123456789012 }) (ready))))))),
      by decide +kernel⟩,
    ⟨0, 4, mail 0x0405 (bs [(1, 4), (1, 0), (2, 0)]) 0 (onHubPort 4 (fun z => { z with role := .leaf, owned := 6 })
      (onRxPort 4 (fun z => { z with st := .track, light := true }) (onTxPort 4 (fun z =>
      { z with tx := .on, len := true }) (onTiming (fun z => { z with tc := 123456789012 }) (ready))))),
      by decide +kernel⟩,
    ⟨0, 4, mail 0x0480 (bs [(1, 4), (1, 90), (2, 65336), (2, 1000), (2, 200)]) 0 (onHubPort 4 (fun z =>
      { z with role := .leaf }) (onRxPort 4 (fun z => { z with st := .track, light := true }) (onTxPort 4 (fun z =>
      { z with tx := .on, len := true }) (onTiming (fun z => { z with tc := 123456789012 }) (ready))))),
      by decide +kernel⟩,
    ⟨0, 4, mail 0x0481 (bs [(1, 4), (3, 0)]) 0 (onHubPort 4 (fun z =>
      { z with role := .hub, delivered := 5, lock := true, payErr := 9 }) (onRxPort 4 (fun z =>
      { z with st := .track, light := true }) (onTxPort 4 (fun z => { z with tx := .on, len := true }) (onTiming (fun z =>
      { z with tc := 123456789012 }) (ready))))), by decide +kernel⟩⟩

theorem witness_HostLaneBringUp : (∃ (l : Nat), okLane l = true) ∧ (∃ l : Nat, ∃ s : State, okLane l = true ∧ (laneOf
    s l).st = .detect) ∧ (∃ (l : Nat) (s : State) (f : TrainFrame), okLane l = true ∧ running s = true ∧ f.cdr = true ∧
    f.missing = false ∧ f.crcOk = true ∧ 2 ≤ (laneOf s l).symRun ∧ (laneOf s l).st = .train ∧ (laneOf s l).fixed = false ∧
    (laneOf s l).stat = 0 ∧ reqField f.req 8 ≠ 0) ∧ (∃ (l : Nat) (s : State) (f : TrainFrame), okLane l = true ∧ running s
    = true ∧ f.cdr = true ∧ f.missing = false ∧ f.crcOk = true ∧ 2 ≤ (laneOf s l).symRun ∧ (laneOf s l).st = .train ∧
    (laneOf s l).req = 0 ∧ f.req = 0 ∧ f.stat = 0 ∧ f.rxDone = true ∧ f.ready = true) ∧ (∃ (l : Nat) (s : State) (f :
    TrainFrame), okLane l = true ∧ running s = true ∧ f.cdr = true ∧ f.missing = false ∧ f.crcOk = true ∧ 2 ≤ (laneOf s
    l).symRun ∧ (laneOf s l).st = .exchange ∧ 2 ≤ f.typ ∧ recordMatches s l f.record = true) ∧ (∃ (l : Nat) (s : State) (f
    : TrainFrame), okLane l = true ∧ running s = true ∧ f.cdr = true ∧ f.missing = false ∧ f.crcOk = true ∧ 2 ≤ (laneOf s
    l).symRun ∧ (laneOf s l).st = .exchange ∧ 2 ≤ f.typ ∧ recordMatches s l f.record = false) ∧ (∃ (l : Nat) (s : State)
    (f : TrainFrame), okLane l = true ∧ running s = true ∧ f.cdr = true ∧ f.missing = false ∧ f.crcOk = true ∧ 2 ≤ (laneOf
    s l).symRun ∧ (laneOf s l).st = .switch) ∧ (∃ (l : Nat) (s : State) (f : TrainFrame), okLane l = true ∧ running s =
    true ∧ (f.crcOk = false ∨ f.cdr = false) ∧ (laneOf s l).st = .exchange) ∧ (∃ (l : Nat) (s : State) (f : TrainFrame),
    okLane l = true ∧ running s = true ∧ (f.crcOk = false ∨ f.cdr = false) ∧ (laneOf s l).st = .switch) ∧ (∃ (l : Nat) (s
    : State) (f : TrainFrame), okLane l = true ∧ running s = true ∧ (f.crcOk = false ∨ f.cdr = false) ∧ ((laneOf s l).st =
    .train ∨ (laneOf s l).st = .exchange ∨ (laneOf s l).st = .switch) ∧ f.cdr = false) ∧ (∃ l : Nat, ∃ s : State, okLane l
    = true ∧ (laneOf s l).st = .train) ∧ (∃ (l : Nat) (s : State), okLane l = true ∧ (laneOf s l).st = .exchange) ∧ (∃ l :
    Nat, ∃ s : State, okLane l = true ∧ (laneOf s l).st = .switch) :=
  ⟨⟨95, by decide +kernel⟩,
    ⟨95, onLaneOf 95 (fun z => { z with st := .detect }) (ready), by decide +kernel⟩,
    ⟨95, onLaneOf 95 (fun z => { z with st := .train, symRun := 2 }) (ready),
      { cdr := true, missing := false, crcOk := true, typ := 0, ack := false, count := 0, req := 256, stat := 0, want := 0, rxDone := false, ready := false, record := [] },
      by decide +kernel⟩,
    ⟨95, onLaneOf 95 (fun z => { z with st := .train, symRun := 3, stat := 4 }) (ready),
      { cdr := true, missing := false, crcOk := true, typ := 0, ack := false, count := 0, req := 0, stat := 0, want := 0, rxDone := true, ready := true, record := [] },
      by decide +kernel⟩,
    ⟨95, onHostPort 92 (fun z => { z with defined := true, width := 4, enabled := true, st := .up }) (onLaneOf 95 (fun z
      => { z with port := some 92, logical := 3, symRun := 3, st := .exchange }) ready),
      { cdr := true, missing := false, crcOk := true, typ := 2, ack := true, count := 0, req := 0, stat := 0, want := 0, rxDone := false, ready := false, record := [1, 2, 3, 1, 0] },
      by decide +kernel⟩,
    ⟨95, onHostPort 92 (fun z => { z with defined := true, width := 4, enabled := true, st := .up }) (onLaneOf 95 (fun z
      => { z with port := some 92, logical := 3, symRun := 3, st := .exchange }) ready),
      { cdr := true, missing := false, crcOk := true, typ := 2, ack := false, count := 0, req := 0, stat := 0, want := 0, rxDone := false, ready := false, record := [1, 2, 0, 1, 0] },
      by decide +kernel⟩,
    ⟨95, onHostPort 92 (fun z => { z with defined := true, width := 4, enabled := true, st := .up }) (onLaneOf 95 (fun z
      => { z with port := some 92, logical := 3, symRun := 3, st := .switch }) ready),
      { cdr := true, missing := false, crcOk := true, typ := 3, ack := false, count := 0, req := 0, stat := 0, want := 0, rxDone := false, ready := false, record := [] },
      by decide +kernel⟩,
    ⟨95, onHostPort 92 (fun z => { z with defined := true, width := 4, enabled := true, st := .up }) (onLaneOf 95 (fun z
      => { z with port := some 92, logical := 3, symRun := 3, st := .exchange }) ready),
      { cdr := true, missing := false, crcOk := false, typ := 0, ack := false, count := 0, req := 0, stat := 0, want := 0, rxDone := false, ready := false, record := [] },
      by decide +kernel⟩,
    ⟨95, onHostPort 92 (fun z => { z with defined := true, width := 4, enabled := true, st := .up }) (onLaneOf 95 (fun z
      => { z with port := some 92, logical := 3, symRun := 3, st := .switch }) ready),
      { cdr := true, missing := false, crcOk := false, typ := 0, ack := false, count := 0, req := 0, stat := 0, want := 0, rxDone := false, ready := false, record := [] },
      by decide +kernel⟩,
    ⟨95, onHostPort 92 (fun z => { z with defined := true, width := 4, enabled := true, st := .up }) (onLaneOf 95 (fun z
      => { z with port := some 92, logical := 3, symRun := 3, st := .switch }) ready),
      { cdr := false, missing := false, crcOk := true, typ := 0, ack := false, count := 0, req := 0, stat := 0, want := 0, rxDone := false, ready := false, record := [] },
      by decide +kernel⟩,
    ⟨95, onHostPort 92 (fun z => { z with defined := true, width := 4, enabled := true, st := .up }) (onLaneOf 95 (fun z
      => { z with port := some 92, logical := 3, st := .train, symRun := 3 }) (ready)), by decide +kernel⟩,
    ⟨95, onHostPort 92 (fun z => { z with defined := true, width := 4, enabled := true, st := .up }) (onLaneOf 95 (fun z
      => { z with port := some 92, logical := 3, symRun := 3, st := .exchange, retrains := 0xFFFFFFFF }) ready),
      by decide +kernel⟩,
    ⟨95, onHostPort 92 (fun z => { z with defined := true, width := 4, enabled := true, st := .up }) (onLaneOf 95 (fun z
      => { z with port := some 92, logical := 3, st := .switch, symRun := 3 }) (ready)), by decide +kernel⟩⟩

theorem witness_HostLaneMarkersAndLoss : (∃ (l : Nat) (s : State) (m : MarkerObs), okLane l = true ∧ running s = true
    ∧ injFor s 0x0A1 l = false ∧ (laneOf s l).st = .switch ∧ m.ok = true ∧ (laneOf s l).cwLock = false ∧ (laneOf s l).bsn
    = none ∧ m.width = widthCode (hostPort s ((lanePort s l).getD 0)).width ∧ m.logical = (laneOf s l).logical) ∧ (∃ (l :
    Nat) (s : State) (m : MarkerObs), ∃ b, okLane l = true ∧ running s = true ∧ injFor s 0x0A1 l = false ∧ (laneOf s l).st
    = .switch ∧ m.ok = true ∧ (laneOf s l).bsn = some b ∧ (laneOf s l).farDone = true ∧ m.width = widthCode (hostPort s
    ((lanePort s l).getD 0)).width ∧ m.logical = (laneOf s l).logical ∧ m.bsn % 2 ^ 48 = nextBsn b (laneOf s l).missRun ∧
    (laneOf s l).confirm = false ∧ (laneOf s l).blkLock = true) ∧ (∃ (l : Nat) (s : State) (m : MarkerObs), okLane l =
    true ∧ running s = true ∧ injFor s 0x0A1 l = false ∧ ((laneOf s l).st = .active ∨ (laneOf s l).st = .switch) ∧ m.ok =
    true ∧ (laneOf s l).confirm = false ∧ (m.logical ≠ (laneOf s l).logical ∨ m.width ≠ widthCode (hostPort s ((lanePort s
    l).getD 0)).width)) ∧ (∃ l : Nat, ∃ s : State, ∃ m : MarkerObs, okLane l = true ∧ running s = true ∧ injFor s 0x0A1 l
    = false ∧ (laneOf s l).st = .active ∧ m.ok = false ∧ (laneOf s l).cwLock = true) ∧ (∃ l : Nat, ∃ s : State, okLane l =
    true ∧ running s = true ∧ (laneOf s l).st = .active ∧ (laneOf s l).cwLock = true ∧ injFor s 0x0A0 l = false) ∧ (∃ (l :
    Nat) (s : State) (headers : List Nat), okLane l = true ∧ running s = true ∧ (laneOf s l).st = .active ∧ (laneOf s
    l).cwLock = true ∧ injFor s 0x0A0 l = false ∧ (laneOf s l).blkLock = true ∧ (laneOf s l).hdrBad < 16 ∧ headers = []) ∧
    (∃ (l : Nat) (s : State) (headers : List Nat), okLane l = true ∧ running s = true ∧ (laneOf s l).st = .active ∧
    (laneOf s l).cwLock = true ∧ injFor s 0x0A0 l = false ∧ (laneOf s l).blkLock = true ∧ (laneOf s l).hdrBad = 0 ∧
    (laneOf s l).hdrSeen = 0 ∧ headers = List.range 16) ∧ (∃ l : Nat, ∃ s : State, okLane l = true ∧ running s = true ∧
    (laneOf s l).st = .active) ∧ (∃ l : Nat, ∃ s : State, okLane l = true ∧ (laneOf s l).st = .active ∧ running s = true)
    ∧ (∃ l : Nat, ∃ s : State, okLane l = true ∧ ((laneOf s l).st = .quiet ∨ (laneOf s l).st = .deep)) ∧ (∃ l : Nat, ∃ s :
    State, ∃ nn, okLane l = true ∧ lanePort s l = some nn ∧ (hostPort s nn).wake = true ∧ (hostPort s nn).target = none ∧
    ((hostPort s nn).st = .quiet ∨ (hostPort s nn).st = .deep)) ∧ (∃ l : Nat, ∃ s : State, ∃ tgt : Nat, ∃ m : Option Nat,
    okLane l = true ∧ (hostPort s l).target = some (tgt, m)) ∧ (∃ l : Nat, ∃ s : State, okLane l = true ∧ nextRetirement s
    6 = some l) :=
  ⟨⟨95, onHostPort 92 (fun z => { z with defined := true, width := 4, enabled := true, st := .up }) (onLaneOf 95 (fun z
      => { z with port := some 92, logical := 3, symRun := 3, st := .switch }) ready), ⟨true, 2, 3, 281474976710661, 5⟩,
      by decide +kernel⟩,
    ⟨95, onHostPort 92 (fun z => { z with defined := true, width := 4, enabled := true, st := .up }) (onLaneOf 95 (fun z
      =>
      { z with port := some 92, logical := 3, symRun := 3, st := .switch, bsn := some 5, missRun := 1, farDone := true, cwLock := true, blkLock := true })
      ready), ⟨true, 2, 3, 163845, 5⟩, 5, by decide +kernel⟩,
    ⟨95, onHostPort 92 (fun z => { z with defined := true, width := 4, enabled := true, st := .up }) (onLaneOf 95 (fun z
      => { z with port := some 92, logical := 3, symRun := 3, st := .active, bsn := some 5, cwLock := true }) ready),
      ⟨true, 2, 2, 81925, 5⟩, by decide +kernel⟩,
    ⟨95, onHostPort 92 (fun z => { z with defined := true, width := 4, enabled := true, st := .up }) (onLaneOf 95 (fun z
      =>
      { z with port := some 92, logical := 3, st := .active, symRun := 3, bsn := some 5, cwLock := true, missRun := 1 })
      (ready)), ⟨false, 2, 2, 81925, 5⟩, by decide +kernel⟩,
    ⟨95, onHostPort 92 (fun z => { z with defined := true, width := 4, enabled := true, st := .up }) (onLaneOf 95 (fun z
      => { z with port := some 92, logical := 3, st := .active, symRun := 3, cwLock := true, corrected := 0xFFFFFFFE })
      (ready)), by decide +kernel⟩,
    ⟨95, onHostPort 92 (fun z => { z with defined := true, width := 4, enabled := true, st := .up }) (onLaneOf 95 (fun z
      =>
      { z with port := some 92, logical := 3, symRun := 3, st := .active, cwLock := true, blkLock := true, hdrBad := 15 })
      ready), [], by decide +kernel⟩,
    ⟨95, onHostPort 92 (fun z => { z with defined := true, width := 4, enabled := true, st := .up }) (onLaneOf 95 (fun z
      => { z with port := some 92, logical := 3, symRun := 3, st := .active, cwLock := true, blkLock := true }) ready),
      List.range 16, by decide +kernel⟩,
    ⟨95, onHostPort 92 (fun z => { z with defined := true, width := 4, enabled := true, st := .up }) (onLaneOf 95 (fun z
      => { z with port := some 92, logical := 3, st := .active, symRun := 3 }) (ready)), by decide +kernel⟩,
    ⟨95, onHostPort 92 (fun z => { z with defined := true, width := 4, enabled := true, st := .up }) (onLaneOf 95 (fun z
      => { z with port := some 92, logical := 3, st := .active, symRun := 3 }) (ready)), by decide +kernel⟩,
    ⟨95, onHostPort 92 (fun z => { z with defined := true, width := 4, enabled := true, st := .up }) (onLaneOf 95 (fun z
      => { z with port := some 92, logical := 3, st := .deep, symRun := 3 }) (ready)), by decide +kernel⟩,
    ⟨95, onHostPort 92 (fun z => { z with st := .deep, wake := true }) (onHostPort 92 (fun z =>
      { z with defined := true, width := 4, enabled := true, st := .up }) (onLaneOf 95 (fun z =>
      { z with port := some 92, logical := 3, st := .deep, symRun := 3 }) (ready))), 92, by decide +kernel⟩,
    ⟨92, onHostPort 92 (fun z => { z with st := .up, target := some (0, none) }) (mail 0x0503 (bs [(1, 92), (1, 0), (2,
      0)]) 3 (onHostPort 92 (fun z => { z with defined := true, width := 4, enabled := true, st := .up }) (onLaneOf 95
      (fun z => { z with port := some 92, logical := 3, st := .active, symRun := 3 }) (ready)))), 0, none,
      by decide +kernel⟩,
    ⟨95, onHostPort 92 (fun z => { z with degrade := true }) (onFlt (fun z => { z with queue := [(6, 95)] }) (onHostPort
      92 (fun z => { z with defined := true, width := 4, enabled := true, st := .up }) (onLaneOf 95 (fun z =>
      { z with port := some 92, logical := 3, st := .active, symRun := 3 }) (ready)))), by decide +kernel⟩⟩

theorem witness_HostCommands : (∃ mb : Nat, ∃ nn : Nat, ∃ s : State, Accepted ⟨0x0500, some 8, [(5, 3)]⟩ mb s ∧ nn = arg s
    mb 0 1 ∧ okLane nn = true ∧ arg s mb 1 1 ≤ 3 ∧ arg s mb 2 1 ≤ 1 ∧ nn % 2 ^ arg s mb 1 1 = 0 ∧ arg s mb 4 1 = 1 ∧ (∀ i,
    i < 2 ^ arg s mb 1 1 → (laneOf s (nn + i)).st = .disabled ∧ (laneOf s (nn + i)).port = none)) ∧ (∃ mb : Nat, ∃ nn :
    Nat, ∃ s : State, Accepted ⟨0x0500, some 8, [(5, 3)]⟩ mb s ∧ nn = arg s mb 0 1 ∧ okLane nn = true ∧ arg s mb 1 1 ≤ 3 ∧
    arg s mb 2 1 ≤ 1 ∧ nn % 2 ^ arg s mb 1 1 = 0 ∧ arg s mb 4 1 = 0 ∧ (hostPort s nn).defined = true) ∧ (∃ mb : Nat, ∃ nn
    : Nat, ∃ s : State, Accepted ⟨0x0501, some 4, [(2, 2)]⟩ mb s ∧ nn = arg s mb 0 1 ∧ okLane nn = true ∧ (hostPort s
    nn).defined = true ∧ arg s mb 1 1 = 1 ∧ (hostPort s nn).enabled = false) ∧ (∃ mb : Nat, ∃ nn : Nat, ∃ s : State,
    Accepted ⟨0x0501, some 4, [(2, 2)]⟩ mb s ∧ nn = arg s mb 0 1 ∧ okLane nn = true ∧ (hostPort s nn).defined = true ∧ arg
    s mb 1 1 = 0 ∧ (hostPort s nn).enabled = true) ∧ (∃ mb : Nat, ∃ l : Nat, ∃ s : State, Accepted ⟨0x0502, some 8, [(5,
    3)]⟩ mb s ∧ l = arg s mb 0 1 ∧ okLane l = true ∧ arg s mb 1 1 ≤ 1 ∧ arg s mb 2 1 ≤ 15 ∧ 40 ≤ arg s mb 3 1 ∧ arg s mb 3
    1 ≤ 64 ∧ arg s mb 4 1 ≤ 23 ∧ arg s mb 2 1 + arg s mb 3 1 + arg s mb 4 1 ≤ 64) ∧ (∃ mb : Nat, ∃ nn : Nat, ∃ s : State,
    Accepted ⟨0x0503, some 4, [(2, 2)]⟩ mb s ∧ nn = arg s mb 0 1 ∧ okLane nn = true ∧ arg s mb 1 1 ≤ 2 ∧ (hostPort s
    nn).defined = true ∧ (hostPort s nn).st ≠ .down ∧ (hostPort s nn).target = none ∧ hpStateNum (hostPort s nn).st ≠ arg
    s mb 1 1 + 1) ∧ (∃ mb : Nat, ∃ nn : Nat, ∃ s : State, Accepted ⟨0x0503, some 4, [(2, 2)]⟩ mb s ∧ nn = arg s mb 0 1 ∧
    okLane nn = true ∧ arg s mb 1 1 ≤ 2 ∧ (hostPort s nn).defined = true ∧ (hostPort s nn).st ≠ .down ∧ (hostPort s
    nn).target = none ∧ hpStateNum (hostPort s nn).st = arg s mb 1 1 + 1) ∧ (∃ mb : Nat, ∃ l : Nat, ∃ s : State, Accepted
    (objShape 0x0504) mb s ∧ l = arg s mb 0 1 ∧ okLane l = true ∧ (laneOf s l).st ≠ .disabled ∧ (laneOf s l).st ≠
    .retired) ∧ (∃ mb : Nat, ∃ l : Nat, ∃ s : State, Accepted (objShape 0x0505) mb s ∧ l = arg s mb 0 1 ∧ okLane l = true)
    ∧ (∃ mb : Nat, ∃ nn : Nat, ∃ s : State, Accepted (objShape 0x0506) mb s ∧ nn = arg s mb 0 1 ∧ okLane nn = true ∧
    (hostPort s nn).defined = true) :=
  ⟨⟨0, 88, mail 0x0500 (bs [(1, 88), (1, 3), (1, 1), (1, 3), (1, 1), (3, 0)]) 0 (ready), by decide +kernel⟩,
    ⟨0, 92, mail 0x0500 (bs [(1, 92), (1, 2), (1, 1), (1, 3), (1, 0), (3, 0)]) 0 (onHostPort 92 (fun z =>
      { z with defined := true, width := 4, enabled := true, st := .up }) (onLaneOf 95 (fun z =>
      { z with port := some 92, logical := 3, st := .active, symRun := 3 }) (ready))), by decide +kernel⟩,
    ⟨0, 92, mail 0x0501 (bs [(1, 92), (1, 1), (2, 0)]) 0 (onLaneOf 93 (fun z => { z with st := .retired }) (onHostPort 92 (fun
      z => { z with enabled := false }) (onHostPort 92 (fun z =>
      { z with defined := true, width := 4, enabled := true, st := .up }) (onLaneOf 95 (fun z =>
      { z with port := some 92, logical := 3, st := .active, symRun := 3 }) (ready))))), by decide +kernel⟩,
    ⟨0, 92, mail 0x0501 (bs [(1, 92), (1, 0), (2, 0)]) 0 (onHostPort 92 (fun z =>
      { z with defined := true, width := 4, enabled := true, st := .up }) (onLaneOf 95 (fun z =>
      { z with port := some 92, logical := 3, st := .active, symRun := 3 }) (ready))), by decide +kernel⟩,
    ⟨0, 95, mail 0x0502 (bs [(1, 95), (1, 0), (1, 0), (1, 41), (1, 23), (3, 0)]) 0 (ready), by decide +kernel⟩,
    ⟨0, 92, mail 0x0503 (bs [(1, 92), (1, 1), (2, 0)]) 0 (onHostPort 92 (fun z =>
      { z with defined := true, width := 4, enabled := true, st := .up }) (onLaneOf 95 (fun z =>
      { z with port := some 92, logical := 3, st := .active, symRun := 3 }) (ready))), by decide +kernel⟩,
    ⟨0, 92, mail 0x0503 (bs [(1, 92), (1, 0), (2, 0)]) 0 (onHostPort 92 (fun z =>
      { z with defined := true, width := 4, enabled := true, st := .up }) (onLaneOf 95 (fun z =>
      { z with port := some 92, logical := 3, st := .active, symRun := 3 }) (ready))), by decide +kernel⟩,
    ⟨0, 95, mail 0x0504 (bs [(1, 95), (3, 0)]) 0 (onHostPort 92 (fun z =>
      { z with defined := true, width := 4, enabled := true, st := .up }) (onLaneOf 95 (fun z =>
      { z with port := some 92, logical := 3, st := .quiet, symRun := 3 }) (ready))), by decide +kernel⟩,
    ⟨0, 95, mail 0x0505 (bs [(1, 95), (3, 0)]) 0 (onHostPort 92 (fun z =>
      { z with defined := true, width := 4, enabled := true, st := .up }) (onLaneOf 95 (fun z =>
      { z with port := some 92, logical := 3, st := .active, symRun := 3, unc := 9, retrains := 8 }) (ready))), by
      decide +kernel⟩,
    ⟨0, 92, mail 0x0506 (bs [(1, 92), (3, 0)]) 0 (onHostPort 92 (fun z => { z with rxPk := 9, txPk := 7, egDrop := 3 })
      (onHostPort 92 (fun z => { z with defined := true, width := 4, enabled := true, st := .up }) (onLaneOf 95 (fun z =>
      { z with port := some 92, logical := 3, st := .active, symRun := 3 }) (ready)))), by decide +kernel⟩⟩

theorem witness_PacketsFromTheHost : (∃ (nn : Nat) (pk : HostPacket) (s : State), okLane nn = true ∧ running s = true
    ∧ (hostPort s nn).st = .up ∧ spansErrored s nn pk = false ∧ 64 ≤ pk.body.length ∧ pk.body.length ≤ 9216 ∧ shimClass
    pk.shim < 2 ∧ shimLabel pk.shim ≤ lastLabel ∧ ingressUse s nn + pk.body.length + 4 ≤ 65536 * (hostPort s nn).width) ∧
    (∃ (nn : Nat) (pk : HostPacket) (s : State), okLane nn = true ∧ running s = true ∧ (hostPort s nn).st = .up ∧
    spansErrored s nn pk = true) ∧ (∃ (nn : Nat) (s : State), okLane nn = true ∧ running s = true ∧ (hostPort s nn).st =
    .down) ∧ (∃ (nn : Nat) (line : Nat) (pk : InPacket) (rest : List InPacket), ∃ (s : State), okLane nn = true ∧ running
    s = true ∧ tabGet [] s.svc.ingress nn = pk :: rest ∧ line = shimLabel pk.shim / 4 ∧ nn ∉ s.svc.held ∧ line ∉
    s.svc.fills ∧ injArmed s 0x0C0 = false ∧ line ∉ s.svc.ueLines ∧ committed s pk = true ∧ firstToCommit s nn pk = true ∧
    cached s line = true ∧ (entryOf s (shimLabel pk.shim)).valid = true) ∧ (∃ (nn : Nat) (line : Nat) (pk : InPacket)
    (rest : List InPacket), ∃ (s : State), okLane nn = true ∧ running s = true ∧ tabGet [] s.svc.ingress nn = pk :: rest ∧
    line = shimLabel pk.shim / 4 ∧ nn ∉ s.svc.held ∧ line ∉ s.svc.fills ∧ injArmed s 0x0C0 = false ∧ line ∉ s.svc.ueLines
    ∧ committed s pk = true ∧ firstToCommit s nn pk = true ∧ cached s line = true ∧ (entryOf s (shimLabel pk.shim)).valid
    = false) ∧ (∃ (nn : Nat) (line : Nat) (pk : InPacket) (rest : List InPacket), ∃ (s : State), okLane nn = true ∧
    running s = true ∧ tabGet [] s.svc.ingress nn = pk :: rest ∧ line = shimLabel pk.shim / 4 ∧ nn ∉ s.svc.held ∧ line ∉
    s.svc.fills ∧ injArmed s 0x0C0 = false ∧ line ∉ s.svc.ueLines ∧ committed s pk = true ∧ firstToCommit s nn pk = true ∧
    cached s line = false ∧ s.svc.fills.length < 256) ∧ (∃ (line : Nat) (s : State), line < 1310720 ∧ line ∈ s.svc.fills ∧
    line ∉ s.svc.ueLines ∧ injectedPoint (labelBase + 64 * line) s = none ∧ wordBad s (labelBase + 64 * line) = false) ∧
    (∃ (line : Nat) (s : State), line < 1310720 ∧ line ∈ s.svc.fills ∧ line ∉ s.svc.ueLines ∧ injectedPoint (labelBase +
    64 * line) s = none ∧ wordBad s (labelBase + 64 * line) = false ∧ regionValid s (regionOf (labelBase + 64 * line)) =
    true) ∧ (∃ (line : Nat) (s : State), line < 2621440 ∧ MemoryCanonical s ∧ injectedPoint (counterBase + 64 * line) s =
    none ∧ wordBad s (counterBase + 64 * line) = false ∧ ctrCached s line = false) ∧ (∃ (p : TxPacket) (rest : List
    TxPacket), ∃ (x : Nat) (o : Nat) (s : State), running s = true ∧ s.svc.looked = p :: rest ∧ x = p.entry.trib ∧ o = (if
    isSingle s then (tribOf s x).occ else occAt s p.win (tribOf s x)) ∧ injFor s 0x0C2 x = false ∧ counterFull s = false ∧
    isStandIn s = false ∧ noCapacity s x = true) ∧ (∃ (p : TxPacket) (rest : List TxPacket), ∃ (x : Nat) (o : Nat) (s :
    State), running s = true ∧ s.svc.looked = p :: rest ∧ x = p.entry.trib ∧ o = (if isSingle s then (tribOf s x).occ else
    occAt s p.win (tribOf s x)) ∧ injFor s 0x0C2 x = false ∧ counterFull s = false ∧ isStandIn s = false ∧ noCapacity s x
    = false ∧ creditLimit s p < o + p.cells) ∧ (∃ (p : TxPacket) (rest : List TxPacket), ∃ (x : Nat) (o : Nat) (s :
    State), running s = true ∧ s.svc.looked = p :: rest ∧ x = p.entry.trib ∧ o = (if isSingle s then (tribOf s x).occ else
    occAt s p.win (tribOf s x)) ∧ injFor s 0x0C2 x = false ∧ counterFull s = false ∧ isStandIn s = false ∧ noCapacity s x
    = false ∧ o + p.cells ≤ creditLimit s p) :=
  ⟨⟨92, { shim := 2684354176, body := List.replicate 9216 7, gap := 20, lane := 0, count := 100 }, (onHostPort 92 (fun
      z => { z with defined := true, width := 4, enabled := true, st := .up }) (ready)), by decide +kernel⟩,
    ⟨92, { shim := 0, body := List.replicate 64 7, gap := 20, lane := 0, count := 100 }, onLaneOf 92 (fun z =>
      { z with errBlks := [100] }) (onHostPort 92 (fun z =>
      { z with defined := true, width := 4, enabled := true, st := .up }) (ready)), by decide +kernel⟩,
    ⟨92, onHostPort 92 (fun z => { z with st := .down }) (onHostPort 92 (fun z =>
      { z with defined := true, width := 4, enabled := true, st := .up }) (ready)), by decide +kernel⟩,
    ⟨92, 2500, { shim := 5120128, body := List.replicate 100 7, gap := 20, lane := 0, count := 100 },
      [{ shim := 4608, body := List.replicate 64 7, gap := 20, lane := 0, count := 100 }], store (labelBase + 16 * 10000)
      (bs [(2, 32773), (2, 5), (1, 0), (1, 0), (3, 7), (3, 8), (4, 0)]) 0 (onSvc (fun z =>
      { z with ingress := [(92, [{ shim := 5120128, body := List.replicate 100 7, gap := 20, lane := 0, count := 100 }, { shim := 4608, body := List.replicate 64 7, gap := 20, lane := 0, count := 100 }])], cache := [(2500, [2500])] })
      (onHostPort 92 (fun z => { z with defined := true, width := 4, enabled := true, st := .up }) (ready))),
      by decide +kernel⟩,
    ⟨92, 2500, { shim := 5120128, body := List.replicate 100 7, gap := 20, lane := 0, count := 100 },
      [{ shim := 4608, body := List.replicate 64 7, gap := 20, lane := 0, count := 100 }], onSvc (fun z =>
      { z with ingress := [(92, [{ shim := 5120128, body := List.replicate 100 7, gap := 20, lane := 0, count := 100 }, { shim := 4608, body := List.replicate 64 7, gap := 20, lane := 0, count := 100 }])], cache := [(2500, [2500])] })
      (onHostPort 92 (fun z => { z with defined := true, width := 4, enabled := true, st := .up }) (ready)),
      by decide +kernel⟩,
    ⟨92, 2500, { shim := 5120128, body := List.replicate 100 7, gap := 20, lane := 0, count := 100 },
      [{ shim := 4608, body := List.replicate 64 7, gap := 20, lane := 0, count := 100 }], onSvc (fun z =>
      { z with ingress := [(92, [{ shim := 5120128, body := List.replicate 100 7, gap := 20, lane := 0, count := 100 }, { shim := 4608, body := List.replicate 64 7, gap := 20, lane := 0, count := 100 }])] })
      (onHostPort 92 (fun z => { z with defined := true, width := 4, enabled := true, st := .up }) (ready)),
      by decide +kernel⟩,
    ⟨2500, store (labelBase + 16 * 10000) (bs [(2, 32773), (2, 65535), (1, 0), (1, 0), (3, 7), (3, 8), (4, 0)]) 0 (onSvc
      (fun z =>
      { z with ingress := [(92, [{ shim := 5120128, body := List.replicate 100 7, gap := 20, lane := 0, count := 100 }, { shim := 4608, body := List.replicate 64 7, gap := 20, lane := 0, count := 100 }])], fills := [3, 2500], held := [92] })
      (onHostPort 92 (fun z => { z with defined := true, width := 4, enabled := true, st := .up }) (ready))),
      by decide +kernel⟩,
    ⟨2500, store (labelBase + 16 * 10000) (bs [(2, 32773), (2, 65535), (1, 0), (1, 0), (3, 7), (3, 8), (4, 0)]) 0 (onSvc
      (fun z =>
      { z with ingress := [(92, [{ shim := 5120128, body := List.replicate 100 7, gap := 20, lane := 0, count := 100 }, { shim := 4608, body := List.replicate 64 7, gap := 20, lane := 0, count := 100 }])], fills := [3, 2500], held := [92] })
      (onHostPort 92 (fun z => { z with defined := true, width := 4, enabled := true, st := .up }) (ready))),
      by decide +kernel⟩,
    ⟨5000, onSvc (fun z => { z with ctrPend := [(10000, { tp := 3 })] }) ready, by decide +kernel⟩,
    ⟨{ nn := 92, label := 9, cls := 0, de := false, bypassOk := false, ts := true, body := List.replicate 64 7, entry := { valid := true, trib := 5, ctx := 65535, bypass := false, clsOvr := 0, profile := 2, cset := 7, dset := 8 }, cells := 2 },
      [], 5, 0, onSvc (fun z =>
      { z with looked := [{ nn := 92, label := 9, cls := 0, de := false, bypassOk := false, ts := true, body := List.replicate 64 7, entry := { valid := true, trib := 5, ctx := 65535, bypass := false, clsOvr := 0, profile := 2, cset := 7, dset := 8 }, cells := 2 }] })
      (ready), by decide +kernel⟩,
    ⟨{ nn := 92, label := 9, cls := 1, de := true, bypassOk := false, ts := true, body := List.replicate 64 7, entry := { valid := true, trib := 5, ctx := 65535, bypass := false, clsOvr := 0, profile := 2, cset := 7, dset := 8 }, cells := 2 },
      [], 5, 9999, onSvc (fun z =>
      { z with slot := [(2563, { tx := 5, rx := 5 })], looked := [{ nn := 92, label := 9, cls := 1, de := true, bypassOk := false, ts := true, body := List.replicate 64 7, entry := { valid := true, trib := 5, ctx := 65535, bypass := false, clsOvr := 0, profile := 2, cset := 7, dset := 8 }, cells := 2 }] })
      (onTribOf 5 (fun z => { z with txEn := true, occ := 9999 }) (ready)), by decide +kernel⟩,
    ⟨{ nn := 92, label := 9, cls := 0, de := false, bypassOk := false, ts := true, body := List.replicate 64 7, entry := { valid := true, trib := 5, ctx := 65535, bypass := false, clsOvr := 0, profile := 2, cset := 7, dset := 8 }, cells := 2 },
      [], 5, 0, onSvc (fun z =>
      { z with slot := [(2563, { tx := 5, rx := 5 })], looked := [{ nn := 92, label := 9, cls := 0, de := false, bypassOk := false, ts := true, body := List.replicate 64 7, entry := { valid := true, trib := 5, ctx := 65535, bypass := false, clsOvr := 0, profile := 2, cset := 7, dset := 8 }, cells := 2 }] })
      (onTribOf 5 (fun z => { z with txEn := true, alloc := 900 }) (ready)), by decide +kernel⟩⟩

theorem witness_SlotsToEgress : (∃ (sc : Nat) (k : Nat) (o : Nat) (at_ : Nat) (s : State), okSc sc = true ∧ okSlot k =
    true ∧ o = (slotOwner s (40 * sc + k)).tx ∧ o < 3840 ∧ txLit s sc = true ∧ at_ % frameTicks (txClass s sc) = 0 ∧ now s
    ≤ at_ ∧ nextToFill s o (40 * sc + k) at_ = true ∧ partnerOf s o = none ∧ (tribOf s o).testSend = false ∧ (tribOf s
    o).copy = [] ∧ 231 ≤ (tribOf s o).cur.length) ∧ (∃ (sc : Nat) (k : Nat) (o : Nat) (at_ : Nat) (s : State), okSc sc =
    true ∧ okSlot k = true ∧ o = (slotOwner s (40 * sc + k)).tx ∧ o < 3840 ∧ txLit s sc = true ∧ at_ % frameTicks (txClass
    s sc) = 0 ∧ now s ≤ at_ ∧ nextToFill s o (40 * sc + k) at_ = true ∧ partnerOf s o = none ∧ (tribOf s o).testSend =
    true) ∧ (∃ x : Nat, okTrib x = true) ∧ (∃ (x : Nat) (h : Nat) (s : State), okTrib x = true ∧ (tribOf s x).rxEn = true
    ∧ (tribOf s x).pkt = none ∧ (tribOf s x).delin = .hunt ∧ h = frontHeader (tribOf s x).stream ∧ (tribOf s
    x).stream.length < 6) ∧ (∃ (x : Nat) (h : Nat) (s : State), okTrib x = true ∧ (tribOf s x).rxEn = true ∧ (tribOf s
    x).pkt = none ∧ (tribOf s x).delin = .hunt ∧ h = frontHeader (tribOf s x).stream ∧ 6 ≤ (tribOf s x).stream.length) ∧
    (∃ (x : Nat) (h : Nat) (s : State), okTrib x = true ∧ (tribOf s x).rxEn = true ∧ (tribOf s x).pkt = none ∧ (tribOf s
    x).delin = .presync ∧ h = frontHeader ((tribOf s x).stream.drop (tribOf s x).skip) ∧ (tribOf s x).skip + 6 ≤ (tribOf s
    x).stream.length) ∧ (∃ (x : Nat) (h : Nat) (s : State), okTrib x = true ∧ (tribOf s x).rxEn = true ∧ (tribOf s x).pkt
    = none ∧ (tribOf s x).delin = .sync ∧ h = frontHeader (tribOf s x).stream ∧ 6 ≤ (tribOf s x).stream.length) ∧ (∃ (x :
    Nat) (f : SlotFrame) (rest : List SlotFrame), ∃ (l : List SlotFrame), ∃ (s : State), okTrib x = true ∧ (tribOf s
    x).rxEn = true ∧ (tribOf s x).arrived = f :: rest ∧ l = group f.dep (f :: rest) ∧ allArrived s x f.dep = false) ∧ (∃
    (x : Nat) (f : SlotFrame) (rest : List SlotFrame), ∃ (l : List SlotFrame), ∃ (s : State), okTrib x = true ∧ (tribOf s
    x).rxEn = true ∧ (tribOf s x).arrived = f :: rest ∧ l = group f.dep (f :: rest) ∧ allArrived s x f.dep = true ∧
    partnerOf s x = none ∧ (tribOf s x).testCheck = false) ∧ (∃ (x : Nat) (sc : Nat) (k : Nat) (dep : Nat) (s : State),
    okTrib x = true ∧ okSc sc = true ∧ okSlot k = true ∧ (tribOf s x).rxEn = true ∧ (slotOwner s (40 * sc + k)).rx = x ∧
    (tribOf s x).pos ≤ dep ∧ tabGet 0 (tribOf s x).seen (40 * sc + k) ≤ dep) ∧ (∃ (x : Nat) (sc : Nat) (k : Nat) (s :
    State), okTrib x = true ∧ okSc sc = true ∧ okSlot k = true ∧ (tribOf s x).rxEn = true ∧ (slotOwner s (40 * sc + k)).rx
    ≠ x) ∧ (∃ (x : Nat) (h : Nat) (p : RxPacket) (e : LabelEntry) (s : State), okTrib x = true ∧ (tribOf s x).pkt = some h
    ∧ tpeLength h ≤ (tribOf s x).stream.length ∧ p = packetOf x h (tribOf s x).pktBad ((tribOf s x).stream.take (tpeLength
    h)) ∧ e = entryOf s p.label ∧ mute s x = true) ∧ (∃ (x : Nat) (h : Nat) (p : RxPacket) (e : LabelEntry) (s : State),
    okTrib x = true ∧ (tribOf s x).pkt = some h ∧ tpeLength h ≤ (tribOf s x).stream.length ∧ p = packetOf x h (tribOf s
    x).pktBad ((tribOf s x).stream.take (tpeLength h)) ∧ e = entryOf s p.label ∧ mute s x = false ∧ lineLost s (p.label /
    4) = false) ∧ (∃ (nn : Nat) (p : RxPacket) (rest : List RxPacket), ∃ (s : State), okLane nn = true ∧ tabGet []
    s.svc.egress nn = p :: rest ∧ (hostPort s nn).st = .up ∧ countWaits p s = false) ∧ (∃ (nn : Nat) (p : RxPacket) (rest
    : List RxPacket), ∃ (s : State), okLane nn = true ∧ tabGet [] s.svc.egress nn = p :: rest ∧ (hostPort s nn).st = .up ∧
    countWaits p s = true) ∧ (∃ (nn : Nat) (p : RxPacket) (rest : List RxPacket), ∃ (s : State), okLane nn = true ∧ tabGet
    [] s.svc.egress nn = p :: rest ∧ (hostPort s nn).st ≠ .up) :=
  ⟨⟨64, 3, 5, 123518976000, onTribOf 5 (fun z => { z with cur := List.replicate 300 9, curTrib := 5, curCells := 3 })
      (onSvc (fun z => { z with slot := [(2563, { tx := 5, rx := 5 })] }) ((onTxPort 4 (fun z =>
      { z with tx := .on, len := true, classes := [6,5,4,3,2,6,6,6,6,6,6,6,6,6,6,6] }) (onTiming (fun z =>
      { z with tc := 123456789012 }) (ready))))), by decide +kernel⟩,
    ⟨64, 3, 5, 123518976000, onTribOf 5 (fun z => { z with testSend := true }) (onSvc (fun z =>
      { z with slot := [(2563, { tx := 5, rx := 5 })] }) ((onTxPort 4 (fun z =>
      { z with tx := .on, len := true, classes := [6,5,4,3,2,6,6,6,6,6,6,6,6,6,6,6] }) (onTiming (fun z =>
      { z with tc := 123456789012 }) (ready))))), by decide +kernel⟩,
    ⟨3839, by decide +kernel⟩,
    ⟨5, 0, onTribOf 5 (fun z => { z with rxEn := true, delin := .hunt }) (ready), by decide +kernel⟩,
    ⟨5, _, onTribOf 5 (fun z =>
      { z with rxEn := true, delin := .hunt, stream := (natBE 6 (tpeHeader 10000 1 false 64)).map (fun b => (b, false)) })
      (ready), by decide +kernel, by decide +kernel, by decide +kernel, by decide +kernel, rfl, by decide +kernel⟩,
    ⟨5, _, onTribOf 5 (fun z =>
      { z with rxEn := true, delin := .presync, skip := 70, stream := (natBE 6 (tpeHeader 10000 1 false 64)).map (fun b => (b, false)) ++ List.replicate 64 (7, false) ++ (natBE 6 (tpeHeader 10000 1 false 64)).map (fun b => (b, false)) })
      (ready), by decide +kernel, by decide +kernel, by decide +kernel, by decide +kernel, rfl, by decide +kernel⟩,
    ⟨5, _, onTribOf 5 (fun z =>
      { z with rxEn := true, delin := .sync, stream := (natBE 6 (tpeHeader 10000 1 false 64)).map (fun b => (b, false)) })
      (ready), by decide +kernel, by decide +kernel, by decide +kernel, by decide +kernel, rfl, by decide +kernel⟩,
    ⟨5, { dep := 999, arr := some 1200, sc := 64, slot := 3, bytes := List.replicate 231 (5, false) }, [],
      [{ dep := 999, arr := some 1200, sc := 64, slot := 3, bytes := List.replicate 231 (5, false) }], onTribOf 5 (fun z
      =>
      { z with rxEn := true, arrived := [{ dep := 999, arr := some 1200, sc := 64, slot := 3, bytes := List.replicate 231 (5, false) }] })
      (onSvc (fun z => { z with slot := [(2563, { tx := 5, rx := 5 })] }) ((onRxSc 65 (fun z =>
      { z with cfg := 6, conv := true }) (onRxSc 64 (fun z => { z with cfg := 6, conv := true }) (onRxPort 4 (fun z =>
      { z with st := .track, light := true }) (ready)))))), by decide +kernel⟩,
    ⟨5, { dep := 999, arr := some 1200, sc := 64, slot := 3, bytes := List.replicate 231 (5, false) }, [],
      [{ dep := 999, arr := some 1200, sc := 64, slot := 3, bytes := List.replicate 231 (5, false) }], onTribOf 5 (fun z
      =>
      { z with rxEn := true, arrived := [{ dep := 999, arr := some 1200, sc := 64, slot := 3, bytes := List.replicate 231 (5, false) }], seen := [(2563, 1000)] })
      (onSvc (fun z => { z with slot := [(2563, { tx := 5, rx := 5 })] }) ((onRxSc 65 (fun z =>
      { z with cfg := 6, conv := true }) (onRxSc 64 (fun z => { z with cfg := 6, conv := true }) (onRxPort 4 (fun z =>
      { z with st := .track, light := true }) (ready)))))), by decide +kernel⟩,
    ⟨5, 64, 3, 999, onTribOf 5 (fun z => { z with rxEn := true, pos := 999, testCheck := true }) (onSvc (fun z =>
      { z with slot := [(2563, { tx := 5, rx := 5 })] }) (ready)), by decide +kernel⟩,
    ⟨5, 64, 4, onTribOf 5 (fun z => { z with rxEn := true }) (onSvc (fun z =>
      { z with slot := [(2563, { tx := 5, rx := 5 })] }) (ready)), by decide +kernel⟩,
    ⟨5, tpeHeader 10000 1 false 64, _, _, onTribOf 5 (fun z =>
      { z with rxEn := false, pkt := some (tpeHeader 10000 1 false 64), stream := List.replicate 64 (7, false) }) (ready),
      by decide +kernel, by decide +kernel, by decide +kernel, rfl, rfl, by decide +kernel⟩,
    ⟨5, tpeHeader 10000 1 false 64, _, _, onTribOf 5 (fun z =>
      { z with rxEn := true, egress := 92, pkt := some (tpeHeader 10000 1 false 64), stream := List.replicate 64 (7, false) })
      (store (labelBase + 16 * 10000) (bs [(2, 32773), (2, 65535), (1, 0), (1, 0), (3, 7), (3, 8), (4, 0)]) 0 ((onHostPort
      92 (fun z => { z with defined := true, width := 4, enabled := true, st := .up }) (ready)))), by decide +kernel,
      by decide +kernel, by decide +kernel, rfl, rfl, by decide +kernel, by decide +kernel⟩,
    ⟨92, ⟨5, 10000, 1, false, List.replicate 64 7, false, false, false, some 8⟩, [⟨5, 10000, 1, false, List.replicate 64
      7, false, false, false, some 8⟩], (onSvc (fun z =>
      { z with egress := [(92, [⟨5, 10000, 1, false, List.replicate 64 7, false, false, false, some 8⟩, ⟨5, 10000, 1, false, List.replicate 64 7, false, false, false, some 8⟩])] })
      (onHostPort 92 (fun z => { z with defined := true, width := 4, enabled := true, st := .up }) (ready))),
      by decide +kernel⟩,
    ⟨92, ⟨5, 10000, 1, false, List.replicate 64 7, false, false, false, some 8⟩, [⟨5, 10000, 1, false, List.replicate 64
      7, false, false, false, some 8⟩], onFlt (fun z => { z with inj := [(0x0C2, { running := true })] }) (onSvc (fun z =>
      { z with egress := [(92, [⟨5, 10000, 1, false, List.replicate 64 7, false, false, false, some 8⟩, ⟨5, 10000, 1, false, List.replicate 64 7, false, false, false, some 8⟩])] })
      (onHostPort 92 (fun z => { z with defined := true, width := 4, enabled := true, st := .up }) (ready))),
      by decide +kernel⟩,
    ⟨92, ⟨5, 10000, 1, false, List.replicate 64 7, false, false, false, some 8⟩, [⟨5, 10000, 1, false, List.replicate 64
      7, false, false, false, some 8⟩], onHostPort 92 (fun z => { z with st := .down }) (onSvc (fun z =>
      { z with egress := [(92, [⟨5, 10000, 1, false, List.replicate 64 7, false, false, false, some 8⟩, ⟨5, 10000, 1, false, List.replicate 64 7, false, false, false, some 8⟩])] })
      (onHostPort 92 (fun z => { z with defined := true, width := 4, enabled := true, st := .up }) (ready))),
      by decide +kernel⟩⟩

theorem witness_TributaryMapAndCommands : (∃ mb : Nat, ∃ x : Nat, ∃ s : State, Accepted ⟨0x0600, some 16, [(14, 2)]⟩ mb s
    ∧ x = arg s mb 0 2 ∧ x ≤ 3839 ∧ bitOf (arg s mb 3 1) 2 = false ∧ arg s mb 6 2 = 0 ∧ allocations s x (arg s mb 8 4) ≤
    294912 ∧ (arg s mb 4 2 = 0xFFFF ∨ portDefined s (arg s mb 4 2) = true) ∧ fitsOnChip s x = true ∧ arg s mb 12 2 =
    0xFFFF) ∧ (∃ mb : Nat, ∃ s : State, Accepted ⟨0x0601, some 12, [(9, 3)]⟩ mb s ∧ (arg s mb 0 2 ≤ 3839 ∨ arg s mb 0 2 =
    0xFFFF) ∧ arg s mb 2 1 ≤ 95 ∧ arg s mb 4 5 ≠ 0 ∧ arg s mb 3 1 ≠ 0) ∧ (∃ mb : Nat, ∃ b : Nat, ∃ i : Nat, ∃ s : State,
    Accepted ⟨0x0602, some 12, [(10, 2)]⟩ mb s ∧ wantedBoundary 0 (requestOf s mb) s = some b ∧ s.svc.commit = none ∧
    stagedBreaks s = false ∧ freeShared s = some i) ∧ (∃ mb : Nat, ∃ s : State, Accepted ⟨0x0603, some 4, [(2, 2)]⟩ mb s ∧
    arg s mb 0 2 ≤ 3839) ∧ (∃ i : Nat, ∃ b : Nat, ∃ at_ : Nat, ∃ s : State, okCue i = true ∧ dueOnGrid s i 4 at_ = true ∧
    s.svc.commit = some (b, i) ∧ s.svc.fillAt = none) ∧ (∃ i : Nat, ∃ at_ : Nat, ∃ s : State, okCue i = true ∧ dueOnGrid s
    i 4 at_ = true ∧ s.svc.commit = none) :=
  ⟨⟨0, 3839, mail 0x0600 (bs [(2, 3839), (1, 0), (1, 0), (2, 65535), (2, 0), (4, 0), (2, 65535), (2, 0)]) 0 (onTribOf 3839
      (fun z => { z with express := [{ bytes := [1], trib := 3839, cells := 3, label := 1, ts := false }], occ := 5 })
      (onSvc (fun z => { z with slot := [(3, { tx := 3839 })] }) (onHostPort 92 (fun z =>
      { z with defined := true, width := 4, enabled := true, st := .up }) (ready)))), by decide +kernel⟩,
    ⟨0, mail 0x0601 (bs [(2, 7), (1, 95), (1, 1), (5, 549755813893), (3, 0)]) 0 (onSvc (fun z =>
      { z with slot := [(3800, { tx := 9, stTx := 8 })] }) (ready)), by decide +kernel⟩,
    ⟨0, 281857228800, ((fun (s : State) => (freeShared s).getD 999) (mail 0x0602 (bs [(10, 0), (2, 0)]) 0 (onSvc (fun z =>
      { z with slot := [(3, { tx := 7, stTx := 5, stRx := 6 }), (5, { stTx := 5 }), (900, { tx := 3, rx := 3 })] })
      (onTiming (fun z => { z with tc := 123456789012 }) (ready))))), mail 0x0602 (bs [(10, 0), (2, 0)]) 0 (onSvc (fun z
      => { z with slot := [(3, { tx := 7, stTx := 5, stRx := 6 }), (5, { stTx := 5 }), (900, { tx := 3, rx := 3 })] })
      (onTiming (fun z => { z with tc := 123456789012 }) (ready))), by decide +kernel⟩,
    ⟨0, mail 0x0603 (bs [(2, 5), (2, 0)]) 0 (onTribOf 6 (fun z => { z with partner := 5 }) (onTribOf 5 (fun z =>
      { z with txEn := true, occ := 0, partner := 65535 }) (onSvc (fun z =>
      { z with looked := [({ nn := 92, label := 9, cls := 0, de := false, bypassOk := false, ts := true, body := List.replicate 64 7, entry := { valid := true, trib := 5, ctx := 65535, bypass := false, clsOvr := 0, profile := 2, cset := 7, dset := 8 }, cells := 2 } : TxPacket), ({ nn := 92, label := 9, cls := 1, de := true, bypassOk := false, ts := true, body := List.replicate 64 7, entry := { valid := true, trib := 5, ctx := 3, bypass := false, clsOvr := 0, profile := 2, cset := 7, dset := 8 }, cells := 2 } : TxPacket)], slot := [(3, { tx := 5 }), (4, { tx := 5 })] })
      (ready)))), by decide +kernel⟩,
    ⟨9, 281857228800, 281857228800, setCue 9 { state := 1, kind := 4, obj := 0, time := 281857228800 } (onSvc (fun z =>
      { z with commit := some (281857228800, 9), slot := [(3, { tx := 7, pTx := 5, pRx := 6 }), (645, { pTx := 5 }), (1300, { tx := 2, pTx := 2, rx := 9 })], mapVer := [(0, 0xFFFFFFFF)], trib := [(7, { txEn := true })] })
      (onTiming (fun z => { z with tc := 123456789012 }) (ready))), by decide +kernel⟩,
    ⟨9, 281857228800, onTxPort 4 (fun z => { z with goneDark := 5 }) (setCue 9
      { state := 1, kind := 4, obj := 4, time := 281857228800 } (onSvc (fun z =>
      { z with slot := [(2563, { tx := 7, pTx := 5, pRx := 6 }), (2603, { tx := 5 }), (2643, { tx := 2, pTx := 2, rx := 9 })] })
      (onTiming (fun z => { z with tc := 123456789012 }) (ready)))), by decide +kernel⟩⟩

theorem witness_LabelCommands : (∃ mb : Nat, ∃ l : Nat, ∃ s : State, Accepted ⟨0x0680, some 20, []⟩ mb s ∧ l = arg s
    mb 0 4 ∧ l ≤ lastLabel ∧ MemoryCanonical s ∧ (requestOf s mb).pay.length = 20 ∧ entryOk (field 4 16 (requestOf s
    mb).pay) = true ∧ entryZeros (field 4 16 (requestOf s mb).pay) = true ∧ wordBad s (labelBase + 64 * (l / 4)) = false ∧
    l / 4 ∉ s.svc.ueLines) ∧ (∃ (mb : Nat) (l : Nat) (s : State), Accepted ⟨0x0681, some 4, []⟩ mb s ∧ l = arg s mb 0 4 ∧
    l ≤ lastLabel ∧ wordBad s (labelBase + 64 * (l / 4)) = false ∧ l / 4 ∉ s.svc.ueLines) ∧ (∃ mb : Nat, ∃ k : Nat, ∃ s :
    State, Accepted ⟨0x0682, some 8, [(5, 3)]⟩ mb s ∧ k = arg s mb 0 4 ∧ k ≤ lastLabel ∧ arg s mb 4 1 = 0) ∧ (∃ mb : Nat,
    ∃ k : Nat, ∃ s : State, Accepted ⟨0x0682, some 8, [(5, 3)]⟩ mb s ∧ k = arg s mb 0 4 ∧ k ≤ lastLabel ∧ arg s mb 4 1 = 1
    ∧ s.pair.role ≤ 1 ∧ MemoryCanonical s) ∧ (∃ mb : Nat, ∃ s : State, Accepted ⟨0x0683, some 6, [(1, 1)]⟩ mb s ∧ arg s mb
    0 1 ≤ 15 ∧ 1 ≤ arg s mb 2 2 ∧ arg s mb 2 2 ≤ arg s mb 4 2 ∧ arg s mb 4 2 ≤ 256) ∧ (∃ mb : Nat, ∃ s : State, Accepted
    (bareShape 0x0684) mb s) ∧ (∃ mb : Nat, ∃ s : State, Accepted (bareShape 0x0685) mb s) :=
  ⟨⟨0, 10000, mail 0x0680 (bs [(4, 10000), (2, 36607), (2, 40959), (1, 6), (1, 15), (3, 5242879), (3, 8388607), (4,
      0)]) 0 (ready), by decide +kernel⟩,
    ⟨0, 10000, mail 0x0681 (bs [(4, 10000)]) 0 (store (labelBase + 16 * 10000) (bs [(2, 32773), (2, 65535), (1, 0), (1,
      0), (3, 7), (3, 8), (4, 0)]) 0 (ready)), by decide +kernel⟩,
    ⟨0, 10, mail 0x0682 (bs [(4, 10), (1, 0), (3, 0)]) 0 (store (counterBase + 64 * 5) (bs [(8, 3), (8,
      18446744073709551615), (8, 7), (8, 9), (8, 1), (8, 2), (8, 3), (8, 4)]) 0 (onSvc (fun z =>
      { z with ctrPend := [(10, { tp := 3, tb := 4, rp := 5, rb := 6 }), (11, { tp := 1 }), (12, { tp := 1 })], ctrFull := true })
      (ready))), by decide +kernel⟩,
    ⟨0, 10, mail 0x0682 (bs [(4, 10), (1, 1), (3, 0)]) 0 (store (counterBase + 64 * 5) (bs [(8, 3), (8,
      18446744073709551615), (8, 7), (8, 9), (8, 1), (8, 2), (8, 3), (8, 4)]) 0 (onSvc (fun z =>
      { z with ctrPend := [(10, { tp := 3, tb := 4, rp := 5, rb := 6 }), (11, { tp := 1 }), (12, { tp := 1 })], ctrFull := true })
      (ready))), by decide +kernel⟩,
    ⟨0, mail 0x0683 (bs [(1, 15), (1, 0), (2, 1), (2, 256)]) 0 (ready), by decide +kernel⟩,
    ⟨0, mail 0x0684 (bs []) 0 (onSvc (fun z => { z with lookups := 3, misses := 2, tsOverrun := true, unknown := 9 })
      (ready)), by decide +kernel⟩,
    ⟨0, mail 0x0685 (bs []) 0 (ready), by decide +kernel⟩⟩

theorem witness_KeyWindowStages : (∃ s : State, busWorks .pcie s = true) ∧ (∃ s : State, ∃ k, busWorks .pcie s = true
    ∧ k < 8) ∧ (∃ s : State, busWorks .pcie s = true ∧ s.ctrl.keyJob = none) ∧ (∃ s : State, busWorks .pcie s = true ∧
    s.ctrl.keyJob ≠ none) ∧ (∃ s : State, s.ctrl.keyStaged = true) ∧ (∃ (j : KeyJob) (s : State), s.ctrl.keyJob = some j ∧
    j.ctx < 40960 ∧ (ctxOf s j.ctx).roll = none ∧ holdsKey (ctxOf s j.ctx).cur j.key = false ∧ holdsKey (ctxOf s
    j.ctx).nxt j.key = false ∧ (ctxOf s j.ctx).cur = none ∧ holdsAn (ctxOf s j.ctx).nxt j.an = false) ∧ (∃ (j : KeyJob) (s
    : State), s.ctrl.keyJob = some j ∧ j.ctx < 40960 ∧ (ctxOf s j.ctx).roll = none ∧ holdsKey (ctxOf s j.ctx).cur j.key =
    false ∧ holdsKey (ctxOf s j.ctx).nxt j.key = false ∧ (ctxOf s j.ctx).cur ≠ none ∧ holdsAn (ctxOf s j.ctx).cur j.an =
    false ∧ (ctxOf s j.ctx).retired = false) ∧ (∃ (j : KeyJob) (s : State), s.ctrl.keyJob = some j ∧ j.ctx < 40960 ∧
    (holdsKey (ctxOf s j.ctx).cur j.key = true ∨ holdsKey (ctxOf s j.ctx).nxt j.key = true)) :=
  ⟨⟨onCtrl (fun z => { z with keySel := 0x2000A, keySalt := 7, keyData := [(3, 9)], keyStaged := true }) (ready),
      by decide +kernel⟩,
    ⟨onCtrl (fun z => { z with keySel := 0x2000A, keySalt := 7, keyData := [(3, 9)], keyStaged := true }) (ready), 0,
      by decide +kernel⟩,
    ⟨onCtrl (fun z => { z with keySel := 0x2000A, keySalt := 7, keyData := [(3, 9)], keyStaged := true }) (ready),
      by decide +kernel⟩,
    ⟨onCtrl (fun z => { z with keyJob := some ⟨1,2,3,4⟩ }) (onCtrl (fun z =>
      { z with keySel := 0x2000A, keySalt := 7, keyData := [(3, 9)], keyStaged := true }) (ready)), by decide +kernel⟩,
    ⟨onCtrl (fun z => { z with keySel := 0x2000A, keySalt := 7, keyData := [(3, 9)], keyStaged := true }) (ready),
      by decide +kernel⟩,
    ⟨⟨40959, 2, 77, 4⟩, onCtrl (fun z => { z with keyJob := some ⟨40959, 2, 77, 4⟩ }) (onCtxOf 40959 (fun z =>
      { z with pn := 9 }) (ready)), by decide +kernel⟩,
    ⟨⟨40959, 2, 77, 4⟩, onCtrl (fun z => { z with keyJob := some ⟨40959, 2, 77, 4⟩ }) (onCtxOf 40959 (fun z =>
      { z with cur := some { key := 6, salt := 5, an := 1, h := 9, win := [9], edge := 0, rxOnly := false } }) (ready)),
      by decide +kernel⟩,
    ⟨⟨40959, 2, 77, 4⟩, onCtrl (fun z => { z with keyJob := some ⟨40959, 2, 77, 4⟩ }) (onCtxOf 40959 (fun z =>
      { z with cur := some { key := 77, salt := 5, an := 1, h := 9, win := [9], edge := 0, rxOnly := false } }) (ready)),
      by decide +kernel⟩⟩

theorem witness_ContextCommands : (∃ mb : Nat, ∃ s : State, Accepted ⟨0x0700, some 8, [(6, 2)]⟩ mb s ∧ okCtx (arg s mb 0
    2) = true ∧ arg s mb 2 1 ≤ 3 ∧ arg s mb 3 1 ≤ 15 ∧ arg s mb 4 2 ≤ 64) ∧ (∃ mb : Nat, ∃ s : State, Accepted ⟨0x0701,
    some 40, [(1, 7)]⟩ mb s ∧ arg s mb 0 1 ≤ 15 ∧ 1 ≤ arg s mb 8 8 ∧ arg s mb 8 8 ≤ arg s mb 16 8 ∧ arg s mb 16 8 ≤ 2 ^ 62
    ∧ 64 ≤ arg s mb 24 8 ∧ arg s mb 24 8 ≤ arg s mb 32 8 ∧ arg s mb 32 8 ≤ 2 ^ 63) ∧ (∃ mb : Nat, ∃ b : Nat, ∃ i : Nat, ∃
    k : KeySlot, ∃ s : State, Accepted ⟨0x0702, some 16, [(2, 2), (14, 2)]⟩ mb s ∧ okCtx (arg s mb 0 2) = true ∧
    wantedBoundary 4 (requestOf s mb) s = some b ∧ (ctxOf s (arg s mb 0 2)).nxt = some k ∧ k.rxOnly = false ∧ (ctxOf s
    (arg s mb 0 2)).roll = none ∧ freeShared s = some i) ∧ (∃ mb : Nat, ∃ s : State, Accepted ⟨0x0703, some 4, [(3, 1)]⟩
    mb s ∧ okCtx (arg s mb 0 2) = true ∧ 1 ≤ arg s mb 2 1 ∧ arg s mb 2 1 ≤ 3 ∧ ((ctxOf s (arg s mb 0 2)).roll = none ∨
    bitOf (arg s mb 2 1) 0 = false)) ∧ (∃ mb : Nat, ∃ s : State, Accepted ⟨0x0704, some 4, [(2, 2)]⟩ mb s ∧ okCtx (arg s
    mb 0 2) = true) ∧ (∃ mb : Nat, ∃ s : State, Accepted ⟨0x0705, some 0, []⟩ mb s) :=
  ⟨⟨0, mail 0x0700 (bs [(2, 40959), (1, 3), (1, 15), (2, 0), (2, 0)]) 0 (onCtxOf 40959 (fun z =>
      { z with w := 32, cur := some { key := 3, salt := 5, an := 1, h := 9, win := [9], edge := 0, rxOnly := false } })
      (onTiming (fun z => { z with tc := 123456789012 }) (ready))), by decide +kernel⟩,
    ⟨0, mail 0x0701 (bs [(1, 15), (7, 0), (8, 1), (8, 4611686018427387904), (8, 64), (8, 9223372036854775808)]) 0 (ready), by
      decide +kernel⟩,
    ⟨0, 281857228800, ((fun (s : State) => (freeShared s).getD 999) (mail 0x0702 (bs [(2, 40959), (2, 0), (10, 0), (2, 0)]) 0
      (onCtxOf 40959 (fun z =>
      { z with nxt := some { key := 3, salt := 5, an := 1, h := 9, win := [9], edge := 0, rxOnly := false } }) (onTxPort 4
      (fun z => { z with tx := .on, len := true, classes := [6,5,4,3,2,6,6,6,6,6,6,6,6,6,6,6] }) (onTiming (fun z =>
      { z with tc := 123456789012 }) (ready)))))),
      { key := 3, salt := 5, an := 1, h := 9, win := [9], edge := 0, rxOnly := false }, mail 0x0702 (bs [(2, 40959), (2,
      0), (10, 0), (2, 0)]) 0 (onCtxOf 40959 (fun z =>
      { z with nxt := some { key := 3, salt := 5, an := 1, h := 9, win := [9], edge := 0, rxOnly := false } }) (onTxPort 4
      (fun z => { z with tx := .on, len := true, classes := [6,5,4,3,2,6,6,6,6,6,6,6,6,6,6,6] }) (onTiming (fun z =>
      { z with tc := 123456789012 }) (ready)))), by decide +kernel⟩,
    ⟨0, mail 0x0703 (bs [(2, 40959), (1, 1), (1, 0)]) 0 (onCtxOf 40959 (fun z =>
      { z with cur := some { key := 3, salt := 5, an := 1, h := 9, win := [9], edge := 0, rxOnly := false }, nxt := some { key := 4, salt := 5, an := 2, h := 9, win := [9], edge := 0, rxOnly := false }, pn := 7 })
      (onTiming (fun z => { z with tc := 123456789012 }) (ready))), by decide +kernel⟩,
    ⟨0, mail 0x0704 (bs [(2, 40959), (2, 0)]) 0 (onCtxOf 40959 (fun z =>
      { z with cur := some { key := 3, salt := 5, an := 1, h := 9, win := [9], edge := 0, rxOnly := false }, nxt := some { key := 4, salt := 5, an := 2, h := 9, win := [9], edge := 0, rxOnly := false }, pn := 7, bytes := 99, rxOk := 4, roll := some (281857228800, 3, true) })
      (onTiming (fun z => { z with tc := 123456789012 }) (ready))), by decide +kernel⟩,
    ⟨0, mail 0x0705 (bs []) 0 (ready), by decide +kernel⟩⟩

/-- A packet of one byte with a tag after it, on label 10000 (context 3) with packet number 10. -/
def tagged (tag : List Byte) : RxPacket :=
  { trib := 5, label := 10000, cls := 1, enc := true, body := [64, 0, 0, 10, 71] ++ tag
    errored := false, authFail := false, replayed := false }

/-- The same packet sealed under key 6. -/
def sealedPacket : RxPacket := tagged (gcmTag 6 (ivOf 5 true 10) (aadOf 10000 1 21 [64, 0, 0, 10]) [71])

theorem tagged_parts (tag : List Byte) (h : tag.length = 16) : (tagged tag).label = 10000 ∧ (tagged tag).cls = 1
    ∧ (tagged tag).body.length = 21 ∧ (tagged tag).body.take 4 = [64, 0, 0, 10]
    ∧ ((tagged tag).body.drop 4).take 1 = [71] ∧ (tagged tag).body.drop 5 = tag := by
  refine ⟨rfl, rfl, ?_, ?_, ?_, ?_⟩ <;> simp [tagged, h]

theorem sealed_tag : gcmTag 6 (ivOf 5 true 10) (aadOf sealedPacket.label sealedPacket.cls sealedPacket.body.length
    (sealedPacket.body.take 4)) ((sealedPacket.body.drop 4).take (sealedPacket.body.length - 20))
      = sealedPacket.body.drop (sealedPacket.body.length - 16) := by
  obtain ⟨h1, h2, h3, h4, h5, h6⟩ := tagged_parts (gcmTag 6 (ivOf 5 true 10) (aadOf 10000 1 21 [64, 0, 0, 10]) [71])
    (by simp [gcmTag])
  rw [sealedPacket, h1, h2, h3, h4, show 21 - 20 = 1 from rfl, show 21 - 16 = 5 from rfl, h5, h6]

theorem witness_CipherPackets : (∃ p : TxPacket, ∃ rest : List TxPacket, ∃ k : KeySlot, ∃ s : State, s.svc.cipherIn =
    p :: rest ∧ (ctxOf s p.entry.ctx).cur = some k ∧ (ctxOf s p.entry.ctx).retired = false ∧ overHard s (ctxOf s
    p.entry.ctx) p.body.length = false) ∧ (∃ p : TxPacket, ∃ rest : List TxPacket, ∃ k : KeySlot, ∃ s : State,
    s.svc.cipherIn = p :: rest ∧ (ctxOf s p.entry.ctx).cur = some k ∧ (ctxOf s p.entry.ctx).retired = false ∧ overHard s
    (ctxOf s p.entry.ctx) p.body.length = true) ∧ (∃ p : RxPacket, ∃ rest : List RxPacket, ∃ s : State, s.svc.rxq = p ::
    rest ∧ p.enc = false ∧ (entryOf s p.label).ctx < 40960 ∧ (entryOf s p.label).bypass = false) ∧ (∃ (p : RxPacket) (rest
    : List RxPacket), ∃ (k : KeySlot) (c : Nat) (pn : Nat) (lane : Nat) (w : LaneWork) (s : State), s.svc.rxq = p :: rest
    ∧ p.enc = true ∧ c = (entryOf s p.label).ctx ∧ c ≠ 0xFFFF ∧ slotFor (ctxOf s c) (beNat (p.body.take 4) / 2 ^ 30) =
    some k ∧ takeLane (upTime s) (p.cls == 1) (ceilDiv (p.body.length - 20) 16) (cipherLanes s 1) = some (lane, w) ∧
    mismatches s 1 lane 0 = 0 ∧ injFor s 0x0E4 c = false ∧ injFor s 0x0E5 c = false ∧ pn = rebuildPn k.h (beNat
    (p.body.take 4) % 2 ^ 30) ∧ seenPn k (ctxOf s c).w pn = false ∧ pn ≤ 2 ^ 62 ∧ gcmTag k.key (ivOf k.salt (!(ctxOf s
    c).d) pn) (aadOf p.label p.cls p.body.length (p.body.take 4)) ((p.body.drop 4).take (p.body.length - 20)) =
    p.body.drop (p.body.length - 16)) ∧ (∃ i : Nat, ∃ at_ : Nat, ∃ s : State, okCue i = true ∧ dueOnGrid s i 2 at_ = true)
    ∧ (∃ sc : Nat, ∃ cell : List Byte, okSc sc = true ∧ getU 0 1 cell / 64 = 2 ∧ getU 2 2 cell < 40960) ∧ (∃ d : Nat, ∃
    lane : Nat, ∃ sp : Nat, ∃ rest : List Nat, ∃ s : State, okDir d = true ∧ lane < 13 ∧ nextRetirement s 4 = some (13 * d
    + lane) ∧ (cipherLanes s d).spare = sp :: rest ∧ lane ∈ (cipherLanes s d).active ∧ sp ≠ lane) :=
  ⟨⟨({ nn := 92, label := 9, cls := 1, de := false, bypassOk := false, ts := true, body := List.replicate 64 7, entry := { valid := true, trib := 5, ctx := 3, bypass := false, clsOvr := 0, profile := 2, cset := 7, dset := 8 }, cells := 2 }
      : TxPacket),
      [({ nn := 92, label := 9, cls := 1, de := true, bypassOk := false, ts := true, body := List.replicate 64 7, entry := { valid := true, trib := 5, ctx := 9, bypass := false, clsOvr := 0, profile := 2, cset := 7, dset := 8 }, cells := 2 }
      : TxPacket)], { key := 6, salt := 5, an := 1, h := 9, win := [9], edge := 0, rxOnly := false }, onSvc (fun z =>
      { z with cipherIn := [({ nn := 92, label := 9, cls := 1, de := false, bypassOk := false, ts := true, body := List.replicate 64 7, entry := { valid := true, trib := 5, ctx := 3, bypass := false, clsOvr := 0, profile := 2, cset := 7, dset := 8 }, cells := 2 } : TxPacket), ({ nn := 92, label := 9, cls := 1, de := true, bypassOk := false, ts := true, body := List.replicate 64 7, entry := { valid := true, trib := 5, ctx := 9, bypass := false, clsOvr := 0, profile := 2, cset := 7, dset := 8 }, cells := 2 } : TxPacket)] })
      (onCtxOf 3 (fun z =>
      { z with cur := some { key := 6, salt := 5, an := 1, h := 9, win := [9], edge := 0, rxOnly := false }, pn := 5 })
      (ready)), by decide +kernel⟩,
    ⟨({ nn := 92, label := 9, cls := 1, de := false, bypassOk := false, ts := true, body := List.replicate 64 7, entry := { valid := true, trib := 5, ctx := 3, bypass := false, clsOvr := 0, profile := 2, cset := 7, dset := 8 }, cells := 2 }
      : TxPacket),
      [({ nn := 92, label := 9, cls := 1, de := true, bypassOk := false, ts := true, body := List.replicate 64 7, entry := { valid := true, trib := 5, ctx := 9, bypass := false, clsOvr := 0, profile := 2, cset := 7, dset := 8 }, cells := 2 }
      : TxPacket)], { key := 6, salt := 5, an := 1, h := 9, win := [9], edge := 0, rxOnly := false }, onSvc (fun z =>
      { z with cipherIn := [({ nn := 92, label := 9, cls := 1, de := false, bypassOk := false, ts := true, body := List.replicate 64 7, entry := { valid := true, trib := 5, ctx := 3, bypass := false, clsOvr := 0, profile := 2, cset := 7, dset := 8 }, cells := 2 } : TxPacket), ({ nn := 92, label := 9, cls := 1, de := true, bypassOk := false, ts := true, body := List.replicate 64 7, entry := { valid := true, trib := 5, ctx := 9, bypass := false, clsOvr := 0, profile := 2, cset := 7, dset := 8 }, cells := 2 } : TxPacket)] })
      (onCtxOf 3 (fun z =>
      { z with cur := some { key := 6, salt := 5, an := 1, h := 9, win := [9], edge := 0, rxOnly := false }, pn := 4611686018427387905 })
      (ready)), by decide +kernel⟩,
    ⟨({ trib := 5, label := 10000, cls := 1, enc := false, body := List.replicate 64 7, errored := false, authFail := false, replayed := false }
      : RxPacket), [], onSvc (fun z =>
      { z with rxq := [({ trib := 5, label := 10000, cls := 1, enc := false, body := List.replicate 64 7, errored := false, authFail := false, replayed := false } : RxPacket)] })
      (onTribOf 5 (fun z => { z with rxEn := true, egress := 92 }) (store (labelBase + 16 * 10000) (bs [(2, 32773), (2,
      3), (1, 0), (1, 0), (3, 7), (3, 8), (4, 0)]) 0 (onHostPort 92 (fun z =>
      { z with defined := true, width := 4, enabled := true, st := .up }) (ready)))), by decide +kernel⟩,
    ⟨sealedPacket, [], { key := 6, salt := 5, an := 1, h := 9, win := [9], edge := 0, rxOnly := false }, 3, 10, 0, _,
      onSvc (fun z => { z with rxq := [sealedPacket] }) (onCtxOf 3 (fun z =>
      { z with d := false, w := 0, cur := some { key := 6, salt := 5, an := 1, h := 9, win := [9], edge := 0, rxOnly := false } })
      (onTribOf 5 (fun z => { z with rxEn := true, egress := 92 }) (store (labelBase + 16 * 10000) (bs [(2, 32773), (2,
      3), (1, 0), (1, 0), (3, 7), (3, 8), (4, 0)]) 0 ((onHostPort 92 (fun z =>
      { z with defined := true, width := 4, enabled := true, st := .up }) (ready)))))), rfl, rfl, by decide +kernel,
      by decide +kernel, by decide +kernel, rfl, by decide +kernel, by decide +kernel, by decide +kernel,
      by decide +kernel, by decide +kernel, by decide +kernel, sealed_tag⟩,
    ⟨9, 281857228800, setCue 9 { state := 1, kind := 2, obj := 3, time := 281857228800 } (onSvc (fun z =>
      { z with cipherIn := [({ nn := 92, label := 9, cls := 1, de := false, bypassOk := false, ts := true, body := List.replicate 64 7, entry := { valid := true, trib := 5, ctx := 3, bypass := false, clsOvr := 0, profile := 2, cset := 7, dset := 8 }, cells := 2 } : TxPacket), ({ nn := 92, label := 9, cls := 1, de := true, bypassOk := false, ts := true, body := List.replicate 64 7, entry := { valid := true, trib := 5, ctx := 9, bypass := false, clsOvr := 0, profile := 2, cset := 7, dset := 8 }, cells := 2 } : TxPacket)] })
      (onCtxOf 3 (fun z =>
      { z with cur := some { key := 6, salt := 5, an := 1, h := 9, win := [9], edge := 0, rxOnly := false }, nxt := some { key := 7, salt := 5, an := 2, h := 9, win := [9], edge := 0, rxOnly := false }, roll := some (281857228800, 9, false) })
      (onTiming (fun z => { z with tc := 123456789012 }) (ready)))), by decide +kernel⟩,
    ⟨64, rolloverCell 3 2 281857228800, by decide +kernel⟩,
    ⟨0, 5, 12, [], onFlt (fun z => { z with queue := [(4, 5)] }) ready, by decide +kernel⟩⟩

theorem witness_BulkMemoryBytes : (∃ addr : Nat, ∃ data : List Byte, ∃ s : State, MemoryCanonical s ∧ addr + data.length ≤
    bulkEnd) ∧ (∃ addr : Nat, ∃ data : List Byte, ∃ s : State, MemoryCanonical s ∧ bulkEnd < addr + data.length) ∧ (∃ mb :
    Nat, ∃ s : State, Accepted ⟨0x0800, some 8, [(5, 3)]⟩ mb s ∧ 1 ≤ arg s mb 0 2 ∧ arg s mb 0 2 ≤ 168 ∧ 1 ≤ arg s mb 2 2
    ∧ arg s mb 2 2 ≤ 600) ∧ (∃ mb : Nat, ∃ g : Nat, ∃ s : State, Accepted ⟨0x0801, some 8, [(1, 1)]⟩ mb s ∧ 1 ≤ arg s mb 2
    2 ∧ 1 ≤ arg s mb 4 4 ∧ arg s mb 4 4 ≤ 86400 ∧ g < 71 ∧ (arg s mb 0 1 = g ∨ arg s mb 0 1 = 255)) ∧ (∃ mb : Nat, ∃ s :
    State, Accepted (bareShape 0x0802) mb s) ∧ (∃ mb : Nat, ∃ s : State, Accepted (objShape 0x0803) mb s ∧ arg s mb 0 1 ≤
    70) ∧ (∃ mb : Nat, ∃ s : State, Accepted (bareShape 0x0804) mb s) ∧ (∃ mb : Nat, ∃ s : State, Accepted ⟨0x0805, some
    4, [(1, 1)]⟩ mb s ∧ arg s mb 0 1 ≤ 63 ∧ arg s mb 2 2 = 0xA55A ∧ pcState s (arg s mb 0 1) ≠ .retired ∧ s.bulk.migr =
    none ∧ sparesShort s (arg s mb 0 1) = false) :=
  ⟨⟨0, (List.range 1).map (fun k => byteOf (k % 5)), store (labelBase + 16 * 10000) (bs [(2, 32773), (2, 65535), (1, 0), (1,
      0), (3, 7), (3, 8), (4, 0)]) 0 (store 0 (bs [(8, 72623859790382856)]) 0 (ready)), by decide +kernel⟩,
    ⟨bulkEnd, [1], ready, by decide +kernel⟩,
    ⟨0, mail 0x0800 (bs [(2, 168), (2, 600), (1, 2), (3, 0)]) 0 (ready), by decide +kernel⟩,
    ⟨0, 70, mail 0x0801 (bs [(1, 70), (1, 0), (2, 3), (4, 86400)]) 0 (onSandOf 70 (fun z => { z with level := 9 }) ready), by
      decide +kernel⟩,
    ⟨0, mail 0x0802 (bs []) 0 (onBulk (fun z => { z with corrected := 5, unc := 6, poisonWrites := 7, lastUe := 0x123456 })
      (ready)), by decide +kernel⟩,
    ⟨0, mail 0x0803 (bs [(1, 70), (3, 0)]) 0 (onSandOf 70 (fun z => { z with level := 9, corr := 8, unc := 7 }) ready), by
      decide +kernel⟩,
    ⟨0, mail 0x0804 (bs []) 0 (ready), by decide +kernel⟩,
    ⟨0, mail 0x0805 (bs [(1, 7), (1, 0), (2, 42330)]) 0 (ready), by decide +kernel⟩⟩

theorem witness_BulkErrorsAndSweep : (∃ (addr : Nat) (syms : Nat) (s : State), addr < bulkEnd ∧ injectedPoint addr s =
    none ∧ (regionHeld s (regionOf addr) = false ∨ readStatus s addr syms = .clean)) ∧ (∃ (addr : Nat) (syms : Nat) (s :
    State), addr < bulkEnd ∧ injectedPoint addr s = none ∧ regionHeld s (regionOf addr) = true ∧ readStatus s addr syms =
    .correctable) ∧ (∃ (addr : Nat) (syms : Nat) (s : State), addr < bulkEnd ∧ injectedPoint addr s = none ∧ regionHeld s
    (regionOf addr) = true ∧ readStatus s addr syms = .uncorrectable) ∧ (∃ (addr : Nat) (syms : Nat) (data : List Byte), ∃
    (s : State), data ≠ [] ∧ addr % 64 + data.length ≤ 64 ∧ data.length < 64 ∧ addr + data.length ≤ bulkEnd ∧ regionHeld s
    (regionOf addr) = true ∧ injFor s 0x104 (sandIndex s addr) = false ∧ readStatus s addr syms = .uncorrectable) ∧ (∃
    (addr : Nat) (s : State), addr < bulkEnd ∧ sweepOn false s = true ∧ nextSwept s = some (addr / 64 * 64)) ∧ (∃ (addr :
    Nat) (s : State), addr < bulkEnd ∧ (sweepOn false s = false ∨ nextSwept s ≠ some (addr / 64 * 64))) ∧ (∃ g : Nat,
    okSand g = true) ∧ (∃ g : Nat, ∃ s : State, okPc g = true ∧ nextRetirement s 5 = some g ∧ s.bulk.migr = none ∧ pcState
    s g = .active ∧ sparesShort s g = true) ∧ (∃ g : Nat, ∃ s : State, okPc g = true ∧ nextRetirement s 5 = some g ∧
    s.bulk.migr = none ∧ pcState s g = .active ∧ sparesShort s g = false) ∧ (∃ (r : Nat) (q : Nat) (rest : List (Nat ×
    Nat)), ∃ (m : Migration) (s : State), s.bulk.migr = some m ∧ m.todo = (r, q) :: rest) :=
  ⟨⟨640000, 2, ready, by decide +kernel⟩,
    ⟨160000, 1, store (labelBase + 16 * 10000) (bs [(2, 32773), (2, 65535), (1, 0), (1, 0), (3, 7), (3, 8), (4, 0)]) 0
      (ready), by decide +kernel⟩,
    ⟨160000, 2, store (labelBase + 16 * 10000) (bs [(2, 32773), (2, 65535), (1, 0), (1, 0), (3, 7), (3, 8), (4, 0)]) 0
      (ready), by decide +kernel⟩,
    ⟨160000, 2, [1], store (labelBase + 16 * 10000) (bs [(2, 32773), (2, 65535), (1, 0), (1, 0), (3, 7), (3, 8), (4,
      0)]) 0 (ready), by decide +kernel⟩,
    ⟨160000, onBulk (fun b => { b with sweepAt := 160000 }) (store (labelBase + 16 * 10000) (bs [(2, 32773), (2, 65535),
      (1, 0), (1, 0), (3, 7), (3, 8), (4, 0)]) 0 (ready)), by decide +kernel⟩,
    ⟨160000, ready, by decide +kernel⟩,
    ⟨70, by decide +kernel⟩,
    ⟨7, onBulk (fun b => { b with pcs := (List.range 63).map (fun k => (if k < 7 then k else k + 1, .retired)) }) (onFlt
      (fun z => { z with queue := [(5, 7)] }) ready), by decide +kernel⟩,
    ⟨7, onFlt (fun z => { z with queue := [(5, 7)] }) ready, by decide +kernel⟩,
    ⟨39, 4078600, [], ⟨39, [(39, 4078600)], 3, []⟩, onBulk (fun z =>
      { z with migr := some ⟨39, [(39, 4078600)], 3, []⟩ }) (store (labelBase + 16 * 10000) (bs [(2, 32773), (2, 65535),
      (1, 0), (1, 0), (3, 7), (3, 8), (4, 0)]) 0 (ready)), by decide +kernel⟩⟩

theorem witness_TimingIsland : (∃ c : Nat, c < 5) ∧ (∃ c : Nat, ∃ s : State, okCand c = true ∧ timingRuns s = true ∧
    candActive s c = true ∧ 0 < (candOf s c).prio ∧ (candOf s c).qual = false ∧ (candOf s c).suspect = false ∧ (∀ d, d <
    13 → d ≠ c → (candOf s d).qual = false ∧ (candOf s d).prio = 0) ∧ loscUsable s = false ∧ s.timing.sel = none ∧
    s.timing.forced = none) ∧ (∃ c : Nat, ∃ s : State, okCand c = true ∧ (candOf s c).qual = true ∧ (candOf s c).waited =
    false) ∧ (∃ (s : State), s.timing.st = .acquire ∧ phaseSettled s = true) ∧ (∃ (s : State), s.timing.st = .acquire ∧
    phaseSettled s = false) ∧ (∃ lost : Bool, ∃ s : State, s.timing.loscLost ≠ lost) ∧ (∃ s : State, timingRuns s = true)
    ∧ (∃ mb : Nat, ∃ c : Nat, ∃ s : State, Accepted ⟨0x0900, some 8, [(2, 2)]⟩ mb s ∧ c = arg s mb 0 1 ∧ c ≤ 12 ∧ arg s mb
    1 1 ≤ 15 ∧ (c < 4 → 8000 ≤ arg s mb 4 4 ∧ arg s mb 4 4 ≤ 800000000 ∧ arg s mb 4 4 % 1000 = 0) ∧ (4 ≤ c → arg s mb 4 4
    = 0)) ∧ (∃ mb : Nat, ∃ s : State, Accepted ⟨0x0901, some 28, [(26, 2)]⟩ mb s ∧ arg s mb 0 1 ≤ 9 ∧ arg s mb 1 1 ≤ 1 ∧ 1
    ≤ arg s mb 2 2 ∧ arg s mb 2 2 ≤ 1000 ∧ 10 ≤ arg s mb 4 4 ∧ arg s mb 4 4 ≤ 50000 ∧ 20 ≤ arg s mb 8 4 ∧ arg s mb 8 4 ≤
    100000 ∧ arg s mb 4 4 < arg s mb 8 4 ∧ 1 ≤ arg s mb 12 4 ∧ arg s mb 12 4 ≤ 10000 ∧ arg s mb 16 2 ≤ 3600 ∧ arg s mb 18
    2 ≤ 720 ∧ 10000000 ≤ arg s mb 20 4 ∧ arg s mb 20 4 ≤ 100000000 ∧ arg s mb 24 2 ≤ 3600) ∧ (∃ mb : Nat, ∃ s : State,
    Accepted (objShape 0x0902) mb s ∧ arg s mb 0 1 ≤ 12 ∧ (candOf s (arg s mb 0 1)).prio ≠ 0 ∧ (candOf s (arg s mb 0
    1)).qual = true) ∧ (∃ mb : Nat, ∃ s : State, Accepted (objShape 0x0902) mb s ∧ arg s mb 0 1 = 0xFF) ∧ (∃ mb : Nat, ∃ s
    : State, Accepted ⟨0x0903, some 20, [(17, 3)]⟩ mb s ∧ arg s mb 12 4 ≠ 0 ∧ tempChOk (arg s mb 16 1) = true) ∧ (∃ mb :
    Nat, ∃ s : State, Accepted ⟨0x0904, some 8, [(2, 2)]⟩ mb s ∧ arg s mb 0 1 ≤ 1 ∧ arg s mb 1 1 ≤ 2 ∧ (arg s mb 4 4 = 0 ∨
    (8000 ≤ arg s mb 4 4 ∧ arg s mb 4 4 ≤ 800000000 ∧ arg s mb 4 4 % 1000 = 0))) ∧ (∃ mb : Nat, ∃ s : State, Accepted
    (bareShape 0x0905) mb s) :=
  ⟨⟨2, by decide +kernel⟩,
    ⟨2, onCandOf 2 (fun z => { z with prio := 1, active := true, inBand := 5 }) (ready), by decide +kernel⟩,
    ⟨2, onCandOf 2 (fun z => { z with qual := true, prio := 1 }) (ready), by decide +kernel⟩,
    ⟨onTiming (fun z => { z with st := .acquire, sel := some 4, phaseErr := 9999999 }) (ready), by decide +kernel⟩,
    ⟨onTiming (fun z => { z with st := .acquire, sel := some 4, phaseErr := -10000000 }) (ready), by decide +kernel⟩,
    ⟨true, onTiming (fun z => { z with loscLost := false }) (ready), by decide +kernel⟩,
    ⟨onTiming (fun z => { z with st := .locked, lockedFor := 58 }) (ready), by decide +kernel⟩,
    ⟨0, _, mail 0x0900 (bs [(1, 4), (1, 1), (2, 0), (4, 0)]) 0 (onCandOf 2 (fun z =>
      { z with qual := true, prio := 1, freq := 10000000 }) (ready)), by decide +kernel, rfl, by decide +kernel,
      by decide +kernel, by decide +kernel, by decide +kernel⟩,
    ⟨0, mail 0x0901 (bs [(1, 0), (1, 0), (2, 1), (4, 10), (4, 20), (4, 1), (2, 0), (2, 0), (4, 10000000), (2, 0), (2,
      0)]) 0 (onTiming (fun z => { z with sel := some 2 }) (onCandOf 2 (fun z => { z with qual := true, prio := 1 })
      (ready))), by decide +kernel⟩,
    ⟨0, mail 0x0902 (bs [(1, 12), (3, 0)]) 0 (onCandOf 12 (fun z => { z with prio := 4, qual := true }) (ready)),
      by decide +kernel⟩,
    ⟨0, mail 0x0902 (bs [(1, 255), (3, 0)]) 0 (onTiming (fun z => { z with forced := some 3 }) (ready)),
      by decide +kernel⟩,
    ⟨0, mail 0x0903 (bs [(4, 4294967291), (4, 77), (4, 9), (4, 1), (1, 24), (3, 0)]) 0 (ready), by decide +kernel⟩,
    ⟨0, mail 0x0904 (bs [(1, 0), (1, 0), (2, 0), (4, 0)]) 0 (ready), by decide +kernel⟩,
    ⟨0, mail 0x0905 (bs []) 0 (onTiming (fun z => { z with st := .locked }) (ready)), by decide +kernel⟩⟩

theorem witness_TimecodeAndCues : (∃ mb : Nat, ∃ at_ : Nat, ∃ s : State, Accepted ⟨0x0940, some 12, []⟩ mb s ∧
    readTime12 0 (requestOf s mb).pay = some at_ ∧ s.timing.source = 0 ∧ (anyTransmitting s = false ∨ (requestOf s
    mb).force = true) ∧ at_ ≠ now s) ∧ (∃ mb : Nat, ∃ s : State, Accepted ⟨0x0941, some 12, [(2, 2)]⟩ mb s ∧ arg s mb 0 1
    ≤ 1 ∧ arg s mb 1 1 = 0 ∧ 100 ≤ arg s mb 4 4 ∧ arg s mb 4 4 ≤ 1000000000 ∧ 1 ≤ arg s mb 8 4 ∧ arg s mb 8 4 ≤ 1000) ∧ (∃
    mb : Nat, ∃ s : State, Accepted ⟨0x0942, some 12, [(9, 3)]⟩ mb s ∧ arg s mb 0 4 ≤ 100000 ∧ arg s mb 4 4 ≤ 100000) ∧ (∃
    mb : Nat, ∃ s : State, Accepted ⟨0x0943, some 16, [(2, 2)]⟩ mb s ∧ okPort (arg s mb 0 1) = true ∧ freqOk (arg s mb 8
    4) = true ∧ freqOk (arg s mb 12 4) = true) ∧ (∃ mb : Nat, ∃ s : State, Accepted (bareShape 0x0944) mb s) ∧ (∃ d : Int,
    ∃ s : State, timingRuns s = true ∧ isStandIn s = false ∧ sourceOffset s = some d ∧ anyTransmitting s = false ∧ ticksNs
    s.timing.stepThr < d.natAbs) ∧ (∃ d : Int, ∃ s : State, timingRuns s = true ∧ isStandIn s = false ∧ sourceOffset s =
    some d ∧ (anyTransmitting s = true ∨ d.natAbs ≤ ticksNs s.timing.stepThr)) ∧ (∃ at_ : Nat, ∃ s : State, timingRuns s =
    true ∧ now s ≤ at_ ∧ s.timing.todGood = true) ∧ (∃ (at_ : Nat) (s : State), timingRuns s = true ∧ now s ≤ at_ ∧
    s.timing.todGood = false ∧ s.timing.todCounts = true) ∧ (∃ m : List Byte, ∃ s : State, timingRuns s = true ∧ injArmed
    s 0x143 = false ∧ todGoodMsg m = true) ∧ (∃ m : List Byte, ∃ s : State, timingRuns s = true ∧ injArmed s 0x143 = false
    ∧ todGoodMsg m = false) ∧ (∃ s : State, s.timing.todArmed = true ∧ s.timing.todGood = false) ∧ (∃ at_ : Nat, ∃ s :
    State, timingRuns s = true ∧ now s ≤ at_ ∧ (at_ + ticksNs s.timing.advance) % ticksSec 1 = 0) ∧ (∃ p : Nat, ∃ s :
    State, okPort p = true ∧ running s = true ∧ (transferOf s p).on = true) ∧ (∃ i : Nat, ∃ s : State, okCue i = true ∧
    unackedCue s i = true ∧ decides s = true ∧ (channelSc s (cueAt s i).obj).isSome = true) ∧ (∃ i : Nat, ∃ s : State,
    okCue i = true ∧ unackedCue s i = true ∧ (cueAt s i).announced = true) ∧ (∃ i : Nat, ∃ s : State, okCue i = true ∧
    unackedCue s i = true ∧ (cueAt s i).announced = true ∧ decides s = true ∧ boundaryAfter (cueAt s i).time ≤ now s +
    ticksMs 1) ∧ (∃ p : Nat, ∃ i : Nat, ∃ a : Announce, ∃ s : State, okPort p = true ∧ s.ctrl.stage = .ready ∧ receiving s
    p = true ∧ a.cancel = false ∧ (∀ x ∈ (rxPort s p).ann, x.boundary ≠ a.boundary) ∧ freeOwn s = some i) ∧ (∃ mb : Nat, ∃
    i : Nat, ∃ s : State, Accepted ⟨0x0980, some 4, [(2, 2)]⟩ mb s ∧ i = arg s mb 0 2 ∧ i ≤ 4095) ∧ (∃ mb : Nat, ∃ i :
    Nat, ∃ s : State, Accepted ⟨0x0981, some 4, [(2, 2)]⟩ mb s ∧ i = arg s mb 0 2 ∧ i ≤ 4095 ∧ (cueAt s i).state = 1 ∧ now
    s + ticksMs 1 ≤ (cueAt s i).time ∧ (cueAt s i).kind = 5) ∧ (∃ mb : Nat, ∃ i : Nat, ∃ s : State, Accepted ⟨0x0981, some
    4, [(2, 2)]⟩ mb s ∧ i = arg s mb 0 2 ∧ i ≤ 4095 ∧ (cueAt s i).state = 1 ∧ now s + ticksMs 2 ≤ (cueAt s i).time ∧
    (cueAt s i).kind = 4 ∧ (s.svc.commit.map (·.2)) = some i) ∧ (∃ mb : Nat, ∃ s : State, Accepted (bareShape 0x0982) mb
    s) :=
  ⟨⟨0, ticksSec 7 + ticksNs 999999999 + 65535, mail 0x0940 (bs [(6, 7), (4, 999999999), (2, 65535)]) 0 (ready),
      by decide +kernel⟩,
    ⟨0, mail 0x0941 (bs [(1, 1), (1, 0), (2, 0), (4, 100), (4, 1000)]) 0 (ready), by decide +kernel⟩,
    ⟨0, mail 0x0942 (bs [(4, 100000), (4, 0), (1, 3), (3, 0)]) 0 (ready), by decide +kernel⟩,
    ⟨0, mail 0x0943 (bs [(1, 5), (1, 1), (2, 0), (4, 4294967219), (4, 0), (4, 196550000)]) 0 (ready), by decide +kernel⟩,
    ⟨0, mail 0x0944 (bs []) 0 (onTiming (fun z => { z with source := 2, srcPort := 3 }) (ready)), by decide +kernel⟩,
    ⟨65536001, onTiming (fun z => { z with tc := 99123456789012, source := 1, ppsOff := some (65536001) }) (onCandOf 4
      (fun z => { z with active := true }) (ready)), by decide +kernel⟩,
    ⟨65536000, onTiming (fun z => { z with tc := 99123456789012, source := 1, ppsOff := some (65536000) }) (onCandOf 4
      (fun z => { z with active := true }) (ready)), by decide +kernel⟩,
    ⟨123456789017, onTiming (fun z => { z with tc := 123456789012, todGood := true, todSec := 2, cable := 100 })
      (ready), by decide +kernel⟩,
    ⟨123456789017, onTiming (fun z => { z with tc := 123456789012, todCounts := true, todSec := 2 }) (ready),
      by decide +kernel⟩,
    ⟨(let b : List Byte := [1, 1, 0, 0, 0, 0, 0, 99, 0, 37, 0, 0]; [0xA5, 0x5A] ++ b ++ natBE 2 (crc16 b)), ready,
      by decide +kernel⟩,
    ⟨[], onTiming (fun z => { z with todDisc := 4294967295 }) (ready), by decide +kernel⟩,
    ⟨ready, by decide +kernel⟩,
    ⟨ticksSec 5 - ticksNs 77, onTiming (fun z => { z with tc := 17, advance := 77, todOut := true }) (ready),
      by decide +kernel⟩,
    ⟨3, onTiming (fun z => { z with source := 2, srcPort := 3 }) (onTransferOf 3 (fun z =>
      { z with on := true, off := some 4 }) (onRxFramer 50 (fun z => { z with nIn := 4, sumIn := 9, st := .inFrame })
      (ready))), by decide +kernel⟩,
    ⟨100, setCue 100 { kind := 1, origin := 0, obj := 3, time := ticksMs 9, state := 1 } (onTxPort 3 (fun z =>
      { z with tx := .on, len := true, classes := [3,3] }) (ready)), by decide +kernel⟩,
    ⟨100, setCue 100 { kind := 1, origin := 0, obj := 3, time := ticksMs 9, state := 1, announced := true } (ready),
      by decide +kernel⟩,
    ⟨100, setCue 100 { kind := 1, origin := 0, obj := 3, time := ticksNs 7526400, state := 1, announced := true }
      (onTiming (fun z => { z with tc := ticksMs 7 }) (ready)), by decide +kernel⟩,
    ⟨3, 3072, { boundary := 537600 * 65536 * 9, mask := 4, cancel := false, classes := [1] }, onRxPort 3 (fun z =>
      { z with st := .track, light := true }) (ready), by decide +kernel⟩,
    ⟨0, 0, mail 0x0980 (bs [(2, 0), (2, 0)]) 0 (setCue 4095
      { kind := 1, origin := 0, obj := 3, time := ticksMs 9, state := 1 } (ready)), by decide +kernel⟩,
    ⟨0, 9, mail 0x0981 (bs [(2, 9), (2, 0)]) 0 (setCue 9 { kind := 5, state := 1, time := ticksMs 1 } (ready)),
      by decide +kernel⟩,
    ⟨0, 9, mail 0x0981 (bs [(2, 9), (2, 0)]) 0 (setCue 9 { kind := 4, state := 1, time := ticksMs 2 } (onSvc (fun z =>
      { z with commit := some (ticksMs 2, 9) }) (ready))), by decide +kernel⟩,
    ⟨0, mail 0x0982 (bs []) 0 (setCue 9 { kind := 1, origin := 0, obj := 3, time := ticksMs 9, state := 1 } (onCues (fun
      z => { z with annRx := 7, lateN := 99, unacked := 4 }) (ready))), by decide +kernel⟩⟩

/-- A RENEW that names this module, whatever its serial number is. -/
def ownRenewBody : List Byte := [0xA7, 2] ++ natBE 6 moduleIdent ++ [1, 0] ++ natBE 2 9 ++ natBE 4 5000 ++ zeros 2
def ownRenew : List Byte := ownRenewBody ++ natBE 2 (crc16 ownRenewBody)

theorem ownRenew_ident : getU 2 6 ownRenew = moduleIdent := by
  have h : field 2 6 ownRenew = natBE 6 moduleIdent := by simp [field, ownRenew, ownRenewBody, natBE]
  have hm : moduleIdent < 256 ^ 6 := by
    have := Nat.mod_lt Config.serialNumber (show 0 < 2 ^ 45 by norm_num)
    simp only [moduleIdent, castIdent]
    omega
  rw [getU, h, beNat_natBE, Nat.mod_eq_of_lt hm]

theorem ownRenew_valid : leaseValid ownRenew = true := by
  have h18 : field 18 2 ownRenew = natBE 2 (crc16 ownRenewBody) := by
    simp [field, ownRenew, ownRenewBody, natBE, zeros, List.replicate]
  have hcrc : getU 18 2 ownRenew = crc16 ownRenewBody := by
    rw [getU, h18, beNat_natBE, Nat.mod_eq_of_lt (by simpa using crc16_lt _)]
  have htake : ownRenew.take 18 = ownRenewBody := by
    simp [ownRenew, ownRenewBody, natBE, zeros, List.replicate]
  have hlen : ownRenew.length = 20 := by simp [ownRenew, ownRenewBody]
  have hl : leaseL ownRenew = 5000 := by decide +kernel
  have h0 : getU 0 1 ownRenew = 0xA7 := by decide +kernel
  have h1 : getU 1 1 ownRenew = 2 := by decide +kernel
  simp [leaseValid, hlen, h0, h1, htake, hcrc, hl]

theorem witness_LeaseAndPairLink : (∃ fr : List Byte, ∃ s : State, isMember s = true ∧ awake s = true ∧ injArmed s
    0x161 = false ∧ leaseValid fr = false) ∧ (∃ (fr : List Byte), ∃ (s : State), isMember s = true ∧ awake s = true ∧
    injArmed s 0x161 = false ∧ leaseValid fr = true ∧ bitOf (getU 8 1 fr) 0 = true ∧ getU 2 6 fr = moduleIdent ∧
    s.pair.release = false) ∧ (∃ fr : List Byte, ∃ s : State, isMember s = true ∧ awake s = true ∧ injArmed s 0x161 =
    false ∧ leaseValid fr = true ∧ bitOf (getU 8 1 fr) 0 = true ∧ getU 2 6 fr ≠ moduleIdent ∧ getU 2 6 fr ≠ 0) ∧ (∃ e :
    Nat, ∃ s : State, isLead s = true ∧ s.pair.ownEnd = some e) ∧ (∃ e : Nat, ∃ s : State, isStandIn s = true ∧
    s.pair.farEnd = some e) ∧ (∃ s : State, isMember s = true) ∧ (∃ x : PairExchange, ∃ s : State, isMember s = true ∧
    x.up = true ∧ s.pair.linkEn = true ∧ (∀ l, l < 4 → (laneOf s (96 + l)).st ≠ .retired)) ∧ (∃ x : PairExchange, ∃ s :
    State, isMember s = true ∧ x.up = false ∧ s.pair.up = true) ∧ (∃ (i : Nat) (at_ : Nat) (inStep : Bool) (far : Bool) (s
    : State), okCue i = true ∧ cueDue s i 5 at_ = true ∧ now s ≤ at_ ∧ firstDue s i at_ (fun _ => true) = true ∧ isLead s
    = true ∧ (inStep && far && s.pair.up) = true) ∧ (∃ (i : Nat) (at_ : Nat) (inStep : Bool) (far : Bool) (s : State),
    okCue i = true ∧ cueDue s i 5 at_ = true ∧ now s ≤ at_ ∧ firstDue s i at_ (fun _ => true) = true ∧ isLead s = true ∧
    (inStep && far && s.pair.up) = false) ∧ (∃ s : State, s.pair.rehearsed = true) ∧ (∃ mb : Nat, ∃ s : State, Accepted
    ⟨0x0A00, some 16, [(1, 1), (6, 2), (14, 2)]⟩ mb s ∧ arg s mb 0 1 ≤ 1 ∧ isMember s = true ∧ 5 ≤ arg s mb 2 2 ∧ arg s mb
    2 2 ≤ 200 ∧ arg s mb 4 2 ≤ 168) ∧ (∃ mb : Nat, ∃ i : Nat, ∃ r : Nat, ∃ s : State, Accepted ⟨0x0A01, some 12, [(10,
    2)]⟩ mb s ∧ isLead s = true ∧ readTime10 0 (requestOf s mb).pay = some r ∧ now s + ticksMs 10 ≤ r ∧ s.pair.up = true ∧
    findCue s 5 0 = none ∧ freeShared s = some i) ∧ (∃ mb : Nat, ∃ s : State, Accepted (bareShape 0x0A02) mb s ∧ isMember
    s = true) ∧ (∃ mb : Nat, ∃ s : State, Accepted (bareShape 0x0A03) mb s ∧ isStandIn s = true ∧ s.pair.up = true) :=
  ⟨⟨[1,2], onPair (fun z => { z with role := 3 }) (ready), by decide +kernel⟩,
    ⟨ownRenew, onPair (fun z => { z with role := 3, arbLost := true }) ready, by decide +kernel, by decide +kernel,
      by decide +kernel, ownRenew_valid, by decide +kernel, ownRenew_ident, by decide +kernel⟩,
    ⟨(let b : List Byte := [0xA7, 2] ++ natBE 6 (5) ++ [1, 0] ++ natBE 2 9 ++ natBE 4 10000000 ++ zeros 2; b ++ natBE 2
      (crc16 b)), onPair (fun z => { z with role := 3, arbLost := true, up := true }) (ready), by decide +kernel⟩,
    ⟨ticksMs 3, onPair (fun z => { z with role := 1, ownEnd := some (ticksMs 3) }) (ready), by decide +kernel⟩,
    ⟨ticksMs 3, onPair (fun z => { z with role := 2, farEnd := some (ticksMs 3) }) (ready), by decide +kernel⟩,
    ⟨onPair (fun z => { z with role := 3 }) (ready), by decide +kernel⟩,
    ⟨{ up := true, ident := 99, gen := 1, linkGen := 2, d := 20, period := 0, healthy := true }, onPair (fun z =>
      { z with role := 3, linkEn := true }) (ready), by decide +kernel⟩,
    ⟨{ up := false, ident := 99, gen := 3, linkGen := 2, d := 20, period := 0, healthy := true }, onPair (fun z =>
      { z with role := 3, up := true, gen := 2 }) (ready), by decide +kernel⟩,
    ⟨7, ticksMs 4, true, true, setCue 7 { kind := 5, state := 1, time := ticksMs 4, nominal := ticksMs 4, origin := 1 }
      (onPair (fun z => { z with role := 1, up := true, gen := 2, period := 1, ownEnd := some 7 }) (ready)),
      by decide +kernel⟩,
    ⟨7, ticksMs 5, false, true, setCue 7 { kind := 5, state := 1, time := ticksMs 4, nominal := ticksMs 4, origin := 1 }
      (onPair (fun z => { z with role := 1, up := true, gen := 2, period := 1, ownEnd := some 7 }) (ready)),
      by decide +kernel⟩,
    ⟨onPair (fun z => { z with role := 3, release := true, rehearsed := true }) (ready), by decide +kernel⟩,
    ⟨0, mail 0x0A00 (bs [(1, 1), (1, 0), (2, 5), (2, 168), (2, 0), (6, 1193046), (2, 0)]) 0 (onPair (fun z =>
      { z with role := 2 }) (ready)), by decide +kernel⟩,
    ⟨0, 2, ticksMs 10, mail 0x0A01 (bs [(6, 0), (4, 10000000), (2, 0)]) 0 (onPair (fun z =>
      { z with role := 1, up := true }) (ready)), by decide +kernel⟩,
    ⟨0, mail 0x0A02 (bs []) 0 (onPair (fun z => { z with role := 3 }) (ready)), by decide +kernel⟩,
    ⟨0, mail 0x0A03 (bs []) 0 (onPair (fun z =>
      { z with role := 2, up := true, inStep := true, matched := 7, resync := 2 }) (ready)), by decide +kernel⟩⟩

theorem witness_StandInFollowsTheLead : (∃ k : Nat, ∃ idx : List (Nat × Nat), ∃ s : State, isLead s = true ∧ running s
    = true ∧ now s ≤ windowEnd k ∧ injArmed s 0x163 = false ∧ (idx.map (·.1)).Nodup) ∧ (∃ s : State, isStandIn s = true ∧
    running s = true ∧ injArmed s 0x163 = false) ∧ (∃ at_ : Nat, ∃ s : State, s.pair.up = true ∧ running s = true ∧ now s
    ≤ at_ ∧ at_ % mirrorTicks = 0 ∧ isLead s = true) ∧ (∃ at_ : Nat, ∃ s : State, s.pair.up = true ∧ running s = true ∧
    now s ≤ at_ ∧ at_ % mirrorTicks = 0 ∧ isStandIn s = true) ∧ (∃ s : State, ∃ i : Nat, ∃ kind : Nat, isStandIn s = true
    ∧ s.pair.up = true ∧ running s = true ∧ injArmed s 0x0A3 = false ∧ okCue i = true ∧ 1 ≤ kind ∧ kind ≤ 8) ∧ (∃ s :
    State, ∃ n : Nat, ∃ e : List Byte, isStandIn s = true ∧ s.pair.up = true ∧ running s = true ∧ injArmed s 0x0A3 = false
    ∧ n ≤ lastLabel ∧ e.length = 16 ∧ MemoryCanonical s) ∧ (∃ s : State, ∃ sc : Nat, isStandIn s = true ∧ s.pair.up = true
    ∧ running s = true ∧ injArmed s 0x0A3 = false ∧ okSc sc = true) ∧ (∃ s : State, ∃ p : Nat, isStandIn s = true ∧
    s.pair.up = true ∧ running s = true ∧ injArmed s 0x0A3 = false ∧ okPort p = true) ∧ (∃ s : State, ∃ x : Nat, isStandIn
    s = true ∧ s.pair.up = true ∧ running s = true ∧ injArmed s 0x0A3 = false ∧ okTrib x = true) ∧ (∃ s : State, isStandIn
    s = true ∧ s.pair.up = true ∧ running s = true ∧ injArmed s 0x0A3 = false) ∧ (∃ m : ContextMirror, ∃ s : State, okCtx
    m.ctx = true ∧ isStandIn s = true ∧ running s = true) ∧ (∃ (e : Schedule) (s : State), okSc e.sc = true ∧
    takesSchedules s = true ∧ now s ≤ e.dep) ∧ (∃ d : Digest, ∃ s : State, okSc d.sc = true ∧ isStandIn s = true ∧ running
    s = true ∧ d.kind = 1 ∧ (txFrame s d.sc).lastDigest = d.value) ∧ (∃ d : Digest, ∃ s : State, okSc d.sc = true ∧
    isStandIn s = true ∧ running s = true ∧ d.kind = 1 ∧ (txFrame s d.sc).lastDigest ≠ d.value) ∧ (∃ d : Digest, ∃ s :
    State, ∃ v : Nat, ∃ m : Nat, okSc d.sc = true ∧ isStandIn s = true ∧ running s = true ∧ d.kind = 2 ∧ (rxFramer s
    d.sc).lastRx = some (v, m) ∧ m ≠ d.mask) ∧ (∃ s : State, isStandIn s = true ∧ s.pair.resync = 1) ∧ (∃ x : Nat, ∃ s :
    State, okTrib x = true ∧ isStandIn s = true ∧ (tribOf s x).emptyKnown = false) :=
  ⟨⟨9, [(0, 4), (3, 8), (5, 0)], onPair (fun z => { z with role := 1, records := [(5, 7)] }) (onHostPort 0 (fun z =>
      { z with st := .up }) (onHostPort 5 (fun z => { z with st := .up }) (ready))), by decide +kernel⟩,
    ⟨onPair (fun z => { z with role := 2, up := true, inStep := true }) (ready), by decide +kernel⟩,
    ⟨mirrorTicks * 7, onPair (fun z => { z with role := 1, up := true, gen := 2 }) (onTxFrame 50 (fun z =>
      { z with digestDue := true }) (ready)), by decide +kernel⟩,
    ⟨mirrorTicks * 7, onPair (fun z => { z with role := 2, up := true, resync := 2, matched := 15 }) (ready),
      by decide +kernel⟩,
    ⟨onPair (fun z => { z with role := 2, up := true }) (ready), 2, 1, by decide +kernel⟩,
    ⟨onPair (fun z => { z with role := 2, up := true }) (ready), 0, (List.range 16).map byteOf, by decide +kernel⟩,
    ⟨onPair (fun z => { z with role := 2, up := true }) (ready), 95, by decide +kernel⟩,
    ⟨onPair (fun z => { z with role := 2, up := true }) (ready), 5, by decide +kernel⟩,
    ⟨onPair (fun z => { z with role := 2, up := true, decisions := [(1, false)] }) (ready), 3839, by decide +kernel⟩,
    ⟨onPair (fun z => { z with role := 2, up := true }) (ready), by decide +kernel⟩,
    ⟨{ ctx := 300, pn := 77, h0 := 5, h1 := 6, w0 := 0, w1 := 0, kcv0 := 1, kcv1 := beNat (kcv none) }, onPair (fun z =>
      { z with role := 2, up := true }) (ready), by decide +kernel⟩,
    ⟨{ sc := 50, dep := 99999, pc := 0, key := [], ctl := [4], status := 6 }, onPair (fun z =>
      { z with role := 2, up := true }) (onTxFrame 50 (fun z => { z with sched := [] }) (ready)), by decide +kernel⟩,
    ⟨{ kind := 1, sc := 50, value := 7, mask := 3 }, onPair (fun z => { z with role := 2, up := true, inStep := true })
      (onTxFrame 50 (fun z => { z with lastDigest := 7 }) (ready)), by decide +kernel⟩,
    ⟨{ kind := 1, sc := 50, value := 7, mask := 3 }, onPair (fun z => { z with role := 2, up := true, inStep := true })
      (onTxFrame 50 (fun z => { z with lastDigest := 8 }) (ready)), by decide +kernel⟩,
    ⟨{ kind := 2, sc := 50, value := 7, mask := 3 }, onPair (fun z => { z with role := 2, up := true, skipped := 4 })
      (onRxFramer 50 (fun z => { z with lastRx := some (7, 4) }) (ready)), 7, 4, by decide +kernel⟩,
    ⟨onPair (fun z => { z with role := 2, up := true, resync := 1, matched := 6, mism := true }) (ready),
      by decide +kernel⟩,
    ⟨5, onTribOf 5 (fun z =>
      { z with normal := [{ bytes := List.replicate 100 1, win := 3, cells := 1, trib := 5, label := 0, ts := 0 }, { bytes := List.replicate 100 1, win := 9, cells := 1, trib := 5, label := 0, ts := 0 }], express := [{ bytes := List.replicate 100 1, win := 12, cells := 1, trib := 5, label := 0, ts := 0 }], occ := 3, emptyKnown := false })
      (onPair (fun z => { z with role := 2, up := true }) (ready)), by decide +kernel⟩⟩

theorem witness_MonitorConverters : (∃ n : Nat, ∃ ch : Nat, ∃ s : State, okConv n = true ∧ (convOf s n).mode = 0 ∧
    inHousekeeping s n = true ∧ injArmed s (0x180 + n) = false ∧ ch = (convOf s n).slotCh ∧ ch ∈ scanChannels s n) ∧ (∃ n
    : Nat, ∃ s : State, okConv n = true ∧ ((convOf s n).mode ≠ 0 ∨ inHousekeeping s n = false)) ∧ (∃ n : Nat, ∃ at_ : Nat,
    ∃ g : MonCfg, ∃ s : State, okConv n = true ∧ at_ % modTicks = 0 ∧ now s ≤ at_ ∧ (convOf s n).nextEdge = some at_ ∧
    (convOf s n).next = some g ∧ syncCue s n at_ = none) ∧ (∃ n : Nat, ∃ at_ : Nat, ∃ i : Nat, ∃ s : State, okConv n =
    true ∧ at_ % modTicks = 0 ∧ now s ≤ at_ ∧ syncCue s n at_ = some i ∧ 2 ≤ i) ∧ (∃ n : Nat, ∃ s : State, okConv n = true
    ∧ (convOf s n).mode ≠ 0 ∧ isPartner s n = false ∧ now s ≤ outputAt (convOf s n) ∧ injArmed s (0x180 + n) = false) ∧ (∃
    mb : Nat, ∃ n : Nat, ∃ g : MonCfg, ∃ s : State, Accepted ⟨0x0B00, some 16, []⟩ mb s ∧ n = arg s mb 0 1 ∧ g = cfgOf
    (requestOf s mb) ∧ okConv n = true ∧ cfgBadarg (requestOf s mb) = false ∧ cfgRange (requestOf s mb) = false ∧
    leftHousekeeping s n g.mode ≠ 0 ∧ (g.mode = 2 → n % 2 = 0 ∧ borrowed s (n + 1) = false) ∧ borrowed s n = false) ∧ (∃
    mb : Nat, ∃ m : Nat, ∃ x : Nat, ∃ i : Nat, ∃ s : State, Accepted ⟨0x0B01, some 14, [(1, 3)]⟩ mb s ∧ m = arg s mb 0 1 ∧
    1 ≤ m ∧ m ≤ 15 ∧ readTime10 4 (requestOf s mb).pay = some x ∧ now s + ticksUs 10 ≤ x ∧ (∀ n, n < 4 → bitOf m n = true
    → monMode s n ≠ 0) ∧ freeOwn s = some i) ∧ (∃ mb : Nat, ∃ n : Nat, ∃ w : Nat, ∃ s : State, Accepted ⟨0x0B02, some 4,
    [(2, 2)]⟩ mb s ∧ n = arg s mb 0 1 ∧ w = arg s mb 1 1 ∧ okConv n = true ∧ 1 ≤ w ∧ w ≤ 28 ∧ monMode s n ≠ 0) ∧ (∃ mb :
    Nat, ∃ n : Nat, ∃ s : State, Accepted ⟨0x0B03, some 4, [(2, 2)]⟩ mb s ∧ n = arg s mb 0 1 ∧ okConv n = true) ∧ (∃ mb :
    Nat, ∃ ch : Nat, ∃ s : State, Accepted ⟨0x0B04, some 4, [(1, 3)]⟩ mb s ∧ ch = arg s mb 0 1 ∧ ch ≤ 63) :=
  ⟨⟨0, 0, onConvOf 0 (fun z => { z with slotCh := 0 }) (ready), by decide +kernel⟩,
    ⟨2, onConvOf 2 (fun z => { z with mode := 3 }) (ready), by decide +kernel⟩,
    ⟨1, modTicks * 100,
      ({ mode := 1, ch := 17, h := 3, shifts := 0, k := 10, q := 65536, mask := 7, capture := false, n := 0 } : MonCfg),
      onConvOf 1 (fun z =>
      { z with mode := 1, ch := 17, fifo := [(1,2,3,4)], nextEdge := some (modTicks * 100), next := some ({ mode := 1, ch := 17, h := 3, shifts := 0, k := 10, q := 65536, mask := 7, capture := false, n := 0 } : MonCfg) })
      (ready), by decide +kernel⟩,
    ⟨0, modTicks * 100, 9, setCue 9 { kind := 6, state := 1, obj := 5, time := 5 } (onConvOf 2 (fun z => { z with mode := 1 })
      (onConvOf 0 (fun z => { z with mode := 2 }) (onConvOf 1 (fun z => { z with mode := 2 }) (ready)))), by
      decide +kernel⟩,
    ⟨2, onConvOf 2 (fun z => { z with mode := 1, h := 2 }) (ready), by decide +kernel⟩,
    ⟨0, _, _, mail 0x0B00 (bs [(1, 1), (1, 1), (1, 63), (1, 6), (2, 4095), (1, 0), (1, 1), (4, 32768), (2, 0), (2, 4096)]) 0
      (ready), by decide +kernel, rfl, rfl, by decide +kernel, by decide +kernel, by decide +kernel, by decide +kernel, by
      decide +kernel, by decide +kernel⟩,
    ⟨0, _, ticksUs 10, 3072, mail 0x0B01 (bs [(1, 15), (3, 0), (6, 0), (4, 10000)]) 0 (onConvOf 0 (fun z =>
      { z with mode := 1 }) (onConvOf 1 (fun z => { z with mode := 3 }) (onConvOf 2 (fun z => { z with mode := 2 })
      (onConvOf 3 (fun z => { z with mode := 2 }) (ready))))), by decide +kernel, rfl, by decide +kernel, by
      decide +kernel, by decide +kernel, by decide +kernel, by decide +kernel, by decide +kernel⟩,
    ⟨0, _, _, mail 0x0B02 (bs [(1, 0), (1, 1), (2, 0)]) 0 (onConvOf 0 (fun z => { z with mode := 1 }) (ready)), by
      decide +kernel, rfl, rfl, by decide +kernel, by decide +kernel, by decide +kernel, by decide +kernel⟩,
    ⟨0, _, mail 0x0B03 (bs [(1, 2), (1, 0), (2, 0)]) 0 (onConvOf 2 (fun z =>
      { z with mode := 3, overrun := true, ovl := 5, sat := 18446744073709551615, edge := modTicks * 100, fifo := [(0, 0, 0, 0), (1000003, 1, 1, 1), (2000006, 2, 2, 2), (3000009, 3, 3, 3), (4000012, 0, 4, 4), (5000015, 1, 5, 5), (6000018, 2, 6, 6), (7000021, 3, 7, 7), (8000024, 0, 8, 8), (9000027, 1, 9, 9), (10000030, 2, 10, 10), (11000033, 3, 11, 11), (12000036, 0, 12, 12), (13000039, 1, 13, 13), (14000042, 2, 14, 14), (15000045, 3, 15, 15), (16000048, 0, 16, 16), (17000051, 1, 17, 17), (18000054, 2, 18, 18), (19000057, 3, 19, 19), (20000060, 0, 20, 20), (21000063, 1, 21, 21), (22000066, 2, 22, 22), (23000069, 3, 23, 23), (24000072, 0, 24, 24), (25000075, 1, 25, 25), (26000078, 2, 26, 26), (27000081, 3, 27, 27), (28000084, 0, 28, 28), (29000087, 1, 29, 29), (30000090, 2, 30, 30), (31000093, 3, 31, 31), (32000096, 0, 32, 32), (33000099, 1, 33, 33), (34000102, 2, 34, 34), (35000105, 3, 35, 35), (36000108, 0, 36, 36), (37000111, 1, 37, 37), (38000114, 2, 38, 38), (39000117, 3, 39, 39)] })
      (ready)), by decide +kernel, rfl, by decide +kernel⟩,
    ⟨0, _, mail 0x0B04 (bs [(1, 0), (3, 0)]) 0 (onChanVal 0 (fun z => { z with value := -77, ovl := true, at_ := 4 })
      (ready)), by decide +kernel, rfl, by decide +kernel⟩⟩

theorem witness_ThermalProtection : (∃ ts : List Int, ∃ s : State, ∃ r : Nat → Int, awake s = true ∧ s.therm.shut = false
    ∧ (∀ i, i < 14 → r i = dieReading s (34 + i) (ts.getD (2 * i) 0) (ts.getD (2 * i + 1) 0)) ∧ (∀ i, i < 14 → r i < 1580
    ∨ (dieOf s (34 + i)).nShut < 2)) ∧ (∃ ts : List Int, ∃ s : State, ∃ r : Nat → Int, ∃ i, awake s = true ∧ s.therm.shut
    = false ∧ (∀ i, i < 14 → r i = dieReading s (34 + i) (ts.getD (2 * i) 0) (ts.getD (2 * i + 1) 0)) ∧ i < 14 ∧ 1580 ≤ r
    i ∧ 2 ≤ (dieOf s (34 + i)).nShut) ∧ (∃ ch : Nat, ∃ s : State, 34 ≤ ch ∧ ch ≤ 47 ∧ awake s = true ∧ (injOf s
    0x184).running = false) ∧ (∃ mb : Nat, ∃ s : State, Accepted (bareShape 0x0B80) mb s) ∧ (∃ mb : Nat, ∃ ch : Nat, ∃ a :
    Int, ∃ b : Int, ∃ s : State, Accepted ⟨0x0B81, some 12, [(1, 3)]⟩ mb s ∧ ch = arg s mb 0 1 ∧ a = argI s mb 4 4 ∧ b =
    argI s mb 8 4 ∧ 24 ≤ ch ∧ ch ≤ 29 ∧ 1000 ≤ a ∧ a ≤ 100000 ∧ 2000 ≤ b ∧ b ≤ 6000) ∧ (∃ mb : Nat, ∃ ch : Nat, ∃ a : Int,
    ∃ b : Int, ∃ s : State, Accepted ⟨0x0B81, some 12, [(1, 3)]⟩ mb s ∧ ch = arg s mb 0 1 ∧ a = argI s mb 4 4 ∧ b = argI s
    mb 8 4 ∧ 30 ≤ ch ∧ ch ≤ 33 ∧ b = 0 ∧ 10000 ≤ a ∧ a ≤ 10500) ∧ (∃ mb : Nat, ∃ ch : Nat, ∃ a : Int, ∃ b : Int, ∃ s :
    State, Accepted ⟨0x0B81, some 12, [(1, 3)]⟩ mb s ∧ ch = arg s mb 0 1 ∧ a = argI s mb 4 4 ∧ b = argI s mb 8 4 ∧ 60 ≤ ch
    ∧ ch ≤ 63 ∧ (a = 0 ∨ (1000 ≤ a.natAbs ∧ a.natAbs ≤ 100000))) ∧ (∃ mb : Nat, ∃ s : State, Accepted ⟨0x0B82, some 4,
    [(2, 2)]⟩ mb s ∧ 1000 ≤ argI s mb 0 2 ∧ argI s mb 0 2 ≤ 1400) :=
  ⟨⟨[500, 500, 500, 500, 500, 500, 500, 500, 500, 500, 500, 500, 500, 500, 500, 500, 500, 500, 500, 500, 500, 500, 500, 500,
      500, 500, 500, 500], ready, ((fun (ts : List Int) (s : State) => fun i => dieReading s (34 + i) (ts.getD (2 * i) 0)
      (ts.getD (2 * i + 1) 0)) ([500, 500, 500, 500, 500, 500, 500, 500, 500, 500, 500, 500, 500, 500, 500, 500, 500, 500,
      500, 500, 500, 500, 500, 500, 500, 500, 500, 500]) (ready)), by decide +kernel⟩,
    ⟨[500, 500, 500, 500, 500, 500, 500, 500, 500, 500, 1580, 1580, 500, 500, 500, 500, 500, 500, 500, 500, 500, 500, 500,
      500, 500, 500, 500, 500], onDieOf 47 (fun z => { z with nShut := 2 }) (onDieOf 46 (fun z => { z with nShut := 2 })
      (onDieOf 45 (fun z => { z with nShut := 2 }) (onDieOf 44 (fun z => { z with nShut := 2 }) (onDieOf 43 (fun z =>
      { z with nShut := 2 }) (onDieOf 42 (fun z => { z with nShut := 2 }) (onDieOf 41 (fun z => { z with nShut := 2 })
      (onDieOf 40 (fun z => { z with nShut := 2 }) (onDieOf 39 (fun z => { z with nShut := 2 }) (onDieOf 38 (fun z =>
      { z with nShut := 2 }) (onDieOf 37 (fun z => { z with nShut := 2 }) (onDieOf 36 (fun z => { z with nShut := 2 })
      (onDieOf 35 (fun z => { z with nShut := 2 }) (onDieOf 34 (fun z => { z with nShut := 2 }) (onTxPort 3 (fun z =>
      { z with tx := .on, len := true }) (onRxPort 4 (fun z => { z with st := .track, light := true }) (onPower (fun z =>
      { z with rail := 780 }) (ready))))))))))))))))), ((fun (ts : List Int) (s : State) => fun i => dieReading s (34 + i)
      (ts.getD (2 * i) 0) (ts.getD (2 * i + 1) 0)) ([500, 500, 500, 500, 500, 500, 500, 500, 500, 500, 1580, 1580, 500,
      500, 500, 500, 500, 500, 500, 500, 500, 500, 500, 500, 500, 500, 500, 500]) (onDieOf 47 (fun z =>
      { z with nShut := 2 }) (onDieOf 46 (fun z => { z with nShut := 2 }) (onDieOf 45 (fun z => { z with nShut := 2 })
      (onDieOf 44 (fun z => { z with nShut := 2 }) (onDieOf 43 (fun z => { z with nShut := 2 }) (onDieOf 42 (fun z =>
      { z with nShut := 2 }) (onDieOf 41 (fun z => { z with nShut := 2 }) (onDieOf 40 (fun z => { z with nShut := 2 })
      (onDieOf 39 (fun z => { z with nShut := 2 }) (onDieOf 38 (fun z => { z with nShut := 2 }) (onDieOf 37 (fun z =>
      { z with nShut := 2 }) (onDieOf 36 (fun z => { z with nShut := 2 }) (onDieOf 35 (fun z => { z with nShut := 2 })
      (onDieOf 34 (fun z => { z with nShut := 2 }) (onTxPort 3 (fun z => { z with tx := .on, len := true }) (onRxPort 4
      (fun z => { z with st := .track, light := true }) (onPower (fun z => { z with rail := 780 })
      (ready))))))))))))))))))), 5, by decide +kernel⟩,
    ⟨40, onDieOf 40 (fun z => { z with temp := 0 }) (ready), by decide +kernel⟩,
    ⟨0, mail 0x0B80 (bs []) 0 (onTherm (fun z => { z with pace := true, fld := -77 }) (onChanVal 34 (fun z =>
      { z with value := -1 }) (onChanVal 47 (fun z => { z with value := 1234 }) (ready)))), by decide +kernel⟩,
    ⟨0, _, _, _, mail 0x0B81 (bs [(1, 24), (3, 0), (4, 1000), (4, 2000)]) 0 (ready), by decide +kernel, rfl, rfl, rfl, by
      decide +kernel, by decide +kernel, by decide +kernel, by decide +kernel, by decide +kernel, by decide +kernel⟩,
    ⟨0, _, _, _, mail 0x0B81 (bs [(1, 30), (3, 0), (4, 10000), (4, 0)]) 0 (ready), by decide +kernel, rfl, rfl, rfl, by
      decide +kernel, by decide +kernel, rfl, by decide +kernel, by decide +kernel⟩,
    ⟨0, _, _, _, mail 0x0B81 (bs [(1, 61), (3, 0), (4, 1000), (4, 0)]) 0 (ready), by decide +kernel, rfl, rfl, rfl, by
      decide +kernel, by decide +kernel, by decide +kernel⟩,
    ⟨0, mail 0x0B82 (bs [(2, 1000), (2, 0)]) 0 (ready), by decide +kernel⟩⟩

theorem witness_FlashAndCalibration : (∃ s : State, s.power.powered = true) ∧ (∃ s : State, ∃ k : Nat, ∃ op : Nat, ∃
    tag : Nat, ∃ v : Option CalRec, s.power.powered = true ∧ s.therm.busy = some (.cal k v op tag)) ∧ (∃ s : State,
    s.power.powered = true ∧ s.therm.busy = some .flush) ∧ (∃ s : State, s.power.powered = true ∧ s.therm.busy = some
    .retirementMap) ∧ (∃ s : State, ∃ w, s.power.powered = true ∧ s.therm.busy = some w ∧ s.therm.window = true) ∧ (∃ s :
    State, ∃ w, s.power.powered = true ∧ s.therm.busy = some w ∧ s.therm.window = false) ∧ (∃ (item : Nat) (k : Nat) (m :
    Nat) (a : CalAddr) (s : State), calAddrOk item a.obj a.sub a.slice = true ∧ running s = true ∧ k = calKey item a.obj
    a.sub a.slice ∧ m = slewStep s item a.obj a.sub a.slice) ∧ (∃ mb : Nat, ∃ item : Nat, ∃ obj : Nat, ∃ sub : Nat, ∃ sl :
    Nat, ∃ k : Nat, ∃ s : State, item = arg s mb 0 1 ∧ obj = arg s mb 1 1 ∧ sub = arg s mb 2 1 ∧ sl = arg s mb 3 1 ∧
    calAddrOk item obj sub sl = true ∧ k = calKey item obj sub sl ∧ Accepted ⟨0x0C00, some 4, []⟩ mb s) ∧ (∃ mb : Nat, ∃
    item : Nat, ∃ obj : Nat, ∃ sub : Nat, ∃ sl : Nat, ∃ k : Nat, ∃ s : State, ∃ c : CalRec, item = arg s mb 0 1 ∧ obj =
    arg s mb 1 1 ∧ sub = arg s mb 2 1 ∧ sl = arg s mb 3 1 ∧ calAddrOk item obj sub sl = true ∧ k = calKey item obj sub sl
    ∧ Accepted ⟨0x0C01, some 12, []⟩ mb s ∧ (item ≠ 1 → argI s mb 8 4 = 0) ∧ calWithin s item obj sub sl (argI s mb 4 4)
    (argI s mb 8 4) = true ∧ c = ⟨argI s mb 4 4, argI s mb 8 4, 1, tcSec (now s), 0, 0⟩ ∧ flashFree s = true) ∧ (∃ mb :
    Nat, ∃ item : Nat, ∃ obj : Nat, ∃ sub : Nat, ∃ sl : Nat, ∃ k : Nat, ∃ s : State, ∃ c : CalRec, item = arg s mb 0 1 ∧
    obj = arg s mb 1 1 ∧ sub = arg s mb 2 1 ∧ sl = arg s mb 3 1 ∧ calAddrOk item obj sub sl = true ∧ k = calKey item obj
    sub sl ∧ Accepted ⟨0x0C01, some 12, []⟩ mb s ∧ (item ≠ 1 → argI s mb 8 4 = 0) ∧ calWithin s item obj sub sl (argI s mb
    4 4) (argI s mb 8 4) = true ∧ c = ⟨argI s mb 4 4, argI s mb 8 4, 1, tcSec (now s), 0, 0⟩ ∧ flashFree s = false ∧
    waitingCals s < 64) ∧ (∃ mb : Nat, ∃ item : Nat, ∃ obj : Nat, ∃ sub : Nat, ∃ sl : Nat, ∃ k : Nat, ∃ s : State, item =
    arg s mb 0 1 ∧ obj = arg s mb 1 1 ∧ sub = arg s mb 2 1 ∧ sl = arg s mb 3 1 ∧ calAddrOk item obj sub sl = true ∧ k =
    calKey item obj sub sl ∧ Accepted ⟨0x0C04, some 4, []⟩ mb s ∧ (calVal s k).user ≠ none ∧ flashFree s = true) ∧ (∃ mb :
    Nat, ∃ item : Nat, ∃ obj : Nat, ∃ sub : Nat, ∃ sl : Nat, ∃ k : Nat, ∃ s : State, item = arg s mb 0 1 ∧ obj = arg s mb
    1 1 ∧ sub = arg s mb 2 1 ∧ sl = arg s mb 3 1 ∧ calAddrOk item obj sub sl = true ∧ k = calKey item obj sub sl ∧
    Accepted ⟨0x0C04, some 4, []⟩ mb s ∧ (calVal s k).user ≠ none ∧ flashFree s = false ∧ waitingCals s < 64) ∧ (∃ mb :
    Nat, ∃ s : State, Accepted ⟨0x0C02, some 16, [(3, 1), (14, 2)]⟩ mb s ∧ measureBad (requestOf s mb) = false ∧ (arg s mb
    0 1 ≠ 3 → 2 ≤ (housekeepers s).length) ∧ s.therm.job = none ∧ (arg s mb 2 1 = 2 → s.therm.first.map (·.1) = some (arg
    s mb 1 1)) ∧ (arg s mb 0 1 = 2 → (rxPort s (arg s mb 1 1)).light = true) ∧ (arg s mb 0 1 = 3 → candActive s (arg s mb
    1 1) = true)) ∧ (∃ (x : Int) (j : CalJob) (s : State), running s = true ∧ s.therm.job = some j ∧ farOff j x = true) ∧
    (∃ (x : Int) (j : CalJob) (s : State), running s = true ∧ s.therm.job = some j ∧ farOff j x = false ∧ measuredValue s
    j x = none) ∧ (∃ (x : Int) (j : CalJob) (s : State), ∃ o, ∃ g, running s = true ∧ s.therm.job = some j ∧ farOff j x =
    false ∧ measuredValue s j x = some (o, g) ∧ calWithin s (measuredItem j).1 (measuredItem j).2 0 0 o g = true) ∧ (∃ mb
    : Nat, ∃ s : State, Accepted ⟨0x0C03, some 4, [(1, 3)]⟩ mb s ∧ arg s mb 0 1 ≤ 1 ∧ s.therm.stage = none) ∧ (∃ mb : Nat,
    ∃ s : State, ∃ st, Accepted ⟨0x0C03, some 4, [(1, 3)]⟩ mb s ∧ arg s mb 0 1 ≤ 1 ∧ s.therm.stage = some st ∧ arg s mb 0
    1 = 0) ∧ (∃ mb : Nat, ∃ s : State, ∃ st, Accepted ⟨0x0C03, some 4, [(1, 3)]⟩ mb s ∧ arg s mb 0 1 ≤ 1 ∧ s.therm.stage =
    some st ∧ arg s mb 0 1 = 1 ∧ calWithin s st.item st.obj 0 0 st.off st.gain = true ∧ flashFree s = true) :=
  ⟨⟨onTherm (fun z => { z with window := true, work := [.cal 5 none 7 8, .flush] }) (ready), by decide +kernel⟩,
    ⟨onTherm (fun z =>
      { z with busy := some (.cal (calKey 2 3 0 0) (none) 0xC01 8), stored := [(5, (⟨0, 0, 0, 0, 0, 0⟩ : CalRec)), (calKey 2 3 0 0, (⟨0, 0, 0, 0, 0, 0⟩ : CalRec))], work := [.flush] })
      (ready), (calKey 2 3 0 0), 0xC01, 8, none, by decide +kernel⟩,
    ⟨onLog (fun z =>
      { z with slots := [], snap := [({ code := 0x100, vector := 9, flags := 0, seq := 4, tc := 77, src := 3, tag := 9, data := zeros 8, ctx := zeros 16, secs := 5, rail := 1, temp := 2, margin := 3, vin := 4, bad := 5 } : LogEntry)] })
      (onTherm (fun z => { z with busy := some .flush }) (ready)), by decide +kernel⟩,
    ⟨onTherm (fun z => { z with busy := some .retirementMap, mapDue := true }) (onFlt (fun z =>
      { z with unit := [(unitKey 1 7, { retired := true }), (unitKey 6 8, { retired := true }), (unitKey 10 2, {})] })
      (ready)), by decide +kernel⟩,
    ⟨onTherm (fun z => { z with busy := some .activate, window := true }) (ready), FlashWork.activate,
      by decide +kernel⟩,
    ⟨onTherm (fun z => { z with busy := some .flush, window := false, work := [.activate] }) (ready), FlashWork.flush,
      by decide +kernel⟩,
    ⟨2, _, _, (⟨3,0,0⟩ : CalAddr), onCalVal (calKey 2 3 0 0) (fun z =>
      { z with offNow := 0, user := some ⟨4, 0, 1, 0, 0, 0⟩ }) (onRxPort 3 (fun z =>
      { z with trims := [(131, some { moved := 1 })] }) (ready)), by decide +kernel, by decide +kernel, rfl, rfl⟩,
    ⟨0, _, _, _, _, _, mail 0x0C00 (bs [(1, 1), (1, 63), (1, 0), (1, 0)]) 0 (ready), rfl, rfl, rfl, rfl,
      by decide +kernel, rfl, by decide +kernel⟩,
    ⟨0, _, _, _, _, _, mail 0x0C01 (bs [(1, 3), (1, 5), (1, 0), (1, 0), (4, 150), (4, 0)]) 0 (onCalVal (calKey 3 5 0 0)
      (fun z => { z with offNow := 3, user := some ⟨-7, 5, 2, 99, 1, 4⟩ }) (ready)), _, rfl, rfl, rfl, rfl,
      by decide +kernel, rfl, by decide +kernel, by decide +kernel, by decide +kernel, rfl, by decide +kernel⟩,
    ⟨0, _, _, _, _, _, mail 0x0C01 (bs [(1, 3), (1, 5), (1, 0), (1, 0), (4, 150), (4, 0)]) 0 (onTherm (fun z =>
      { z with window := false, work := [.flush] }) (onCalVal (calKey 3 5 0 0) (fun z =>
      { z with offNow := 3, user := some ⟨-7, 5, 2, 99, 1, 4⟩ }) (ready))), _, rfl, rfl, rfl, rfl, by decide +kernel, rfl,
      by decide +kernel, by decide +kernel, by decide +kernel, rfl, by decide +kernel, by decide +kernel⟩,
    ⟨0, _, _, _, _, _, mail 0x0C04 (bs [(1, 2), (1, 3), (1, 0), (1, 0)]) 0 (onCalVal (calKey 2 3 0 0) (fun z =>
      { z with offNow := 3, user := some ⟨-7, 5, 2, 99, 1, 4⟩ }) (ready)), rfl, rfl, rfl, rfl, by decide +kernel, rfl,
      by decide +kernel, by decide +kernel, by decide +kernel⟩,
    ⟨0, _, _, _, _, _, mail 0x0C04 (bs [(1, 2), (1, 3), (1, 0), (1, 0)]) 0 (onTherm (fun z =>
      { z with busy := some .flush }) (onCalVal (calKey 2 3 0 0) (fun z =>
      { z with offNow := 3, user := some ⟨-7, 5, 2, 99, 1, 4⟩ }) (ready))), rfl, rfl, rfl, rfl, by decide +kernel, rfl,
      by decide +kernel, by decide +kernel, by decide +kernel, by decide +kernel⟩,
    ⟨0, mail 0x0C02 (bs [(1, 1), (1, 58), (1, 0), (1, 0), (4, 100), (4, 7), (2, 0), (2, 0)]) 0 (ready),
      by decide +kernel⟩,
    ⟨-474,
      ({ kind := 2, obj := 3, point := 0, declared := -500, acc := 9, tag := 4, conv := 3, stage0 := none, first0 := none }),
      onTherm (fun z =>
      { z with job := some ({ kind := 2, obj := 3, point := 0, declared := -500, acc := 9, tag := 4, conv := 3, stage0 := none, first0 := none }) })
      (ready), by decide +kernel⟩,
    ⟨995,
      ({ kind := 1, obj := 58, point := 1, declared := 1000, acc := 9, tag := 4, conv := 3, stage0 := none, first0 := none }),
      onTherm (fun z =>
      { z with job := some ({ kind := 1, obj := 58, point := 1, declared := 1000, acc := 9, tag := 4, conv := 3, stage0 := none, first0 := none }) })
      (onCtrl (fun z => { z with deferred := [{ op := 0xC02, tag := 4, obj := 0 }] }) (ready)), by decide +kernel⟩,
    ⟨77,
      ({ kind := 3, obj := 2, point := 0, declared := 0, acc := 9, tag := 4, conv := 3, stage0 := none, first0 := none }),
      onTherm (fun z =>
      { z with job := some ({ kind := 3, obj := 2, point := 0, declared := 0, acc := 9, tag := 4, conv := 3, stage0 := none, first0 := none }) })
      (onCtrl (fun z => { z with deferred := [{ op := 0xC02, tag := 4, obj := 0 }] }) (ready)), 77, 0, by decide +kernel⟩,
    ⟨0, mail 0x0C03 (bs [(1, 0), (3, 0)]) 0 (ready), by decide +kernel⟩,
    ⟨0, mail 0x0C03 (bs [(1, 0), (3, 0)]) 0 (onTherm (fun z =>
      { z with stage := some { item := 2, obj := 3, off := -5, gain := 0, reading := 7, source := 3, declared := 4, acc := 9 } })
      (ready)), ({ item := 2, obj := 3, off := -5, gain := 0, reading := 7, source := 3, declared := 4, acc := 9 }:
      CalStage), by decide +kernel⟩,
    ⟨0, mail 0x0C03 (bs [(1, 1), (3, 0)]) 0 (onTherm (fun z =>
      { z with stage := some { item := 2, obj := 3, off := -5, gain := 0, reading := 7, source := 3, declared := 4, acc := 9 } })
      (ready)), ({ item := 2, obj := 3, off := -5, gain := 0, reading := 7, source := 3, declared := 4, acc := 9 }:
      CalStage), by decide +kernel⟩⟩

theorem witness_UnitsAndCores : (∃ l : Nat, ∃ s : State, okPairLane l = true ∧ nextRetirement s 7 = some l) ∧ (∃ i : Nat,
    ∃ s : State, okD2d i = true ∧ nextRetirement s 8 = some i) ∧ (∃ i : Nat, ∃ s : State, okD2d i = true ∧ s.power.powered
    = true ∧ (unitRec s (unitKey 8 i)).retired = false ∧ (unitRec s (unitKey 8 i)).retiring = false) ∧ (∃ sc : Nat, ∃ s :
    State, okSc sc = true ∧ nextRetirement s 9 = some sc) ∧ (∃ c : Nat, ∃ s : State, okCore c = true ∧ nextRetirement s 10
    = some c ∧ workingCores s ≠ [c]) ∧ (∃ c : Nat, ∃ s : State, okCore c = true ∧ nextRetirement s 10 = some c ∧
    workingCores s = [c]) ∧ (∃ c : Nat, ∃ s : State, okCore c = true ∧ coreRuns s c = true ∧ (unitRec s (unitKey 10
    c)).retired = false ∧ (unitRec s (unitKey 10 c)).retiring = false) ∧ (∃ c : Nat, ∃ k : Nat, ∃ s : State, okCore c =
    true ∧ (coreOf s c).st = .trapped k) ∧ (∃ pt : Nat, ∃ s : State, pointExists pt = true ∧ (injOf s pt).running = true)
    ∧ (∃ pt : Nat, ∃ s : State, pointExists pt = true ∧ (injOf s pt).running = false) :=
  ⟨⟨3, onFlt (fun z => { z with queue := [(7, 3)] }) (ready), by decide +kernel⟩,
    ⟨0, onFlt (fun z => { z with queue := [(8, 0)], d2dSpare := [(0, 1)] }) (onTxPort 2 (fun z =>
      { z with tx := .on, len := true, classes := [3,3] }) (onRxPort 3 (fun z => { z with st := .track, light := true })
      (ready))), by decide +kernel⟩,
    ⟨300, onFlt (fun z => { z with unit := [(unitKey 8 300, { times := [], total := 4294967294 })] }) (ready), by
      decide +kernel⟩,
    ⟨50, onFlt (fun z => { z with queue := [(9, 50)] }) (onSvc (fun z =>
      { z with slot := [(40*50, { tx := 5, rx := 5 }), (40*50+39, { tx := 6, rx := 6 }), (40*51+39, { rx := 6 })] })
      (onRxSc 50 (fun z => { z with conv := true }) (onTxPort 2 (fun z =>
      { z with tx := .on, len := true, classes := [3,3] }) (onRxPort 3 (fun z => { z with st := .track, light := true })
      (ready))))), by decide +kernel⟩,
    ⟨3, onFlt (fun z => { z with queue := [(10, 3)] }) (ready), by decide +kernel⟩,
    ⟨3, onFlt (fun z => { z with queue := [(10, 3)] }) (onCoreOf 0 (fun z => { z with st := .retired }) (onCoreOf 1 (fun z =>
      { z with st := .retired }) (onCoreOf 2 (fun z => { z with st := .retired }) (ready)))), by decide +kernel⟩,
    ⟨3, ready, by decide +kernel⟩,
    ⟨3, 1, onCoreOf 3 (fun z => { z with st := .trapped 1 }) (onFlt (fun z =>
      { z with unit := [(unitKey 10 3, { retrying := true })] }) (ready)), by decide +kernel⟩,
    ⟨0x18, onInjOf 0x18 (fun z => { z with running := true, arg := 0, acted := 4 }) (onPaceUnit 40 (fun z =>
      { z with forced := some 3 }) (onTiming (fun z => { z with loscLost := true }) (ready))), by decide +kernel⟩,
    ⟨0x18, onInjOf 0x18 (fun z => { z with acted := 4 }) (ready), by decide +kernel⟩⟩

theorem witness_FaultAndLogCommands : (∃ s : State, s.power.powered = true ∧ s.log.uncopied = 0) ∧ (∃ s : State, ∃ e,
    s.power.powered = true ∧ s.log.uncopied ≠ 0 ∧ s.log.ring[s.log.uncopied - 1]? = some e ∧ 2 ∉ s.flt.dma ∧ injFor s
    0x1A2 2 = false ∧ s.log.lostSince = 0) ∧ (∃ mb : Nat, ∃ typ : Nat, ∃ s : State, Accepted ⟨0x0D00, some 12, [(2, 2),
    (9, 3)]⟩ mb s ∧ typ = arg s mb 0 1 ∧ 1 ≤ typ ∧ typ ≤ 10 ∧ (arg s mb 8 1 = 0 ∨ (arg s mb 8 1 = 1 ∧ typ = 9)) ∧ 1 ≤ arg
    s mb 1 1 ∧ 1 ≤ arg s mb 4 4 ∧ arg s mb 4 4 ≤ 86400) ∧ (∃ mb : Nat, ∃ typ : Nat, ∃ i : Nat, ∃ s : State, Accepted
    ⟨0x0D01, some 4, [(1, 1)]⟩ mb s ∧ typ = arg s mb 0 1 ∧ i = arg s mb 2 2 ∧ unitOk typ i = true) ∧ (∃ mb : Nat, ∃ typ :
    Nat, ∃ s : State, Accepted ⟨0x0D02, some 4, [(1, 3)]⟩ mb s ∧ typ = arg s mb 0 1 ∧ (typ = 0xFF ∨ (1 ≤ typ ∧ typ ≤ 10)))
    ∧ (∃ mb : Nat, ∃ pt : Nat, ∃ a : Nat, ∃ s : State, Accepted ⟨0x0D03, some 8, []⟩ mb s ∧ pt = arg s mb 0 2 ∧ a = arg s
    mb 4 4 ∧ pointExists pt = true ∧ arg s mb 2 2 = (if disruptive pt a then 0xA55A else 0) ∧ argOk pt a = true ∧
    objectReady s pt a = true ∧ 0x060 ≤ pt ∧ pt ∉ [0x0A2, 0x0A4, 0x188, 0x1E0] ∧ isTimed pt = false) ∧ (∃ mb : Nat, ∃ pt :
    Nat, ∃ s : State, Accepted ⟨0x0D04, some 4, [(2, 2)]⟩ mb s ∧ pt = arg s mb 0 2 ∧ pointExists pt = true) ∧ (∃ mb : Nat,
    ∃ x : Nat, ∃ b : Nat, ∃ u : State, ∃ s : State, Accepted ⟨0x0D05, some 16, [(3, 1), (14, 2)]⟩ mb s ∧ x = arg s mb 0 2
    ∧ x ≤ 3839 ∧ wantedBoundary 4 (requestOf s mb) s = some b ∧ commitNear s = false ∧ stagedBreaks s = false ∧ (bitOf
    (arg s mb 2 1) 0 = true → txSlots s x ≠ []) ∧ (bitOf (arg s mb 2 1) 1 = true → rxSlots s x ≠ []) ∧ placeCommit b
    (requestOf s mb).tag 0 s = some u) ∧ (∃ mb : Nat, ∃ x : Nat, ∃ s : State, Accepted ⟨0x0D06, some 4, [(2, 2)]⟩ mb s ∧ x
    = arg s mb 0 2 ∧ x ≤ 3839) ∧ (∃ mb : Nat, ∃ c : Nat, ∃ s : State, Accepted ⟨0x0D07, some 4, [(1, 3)]⟩ mb s ∧ c = arg s
    mb 0 1 ∧ (c = 1 ∨ c = 2) ∧ c ∈ s.flt.dma) ∧ (∃ mb : Nat, ∃ c : Nat, ∃ s : State, Accepted ⟨0x0D07, some 4, [(1, 3)]⟩
    mb s ∧ c = arg s mb 0 1 ∧ (c = 1 ∨ c = 2) ∧ c ∉ s.flt.dma) ∧ (∃ mb : Nat, ∃ s : State, Accepted (bareShape 0x0D80) mb
    s) ∧ (∃ mb : Nat, ∃ src : Nat, ∃ w : Nat, ∃ i : Nat, ∃ s : State, Accepted ⟨0x0D81, some 8, [(2, 2)]⟩ mb s ∧ src = arg
    s mb 0 1 ∧ w = arg s mb 1 1 ∧ i = arg s mb 4 4 ∧ src ≤ 8 ∧ 1 ≤ w ∧ w ≤ 3 ∧ i ≤ (logSource s src).length ∧ injFor s
    0x1E1 src = false) ∧ (∃ mb : Nat, ∃ s : State, Accepted (bareShape 0x0D82) mb s ∧ s.log.frozen = false) ∧ (∃ mb : Nat,
    ∃ s : State, Accepted (bareShape 0x0D83) mb s ∧ s.log.frozen = true) ∧ (∃ mb : Nat, ∃ s : State, Accepted (bareShape
    0x0D83) mb s ∧ s.log.frozen = false) ∧ (∃ mb : Nat, ∃ m : Nat, ∃ s : State, Accepted ⟨0x0D84, some 4, [(1, 1)]⟩ mb s ∧
    m = arg s mb 0 1 ∧ m ≠ 0 ∧ m ≤ 63 ∧ arg s mb 2 2 = 0xA55A ∧ flashFree s = true) ∧ (∃ mb : Nat, ∃ m : Nat, ∃ s : State,
    Accepted ⟨0x0D84, some 4, [(1, 1)]⟩ mb s ∧ m = arg s mb 0 1 ∧ m ≠ 0 ∧ m ≤ 63 ∧ arg s mb 2 2 = 0xA55A ∧ flashFree s =
    false) :=
  ⟨⟨ready, by decide +kernel⟩,
    ⟨onLog (fun z =>
      { z with ring := [({ code := 0x100, vector := 9, flags := 0, seq := 4, tc := 77, src := 3, tag := 9, data := zeros 8, ctx := zeros 16, secs := 5, rail := 1, temp := 2, margin := 3, vin := 4, bad := 5 } : LogEntry)], uncopied := 1, cont := [] })
      (ready),
      ({ code := 0x100, vector := 9, flags := 0, seq := 4, tc := 77, src := 3, tag := 9, data := zeros 8, ctx := zeros 16, secs := 5, rail := 1, temp := 2, margin := 3, vin := 4, bad := 5 }
      : LogEntry), by decide +kernel⟩,
    ⟨0, _, mail 0x0D00 (bs [(1, 1), (1, 255), (2, 0), (4, 86400), (1, 0), (3, 0)]) 0 (ready), by decide +kernel, rfl, by
      decide +kernel, by decide +kernel, by decide +kernel, by decide +kernel, by decide +kernel, by decide +kernel⟩,
    ⟨0, _, _, mail 0x0D01 (bs [(1, 5), (1, 0), (2, 70)]) 0 (onFlt (fun z =>
      { z with unit := [(unitKey 5 70, { times := [0,0], total := 4294967295, last := 77, retrying := true })] })
      (ready)), by decide +kernel, rfl, rfl, by decide +kernel⟩,
    ⟨0, _, mail 0x0D02 (bs [(1, 1), (3, 0)]) 0 (onFlt (fun z =>
      { z with unit := [(unitKey 1 7, { times := [1], total := 4 }), (unitKey 10 3, { times := [1,2] })] }) (ready)), by
      decide +kernel, rfl, by decide +kernel⟩,
    ⟨0, _, _, mail 0x0D03 (bs [(2, 323), (2, 0), (4, 0)]) 0 (ready), by decide +kernel, rfl, rfl, by decide +kernel, by
      decide +kernel, by decide +kernel, by decide +kernel, by decide +kernel, by decide +kernel, by decide +kernel⟩,
    ⟨0, _, mail 0x0D04 (bs [(2, 0), (2, 0)]) 0 (onInjOf 0x0 (fun z => { z with armed := true, arg := 4294967295, acted := 9 })
      (ready)), by decide +kernel, rfl, by decide +kernel⟩,
    ⟨0, _, boundaryAfter (ticksSec 3), ((fun (s : State) => (placeCommit (boundaryAfter (ticksSec 3)) 7 0 s).getD s) (mail
      0x0D05 (bs [(2, 5), (1, 3), (1, 0), (6, 3), (4, 0), (2, 0)]) 0 (onSvc (fun z =>
      { z with slot := [(2000, { tx := 5, rx := 5 })] }) (ready)))), mail 0x0D05 (bs [(2, 5), (1, 3), (1, 0), (6, 3), (4,
      0), (2, 0)]) 0 (onSvc (fun z => { z with slot := [(2000, { tx := 5, rx := 5 })] }) (ready)), by decide +kernel, rfl,
      by decide +kernel, by decide +kernel, by decide +kernel, by decide +kernel, by decide +kernel, by decide +kernel, by
      decide +kernel⟩,
    ⟨0, _, mail 0x0D06 (bs [(2, 3839), (2, 0)]) 0 (onTribOf 3839 (fun z =>
      { z with testSend := true, bits := 99, bitErrs := 18446744073709551615, syncLoss := 4 }) (ready)), by
      decide +kernel, rfl, by decide +kernel⟩,
    ⟨0, _, mail 0x0D07 (bs [(1, 1), (3, 0)]) 0 (onFlt (fun z => { z with dma := [0,1,2] }) (ready)), by decide +kernel, rfl,
      by decide +kernel, by decide +kernel⟩,
    ⟨0, _, mail 0x0D07 (bs [(1, 1), (3, 0)]) 0 (onFlt (fun z => { z with dma := [0] }) (ready)), by decide +kernel, rfl, by
      decide +kernel, by decide +kernel⟩,
    ⟨0, mail 0x0D80 (bs []) 0 (onLog (fun z =>
      { z with frozen := true, cause := 6, lostN := 4294967296, found := true, whileFrozen := 9, snapsLost := 4 })
      (ready)), by decide +kernel⟩,
    ⟨0, _, _, _, mail 0x0D81 (bs [(1, 7), (1, 3), (2, 0), (4, 0)]) 0 (ready), by decide +kernel, rfl, rfl, rfl, by
      decide +kernel, by decide +kernel, by decide +kernel, by decide +kernel, by decide +kernel⟩,
    ⟨0, mail 0x0D82 (bs []) 0 (onLog (fun z =>
      { z with ring := [({ code := 0x100, vector := 9, flags := 0, seq := 0, tc := 77, src := 3, tag := 9, data := zeros 8, ctx := zeros 16, secs := 5, rail := 1, temp := 2, margin := 3, vin := 4, bad := 5 } : LogEntry), ({ code := 0x100, vector := 9, flags := 0, seq := 1, tc := 77, src := 3, tag := 9, data := zeros 8, ctx := zeros 16, secs := 5, rail := 1, temp := 2, margin := 3, vin := 4, bad := 5 } : LogEntry), ({ code := 0x100, vector := 9, flags := 0, seq := 2, tc := 77, src := 3, tag := 9, data := zeros 8, ctx := zeros 16, secs := 5, rail := 1, temp := 2, margin := 3, vin := 4, bad := 5 } : LogEntry), ({ code := 0x100, vector := 9, flags := 0, seq := 3, tc := 77, src := 3, tag := 9, data := zeros 8, ctx := zeros 16, secs := 5, rail := 1, temp := 2, margin := 3, vin := 4, bad := 5 } : LogEntry), ({ code := 0x100, vector := 9, flags := 0, seq := 4, tc := 77, src := 3, tag := 9, data := zeros 8, ctx := zeros 16, secs := 5, rail := 1, temp := 2, margin := 3, vin := 4, bad := 5 } : LogEntry)] })
      (ready)), by decide +kernel⟩,
    ⟨0, mail 0x0D83 (bs []) 0 (onLog (fun z => { z with frozen := true, cause := 4 }) (ready)), by decide +kernel⟩,
    ⟨0, mail 0x0D83 (bs []) 0 (ready), by decide +kernel⟩,
    ⟨0, _, mail 0x0D84 (bs [(1, 1), (1, 0), (2, 42330)]) 0 (onLog (fun z =>
      { z with slots := [(0, [({ code := 0x100, vector := 9, flags := 0, seq := 0, tc := 77, src := 3, tag := 9, data := zeros 8, ctx := zeros 16, secs := 5, rail := 1, temp := 2, margin := 3, vin := 4, bad := 5 } : LogEntry), ({ code := 0x100, vector := 9, flags := 0, seq := 1, tc := 77, src := 3, tag := 9, data := zeros 8, ctx := zeros 16, secs := 5, rail := 1, temp := 2, margin := 3, vin := 4, bad := 5 } : LogEntry), ({ code := 0x100, vector := 9, flags := 0, seq := 2, tc := 77, src := 3, tag := 9, data := zeros 8, ctx := zeros 16, secs := 5, rail := 1, temp := 2, margin := 3, vin := 4, bad := 5 } : LogEntry), ({ code := 0x100, vector := 9, flags := 0, seq := 3, tc := 77, src := 3, tag := 9, data := zeros 8, ctx := zeros 16, secs := 5, rail := 1, temp := 2, margin := 3, vin := 4, bad := 5 } : LogEntry), ({ code := 0x100, vector := 9, flags := 0, seq := 4, tc := 77, src := 3, tag := 9, data := zeros 8, ctx := zeros 16, secs := 5, rail := 1, temp := 2, margin := 3, vin := 4, bad := 5 } : LogEntry)], 4), (2, [({ code := 0x100, vector := 9, flags := 0, seq := 0, tc := 77, src := 3, tag := 9, data := zeros 8, ctx := zeros 16, secs := 5, rail := 1, temp := 2, margin := 3, vin := 4, bad := 5 } : LogEntry), ({ code := 0x100, vector := 9, flags := 0, seq := 1, tc := 77, src := 3, tag := 9, data := zeros 8, ctx := zeros 16, secs := 5, rail := 1, temp := 2, margin := 3, vin := 4, bad := 5 } : LogEntry), ({ code := 0x100, vector := 9, flags := 0, seq := 2, tc := 77, src := 3, tag := 9, data := zeros 8, ctx := zeros 16, secs := 5, rail := 1, temp := 2, margin := 3, vin := 4, bad := 5 } : LogEntry), ({ code := 0x100, vector := 9, flags := 0, seq := 3, tc := 77, src := 3, tag := 9, data := zeros 8, ctx := zeros 16, secs := 5, rail := 1, temp := 2, margin := 3, vin := 4, bad := 5 } : LogEntry), ({ code := 0x100, vector := 9, flags := 0, seq := 4, tc := 77, src := 3, tag := 9, data := zeros 8, ctx := zeros 16, secs := 5, rail := 1, temp := 2, margin := 3, vin := 4, bad := 5 } : LogEntry)], 5)], areaA := [({ code := 0x100, vector := 9, flags := 0, seq := 0, tc := 77, src := 3, tag := 9, data := zeros 8, ctx := zeros 16, secs := 5, rail := 1, temp := 2, margin := 3, vin := 4, bad := 5 } : LogEntry), ({ code := 0x100, vector := 9, flags := 0, seq := 1, tc := 77, src := 3, tag := 9, data := zeros 8, ctx := zeros 16, secs := 5, rail := 1, temp := 2, margin := 3, vin := 4, bad := 5 } : LogEntry), ({ code := 0x100, vector := 9, flags := 0, seq := 2, tc := 77, src := 3, tag := 9, data := zeros 8, ctx := zeros 16, secs := 5, rail := 1, temp := 2, margin := 3, vin := 4, bad := 5 } : LogEntry), ({ code := 0x100, vector := 9, flags := 0, seq := 3, tc := 77, src := 3, tag := 9, data := zeros 8, ctx := zeros 16, secs := 5, rail := 1, temp := 2, margin := 3, vin := 4, bad := 5 } : LogEntry), ({ code := 0x100, vector := 9, flags := 0, seq := 4, tc := 77, src := 3, tag := 9, data := zeros 8, ctx := zeros 16, secs := 5, rail := 1, temp := 2, margin := 3, vin := 4, bad := 5 } : LogEntry)], numA := 4, areaB := [({ code := 0x100, vector := 9, flags := 0, seq := 0, tc := 77, src := 3, tag := 9, data := zeros 8, ctx := zeros 16, secs := 5, rail := 1, temp := 2, margin := 3, vin := 4, bad := 5 } : LogEntry), ({ code := 0x100, vector := 9, flags := 0, seq := 1, tc := 77, src := 3, tag := 9, data := zeros 8, ctx := zeros 16, secs := 5, rail := 1, temp := 2, margin := 3, vin := 4, bad := 5 } : LogEntry), ({ code := 0x100, vector := 9, flags := 0, seq := 2, tc := 77, src := 3, tag := 9, data := zeros 8, ctx := zeros 16, secs := 5, rail := 1, temp := 2, margin := 3, vin := 4, bad := 5 } : LogEntry), ({ code := 0x100, vector := 9, flags := 0, seq := 3, tc := 77, src := 3, tag := 9, data := zeros 8, ctx := zeros 16, secs := 5, rail := 1, temp := 2, margin := 3, vin := 4, bad := 5 } : LogEntry), ({ code := 0x100, vector := 9, flags := 0, seq := 4, tc := 77, src := 3, tag := 9, data := zeros 8, ctx := zeros 16, secs := 5, rail := 1, temp := 2, margin := 3, vin := 4, bad := 5 } : LogEntry)], numB := 5 })
      (ready)), by decide +kernel, rfl, by decide +kernel, by decide +kernel, by decide +kernel, by decide +kernel⟩,
    ⟨0, _, mail 0x0D84 (bs [(1, 1), (1, 0), (2, 42330)]) 0 (onTherm (fun z => { z with window := false }) (onLog (fun z =>
      { z with slots := [(0, [({ code := 0x100, vector := 9, flags := 0, seq := 0, tc := 77, src := 3, tag := 9, data := zeros 8, ctx := zeros 16, secs := 5, rail := 1, temp := 2, margin := 3, vin := 4, bad := 5 } : LogEntry), ({ code := 0x100, vector := 9, flags := 0, seq := 1, tc := 77, src := 3, tag := 9, data := zeros 8, ctx := zeros 16, secs := 5, rail := 1, temp := 2, margin := 3, vin := 4, bad := 5 } : LogEntry), ({ code := 0x100, vector := 9, flags := 0, seq := 2, tc := 77, src := 3, tag := 9, data := zeros 8, ctx := zeros 16, secs := 5, rail := 1, temp := 2, margin := 3, vin := 4, bad := 5 } : LogEntry), ({ code := 0x100, vector := 9, flags := 0, seq := 3, tc := 77, src := 3, tag := 9, data := zeros 8, ctx := zeros 16, secs := 5, rail := 1, temp := 2, margin := 3, vin := 4, bad := 5 } : LogEntry), ({ code := 0x100, vector := 9, flags := 0, seq := 4, tc := 77, src := 3, tag := 9, data := zeros 8, ctx := zeros 16, secs := 5, rail := 1, temp := 2, margin := 3, vin := 4, bad := 5 } : LogEntry)], 4), (2, [({ code := 0x100, vector := 9, flags := 0, seq := 0, tc := 77, src := 3, tag := 9, data := zeros 8, ctx := zeros 16, secs := 5, rail := 1, temp := 2, margin := 3, vin := 4, bad := 5 } : LogEntry), ({ code := 0x100, vector := 9, flags := 0, seq := 1, tc := 77, src := 3, tag := 9, data := zeros 8, ctx := zeros 16, secs := 5, rail := 1, temp := 2, margin := 3, vin := 4, bad := 5 } : LogEntry), ({ code := 0x100, vector := 9, flags := 0, seq := 2, tc := 77, src := 3, tag := 9, data := zeros 8, ctx := zeros 16, secs := 5, rail := 1, temp := 2, margin := 3, vin := 4, bad := 5 } : LogEntry), ({ code := 0x100, vector := 9, flags := 0, seq := 3, tc := 77, src := 3, tag := 9, data := zeros 8, ctx := zeros 16, secs := 5, rail := 1, temp := 2, margin := 3, vin := 4, bad := 5 } : LogEntry), ({ code := 0x100, vector := 9, flags := 0, seq := 4, tc := 77, src := 3, tag := 9, data := zeros 8, ctx := zeros 16, secs := 5, rail := 1, temp := 2, margin := 3, vin := 4, bad := 5 } : LogEntry)], 5)], areaA := [({ code := 0x100, vector := 9, flags := 0, seq := 0, tc := 77, src := 3, tag := 9, data := zeros 8, ctx := zeros 16, secs := 5, rail := 1, temp := 2, margin := 3, vin := 4, bad := 5 } : LogEntry), ({ code := 0x100, vector := 9, flags := 0, seq := 1, tc := 77, src := 3, tag := 9, data := zeros 8, ctx := zeros 16, secs := 5, rail := 1, temp := 2, margin := 3, vin := 4, bad := 5 } : LogEntry), ({ code := 0x100, vector := 9, flags := 0, seq := 2, tc := 77, src := 3, tag := 9, data := zeros 8, ctx := zeros 16, secs := 5, rail := 1, temp := 2, margin := 3, vin := 4, bad := 5 } : LogEntry), ({ code := 0x100, vector := 9, flags := 0, seq := 3, tc := 77, src := 3, tag := 9, data := zeros 8, ctx := zeros 16, secs := 5, rail := 1, temp := 2, margin := 3, vin := 4, bad := 5 } : LogEntry), ({ code := 0x100, vector := 9, flags := 0, seq := 4, tc := 77, src := 3, tag := 9, data := zeros 8, ctx := zeros 16, secs := 5, rail := 1, temp := 2, margin := 3, vin := 4, bad := 5 } : LogEntry)], numA := 4, areaB := [({ code := 0x100, vector := 9, flags := 0, seq := 0, tc := 77, src := 3, tag := 9, data := zeros 8, ctx := zeros 16, secs := 5, rail := 1, temp := 2, margin := 3, vin := 4, bad := 5 } : LogEntry), ({ code := 0x100, vector := 9, flags := 0, seq := 1, tc := 77, src := 3, tag := 9, data := zeros 8, ctx := zeros 16, secs := 5, rail := 1, temp := 2, margin := 3, vin := 4, bad := 5 } : LogEntry), ({ code := 0x100, vector := 9, flags := 0, seq := 2, tc := 77, src := 3, tag := 9, data := zeros 8, ctx := zeros 16, secs := 5, rail := 1, temp := 2, margin := 3, vin := 4, bad := 5 } : LogEntry), ({ code := 0x100, vector := 9, flags := 0, seq := 3, tc := 77, src := 3, tag := 9, data := zeros 8, ctx := zeros 16, secs := 5, rail := 1, temp := 2, margin := 3, vin := 4, bad := 5 } : LogEntry), ({ code := 0x100, vector := 9, flags := 0, seq := 4, tc := 77, src := 3, tag := 9, data := zeros 8, ctx := zeros 16, secs := 5, rail := 1, temp := 2, margin := 3, vin := 4, bad := 5 } : LogEntry)], numB := 5 })
      (ready))), by decide +kernel, rfl, by decide +kernel, by decide +kernel, by decide +kernel, by decide +kernel⟩⟩

theorem witness_PaceAndTracer : (∃ u : Nat, ∃ s : State, okUnit u = true ∧ requiredUnits s u = 0) ∧ (∃ u : Nat, ∃ s :
    State, okUnit u = true ∧ requiredUnits s u ≠ 0 ∧ (paceUnit s u).slots.length = 4) ∧ (∃ c : Nat, ∃ s : State, okCore c
    = true ∧ coreRuns s c = false) ∧ (∃ c : Nat, ∃ s : State, okCore c = true ∧ coreRuns s c = true ∧ (coreOf s
    c).slots.length = 4) ∧ (∃ (i : Nat) (at_ : Nat) (s : State), okCue i = true ∧ 2 ≤ i ∧ running s = true ∧ cueDue s i 8
    at_ = true ∧ now s ≤ at_ ∧ firstDue s i at_ (fun _ => true) = true ∧ s.tracer.openCue = some i) ∧ (∃ (i : Nat) (at_ :
    Nat) (s : State), okCue i = true ∧ 2 ≤ i ∧ running s = true ∧ cueDue s i 8 at_ = true ∧ now s ≤ at_ ∧ firstDue s i at_
    (fun _ => true) = true ∧ s.tracer.openCue ≠ some i ∧ s.tracer.closeCue = some i) ∧ (∃ r : TracerObs, ∃ x : Nat, ∃ s :
    State, running s = true ∧ s.tracer.lfsr ≠ 0 ∧ 0 < r.units ∧ x = iterate lfsrStep r.units s.tracer.lfsr ∧ x % 2 ^
    s.tracer.k ≠ 0) ∧ (∃ r : TracerObs, ∃ x : Nat, ∃ s : State, running s = true ∧ s.tracer.lfsr ≠ 0 ∧ 0 < r.units ∧ x =
    iterate lfsrStep r.units s.tracer.lfsr ∧ x % 2 ^ s.tracer.k = 0) ∧ (∃ mb : Nat, ∃ dom : Nat, ∃ i : Nat, ∃ k : Nat, ∃
    ev : Nat, ∃ s : State, Accepted ⟨0x0E00, some 8, [(4, 4)]⟩ mb s ∧ dom = arg s mb 0 1 ∧ i = arg s mb 1 1 ∧ k = arg s mb
    2 1 ∧ ev = arg s mb 3 1 ∧ knownEvents.contains ev = true ∧ dom = 0 ∧ i < 48 ∧ k < 4 ∧ paceDefines i ev = true) ∧ (∃ mb
    : Nat, ∃ dom : Nat, ∃ i : Nat, ∃ k : Nat, ∃ ev : Nat, ∃ s : State, Accepted ⟨0x0E00, some 8, [(4, 4)]⟩ mb s ∧ dom =
    arg s mb 0 1 ∧ i = arg s mb 1 1 ∧ k = arg s mb 2 1 ∧ ev = arg s mb 3 1 ∧ knownEvents.contains ev = true ∧ dom = 1 ∧ i
    < 4 ∧ k < 8 ∧ coreDefines ev = true) ∧ (∃ mb : Nat, ∃ dom : Nat, ∃ i : Nat, ∃ s : State, Accepted ⟨0x0E01, some 4,
    [(2, 2)]⟩ mb s ∧ dom = arg s mb 0 1 ∧ i = arg s mb 1 1 ∧ dom = 0 ∧ i < 48) ∧ (∃ mb : Nat, ∃ dom : Nat, ∃ i : Nat, ∃ s
    : State, Accepted ⟨0x0E01, some 4, [(2, 2)]⟩ mb s ∧ dom = arg s mb 0 1 ∧ i = arg s mb 1 1 ∧ dom = 1 ∧ i < 4) ∧ (∃ (mb
    : Nat) (s : State), Accepted ⟨0x0E02, some 24, [(22, 2)]⟩ mb s ∧ arg s mb 0 1 = 0 ∧ s.tracer.kind ≠ 0 ∧ (readTime10 8
    (requestOf s mb).pay).isSome) ∧ (∃ mb : Nat, ∃ s : State, ∃ start, ∃ u, Accepted ⟨0x0E02, some 24, [(22, 2)]⟩ mb s ∧ 1
    ≤ arg s mb 0 1 ∧ arg s mb 0 1 ≤ 4 ∧ readTime10 8 (requestOf s mb).pay = some start ∧ arg s mb 4 4 ≠ 0 ∧ 10 ≤ arg s mb
    1 1 ∧ arg s mb 1 1 ≤ 30 ∧ now s + ticksUs 10 ≤ start ∧ placeWindow start (arg s mb 18 4) (requestOf s mb).tag
    (endTracing s) = some u) ∧ (∃ mb : Nat, ∃ s : State, Accepted ⟨0x0E03, some 16, [(2, 2), (12, 4)]⟩ mb s ∧ arg s mb 0 1
    ≤ 2 ∧ (arg s mb 0 1 = 2 → 10 ≤ arg s mb 1 1 ∧ arg s mb 1 1 ≤ 16 ∧ arg s mb 4 8 % 4096 = 0) ∧ s.tracer.delivery ≠ arg s
    mb 0 1) ∧ (∃ mb : Nat, ∃ s : State, Accepted (bareShape 0x0E04) mb s) :=
  ⟨⟨2, ready, by decide +kernel⟩,
    ⟨44, onPaceUnit 44 (fun z => { z with slots := [18446744073709551615, 3, 18446744073709551615, 4] }) (onRxPort 3
      (fun z => { z with st := .track, light := true }) (onRxPort 4 (fun z => { z with st := .track, light := true })
      (onTxPort 3 (fun z => { z with tx := .on, len := true, classes := [3] }) (ready)))), by decide +kernel⟩,
    ⟨3, onCoreOf 3 (fun z => { z with st := .trapped 1 }) (ready), by decide +kernel⟩,
    ⟨3, onCoreOf 3 (fun z => { z with slots := [1,2,18446744073709551615,4] }) (ready), by decide +kernel⟩,
    ⟨9, ticksMs 4, setCue 9 { kind := 8, state := 1, time := ticksMs 4 } (onTracer (fun z =>
      { z with openCue := some 9, seed := 77, k := 10, closeCue := some 10 }) (ready)), by decide +kernel⟩,
    ⟨9, ticksMs 5, setCue 9 { kind := 8, state := 1, time := ticksMs 4 } (onTracer (fun z =>
      { z with closeCue := some 9, isOpen := true }) (ready)), by decide +kernel⟩,
    ⟨{ units := 3, object := 5, tc0 := 7, stages := [some 4, none], label := 3, trib := 4, len := 5, outcome := 1, refused := false },
      iterate lfsrStep 3 77, onTracer (fun z => { z with lfsr := 77, k := 10 }) (ready), by decide +kernel⟩,
    ⟨{ units := 1, object := 5, tc0 := 7, stages := [some 4, none], label := 3, trib := 4, len := 5, outcome := 1, refused := false },
      ((fun (s : State) => iterate lfsrStep 1 s.tracer.lfsr) (onTracer (fun z =>
      { z with lfsr := 0x400, k := 10, isOpen := true, filter := 9 }) (ready))), onTracer (fun z =>
      { z with lfsr := 0x400, k := 10, isOpen := true, filter := 9 }) (ready), by decide +kernel⟩,
    ⟨0, _, _, _, _, mail 0x0E00 (bs [(1, 0), (1, 0), (1, 0), (1, 0), (4, 0)]) 0 (ready), by decide +kernel, rfl, rfl,
      rfl, rfl, by decide +kernel, rfl, by decide +kernel, by decide +kernel, by decide +kernel⟩,
    ⟨0, _, _, _, _, mail 0x0E00 (bs [(1, 1), (1, 3), (1, 7), (1, 135), (4, 0)]) 0 (onCoreOf 3 (fun z =>
      { z with ctr := [(7,8)] }) (ready)), by decide +kernel, rfl, rfl, rfl, rfl, by decide +kernel, rfl,
      by decide +kernel, by decide +kernel, by decide +kernel⟩,
    ⟨0, _, _, mail 0x0E01 (bs [(1, 0), (1, 2), (2, 0)]) 0 (onPaceUnit 2 (fun z =>
      { z with tokens := 99, slots := [1,2,3,18446744073709551615], evn := [(0,1),(1,2),(2,5)], ctr := [(0,7),(1,8),(2,9)] })
      (ready)), by decide +kernel, rfl, rfl, rfl, by decide +kernel⟩,
    ⟨0, _, _, mail 0x0E01 (bs [(1, 1), (1, 3), (2, 0)]) 0 (onCoreOf 3 (fun z =>
      { z with slots := [1,2,3,18446744073709551615] }) (ready)), by decide +kernel, rfl, rfl, rfl, by decide +kernel⟩,
    ⟨0, mail 0x0E02 (bs [(1, 0), (1, 0), (2, 0), (4, 0), (6, 0), (4, 0), (4, 0), (2, 0)]) 0 (setCue 9
      { kind := 8, state := 1, time := ticksMs 4 } (onTracer (fun z =>
      { z with kind := 2, isOpen := true, openCue := some 9, closeCue := some 10, lfsr := 4 }) (ready))),
      by decide +kernel⟩,
    ⟨0, mail 0x0E02 (bs [(1, 4), (1, 30), (2, 65535), (4, 1), (6, 0), (4, 10000), (4, 0), (2, 0)]) 0 (ready), ticksUs
      10, ((fun (mb : Nat) (s : State) => (placeWindow (ticksUs 10) (arg s mb 18 4) 7 (endTracing s)).getD s) (0) (mail
      0x0E02 (bs [(1, 4), (1, 30), (2, 65535), (4, 1), (6, 0), (4, 10000), (4, 0), (2, 0)]) 0 (ready))),
      by decide +kernel⟩,
    ⟨0, mail 0x0E03 (bs [(1, 0), (1, 0), (2, 0), (8, 0), (4, 0)]) 0 (onTracer (fun z =>
      { z with delivery := 1, next := 9, full := true }) (ready)), by decide +kernel⟩,
    ⟨0, mail 0x0E04 (bs []) 0 (onTracer (fun z =>
      { z with isOpen := true, next := 4, written := 7, dropped := 8, suspendedN := 9 }) (onFlt (fun z =>
      { z with dma := [1] }) (ready))), by decide +kernel⟩⟩

theorem witness_ResponseHeader : (∃ (h : Shape) (mb : Nat) (s : State), okMb mb = true ∧ accepts h.op mb s = false) ∧ (∃
    (h : Shape) (body : Req → State → Reply) (mb : Nat) (s : State), okMb mb = true ∧ accepts h.op mb s = true ∧ (answer h
    body (requestOf s mb) s).pay.length < 65536) ∧ (∃ (mb : Nat) (s : State), okMb mb = true ∧ s.ctrl.stage = .ready ∧
    mailboxesWork s = true ∧ isNext s mb = true ∧ cmdClass (mailOp s mb) = none) :=
  ⟨⟨⟨0x0101, none, []⟩, 0, mail 0x0105 (bs [(4, 7)]) 0 ready, by decide +kernel⟩,
    ⟨⟨0x0105, none, []⟩, fun r s => okWith r.pay s, 7, mail 0x0105 (bs [(4, 7)]) 7 ready, by decide +kernel⟩,
    ⟨0, mail 0x7FFF [] 0 ready, by decide +kernel⟩⟩

theorem witness_SysCommands : (∃ mb : Nat, ∃ s : State, Accepted ⟨0x0100, some 0, []⟩ mb s) ∧ (∃ mb : Nat, ∃ s : State,
    Accepted ⟨0x0101, some 0, []⟩ mb s) ∧ (∃ mb : Nat, ∃ s : State, Accepted ⟨0x0102, some 4, [(2, 2)]⟩ mb s ∧ arg s mb 0
    2 = 0xA55A) ∧ (∃ mb : Nat, ∃ s : State, Accepted ⟨0x0103, some 4, [(1, 3)]⟩ mb s ∧ arg s mb 0 1 = 1 ∧ s.quiet = false)
    ∧ (∃ mb : Nat, ∃ s : State, Accepted ⟨0x0103, some 4, [(1, 3)]⟩ mb s ∧ arg s mb 0 1 = 0 ∧ s.quiet = true) ∧ (∃ mb :
    Nat, ∃ v : Nat, ∃ s : State, Accepted ⟨0x0104, some 4, [(3, 1)]⟩ mb s ∧ eventVector (arg s mb 0 2) = some v ∧ isUrgent
    v = false ∧ arg s mb 2 1 ≤ 1) ∧ (∃ mb : Nat, ∃ s : State, Accepted ⟨0x0105, none, []⟩ mb s) :=
  ⟨⟨0, mail 0x0100 (bs []) 0 (onCtrl (fun z => { z with running := 2 }) (ready)), by decide +kernel⟩,
    ⟨0, mail 0x0101 (bs []) 0 (onCtrl (fun z => { z with cfgGen := 0xFFFFFFFF }) (onTiming (fun z =>
      { z with up := ticksSec 4294967297 }) (onPair (fun z => { z with role := 2 }) (ready)))), by decide +kernel⟩,
    ⟨0, mail 0x0102 (bs [(2, 42330), (2, 0)]) 0 (ready), by decide +kernel⟩,
    ⟨0, mail 0x0103 (bs [(1, 1), (3, 0)]) 0 (ready), by decide +kernel⟩,
    ⟨0, mail 0x0103 (bs [(1, 0), (3, 0)]) 0 ({ (ready) with quiet := true }), by decide +kernel⟩,
    ⟨0, 27, mail 0x0104 (bs [(2, 3584), (1, 0), (1, 0)]) 0 (ready), by decide +kernel⟩,
    ⟨0, mail 0x0105 (bs []) 0 (ready), by decide +kernel⟩⟩

theorem witness_FirmwareUpdate : (∃ mb : Nat, ∃ s : State, Accepted ⟨0x0F01, some 12, []⟩ mb s ∧ 1 ≤ arg s mb 0 4 ∧ arg s
    mb 0 4 ≤ 4194304 ∧ s.fw.session = 0) ∧ (∃ mb : Nat, ∃ s : State, Accepted ⟨0x0F02, none, [(6, 2)]⟩ mb s ∧ 1 ≤ arg s mb
    4 2 ∧ arg s mb 4 2 ≤ 224 ∧ (requestOf s mb).len = 8 + arg s mb 4 2 ∧ s.fw.session = 1 ∧ arg s mb 0 4 + arg s mb 4 2 ≤
    s.fw.size ∧ (mailOf s mb).length = 256 ∧ MemoryCanonical s) ∧ (∃ mb : Nat, ∃ s : State, Accepted ⟨0x0F03, some 0, []⟩
    mb s ∧ (s.fw.session = 1 ∨ s.fw.session = 2)) ∧ (∃ mb : Nat, ∃ s : State, Accepted ⟨0x0F04, some 0, []⟩ mb s ∧
    s.fw.session = 2 ∧ s.fw.size < 262144 ∧ flashFree s = true) ∧ (∃ s : State, awake s = true ∧ (startWork s).therm.busy = some .activate
    ∧ s.therm.window = true) ∧ (∃ mb : Nat, ∃ s : State, Accepted ⟨0x0F00, some 0, []⟩ mb s) ∧ (∃ mb : Nat, ∃ s : State,
    Accepted ⟨0x0F05, some 4, [(1, 3)]⟩ mb s ∧ arg s mb 0 1 = 0 ∧ isLead s = false ∧ (slotOf s.fw s.fw.active).state = 1 ∧
    (∀ m, m < 8 → m ≠ mb → bvBit s.ctrl.mbBusy m = false) ∧ s.ctrl.deferred = []) :=
  ⟨⟨0, mail 0x0F01 (bs [(4, 1), (4, 4294967295), (4, 66051)]) 0 (onFw (fun z => { z with staged := [(0,4)], active := 2 })
      (ready)), by decide +kernel⟩,
    ⟨0, mail 0x0F02 (bs [(4, 0), (2, 1), (2, 0), (1, 1)]) 0 (onFw (fun z => { z with session := 1, size := 1 }) (ready)), by
      decide +kernel⟩,
    ⟨0, mail 0x0F03 (bs []) 0 (onFw (fun z => { z with session := 1, size := 100 }) (ready)), by decide +kernel⟩,
    ⟨0, mail 0x0F04 (bs []) 0 (onFw (fun z => { z with session := 2, size := 262143, version := 77, active := 1 }) (ready)),
      by decide +kernel⟩,
    ⟨onFw (fun z => { z with session := 3, active := 2 }) (onTherm (fun z => { z with work := [.activate] }) (onCtrl (fun z =>
      { z with deferred := [⟨0xF04, 4, 0⟩] }) (ready))), by decide +kernel⟩,
    ⟨0, mail 0x0F00 (bs []) 0 (onFw (fun z => { z with session := 2, slotB := { state := 2 } }) (ready)), by decide +kernel⟩,
    ⟨0, mail 0x0F05 (bs [(1, 0), (3, 0)]) 0 (onTxPort 2 (fun z => { z with tx := .on, len := true, classes := [3,3] })
      (onRxPort 3 (fun z => { z with st := .track, light := true }) (ready))), by decide +kernel⟩⟩

theorem witness_PowerUpAndBoot : (∃ vin : Nat, ∃ s : State, 3400 ≤ vin ∧ s.power.phase = .off ∧ s.power.switchOpen =
    false) ∧ (∃ vin : Nat, ∃ s : State, vin < 3250 ∧ s.power.phase = .softStart) ∧ (∃ s : State, s.power.phase =
    .softStart ∧ s.power.resetHeld = false) ∧ (∃ s : State, booting s = true) ∧ (∃ s : State, booting s = true ∧ s.power.thermWait = true ∧ storedDies s ≠
    [] ∧ (hottest s).2 < 1400) ∧ (∃ s : State, booting s = true ∧ s.fw.bootStep = 1 ∧ s.power.thermWait = false ∧ (slotOf
    s.fw s.fw.trying).state = 1) ∧ (∃ s : State, booting s = true ∧ s.fw.bootStep = 1 ∧ s.power.thermWait = false ∧
    s.fw.otherTried = false) ∧ (∃ s : State, booting s = true ∧ s.fw.bootStep = 1 ∧ s.power.thermWait = false ∧
    s.fw.otherTried = true) ∧ (∃ s : State, booting s = true ∧ s.fw.bootStep = 2) ∧ (∃ s : State, s.ctrl.stage = .init ∧
    s.power.phase = .good ∧ s.therm.shut = false) ∧ (∃ s : State, s.ctrl.stage = .init ∧ s.power.phase = .good ∧
    s.therm.shut = true) ∧ (∃ s : State, s.ctrl.stage = .init ∧ mailboxesWork s = true ∧ s.fw.otherTried = false ∧
    s.fw.trying = 1) ∧ (∃ s : State, s.power.powered = true ∧ s.power.resetHeld = false) :=
  ⟨⟨3400, (onBulk (fun z => { z with mem := [(3,4)] }) (onTxPort 2 (fun z => { z with tx := .on }) (onFw (fun z =>
      { z with active := 2, slotA := { state := 2 } }) State.reset))), by decide +kernel⟩,
    ⟨3249, onPower (fun z => { z with phase := .softStart }) (ready), by decide +kernel⟩,
    ⟨onPower (fun z => { z with phase := .softStart, powered := false }) (onCtrl (fun z =>
      { z with perst := true, stage := .power }) (onFw (fun z => { z with active := 2 }) (ready))), by decide +kernel⟩,
    ⟨onCtrl (fun z => { z with stage := .load, pcieUp := false }) ready, by decide +kernel⟩,
    ⟨onCtrl (fun z => { z with stage := .rom }) (onFw (fun z => { z with bootStep := 1, trying := 1 }) (onPower (fun z =>
      { z with thermWait := true }) (onChanVal 40 (fun z => { z with value := 1399, at_ := 5 }) (ready)))), by
      decide +kernel⟩,
    ⟨onCtrl (fun z => { z with stage := .rom }) (onFw (fun z => { z with bootStep := 1, trying := 2 }) (ready)), by
      decide +kernel⟩,
    ⟨onCtrl (fun z => { z with stage := .rom }) (onFw (fun z => { z with bootStep := 1, trying := 1 }) (ready)), by
      decide +kernel⟩,
    ⟨onCtrl (fun z => { z with stage := .rom }) (onFw (fun z => { z with bootStep := 1, trying := 1, otherTried := true })
      (onBulk (fun z => { z with mem := [(stagingBase+1,3)], valid := [(regionOf stagingBase, true)] }) (ready))), by
      decide +kernel⟩,
    ⟨onCtrl (fun z => { z with stage := .rom }) (onFw (fun z =>
      { z with bootStep := 2, trying := 1, slotB := { version := 77, state := 1 } }) (ready)), by decide +kernel⟩,
    ⟨onCtrl (fun z => { z with stage := .init, running := 2, fallback := true }) (onTxPort 2 (fun z =>
      { z with tx := .on, len := true, classes := [3,3] }) (onRxPort 3 (fun z => { z with st := .track, light := true })
      (ready))), by decide +kernel⟩,
    ⟨onCtrl (fun z => { z with stage := .init }) (onTherm (fun z => { z with shut := true }) (ready)), by decide +kernel⟩,
    ⟨onCtrl (fun z => { z with stage := .init }) (onFw (fun z => { z with trying := 1 }) (ready)), by decide +kernel⟩,
    ⟨onCtrl (fun z => { z with perst := true, pcieUp := false }) (ready), by decide +kernel⟩⟩

theorem witness_ResetsAndPowerFail : (∃ low : Nat, ∃ s : State, 1020 ≤ low ∧ s.power.phase = .good) ∧ (∃ s : State,
    s.power.resetHeld = true ∧ s.power.phase = .good) ∧ (∃ s : State, s.ctrl.resetDue = true ∧ mailboxesWork s = true) ∧
    (∃ vin : Nat, ∃ s : State, s.power.phase = .good ∧ vin < 3300 ∧ s.log.frozen = false) ∧ (∃ vin : Nat, ∃ s : State,
    s.power.phase = .failPath ∧ vin < 3400) ∧ (∃ vin : Nat, 7800 ≤ vin) ∧ (∃ vin : Nat, ∃ s : State, s.power.switchOpen =
    true ∧ 3400 ≤ vin ∧ vin < 7600 ∧ s.power.phase = .off) ∧ (∃ vin : Nat, ∃ s : State, s.power.powered = true ∧ vinWarnOf
    vin s.power.vinWarn ≠ s.power.vinWarn) ∧ (∃ s : State, s.fw.warmDue = true ∧ mailboxesWork s = true ∧ s.ctrl.stage =
    .ready) ∧ (∃ s : State, s.ctrl.stage = .restart ∧ mailboxesWork s = true) ∧ (∃ mb : Nat, ∃ s : State, Accepted
    ⟨0x0211, some 4, [(1, 3)]⟩ mb s ∧ okPort (arg s mb 0 1) = true ∧ enabling s (arg s mb 0 1) = false ∧ portLit s (arg s
    mb 0 1) = false) ∧ (∃ mb : Nat, ∃ s : State, Accepted ⟨0x0211, some 4, [(1, 3)]⟩ mb s ∧ okPort (arg s mb 0 1) = true ∧
    enabling s (arg s mb 0 1) = false ∧ portLit s (arg s mb 0 1) = true) ∧ (∃ p : Nat, ∃ d : Deferred, ∃ s : State, okPort
    p = true ∧ findDeferred s 0x0211 p = some d ∧ portBack s p = true) :=
  ⟨⟨1020, ready, by decide +kernel⟩,
    ⟨onPower (fun z => { z with resetHeld := true }) (ready), by decide +kernel⟩,
    ⟨onCtrl (fun z => { z with resetDue := true }) (ready), by decide +kernel⟩,
    ⟨3299, ready, by decide +kernel⟩,
    ⟨3399, onPower (fun z => { z with phase := .failPath, powered := false, switchOpen := true }) (onFlt (fun z =>
      { z with unit := [(unitKey 1 300, { retired := true }), (unitKey 2 40, { retired := true }), (unitKey 4 5, { retired := true }), (unitKey 5 7, { retired := true }),(unitKey 5 9, { retired := true }), (unitKey 6 3, { retired := true }), (unitKey 8 3, { retired := true }), (unitKey 9 50, { retired := true }), (unitKey 10 2, { retired := true })] })
      (onTxPort 2 (fun z => { z with tx := .on, len := true, classes := [3,3] }) (onRxPort 3 (fun z =>
      { z with st := .track, light := true }) (ready)))), by decide +kernel⟩,
    ⟨7800, by decide +kernel⟩,
    ⟨7599, onPower (fun z => { z with phase := .off, switchOpen := true, powered := false }) (ready), by decide +kernel⟩,
    ⟨3599, onPower (fun z => { z with vinWarn := 0 }) (ready), by decide +kernel⟩,
    ⟨onFw (fun z => { z with warmDue := true }) (onCtrl (fun z => { z with restarts := 15 }) (onTxPort 2 (fun z =>
      { z with tx := .on, len := true, classes := [3,3] }) (onRxPort 3 (fun z => { z with st := .track, light := true })
      (ready)))), by decide +kernel⟩,
    ⟨onCtrl (fun z => { z with stage := .restart }) (onFw (fun z => { z with trying := 2 }) (onTxPort 2 (fun z =>
      { z with tx := .on, len := true, classes := [3,3] }) (onRxPort 3 (fun z => { z with st := .track, light := true })
      (ready)))), by decide +kernel⟩,
    ⟨0, mail 0x0211 (bs [(1, 2), (3, 0)]) 0 (ready), by decide +kernel⟩,
    ⟨0, mail 0x0211 (bs [(1, 2), (3, 0)]) 0 (onTxPort 2 (fun z => { z with tx := .on, len := true, classes := [3,3] })
      (onRxPort 3 (fun z => { z with st := .track, light := true }) (ready))), by decide +kernel⟩,
    ⟨2, (⟨0x211, 4, 2⟩ : Deferred), onCtrl (fun z => { z with deferred := [⟨0x211, 4, 2⟩] }) (onTxPort 2 (fun z =>
      { z with tx := .on, resetOn := true }) (ready)), by decide +kernel⟩⟩

theorem witness_GenerationStopsACommand : ∃ (c : Instr) (h : Shape) (mb : Nat) (s : State), requestFor c = some (h, mb) ∧
    okMb mb = true ∧ accepts h.op mb s = true ∧ stageGate (requestOf s mb) s = none ∧ h.fits (requestOf s mb) = true ∧
    roleGate (requestOf s mb) s = none ∧ (requestOf s mb).checkGen = true ∧ (requestOf s mb).gen ≠ (acceptGen s mb).toNat :=
    ⟨.sysQuiet 0 [], ⟨0x0103, some 4, [(1, 3)]⟩, 0, onCtrl (fun c =>
    { c with mail := [(0, natBE 2 0x0103 ++ natBE 2 7 ++ natBE 2 4 ++ [1, 0] ++ natBE 4 5 ++ zeros 4 ++ bs [(1, 1), (3, 0)] ++ zeros 236)], rung := [0] })
    ready, rfl, by decide +kernel⟩

theorem witness_I2cReachesTheMarkedBlocks : (∃ off : Nat, (¬(off < 0x0500 ∨ (0x0F00 ≤ off ∧ off < 0x1000)))) ∧ (∃ off :
    Nat, (¬(off < 0x0500 ∨ (0x0F00 ≤ off ∧ off < 0x1000))) ∧ okOffset off = true) ∧ (∃ off : Nat, ∃ s : State, (off <
    0x0500 ∨ (0x0F00 ≤ off ∧ off < 0x1000)) ∧ busWorks .i2c s = true ∧ busWorks .pcie s = true ∧ (off < 0x0410 ∨ 0x0420 ≤
    off)) ∧ (∃ off : Nat, ∃ s : State, off < 0x0500 ∧ okOffset off = true ∧ off ≠ 0x0200 ∧ off ≠ 0x0210 ∧ busWorks .i2c s =
    true ∧ busWorks .pcie s = true) ∧ (∃ addr off : Nat, ∃ s : State, addr < 128 ∧ addr ≠ i2cAddress s ∧ off < 65536) :=
  ⟨⟨0x500, by decide +kernel⟩,
    ⟨0x500, by decide +kernel⟩,
    ⟨3840, mail 0x0105 (bs [(4, 4660)]) 7 (ready), by decide +kernel⟩,
    ⟨0, onCtrl (fun z =>
      { z with intStatus := 0x12345678, intMask := 0x0F0F0F0F, intPin := 2, keyStaged := true, winSel := 3, mbBusy := 5, mbDone := 6, mbOverrun := 3, i2cOwns := true, cfgGen := 77 })
      (onTxPort 2 (fun z => { z with tx := .on, len := true, classes := [3,3] }) (onRxPort 3 (fun z =>
      { z with st := .track, light := true }) (ready))), by decide +kernel⟩,
    ⟨95, 0xFFFF, onPower (fun z => { z with addrPins := 6 }) ready, by decide +kernel⟩⟩

theorem witness_CommandsChangeOnlyTheirParts : ∃ (c : Instr) (s t : State) (p : Part), exec c s = .next t ∧ p ∉ mayChange
    c := ⟨.loscWarmupDone, ready, _, .bulk, rfl, by decide +kernel⟩

theorem witness_LineCommandsKeepOtherPorts : ∃ (c : Instr) (p : Nat) (s t : State), portOf s c = some p ∧ exec c s = .next
    t := ⟨.castingSlot 3 0, 3, ready, _, rfl, rfl⟩

theorem witness_MailboxCommandsLeaveTheRest : (∃ (c : Instr) (h : Shape) (mb : Nat) (s : State) (t : State),
    requestFor c = some (h, mb) ∧ cmdClass h.op = some .readOnly ∧ (∀ m, c = .labelCounters m → arg s m 4 1 ≠ 1) ∧ (∀ m, c
    ≠ .labelStats m) ∧ (∀ m, c = .logRead m → injArmed s 0x1E1 = false ∧ arg s m 0 1 ≠ 1 ∧ arg s m 0 1 ≠ 2) ∧ exec c s =
    .next t) ∧ (∃ (c : Instr) (h : Shape) (mb : Nat) (s : State) (t : State), ∃ m, requestFor c = some (h, mb) ∧ exec c s
    = .next t ∧ (∀ m, c ≠ .hostPortcfg m) ∧ (∀ m, c ≠ .hostEnable m) ∧ (∀ m, c ≠ .hostLowpower m) ∧ (∀ m, c ≠ .hostRetrain
    m) ∧ (∀ m, c ≠ .faultInject m) ∧ m ≠ mb) :=
  ⟨⟨.sysStatus 0, bareShape 0x0101, 0, mail 0x0101 [] 0 ready, _, rfl, by decide +kernel, by simp, by simp, by simp,
      rfl⟩,
    ⟨.sysStatus 0, bareShape 0x0101, 0, mail 0x0101 [] 0 ready, _, 5, rfl, rfl, by simp, by simp, by simp, by simp, by
      simp, by decide⟩⟩

theorem witness_OnlyStoresChangeBulkMemory : ∃ (s t : State), MemoryCanonical s ∧ exec (.bulkPartialWrite 100 [1, 2] 0) s
    = .next t := ⟨ready, _, by decide +kernel, rfl⟩

end Sys2Proof.Tests
end

section
/-! SUPPORT and PROOF of O6: what a write to a register of BAR0 leaves to be read, what a cleared interrupt status shows,
the message of a moderated vector, and the timecode captures (02_control_interface.md). -/

namespace Sys2Proof.Machine

/-! Bits of a mask. -/

theorem mem_maskList {w n k : Nat} : k ∈ maskList w n ↔ k < w ∧ n.testBit k = true := by
  simp [maskList, bitOf]

theorem mem_maskList_toNat {w k : Nat} (x : BitVec w) (hk : k < w) : k ∈ maskList w x.toNat ↔ bvBit x k = true := by
  simp [mem_maskList, hk, bvBit, BitVec.testBit_toNat]

theorem bvBit_bvSet {w k : Nat} (x : BitVec w) (v : Nat) (hk : k < w) :
    bvBit (bvSet x v) k = (decide (k = v) || bvBit x k) := by
  rw [bvBit, bvSet, BitVec.getLsbD_or, BitVec.getLsbD_ofNat, Nat.testBit_two_pow]
  simp [hk, bvBit, Bool.or_comm, eq_comm]

theorem bvBit_and_not {w k : Nat} (x y : BitVec w) (hk : k < w) :
    bvBit (x &&& ~~~y) k = (bvBit x k && !bvBit y k) := by
  simp [bvBit, hk]

/-! Raising vectors and sending messages (R68, R69/02). -/

@[simp] theorem sendMsix_ctrl (v : Nat) (s : State) : (sendMsix v s).ctrl = s.ctrl := rfl

@[simp] theorem raiseVector_intStatus (v : Nat) (s : State) :
    (raiseVector v s).ctrl.intStatus = bvSet s.ctrl.intStatus v := by
  cases h : isImmediate v <;> simp [raiseVector, h]

/-- Raising a list of vectors sets the bits of the list. -/
theorem bvBit_forAll_raiseVector (l : List Nat) (s : State) {k : Nat} (hk : k < 32) :
    bvBit (forAll raiseVector l s).ctrl.intStatus k = (decide (k ∈ l) || bvBit s.ctrl.intStatus k) := by
  induction l generalizing s with
  | nil => simp [forAll]
  | cons v l ih =>
    rw [forAll, ih, raiseVector_intStatus, bvBit_bvSet _ _ hk, Bool.eq_iff_iff]
    simp
    tauto

/-- A cause wins over the clearing of its bit in the same access (R71/02). -/
theorem intStatusClear_bit (val causes : Word) (s : State) {k : Nat} (hk : k < 32) :
    bvBit (intStatusClear val causes s).ctrl.intStatus k
      = (bvBit causes k || (bvBit s.ctrl.intStatus k && !bvBit val k)) := by
  rw [intStatusClear, bvBit_forAll_raiseVector _ _ hk, onCtrl_ctrl, bvBit_and_not _ _ hk]
  simp [mem_maskList_toNat causes hk]

theorem sendMsix_unmasked_msix {v : Nat} {s : State} (h : bvBit s.ctrl.intMask v = false) :
    tabGet 0 (sendMsix v s).ev.msix v = tabGet 0 s.ev.msix v + 1 := by simp [sendMsix, h]

@[simp] theorem sendMsix_modIdx_same (v : Nat) (s : State) : tabGet [] (sendMsix v s).ev.modIdx v = [] := by
  simp [sendMsix]

/-! Paths to the registers (R46, R47, R75/02). -/

theorem reaches_pcie (off : Nat) (s : State) : reaches .pcie off s = busWorks .pcie s := by simp [reaches]

theorem reaches_i2c_beyond {off : Nat} (h : i2cReaches off = false) (s : State) : reaches .i2c off s = false := by
  simp [reaches, h]

theorem i2cAddress_lt (s : State) : i2cAddress s < 128 := by
  unfold i2cAddress
  omega

theorem pathNum_injective : Function.Injective pathNum := by
  intro p q h
  cases p <;> cases q <;> simp_all [pathNum]

theorem okOffset_lt {off : Nat} (h : okOffset off = true) : off < 65536 ∧ off % 4 = 0 := by
  simpa [okOffset] using h

/-! A read of a small FIFO changes no register (R19/01). -/

section ReadSmall
variable (x : Small) (path : Path) (s : State)

@[simp] theorem readSmall_ctrl : (readSmall x s).ctrl = s.ctrl := rfl
@[simp] theorem readSmall_ev : (readSmall x s).ev = s.ev := rfl
@[simp] theorem readSmall_pair : (readSmall x s).pair = s.pair := rfl
theorem reaches_readSmall (off : Nat) : reaches path off (readSmall x s) = reaches path off s := rfl
theorem mailOf_readSmall (mb : Nat) : mailOf (readSmall x s) mb = mailOf s mb := rfl
theorem bootStatus_readSmall : bootStatus (readSmall x s) = bootStatus s := rfl
theorem captured_readSmall : captured path (readSmall x s) = captured path s := rfl
theorem litPorts_readSmall : litPorts (readSmall x s) = litPorts s := rfl
theorem hottest_readSmall : hottest (readSmall x s) = hottest s := rfl
theorem exactMargin_readSmall (u : Nat) : exactMargin (readSmall x s) u = exactMargin s u := rfl

theorem lowestOf_readSmall (us : List Nat) : lowestOf (readSmall x s) us = lowestOf s us := by
  induction us with
  | nil => rfl
  | cons u us ih => simp only [lowestOf, exactMargin_readSmall, ih]

theorem lowestMargin_readSmall : lowestMargin (readSmall x s) = lowestMargin s := by
  simp only [lowestMargin, lowestOf_readSmall]

@[simp] theorem bar0Read_readSmall (off : Nat) : bar0Read path off (readSmall x s) = bar0Read path off s := by
  simp only [bar0Read, reaches_readSmall, mailOf_readSmall, readSmall_ctrl, readSmall_ev, readSmall_pair,
    bootStatus_readSmall, litPorts_readSmall, captured_readSmall, lowestMargin_readSmall, hottest_readSmall]
end ReadSmall

/-! What each command of the register file leaves. -/

theorem exec_registerWrite_pcie {off : Nat} {s : State} (hoff : okOffset off = true) (hbus : busWorks .pcie s = true)
    (val : Word) :
    exec (.registerWrite (.pcie off val)) s = .next (readSmall .management (regWrite .pcie off val s)) := by
  change execRegisterWrite (.pcie off val) s = _
  simp [execRegisterWrite, okAccess, accessWrite, hoff, reaches_pcie, hbus]

/-- One word on the I2C path at an offset that this path does not reach is no write (R47/02). -/
theorem i2cWrite_beyond {addr off : Nat} {data : List Byte} (hoff : okOffset off = true) (hi : i2cReaches off = false)
    (hlen : data.length = 4) (s : State) : i2cWrite addr off data s = s := by
  obtain ⟨hlt, halign⟩ := okOffset_lt hoff
  have hone : (off % 4 + data.length + 3) / 4 = 1 := by omega
  have hword : 4 * (off / 4 + 0) % 65536 = off := by omega
  refine onlyIf_keeps (P := (· = s)) _ _ (fun _ => ?_) rfl
  rw [hone]
  simp only [List.range_one, forAll, hword, reaches_i2c_beyond hi, onlyIf_false]

theorem exec_registerWrite_i2c_beyond {off : Nat} (hoff : okOffset off = true) (hi : i2cReaches off = false)
    (val : Word) (s : State) : exec (.registerWrite (.i2c (i2cAddress s) off (natBE 4 val.toNat))) s = .next s := by
  change execRegisterWrite (.i2c (i2cAddress s) off (natBE 4 val.toNat)) s = _
  have hok : okAccess (.i2c (i2cAddress s) off (natBE 4 val.toNat)) = true := by
    simp [okAccess, i2cAddress_lt, (okOffset_lt hoff).1]
  simp only [execRegisterWrite, hok, need_true, accessWrite]
  rw [i2cWrite_beyond hoff hi (natBE_length ..)]

theorem exec_bar2Write {s : State} (hbus : busWorks .pcie s = true) (off : Nat) (val : Word) :
    exec (.bar2Write off val) s = .next (onCtrl (fun c => { c with winWrites := satAdd max32 c.winWrites 1 }) s) := by
  change execBar2Write off val s = _
  simp [execBar2Write, hbus]

theorem exec_intStatusClear {s : State} (hbox : mailboxesWork s = true) (val causes : Word) :
    exec (.intStatusClear val causes) s = .next (intStatusClear val causes s) := by
  change execIntStatusClear val causes s = _
  simp [execIntStatusClear, hbox]

theorem exec_msixModerationTimer {v : Nat} (hv : okVec v = true) (s : State) :
    exec (.msixModerationTimer v) s
      = .next (onlyIf (!isImmediate v && !(tabGet [] s.ev.modIdx v).isEmpty) (sendMsix v) s) := by
  change execMsixModerationTimer v s = _
  simp [execMsixModerationTimer, hv]

theorem exec_tcSecLoRead {path : Path} {s : State} (hbus : busWorks path s = true) :
    exec (.tcSecLoRead path) s
      = .next (onCtrl (fun c => { c with tcCap := tabSet 0 c.tcCap (pathNum path) (now s) }) s) := by
  change execTcSecLoRead path s = _
  simp [execTcSecLoRead, hbus]

/-! Writing a register and reading it back (R48, R70, R75/02). The hypothesis holds after the write as before it: no
register of these changes the power or the link. -/

section ReadBack
variable {path : Path} {val : Word} {s : State}

theorem bar0Read_intPin (h : reaches path 0x0108 s = true) : bar0Read path 0x0108 s = s.ctrl.intPin.setWidth 32 := by
  simp [bar0Read, h]

theorem bar0Read_mbDone (h : reaches path 0x0208 s = true) : bar0Read path 0x0208 s = s.ctrl.mbDone.setWidth 32 := by
  simp [bar0Read, h]

theorem bar0Read_mbOverrun (h : reaches path 0x020C s = true) :
    bar0Read path 0x020C s = s.ctrl.mbOverrun.setWidth 32 := by
  simp [bar0Read, h]

theorem bar0Read_evrBaseLo (h : reaches path 0x0300 s = true) : bar0Read path 0x0300 s = s.ev.baseLo := by
  simp [bar0Read, h]

theorem bar0Read_evrBaseHi (h : reaches path 0x0304 s = true) : bar0Read path 0x0304 s = s.ev.baseHi := by
  simp [bar0Read, h]

theorem bar0Read_evrLost (h : reaches path 0x0314 s = true) : bar0Read path 0x0314 s = BitVec.ofNat 32 s.ev.lost := by
  simp [bar0Read, h]

theorem bar0Read_evrMod (h : reaches path 0x0318 s = true) :
    bar0Read path 0x0318 s = BitVec.ofNat 32 (65536 * s.ev.holdUs + s.ev.count) := by
  simp [bar0Read, h]

theorem bar0Read_winSel (h : reaches path 0x0500 s = true) : bar0Read path 0x0500 s = s.ctrl.winSel := by
  simp [bar0Read, h]

theorem bar0Read_winWrites (h : reaches path 0x0504 s = true) :
    bar0Read path 0x0504 s = BitVec.ofNat 32 s.ctrl.winWrites := by
  simp [bar0Read, h]

/-- The two enable bits of the pins, seen as a word. -/
theorem setWidth_two_eq_and (x : Word) : (x.setWidth 2).setWidth 32 = x &&& 3 := by
  apply BitVec.eq_of_toNat_eq
  have hmask : x.toNat &&& 3 = x.toNat % 4 := Nat.and_two_pow_sub_one_eq_mod x.toNat 2
  simp [hmask]
  omega

/-- The bits of the mask of EVR_MOD: HOLD_US above, COUNT below (R63/02). -/
theorem evrModMask_bit {j : Nat} (hj : j < 32) :
    (0xFFFF0FFF : Word).getLsbD j = (decide (j < 12) || decide (16 ≤ j)) := by
  revert j
  decide

/-- HOLD_US and COUNT of a word, put together again, are the word without its reserved bits. -/
theorem evrMod_fields_eq_and (x : Word) :
    BitVec.ofNat 32 (65536 * (x.toNat / 65536) + x.toNat % 4096) = x &&& 0xFFFF0FFF := by
  apply BitVec.eq_of_getLsbD_eq
  intro j hj
  have hlow : x.toNat % 2 ^ 12 < 2 ^ 16 := by omega
  have hsum := Nat.testBit_two_pow_mul_add (x.toNat / 2 ^ 16) hlow j
  rw [BitVec.getLsbD_and, evrModMask_bit hj, BitVec.getLsbD_ofNat, show 65536 = 2 ^ 16 from rfl,
    show 4096 = 2 ^ 12 from rfl, hsum, Nat.testBit_mod_two_pow, Nat.testBit_div_two_pow, BitVec.testBit_toNat,
    BitVec.testBit_toNat]
  by_cases hlo : j < 16
  · simp [hj, hlo, not_le.mpr hlo, Bool.and_comm]
  · simp [hj, hlo, not_lt.mp hlo]

theorem setWidth_clear (x : BitVec 8) (v : Word) :
    (x &&& ~~~(v.setWidth 8)).setWidth 32 = x.setWidth 32 &&& ~~~v := by
  apply BitVec.eq_of_getLsbD_eq
  intro j hj
  by_cases h8 : j < 8
  · simp [hj, h8]
  · simp [hj, BitVec.getLsbD_of_ge _ _ (not_lt.mp h8)]

theorem ofNat_natClr (n : Nat) (v : Word) : BitVec.ofNat 32 (natClr n v) = BitVec.ofNat 32 n &&& ~~~v := by
  rw [natClr, BitVec.ofNat_toNat, BitVec.setWidth_eq]

theorem intPin_reads_back (h : reaches path 0x0108 s = true) :
    bar0Read path 0x0108 (regWrite path 0x0108 val s) = val &&& 3 :=
  (bar0Read_intPin (s := regWrite path 0x0108 val s) h).trans (setWidth_two_eq_and val)

theorem evrBaseLo_reads_back (h : reaches path 0x0300 s = true) :
    bar0Read path 0x0300 (regWrite path 0x0300 val s) = val &&& 0xFFFFF000 :=
  bar0Read_evrBaseLo (s := regWrite path 0x0300 val s) h

theorem evrBaseHi_reads_back (h : reaches path 0x0304 s = true) :
    bar0Read path 0x0304 (regWrite path 0x0304 val s) = val :=
  bar0Read_evrBaseHi (s := regWrite path 0x0304 val s) h

theorem evrMod_reads_back (h : reaches path 0x0318 s = true) :
    bar0Read path 0x0318 (regWrite path 0x0318 val s) = val &&& 0xFFFF0FFF :=
  (bar0Read_evrMod (s := regWrite path 0x0318 val s) h).trans (evrMod_fields_eq_and val)

theorem winSel_reads_back (h : reaches path 0x0500 s = true) :
    bar0Read path 0x0500 (regWrite path 0x0500 val s) = val :=
  bar0Read_winSel (s := regWrite path 0x0500 val s) h

/-- The registers whose bits a write of 1 clears: MB_DONE, MB_OVERRUN, EVR_LOST and WIN_WRITES (R11/00). -/
theorem written_ones_cleared {off : Nat} (hoff : off ∈ [0x0208, 0x020C, 0x0314, 0x0504])
    (h : reaches path off s = true) :
    bar0Read path off (regWrite path off val s) = bar0Read path off s &&& ~~~val := by
  simp only [List.mem_cons, List.not_mem_nil, or_false] at hoff
  rcases hoff with rfl | rfl | rfl | rfl
  · rw [bar0Read_mbDone h]
    exact (bar0Read_mbDone (s := regWrite path 0x0208 val s) h).trans (setWidth_clear ..)
  · rw [bar0Read_mbOverrun h]
    exact (bar0Read_mbOverrun (s := regWrite path 0x020C val s) h).trans (setWidth_clear ..)
  · rw [bar0Read_evrLost h]
    exact (bar0Read_evrLost (s := regWrite path 0x0314 val s) h).trans (ofNat_natClr ..)
  · rw [bar0Read_winWrites h]
    exact (bar0Read_winWrites (s := regWrite path 0x0504 val s) h).trans (ofNat_natClr ..)

/-- The read-only registers take no write (R11/00, R48/02). -/
theorem regWrite_readOnly {off : Nat}
    (hoff : off ∈ [0x0000, 0x0008, 0x000C, 0x0204, 0x030C, 0x0400, 0x0404, 0x0408, 0x1034, 0x2800]) :
    regWrite path off val s = s := by
  simp only [List.mem_cons, List.not_mem_nil, or_false] at hoff
  rcases hoff with rfl | rfl | rfl | rfl | rfl | rfl | rfl | rfl | rfl | rfl <;> rfl

end ReadBack
/-! The commands, clause by clause. -/

section Clauses
variable {s : State}

theorem runs_registerWrite_pcie {off : Nat} {val : Word} {P : State → Prop} (hoff : okOffset off = true)
    (hbus : busWorks .pcie s = true) (hP : P (readSmall .management (regWrite .pcie off val s))) :
    Runs (.registerWrite (.pcie off val)) s P :=
  ⟨_, exec_registerWrite_pcie hoff hbus val, hP⟩

/-- What reads back from a written register reads back after the command that writes it. -/
theorem runs_registerWrite_reads {off : Nat} {val w : Word} (hoff : okOffset off = true)
    (hbus : busWorks .pcie s = true)
    (h : reaches .pcie off s = true → bar0Read .pcie off (regWrite .pcie off val s) = w) :
    Runs (.registerWrite (.pcie off val)) s (fun t => bar0Read .pcie off t = w) :=
  runs_registerWrite_pcie hoff hbus ((bar0Read_readSmall ..).trans (h ((reaches_pcie off s).trans hbus)))

theorem runs_registerWrite_clears {off : Nat} (hoff : off ∈ [0x0208, 0x020C, 0x0314, 0x0504])
    (hbus : busWorks .pcie s = true) (val : Word) :
    Runs (.registerWrite (.pcie off val)) s (fun t => bar0Read .pcie off t = bar0Read .pcie off s &&& ~~~val) := by
  have hok : ∀ o ∈ [0x0208, 0x020C, 0x0314, 0x0504], okOffset o = true := by decide
  exact runs_registerWrite_reads (hok off hoff) hbus (written_ones_cleared hoff)

theorem runs_registerWrite_readOnly {off : Nat}
    (hoff : off ∈ [0x0000, 0x0008, 0x000C, 0x0204, 0x030C, 0x0400, 0x0404, 0x0408, 0x1034, 0x2800])
    (hbus : busWorks .pcie s = true) (val : Word) :
    Runs (.registerWrite (.pcie off val)) s (fun t => t = readSmall .management s) := by
  have hok : ∀ o ∈ [0x0000, 0x0008, 0x000C, 0x0204, 0x030C, 0x0400, 0x0404, 0x0408, 0x1034, 0x2800],
      okOffset o = true := by decide
  exact runs_registerWrite_pcie (hok off hoff) hbus (congrArg _ (regWrite_readOnly hoff))

theorem runs_bar2Write_counts (hbus : busWorks .pcie s = true) (b : Nat) (val : Word) :
    Runs (.bar2Write b val) s (fun t =>
      t = { s with ctrl := { s.ctrl with winWrites := min 0xFFFFFFFF (s.ctrl.winWrites + 1) } }) :=
  ⟨_, exec_bar2Write hbus b val, rfl⟩

theorem runs_intStatusClear (hbox : mailboxesWork s = true) (val causes : Word) :
    Runs (.intStatusClear val causes) s (fun t => ∀ k, k < 32 →
      bvBit t.ctrl.intStatus k = (bvBit causes k || (bvBit s.ctrl.intStatus k && !bvBit val k))) :=
  ⟨_, exec_intStatusClear hbox val causes, fun _ hk => intStatusClear_bit val causes s hk⟩

/-- The held message of an unmasked moderated vector goes out, and its count starts anew (R69/02). -/
theorem runs_msixModerationTimer_sends {v : Nat} (hv : okVec v = true) (hmod : isImmediate v = false)
    (hpending : tabGet [] s.ev.modIdx v ≠ []) (hmask : bvBit s.ctrl.intMask v = false) :
    Runs (.msixModerationTimer v) s (fun t =>
      tabGet 0 t.ev.msix v = tabGet 0 s.ev.msix v + 1 ∧ tabGet [] t.ev.modIdx v = []) := by
  refine ⟨_, exec_msixModerationTimer hv s, ?_⟩
  have hsends : (!isImmediate v && !(tabGet [] s.ev.modIdx v).isEmpty) = true := by simp [hmod, hpending]
  rw [hsends, onlyIf_true]
  exact ⟨sendMsix_unmasked_msix hmask, sendMsix_modIdx_same v s⟩

theorem exec_msixModerationTimer_immediate {v : Nat} (hv : okVec v = true) (himm : isImmediate v = true) (s : State) :
    exec (.msixModerationTimer v) s = .next s := by
  rw [exec_msixModerationTimer hv, himm, Bool.not_true, Bool.false_and, onlyIf_false]

theorem runs_tcSecLoRead_captures {path : Path} (hbus : busWorks path s = true) :
    Runs (.tcSecLoRead path) s (fun t => captured path t = now s ∧ ∀ q, q ≠ path → captured q t = captured q s) :=
  ⟨_, exec_tcSecLoRead hbus, tabGet_set_same .., fun _ hq => tabGet_set_other _ _ _ (pathNum_injective.ne hq)⟩

end Clauses

/-- Settles O6: each clause is the lemma about its command, the stored fields by what a read gives after a write. -/
theorem registerWritesReadBack : Obligations.RegisterWritesReadBack := by
  refine ⟨fun val b s => ⟨fun hbus => ⟨?intPin, ?baseLo, ?baseHi, ?evrMod, ?winSel, ?clears, ?readOnly⟩,
      fun off hoff hi => exec_registerWrite_i2c_beyond hoff hi val s, fun hbus => runs_bar2Write_counts hbus b val⟩,
    fun val causes s hbox => runs_intStatusClear hbox val causes,
    fun v s hv hmod hpending hmask => runs_msixModerationTimer_sends hv hmod hpending hmask,
    fun v s hv himm => exec_msixModerationTimer_immediate hv himm s,
    fun path s hbus => runs_tcSecLoRead_captures hbus⟩
  case intPin => exact runs_registerWrite_reads rfl hbus intPin_reads_back
  case baseLo => exact runs_registerWrite_reads rfl hbus evrBaseLo_reads_back
  case baseHi => exact runs_registerWrite_reads rfl hbus evrBaseHi_reads_back
  case evrMod => exact runs_registerWrite_reads rfl hbus evrMod_reads_back
  case winSel => exact runs_registerWrite_reads rfl hbus winSel_reads_back
  case clears => exact fun off hoff => runs_registerWrite_clears hoff hbus val
  case readOnly => exact fun off hoff => runs_registerWrite_readOnly hoff hbus val

end Sys2Proof.Machine
end

section
/-! PROOF of O57: it fails. A received packet that is delivered takes buffer cells for its egress queue (R294/09), and the
place of each is a free choice, so the count of the choices used moves on; the list of PACKET_RECEIVE leaves that count
out. -/

namespace Sys2Proof.Machine

/-- A module whose tributary 0 has received the header and the one byte of a packet of label 0. The label's entry in the
bulk memory is valid and bypasses the cipher, and the tributary's egress queue is that of host port 0. -/
def packetAtHand : State :=
  { State.reset with
    svc := { trib := [(0, { rxEn := true, egress := 0, pkt := some 256, stream := [(0, false)] })] }
    hport := [(0, { defined := true, width := 1 })]
    bulk := { mem := [(0, 0x80), (4, 4)], valid := [(0, true)] } }

/-- Its packet is delivered, into one buffer cell. -/
theorem packetAtHand_takes_a_cell : (packetReceive 0 packetAtHand).free = packetAtHand.free + 1 := by decide +kernel

/-- Refutes O57: PACKET_RECEIVE uses a free choice for a buffer cell, and `free` is not in its list. -/
theorem not_commandsChangeOnlyTheirParts : ¬ Obligations.CommandsChangeOnlyTheirParts := by
  unfold Obligations.CommandsChangeOnlyTheirParts
  intro h
  have kept : (packetReceive 0 packetAtHand).free = packetAtHand.free :=
    h (.packetReceive 0) packetAtHand _ rfl .free (by decide +kernel)
  rw [packetAtHand_takes_a_cell] at kept
  exact Nat.succ_ne_self _ kept

end Sys2Proof.Machine
end

section
/-! SUPPORT of O9, O10 and O47. What a change leaves alone, part by part: each named change of the state, and each
operation built from them, is not seen in a part outside its own. -/

namespace Sys2Proof.Machine

variable {q : Part} {s t u : State}

/-! Agreement in a part, across a change made outside it. -/

@[simp] theorem Part.same_self (q : Part) (s : State) : q.same s s := q.same_refl s

theorem Part.same_symm (h : q.same s t) : q.same t s := by cases q <;> exact Eq.symm h

/-- A change outside a part is not seen in it. -/
theorem same_iff_of_within {ps : List Part} (hq : q ∉ ps) (h : Within ps t u) : q.same s u ↔ q.same s t :=
  ⟨fun k => Part.same_trans k (Part.same_symm (h q hq)), fun k => Part.same_trans k (h q hq)⟩

@[simp] theorem same_ite {c : Prop} [Decidable c] :
    q.same s (if c then t else u) ↔ if c then q.same s t else q.same s u := by split <;> rfl

@[simp] theorem same_onlyIf (c : Bool) (f : State → State) :
    q.same s (onlyIf c f t) ↔ if c then q.same s (f t) else q.same s t := by cases c <;> rfl

@[simp] theorem same_forAll {α : Type} (f : α → State → State) (l : List α)
    (h : ∀ a u, q.same s (f a u) ↔ q.same s u) : q.same s (forAll f l t) ↔ q.same s t := by
  induction l generalizing t with
  | nil => rfl
  | cons a l ih => exact ih.trans (h a t)

/-! The named changes of the state (Laws/State.lean), each outside its own part. -/

@[simp] theorem same_onTxPort (k f) (h : q ∉ [Part.txp]) :
    q.same s (onTxPort k f t) ↔ q.same s t := by cases q <;> simp_all [Part.same]

@[simp] theorem same_onRxPort (k f) (h : q ∉ [Part.rxp]) :
    q.same s (onRxPort k f t) ↔ q.same s t := by cases q <;> simp_all [Part.same]

@[simp] theorem same_onRxSc (k f) (h : q ∉ [Part.rxs]) :
    q.same s (onRxSc k f t) ↔ q.same s t := by cases q <;> simp_all [Part.same]

@[simp] theorem same_onFecPort (k f) (h : q ∉ [Part.fecp]) :
    q.same s (onFecPort k f t) ↔ q.same s t := by cases q <;> simp_all [Part.same]

@[simp] theorem same_onRxFramer (k f) (h : q ∉ [Part.frame]) :
    q.same s (onRxFramer k f t) ↔ q.same s t := by cases q <;> simp_all [Part.same]

@[simp] theorem same_onHubPort (k f) (h : q ∉ [Part.hub]) :
    q.same s (onHubPort k f t) ↔ q.same s t := by cases q <;> simp_all [Part.same]

@[simp] theorem same_onLaneOf (k f) (h : q ∉ [Part.lane]) :
    q.same s (onLaneOf k f t) ↔ q.same s t := by cases q <;> simp_all [Part.same]

@[simp] theorem same_onTribOf (k f) (h : q ∉ [Part.svc]) :
    q.same s (onTribOf k f t) ↔ q.same s t :=
  same_iff_of_within h (within_onTribOf k f t)

@[simp] theorem same_onSlotOwner (k f) (h : q ∉ [Part.svc]) :
    q.same s (onSlotOwner k f t) ↔ q.same s t := by cases q <;> simp_all [Part.same]

@[simp] theorem same_onSandOf (k f) (h : q ∉ [Part.bulk]) :
    q.same s (onSandOf k f t) ↔ q.same s t :=
  same_iff_of_within h (within_onSandOf k f t)

@[simp] theorem same_onPaceUnit (k f) (h : q ∉ [Part.pace]) :
    q.same s (onPaceUnit k f t) ↔ q.same s t := by cases q <;> simp_all [Part.same]

@[simp] theorem same_onCoreOf (k f) (h : q ∉ [Part.flt]) :
    q.same s (onCoreOf k f t) ↔ q.same s t := by cases q <;> simp_all [Part.same]

@[simp] theorem same_onCtrl (f) (h : q ∉ [Part.ctrl]) :
    q.same s (onCtrl f t) ↔ q.same s t :=
  same_iff_of_within h (within_onCtrl f t)

@[simp] theorem same_onFw (f) (h : q ∉ [Part.fw]) :
    q.same s (onFw f t) ↔ q.same s t := by cases q <;> simp_all [Part.same]

@[simp] theorem same_onPower (f) (h : q ∉ [Part.power]) :
    q.same s (onPower f t) ↔ q.same s t := by cases q <;> simp_all [Part.same]

@[simp] theorem same_onSvc (f) (h : q ∉ [Part.svc]) :
    q.same s (onSvc f t) ↔ q.same s t := by cases q <;> simp_all [Part.same]

@[simp] theorem same_onBulk (f) (h : q ∉ [Part.bulk]) :
    q.same s (onBulk f t) ↔ q.same s t :=
  same_iff_of_within h (within_onBulk f t)

@[simp] theorem same_onTiming (f) (h : q ∉ [Part.timing]) :
    q.same s (onTiming f t) ↔ q.same s t := by cases q <;> simp_all [Part.same]

@[simp] theorem same_onCues (f) (h : q ∉ [Part.cues]) :
    q.same s (onCues f t) ↔ q.same s t :=
  same_iff_of_within h (within_onCues f t)

@[simp] theorem same_onPair (f) (h : q ∉ [Part.pair]) :
    q.same s (onPair f t) ↔ q.same s t :=
  same_iff_of_within h (within_onPair f t)

@[simp] theorem same_setCue (i c) (h : q ∉ [Part.cues]) :
    q.same s (setCue i c t) ↔ q.same s t :=
  same_iff_of_within h (within_setCue i c t)

@[simp] theorem same_useFree (h : q ∉ [Part.free]) :
    q.same s (useFree t) ↔ q.same s t := by cases q <;> simp_all [Part.same, useFree]

@[simp] theorem same_record (e) (h : q ∉ [Part.log]) :
    q.same s (record e t) ↔ q.same s t :=
  same_iff_of_within h (within_record e t)

/-! The operations built from them, each outside the parts it writes. -/

@[simp] theorem same_raise (code vector src tag data) (h : q ∉ [Part.ev, .log]) :
    q.same s (raise code vector src tag data t) ↔ q.same s t :=
  same_iff_of_within h (within_raise code vector src tag data t)

@[simp] theorem same_injAct (pt) (h : q ∉ [Part.ev, .flt, .log]) :
    q.same s (injAct pt t) ↔ q.same s t :=
  same_iff_of_within h (within_injAct pt t)

@[simp] theorem same_unitFault (typ idx) (h : q ∉ [Part.ev, .flt, .log]) :
    q.same s (unitFault typ idx t) ↔ q.same s t :=
  same_iff_of_within h (within_unitFault typ idx t)

@[simp] theorem same_uncorrectableWord (c addr) (h : q ∉ [Part.ev, .bulk, .flt, .log]) :
    q.same s (uncorrectableWord c addr t) ↔ q.same s t := by
  simp_all [uncorrectableWord]

@[simp] theorem same_mirror (r) (h : q ∉ [Part.pair]) :
    q.same s (mirror r t) ↔ q.same s t :=
  same_iff_of_within h (within_mirror r t)

@[simp] theorem same_commandDone (d c) (h : q ∉ [Part.ctrl, .ev, .pair, .log]) :
    q.same s (commandDone d c t) ↔ q.same s t := by
  simp_all [commandDone]

@[simp] theorem same_finishDeferred (op obj c) (h : q ∉ [Part.ctrl, .ev, .pair, .log]) :
    q.same s (finishDeferred op obj c t) ↔ q.same s t := by
  unfold finishDeferred
  split <;> simp_all

@[simp] theorem same_budgetCheck (h : q ∉ [Part.ev, .log]) :
    q.same s (budgetCheck t) ↔ q.same s t := by
  simp_all [budgetCheck]

@[simp] theorem same_clearCue (i) (h : q ∉ [Part.cues]) :
    q.same s (clearCue i t) ↔ q.same s t := by
  simp_all [clearCue]

@[simp] theorem same_placeCue (i c) (h : q ∉ [Part.cues]) :
    q.same s (placeCue i c t) ↔ q.same s t := by
  simp_all [placeCue, pulseArm]

@[simp] theorem same_shutTx (p st) (h : q ∉ [Part.free, .txp]) :
    q.same s (shutTx p st t) ↔ q.same s t := by
  simp_all [shutTx]

@[simp] theorem same_raisePort (code p data) (h : q ∉ [Part.ev, .log]) :
    q.same s (raisePort code p data t) ↔ q.same s t := by
  simp_all [raisePort]

@[simp] theorem same_finishEach (op obj c) (h : q ∉ [Part.ctrl, .ev, .pair, .log]) :
    q.same s (finishEach op obj c t) ↔ q.same s t := by
  simp_all [finishEach]

@[simp] theorem same_endJoin (p c) (h : q ∉ [Part.ctrl, .ev, .hub, .pair, .log]) :
    q.same s (endJoin p c t) ↔ q.same s t := by
  simp_all [endJoin]

@[simp] theorem same_zeroFec (p) (h : q ∉ [Part.ev, .fecp, .log]) :
    q.same s (zeroFec p t) ↔ q.same s t := by
  simp_all [zeroFec]

@[simp] theorem same_darkCheck (p) (h : q ∉ [Part.ev, .power, .fecp, .log]) :
    q.same s (darkCheck p t) ↔ q.same s t := by
  simp_all [darkCheck, railsOff]

@[simp] theorem same_closeTx (p) (h : q ∉ [Part.free, .ctrl, .ev, .power, .txp, .fecp, .hub, .pair, .log]) :
    q.same s (closeTx p t) ↔ q.same s t := by
  simp_all [closeTx]

@[simp] theorem same_raiseSc (code sc data) (h : q ∉ [Part.ev, .log]) :
    q.same s (raiseSc code sc data t) ↔ q.same s t := by
  simp_all [raiseSc]

@[simp] theorem same_unconverge (quiet sc) (h : q ∉ [Part.ev, .rxs, .log]) :
    q.same s (unconverge quiet sc t) ↔ q.same s t := by
  simp_all [unconverge]

@[simp] theorem same_stopSc (quiet sc) (h : q ∉ [Part.ev, .rxs, .log]) :
    q.same s (stopSc quiet sc t) ↔ q.same s t := by
  simp_all [stopSc]

@[simp] theorem same_onCd (p f) (h : q ∉ [Part.rxp]) :
    q.same s (onCd p f t) ↔ q.same s t := by
  simp_all [onCd]

@[simp] theorem same_freeCdCues (e) (h : q ∉ [Part.cues]) :
    q.same s (freeCdCues e t) ↔ q.same s t := by
  unfold freeCdCues
  dsimp only
  split <;> simp_all

@[simp] theorem same_endDissolve (p) (h : q ∉ [Part.ev, .rxp, .cues, .log]) :
    q.same s (endDissolve p t) ↔ q.same s t := by
  simp_all [endDissolve]

@[simp] theorem same_rehunt (sc) (h : q ∉ [Part.frame]) :
    q.same s (rehunt sc t) ↔ q.same s t := by
  simp_all [rehunt]

@[simp] theorem same_freezeGain (p) (h : q ∉ [Part.rxp]) :
    q.same s (freezeGain p t) ↔ q.same s t := by
  simp_all [freezeGain]

@[simp] theorem same_shutRx (p) (h : q ∉ [Part.ev, .rxp, .rxs, .frame, .cues, .log]) :
    q.same s (shutRx p t) ↔ q.same s t := by
  simp_all [shutRx]

@[simp] theorem same_closeRx (p) (h : q ∉ [Part.ctrl, .ev, .power, .rxp, .rxs, .fecp, .frame, .cues, .pair, .log]) :
    q.same s (closeRx p t) ↔ q.same s t := by
  simp_all [closeRx]

@[simp] theorem same_resyncSc (sc) (h : q ∉ [Part.ev, .rxs, .frame, .log]) :
    q.same s (resyncSc sc t) ↔ q.same s t := by
  simp_all [resyncSc]

@[simp] theorem same_setCap (p k) (h : q ∉ [Part.ev, .fecp, .log]) :
    q.same s (setCap p k t) ↔ q.same s t := by
  simp_all [setCap]

@[simp] theorem same_rearmUnit (n) (h : q ∉ [Part.pace]) :
    q.same s (rearmUnit n t) ↔ q.same s t := by
  unfold rearmUnit
  split <;> simp_all

@[simp] theorem same_paceEvent (v ev n) (h : q ∉ [Part.pace]) :
    q.same s (paceEvent v ev n t) ↔ q.same s t := by
  simp_all [paceEvent]

@[simp] theorem same_startResync (h : q ∉ [Part.svc, .pair]) :
    q.same s (startResync t) ↔ q.same s t :=
  same_iff_of_within h (within_startResync t)

@[simp] theorem same_reserve (x) (h : q ∉ [Part.bulk]) :
    q.same s (reserve x t) ↔ q.same s t := by
  simp_all [reserve]

@[simp] theorem same_discardQueues (x) (h : q ∉ [Part.svc]) :
    q.same s (discardQueues x t) ↔ q.same s t := by
  simp_all [discardQueues, freeQueued]

@[simp] theorem same_installMap (m) (h : q ∉ [Part.ev, .svc, .bulk, .pair, .log]) :
    q.same s (installMap m t) ↔ q.same s t := by
  simp_all [installMap, lostCapacity, cutPacket]

@[simp] theorem same_removeSlots (scs) (h : q ∉ [Part.ev, .svc, .bulk, .pair, .log]) :
    q.same s (removeSlots scs t) ↔ q.same s t := by
  simp_all [removeSlots]

theorem same_placeCommit {b tag o} (e : placeCommit b tag o t = some u) (h : q ∉ [Part.svc, .cues]) :
    q.same s u ↔ q.same s t := by
  revert e
  unfold placeCommit
  dsimp only
  split
  · simp
  · rintro ⟨⟩
    split <;> simp_all

@[simp] theorem same_placeCommit_getD (b tag o) (h : q ∉ [Part.svc, .cues]) :
    q.same s ((placeCommit b tag o t).getD u)
      ↔ if (placeCommit b tag o t).isSome then q.same s t else q.same s u := by
  cases e : placeCommit b tag o t with
  | none => rfl
  | some v => exact same_placeCommit e h

@[simp] theorem same_leaveStep (h : q ∉ [Part.svc, .pair]) :
    q.same s (leaveStep t) ↔ q.same s t := by
  simp_all [leaveStep]

@[simp] theorem same_actIf (pt) (h : q ∉ [Part.ev, .flt, .log]) :
    q.same s (actIf pt t) ↔ q.same s t := by
  simp_all [actIf]

@[simp] theorem same_paceFault (crossing obj n) (h : q ∉ [Part.ev, .pace, .log]) :
    q.same s (paceFault crossing obj n t) ↔ q.same s t := by
  simp_all [paceFault]

@[simp] theorem same_setRates (ach) (h : q ∉ [Part.pace]) : q.same s (setRates ach t) ↔ q.same s t :=
  same_forAll _ _ fun p u => by cases ach[p]? <;> simp_all

@[simp] theorem same_railStep (h : q ∉ [Part.power]) :
    q.same s (railStep t) ↔ q.same s t := by
  simp_all [railStep]

@[simp] theorem same_tightCheck (h : q ∉ [Part.ev, .power, .log]) :
    q.same s (tightCheck t) ↔ q.same s t := by
  unfold tightCheck
  split <;> simp_all

@[simp] theorem same_setLosc (lost) (h : q ∉ [Part.ev, .timing, .log]) :
    q.same s (setLosc lost t) ↔ q.same s t := by
  simp_all [setLosc]

@[simp] theorem same_freezeLog (cause) (h : q ∉ [Part.ev, .therm, .log]) :
    q.same s (freezeLog cause t) ↔ q.same s t :=
  same_iff_of_within h (within_freezeLog cause t)

@[simp] theorem same_pairLanes (st) (h : q ∉ [Part.lane]) :
    q.same s (pairLanes st t) ↔ q.same s t := by
  simp_all [pairLanes]

@[simp] theorem same_pairDown (h : q ∉ [Part.ev, .lane, .pair, .log]) :
    q.same s (pairDown t) ↔ q.same s t := by
  simp_all [pairDown]

@[simp] theorem same_stageSlots (d sc x n) (h : q ∉ [Part.svc]) :
    q.same s (stageSlots d sc x n t).2 ↔ q.same s t := by
  unfold stageSlots
  dsimp only
  split <;> simp_all

@[simp] theorem same_stageLost (sc l r) (h : q ∉ [Part.svc]) :
    q.same s (stageLost sc l r t).2 ↔ q.same s t := by
  induction l generalizing r t with
  | nil => rfl
  | cons a l ih => exact (ih _).trans (same_stageSlots _ _ _ _ h)

@[simp] theorem same_commitFill (h : q ∉ [Part.svc, .cues]) :
    q.same s (commitFill t) ↔ q.same s t := by
  unfold commitFill
  split <;> simp_all

@[simp] theorem same_fillSlots (sc ls) (h : q ∉ [Part.svc, .cues]) :
    q.same s (fillSlots sc ls t).2 ↔ q.same s t := by
  unfold fillSlots
  split <;> simp_all

@[simp] theorem same_callWarm (h : q ∉ [Part.fw]) :
    q.same s (callWarm t) ↔ q.same s t := by
  simp_all [callWarm]

@[simp] theorem same_coreEvent (c ev) (h : q ∉ [Part.flt]) :
    q.same s (coreEvent c ev t) ↔ q.same s t := by
  simp_all [coreEvent]

@[simp] theorem same_coreTrap (c cause pc addr task) (h : q ∉ [Part.ev, .flt, .log]) :
    q.same s (coreTrap c cause pc addr task t) ↔ q.same s t := by
  simp_all [coreTrap]

@[simp] theorem same_endEffect (pt arg) (h : q ∉ [Part.ev, .pace, .timing, .log]) :
    q.same s (endEffect pt arg t) ↔ q.same s t := by
  unfold endEffect
  split <;> simp_all

/-! What the accessors of a unit read, across a change that leaves their part alone. -/

theorem unitRec_congr (h : Part.flt.same s t) (k : Nat) : unitRec t k = unitRec s k := by
  simp only [unitRec, show t.flt = s.flt from h]

theorem isRetired_of_unit (h : t.flt.unit = s.flt.unit) (typ idx : Nat) :
    isRetired t typ idx = isRetired s typ idx := by
  simp only [isRetired, unitRec, h]

theorem isRetired_congr (h : Part.flt.same s t) (typ idx : Nat) : isRetired t typ idx = isRetired s typ idx := by
  simp only [isRetired, unitRec_congr h]

theorem txPort_congr (h : Part.txp.same s t) (p : Nat) : txPort t p = txPort s p := by
  simp only [txPort, show t.txp = s.txp from h]

theorem rxPort_congr (h : Part.rxp.same s t) (p : Nat) : rxPort t p = rxPort s p := by
  simp only [rxPort, show t.rxp = s.rxp from h]

theorem rxSc_congr (h : Part.rxs.same s t) (sc : Nat) : rxSc t sc = rxSc s sc := by
  simp only [rxSc, show t.rxs = s.rxs from h]

theorem laneOf_congr (h : Part.lane.same s t) (l : Nat) : laneOf t l = laneOf s l := by
  simp only [laneOf, show t.lane = s.lane from h]

theorem logged_congr {code src : Nat} {data : List Byte} (h : t.log = s.log) :
    Logged code src data t ↔ Logged code src data s := by simp only [Logged, h]

theorem paceUnit_congr (h : Part.pace.same s t) (u : Nat) : paceUnit t u = paceUnit s u := by
  simp only [paceUnit, show t.pace = s.pace from h]

/-- The parts that a unit's required rate is computed from (R28/01). -/
def rateParts : List Part := [.txp, .rxp, .rxs, .hub, .lane, .cipher, .bulk]

theorem requiredUnits_congr (h : ∀ q ∈ rateParts, q.same s t) (u : Nat) :
    requiredUnits t u = requiredUnits s u := by
  simp only [rateParts, List.forall_mem_cons, List.not_mem_nil, IsEmpty.forall_iff, implies_true, and_true,
    Part.same] at h
  cases s; cases t
  obtain ⟨rfl, rfl, rfl, rfl, rfl, rfl, rfl⟩ := h
  rfl

end Sys2Proof.Machine
end

section
/-! SUPPORT and PROOF of O10: the lowest margin, the step of the rail that follows it, and a unit whose margin is low. -/

namespace Sys2Proof.Machine

variable {q : Part} {s t u : State}

theorem exactMargin_congr (h : ∀ q ∈ Part.pace :: .fecp :: rateParts, q.same s t) (u : Nat) :
    exactMargin t u = exactMargin s u := by
  simp only [List.forall_mem_cons, Part.same] at h
  obtain ⟨hpace, hfecp, hrate⟩ := h
  simp only [exactMargin, tokenCost, paceUnit, fecPort, requiredUnits_congr hrate, hpace, hfecp]

theorem exactMargin_den_pos {m : Int × Nat} {u : Nat} (h : exactMargin s u = some m) : 0 < m.2 := by
  have hcost : 0 < tokenCost s u := by unfold tokenCost; split <;> omega
  unfold exactMargin at h
  split at h
  case isTrue => cases h
  case isFalse hreq =>
    split at h
    case h_1 => cases h; exact Nat.one_pos
    case h_2 =>
      obtain ⟨a, -, rfl⟩ := Option.map_eq_some_iff.1 h
      exact Nat.mul_pos (Nat.pos_of_ne_zero hreq) hcost

/-- Quotients of positive denominators are ordered transitively. -/
theorem quotient_le_trans {a b c : Int × Nat} (hb : 0 < b.2) (hab : a.1 * (b.2 : Int) ≤ b.1 * (a.2 : Int))
    (hbc : b.1 * (c.2 : Int) ≤ c.1 * (b.2 : Int)) : a.1 * (c.2 : Int) ≤ c.1 * (a.2 : Int) := by
  have hb' : (0 : Int) < b.2 := by exact_mod_cast hb
  refine le_of_mul_le_mul_right ?_ hb'
  calc a.1 * (c.2 : Int) * b.2 = a.1 * (b.2 : Int) * c.2 := by ring
    _ ≤ b.1 * (a.2 : Int) * c.2 := by gcongr
    _ = b.1 * (c.2 : Int) * a.2 := by ring
    _ ≤ c.1 * (b.2 : Int) * a.2 := by gcongr
    _ = c.1 * (a.2 : Int) * b.2 := by ring

theorem lowestOf_mem {us : List Nat} {v : Nat} {n : Int × Nat} (h : lowestOf s us = some (v, n)) :
    v ∈ us ∧ exactMargin s v = some n := by
  induction us generalizing v n with
  | nil => cases h
  | cons u us ih =>
    unfold lowestOf at h
    split at h
    case h_1 =>
      obtain ⟨hv, hn⟩ := ih h
      exact ⟨List.mem_cons_of_mem _ hv, hn⟩
    case h_2 m hm _ => cases h; exact ⟨List.mem_cons_self, hm⟩
    case h_3 m w k hm hk =>
      split at h
      · cases h
        obtain ⟨hv, hn⟩ := ih hk
        exact ⟨List.mem_cons_of_mem _ hv, hn⟩
      · cases h; exact ⟨List.mem_cons_self, hm⟩

theorem lowestOf_eq_none {us : List Nat} (h : lowestOf s us = none) : ∀ u ∈ us, exactMargin s u = none := by
  induction us with
  | nil => simp
  | cons u us ih =>
    unfold lowestOf at h
    split at h
    case h_1 hu => simpa [hu] using ih h
    case h_2 => cases h
    case h_3 => split at h <;> cases h

/-- The lowest margin lies at or below that of each unit, as quotients. -/
theorem lowestOf_le {us : List Nat} {v u : Nat} {n m : Int × Nat} (h : lowestOf s us = some (v, n)) (hu : u ∈ us)
    (hm : exactMargin s u = some m) : n.1 * (m.2 : Int) ≤ m.1 * (n.2 : Int) := by
  induction us generalizing v n with
  | nil => cases hu
  | cons x us ih =>
    unfold lowestOf at h
    rcases List.mem_cons.1 hu with rfl | hu
    · split at h <;> simp_all
      split at h <;> simp_all
      omega
    · split at h
      case h_1 => exact ih h hu
      case h_2 hk => simp [lowestOf_eq_none hk u hu] at hm
      case h_3 k w l hk hl =>
        have hle := ih hl hu
        split at h
        · cases h; exact hle
        · cases h
          exact quotient_le_trans (exactMargin_den_pos (lowestOf_mem hl).2) (by omega) hle

/-! The rail (R29, R464). -/

/-- A quotient at or below one that lies below a limit lies below it too. -/
theorem marginBelow_of_le {m n : Int × Nat} {k : Int} (hn : 0 < n.2) (hm : 0 < m.2)
    (hle : n.1 * (m.2 : Int) ≤ m.1 * (n.2 : Int)) (h : marginBelow m k = true) : marginBelow n k = true := by
  simp only [marginBelow, decide_eq_true_eq] at h ⊢
  have hm' : (0 : Int) < m.2 := by exact_mod_cast hm
  have hn' : (0 : Int) < n.2 := by exact_mod_cast hn
  nlinarith

theorem not_below_of_above {m : Int × Nat} (hm : 0 < m.2) (h : marginAbove m 200 = true) :
    marginBelow m 120 = false := by
  simp only [marginBelow, marginAbove, decide_eq_true_eq, decide_eq_false_iff_not] at h ⊢
  have hm' : (0 : Int) < m.2 := by exact_mod_cast hm
  omega

theorem marginAbove_of_le {m n : Int × Nat} {k : Int} (hn : 0 < n.2) (hm : 0 < m.2)
    (hle : n.1 * (m.2 : Int) ≤ m.1 * (n.2 : Int)) (h : marginAbove n k = true) : marginAbove m k = true := by
  simp only [marginAbove, decide_eq_true_eq] at h ⊢
  have hm' : (0 : Int) < m.2 := by exact_mod_cast hm
  have hn' : (0 : Int) < n.2 := by exact_mod_cast hn
  nlinarith

theorem datapathIdle_congr (h : ∀ q ∈ rateParts, q.same s t) : datapathIdle t = datapathIdle s := by
  simp only [datapathIdle, requiredUnits_congr h]

theorem tightCheck_rail :
    (tightCheck s).power.rail = s.power.rail ∧ (tightCheck s).power.highTicks = s.power.highTicks := by
  unfold tightCheck
  split
  · exact ⟨rfl, rfl⟩
  · dsimp only
    unfold onlyIf
    split <;> exact ⟨rfl, rfl⟩

/-- The achievable rates as taken, before the rail's comparison. -/
theorem railTick_governed {ach : List Nat} (h : railGoverned s = true) :
    railTick ach s = tightCheck (railStep (rearmLow (setRates ach s))) := by
  simp [railTick, h]

theorem same_rearmLow_setRates (ach : List Nat) (h : q ∉ [Part.pace]) :
    q.same s (rearmLow (setRates ach t)) ↔ q.same s t := by
  simp_all [rearmLow]

theorem exactMargin_comparison (u : Nat) : exactMargin (tightCheck (railStep s)) u = exactMargin s u :=
  exactMargin_congr (by simp [rateParts]) u

section Busy
variable (hidle : datapathIdle s = false)
include hidle

theorem railFloor_busy : railFloor s = 620 := by simp [railFloor, hidle]

theorem railMargin_busy : railMargin s = (lowestOf s (List.range 48)).map (·.2) := by
  simp [railMargin, governing, hidle]

/-- A unit's margin below a limit lowers the margin that the rail follows below it. -/
theorem railMargin_le {u : Nat} {m : Int × Nat} (hu : u < 48) (hm : exactMargin s u = some m) :
    ∃ n, railMargin s = some n ∧ 0 < m.2 ∧ 0 < n.2 ∧ n.1 * (m.2 : Int) ≤ m.1 * (n.2 : Int) := by
  rw [railMargin_busy hidle]
  cases hl : lowestOf s (List.range 48) with
  | none => simp [lowestOf_eq_none hl u (List.mem_range.2 hu)] at hm
  | some l => exact ⟨l.2, rfl, exactMargin_den_pos hm, exactMargin_den_pos (lowestOf_mem hl).2,
      lowestOf_le hl (List.mem_range.2 hu) hm⟩

theorem railMargin_unit {n : Int × Nat} (h : railMargin s = some n) : ∃ u, u < 48 ∧ exactMargin s u = some n := by
  rw [railMargin_busy hidle] at h
  obtain ⟨l, hl, rfl⟩ := Option.map_eq_some_iff.1 h
  exact ⟨l.1, List.mem_range.1 (lowestOf_mem hl).1, (lowestOf_mem hl).2⟩

theorem railStep_rises (hlow : ∃ u m, u < 48 ∧ exactMargin s u = some m ∧ marginBelow m 120 = true) :
    (railStep s).power.rail = min 820 (s.power.rail + 5) ∧ (railStep s).power.highTicks = 0 := by
  obtain ⟨u, m, hu, hm, hbelow⟩ := hlow
  obtain ⟨n, hn, hmpos, hnpos, hle⟩ := railMargin_le hidle hu hm
  have hrises : railRises s = true := by
    have : marginBelow n 120 = true := marginBelow_of_le hnpos hmpos hle hbelow
    simp [railRises, hn, this]
  simp [railStep, hrises]

/-- With every measured margin above 20 % the rail falls once 1 ms has been counted (R29). -/
theorem railStep_falls (hsome : ∃ u m, u < 48 ∧ exactMargin s u = some m)
    (hall : ∀ u m, u < 48 → exactMargin s u = some m → marginAbove m 200 = true) (hrail : 620 < s.power.rail) :
    (100 ≤ s.power.highTicks → (railStep s).power.rail = s.power.rail - 5 ∧ (railStep s).power.highTicks = 1)
      ∧ (s.power.highTicks < 100 → (railStep s).power.rail = s.power.rail
        ∧ (railStep s).power.highTicks = s.power.highTicks + 1) := by
  obtain ⟨u, m, hu, hm⟩ := hsome
  obtain ⟨n, hn, -, hnpos, -⟩ := railMargin_le hidle hu hm
  obtain ⟨v, hv, hvn⟩ := railMargin_unit hidle hn
  have habove : marginAbove n 200 = true := hall v n hv hvn
  have hrises : railRises s = false := by
    have : marginBelow n 120 = false := not_below_of_above hnpos habove
    simp [railRises, hn, this, railFloor_busy hidle, hrail.le]
  have hfall : railMayFall s = true := by simp [railMayFall, hn, habove]
  constructor <;> intro hticks
  · simp [railStep, hrises, hfall, hticks, railFloor_busy hidle, hrail]
  · simp [railStep, hrises, hfall, hticks, hticks.not_ge]

theorem railStep_stays (hfloor : 620 ≤ s.power.rail)
    (hnone : ∀ u m, u < 48 → exactMargin s u = some m → marginBelow m 120 = false)
    (hsome : ∃ u m, u < 48 ∧ exactMargin s u = some m ∧ marginAbove m 200 = false) :
    (railStep s).power.rail = s.power.rail ∧ (railStep s).power.highTicks = 0 := by
  obtain ⟨u, m, hu, hm, hnot⟩ := hsome
  obtain ⟨n, hn, hmpos, hnpos, hle⟩ := railMargin_le hidle hu hm
  obtain ⟨v, hv, hvn⟩ := railMargin_unit hidle hn
  have hrises : railRises s = false := by simp [railRises, hn, hnone v n hv hvn, railFloor_busy hidle, hfloor]
  have hfall : railMayFall s = false := by
    have : marginAbove n 200 = false := by
      cases h : marginAbove n 200 with
      | false => rfl
      | true => rw [marginAbove_of_le hnpos hmpos hle h] at hnot; cases hnot
    simp [railMayFall, hidle, hn, this]
  simp [railStep, hrises, hfall]

end Busy

theorem exec_coreRailTick (ach : List Nat) (s : State) : exec (.coreRailTick ach) s = .next (railTick ach s) := rfl

theorem exactMargin_railTick {ach : List Nat} (h : railGoverned s = true) (u : Nat) :
    exactMargin (railTick ach s) u = exactMargin (rearmLow (setRates ach s)) u := by
  rw [railTick_governed h, exactMargin_comparison]

theorem power_rearmLow_setRates (ach : List Nat) : (rearmLow (setRates ach s)).power = s.power :=
  (same_rearmLow_setRates (q := .power) (s := s) ach (by simp)).2 rfl

/-! A unit below 3 % (R31). -/

theorem forAll_onlyIf_eq {l : List Nat} (f : Nat → State → State) (u : Nat) (hl : l.Nodup) (hu : u ∈ l)
    (s : State) : forAll (fun v => onlyIf (u == v) (f v)) l s = f u s := by
  have hskip : ∀ (l : List Nat) (s : State), u ∉ l → forAll (fun v => onlyIf (u == v) (f v)) l s = s := by
    intro l
    induction l with
    | nil => intros; rfl
    | cons v l ih =>
      intro s h
      obtain ⟨hne, h⟩ := not_or.1 (mt List.mem_cons.2 h)
      rw [forAll, beq_eq_false_iff_ne.2 hne, onlyIf_false, ih _ h]
  induction l generalizing s with
  | nil => cases hu
  | cons v l ih =>
    obtain ⟨hv, hl⟩ := List.nodup_cons.1 hl
    rw [forAll]
    by_cases h : u = v
    · subst h
      rw [beq_self_eq_true, onlyIf_true, hskip _ _ hv]
    · rw [beq_eq_false_iff_ne.2 h, onlyIf_false]
      exact ih hl ((List.mem_cons.1 hu).resolve_left h) s

theorem exec_paceMarginLow_single {u : Nat} (hu : okUnit u = true) (ach : Nat) (s : State) :
    exec (.paceMarginLow [(u, ach)]) s = .next (lowUnit u (onPaceUnit u (fun x => { x with ach := some ach }) s)) := by
  have hmem : u ∈ List.range 48 := List.mem_range.2 (by simpa [okUnit] using hu)
  have hlow : marginLow [(u, ach)] s = lowUnit u (onPaceUnit u (fun x => { x with ach := some ach }) s) := by
    simp only [marginLow, forAll, List.any_cons, List.any_nil, Bool.or_false]
    exact forAll_onlyIf_eq lowUnit u List.nodup_range hmem _
  change execPaceMarginLow [(u, ach)] s = _
  simp [execPaceMarginLow, hu, hlow]


@[simp] theorem same_lowerCap (p) (h : q ∉ [Part.ev, .fecp, .log]) : q.same s (lowerCap p t) ↔ q.same s t := by
  simp_all [lowerCap]

/-- The unit's own record but for its arming is kept. -/
theorem paceLow_ach (u : Nat) (m : Int × Nat) (s : State) : (paceUnit (paceLow u m s) u).ach = (paceUnit s u).ach := by
  have hp : Part.pace.same s (onlyIf (paceUnit s u).lowArmed
    (raise 0x0E11 12 u 0 (intBE 2 (marginField (shownMargin m)) ++ [byteOf (capOf s u)])) s) := by simp
  have hach := congrArg PaceUnit.ach (paceUnit_congr hp u)
  rw [paceLow, paceUnit_same]
  exact hach

theorem paceLow_disarms (u : Nat) (m : Int × Nat) (s : State) : (paceUnit (paceLow u m s) u).lowArmed = false := by
  rw [paceLow, paceUnit_same]

theorem paceLow_logged {u : Nat} {s : State} (m : Int × Nat) (h : (paceUnit s u).lowArmed = true) :
    Logged 0x0E11 u (intBE 2 (marginField (shownMargin m)) ++ [byteOf (capOf (paceLow u m s) u)]) (paceLow u m s) := by
  have hcap : capOf (paceLow u m s) u = capOf s u := by
    have : Part.fecp.same s (paceLow u m s) := by simp [paceLow]
    simp only [capOf, fecPort, show (paceLow u m s).fecp = s.fecp from this]
  rw [hcap, paceLow, h, onlyIf_true]
  exact (logged_congr (onPaceUnit_log ..)).2 (logged_raise ..)

section LowUnit
variable {u : Nat} {m : Int × Nat} (hm : exactMargin s u = some m)
include hm

/-- Below 3 % the cap of the unit's decoders falls first, then PACE_LOW acts (R31). -/
theorem lowUnit_low (h : marginBelow m 30 = true) :
    ∃ t, Part.pace.same s t ∧ lowUnit u s = paceLow u m t :=
  ⟨onlyIf (decide (u < 36) && decide (u % 6 = 2)) (lowerCap (u / 6)) s, by simp, by simp [lowUnit, hm, h]⟩

theorem lowUnit_high (h : marginBelow m 30 = false) :
    lowUnit u s = onlyIf (!marginBelow m 60) (onPaceUnit u (fun x => { x with lowArmed := true })) s := by
  simp [lowUnit, rearmUnit, hm, h]

theorem lowUnit_ach : (paceUnit (lowUnit u s) u).ach = (paceUnit s u).ach := by
  cases h : marginBelow m 30 with
  | true =>
    obtain ⟨t, ht, e⟩ := lowUnit_low hm h
    rw [e, paceLow_ach, paceUnit_congr ht]
  | false => cases h60 : marginBelow m 60 <;> simp [lowUnit_high hm h, h60]

theorem lowUnit_raises (h : marginBelow m 30 = true) :
    (paceUnit (lowUnit u s) u).lowArmed = false ∧ ((paceUnit s u).lowArmed = true →
      Logged 0x0E11 u (intBE 2 (marginField (shownMargin m)) ++ [byteOf (capOf (lowUnit u s) u)]) (lowUnit u s)) := by
  obtain ⟨t, ht, e⟩ := lowUnit_low hm h
  rw [e, ← paceUnit_congr ht]
  exact ⟨paceLow_disarms .., paceLow_logged m⟩

theorem lowUnit_rearms (h : marginBelow m 60 = false) : (paceUnit (lowUnit u s) u).lowArmed = true := by
  have h30 : marginBelow m 30 = false := by
    simp only [marginBelow, decide_eq_false_iff_not] at h ⊢
    omega
  simp [lowUnit_high hm h30, h]
end LowUnit

/-- Settles O10: the rail's clauses by the lowest margin, the unit's by its branch of `lowUnit`. -/
theorem coreRailFollowsMargins : Obligations.CoreRailFollowsMargins := by
  refine ⟨fun ach s => ⟨fun h => ?idle, fun h hbusy hfloor => ?busy⟩, fun u ach s hu => ?low⟩
  case idle =>
    refine ⟨_, exec_coreRailTick ach s, ?_⟩
    simp [railTick, h, power_rearmLow_setRates]
  case busy =>
    refine ⟨_, exec_coreRailTick ach s, ?_⟩
    simp only [exactMargin_railTick h]
    rw [railTick_governed h, tightCheck_rail.1, tightCheck_rail.2, ← power_rearmLow_setRates (s := s) ach]
    rw [← power_rearmLow_setRates (s := s) ach] at hfloor
    have hidle : datapathIdle (rearmLow (setRates ach s)) = false :=
      (datapathIdle_congr (by simp [rateParts, same_rearmLow_setRates])).trans hbusy
    exact ⟨railStep_rises hidle, railStep_falls hidle, railStep_stays hidle hfloor⟩
  case low =>
    refine ⟨_, exec_paceMarginLow_single hu ach s, ?_, fun m hm => ⟨fun h => ?_, lowUnit_rearms hm⟩⟩
    · cases hm : exactMargin (onPaceUnit u (fun x => { x with ach := some ach }) s) u with
      | none => simp [lowUnit, hm]
      | some m => simp [lowUnit_ach hm]
    · obtain ⟨hoff, hlog⟩ := lowUnit_raises hm h
      exact ⟨hoff, fun harmed => hlog (by simpa using harmed)⟩

end Sys2Proof.Machine
end

section
/-! SUPPORT and PROOF of O9: pace faults, merged events, hold-and-flag crossings and the reset handshake. -/

namespace Sys2Proof.Machine

variable {q : Part} {s t u : State}

/-! Pace faults (R17, R32). -/

/-- The count of a unit that a fault is charged to; a unit without a required rate is charged none (R27). -/
def chargedFaults (s : State) (u : Nat) : Nat :=
  if requiredUnits s u = 0 then (paceUnit s u).faults else min 0xFFFFFFFF ((paceUnit s u).faults + 1)

theorem paceFault_idle {u : Nat} (h : requiredUnits s u = 0) (c obj : Nat) : paceFault c obj u s = s := by
  simp [paceFault, h]

theorem paceFault_faults (c obj u : Nat) (s : State) :
    (paceUnit (paceFault c obj u s) u).faults = chargedFaults s u := by
  by_cases h : requiredUnits s u = 0
  · simp [paceFault_idle h, chargedFaults, h]
  · have hraise : ∀ (code v src tag : Nat) (d : List Byte) (t : State),
        paceUnit (raise code v src tag d t) u = paceUnit t u :=
      fun _ _ _ _ _ t => paceUnit_congr (s := t) (by simp) u
    simp [paceFault, h, chargedFaults, hraise, paceEvent, satAdd, max32]

theorem paceFault_logged {u : Nat} (h : requiredUnits s u ≠ 0) (c obj : Nat) :
    Logged 0x0E12 u ([byteOf c, byteOf obj, 0, 0] ++ natBE 4 (chargedFaults s u)) (paceFault c obj u s) := by
  simp only [paceFault, h, ne_eq, not_false_eq_true, decide_true, onlyIf_true, chargedFaults, if_false]
  exact logged_raise ..

/-- An injection that acts with a fault leaves what the fault is charged to. -/
theorem chargedFaults_actIf (pt u : Nat) (s : State) : chargedFaults (actIf pt s) u = chargedFaults s u := by
  rw [chargedFaults, chargedFaults, requiredUnits_congr (s := s) (by simp [rateParts]),
    paceUnit_congr (s := s) (by simp)]

theorem requiredUnits_actIf (pt u : Nat) (s : State) : requiredUnits (actIf pt s) u = requiredUnits s u :=
  requiredUnits_congr (by simp [rateParts]) u

theorem exec_streamFifoFullWrite (x : Stream) (hx : okStream x = true) (s : State) :
    exec (.streamFifoFullWrite x) s = .next (fullWrite x s) := by
  change execStreamFifoFullWrite x s = _
  simp [execStreamFifoFullWrite, hx]

theorem exec_streamFifoEmptyRead (x : Stream) (hx : okStream x = true) (s : State) :
    exec (.streamFifoEmptyRead x) s = .next (emptyRead x s) := by
  change execStreamFifoEmptyRead x s = _
  simp [execStreamFifoEmptyRead, hx]

theorem fullWrite_adc_faults (p : Nat) (s : State) :
    (paceUnit (fullWrite (.adcToCore p) s) (6 * p)).faults = chargedFaults s (6 * p) := by
  have hresync : Part.pace.same (paceFault 1 p (6 * p) (actIf (0x024 + p) s)) (fullWrite (.adcToCore p) s) := by
    simp [fullWrite]
  rw [paceUnit_congr hresync, paceFault_faults, chargedFaults_actIf]

theorem emptyRead_dac_faults (p : Nat) (s : State) :
    (paceUnit (emptyRead (.coreToDac p) s) (6 * p + 5)).faults = chargedFaults s (6 * p + 5) := by
  rw [emptyRead, paceFault_faults, chargedFaults_actIf]

theorem emptyRead_dac_logged {p : Nat} (h : requiredUnits s (6 * p + 5) ≠ 0) :
    Logged 0x0E12 (6 * p + 5) ([2, byteOf p, 0, 0] ++ natBE 4 (chargedFaults s (6 * p + 5)))
      (emptyRead (.coreToDac p) s) := by
  rw [← chargedFaults_actIf (0x02A + p)]
  exact paceFault_logged ((requiredUnits_actIf ..).trans_ne h) 2 p

theorem fullWrite_hostRx_faults (l : Nat) (s : State) :
    (paceUnit (fullWrite (.hostRx l) s) 36).faults = chargedFaults s 36 := paceFault_faults 3 l 36 s

theorem fullWrite_hostRx_bsn (l : Nat) (s : State) : (laneOf (fullWrite (.hostRx l) s) l).bsn = none := by
  simp [fullWrite]

theorem startResync_inStep (s : State) : (startResync s).pair.inStep = false := by
  have hpair : ∀ t u : State, Part.pair.same u (forAll (fun k => onTribOf k (fun x => { x with emptyKnown := false }))
    (tribKeys t) u) := fun t u => by simp
  exact congrArg Pair.inStep (hpair ..)

/-- A stand-in that leaves step is out of step. -/
theorem leaveStep_inStep (h : isStandIn s = true) : (leaveStep s).pair.inStep = false := by
  cases hs : s.pair.inStep with
  | false => simp [leaveStep, hs]
  | true => simp [leaveStep, h, hs, startResync_inStep]

theorem fullWrite_pairRx (l : Nat) (s : State) :
    (laneOf (fullWrite (.pairRx l) s) (96 + l)).bsn = none
      ∧ (isStandIn s = true → (fullWrite (.pairRx l) s).pair.inStep = false) := by
  constructor
  · have hstep : ∀ t : State, Part.lane.same t (leaveStep t) := fun t => by simp
    simp only [fullWrite, laneOf_congr (hstep _), laneOf_same]
  · intro h
    have hrole : Part.pair.same s (onLaneOf (96 + l) (fun x => { x with bsn := none }) (paceFault 4 l 36 s)) := by simp
    refine leaveStep_inStep ?_
    simpa only [isStandIn, show _ = s.pair from hrole] using h

/-! Small FIFOs (R19). -/

theorem exec_smallFifoFullWrite (x : Small) (hx : okSmall x = true) (s : State) :
    exec (.smallFifoFullWrite x) s = .next (smallFullWrite x s) := by
  change execSmallFifoFullWrite x s = _
  simp [execSmallFifoFullWrite, hx]

/-! Merged events (R21): the counter's Gray code. -/

/-- A word with its own shift by `k` added bit by bit: `shiftXor 1` is the Gray code of a number. -/
def shiftXor (k : Nat) (x : Word) : Word := x ^^^ (x >>> k)

theorem shiftXor_comm (i j : Nat) (x : Word) : shiftXor i (shiftXor j x) = shiftXor j (shiftXor i x) := by
  simp only [shiftXor, BitVec.ushiftRight_xor_distrib, ← BitVec.shiftRight_add, Nat.add_comm i j]
  rw [BitVec.xor_assoc, BitVec.xor_assoc, ← BitVec.xor_assoc (x >>> j), BitVec.xor_comm (x >>> j), BitVec.xor_assoc]

/-- Adding a shift twice adds the shift of twice the distance. -/
theorem shiftXor_twice (k : Nat) (x : Word) : shiftXor k (shiftXor k x) = shiftXor (k + k) x := by
  simp only [shiftXor, BitVec.ushiftRight_xor_distrib, BitVec.shiftRight_add]
  rw [BitVec.xor_assoc, ← BitVec.xor_assoc (x >>> k), BitVec.xor_self, BitVec.zero_xor]

/-- The number that `grayValue` gives has the Gray code it was given. -/
theorem gray_grayValue (g : Word) : grayValue g ^^^ (grayValue g >>> 1) = g := by
  have hval : grayValue g = shiftXor 16 (shiftXor 8 (shiftXor 4 (shiftXor 2 (shiftXor 1 g)))) := rfl
  have hword : shiftXor 32 g = g := by
    rw [shiftXor, BitVec.ushiftRight_eq_zero (by decide), BitVec.xor_zero]
  change shiftXor 1 (grayValue g) = g
  calc shiftXor 1 (grayValue g)
      = shiftXor 16 (shiftXor 8 (shiftXor 4 (shiftXor 2 (shiftXor 1 (shiftXor 1 g))))) := by
        rw [hval, shiftXor_comm 1 16, shiftXor_comm 1 8, shiftXor_comm 1 4, shiftXor_comm 1 2]
    _ = shiftXor 16 (shiftXor 8 (shiftXor 4 (shiftXor 2 (shiftXor 2 g)))) := by rw [shiftXor_twice 1]
    _ = shiftXor 16 (shiftXor 8 (shiftXor 4 (shiftXor 4 g))) := by rw [shiftXor_twice 2]
    _ = shiftXor 16 (shiftXor 8 (shiftXor 8 g)) := by rw [shiftXor_twice 4]
    _ = shiftXor 16 (shiftXor 16 g) := by rw [shiftXor_twice 8]
    _ = g := by rw [shiftXor_twice 16, hword]

theorem exec_mergedEventSample {x : Merged} (hx : okMerged x = true) (g : Word) (s : State) :
    exec (.mergedEventSample x g) s = .next (onMergedOf (mergedKey x) (fun m => { m with
      last := grayValue g, total := m.total + (grayValue g - m.last).setWidth 64 }) s) := by
  change execMergedEventSample x g s = _
  simp [execMergedEventSample, hx]

/-- The total grows by the difference of the counter modulo 2^32. -/
theorem total_add_difference (total : BitVec 64) (now last : Word) :
    (total + (now - last).setWidth 64).toNat
      = (total.toNat + (now.toNat + 2 ^ 32 - last.toNat) % 2 ^ 32) % 2 ^ 64 := by
  have hlast := last.isLt
  simp only [BitVec.toNat_add, BitVec.toNat_setWidth, BitVec.toNat_sub]
  omega

/-! Hold-and-flag crossings (R22). -/

theorem exec_holdFlagValue {x : Hold} (hx : okHold x = true) (v : Nat) (s : State) :
    exec (.holdFlagValue x v) s = .next (holdValue x v s) := by
  change execHoldFlagValue x v s = _
  simp [execHoldFlagValue, hx]

theorem holdValue_idle {x : Hold} (h : (holdOf s (holdKey x)).inFlight = none) (v : Nat) :
    holdOf (holdValue x v s) (holdKey x) = { holdOf s (holdKey x) with inFlight := some v } := by
  simp [holdValue, h]

theorem holdValue_busy {x : Hold} (h : (holdOf s (holdKey x)).inFlight ≠ none) (v : Nat) :
    holdOf (holdValue x v s) (holdKey x) = { holdOf s (holdKey x) with
      pending := some v
      overwrites := if (holdOf s (holdKey x)).pending.isSome then min 0xFFFFFFFF ((holdOf s (holdKey x)).overwrites + 1)
        else (holdOf s (holdKey x)).overwrites } := by
  obtain ⟨w, hw⟩ := Option.ne_none_iff_exists'.1 h
  simp [holdValue, hw, satAdd, max32]

theorem runs_holdFlagAck {x : Hold} (hx : okHold x = true) (s : State) :
    Runs (.holdFlagAck x) s (fun t => ∀ u, (holdOf s (holdKey x)).inFlight = some u →
      (holdOf t (holdKey x)).dest = u ∧ (holdOf t (holdKey x)).inFlight = (holdOf s (holdKey x)).pending
        ∧ (holdOf t (holdKey x)).pending = none) := by
  refine ⟨_, need_next.2 ⟨hx, rfl⟩, fun u hu => ?_⟩
  simp [hu]

/-! The reset pointer handshake (R23 to R25). -/

theorem emptyFifo_fifoOf (x : Fifo) (s : State) : fifoOf (emptyFifo x s) (fifoKey x) = {} := by simp [emptyFifo]

theorem runs_fifoReset_completes {x : Fifo} (hx : okFifo x = true) (core : Bool) (s : State) :
    Runs (.fifoResetRequest x core true) s (fun t => fifoOf t (fifoKey x) = {}) :=
  ⟨_, need_next.2 ⟨hx, rfl⟩, by simp [emptyFifo_fifoOf]⟩

theorem runs_fifoReset_stands {x : Fifo} (hx : okFifo x = true) (s : State) :
    Runs (.fifoResetRequest x true false) s (fun t => (fifoOf t (fifoKey x)).request = true
      ∧ (fifoOf t (fifoKey x)).held = (fifoOf s (fifoKey x)).held) :=
  ⟨_, need_next.2 ⟨hx, rfl⟩, by simp⟩

theorem runs_fifoReset_times_out {x : Fifo} (hx : okFifo x = true) (h : (fifoOf s (fifoKey x)).request = true) :
    Runs (.fifoResetTimeout x) s (fun t => (fifoOf t (fifoKey x)).held = true ∧ (fifoOf t (fifoKey x)).full = false
      ∧ (fifoOf t (fifoKey x)).overrun = false) :=
  ⟨_, need_next.2 ⟨hx, rfl⟩, by simp [h]⟩

theorem runs_islandClockReturn {x : Fifo} (hx : okFifo x = true) (h : (fifoOf s (fifoKey x)).held = true) :
    Runs (.islandClockReturn x) s (fun t => fifoOf t (fifoKey x) = {}) :=
  ⟨_, need_next.2 ⟨hx, rfl⟩, by simp [h, emptyFifo_fifoOf]⟩

/-- Settles O9: each clause by the lemma about its crossing. -/
theorem crossingsBehave : Obligations.CrossingsBehave := by
  refine ⟨fun p s hp => ⟨?adc, fun h => ?dac, fun h => ?dacIdle, ?dacWrite, ?adcRead⟩,
    fun l s hl => ⟨?hostRx, ?hostTx⟩,
    fun l s hl => ?pairRx, fun x s hx => ?small, fun n s hn hfull => ?monitor, fun s hfull => ?timestamp,
    fun x g s hx => ?merged, fun x v s hx => ⟨?holdValue, runs_holdFlagAck hx s⟩,
    fun x core s hx => ⟨runs_fifoReset_completes hx core s, runs_fifoReset_stands hx s, runs_fifoReset_times_out hx,
      runs_islandClockReturn hx⟩⟩
  case adc => exact ⟨_, exec_streamFifoFullWrite (.adcToCore p) hp s, fullWrite_adc_faults p s⟩
  case dac =>
    refine ⟨_, exec_streamFifoEmptyRead (.coreToDac p) hp s, ?_⟩
    simp only [emptyRead_dac_faults]
    exact ⟨if_neg h, emptyRead_dac_logged h⟩
  case dacIdle =>
    exact ⟨_, exec_streamFifoEmptyRead (.coreToDac p) hp s, (emptyRead_dac_faults p s).trans (if_pos h)⟩
  case dacWrite => exact exec_streamFifoFullWrite (.coreToDac p) hp s
  case adcRead => exact exec_streamFifoEmptyRead (.adcToCore p) hp s
  case hostRx =>
    exact ⟨_, exec_streamFifoFullWrite (.hostRx l) hl s, fullWrite_hostRx_bsn l s, fullWrite_hostRx_faults l s⟩
  case hostTx => exact exec_streamFifoFullWrite (.hostTx l) hl s
  case pairRx => exact ⟨_, exec_streamFifoFullWrite (.pairRx l) hl s, fullWrite_pairRx l s⟩
  case small =>
    rcases hx with rfl | rfl
    · exact ⟨_, exec_smallFifoFullWrite _ rfl s, by simp [smallFullWrite]⟩
    · exact ⟨_, exec_smallFifoFullWrite _ rfl s, by simp [smallFullWrite]⟩
  case monitor => exact ⟨_, exec_smallFifoFullWrite (.monitor n) hn s, by simp [smallFullWrite, hfull]⟩
  case timestamp => exact ⟨_, exec_smallFifoFullWrite .timestamp rfl s, by simp [smallFullWrite, hfull]⟩
  case merged =>
    refine ⟨_, exec_mergedEventSample hx g s, ?_⟩
    simp only [mergedOf_same]
    exact ⟨gray_grayValue g, total_add_difference ..⟩
  case holdValue =>
    refine ⟨_, exec_holdFlagValue hx v s, fun h => ?_, fun h => ?_⟩
    · rw [holdValue_idle h]
      exact ⟨rfl, rfl⟩
    · rw [holdValue_busy h]
      exact ⟨rfl, rfl, rfl⟩

end Sys2Proof.Machine
end

section
/-! SUPPORT and PROOF of O47: the retirements of pair lanes, die-to-die lanes, subcarriers and cores, the traps of a core
and the end of a timed injection. -/

namespace Sys2Proof.Machine

variable {q : Part} {s t u : State}

/-! Retirements and faults of units (R435 to R438/16). -/

@[simp] theorem isRetired_retired (typ idx : Nat) (s : State) : isRetired (retired typ idx s) typ idx = true := by
  simp [isRetired, retired, unitRec, onFlt, onTherm, onUnitRec]

theorem unitFault_unitRec {typ idx : Nat} (hret : (unitRec s (unitKey typ idx)).retired = false)
    (hing : (unitRec s (unitKey typ idx)).retiring = false) :
    unitRec (unitFault typ idx s) (unitKey typ idx) = { unitRec s (unitKey typ idx) with
      times := windowTimes s typ idx, total := min 0xFFFFFFFF ((unitRec s (unitKey typ idx)).total + 1), last := now s
      retrying := retries typ && !makesPermanent s typ idx
      retiring := makesPermanent s typ idx && !neverRetired typ idx } := by
  have hraise : ∀ (code v src tag : Nat) (d : List Byte) (t : State),
      unitRec (raise code v src tag d t) (unitKey typ idx) = unitRec t (unitKey typ idx) :=
    fun _ _ _ _ _ t => unitRec_congr (s := t) (by simp) _
  have hqueue : ∀ (c : Bool) (f : List (Nat × Nat) → List (Nat × Nat)) (t : State),
      unitRec (onlyIf c (onFlt fun g => { g with queue := f g.queue }) t) (unitKey typ idx)
        = unitRec t (unitKey typ idx) :=
    fun c _ _ => by cases c <;> rfl
  simp only [unitFault, hret, hing, Bool.or_self, Bool.false_eq_true, if_false]
  split
  case isTrue h => rw [hqueue _ (· ++ [(typ, idx)]), hraise, unitRec_same]; simp [satAdd, max32, hret]
  case isFalse => rw [hraise, unitRec_same]; simp [satAdd, max32, hret]

/-! Pair lanes (R380/13). -/

theorem pairDown_pair (s : State) :
    (pairDown s).pair = { s.pair with up := false, gen := 0, inStep := false, resync := 0, matched := 0 } :=
  have h : Part.pair.same
    (onPair (fun p => { p with up := false, gen := 0, inStep := false, resync := 0, matched := 0 }) s) (pairDown s) := by
      simp [pairDown]
  h

theorem pairLaneRetire_spec (l : Nat) (s : State) :
    isRetired (pairLaneRetire l s) 7 l = true ∧ (laneOf (pairLaneRetire l s) (96 + l)).st = .retired
      ∧ (pairLaneRetire l s).pair.up = false ∧ (pairLaneRetire l s).pair.inStep = false := by
  have hflt : Part.flt.same (retired 7 l s) (pairLaneRetire l s) := by simp [pairLaneRetire]
  refine ⟨(isRetired_congr hflt 7 l).trans (isRetired_retired ..), by simp [pairLaneRetire], ?_⟩
  simp [pairLaneRetire, pairDown_pair]

/-! Die-to-die lanes (R13/01): a port that loses its link goes dark. -/

/-- Neither direction of the port is lit. -/
def Closed (s : State) (p : Nat) : Prop := (txPort s p).tx = .off ∧ (rxPort s p).st = .off

theorem txPort_closeTx (p j : Nat) (s : State) : txPort (closeTx p s) j = txPort (shutTx p .off s) j :=
  txPort_congr (by simp [closeTx]) j

theorem rxPort_closeRx (p j : Nat) (s : State) : rxPort (closeRx p s) j = rxPort (shutRx p s) j :=
  rxPort_congr (by simp [closeRx]) j

theorem txPort_shutTx_tx (p j : Nat) (s : State) :
    (txPort (shutTx p .off s) j).tx = if j = p then .off else (txPort s j).tx := by
  have hfree : ∀ f : TxPort → TxPort, txPort (useFree (onTxPort p f s)) j = txPort (onTxPort p f s) j :=
    fun _ => rfl
  rw [shutTx, hfree, txPort_apply]
  split <;> rfl

/-- Ending a dissolve changes its own port alone. -/
theorem rxPort_endDissolve_other {p j : Nat} (hj : j ≠ p) (s : State) : rxPort (endDissolve p s) j = rxPort s j := by
  have hraise : ∀ (c : Bool) (code : Nat) (d : List Byte) (t : State),
      rxPort (onlyIf c (raisePort code p d) t) j = rxPort t j := fun _ _ _ t => rxPort_congr (s := t) (by simp) j
  have hcues : rxPort (freeCdCues (cdOf s p) s) j = rxPort s j := rxPort_congr (by simp) j
  rw [endDissolve, hraise, onCd, rxPort_other _ _ hj, hcues]

theorem rxPort_shutRx_st (p j : Nat) (s : State) :
    (rxPort (shutRx p s) j).st = if j = p then .off else (rxPort s j).st := by
  unfold shutRx freezeGain
  split
  case isTrue hj => subst hj; simp
  case isFalse hj =>
    rw [rxPort_other _ _ hj, rxPort_other _ _ hj, rxPort_endDissolve_other hj, rxPort_congr (s := s) (by simp)]

theorem closed_close (p : Nat) (s : State) : Closed (closeRx p (closeTx p s)) p := by
  constructor
  · rw [txPort_congr (s := closeTx p s) (by simp), txPort_closeTx, txPort_shutTx_tx, if_pos rfl]
  · rw [rxPort_closeRx, rxPort_shutRx_st, if_pos rfl]

theorem Closed.close {j : Nat} (h : Closed s j) (p : Nat) : Closed (closeRx p (closeTx p s)) j := by
  obtain ⟨htx, hrx⟩ := h
  constructor
  · rw [txPort_congr (s := closeTx p s) (by simp), txPort_closeTx, txPort_shutTx_tx, htx, ite_self]
  · rw [rxPort_closeRx, rxPort_shutRx_st, rxPort_congr (s := s) (by simp), hrx, ite_self]

theorem d2dRetire_spare {i : Nat} (h : tabGet 0 s.flt.d2dSpare (i / 128) < 2) :
    isRetired (d2dRetire i s) 8 i = true
      ∧ tabGet 0 (d2dRetire i s).flt.d2dSpare (i / 128) = tabGet 0 s.flt.d2dSpare (i / 128) + 1
      ∧ (d2dRetire i s).txp = s.txp ∧ (d2dRetire i s).rxp = s.rxp := by
  rw [d2dRetire, if_pos h]
  refine ⟨(isRetired_of_unit (s := retired 8 i s) rfl 8 i).trans (isRetired_retired ..), ?_,
    by simp [retired], by simp [retired]⟩
  simp only [onFlt_flt, tabGet_set_same]

theorem d2dRetire_last {i : Nat} (h : 2 ≤ tabGet 0 s.flt.d2dSpare (i / 128)) :
    isRetired (d2dRetire i s) 8 i = true ∧ ∀ p, p / 2 = i / 256 → Closed (d2dRetire i s) p := by
  rw [d2dRetire, if_neg h.not_gt]
  constructor
  · have hflt : Part.flt.same (retired 8 i s) (forAll (fun p s => closeRx p (closeTx p s))
        [2 * (i / 256), 2 * (i / 256) + 1] (retired 8 i s)) :=
      (same_forAll _ _ fun _ _ => by simp).2 (Part.same_self ..)
    exact (isRetired_congr hflt 8 i).trans (isRetired_retired 8 i s)
  · intro p hp
    simp only [forAll]
    rcases (show p = 2 * (i / 256) ∨ p = 2 * (i / 256) + 1 by omega) with rfl | rfl
    · exact (closed_close _ _).close _
    · exact closed_close _ _

theorem d2dLaneFault_unitRec {i : Nat} (hret : (unitRec s (unitKey 8 i)).retired = false)
    (hing : (unitRec s (unitKey 8 i)).retiring = false) :
    unitRec (retryDone 8 i (unitFault 8 i s)) (unitKey 8 i) = { unitRec s (unitKey 8 i) with
      times := windowTimes s 8 i, total := min 0xFFFFFFFF ((unitRec s (unitKey 8 i)).total + 1), last := now s
      retrying := false, retiring := makesPermanent s 8 i } := by
  simp [retryDone, unitFault_unitRec hret hing, neverRetired]

/-! Cue cores (R440 to R442/16). -/

theorem isRetired_notRetired (typ idx : Nat) (s : State) :
    isRetired (notRetired typ idx s) typ idx = isRetired s typ idx := by
  simp [isRetired, notRetired, unitRec, onFlt, onUnitRec]

theorem coreRetire_leaves {c : Nat} (h : workingCores s ≠ [c]) :
    isRetired (coreRetire c s) 10 c = true ∧ (coreOf (coreRetire c s) c).st = .retired
      ∧ (coreRetire c s).fw.warmDue = s.fw.warmDue := by
  rw [coreRetire, if_neg h]
  exact ⟨(isRetired_of_unit (by simp) 10 c).trans (isRetired_retired 10 c s), by simp, by simp [retired]⟩

theorem coreRetire_last {c : Nat} (h : workingCores s = [c]) :
    coreOf (coreRetire c s) c = coreOf s c ∧ (coreRetire c s).fw.warmDue = true
      ∧ isRetired (coreRetire c s) 10 c = isRetired s 10 c := by
  rw [coreRetire, if_pos h]
  refine ⟨by simp [callWarm, notRetired, coreOf], by simp [callWarm], ?_⟩
  exact (isRetired_of_unit (by simp [callWarm]) 10 c).trans (isRetired_notRetired 10 c s)

theorem record_frozen (e : LogEntry) (s : State) : (record e s).log.frozen = s.log.frozen := rfl

theorem raise_frozen (code v src tag : Nat) (d : List Byte) (s : State) :
    (raise code v src tag d s).log.frozen = s.log.frozen := rfl

/-- A unit's fault touches neither the cores nor whether the log is frozen. -/
theorem unitFault_keeps (typ idx : Nat) (s : State) :
    (unitFault typ idx s).log.frozen = s.log.frozen ∧ (unitFault typ idx s).flt.core = s.flt.core := by
  unfold unitFault
  dsimp only
  split
  · exact ⟨rfl, rfl⟩
  · split
    · unfold onlyIf
      split <;> simp [raise_frozen]
    · simp [raise_frozen]

theorem freezeLog_frozen (cause : Nat) (s : State) : (freezeLog cause s).log.frozen = true := by
  unfold freezeLog
  split
  case isTrue h => exact h
  case isFalse => simp [raise_frozen, freezeRing]

section Trap
variable (c cause pc addr task : Nat) (s : State)

theorem coreTrap_st : (coreOf (coreTrap c cause pc addr task s) c).st = .trapped cause := by
  simp [coreTrap, coreEvent]

theorem coreTrap_other {j : Nat} (hj : j ≠ c) : coreOf (coreTrap c cause pc addr task s) j = coreOf s j := by
  rw [coreTrap, coreEvent, coreOf_other _ _ hj, coreOf_other _ _ hj, coreOf, (unitFault_keeps ..).2, raise_flt]
  rfl

theorem coreTrap_frozen : (coreTrap c cause pc addr task s).log.frozen = s.log.frozen := by
  simp [coreTrap, coreEvent, (unitFault_keeps ..).1, raise_frozen, record_frozen]

theorem coreTrap_total (hret : (unitRec s (unitKey 10 c)).retired = false)
    (hing : (unitRec s (unitKey 10 c)).retiring = false) :
    (unitRec (coreTrap c cause pc addr task s) (unitKey 10 c)).total
      = min 0xFFFFFFFF ((unitRec s (unitKey 10 c)).total + 1) := by
  have hraised (e : LogEntry) (d : List Byte) :
      unitRec (raise 0x0D02 15 0 0 d (record e s)) (unitKey 10 c) = unitRec s (unitKey 10 c) := rfl
  have hcore (f : Core → Core) (t : State) : unitRec (onCoreOf c f t) (unitKey 10 c) = unitRec t (unitKey 10 c) := rfl
  rw [coreTrap, coreEvent, hcore, hcore, unitFault_unitRec (by rw [hraised, hret]) (by rw [hraised, hing]), hraised]
end Trap

theorem freezeLog_flt (cause : Nat) (s : State) : (freezeLog cause s).flt = s.flt :=
  (within_freezeLog cause s) .flt (by simp)

theorem flt_onlyIf_callWarm (b : Bool) (s : State) : (onlyIf b callWarm s).flt = s.flt := by cases b <;> rfl

section Watchdog
variable (c pc task : Nat) (s : State)

/-- The state between the watchdog's trap and the check for a core that still runs. -/
def watchdogTrapped : State :=
  onInjOf 0x1A1 (fun i => if i.arg = c then { i with running := false } else i)
    (freezeLog 3 (coreTrap c 3 pc 0 task s))

theorem watchdogTrap_eq : watchdogTrap c pc task s
    = onlyIf (allInWatchdog (watchdogTrapped c pc task s)) callWarm (watchdogTrapped c pc task s) := rfl

theorem watchdogTrapped_flt :
    (watchdogTrapped c pc task s).flt.core = (coreTrap c 3 pc 0 task s).flt.core
      ∧ (watchdogTrapped c pc task s).flt.unit = (coreTrap c 3 pc 0 task s).flt.unit := by
  simp only [watchdogTrapped, onInjOf_flt, freezeLog_flt, and_self]

theorem watchdogTrap_flt :
    (watchdogTrap c pc task s).flt.core = (coreTrap c 3 pc 0 task s).flt.core
      ∧ (watchdogTrap c pc task s).flt.unit = (coreTrap c 3 pc 0 task s).flt.unit := by
  rw [watchdogTrap_eq, flt_onlyIf_callWarm]
  exact watchdogTrapped_flt ..

theorem watchdogTrap_coreOf (j : Nat) : coreOf (watchdogTrap c pc task s) j = coreOf (coreTrap c 3 pc 0 task s) j := by
  simp only [coreOf, (watchdogTrap_flt c pc task s).1]

theorem watchdogTrap_frozen : (watchdogTrap c pc task s).log.frozen = true := by
  rw [watchdogTrap_eq]
  exact onlyIf_keeps (P := fun t => t.log.frozen = true) _ _ id (freezeLog_frozen ..)

variable {c s}

/-- The last working core that traps leaves none that runs (R442/16). -/
theorem watchdogTrap_last (h : workingCores s = [c]) : (watchdogTrap c pc task s).fw.warmDue = true := by
  have hcore (j : Nat) : coreOf (watchdogTrapped c pc task s) j = coreOf (coreTrap c 3 pc 0 task s) j := by
    simp only [coreOf, (watchdogTrapped_flt c pc task s).1]
  have hall : allInWatchdog (watchdogTrapped c pc task s) = true := by
    refine List.all_eq_true.2 fun j hj => ?_
    rw [hcore]
    by_cases hjc : j = c
    · rw [hjc, coreTrap_st, beq_self_eq_true]
    · have hwork : j ∈ workingCores s := by
        simpa [workingCores, isCoreRetired, hcore, coreTrap_other _ _ _ _ _ _ hjc] using hj
      rw [h] at hwork
      exact absurd (List.mem_singleton.1 hwork) hjc
  rw [watchdogTrap_eq, hall]
  rfl
end Watchdog

/-! An uncorrectable fetch (R440/16): counted by its memory, then trapped. -/

theorem sandOf_congr (h : Part.bulk.same s t) (g : Nat) : sandOf t g = sandOf s g := by
  simp only [sandOf, show t.bulk = s.bulk from h]

theorem sandOf_uncorrectableWord (a n : Nat) (s : State) :
    (sandOf (uncorrectableWord a n s) (sandIndex s n)).unc = min (2 ^ 64 - 1) ((sandOf s (sandIndex s n)).unc + 1) := by
  simp [uncorrectableWord, satAdd, max64, sandOf]

theorem sandIndex_onChip {g : Nat} (hg : 0 < g) (n : Nat) (s : State) :
    sandIndex s (onChipBase * g + n % onChipBase) = g := by
  have hpos : 0 < onChipBase := by decide
  have hon : isOnChip (onChipBase * g + n % onChipBase) = true := by
    simpa [isOnChip] using (Nat.le_mul_of_pos_right onChipBase hg).trans (Nat.le_add_right ..)
  rw [sandIndex, if_pos hon, Nat.mul_add_div hpos, Nat.div_eq_of_lt (Nat.mod_lt _ hpos), Nat.add_zero]

section Fetch
variable (c pc addr task : Nat) (data : Bool) (s : State)

theorem coreFetchUe_st : (coreOf (coreFetchUe c data pc addr task s) c).st = .trapped (if data then 2 else 1) := by
  simp only [coreFetchUe, coreOf, flt_onlyIf_callWarm, freezeLog_flt]
  exact coreTrap_st ..

theorem coreFetchUe_frozen : (coreFetchUe c data pc addr task s).log.frozen = true := by
  cases data <;> exact freezeLog_frozen ..

theorem coreFetchUe_warm : (coreFetchUe c data pc addr task s).fw.warmDue = (data || s.fw.warmDue) := by
  cases data
  · have hfw : Part.fw.same s (coreFetchUe c false pc addr task s) := by simp [coreFetchUe]
    exact congrArg Fw.warmDue hfw
  · rfl

/-- The fetch is counted at the memory it read: 69 holds instructions, 70 data. -/
theorem coreFetchUe_unc (g : Nat) (hg : g = if data then 70 else 69) :
    (sandOf (coreFetchUe c data pc addr task s) g).unc = min (2 ^ 64 - 1) ((sandOf s g).unc + 1) := by
  have hbulk : Part.bulk.same (uncorrectableWord 1 (onChipBase * g + addr % onChipBase)
      (onlyIf (!data && injFor s 0x1A0 c) (injAct 0x1A0) s)) (coreFetchUe c data pc addr task s) := by
    simp [coreFetchUe, hg]
  have hinj : Part.bulk.same s (onlyIf (!data && injFor s 0x1A0 c) (injAct 0x1A0) s) := by simp
  have hpos : 0 < g := by cases data <;> simp [hg]
  rw [sandOf_congr hbulk, ← sandOf_congr hinj]
  simpa only [sandIndex_onChip hpos] using
    sandOf_uncorrectableWord 1 (onChipBase * g + addr % onChipBase)
      (onlyIf (!data && injFor s 0x1A0 c) (injAct 0x1A0) s)
end Fetch

theorem coreRestart_trapped {c k : Nat} (h : (coreOf s c).st = .trapped k) :
    coreOf (coreRestart c s) c = { coreOf s c with st := .running }
      ∧ (unitRec (coreRestart c s) (unitKey 10 c)).retrying = false := by
  have hrec (f : UnitRec → UnitRec) (t : State) : coreOf (onUnitRec (unitKey 10 c) f t) c = coreOf t c := rfl
  simp only [coreRestart, h, retryDone, hrec, coreOf_same, unitRec_same, and_self]

/-! The end of a timed injection (R438/16). -/

theorem setLosc_false (s : State) : (setLosc false s).timing.loscLost = false := by
  cases h : s.timing.loscLost <;> simp [setLosc, h]

theorem injectionEnd_running {pt : Nat} (h : (injOf s pt).running = true) :
    (injOf (injectionEnd pt s) pt).running = false ∧ (injOf (injectionEnd pt s) pt).acted = (injOf s pt).acted
      ∧ (pt = 0x142 → (injectionEnd pt s).timing.loscLost = false)
      ∧ (pt = 0x1C0 → (paceUnit (injectionEnd pt s) (injOf s pt).arg).forced = none) := by
  have hinj (t : State) (arg : Nat) : injOf (endEffect pt arg t) pt = injOf t pt := by
    have hflt : Part.flt.same t (endEffect pt arg t) := by simp
    simp only [injOf, show (endEffect pt arg t).flt = t.flt from hflt]
  rw [injectionEnd, h, onlyIf_true]
  refine ⟨by simp [hinj], by simp [hinj], fun e => ?_, fun e => ?_⟩
  · subst e
    exact setLosc_false _
  · subst e
    simp [endEffect]

/-! A retired subcarrier (R437/16): its slots are removed from the map, and those that fill them are only staged. -/

/-- Every slot has the owners in force that it had. -/
structure SameOwners (s t : State) : Prop where
  tx : ∀ k, (slotOwner t k).tx = (slotOwner s k).tx
  rx : ∀ k, (slotOwner t k).rx = (slotOwner s k).rx

theorem SameOwners.trans (h : SameOwners s t) (k : SameOwners t u) : SameOwners s u :=
  ⟨fun j => (k.tx j).trans (h.tx j), fun j => (k.rx j).trans (h.rx j)⟩

theorem sameOwners_of_slot (h : t.svc.slot = s.svc.slot) : SameOwners s t := by
  constructor <;> intro k <;> simp only [slotOwner, h]

theorem tabGet_mapSlots (f : Nat → SlotOwner → SlotOwner) (m : Tab SlotOwner) (k : Nat) :
    tabGet {} (mapSlots f m) k = if k ∈ m.map (·.1) then f k (tabGet {} m k) else tabGet {} m k := by
  have hfold : ∀ (l : List Nat) (t : Tab SlotOwner), l.Nodup →
      tabGet {} (l.foldl (fun t k => tabMod {} t k (f k)) t) k
        = if k ∈ l then f k (tabGet {} t k) else tabGet {} t k := by
    intro l
    induction l with
    | nil => simp
    | cons a l ih =>
      intro t hl
      obtain ⟨ha, hl⟩ := List.nodup_cons.1 hl
      rw [List.foldl_cons, ih _ hl, tabGet_mod]
      by_cases hk : k = a
      · subst hk; simp [ha]
      · simp [hk]
  rw [mapSlots, hfold _ _ (List.nodup_dedup _)]
  simp only [List.mem_dedup]

theorem tabGet_of_not_mem {α : Type} (d : α) (m : Tab α) {k : Nat} (h : k ∉ m.map (·.1)) : tabGet d m k = d := by
  induction m with
  | nil => rfl
  | cons x m ih =>
    simp only [List.map_cons, List.mem_cons, not_or] at h
    rw [tabGet, if_neg (Ne.symm h.1), ih h.2]

theorem tabGet_removeScs {sc k : Nat} (h : k / 40 = sc) (m : Tab SlotOwner) : tabGet {} (removeScs [sc] m) k = {} := by
  rw [removeScs, tabGet_mapSlots]
  split
  case isTrue => simp [h]
  case isFalse hk => exact tabGet_of_not_mem _ _ hk

theorem tabGet_snapshotMap (m : Tab SlotOwner) (k : Nat) :
    (tabGet {} (snapshotMap m) k).tx = (tabGet {} m k).tx
      ∧ (tabGet {} (snapshotMap m) k).rx = (tabGet {} m k).rx := by
  rw [snapshotMap, tabGet_mapSlots]
  split <;> exact ⟨rfl, rfl⟩

theorem freeQueued_slot (l : List QPacket) (s : State) : (freeQueued l s).svc.slot = s.svc.slot := by
  rw [freeQueued]
  refine forAll_keeps (P := fun u => u.svc.slot = s.svc.slot) _ _ (fun p u h => ?_) s rfl
  exact h

theorem cutPacket_slot (x : Nat) (s : State) : (cutPacket x s).svc.slot = s.svc.slot :=
  onlyIf_keeps (P := fun u => u.svc.slot = s.svc.slot) _ _ (fun h => h) rfl

theorem lostCapacity_slot (x : Nat) (s : State) : (lostCapacity x s).svc.slot = s.svc.slot := by
  rw [lostCapacity, raise_svc, cutPacket_slot, discardQueues, freeQueued_slot]
  rfl

theorem installMap_slot (m : Tab SlotOwner) (s : State) : (installMap m s).svc.slot = m := by
  have hbudget (t : State) : (budgetCheck t).svc = t.svc := (same_budgetCheck (q := .svc) (by simp)).2 rfl
  have hreserve (l : List Nat) (t : State) : (forAll reserve l t).svc = t.svc :=
    (same_forAll (q := .svc) (s := t) reserve l fun _ _ => same_reserve _ (by simp)).2 rfl
  have hmirror (f : Nat → State → MirrorRecord) (l : List Nat) (t : State) :
      (forAll (fun p s => mirror (f p s) s) l t).svc = t.svc :=
    (same_forAll (q := .svc) (s := t) _ l fun _ _ => same_mirror _ (by simp)).2 rfl
  simp only [installMap, hbudget, hreserve]
  refine forAll_keeps (P := fun u => u.svc.slot = m) _ _ (fun x u h => (lostCapacity_slot x u).trans h) _ ?_
  rw [hmirror (fun p s => .versions p (tabGet 0 s.svc.mapVer p))]
  exact onlyIf_keeps (P := fun u => u.svc.slot = m) _ _ id rfl

theorem onSlotOwner_owners {f : SlotOwner → SlotOwner} (h : ∀ o, (f o).tx = o.tx ∧ (f o).rx = o.rx) (k : Nat)
    (s : State) : SameOwners s (onSlotOwner k f s) := by
  constructor <;> intro j <;> rw [slotOwner_apply] <;> split <;> simp_all

theorem stageSlots_owners (d sc x n : Nat) (s : State) : SameOwners s (stageSlots d sc x n s).2 := by
  unfold stageSlots
  dsimp only
  split
  · exact sameOwners_of_slot rfl
  · exact forAll_keeps (P := SameOwners s) _ _
      (fun k u h => h.trans (onSlotOwner_owners (fun o => by split <;> exact ⟨rfl, rfl⟩) k u)) s
      (sameOwners_of_slot rfl)

theorem stageLost_owners (sc : Nat) (l : List (Nat × Nat × Nat)) (r : Bool × Bool) (s : State) :
    SameOwners s (stageLost sc l r s).2 := by
  induction l generalizing r s with
  | nil => exact sameOwners_of_slot rfl
  | cons a l ih => exact (stageSlots_owners ..).trans (ih ..)

theorem placeCommit_owners {b tag o : Nat} (e : placeCommit b tag o s = some t) : SameOwners s t := by
  have hslot : t.svc.slot = snapshotMap s.svc.slot := by
    unfold placeCommit at e
    dsimp only at e
    split at e
    · cases e
    · cases e
      split <;> rfl
  constructor <;> intro k <;> simp only [slotOwner, hslot, tabGet_snapshotMap]

theorem commitFill_owners (s : State) : SameOwners s (commitFill s) := by
  have hplace : SameOwners s ((placeCommit (earliestBoundary s) 0 1 s).getD s) := by
    cases e : placeCommit (earliestBoundary s) 0 1 s with
    | none => exact sameOwners_of_slot rfl
    | some t => exact placeCommit_owners e
  unfold commitFill
  split
  · split
    · exact sameOwners_of_slot rfl
    · exact hplace
  · exact hplace

theorem fillSlots_owners (sc : Nat) (l : List (Nat × Nat × Nat)) (s : State) : SameOwners s (fillSlots sc l s).2 := by
  unfold fillSlots
  split
  · dsimp only
    split
    · exact (stageLost_owners ..).trans (commitFill_owners _)
    · exact stageLost_owners ..
  · exact sameOwners_of_slot rfl

/-- What the remap event says of the fill: nothing asked, the slots found, or too few found. -/
theorem fillSlots_answer (sc : Nat) (l : List (Nat × Nat × Nat)) (s : State) :
    (fillSlots sc l s).1 ≤ 2 ∧ ((policyOf s 9).fill = false → (fillSlots sc l s).1 = 0) := by
  unfold fillSlots
  split
  case isTrue h =>
    constructor
    · dsimp only; split <;> omega
    · simp_all
  case isFalse => simp

theorem stopSc_conv (sc : Nat) (s : State) : (rxSc (stopSc true sc s) sc).conv = false := by
  simp [stopSc, unconverge]

section SubcarrierRetire
variable (sc : Nat) (s : State)

/-- The state once the subcarrier is out of service and its slots are removed, before any slot is filled. -/
def subcarrierGone : State :=
  removeSlots [sc] (onRxSc sc (fun x => { x with oos := true }) (rehunt sc (stopSc true sc (retired 9 sc s))))

theorem subcarrierRetire_eq : subcarrierRetire sc s
    = raise 0x0D04 15 sc 0 [byteOf (fillSlots sc (losses s sc) (subcarrierGone sc s)).1]
      (fillSlots sc (losses s sc) (subcarrierGone sc s)).2 := rfl

theorem subcarrierGone_flt : (subcarrierGone sc s).flt = (retired 9 sc s).flt :=
  have h : Part.flt.same (retired 9 sc s) (subcarrierGone sc s) := by simp [subcarrierGone]
  h

theorem subcarrierRetire_retired : isRetired (subcarrierRetire sc s) 9 sc = true := by
  have hflt : Part.flt.same (subcarrierGone sc s) (subcarrierRetire sc s) := by simp [subcarrierRetire_eq]
  rw [isRetired_congr hflt, isRetired_of_unit (congrArg Faults.unit (subcarrierGone_flt sc s)), isRetired_retired]

theorem subcarrierRetire_rxSc :
    (rxSc (subcarrierRetire sc s) sc).oos = true ∧ (rxSc (subcarrierRetire sc s) sc).conv = false := by
  have hrxs : Part.rxs.same (onRxSc sc (fun x => { x with oos := true }) (rehunt sc (stopSc true sc (retired 9 sc s))))
      (subcarrierRetire sc s) := by simp [subcarrierRetire_eq, subcarrierGone]
  have hhunt : rxSc (rehunt sc (stopSc true sc (retired 9 sc s))) sc = rxSc (stopSc true sc (retired 9 sc s)) sc := rfl
  rw [rxSc_congr hrxs, rxSc_same, hhunt]
  exact ⟨rfl, stopSc_conv ..⟩

theorem subcarrierGone_slotOwner {k : Nat} (hk : k < 40) : slotOwner (subcarrierGone sc s) (40 * sc + k) = {} := by
  rw [slotOwner, subcarrierGone, removeSlots, installMap_slot, tabGet_removeScs (by omega)]

theorem subcarrierRetire_slots {k : Nat} (hk : k < 40) :
    (slotOwner (subcarrierRetire sc s) (40 * sc + k)).tx = 0xFFF
      ∧ (slotOwner (subcarrierRetire sc s) (40 * sc + k)).rx = 0xFFF := by
  obtain ⟨htx, hrx⟩ := fillSlots_owners sc (losses s sc) (subcarrierGone sc s)
  have hraise (d : List Byte) (t : State) (j : Nat) : slotOwner (raise 0x0D04 15 sc 0 d t) j = slotOwner t j := rfl
  simp only [subcarrierRetire_eq, hraise, htx, hrx, subcarrierGone_slotOwner sc s hk, and_self]

theorem subcarrierRetire_logged :
    ∃ f, f ≤ 2 ∧ Logged 0x0D04 sc [byteOf f] (subcarrierRetire sc s)
      ∧ ((policyOf s 9).fill = false → f = 0) := by
  obtain ⟨hle, hnone⟩ := fillSlots_answer sc (losses s sc) (subcarrierGone sc s)
  have hpolicy : policyOf (subcarrierGone sc s) 9 = policyOf s 9 := by
    simp [policyOf, subcarrierGone_flt, retired]
  rw [hpolicy] at hnone
  exact ⟨_, hle, logged_raise .., hnone⟩
end SubcarrierRetire

/-- Settles O47: each clause is the lemma about its retirement, trap or end. -/
theorem unitsAndCores : Obligations.UnitsAndCores := by
  unfold Obligations.UnitsAndCores
  refine ⟨fun l s hl hnext => ?pair, fun i s hi hnext => ?d2d, fun i s hi hpow hret hing => ?d2dFault,
    fun sc s hsc hnext => ?subcarrier, fun c s hc hnext => ?core, fun c pc task s hc hrun hret hing => ?traps,
    fun c k s hc hst => ?restart, fun pt s hpt => ⟨fun hrun => ?ends, fun hidle => ?idle⟩⟩
  case pair => exact ⟨_, need_next.2 ⟨hl, rfl⟩, by simpa [hnext] using pairLaneRetire_spec l s⟩
  case d2d =>
    refine ⟨d2dRetire i s, need_next.2 ⟨hi, by simp [hnext]⟩, ?_⟩
    rcases lt_or_ge (tabGet 0 s.flt.d2dSpare (i / 128)) 2 with hspare | hlast
    · obtain ⟨hretired, hrest⟩ := d2dRetire_spare hspare
      exact ⟨hretired, fun _ => hrest, fun h => absurd hspare h.not_gt⟩
    · obtain ⟨hretired, hrest⟩ := d2dRetire_last hlast
      exact ⟨hretired, fun h => absurd hlast h.not_ge, fun _ => hrest⟩
  case d2dFault =>
    refine ⟨retryDone 8 i (unitFault 8 i s), need_next.2 ⟨hi, by simp [hpow]⟩, ?_⟩
    simp only [d2dLaneFault_unitRec hret hing, and_self]
  case subcarrier =>
    obtain ⟨f, hle, hlog, hnone⟩ := subcarrierRetire_logged sc s
    obtain ⟨hoos, hconv⟩ := subcarrierRetire_rxSc sc s
    refine ⟨subcarrierRetire sc s, need_next.2 ⟨hsc, by simp [hnext]⟩, subcarrierRetire_retired sc s, hoos, hconv,
      fun k hk => subcarrierRetire_slots sc s hk, ⟨f, hle, hlog⟩, fun h => ?_⟩
    rwa [hnone h] at hlog
  case core =>
    have hexec : exec (.cueCoreRetire c) s = .next (coreRetire c s) := need_next.2 ⟨hc, by simp [hnext]⟩
    exact ⟨fun h => ⟨_, hexec, coreRetire_leaves h⟩, fun h => ⟨_, hexec, coreRetire_last h⟩⟩
  case traps =>
    have hfetch (data : Bool) (addr : Nat) :
        exec (.coreFetchUe c data pc addr task) s = .next (coreFetchUe c data pc addr task s) :=
      need_next.2 ⟨hc, by simp [hrun]⟩
    refine ⟨⟨watchdogTrap c pc task s, need_next.2 ⟨hc, by simp [hrun]⟩, ?_⟩,
      ⟨coreTrap c 4 pc 0 task s, need_next.2 ⟨hc, by simp [hrun]⟩, coreTrap_st .., coreTrap_frozen ..,
        coreTrap_total _ _ _ _ _ _ hret hing⟩,
      fun addr => ⟨⟨_, hfetch false addr, ?_⟩, ⟨_, hfetch true addr, ?_⟩⟩⟩
    · refine ⟨by rw [watchdogTrap_coreOf, coreTrap_st], watchdogTrap_frozen .., ?_, watchdogTrap_last pc task⟩
      rw [unitRec, (watchdogTrap_flt c pc task s).2]
      exact coreTrap_total _ _ _ _ _ _ hret hing
    · exact ⟨coreFetchUe_st .., coreFetchUe_frozen .., coreFetchUe_warm .., coreFetchUe_unc _ _ _ _ _ _ 69 rfl⟩
    · exact ⟨coreFetchUe_st .., coreFetchUe_frozen .., coreFetchUe_warm .., coreFetchUe_unc _ _ _ _ _ _ 70 rfl⟩
  case restart => exact ⟨_, need_next.2 ⟨hc, rfl⟩, coreRestart_trapped hst⟩
  case ends => exact ⟨_, need_next.2 ⟨hpt, rfl⟩, injectionEnd_running hrun⟩
  case idle => exact need_next.2 ⟨hpt, by simp [injectionEnd, hidle]⟩

end Sys2Proof.Machine
end

section
/-! PROOF of O1. -/
namespace Sys2Proof.Machine

/-- Settles O1: by the definition of a step. -/
theorem stepRunsFrontCommand : Obligations.StepRunsFrontCommand := by
  unfold Obligations.StepRunsFrontCommand
  intro c rest s h
  unfold step
  rw [h]

end Sys2Proof.Machine
end

section
/-! SUPPORT: what a response leaves (R51, R53/02), for every command that is answered in its mailbox, and small facts about
outcomes. -/
namespace Sys2Proof.Machine

variable {s t u : State}

theorem runs_of_exec {c : Instr} {P : State → Prop} (h : exec c s = .next t) (hp : P t) : Runs c s P := ⟨t, h, hp⟩

/-- A guarded change that would change nothing changes nothing. -/
theorem onlyIf_self {c : Bool} {f : State → State} (h : f s = s) : onlyIf c f s = s := by
  cases c
  · rfl
  · exact h

/-- What a guarded change leaves, it leaves in either case. -/
theorem onlyIf_apply {α : Type} (g : State → α) (c : Bool) {f : State → State} (h : g (f s) = g s) : g (onlyIf c f s) = g s := by
  cases c
  · rfl
  · exact h

theorem bvBit_bvClr {w k : Nat} (x : BitVec w) (v : Nat) (hk : k < w) :
    bvBit (bvClr x v) k = (bvBit x k && !decide (k = v)) := by
  rw [bvBit, bvClr, BitVec.getLsbD_and, BitVec.getLsbD_not, BitVec.getLsbD_ofNat, Nat.testBit_two_pow]
  simp [hk, bvBit, eq_comm]

/-! The registers after a response. -/

@[simp] theorem raiseVector_ctrl (v : Nat) (s : State) :
    (raiseVector v s).ctrl = { s.ctrl with intStatus := bvSet s.ctrl.intStatus v } := by
  unfold raiseVector onlyIf
  split <;> rfl

@[simp] theorem mirror_ctrl (r : MirrorRecord) (s : State) : (mirror r s).ctrl = s.ctrl := within_mirror r s .ctrl (by simp)

@[simp] theorem mirrorCommand_ctrl (r : Req) (a : Reply) : (mirrorCommand r a).ctrl = a.st.ctrl :=
  within_mirrorCommand r a .ctrl (by simp)

theorem respond_ctrl (r : Req) (a : Reply) : (respond r a).ctrl = { a.st.ctrl with
    cfgGen := genAfter r a
    accepted := noteAccepted r.mb r.now a.st.ctrl
    mail := tabSet (zeros 256) a.st.ctrl.mail r.mb (overlay 0 (responseHeader r a ++ a.pay) (mailOf a.st r.mb))
    rung := a.st.ctrl.rung.erase r.mb
    mbBusy := bvClr a.st.ctrl.mbBusy r.mb
    mbDone := bvSet a.st.ctrl.mbDone r.mb
    intStatus := bvSet a.st.ctrl.intStatus r.mb } := by
  unfold respond writeResponse
  simp

/-- A response leaves every part but the registers, the events and the pair as the command's rules left it. -/
theorem respond_same (r : Req) (a : Reply) {q : Part} (hq : q ∉ [Part.ctrl, .ev, .pair]) : q.same a.st (respond r a) :=
  within_respond r a q hq

theorem mailOf_respond_same (r : Req) (a : Reply) :
    mailOf (respond r a) r.mb = overlay 0 (responseHeader r a ++ a.pay) (mailOf a.st r.mb) := by
  rw [mailOf, respond_ctrl]
  exact tabGet_set_same ..

theorem mailOf_respond_other (r : Req) (a : Reply) {m : Nat} (hm : m ≠ r.mb) : mailOf (respond r a) m = mailOf a.st m := by
  rw [mailOf, respond_ctrl]
  exact tabGet_set_other _ _ _ hm

/-! The fields of a response. -/

theorem responseHeader_length (r : Req) (a : Reply) : (responseHeader r a).length = 16 := by simp [responseHeader]

/-- A field that lies in the header, or in the header and the payload, is read from them. -/
theorem field_mailOf_respond (r : Req) (a : Reply) {off n : Nat} (h : off + n ≤ 16 + a.pay.length) :
    field off n (mailOf (respond r a) r.mb) = field off n (responseHeader r a ++ a.pay) := by
  have hlen : (responseHeader r a ++ a.pay).length = 16 + a.pay.length := by simp [responseHeader_length]
  rw [mailOf_respond_same, overlay_zero, field, field, List.drop_append_of_le_length (by omega),
    List.take_append_of_le_length (by simp only [List.length_drop]; omega)]

theorem respBytes_respond (r : Req) (a : Reply) {off n : Nat} (h : off + n ≤ a.pay.length) :
    respBytes (respond r a) r.mb off n = field off n a.pay := by
  rw [respBytes, field_mailOf_respond r a (by omega), field, field, ← List.drop_drop, ← responseHeader_length r a, List.drop_left]

theorem resp_respond (r : Req) (a : Reply) {off n : Nat} (h : off + n ≤ a.pay.length) :
    resp (respond r a) r.mb off n = getU off n a.pay := congrArg beNat (respBytes_respond r a h)

theorem codeIn_respond (r : Req) (a : Reply) : codeIn (respond r a) r.mb = codeNum a.code := by
  rw [codeIn, getU, field_mailOf_respond r a (by omega)]
  simp only [responseHeader, natBE, field]
  cases a.code <;> rfl

theorem flags_respond (r : Req) (a : Reply) : 128 ≤ getU 6 1 (mailOf (respond r a) r.mb) := by
  rw [getU, field_mailOf_respond r a (by omega)]
  have hflags : field 6 1 (responseHeader r a ++ a.pay) = [BitVec.ofNat 8 (r.flags % 4 + 128)] := rfl
  rw [hflags]
  simp [beNat]
  omega

theorem gen_respond (r : Req) (a : Reply) : getU 8 4 (mailOf (respond r a) r.mb) = (genAfter r a).toNat := by
  rw [getU, field_mailOf_respond r a (by omega)]
  have hgen : field 8 4 (responseHeader r a ++ a.pay) = natBE 4 (genAfter r a).toNat := rfl
  rw [hgen, beNat_natBE]
  exact Nat.mod_eq_of_lt (genAfter r a).isLt

/-- A command that is answered is answered with its reply's code. -/
theorem answered_respond (r : Req) (a : Reply) (hm : okMb r.mb = true) : AnsweredWith a.code r.mb (respond r a) := by
  have hmb : r.mb < 8 := by simpa [okMb] using hm
  refine ⟨codeIn_respond r a, flags_respond r a, ?_, ?_⟩
  · simp [respond_ctrl, bvBit_bvClr _ _ hmb]
  · simp [respond_ctrl, bvBit_bvSet _ _ hmb]

end Sys2Proof.Machine
end

section
/-! SUPPORT of O60 and O59: what leaves the bytes of bulk memory as they read, and the mailboxes as they stand. One
lemma for each function of the state, in the order of the model. -/
namespace Sys2Proof.Machine

/-- The bytes of bulk memory as they read, and, with `mail`, what the mailboxes hold. -/
def kept (mail : Bool) (s : State) : (Nat → Byte) × Tab (List Byte) := (bulkByte s, if mail then s.ctrl.mail else [])

variable {mail : Bool} {s t u : State}

theorem bulkByte_congr (hm : t.bulk.mem = s.bulk.mem) (hv : t.bulk.valid = s.bulk.valid) (a : Nat) :
    bulkByte t a = bulkByte s a := by
  have hvalid : regionValid t (regionOf a) = regionValid s (regionOf a) := by rw [regionValid, regionValid, hv]
  rw [bulkByte, bulkByte, hvalid, hm]

theorem kept_congr (hm : t.bulk.mem = s.bulk.mem) (hv : t.bulk.valid = s.bulk.valid) (hc : t.ctrl.mail = s.ctrl.mail) :
    kept mail t = kept mail s := Prod.ext (funext (bulkByte_congr hm hv)) (by simp only [kept, hc])

@[simp] theorem kept_ite {c : Prop} [Decidable c] :
    kept mail (if c then t else u) = if c then kept mail t else kept mail u := apply_ite ..

@[simp] theorem kept_onlyIf (c : Bool) (f : State → State) :
    kept mail (onlyIf c f s) = if c then kept mail (f s) else kept mail s := by cases c <;> rfl

@[simp] theorem kept_forAll {α : Type} (f : α → State → State) (l : List α)
    (h : ∀ a u, kept mail (f a u) = kept mail u) : kept mail (forAll f l s) = kept mail s := by
  induction l generalizing s with
  | nil => rfl
  | cons a l ih => exact ih.trans (h a s)

@[simp] theorem kept_onCtrl (f) (h : ∀ c, (f c).mail = c.mail) : kept mail (onCtrl f s) = kept mail s :=
  kept_congr rfl rfl (h _)

theorem kept_false_onCtrl (f) : kept false (onCtrl f s) = kept false s := Prod.ext rfl rfl

@[simp] theorem kept_onBulk (f) (hm : ∀ m, (f m).mem = m.mem) (hv : ∀ m, (f m).valid = m.valid) :
    kept mail (onBulk f s) = kept mail s := kept_congr (hm _) (hv _) rfl

@[simp] theorem kept_atInstant (at_ f) (h : ∀ s, kept mail (f s) = kept mail s) :
    kept mail (atInstant at_ f s) = kept mail s := by
  have hf := h { s with timing := { s.timing with tc := at_ } }
  unfold atInstant
  dsimp only
  split <;> exact hf

@[simp] theorem st_ite {c : Prop} [Decidable c] {x y : Reply} :
    (if c then x else y).st = if c then x.st else y.st := apply_ite ..

@[simp] theorem kept_okay : kept mail (okay s).st = kept mail s := kept_congr rfl rfl rfl
@[simp] theorem kept_okSame : kept mail (okSame s).st = kept mail s := kept_congr rfl rfl rfl
@[simp] theorem kept_okWith (p) : kept mail (okWith p s).st = kept mail s := kept_congr rfl rfl rfl
@[simp] theorem kept_refuse (c) : kept mail (refuse c s).st = kept mail s := kept_congr rfl rfl rfl

@[simp] theorem kept_onPort (body r) (h : ∀ p r s, kept mail (body p r s).st = kept mail s) :
    kept mail (onPort body r s).st = kept mail s := by simp [onPort, h]
@[simp] theorem kept_onSc (body r) (h : ∀ p r s, kept mail (body p r s).st = kept mail s) :
    kept mail (onSc body r s).st = kept mail s := by simp [onSc, h]
@[simp] theorem kept_onMc (body r) (h : ∀ p r s, kept mail (body p r s).st = kept mail s) :
    kept mail (onMc body r s).st = kept mail s := by simp [onMc, h]
@[simp] theorem kept_onNn (body r) (h : ∀ p r s, kept mail (body p r s).st = kept mail s) :
    kept mail (onNn body r s).st = kept mail s := by simp [onNn, h]
@[simp] theorem kept_onCtx (body r) (h : ∀ p r s, kept mail (body p r s).st = kept mail s) :
    kept mail (onCtx body r s).st = kept mail s := by simp [onCtx, h]
@[simp] theorem kept_onCal (body r) (h : ∀ a b c d r s, kept mail (body a b c d r s).st = kept mail s) :
    kept mail (onCal body r s).st = kept mail s := by simp [onCal, h]

/-! Ops. -/

@[simp] theorem kept_onTxPort (k f) : kept mail (onTxPort k f s) = kept mail s := kept_congr rfl rfl rfl
@[simp] theorem kept_onTxSc (k f) : kept mail (onTxSc k f s) = kept mail s := kept_congr rfl rfl rfl
@[simp] theorem kept_onRxPort (k f) : kept mail (onRxPort k f s) = kept mail s := kept_congr rfl rfl rfl
@[simp] theorem kept_onRxSc (k f) : kept mail (onRxSc k f s) = kept mail s := kept_congr rfl rfl rfl
@[simp] theorem kept_onFecPort (k f) : kept mail (onFecPort k f s) = kept mail s := kept_congr rfl rfl rfl
@[simp] theorem kept_onFecSc (k f) : kept mail (onFecSc k f s) = kept mail s := kept_congr rfl rfl rfl
@[simp] theorem kept_onTxFrame (k f) : kept mail (onTxFrame k f s) = kept mail s := kept_congr rfl rfl rfl
@[simp] theorem kept_onRxFramer (k f) : kept mail (onRxFramer k f s) = kept mail s := kept_congr rfl rfl rfl
@[simp] theorem kept_onFrPort (k f) : kept mail (onFrPort k f s) = kept mail s := kept_congr rfl rfl rfl
@[simp] theorem kept_onPmObj (k f) : kept mail (onPmObj k f s) = kept mail s := kept_congr rfl rfl rfl
@[simp] theorem kept_onDefSt (k f) : kept mail (onDefSt k f s) = kept mail s := kept_congr rfl rfl rfl
@[simp] theorem kept_onHubPort (k f) : kept mail (onHubPort k f s) = kept mail s := kept_congr rfl rfl rfl
@[simp] theorem kept_onLaneOf (k f) : kept mail (onLaneOf k f s) = kept mail s := kept_congr rfl rfl rfl
@[simp] theorem kept_onHostPort (k f) : kept mail (onHostPort k f s) = kept mail s := kept_congr rfl rfl rfl
@[simp] theorem kept_onTribOf (k f) : kept mail (onTribOf k f s) = kept mail s := kept_congr rfl rfl rfl
@[simp] theorem kept_onSlotOwner (k f) : kept mail (onSlotOwner k f s) = kept mail s := kept_congr rfl rfl rfl
@[simp] theorem kept_onCtxOf (k f) : kept mail (onCtxOf k f s) = kept mail s := kept_congr rfl rfl rfl
@[simp] theorem kept_onSandOf (k f) : kept mail (onSandOf k f s) = kept mail s := kept_congr rfl rfl rfl
@[simp] theorem kept_onPaceUnit (k f) : kept mail (onPaceUnit k f s) = kept mail s := kept_congr rfl rfl rfl
@[simp] theorem kept_onCoreOf (k f) : kept mail (onCoreOf k f s) = kept mail s := kept_congr rfl rfl rfl
@[simp] theorem kept_onUnitRec (k f) : kept mail (onUnitRec k f s) = kept mail s := kept_congr rfl rfl rfl
@[simp] theorem kept_onPolicyOf (k f) : kept mail (onPolicyOf k f s) = kept mail s := kept_congr rfl rfl rfl
@[simp] theorem kept_onInjOf (k f) : kept mail (onInjOf k f s) = kept mail s := kept_congr rfl rfl rfl
@[simp] theorem kept_onCandOf (k f) : kept mail (onCandOf k f s) = kept mail s := kept_congr rfl rfl rfl
@[simp] theorem kept_onTransferOf (k f) : kept mail (onTransferOf k f s) = kept mail s := kept_congr rfl rfl rfl
@[simp] theorem kept_onConvOf (k f) : kept mail (onConvOf k f s) = kept mail s := kept_congr rfl rfl rfl
@[simp] theorem kept_onChanVal (k f) : kept mail (onChanVal k f s) = kept mail s := kept_congr rfl rfl rfl
@[simp] theorem kept_onDieOf (k f) : kept mail (onDieOf k f s) = kept mail s := kept_congr rfl rfl rfl
@[simp] theorem kept_onCalVal (k f) : kept mail (onCalVal k f s) = kept mail s := kept_congr rfl rfl rfl
@[simp] theorem kept_onLimitsOf (k f) : kept mail (onLimitsOf k f s) = kept mail s := kept_congr rfl rfl rfl
@[simp] theorem kept_onProfileOf (k f) : kept mail (onProfileOf k f s) = kept mail s := kept_congr rfl rfl rfl
@[simp] theorem kept_onFifoOf (k f) : kept mail (onFifoOf k f s) = kept mail s := kept_congr rfl rfl rfl
@[simp] theorem kept_onMergedOf (k f) : kept mail (onMergedOf k f s) = kept mail s := kept_congr rfl rfl rfl
@[simp] theorem kept_onHoldOf (k f) : kept mail (onHoldOf k f s) = kept mail s := kept_congr rfl rfl rfl
@[simp] theorem kept_onEv (f) : kept mail (onEv f s) = kept mail s := kept_congr rfl rfl rfl
@[simp] theorem kept_onFw (f) : kept mail (onFw f s) = kept mail s := kept_congr rfl rfl rfl
@[simp] theorem kept_onPower (f) : kept mail (onPower f s) = kept mail s := kept_congr rfl rfl rfl
@[simp] theorem kept_onFrameSt (f) : kept mail (onFrameSt f s) = kept mail s := kept_congr rfl rfl rfl
@[simp] theorem kept_onSvc (f) : kept mail (onSvc f s) = kept mail s := kept_congr rfl rfl rfl
@[simp] theorem kept_onCipher (f) : kept mail (onCipher f s) = kept mail s := kept_congr rfl rfl rfl
@[simp] theorem kept_onTiming (f) : kept mail (onTiming f s) = kept mail s := kept_congr rfl rfl rfl
@[simp] theorem kept_onCues (f) : kept mail (onCues f s) = kept mail s := kept_congr rfl rfl rfl
@[simp] theorem kept_onPair (f) : kept mail (onPair f s) = kept mail s := kept_congr rfl rfl rfl
@[simp] theorem kept_onTherm (f) : kept mail (onTherm f s) = kept mail s := kept_congr rfl rfl rfl
@[simp] theorem kept_onFlt (f) : kept mail (onFlt f s) = kept mail s := kept_congr rfl rfl rfl
@[simp] theorem kept_onLog (f) : kept mail (onLog f s) = kept mail s := kept_congr rfl rfl rfl
@[simp] theorem kept_onTracer (f) : kept mail (onTracer f s) = kept mail s := kept_congr rfl rfl rfl
@[simp] theorem kept_useFree : kept mail (useFree s) = kept mail s := kept_congr rfl rfl rfl
@[simp] theorem kept_useFrees (n) : kept mail (useFrees n s) = kept mail s := kept_congr rfl rfl rfl
@[simp] theorem kept_chipPut (g k n) : kept mail (chipPut g k n s) = kept mail s := kept_congr rfl rfl rfl
@[simp] theorem kept_queueCells (n) : kept mail (queueCells n s) = kept mail s := by simp [queueCells]
@[simp] theorem kept_clockTo (at_) : kept mail (clockTo at_ s) = kept mail s := kept_congr rfl rfl rfl
@[simp] theorem kept_paceEvent (u ev n) : kept mail (paceEvent u ev n s) = kept mail s := kept_congr rfl rfl rfl
@[simp] theorem kept_paceToken (u) : kept mail (paceToken u s) = kept mail s := kept_congr rfl rfl rfl
@[simp] theorem kept_coreEvent (c ev) : kept mail (coreEvent c ev s) = kept mail s := kept_congr rfl rfl rfl
@[simp] theorem kept_readSmall (x) : kept mail (readSmall x s) = kept mail s := kept_congr rfl rfl rfl
@[simp] theorem kept_setCue (i c) : kept mail (setCue i c s) = kept mail s := kept_congr rfl rfl rfl
@[simp] theorem kept_clearCue (i) : kept mail (clearCue i s) = kept mail s := kept_congr rfl rfl rfl

@[simp] theorem kept_clearFarCue (p b) : kept mail (clearFarCue p b s) = kept mail s := by
  unfold clearFarCue
  split <;> simp

@[simp] theorem kept_holdValue (x v) : kept mail (holdValue x v s) = kept mail s := kept_congr rfl rfl rfl
@[simp] theorem kept_pulseStrobe : kept mail (pulseStrobe s) = kept mail s := kept_congr rfl rfl rfl
@[simp] theorem kept_placeCue (i c) : kept mail (placeCue i c s) = kept mail s := kept_congr rfl rfl rfl

/-! Flags. -/

@[simp] theorem kept_sendMsix (v) : kept mail (sendMsix v s) = kept mail s := kept_congr rfl rfl rfl
@[simp] theorem kept_raiseVector (v) : kept mail (raiseVector v s) = kept mail s := by simp [raiseVector]
@[simp] theorem kept_record (e) : kept mail (record e s) = kept mail s := kept_congr rfl rfl rfl

@[simp] theorem kept_raiseEvent (mirrored code vector src tag data) :
    kept mail (raiseEvent mirrored code vector src tag data s) = kept mail s :=
  kept_congr rfl rfl rfl

@[simp] theorem kept_raise (code vector src tag data) : kept mail (raise code vector src tag data s) = kept mail s :=
  kept_congr rfl rfl rfl

@[simp] theorem kept_raisePort (code p data) : kept mail (raisePort code p data s) = kept mail s :=
  kept_congr rfl rfl rfl

@[simp] theorem kept_raiseSc (code sc data) : kept mail (raiseSc code sc data s) = kept mail s :=
  kept_congr rfl rfl rfl

@[simp] theorem kept_freezeLog (cause) : kept mail (freezeLog cause s) = kept mail s := by simp [freezeLog]
@[simp] theorem kept_unitFault (typ idx) : kept mail (unitFault typ idx s) = kept mail s := by simp [unitFault]
@[simp] theorem kept_retired (typ idx) : kept mail (retired typ idx s) = kept mail s := kept_congr rfl rfl rfl
@[simp] theorem kept_notRetired (typ idx) : kept mail (notRetired typ idx s) = kept mail s := kept_congr rfl rfl rfl
@[simp] theorem kept_retryDone (typ idx) : kept mail (retryDone typ idx s) = kept mail s := kept_congr rfl rfl rfl
@[simp] theorem kept_injAct (pt) : kept mail (injAct pt s) = kept mail s := kept_congr rfl rfl rfl

@[simp] theorem kept_discardItem (ch) : kept mail (discardItem ch s) = kept mail s := by
  unfold discardItem
  split <;> simp

@[simp] theorem kept_haltDma (ch) : kept mail (haltDma ch s) = kept mail s := by simp [haltDma]
@[simp] theorem kept_noteGauge (sc k v) : kept mail (noteGauge sc k v s) = kept mail s := kept_congr rfl rfl rfl
@[simp] theorem kept_tellPartner (m) : kept mail (tellPartner m s) = kept mail s := by simp [tellPartner]
@[simp] theorem kept_mirror (r) : kept mail (mirror r s) = kept mail s := by simp [mirror]
@[simp] theorem kept_startResync : kept mail (startResync s) = kept mail s := by simp [startResync]
@[simp] theorem kept_leaveStep : kept mail (leaveStep s) = kept mail s := by simp [leaveStep]
@[simp] theorem kept_noteLate (late) : kept mail (noteLate late s) = kept mail s := by simp [noteLate]
@[simp] theorem kept_cueDone (i at_ first) : kept mail (cueDone i at_ first s) = kept mail s := by simp [cueDone]
@[simp] theorem kept_cueAgain (i at_ first) : kept mail (cueAgain i at_ first s) = kept mail s := by simp [cueAgain]

/-! Operands. -/

@[simp] theorem kept_defer (r obj) : kept mail (defer r obj s).st = kept mail s := kept_congr rfl rfl rfl
@[simp] theorem kept_mirrorCommand (r a) : kept mail (mirrorCommand r a) = kept mail a.st := by simp [mirrorCommand]

@[simp] theorem kept_writeResponse (r a) : kept false (writeResponse r a s) = kept false s := by
  simp [writeResponse, kept_false_onCtrl]

@[simp] theorem kept_commandDone (d c) : kept mail (commandDone d c s) = kept mail s := by simp [commandDone]

@[simp] theorem kept_finishDeferred (op obj c) : kept mail (finishDeferred op obj c s) = kept mail s := by
  unfold finishDeferred
  split <;> simp

@[simp] theorem kept_finishEach (op obj c) : kept mail (finishEach op obj c s) = kept mail s := by simp [finishEach]

/-! Bulk. -/

@[simp] theorem kept_setStatus (w st) : kept mail (setStatus w st s) = kept mail s := by
  unfold setStatus
  split <;> simp

@[simp] theorem kept_sandAdd (g) : kept mail (sandAdd g s) = kept mail s := by simp [sandAdd]
@[simp] theorem kept_correctedWord (addr) : kept mail (correctedWord addr s) = kept mail s := by simp [correctedWord]

@[simp] theorem kept_uncorrectableWord (c addr) : kept mail (uncorrectableWord c addr s) = kept mail s := by
  simp [uncorrectableWord]

theorem regionValid_fillRegion (r q : Nat) :
    regionValid (fillRegion r s) q = (regionValid s q || (q == r && !regionHeld s r)) := by
  unfold fillRegion
  by_cases hq : q = r <;> cases hheld : regionHeld s r <;> simp [regionValid, tabGet_set, hq]

/-- A region that no write has filled reads as zero, before it is filled and after (R331). -/
theorem bulkByte_fillRegion (r a : Nat) : bulkByte (fillRegion r s) a = bulkByte s a := by
  have hin : 4096 * r ≤ a ∧ a < 4096 * r + 4096 ↔ regionOf a = r := by unfold regionOf; omega
  rw [bulkByte, bulkByte, regionValid_fillRegion]
  cases hheld : regionHeld s r
  · have hvalid : regionValid s r = false := by simp_all [regionHeld]
    by_cases ha : regionOf a = r <;> simp [fillRegion, hheld, ha, hvalid, memByte_memDrop, hin]
  · simp [fillRegion, hheld]

@[simp] theorem kept_fillRegion (r) : kept mail (fillRegion r s) = kept mail s :=
  Prod.ext (funext (bulkByte_fillRegion r)) (by
    unfold fillRegion
    cases regionHeld s r <;> rfl)

@[simp] theorem kept_losesLine (line) : kept mail (losesLine line s) = kept mail s := kept_congr rfl rfl rfl

@[simp] theorem kept_mergeWord (addr syms) : kept mail (mergeWord addr syms s) = kept mail s := by
  unfold mergeWord
  split <;> simp

@[simp] theorem kept_dropTransmit (t express i) : kept mail (dropTransmit t express i s) = kept mail s := by
  unfold dropTransmit
  dsimp only
  split <;> simp

@[simp] theorem kept_dropEgress (nn i) : kept mail (dropEgress nn i s) = kept mail s := by
  unfold dropEgress
  split <;> simp

@[simp] theorem kept_dropQueued : kept mail (dropQueued s) = kept mail s := by
  unfold dropQueued
  dsimp only
  split <;> simp

@[simp] theorem kept_forgetCounts (line) : kept mail (forgetCounts line s) = kept mail s := kept_congr rfl rfl rfl
@[simp] theorem kept_eraseContext (c) : kept mail (eraseContext c s) = kept mail s := kept_congr rfl rfl rfl
@[simp] theorem kept_dropCacheLine (g w) : kept mail (dropCacheLine g w s) = kept mail s := kept_congr rfl rfl rfl

@[simp] theorem kept_markDelayed : kept mail (markDelayed s) = kept mail s := by
  unfold markDelayed
  dsimp only
  split <;> simp

@[simp] theorem kept_losesBin : kept mail (losesBin s) = kept mail s := by
  unfold losesBin
  split <;> simp

theorem kept_consequence {c : Nat} (hc : c ≠ 5) (addr) : kept mail (consequence c addr s) = kept mail s := by
  unfold consequence
  split <;> simp_all

theorem kept_readMore {c : Nat} (hc : c ≠ 5) (addr syms inj) :
    kept mail (readMore c addr syms inj s) = kept mail s := by
  unfold readMore
  split
  · rfl
  · split <;> simp [kept_consequence hc]

@[simp] theorem kept_readWord {c : Nat} (hc : c ≠ 5) (addr syms) : kept mail (readWord c addr syms s) = kept mail s :=
  kept_readMore hc ..

@[simp] theorem kept_readInjected {c : Nat} (hc : c ≠ 5) (addr syms) :
    kept mail (readInjected c addr syms s) = kept mail s := by
  unfold readInjected
  split
  · exact kept_readWord hc ..
  · simp [kept_readMore hc]

@[simp] theorem kept_readWords {c : Nat} (hc : c ≠ 5) (l) : kept mail (readWords c l s).2 = kept mail s := by
  induction l generalizing s with
  | nil => rfl
  | cons a l ih => exact ih.trans (kept_readInjected hc ..)

@[simp] theorem kept_sweepStep (onChip addr syms) : kept mail (sweepStep onChip addr syms s) = kept mail s := by
  simp [sweepStep]

@[simp] theorem kept_sweepPassEnd (onChip dur) : kept mail (sweepPassEnd onChip dur s) = kept mail s := by
  simp [sweepPassEnd]

@[simp] theorem kept_budgetCheck : kept mail (budgetCheck s) = kept mail s := by simp [budgetCheck]
@[simp] theorem kept_pcRetired (g poisoned) : kept mail (pcRetired g poisoned s) = kept mail s := by simp [pcRetired]
@[simp] theorem kept_startMigration (g) : kept mail (startMigration g s) = kept mail s := by simp [startMigration]
@[simp] theorem kept_pcRetire (g) : kept mail (pcRetire g s) = kept mail s := by simp [pcRetire]

@[simp] theorem kept_copyWord (r bad k) : kept mail (copyWord r bad k s) = kept mail s := by
  unfold copyWord
  dsimp only
  split <;> simp

@[simp] theorem kept_regionCopy (bad) : kept mail (regionCopy bad s) = kept mail s := by
  unfold regionCopy
  split
  · simp
  · split <;> simp

@[simp] theorem kept_bulkSweep (r) : kept mail (bulkSweep r s).st = kept mail s := by simp [bulkSweep]
@[simp] theorem kept_bulkSandglass (r) : kept mail (bulkSandglass r s).st = kept mail s := by simp [bulkSandglass]
@[simp] theorem kept_bulkStatus (r) : kept mail (bulkStatus r s).st = kept mail s := kept_congr rfl rfl rfl
@[simp] theorem kept_bulkMemstatus (r) : kept mail (bulkMemstatus r s).st = kept mail s := by simp [bulkMemstatus]
@[simp] theorem kept_bulkBudget (r) : kept mail (bulkBudget r s).st = kept mail s := kept_congr rfl rfl rfl
@[simp] theorem kept_bulkRetire (r) : kept mail (bulkRetire r s).st = kept mail s := by simp [bulkRetire]
@[simp] theorem kept_retireStarts (r) : kept mail (retireStarts r s) = kept mail s := by simp [retireStarts]

/-! Monitor. -/

@[simp] theorem kept_overload (n ch) : kept mail (overload n ch s) = kept mail s := by simp [overload]

@[simp] theorem kept_housekeepingSlot (n code ovl) : kept mail (housekeepingSlot n code ovl s) = kept mail s := by
  simp [housekeepingSlot]

@[simp] theorem kept_resetConv (n at_) : kept mail (resetConv n at_ s) = kept mail s := kept_congr rfl rfl rfl

@[simp] theorem kept_monSyncReset (n at_) : kept mail (monSyncReset n at_ s) = kept mail s := by
  unfold monSyncReset
  split <;> simp

@[simp] theorem kept_monOutput (n o) : kept mail (monOutput n o s) = kept mail s := by simp [monOutput]
@[simp] theorem kept_placeCfg (n edge g) : kept mail (placeCfg n edge g s) = kept mail s := kept_congr rfl rfl rfl

@[simp] theorem kept_monConfig (r) : kept mail (monConfig r s).st = kept mail s := by
  refine kept_onMc _ _ fun n r s => ?_
  dsimp only
  split
  · rfl
  · split
    · rfl
    · split
      · rfl
      · simp only [kept_okWith]
        split <;> simp

@[simp] theorem kept_monSync (r) : kept mail (monSync r s).st = kept mail s := by
  unfold monSync
  dsimp only
  repeat' split
  all_goals simp

@[simp] theorem kept_monRead (r) : kept mail (monRead r s).st = kept mail s := by simp [monRead]
@[simp] theorem kept_monStatus (r) : kept mail (monStatus r s).st = kept mail s := by simp [monStatus]
@[simp] theorem kept_monValue (r) : kept mail (monValue r s).st = kept mail s := by simp [monValue]

/-! LineTx. -/

@[simp] theorem kept_zeroFec (p) : kept mail (zeroFec p s) = kept mail s := by simp [zeroFec]
@[simp] theorem kept_railsOff (p) : kept mail (railsOff p s) = kept mail s := kept_congr rfl rfl rfl
@[simp] theorem kept_darkCheck (p) : kept mail (darkCheck p s) = kept mail s := by simp [darkCheck]
@[simp] theorem kept_shutTx (p st) : kept mail (shutTx p st s) = kept mail s := kept_congr rfl rfl rfl
@[simp] theorem kept_retarget (p) : kept mail (retarget p s) = kept mail s := by simp [retarget]
@[simp] theorem kept_endJoin (p c) : kept mail (endJoin p c s) = kept mail s := by simp [endJoin]
@[simp] theorem kept_closeTx (p) : kept mail (closeTx p s) = kept mail s := by simp [closeTx]
@[simp] theorem kept_startTx (p lo) : kept mail (startTx p lo s) = kept mail s := kept_congr rfl rfl rfl
@[simp] theorem kept_feedLost (p cause) : kept mail (feedLost p cause s) = kept mail s := by simp [feedLost]
@[simp] theorem kept_startExchange (p) : kept mail (startExchange p s) = kept mail s := by simp [startExchange]
@[simp] theorem kept_portLaser (r) : kept mail (portLaser r s).st = kept mail s := by simp [portLaser]
@[simp] theorem kept_portTxenable (lo r) : kept mail (portTxenable lo r s).st = kept mail s := by simp [portTxenable]
@[simp] theorem kept_deniedEnable (r) : kept mail (deniedEnable r s) = kept mail s := by simp [deniedEnable]
@[simp] theorem kept_settleAttn (p) : kept mail (settleAttn p s) = kept mail s := kept_congr rfl rfl rfl
@[simp] theorem kept_txEnableDone (p) : kept mail (txEnableDone p s) = kept mail s := by simp [txEnableDone]
@[simp] theorem kept_portTxdisable (r) : kept mail (portTxdisable r s).st = kept mail s := by simp [portTxdisable]
@[simp] theorem kept_txFeedLoss (p lo) : kept mail (txFeedLoss p lo s) = kept mail s := by simp [txFeedLoss]
@[simp] theorem kept_portTxpower (feed r) : kept mail (portTxpower feed r s).st = kept mail s := by simp [portTxpower]
@[simp] theorem kept_dropChange (p c) : kept mail (dropChange p c s) = kept mail s := kept_congr rfl rfl rfl

theorem kept_placeChange {p mask classes boundary tag origin}
    (h : placeChange p mask classes boundary tag origin s = some t) :
    kept mail t = kept mail s := by
  unfold placeChange at h
  split at h
  · cases h
  · dsimp only at h
    split at h <;> cases h
    simp

@[simp] theorem kept_mergeChange (p old mask classes) : kept mail (mergeChange p old mask classes s) = kept mail s :=
  kept_congr rfl rfl rfl

theorem kept_mergeOrPlace {p mask classes boundary tag x} (h : mergeOrPlace p mask classes boundary tag s = some x) :
    kept mail x.2.2 = kept mail s := by
  unfold mergeOrPlace at h
  split at h
  · cases h
    simp
  · obtain ⟨t, ht, rfl⟩ := Option.map_eq_some_iff.1 h
    exact kept_placeChange ht

@[simp] theorem kept_formatReply (b placement) : kept mail (formatReply b placement s).st = kept mail s :=
  kept_congr rfl rfl rfl

@[simp] theorem kept_portFormat (r) : kept mail (portFormat r s).st = kept mail s := by
  refine kept_onPort _ _ fun p r s => ?_
  dsimp only
  split
  · rfl
  · split
    · split
      · rfl
      next h => simpa using kept_mergeOrPlace h
    · split
      · rfl
      · split
        · rfl
        · split
          · split
            · rfl
            next h => simpa using kept_mergeOrPlace h
          · split
            · split
              · rfl
              next h => simp [kept_placeChange h]
            · split
              · rfl
              · split
                · rfl
                next h => simp [kept_placeChange h]

@[simp] theorem kept_restartFrames (p c old k) : kept mail (restartFrames p c old k s) = kept mail s := by
  simp [restartFrames]

@[simp] theorem kept_applyFormat (i at_) : kept mail (applyFormat i at_ s) = kept mail s := by
  unfold applyFormat
  dsimp only
  split <;> simp

@[simp] theorem kept_portTxstatus (r) : kept mail (portTxstatus r s).st = kept mail s := by simp [portTxstatus]
@[simp] theorem kept_scTxpower (r) : kept mail (scTxpower r s).st = kept mail s := by simp [scTxpower]
@[simp] theorem kept_scTxstatus (r) : kept mail (scTxstatus r s).st = kept mail s := by simp [scTxstatus]

/-! LineRx. -/

@[simp] theorem kept_onCd (p f) : kept mail (onCd p f s) = kept mail s := kept_congr rfl rfl rfl

@[simp] theorem kept_freeCdCues (e) : kept mail (freeCdCues e s) = kept mail s := by
  unfold freeCdCues
  dsimp only
  split <;> simp

@[simp] theorem kept_endDissolve (p) : kept mail (endDissolve p s) = kept mail s := by simp [endDissolve]
@[simp] theorem kept_unconverge (quiet sc) : kept mail (unconverge quiet sc s) = kept mail s := by simp [unconverge]
@[simp] theorem kept_stopSc (quiet sc) : kept mail (stopSc quiet sc s) = kept mail s := by simp [stopSc]
@[simp] theorem kept_rehunt (sc) : kept mail (rehunt sc s) = kept mail s := kept_congr rfl rfl rfl
@[simp] theorem kept_resyncSc (sc) : kept mail (resyncSc sc s) = kept mail s := by simp [resyncSc]
@[simp] theorem kept_freezeGain (p) : kept mail (freezeGain p s) = kept mail s := kept_congr rfl rfl rfl
@[simp] theorem kept_releaseGain (p) : kept mail (releaseGain p s) = kept mail s := by simp [releaseGain]
@[simp] theorem kept_enterAfc (p) : kept mail (enterAfc p s) = kept mail s := by simp [enterAfc]
@[simp] theorem kept_acqFail (p state) : kept mail (acqFail p state s) = kept mail s := by simp [acqFail]
@[simp] theorem kept_shutRx (p) : kept mail (shutRx p s) = kept mail s := by simp [shutRx]
@[simp] theorem kept_closeRx (p) : kept mail (closeRx p s) = kept mail s := by simp [closeRx]
@[simp] theorem kept_relit (sc) : kept mail (relit sc s) = kept mail s := kept_congr rfl rfl rfl
@[simp] theorem kept_startRx (p lo) : kept mail (startRx p lo s) = kept mail s := kept_congr rfl rfl rfl
@[simp] theorem kept_portRxenable (lo r) : kept mail (portRxenable lo r s).st = kept mail s := by simp [portRxenable]
@[simp] theorem kept_deniedRxenable (r) : kept mail (deniedRxenable r s) = kept mail s := by simp [deniedRxenable]

@[simp] theorem kept_rxCalibrationDone (p) : kept mail (rxCalibrationDone p s) = kept mail s := by
  simp [rxCalibrationDone]

@[simp] theorem kept_portRxdisable (r) : kept mail (portRxdisable r s).st = kept mail s := by simp [portRxdisable]

@[simp] theorem kept_lightPresent (p power) : kept mail (lightPresent p power s) = kept mail s := by
  simp [lightPresent]

@[simp] theorem kept_loseLight (p) : kept mail (loseLight p s) = kept mail s := by simp [loseLight]
@[simp] theorem kept_lightAbsent (p power) : kept mail (lightAbsent p power s) = kept mail s := by simp [lightAbsent]
@[simp] theorem kept_loadActive (p base) : kept mail (loadActive p base s) = kept mail s := kept_congr rfl rfl rfl
@[simp] theorem kept_afcDone (p off) : kept mail (afcDone p off s) = kept mail s := by simp [afcDone]

@[simp] theorem kept_cdScanDone (p o) : kept mail (cdScanDone p o s) = kept mail s := by
  unfold cdScanDone
  split
  · split <;> simp
  · simp

@[simp] theorem kept_scConverge (sc snr) : kept mail (scConverge sc snr s) = kept mail s := by simp [scConverge]
@[simp] theorem kept_scUnconverge (sc snr) : kept mail (scUnconverge sc snr s) = kept mail s := by simp [scUnconverge]
@[simp] theorem kept_sendTrim (p i t) : kept mail (sendTrim p i t s) = kept mail s := kept_congr rfl rfl rfl

@[simp] theorem kept_bgCalStep (p a sl skew gain off fir) :
    kept mail (bgCalStep p a sl skew gain off fir s) = kept mail s := by
  simp [bgCalStep]

@[simp] theorem kept_shadowRotate (p) : kept mail (shadowRotate p s) = kept mail s := kept_congr rfl rfl rfl

@[simp] theorem kept_adcSliceFault (p a sl) : kept mail (adcSliceFault p a sl s) = kept mail s := by
  simp [adcSliceFault]

@[simp] theorem kept_sliceRecheck (p a sl bad) : kept mail (sliceRecheck p a sl bad s) = kept mail s := by
  simp [sliceRecheck]

@[simp] theorem kept_adcSliceRetire (p a) : kept mail (adcSliceRetire p a s) = kept mail s := by
  unfold adcSliceRetire
  dsimp only
  repeat' split
  all_goals simp

@[simp] theorem kept_portRxconfig (r) : kept mail (portRxconfig r s).st = kept mail s := by simp [portRxconfig]

@[simp] theorem kept_dissolveCue (p i origin start tag) :
    kept mail (dissolveCue p i origin start tag s) = kept mail s :=
  kept_congr rfl rfl rfl

@[simp] theorem kept_cueDissolve (p i origin start tag len) :
    kept mail (cueDissolve p i origin start tag len s) = kept mail s :=
  kept_congr rfl rfl rfl

@[simp] theorem kept_portCdset (r) : kept mail (portCdset r s).st = kept mail s := by
  refine kept_onPort _ _ fun p r s => ?_
  dsimp only
  split
  · rfl
  · split
    · rfl
    · split
      · rfl
      · split
        · split
          · rfl
          · simp
        · split
          · simp
          · split
            · rfl
            · simp

@[simp] theorem kept_portCdwrite (r) : kept mail (portCdwrite r s).st = kept mail s := by simp [portCdwrite]

@[simp] theorem kept_portCdstart (r) : kept mail (portCdstart r s).st = kept mail s := by
  refine kept_onPort _ _ fun p r s => ?_
  dsimp only
  split
  · rfl
  · split
    · rfl
    · split
      · rfl
      · split
        · rfl
        · simp

@[simp] theorem kept_portCdstatus (r) : kept mail (portCdstatus r s).st = kept mail s := by simp [portCdstatus]
@[simp] theorem kept_cdLoadDone (p staged) : kept mail (cdLoadDone p staged s) = kept mail s := by simp [cdLoadDone]

@[simp] theorem kept_dissolveStart (i at_) : kept mail (dissolveStart i at_ s) = kept mail s := by
  simp [dissolveStart]

@[simp] theorem kept_dissolveEnd (p at_) : kept mail (dissolveEnd p at_ s) = kept mail s := by
  unfold dissolveEnd
  dsimp only
  split
  · split <;> simp
  · simp

@[simp] theorem kept_ownDissolve (p len set) : kept mail (ownDissolve p len set s) = kept mail s := by
  unfold ownDissolve
  split <;> simp

@[simp] theorem kept_cdTrackEstimate (p res) : kept mail (cdTrackEstimate p res s) = kept mail s := by
  simp [cdTrackEstimate]

@[simp] theorem kept_ltuneUpdate (p) : kept mail (ltuneUpdate p s) = kept mail s := by simp [ltuneUpdate]
@[simp] theorem kept_portLtune (r) : kept mail (portLtune r s).st = kept mail s := by simp [portLtune]

@[simp] theorem kept_ltuneSlew (p) : kept mail (ltuneSlew p s) = kept mail s := by
  unfold ltuneSlew
  split <;> simp

@[simp] theorem kept_timingLoop (sc q) : kept mail (timingLoop sc q s) = kept mail s := by simp [timingLoop]
@[simp] theorem kept_linkRefresh (sc q) : kept mail (linkRefresh sc q s) = kept mail s := by simp [linkRefresh]
@[simp] theorem kept_hubGain (p) : kept mail (hubGain p s) = kept mail s := by simp [hubGain]
@[simp] theorem kept_setFarClass (sc k) : kept mail (setFarClass sc k s) = kept mail s := by simp [setFarClass]

@[simp] theorem kept_rxClassChange (sc stamp) : kept mail (rxClassChange sc stamp s) = kept mail s := by
  unfold rxClassChange
  dsimp only
  split <;> simp

@[simp] theorem kept_scRxconfig (r) : kept mail (scRxconfig r s).st = kept mail s := by simp [scRxconfig]
@[simp] theorem kept_scRxstatus (r) : kept mail (scRxstatus r s).st = kept mail s := by simp [scRxstatus]
@[simp] theorem kept_scResync (r) : kept mail (scResync r s).st = kept mail s := by simp [scResync]
@[simp] theorem kept_portRxstatus (r) : kept mail (portRxstatus r s).st = kept mail s := by simp [portRxstatus]

/-! Fec. -/

@[simp] theorem kept_encoderRetire (p) : kept mail (encoderRetire p s) = kept mail s := by simp [encoderRetire]
@[simp] theorem kept_encoderFault (p) : kept mail (encoderFault p s) = kept mail s := by simp [encoderFault]

@[simp] theorem kept_sendCodeword (sc c cw) : kept mail (sendCodeword sc c cw s) = kept mail s := by
  simp [sendCodeword]

@[simp] theorem kept_codewordEncode (sc c) : kept mail (codewordEncode sc c s) = kept mail s := by
  simp [codewordEncode]

@[simp] theorem kept_setCap (p k) : kept mail (setCap p k s) = kept mail s := by simp [setCap]
@[simp] theorem kept_lowerCap (p) : kept mail (lowerCap p s) = kept mail s := by simp [lowerCap]
@[simp] theorem kept_paceLow (u m) : kept mail (paceLow u m s) = kept mail s := by simp [paceLow]

@[simp] theorem kept_rearmUnit (u) : kept mail (rearmUnit u s) = kept mail s := by
  unfold rearmUnit
  split <;> simp

@[simp] theorem kept_lowUnit (u) : kept mail (lowUnit u s) = kept mail s := by
  unfold lowUnit
  split <;> simp

@[simp] theorem kept_capTick (p iters) : kept mail (capTick p iters s) = kept mail s := by
  unfold capTick
  dsimp only
  split <;> simp

@[simp] theorem kept_leaveSlots (p) : kept mail (leaveSlots p s) = kept mail s := kept_congr rfl rfl rfl

@[simp] theorem kept_engineRetire (p) : kept mail (engineRetire p s) = kept mail s := by
  unfold engineRetire
  dsimp only
  repeat' split
  all_goals simp

@[simp] theorem kept_berWindow (sc) : kept mail (berWindow sc s) = kept mail s := by simp [berWindow]
@[simp] theorem kept_portFecconfig (r) : kept mail (portFecconfig r s).st = kept mail s := by simp [portFecconfig]
@[simp] theorem kept_portFecstatus (r) : kept mail (portFecstatus r s).st = kept mail s := by simp [portFecstatus]
@[simp] theorem kept_scFecstats (r) : kept mail (scFecstats r s).st = kept mail s := by simp [scFecstats]

/-! Decoder. -/

@[simp] theorem kept_actDecode (p) : kept mail (actDecode p s) = kept mail s := by simp [actDecode]
@[simp] theorem kept_engineFault (p e) : kept mail (engineFault p e s) = kept mail s := by simp [engineFault]
@[simp] theorem kept_truncation (p) : kept mail (truncation p s) = kept mail s := by simp [truncation]

@[simp] theorem kept_countTokens (p used late trunc) : kept mail (countTokens p used late trunc s) = kept mail s := by
  simp [countTokens]

@[simp] theorem kept_settleDecode (sc slot d checker memUe trunc) :
    kept mail (settleDecode sc slot d checker memUe trunc s).1 = kept mail s := by
  simp [settleDecode]

@[simp] theorem kept_slotsLeave (sc c) : kept mail (slotsLeave sc c s) = kept mail s := by simp [slotsLeave]

@[simp] theorem kept_decodeNext (sc c r trunc s0) : kept mail (decodeNext sc c r trunc s0).1 = kept mail s0 := by
  simp [decodeNext]

@[simp] theorem kept_codewordDecode (sc c r) : kept mail (codewordDecode sc c r s) = kept mail s := by
  simp [codewordDecode]

@[simp] theorem kept_handOver (w) : kept mail (handOver w s) = kept mail s := kept_congr rfl rfl rfl

@[simp] theorem kept_readPoint (sc c r) : kept mail (readPoint sc c r s) = kept mail s := by
  unfold readPoint
  split <;> simp

/-! Tpe. -/

@[simp] theorem kept_takeCredit (k t) : kept mail (takeCredit k t s) = kept mail s := kept_congr rfl rfl rfl
@[simp] theorem kept_egressPut (nn p) : kept mail (egressPut nn p s) = kept mail s := by simp [egressPut]

@[simp] theorem kept_raisePm (code vector src data) : kept mail (raisePm code vector src data s) = kept mail s := by
  unfold raisePm
  split <;> simp

@[simp] theorem kept_diverge (kind src) : kept mail (diverge kind src s) = kept mail s := by simp [diverge]

/-! Frame. -/

@[simp] theorem kept_queueControl (sc typ data) : kept mail (queueControl sc typ data s) = kept mail s :=
  kept_congr rfl rfl rfl

@[simp] theorem kept_scheduleFrame (sc dep) : kept mail (scheduleFrame sc dep s) = kept mail s := by
  simp [scheduleFrame]

@[simp] theorem kept_buildFrame (sc at_ s0) : kept mail (buildFrame sc at_ s0) = kept mail s0 := by simp [buildFrame]
@[simp] theorem kept_falseCandidate (sc) : kept mail (falseCandidate sc s) = kept mail s := kept_congr rfl rfl rfl

@[simp] theorem kept_pilotCorrelation (sc phase corr) :
    kept mail (pilotCorrelation sc phase corr s) = kept mail s := by
  simp [pilotCorrelation]

@[simp] theorem kept_alignFrame (sc ok) : kept mail (alignFrame sc ok s) = kept mail s := by
  unfold alignFrame
  dsimp only
  split <;> simp

@[simp] theorem kept_compareDigest (sc) : kept mail (compareDigest sc s) = kept mail s := by simp [compareDigest]
@[simp] theorem kept_endMultiframe (sc) : kept mail (endMultiframe sc s) = kept mail s := by simp [endMultiframe]

@[simp] theorem kept_kcDeliver (sc num data) : kept mail (kcDeliver sc num data s) = kept mail s := by
  simp [kcDeliver]

@[simp] theorem kept_kcCellIn (sc cell) : kept mail (kcCellIn sc cell s) = kept mail s := by
  unfold kcCellIn
  dsimp only
  split
  · simp
  · split <;> simp

@[simp] theorem kept_channelDeliver (nn label body) : kept mail (channelDeliver nn label body s) = kept mail s := by
  simp [channelDeliver]

@[simp] theorem kept_gccIn (sc bytes) : kept mail (gccIn sc bytes s) = kept mail s := by simp [gccIn]
@[simp] theorem kept_uocIn (sc bytes) : kept mail (uocIn sc bytes s) = kept mail s := by simp [uocIn]
@[simp] theorem kept_slotBlock (sc bad k) : kept mail (slotBlock sc bad k s) = kept mail s := by simp [slotBlock]
@[simp] theorem kept_takeOverhead (sc f o) : kept mail (takeOverhead sc f o s) = kept mail s := by simp [takeOverhead]
@[simp] theorem kept_takeErrored (sc) : kept mail (takeErrored sc s) = kept mail s := by simp [takeErrored]

@[simp] theorem kept_takePayload (sc f viol m) : kept mail (takePayload sc f viol m s) = kept mail s := by
  simp [takePayload]

@[simp] theorem kept_frameArrives (t f) : kept mail (frameArrives t f s) = kept mail s := by simp [frameArrives]

@[simp] theorem kept_takeSlots (sc dep arr frame bad) :
    kept mail (takeSlots sc dep arr frame bad s) = kept mail s := by
  simp [takeSlots]

@[simp] theorem kept_takeStamped (sc arr frame bad dep) :
    kept mail (takeStamped sc arr frame bad dep s) = kept mail s := by
  unfold takeStamped
  split <;> simp

@[simp] theorem kept_frameReceive (sc f) : kept mail (frameReceive sc f s) = kept mail s := by simp [frameReceive]
@[simp] theorem kept_deframe (sc o) : kept mail (deframe sc o s) = kept mail s := by simp [deframe]
@[simp] theorem kept_frameTrace (r) : kept mail (frameTrace r s).st = kept mail s := by simp [frameTrace]

@[simp] theorem kept_restartDefect (port code) : kept mail (restartDefect port code s) = kept mail s := by
  simp [restartDefect]

@[simp] theorem kept_frameDefcfg (r) : kept mail (frameDefcfg r s).st = kept mail s := by simp [frameDefcfg]
@[simp] theorem kept_framePcset (r) : kept mail (framePcset r s).st = kept mail s := by simp [framePcset]
@[simp] theorem kept_frameChan (r) : kept mail (frameChan r s).st = kept mail s := by simp [frameChan]
@[simp] theorem kept_frameKcsend (r) : kept mail (frameKcsend r s).st = kept mail s := by simp [frameKcsend]

@[simp] theorem kept_frameKcrecv (r) : kept mail (frameKcrecv r s).st = kept mail s := by
  unfold frameKcrecv
  split <;> simp

@[simp] theorem kept_frameStamp (r) : kept mail (frameStamp r s).st = kept mail s := by
  refine kept_onSc _ _ fun sc r s => ?_
  dsimp only
  split
  · rfl
  · split <;> rfl

@[simp] theorem kept_frameStatus (r) : kept mail (frameStatus r s).st = kept mail s := by simp [frameStatus]
@[simp] theorem kept_frameDefects (r) : kept mail (frameDefects r s).st = kept mail s := kept_congr rfl rfl rfl
@[simp] theorem kept_frameTribdef (r) : kept mail (frameTribdef r s).st = kept mail s := by simp [frameTribdef]

/-! Labels. -/

@[simp] theorem kept_touchLine (line) : kept mail (touchLine line s) = kept mail s := kept_congr rfl rfl rfl
@[simp] theorem kept_putCounts (set d) : kept mail (putCounts set d s) = kept mail s := by simp [putCounts]
@[simp] theorem kept_addCounts (set d) : kept mail (addCounts set d s) = kept mail s := by simp [addCounts]
@[simp] theorem kept_countTx (set len) : kept mail (countTx set len s) = kept mail s := by simp [countTx]
@[simp] theorem kept_countRx (set len) : kept mail (countRx set len s) = kept mail s := by simp [countRx]
@[simp] theorem kept_takePending (line) : kept mail (takePending line s) = kept mail s := kept_congr rfl rfl rfl
@[simp] theorem kept_dropUnknown (label) : kept mail (dropUnknown label s) = kept mail s := by simp [dropUnknown]
@[simp] theorem kept_dropUncorrectable : kept mail (dropUncorrectable s) = kept mail s := kept_congr rfl rfl rfl
@[simp] theorem kept_gccPut (sc body) : kept mail (gccPut sc body s) = kept mail s := kept_congr rfl rfl rfl
@[simp] theorem kept_uocPut (sc body) : kept mail (uocPut sc body s) = kept mail s := kept_congr rfl rfl rfl
@[simp] theorem kept_parseShim (nn pk) : kept mail (parseShim nn pk s) = kept mail s := by simp [parseShim]
@[simp] theorem kept_hostIngress (nn pk) : kept mail (hostIngress nn pk s) = kept mail s := by simp [hostIngress]
@[simp] theorem kept_downBlocks (nn pk) : kept mail (downBlocks nn pk s) = kept mail s := kept_congr rfl rfl rfl

@[simp] theorem kept_hostPacket (nn pk) : kept mail (hostPacket nn pk s) = kept mail s := by
  unfold hostPacket
  split <;> simp

@[simp] theorem kept_popIngress (nn) : kept mail (popIngress nn s) = kept mail s := kept_congr rfl rfl rfl
@[simp] theorem kept_finishLookup (nn pk) : kept mail (finishLookup nn pk s) = kept mail s := by simp [finishLookup]

@[simp] theorem kept_labelLookup (nn) : kept mail (labelLookup nn s) = kept mail s := by
  unfold labelLookup
  split <;> simp

@[simp] theorem kept_releaseHead (line bad nn) : kept mail (releaseHead line bad nn s) = kept mail s := by
  unfold releaseHead
  split <;> simp

@[simp] theorem kept_labelFillDone (line bad) : kept mail (labelFillDone line bad s) = kept mail s := by
  simp [labelFillDone]

@[simp] theorem kept_labelGet (r) : kept mail (labelGet r s).st = kept mail s := by simp [labelGet]
@[simp] theorem kept_labelProfile (r) : kept mail (labelProfile r s).st = kept mail s := by simp [labelProfile]
@[simp] theorem kept_labelStats (r) : kept mail (labelStats r s).st = kept mail s := kept_congr rfl rfl rfl

@[simp] theorem kept_labelTsread (r) : kept mail (labelTsread r s).st = kept mail s := by
  unfold labelTsread
  split <;> simp

/-! Service. -/

@[simp] theorem kept_reserve (t) : kept mail (reserve t s) = kept mail s := kept_congr rfl rfl rfl
@[simp] theorem kept_enqueue (t cls q) : kept mail (enqueue t cls q s) = kept mail s := by simp [enqueue]

@[simp] theorem kept_enqueueBody (p enc body) : kept mail (enqueueBody p enc body s) = kept mail s := by
  simp [enqueueBody]

@[simp] theorem kept_countDrop (p) : kept mail (countDrop p s) = kept mail s := by simp [countDrop]
@[simp] theorem kept_dropNoCapacity (p) : kept mail (dropNoCapacity p s) = kept mail s := by simp [dropNoCapacity]
@[simp] theorem kept_dropNoCredit (p) : kept mail (dropNoCredit p s) = kept mail s := by simp [dropNoCredit]
@[simp] theorem kept_admitPacket (p) : kept mail (admitPacket p s) = kept mail s := by simp [admitPacket]
@[simp] theorem kept_admissionRule (p) : kept mail (admissionRule p s) = kept mail s := by simp [admissionRule]

@[simp] theorem kept_admissionDecided (p) : kept mail (admissionDecided p s) = kept mail s := by
  unfold admissionDecided
  split <;> simp

@[simp] theorem kept_packetAdmission : kept mail (packetAdmission s) = kept mail s := by
  unfold packetAdmission
  split <;> simp

@[simp] theorem kept_timestamp (r) : kept mail (timestamp r s) = kept mail s := kept_congr rfl rfl rfl

@[simp] theorem kept_startPacket (t dep) : kept mail (startPacket t dep s) = kept mail s := by
  unfold startPacket
  dsimp only
  split <;> simp

@[simp] theorem kept_cellsFreed (t dep) : kept mail (cellsFreed t dep s) = kept mail s := kept_congr rfl rfl rfl

@[simp] theorem kept_streamBytes (fuel tr dep n acc) :
    kept mail (streamBytes fuel tr dep n acc s).2 = kept mail s := by
  induction fuel generalizing n acc s with
  | zero => rfl
  | succ fuel ih =>
    unfold streamBytes
    dsimp only
    split
    · rfl
    · split
      · simp [ih]
      · split <;> simp [ih]

@[simp] theorem kept_slotBytes (t dep) : kept mail (slotBytes t dep s).2 = kept mail s := by
  unfold slotBytes
  dsimp only
  split
  · simp
  · split <;> simp

@[simp] theorem kept_slotMap (sc k at_) : kept mail (slotMap sc k at_ s) = kept mail s := by simp [slotMap]

@[simp] theorem kept_headerReceive (t) : kept mail (headerReceive t s) = kept mail s := by
  unfold headerReceive
  dsimp only
  split <;> simp

@[simp] theorem kept_releaseFrame (t f) : kept mail (releaseFrame t f s) = kept mail s := kept_congr rfl rfl rfl

@[simp] theorem kept_hitlessSettle (lo hi) : kept mail (hitlessSettle lo hi s) = kept mail s := by
  unfold hitlessSettle
  dsimp only
  split <;> simp

@[simp] theorem kept_releaseGroup (t d) : kept mail (releaseGroup t d s) = kept mail s := by
  unfold releaseGroup
  split <;> simp

@[simp] theorem kept_slotRelease (t) : kept mail (slotRelease t s) = kept mail s := by
  unfold slotRelease
  split <;> simp

@[simp] theorem kept_slotMissing (t sc k dep) : kept mail (slotMissing t sc k dep s) = kept mail s := by
  simp [slotMissing]

@[simp] theorem kept_deliver (t p cset) : kept mail (deliver t p cset s) = kept mail s := by simp [deliver]
@[simp] theorem kept_receivePacket (t p) : kept mail (receivePacket t p s) = kept mail s := by simp [receivePacket]
@[simp] theorem kept_checkLine (label) : kept mail (checkLine label s) = kept mail s := by simp [checkLine]

@[simp] theorem kept_packetReceive (t) : kept mail (packetReceive t s) = kept mail s := by
  unfold packetReceive
  dsimp only
  split <;> simp

@[simp] theorem kept_countDelivered (p) : kept mail (countDelivered p s) = kept mail s := by
  unfold countDelivered
  split <;> simp

@[simp] theorem kept_egressSend (nn) : kept mail (egressSend nn s) = kept mail s := by
  unfold egressSend
  split <;> simp

@[simp] theorem kept_freeQueued (l) : kept mail (freeQueued l s) = kept mail s := by simp [freeQueued]
@[simp] theorem kept_discardQueues (t) : kept mail (discardQueues t s) = kept mail s := by simp [discardQueues]
@[simp] theorem kept_cutPacket (t) : kept mail (cutPacket t s) = kept mail s := by simp [cutPacket]
@[simp] theorem kept_lostCapacity (t) : kept mail (lostCapacity t s) = kept mail s := by simp [lostCapacity]
@[simp] theorem kept_installMap (m) : kept mail (installMap m s) = kept mail s := by simp [installMap]
@[simp] theorem kept_removeSlots (scs) : kept mail (removeSlots scs s) = kept mail s := by simp [removeSlots]
@[simp] theorem kept_remapCommit : kept mail (remapCommit s) = kept mail s := by simp [remapCommit]
@[simp] theorem kept_remapDark (p) : kept mail (remapDark p s) = kept mail s := by simp [remapDark]

theorem kept_placeCommit {boundary tag origin} (h : placeCommit boundary tag origin s = some t) :
    kept mail t = kept mail s := by
  unfold placeCommit at h
  dsimp only at h
  split at h
  · cases h
  · cases h
    simp
    split <;> simp

@[simp] theorem kept_placeCommit_getD (boundary tag origin) (h : kept mail u = kept mail s) :
    kept mail ((placeCommit boundary tag origin s).getD u) = kept mail s := by
  cases hc : placeCommit boundary tag origin s
  · exact h
  · exact kept_placeCommit hc

@[simp] theorem kept_placeFill : kept mail (placeFill s) = kept mail s := by
  unfold placeFill
  split
  · rfl
  · exact kept_placeCommit_getD _ _ _ rfl

@[simp] theorem kept_tribRemap (i at_) : kept mail (tribRemap i at_ s) = kept mail s := by simp [tribRemap]
@[simp] theorem kept_tribConfig (r) : kept mail (tribConfig r s).st = kept mail s := by simp [tribConfig]
@[simp] theorem kept_tribStage (r) : kept mail (tribStage r s).st = kept mail s := by simp [tribStage]

@[simp] theorem kept_tribCommit (r) : kept mail (tribCommit r s).st = kept mail s := by
  unfold tribCommit
  split
  · rfl
  · split
    · rfl
    · split
      · rfl
      next h => exact kept_placeCommit h

@[simp] theorem kept_tribStatus (r) : kept mail (tribStatus r s).st = kept mail s := by simp [tribStatus]

/-! Cipher. -/

@[simp] theorem kept_announceCell (cell) : kept mail (announceCell cell s) = kept mail s :=
  kept_forAll _ _ fun p u => by split <;> simp

@[simp] theorem kept_announceRollover (c i) : kept mail (announceRollover c i s) = kept mail s := by
  unfold announceRollover
  dsimp only
  split <;> simp

@[simp] theorem kept_contextPut (c) : kept mail (contextPut c s) = kept mail s := kept_congr rfl rfl rfl

@[simp] theorem kept_installKey (j) : kept mail (installKey j s).2 = kept mail s := by
  unfold installKey
  dsimp only
  repeat' split
  all_goals simp

@[simp] theorem kept_keyInstallDone : kept mail (keyInstallDone s) = kept mail s := by
  unfold keyInstallDone
  split <;> simp

@[simp] theorem kept_onLanes (d f) : kept mail (onLanes d f s) = kept mail s := kept_congr rfl rfl rfl

@[simp] theorem kept_cipherMismatch (d lane n) : kept mail (cipherMismatch d lane n s) = kept mail s := by
  simp [cipherMismatch]

@[simp] theorem kept_throughLane (d mism cls len) : kept mail (throughLane d mism cls len s).2 = kept mail s := by
  unfold throughLane
  split <;> simp

@[simp] theorem kept_laneRetire (d) : kept mail (laneRetire d s) = kept mail s := by
  unfold laneRetire
  dsimp only
  repeat' split
  all_goals simp

@[simp] theorem kept_freeCells (p) : kept mail (freeCells p s) = kept mail s := kept_congr rfl rfl rfl
@[simp] theorem kept_dropNoKey (p) : kept mail (dropNoKey p s) = kept mail s := kept_congr rfl rfl rfl
@[simp] theorem kept_softLimits (c) : kept mail (softLimits c s) = kept mail s := by simp [softLimits]

@[simp] theorem kept_encryptPacket (p mism) : kept mail (encryptPacket p mism s) = kept mail s := by
  unfold encryptPacket
  dsimp only
  split <;> simp

@[simp] theorem kept_packetEncrypt (mism) : kept mail (packetEncrypt mism s) = kept mail s := by
  unfold packetEncrypt
  split <;> simp

@[simp] theorem kept_countFail (c k) : kept mail (countFail c k s) = kept mail s := by simp [countFail]
@[simp] theorem kept_onSlotAn (c an f) : kept mail (onSlotAn c an f s) = kept mail s := kept_congr rfl rfl rfl

@[simp] theorem kept_failPacket (c k p cset plain) : kept mail (failPacket c k p cset plain s) = kept mail s := by
  simp [failPacket]

@[simp] theorem kept_checkPacket (c k p cset) : kept mail (checkPacket c k p cset s) = kept mail s := by
  simp [checkPacket]

@[simp] theorem kept_decryptPacket (p mism) : kept mail (decryptPacket p mism s) = kept mail s := by
  unfold decryptPacket
  dsimp only
  repeat' split
  all_goals simp

@[simp] theorem kept_packetDecrypt (mism) : kept mail (packetDecrypt mism s) = kept mail s := by
  unfold packetDecrypt
  split <;> simp

@[simp] theorem kept_drainContext (n c) : kept mail (drainContext n c s) = kept mail s := by
  induction n generalizing s with
  | zero => rfl
  | succ n ih => simp [drainContext, ih]

@[simp] theorem kept_rollover (c auto) : kept mail (rollover c auto s) = kept mail s := by simp [rollover]
@[simp] theorem kept_rolloverCue (i at_) : kept mail (rolloverCue i at_ s) = kept mail s := by simp [rolloverCue]

@[simp] theorem kept_announceReceive (sc cell) : kept mail (announceReceive sc cell s) = kept mail s := by
  simp [announceReceive]

@[simp] theorem kept_ctxConfig (r) : kept mail (ctxConfig r s).st = kept mail s := by simp [ctxConfig]
@[simp] theorem kept_ctxLimits (r) : kept mail (ctxLimits r s).st = kept mail s := by simp [ctxLimits]

@[simp] theorem kept_ctxRollover (r) : kept mail (ctxRollover r s).st = kept mail s := by
  refine kept_onCtx _ _ fun c r s => ?_
  dsimp only
  split
  · rfl
  · split
    · rfl
    · cases (ctxOf s c).roll
      all_goals
        dsimp only
        split
        · rfl
        · split <;> simp

@[simp] theorem kept_ctxErase (r) : kept mail (ctxErase r s).st = kept mail s := by simp [ctxErase]
@[simp] theorem kept_ctxStatus (r) : kept mail (ctxStatus r s).st = kept mail s := by simp [ctxStatus]
@[simp] theorem kept_ctxLanes (r) : kept mail (ctxLanes r s).st = kept mail s := kept_congr rfl rfl rfl

/-! Crossings. -/

@[simp] theorem kept_paceFault (crossing obj u) : kept mail (paceFault crossing obj u s) = kept mail s := by
  simp [paceFault]

@[simp] theorem kept_actIf (pt) : kept mail (actIf pt s) = kept mail s := by simp [actIf]

@[simp] theorem kept_fullWrite (x) : kept mail (fullWrite x s) = kept mail s := by
  unfold fullWrite
  split <;> simp

@[simp] theorem kept_emptyRead (x) : kept mail (emptyRead x s) = kept mail s := by
  unfold emptyRead
  split <;> simp

@[simp] theorem kept_smallFullWrite (x) : kept mail (smallFullWrite x s) = kept mail s := by
  unfold smallFullWrite
  split <;> simp

@[simp] theorem kept_discardWords (x) : kept mail (discardWords x s) = kept mail s := by
  unfold discardWords
  split <;> simp

@[simp] theorem kept_emptyFifo (x) : kept mail (emptyFifo x s) = kept mail s := by simp [emptyFifo]
@[simp] theorem kept_railStep : kept mail (railStep s) = kept mail s := by simp [railStep]

@[simp] theorem kept_tightCheck : kept mail (tightCheck s) = kept mail s := by
  unfold tightCheck
  split <;> simp

@[simp] theorem kept_setRates (ach) : kept mail (setRates ach s) = kept mail s :=
  kept_forAll _ _ fun p u => by cases ach[p]? <;> simp

@[simp] theorem kept_rearmLow : kept mail (rearmLow s) = kept mail s := by simp [rearmLow]
@[simp] theorem kept_railTick (ach) : kept mail (railTick ach s) = kept mail s := by simp [railTick]
@[simp] theorem kept_marginLow (us) : kept mail (marginLow us s) = kept mail s := by simp [marginLow]

/-! HostLanes. -/

@[simp] theorem kept_lowpowerEnd (nn c) : kept false (lowpowerEnd nn c s) = kept false s := by
  unfold lowpowerEnd
  split
  · rfl
  · dsimp only
    split <;> simp [kept_writeResponse]

@[simp] theorem kept_hostPortDown (nn cause lane code) :
    kept false (hostPortDown nn cause lane code s) = kept false s := by
  simp [hostPortDown]

@[simp] theorem kept_quietDown (nn) : kept false (quietDown nn s) = kept false s := by simp [quietDown]
@[simp] theorem kept_retrain (l) : kept mail (retrain l s) = kept mail s := kept_congr rfl rfl rfl
@[simp] theorem kept_laneFault (kind l) : kept false (laneFault kind l s) = kept false s := by simp [laneFault]
@[simp] theorem kept_alignPort (nn skew) : kept false (alignPort nn skew s) = kept false s := by simp [alignPort]
@[simp] theorem kept_hostPortcfg (r) : kept false (hostPortcfg r s).st = kept false s := by simp [hostPortcfg]
@[simp] theorem kept_hostEnable (r) : kept false (hostEnable r s).st = kept false s := by simp [hostEnable]
@[simp] theorem kept_hostTxtaps (r) : kept mail (hostTxtaps r s).st = kept mail s := by simp [hostTxtaps]

@[simp] theorem kept_lowpowerStart (mb r) : kept mail (lowpowerStart mb r s) = kept mail s := by
  simp [lowpowerStart]

theorem lowpowerAnswer_st {r a} (h : lowpowerAnswer r s = some a) : a.st = s := by
  unfold lowpowerAnswer at h
  dsimp only at h
  split_ifs at h <;> cases h <;> rfl

@[simp] theorem kept_hostLowpower (mb) : kept false (hostLowpower mb s) = kept false s := by
  unfold hostLowpower
  dsimp only
  split
  · split
    · simp [respond]
    · split
      next h => simp [respond, lowpowerAnswer_st h]
      · simp
  · rfl

@[simp] theorem kept_lowpowerDone (nn) : kept false (lowpowerDone nn s) = kept false s := by
  unfold lowpowerDone
  split <;> simp

@[simp] theorem kept_wakeOnSignal (l) : kept mail (wakeOnSignal l s) = kept mail s := by
  unfold wakeOnSignal
  split <;> simp

@[simp] theorem kept_hostRetrain (r) : kept false (hostRetrain r s).st = kept false s := by simp [hostRetrain]
@[simp] theorem kept_hostLanestatus (r) : kept mail (hostLanestatus r s).st = kept mail s := by simp [hostLanestatus]
@[simp] theorem kept_hostPortstatus (r) : kept mail (hostPortstatus r s).st = kept mail s := by simp [hostPortstatus]
@[simp] theorem kept_detectTest (l) : kept mail (detectTest l s) = kept mail s := kept_congr rfl rfl rfl
@[simp] theorem kept_equalize (l) : kept mail (equalize l s) = kept mail s := kept_congr rfl rfl rfl
@[simp] theorem kept_trainGood (l f) : kept mail (trainGood l f s) = kept mail s := by simp [trainGood]
@[simp] theorem kept_exchangeGood (l f) : kept mail (exchangeGood l f s) = kept mail s := by simp [exchangeGood]
@[simp] theorem kept_switchGood (l f) : kept mail (switchGood l f s) = kept mail s := kept_congr rfl rfl rfl

@[simp] theorem kept_trainingFrame (l f) : kept mail (trainingFrame l f s) = kept mail s := by
  unfold trainingFrame
  split <;> simp

@[simp] theorem kept_enterActive (l) : kept mail (enterActive l s) = kept mail s := by simp [enterActive]

@[simp] theorem kept_markerGood (l m bsn) : kept false (markerGood l m bsn s) = kept false s := by
  unfold markerGood
  dsimp only
  repeat' split
  all_goals simp

@[simp] theorem kept_markerBad (l) : kept false (markerBad l s) = kept false s := by simp [markerBad]

@[simp] theorem kept_markerReceive (l m) : kept false (markerReceive l m s) = kept false s := by
  unfold markerReceive
  split <;> simp

@[simp] theorem kept_rsCodeword (l corrected bad headers) :
    kept false (rsCodeword l corrected bad headers s) = kept false s := by
  simp [rsCodeword]

@[simp] theorem kept_serSecond (l errs total) : kept false (serSecond l errs total s) = kept false s := by
  simp [serSecond]

@[simp] theorem kept_hostLaneLoss (l) : kept false (hostLaneLoss l s) = kept false s := by simp [hostLaneLoss]

@[simp] theorem kept_rebind (old new) : kept mail (rebind old new s) = kept mail s := by
  unfold rebind
  split
  · rfl
  · exact kept_congr rfl rfl rfl

@[simp] theorem kept_degraded (nn width dest) : kept mail (degraded nn width dest s) = kept mail s :=
  kept_congr rfl rfl rfl

@[simp] theorem kept_applyPortPolicy (nn) : kept mail (applyPortPolicy nn s) = kept mail s := by
  unfold applyPortPolicy
  dsimp only
  split <;> simp

@[simp] theorem kept_hostLaneRetire (l) : kept false (hostLaneRetire l s) = kept false s := by
  unfold hostLaneRetire
  dsimp only
  split
  · split <;> simp
  · simp

/-! Defects. -/

@[simp] theorem kept_stepDefect (code obj port vec raw masked) :
    kept mail (stepDefect code obj port vec raw masked s) = kept mail s := by
  simp [stepDefect]

@[simp] theorem kept_tickSc (sc) : kept mail (tickSc sc s) = kept mail s := by simp [tickSc]
@[simp] theorem kept_tickTrib (t) : kept mail (tickTrib t s) = kept mail s := by simp [tickTrib]
@[simp] theorem kept_excInterval (sc) : kept mail (excInterval sc s) = kept mail s := kept_congr rfl rfl rfl
@[simp] theorem kept_noteMasks (sc) : kept mail (noteMasks sc s) = kept mail s := kept_congr rfl rfl rfl
@[simp] theorem kept_defectTick : kept mail (defectTick s) = kept mail s := by simp [defectTick]
@[simp] theorem kept_secondMeans (sc) : kept mail (secondMeans sc s) = kept mail s := by simp [secondMeans]
@[simp] theorem kept_secondSc (sc) : kept mail (secondSc sc s) = kept mail s := by simp [secondSc]
@[simp] theorem kept_secondTrib (t) : kept mail (secondTrib t s) = kept mail s := kept_congr rfl rfl rfl
@[simp] theorem kept_checkTca (seen e) : kept mail (checkTca seen e s) = kept mail s := by simp [checkTca]
@[simp] theorem kept_sendBins : kept mail (sendBins s) = kept mail s := by simp [sendBins]
@[simp] theorem kept_pmSecond (at_) : kept mail (pmSecond at_ s) = kept mail s := by simp [pmSecond]

@[simp] theorem kept_closeBins (day start irregular) : kept mail (closeBins day start irregular s) = kept mail s :=
  kept_congr rfl rfl rfl

@[simp] theorem kept_applyDayOffset (sec) : kept mail (applyDayOffset sec s) = kept mail s := by
  unfold applyDayOffset
  split <;> simp

@[simp] theorem kept_pmBoundary (i at_ irregular) : kept mail (pmBoundary i at_ irregular s) = kept mail s := by
  simp [pmBoundary]

@[simp] theorem kept_pmBinFinal (day) : kept mail (pmBinFinal day s) = kept mail s := by
  unfold pmBinFinal
  dsimp only
  split
  · simp
  · split <;> simp

@[simp] theorem kept_pmStep (old new) : kept mail (pmStep old new s) = kept mail s := by simp [pmStep]
@[simp] theorem kept_pmConfig (r) : kept mail (pmConfig r s).st = kept mail s := by simp [pmConfig]
@[simp] theorem kept_pmTca (r) : kept mail (pmTca r s).st = kept mail s := by simp [pmTca]
@[simp] theorem kept_pmRead (r) : kept mail (pmRead r s).st = kept mail s := by simp [pmRead]
@[simp] theorem kept_pmClear (r) : kept mail (pmClear r s).st = kept mail s := by simp [pmClear]

/-! Firmware. -/

@[simp] theorem kept_sysIdentify (r) : kept mail (sysIdentify r s).st = kept mail s := kept_congr rfl rfl rfl
@[simp] theorem kept_sysStatus (r) : kept mail (sysStatus r s).st = kept mail s := kept_congr rfl rfl rfl

@[simp] theorem kept_sysEvmask (r) : kept mail (sysEvmask r s).st = kept mail s := by
  unfold sysEvmask
  dsimp only
  split <;> simp

@[simp] theorem kept_sysEcho (r) : kept mail (sysEcho r s).st = kept mail s := kept_congr rfl rfl rfl
@[simp] theorem kept_endPortReset (p) : kept mail (endPortReset p s) = kept mail s := by simp [endPortReset]
@[simp] theorem kept_darkPort (p) : kept mail (darkPort p s) = kept mail s := by simp [darkPort]
@[simp] theorem kept_quietPort (p) : kept mail (quietPort p s) = kept mail s := by simp [quietPort]
@[simp] theorem kept_unquietPort (los p) : kept mail (unquietPort los p s) = kept mail s := by simp [unquietPort]
theorem kept_quiet (q) : kept mail { s with quiet := q } = kept mail s := kept_congr rfl rfl rfl

@[simp] theorem kept_sysQuiet (los r) : kept mail (sysQuiet los r s).st = kept mail s := by
  unfold sysQuiet
  dsimp only
  split
  · rfl
  · split
    · rfl
    · rw [kept_okay, kept_quiet]
      exact kept_forAll _ _ fun p u => by split <;> simp

@[simp] theorem kept_fwVerify (r) : kept mail (fwVerify r s).st = kept mail s := by simp [fwVerify]
@[simp] theorem kept_programSlot (same) : kept mail (programSlot same s) = kept mail s := by simp [programSlot]

@[simp] theorem kept_startWork : kept mail (startWork s) = kept mail s := by
  unfold startWork
  split
  · split <;> simp
  · simp

@[simp] theorem kept_fwActivate (same r) : kept mail (fwActivate same r s).st = kept mail s := by simp [fwActivate]

@[simp] theorem kept_activationDone (same) : kept mail (activationDone same s) = kept mail s := by
  simp [activationDone]

@[simp] theorem kept_fwInfo (r) : kept mail (fwInfo r s).st = kept mail s := kept_congr rfl rfl rfl

/-! Hub. -/

@[simp] theorem kept_onLeaf (p n f) : kept mail (onLeaf p n f s) = kept mail s := kept_congr rfl rfl rfl

@[simp] theorem kept_pushRecord (p typ ident n rest) : kept mail (pushRecord p typ ident n rest s) = kept mail s :=
  kept_congr rfl rfl rfl

theorem kept_darken {p mask tag} (h : darken p mask tag s = some t) : kept mail t = kept mail s := by
  obtain ⟨x, hx, rfl⟩ := Option.map_eq_some_iff.1 h
  exact kept_mergeOrPlace hx

@[simp] theorem kept_darkenNow (p mask) : kept mail (darkenNow p mask s) = kept mail s := kept_congr rfl rfl rfl
@[simp] theorem kept_hubFollow (p mask) : kept mail (hubFollow p mask s) = kept mail s := by simp [hubFollow]
@[simp] theorem kept_limitClasses (p) : kept mail (limitClasses p s) = kept mail s := by simp [limitClasses]
@[simp] theorem kept_formatChange (i at_) : kept mail (formatChange i at_ s) = kept mail s := by simp [formatChange]
@[simp] theorem kept_hubRole (r) : kept mail (hubRole r s).st = kept mail s := by simp [hubRole]

@[simp] theorem kept_hubGrant (r) : kept mail (hubGrant r s).st = kept mail s := by
  refine kept_onPort _ _ fun p r s => ?_
  dsimp only
  split
  · rfl
  · split
    · rfl
    · split
      · rfl
      next h => simpa using kept_mergeOrPlace h

@[simp] theorem kept_hubRelease (r) : kept mail (hubRelease r s).st = kept mail s := by
  refine kept_onPort _ _ fun p r s => ?_
  dsimp only
  split
  · rfl
  · split
    · rfl
    next v h =>
      have hv : kept mail v = kept mail s := by
        generalize hm : (if r.u 2 2 = 0 then (leafOf s p (r.u 1 1)).mask
          else r.u 2 2 &&& (leafOf s p (r.u 1 1)).mask) = mask at h
        split_ifs at h
        · cases h
          rfl
        · exact kept_darken h
      split <;> simp [hv]

@[simp] theorem kept_hubStatus (r) : kept mail (hubStatus r s).st = kept mail s := by simp [hubStatus]
@[simp] theorem kept_castConfig (r) : kept mail (castConfig r s).st = kept mail s := by simp [castConfig]
@[simp] theorem kept_castStatus (r) : kept mail (castStatus r s).st = kept mail s := by simp [castStatus]

@[simp] theorem kept_castingSlot (p at_) : kept mail (castingSlot p at_ s) = kept mail s := by
  unfold castingSlot
  dsimp only
  split
  · split <;> simp
  · simp

@[simp] theorem kept_headerCheck (p hdr) : kept mail (headerCheck p hdr s) = kept mail s := by simp [headerCheck]

@[simp] theorem kept_takeBurst (p x f) (h : ∀ s, kept mail (f s) = kept mail s) :
    kept mail (takeBurst p x f s) = kept mail s := by simp [takeBurst, h]

@[simp] theorem kept_joinEvent (p n ident rejoin) : kept mail (joinEvent p n ident rejoin s) = kept mail s :=
  kept_congr rfl rfl rfl

@[simp] theorem kept_joinActs (p ident rec) : kept mail (joinActs p ident rec s) = kept mail s := by
  unfold joinActs
  dsimp only
  repeat' split
  all_goals simp

@[simp] theorem kept_keepActs (p ident) : kept mail (keepActs p ident s) = kept mail s := by
  unfold keepActs
  split <;> simp

@[simp] theorem kept_leaveActs (p ident) : kept mail (leaveActs p ident s) = kept mail s := by
  unfold leaveActs
  split
  · rfl
  · simp only [kept_raisePort]
    split
    · simp
    · rename_i n _ _
      cases h : darken p (leafOf s p n).mask 0 (onLeaf p n (fun _ => {}) s)
      · simp
      · simp [kept_darken h]

@[simp] theorem kept_numberEnds (p n) : kept mail (numberEnds p n s) = kept mail s := kept_congr rfl rfl rfl
@[simp] theorem kept_leafSilent (p n) : kept mail (leafSilent p n s) = kept mail s := kept_congr rfl rfl rfl

@[simp] theorem kept_averageActs (p n off adjust) : kept mail (averageActs p n off adjust s) = kept mail s := by
  simp [averageActs]

@[simp] theorem kept_hubActs (p d) : kept mail (hubActs p d s) = kept mail s := by
  unfold hubActs
  split <;> simp

@[simp] theorem kept_hubDecides (p d) : kept mail (hubDecides p d s) = kept mail s := by simp [hubDecides]

@[simp] theorem kept_adjustAverage (p n off powers) : kept mail (adjustAverage p n off powers s) = kept mail s := by
  simp [adjustAverage]

@[simp] theorem kept_hubScan (p n disp) : kept mail (hubScan p n disp s) = kept mail s := by simp [hubScan]
@[simp] theorem kept_hubJoin (lo r) : kept mail (hubJoin lo r s).st = kept mail s := by simp [hubJoin]
@[simp] theorem kept_hubLeave (r) : kept mail (hubLeave r s).st = kept mail s := by simp [hubLeave]
@[simp] theorem kept_joinSend (p k) : kept mail (joinSend p k s) = kept mail s := by simp [joinSend]
@[simp] theorem kept_ackTimeout (p) : kept mail (ackTimeout p s) = kept mail s := by simp [ackTimeout]
@[simp] theorem kept_leaveSend (p k) : kept mail (leaveSend p k s) = kept mail s := by simp [leaveSend]
@[simp] theorem kept_takeShift (p) : kept mail (takeShift p s) = kept mail s := by simp [takeShift]

@[simp] theorem kept_leafChange (p mask cls granted) : kept mail (leafChange p mask cls granted s) = kept mail s :=
  kept_congr rfl rfl rfl

@[simp] theorem kept_leafLoses (p lost) : kept mail (leafLoses p lost s) = kept mail s := kept_congr rfl rfl rfl

@[simp] theorem kept_recordActs (p rec) : kept mail (recordActs p rec s) = kept mail s := by
  unfold recordActs
  split <;> simp

@[simp] theorem kept_goodBeacon (p slot off msg) : kept mail (goodBeacon p slot off msg s) = kept mail s := by
  simp [goodBeacon]

@[simp] theorem kept_roleMismatch (p far) : kept mail (roleMismatch p far s) = kept mail s := by simp [roleMismatch]

@[simp] theorem kept_beaconReceive (p hdr llrs off) : kept mail (beaconReceive p hdr llrs off s) = kept mail s := by
  unfold beaconReceive
  dsimp only
  repeat' split
  all_goals simp

@[simp] theorem kept_leafGrantApply (p at_) : kept mail (leafGrantApply p at_ s) = kept mail s := by
  unfold leafGrantApply
  dsimp only
  split <;> simp

@[simp] theorem kept_exchangeDone (p rec) : kept mail (exchangeDone p rec s) = kept mail s := by
  unfold exchangeDone
  dsimp only
  cases openChange s p
  all_goals
    simp
    intro _
    split
    next h => simp [kept_placeChange h]
    · simp

@[simp] theorem kept_capabilityActs (p ack rec) : kept mail (capabilityActs p ack rec s) = kept mail s := by
  simp [capabilityActs]

@[simp] theorem kept_capabilityReceive (p hdr llrs) : kept mail (capabilityReceive p hdr llrs s) = kept mail s := by
  unfold capabilityReceive
  split
  · split <;> simp
  · simp

/-! Timing. -/

@[simp] theorem kept_select (new cause) : kept mail (select new cause s) = kept mail s := by
  unfold select
  split <;> simp

@[simp] theorem kept_reselect (cause) : kept mail (reselect cause s) = kept mail s := by
  unfold reselect
  dsimp only
  repeat' split
  all_goals simp

@[simp] theorem kept_unqualify (c) : kept mail (unqualify c s) = kept mail s := kept_congr rfl rfl rfl
@[simp] theorem kept_loseActivity (c) : kept mail (loseActivity c s) = kept mail s := by simp [loseActivity]
@[simp] theorem kept_activityLoss (c) : kept mail (activityLoss c s) = kept mail s := by simp [activityLoss]
@[simp] theorem kept_hourglassTick (dT) : kept mail (hourglassTick dT s) = kept mail s := by simp [hourglassTick]

@[simp] theorem kept_takeOffsets (offs phases) : kept mail (takeOffsets offs phases s) = kept mail s := by
  simp [takeOffsets]

@[simp] theorem kept_judge (c) : kept mail (judge c s) = kept mail s := by simp [judge]

@[simp] theorem kept_rankPair (a b) : kept mail (rankPair a b s) = kept mail s := by
  unfold rankPair
  dsimp only
  split
  · split <;> simp
  · simp

@[simp] theorem kept_agePairs : kept mail (agePairs s) = kept mail s := kept_congr rfl rfl rfl
@[simp] theorem kept_ageSuspect (c) : kept mail (ageSuspect c s) = kept mail s := by simp [ageSuspect]

@[simp] theorem kept_candidateMeasure (offs phases) : kept mail (candidateMeasure offs phases s) = kept mail s := by
  simp [candidateMeasure]

@[simp] theorem kept_setLosc (lost) : kept mail (setLosc lost s) = kept mail s := by simp [setLosc]
@[simp] theorem kept_clkCandidate (r) : kept mail (clkCandidate r s).st = kept mail s := by simp [clkCandidate]
@[simp] theorem kept_clkConfig (r) : kept mail (clkConfig r s).st = kept mail s := by simp [clkConfig]
@[simp] theorem kept_clkForce (r) : kept mail (clkForce r s).st = kept mail s := by simp [clkForce]
@[simp] theorem kept_clkHoldover (r) : kept mail (clkHoldover r s).st = kept mail s := by simp [clkHoldover]
@[simp] theorem kept_clkRefout (r) : kept mail (clkRefout r s).st = kept mail s := by simp [clkRefout]
@[simp] theorem kept_clkStatus (r) : kept mail (clkStatus r s).st = kept mail s := kept_congr rfl rfl rfl
@[simp] theorem kept_stepTo (t) : kept mail (stepTo t s) = kept mail s := by simp [stepTo]

@[simp] theorem kept_tcSet (r) : kept mail (tcSet r s).st = kept mail s := by
  unfold tcSet
  split <;> simp

@[simp] theorem kept_tcSource (r) : kept mail (tcSource r s).st = kept mail s := by simp [tcSource]
@[simp] theorem kept_tcIo (r) : kept mail (tcIo r s).st = kept mail s := by simp [tcIo]
@[simp] theorem kept_tcTransfer (r) : kept mail (tcTransfer r s).st = kept mail s := by simp [tcTransfer]
@[simp] theorem kept_leadCompare : kept mail (leadCompare s) = kept mail s := kept_congr rfl rfl rfl

@[simp] theorem kept_sourceCompare : kept mail (sourceCompare s) = kept mail s := by
  unfold sourceCompare
  split
  · simp
  · split <;> simp

@[simp] theorem kept_ppsInEdge (at_) : kept mail (ppsInEdge at_ s) = kept mail s := by simp [ppsInEdge]
@[simp] theorem kept_todReceive (m) : kept mail (todReceive m s) = kept mail s := by simp [todReceive]
@[simp] theorem kept_ppsOutEdge (at_) : kept mail (ppsOutEdge at_ s) = kept mail s := by simp [ppsOutEdge]

@[simp] theorem kept_sendCell (p typ) : kept mail (sendCell p typ s) = kept mail s := by
  unfold sendCell
  split <;> simp

@[simp] theorem kept_timeTransferTick (p mOut far) : kept mail (timeTransferTick p mOut far s) = kept mail s := by
  simp [timeTransferTick]

@[simp] theorem kept_tcStatus (r) : kept mail (tcStatus r s).st = kept mail s := kept_congr rfl rfl rfl
@[simp] theorem kept_announceCue (i) : kept mail (announceCue i s) = kept mail s := by simp [announceCue]

@[simp] theorem kept_classAnnounce (p a) : kept mail (classAnnounce p a s) = kept mail s := by
  simp [classAnnounce]
  split <;> simp

@[simp] theorem kept_cueRead (r) : kept mail (cueRead r s).st = kept mail s := by simp [cueRead]
@[simp] theorem kept_cueStats (r) : kept mail (cueStats r s).st = kept mail s := kept_congr rfl rfl rfl

/-! Pair. -/

@[simp] theorem kept_placePeriodic : kept mail (placePeriodic s) = kept mail s := by
  unfold placePeriodic
  split
  · split <;> simp
  · simp

@[simp] theorem kept_sendWaiting (i) : kept mail (sendWaiting i s) = kept mail s := by simp [sendWaiting]
@[simp] theorem kept_jumpNumbers : kept mail (jumpNumbers s) = kept mail s := by simp [jumpNumbers]
@[simp] theorem kept_raiseWaiting (evs) : kept mail (raiseWaiting evs s) = kept mail s := by simp [raiseWaiting]
@[simp] theorem kept_gainLease (stop) : kept mail (gainLease stop s) = kept mail s := by simp [gainLease]
@[simp] theorem kept_renewOwn (l) : kept mail (renewOwn l s) = kept mail s := by simp [renewOwn]
@[simp] theorem kept_renewOther (l) : kept mail (renewOther l s) = kept mail s := by simp [renewOther]
@[simp] theorem kept_leaseGood (fr) : kept mail (leaseGood fr s) = kept mail s := by simp [leaseGood]
@[simp] theorem kept_leaseBad : kept mail (leaseBad s) = kept mail s := kept_congr rfl rfl rfl
@[simp] theorem kept_leaseFrame (fr) : kept mail (leaseFrame fr s) = kept mail s := by simp [leaseFrame]

@[simp] theorem kept_leaseExpiry : kept mail (leaseExpiry s) = kept mail s := by
  unfold leaseExpiry
  split <;> simp

@[simp] theorem kept_partnerExpiry : kept mail (partnerExpiry s) = kept mail s := by
  unfold partnerExpiry
  split <;> simp

@[simp] theorem kept_heartbeatSend : kept mail (heartbeatSend s) = kept mail s := kept_congr rfl rfl rfl
@[simp] theorem kept_arbLostTimer : kept mail (arbLostTimer s) = kept mail s := by simp [arbLostTimer]
@[simp] theorem kept_pairLanes (st) : kept mail (pairLanes st s) = kept mail s := kept_congr rfl rfl rfl
@[simp] theorem kept_pairDown : kept mail (pairDown s) = kept mail s := by simp [pairDown]
@[simp] theorem kept_pairUp (x) : kept mail (pairUp x s) = kept mail s := by simp [pairUp]
@[simp] theorem kept_pairLink (x) : kept mail (pairLink x s) = kept mail s := by simp [pairLink]
@[simp] theorem kept_pairLaneLoss (l) : kept mail (pairLaneLoss l s) = kept mail s := by simp [pairLaneLoss]
@[simp] theorem kept_stampIngress : kept mail (stampIngress s) = kept mail s := kept_congr rfl rfl rfl
@[simp] theorem kept_reportEmpty (k) : kept mail (reportEmpty k s) = kept mail s := by simp [reportEmpty]
@[simp] theorem kept_commitWindow (k idx) : kept mail (commitWindow k idx s) = kept mail s := by simp [commitWindow]

@[simp] theorem kept_commitRecord (k idx late margin) :
    kept mail (commitRecord k idx late margin s) = kept mail s := by
  simp [commitRecord]

@[simp] theorem kept_takeStateDigest : kept mail (takeStateDigest s) = kept mail s := kept_congr rfl rfl rfl
@[simp] theorem kept_sendInterval : kept mail (sendInterval s) = kept mail s := by simp [sendInterval]
@[simp] theorem kept_sendDigests : kept mail (sendDigests s) = kept mail s := by simp [sendDigests]
@[simp] theorem kept_judgeInterval : kept mail (judgeInterval s) = kept mail s := by simp [judgeInterval]
@[simp] theorem kept_mirrorInterval (at_) : kept mail (mirrorInterval at_ s) = kept mail s := by simp [mirrorInterval]

@[simp] theorem kept_digestReceive (d) : kept mail (digestReceive d s) = kept mail s := by
  unfold digestReceive
  split
  · simp
  · split
    · split <;> simp
    · simp
  · simp
  · rfl

@[simp] theorem kept_compareKcv (c k own far) : kept mail (compareKcv c k own far s) = kept mail s := by
  simp [compareKcv]

@[simp] theorem kept_contextMirror (m) : kept mail (contextMirror m s) = kept mail s := by simp [contextMirror]
@[simp] theorem kept_scheduleReceive (e) : kept mail (scheduleReceive e s) = kept mail s := kept_congr rfl rfl rfl
@[simp] theorem kept_dropBefore (k l) : kept mail (dropBefore k l s) = kept mail s := by simp [dropBefore]

@[simp] theorem kept_dropUsed (t) : kept mail (dropUsed t s) = kept mail s := by
  unfold dropUsed
  dsimp only
  split <;> simp

@[simp] theorem kept_emptyPoint (t k) : kept mail (emptyPoint t k s) = kept mail s := by simp [emptyPoint]

@[simp] theorem kept_rehearsalOver (i at_) : kept mail (rehearsalOver i at_ s) = kept mail s := by
  simp [rehearsalOver]

@[simp] theorem kept_rehearsalCue (i at_ inStep far) : kept mail (rehearsalCue i at_ inStep far s) = kept mail s := by
  unfold rehearsalCue
  dsimp only
  split
  · split <;> simp
  · simp

@[simp] theorem kept_pairConfig (r) : kept mail (pairConfig r s).st = kept mail s := by simp [pairConfig]

@[simp] theorem kept_pairRehearse (r) : kept mail (pairRehearse r s).st = kept mail s := by
  unfold pairRehearse
  dsimp only
  repeat' split
  all_goals simp

@[simp] theorem kept_pairStatus (r) : kept mail (pairStatus r s).st = kept mail s := by simp [pairStatus]
@[simp] theorem kept_pairResync (r) : kept mail (pairResync r s).st = kept mail s := by simp [pairResync]

/-! Thermal. -/

@[simp] theorem kept_dropPort (p) : kept mail (dropPort p s) = kept mail s := by simp [dropPort]
@[simp] theorem kept_allDark : kept mail (allDark s) = kept mail s := by simp [allDark]
@[simp] theorem kept_lanesIdle : kept mail (lanesIdle s) = kept mail s := kept_congr rfl rfl rfl
@[simp] theorem kept_denyEnables : kept mail (denyEnables s) = kept mail s := by simp [denyEnables]
@[simp] theorem kept_sampleDie (ch t) : kept mail (sampleDie ch t s) = kept mail s := by simp [sampleDie]
@[simp] theorem kept_holdCap (p) : kept mail (holdCap p s) = kept mail s := by simp [holdCap]
@[simp] theorem kept_paceProtect : kept mail (paceProtect s) = kept mail s := by simp [paceProtect]

@[simp] theorem kept_thermalShutdown (ch) : kept mail (thermalShutdown ch s) = kept mail s := by
  simp [thermalShutdown]

@[simp] theorem kept_thermSample (ts) : kept mail (thermSample ts s) = kept mail s := by
  unfold thermSample
  dsimp only
  split <;> simp

@[simp] theorem kept_judgeDiodes (ch d0 d1) : kept mail (judgeDiodes ch d0 d1 s) = kept mail s := by
  simp [judgeDiodes]

@[simp] theorem kept_flashWindow (t) : kept mail (flashWindow t s) = kept mail s := by simp [flashWindow]
@[simp] theorem kept_flushDone : kept mail (flushDone s) = kept mail s := kept_congr rfl rfl rfl
@[simp] theorem kept_reportedDone : kept mail (reportedDone s) = kept mail s := kept_congr rfl rfl rfl
@[simp] theorem kept_mapDone : kept mail (mapDone s) = kept mail s := kept_congr rfl rfl rfl

@[simp] theorem kept_doneByTag (op tag c) : kept mail (doneByTag op tag c s) = kept mail s := by
  unfold doneByTag
  split <;> simp

@[simp] theorem kept_storeCal (k v) : kept mail (storeCal k v s) = kept mail s := kept_congr rfl rfl rfl
@[simp] theorem kept_eraseLog (mask) : kept mail (eraseLog mask s) = kept mail s := kept_congr rfl rfl rfl

@[simp] theorem kept_workDone (w same) : kept mail (workDone w same s) = kept mail s := by
  unfold workDone
  split <;> simp

@[simp] theorem kept_flashPageDone (last same) : kept mail (flashPageDone last same s) = kept mail s := by
  unfold flashPageDone
  dsimp only
  split <;> simp

@[simp] theorem kept_thermStatus (r) : kept mail (thermStatus r s).st = kept mail s := kept_congr rfl rfl rfl
@[simp] theorem kept_thermSensor (r) : kept mail (thermSensor r s).st = kept mail s := by simp [thermSensor]
@[simp] theorem kept_thermWarn (r) : kept mail (thermWarn r s).st = kept mail s := by simp [thermWarn]
@[simp] theorem kept_calSlew (item a) : kept mail (calSlew item a s) = kept mail s := by simp [calSlew]
@[simp] theorem kept_calRead (r) : kept mail (calRead r s).st = kept mail s := by simp [calRead]
@[simp] theorem kept_putCal (k v r pay) : kept mail (putCal k v r pay s).st = kept mail s := by simp [putCal]
@[simp] theorem kept_calWrite (r) : kept mail (calWrite r s).st = kept mail s := by simp [calWrite]

@[simp] theorem kept_measureCue (n) : kept mail (measureCue n s) = kept mail s := by
  unfold measureCue
  split <;> simp

@[simp] theorem kept_calMeasure (r) : kept mail (calMeasure r s).st = kept mail s := by simp [calMeasure]

@[simp] theorem kept_measureDone (reading) : kept mail (measureDone reading s) = kept mail s := by
  unfold measureDone
  dsimp only
  repeat' split
  all_goals simp

@[simp] theorem kept_calApply (r) : kept mail (calApply r s).st = kept mail s := by
  unfold calApply
  split
  · simp
  · split <;> simp

@[simp] theorem kept_calClear (r) : kept mail (calClear r s).st = kept mail s := by simp [calClear]

/-! Inject. -/

@[simp] theorem kept_pairLaneRetire (l) : kept mail (pairLaneRetire l s) = kept mail s := by simp [pairLaneRetire]
@[simp] theorem kept_d2dRetire (i) : kept mail (d2dRetire i s) = kept mail s := by simp [d2dRetire]

@[simp] theorem kept_stageSlots (d sc t n) : kept mail (stageSlots d sc t n s).2 = kept mail s := by
  unfold stageSlots
  dsimp only
  split <;> simp

@[simp] theorem kept_stageLost (sc l r) : kept mail (stageLost sc l r s).2 = kept mail s := by
  induction l generalizing r s with
  | nil => rfl
  | cons a l ih => simp [stageLost, ih]

@[simp] theorem kept_commitFill : kept mail (commitFill s) = kept mail s := by
  unfold commitFill
  split
  · split
    · simp
    · exact kept_placeCommit_getD _ _ _ rfl
  · exact kept_placeCommit_getD _ _ _ rfl

@[simp] theorem kept_fillSlots (sc ls) : kept mail (fillSlots sc ls s).2 = kept mail s := by
  unfold fillSlots
  split <;> simp

@[simp] theorem kept_subcarrierRetire (sc) : kept mail (subcarrierRetire sc s) = kept mail s := by
  simp [subcarrierRetire]

@[simp] theorem kept_callWarm : kept mail (callWarm s) = kept mail s := kept_congr rfl rfl rfl
@[simp] theorem kept_coreRetire (c) : kept mail (coreRetire c s) = kept mail s := by simp [coreRetire]

@[simp] theorem kept_coreTrap (c cause pc addr task) : kept mail (coreTrap c cause pc addr task s) = kept mail s := by
  simp [coreTrap]

@[simp] theorem kept_watchdogTrap (c pc task) : kept mail (watchdogTrap c pc task s) = kept mail s := by
  simp [watchdogTrap]

@[simp] theorem kept_coreFetchUe (c data pc addr task) :
    kept mail (coreFetchUe c data pc addr task s) = kept mail s := by
  simp [coreFetchUe]

@[simp] theorem kept_coreRestart (c) : kept mail (coreRestart c s) = kept mail s := by
  unfold coreRestart
  split <;> simp

@[simp] theorem kept_logCopy : kept mail (logCopy s) = kept mail s := by
  unfold logCopy
  dsimp only
  repeat' split
  all_goals simp

@[simp] theorem kept_faultPolicy (r) : kept mail (faultPolicy r s).st = kept mail s := by simp [faultPolicy]
@[simp] theorem kept_faultStatus (r) : kept mail (faultStatus r s).st = kept mail s := by simp [faultStatus]
@[simp] theorem kept_faultClear (r) : kept mail (faultClear r s).st = kept mail s := by simp [faultClear]
@[simp] theorem kept_faultInjstatus (r) : kept mail (faultInjstatus r s).st = kept mail s := by simp [faultInjstatus]

@[simp] theorem kept_faultTestpattern (r) : kept mail (faultTestpattern r s).st = kept mail s := by
  unfold faultTestpattern
  dsimp only
  split
  · rfl
  · split
    · rfl
    · split
      · rfl
      · split
        · rfl
        next h => simp [kept_placeCommit h]

@[simp] theorem kept_faultTeststatus (r) : kept mail (faultTeststatus r s).st = kept mail s := by
  simp [faultTeststatus]

@[simp] theorem kept_faultDmarestart (r) : kept mail (faultDmarestart r s).st = kept mail s := by
  simp [faultDmarestart]

@[simp] theorem kept_logStatus (r) : kept mail (logStatus r s).st = kept mail s := kept_congr rfl rfl rfl
@[simp] theorem kept_logRead (r) : kept mail (logRead r s).st = kept mail s := by simp [logRead]
@[simp] theorem kept_logFreeze (r) : kept mail (logFreeze r s).st = kept mail s := by simp [logFreeze]
@[simp] theorem kept_logRearm (r) : kept mail (logRearm r s).st = kept mail s := by simp [logRearm]
@[simp] theorem kept_logErase (r) : kept mail (logErase r s).st = kept mail s := by simp [logErase]

/-! Pace. -/

@[simp] theorem kept_marginSample (u) : kept mail (marginSample u s) = kept mail s := by
  unfold marginSample
  split <;> simp

@[simp] theorem kept_paceSample (u o) : kept mail (paceSample u o s) = kept mail s := by simp [paceSample]
@[simp] theorem kept_coreSlot (c o) : kept mail (coreSlot c o s) = kept mail s := by simp [coreSlot]
@[simp] theorem kept_perfSelect (r) : kept mail (perfSelect r s).st = kept mail s := by simp [perfSelect]
@[simp] theorem kept_perfRead (r) : kept mail (perfRead r s).st = kept mail s := by simp [perfRead]
@[simp] theorem kept_raiseWindow (isOpen) : kept mail (raiseWindow isOpen s) = kept mail s := kept_congr rfl rfl rfl
@[simp] theorem kept_endTracing : kept mail (endTracing s) = kept mail s := by simp [endTracing]

theorem kept_placeWindowCue {time tag x} (h : placeWindowCue time tag s = some x) : kept mail x.2 = kept mail s := by
  obtain ⟨i, -, rfl⟩ := Option.map_eq_some_iff.1 h
  simp

theorem kept_placeWindow {start len tag} (h : placeWindow start len tag s = some t) : kept mail t = kept mail s := by
  unfold placeWindow at h
  split at h
  · cases h
  next hopen =>
    split at h
    · cases h
      simp [← kept_placeWindowCue hopen]
    · obtain ⟨x, hclose, rfl⟩ := Option.map_eq_some_iff.1 h
      simp [kept_placeWindowCue hclose, ← kept_placeWindowCue hopen]

@[simp] theorem kept_perfTracer (r) : kept mail (perfTracer r s).st = kept mail s := by
  unfold perfTracer
  dsimp only
  split
  · rfl
  · split
    · rfl
    · split
      · split <;> simp
      · split
        · rfl
        · split
          · rfl
          next h => simp [kept_placeWindow h]

@[simp] theorem kept_windowCue (i) : kept mail (windowCue i s) = kept mail s := by simp [windowCue]
@[simp] theorem kept_dropRecord : kept mail (dropRecord s) = kept mail s := by simp [dropRecord]
@[simp] theorem kept_deliverRecord (r) : kept mail (deliverRecord r s) = kept mail s := by simp [deliverRecord]
@[simp] theorem kept_tagRecord (r) : kept mail (tagRecord r s) = kept mail s := by simp [tagRecord]
@[simp] theorem kept_tracerRecord (r) : kept mail (tracerRecord r s) = kept mail s := by simp [tracerRecord]
@[simp] theorem kept_perfTrdeliver (r) : kept mail (perfTrdeliver r s).st = kept mail s := by simp [perfTrdeliver]
@[simp] theorem kept_perfTrstatus (r) : kept mail (perfTrstatus r s).st = kept mail s := kept_congr rfl rfl rfl

/-! Power. -/

@[simp] theorem kept_restoreSlice (i) : kept mail (restoreSlice i s) = kept mail s := by
  unfold restoreSlice
  dsimp only
  split <;> simp

@[simp] theorem kept_restoreEngine (i) : kept mail (restoreEngine i s) = kept mail s := by
  unfold restoreEngine
  dsimp only
  split <;> simp

@[simp] theorem kept_restoreLane (i) : kept mail (restoreLane i s) = kept mail s := kept_congr rfl rfl rfl
@[simp] theorem kept_restorePc (g) : kept mail (restorePc g s) = kept mail s := kept_congr rfl rfl rfl

@[simp] theorem kept_restoreUnit (u) : kept mail (restoreUnit u s) = kept mail s := by
  unfold restoreUnit
  split <;> simp

@[simp] theorem kept_startBoot : kept mail (startBoot s) = kept mail s := kept_congr rfl rfl rfl

@[simp] theorem kept_softStartAbort (vin) : kept mail (softStartAbort vin s) = kept mail s := by
  unfold softStartAbort
  split
  · split <;> simp
  · simp

@[simp] theorem kept_railsGood : kept mail (railsGood s) = kept mail s := by simp [railsGood]
@[simp] theorem kept_linkStarts : kept mail (linkStarts s) = kept mail s := kept_congr rfl rfl rfl
@[simp] theorem kept_loadDone : kept mail (loadDone s) = kept mail s := kept_congr rfl rfl rfl
@[simp] theorem kept_bootMarker : kept mail (bootMarker s) = kept mail s := kept_congr rfl rfl rfl
@[simp] theorem kept_readPowerFail : kept mail (readPowerFail s) = kept mail s := kept_congr rfl rfl rfl
@[simp] theorem kept_bootReady (calOk) : kept mail (bootReady calOk s) = kept mail s := by simp [bootReady]
@[simp] theorem kept_markFailed : kept mail (markFailed s) = kept mail s := kept_congr rfl rfl rfl
@[simp] theorem kept_resetRelease (role) : kept mail (resetRelease role s) = kept mail s := by simp [resetRelease]
@[simp] theorem kept_sysReset (r) : kept mail (sysReset r s).st = kept mail s := by simp [sysReset]

@[simp] theorem kept_writeFailRecord (wasFrozen) : kept mail (writeFailRecord wasFrozen s) = kept mail s := by
  simp [writeFailRecord]

@[simp] theorem kept_powerFail (vin) : kept mail (powerFail vin s) = kept mail s := by simp [powerFail]

@[simp] theorem kept_ovShutdown (vin) : kept mail (ovShutdown vin s) = kept mail s := by
  unfold ovShutdown
  split
  · simp
  · split <;> simp

@[simp] theorem kept_vinWarn (vin) : kept mail (vinWarn vin s) = kept mail s := by simp [vinWarn]
@[simp] theorem kept_dropWork (d) : kept mail (dropWork d s) = kept mail s := kept_congr rfl rfl rfl

@[simp] theorem kept_undo (d) : kept mail (undo d s) = kept mail s := by
  unfold undo
  split <;> simp

@[simp] theorem kept_endDeferred : kept mail (endDeferred s) = kept mail s := by simp [endDeferred]
@[simp] theorem kept_fwRestart (r) : kept mail (fwRestart r s).st = kept mail s := by simp [fwRestart]
@[simp] theorem kept_restartEnds (r) : kept mail (restartEnds r s) = kept mail s := by simp [restartEnds]
@[simp] theorem kept_coresRun : kept mail (coresRun s) = kept mail s := by simp [coresRun]
@[simp] theorem kept_warmStart : kept mail (warmStart s) = kept mail s := by simp [warmStart]
@[simp] theorem kept_firmwareRuns : kept mail (firmwareRuns s) = kept mail s := by simp [firmwareRuns]
@[simp] theorem kept_warmDone : kept mail (warmDone s) = kept mail s := by simp [warmDone]
@[simp] theorem kept_emptyPort (p) : kept mail (emptyPort p s) = kept mail s := by simp [emptyPort]
@[simp] theorem kept_portDark (p) : kept mail (portDark p s) = kept mail s := by simp [portDark]
@[simp] theorem kept_reenable (p lo tx rx) : kept mail (reenable p lo tx rx s) = kept mail s := by simp [reenable]
@[simp] theorem kept_portReset (lo r) : kept mail (portReset lo r s).st = kept mail s := by simp [portReset]
@[simp] theorem kept_portResetDone (p ok) : kept mail (portResetDone p ok s) = kept mail s := by simp [portResetDone]

/-! Mirror. -/

@[simp] theorem kept_cancelChange (i) : kept mail (cancelChange i s) = kept mail s := by
  unfold cancelChange
  dsimp only
  split <;> simp

@[simp] theorem kept_cancelFar (i) : kept mail (cancelFar i s) = kept mail s := kept_congr rfl rfl rfl

@[simp] theorem kept_cancelDissolve (i) : kept mail (cancelDissolve i s) = kept mail s := by
  unfold cancelDissolve
  dsimp only
  split
  · split <;> simp
  · simp

@[simp] theorem kept_cancelCommit (i) : kept mail (cancelCommit i s) = kept mail s := kept_congr rfl rfl rfl
@[simp] theorem kept_cancelWindow (i) : kept mail (cancelWindow i s) = kept mail s := kept_congr rfl rfl rfl

@[simp] theorem kept_cancelCue (i) : kept mail (cancelCue i s) = kept mail s := by
  unfold cancelCue
  split <;> simp

@[simp] theorem kept_cueCancel (r) : kept mail (cueCancel r s).st = kept mail s := by simp [cueCancel]

@[simp] theorem kept_lowpowerMirrored (r) : kept mail (lowpowerMirrored r s).st = kept mail s := by
  unfold lowpowerMirrored
  split
  next h => rw [lowpowerAnswer_st h]
  · simp

@[simp] theorem kept_retireMirrored (r) : kept mail (retireMirrored r s).st = kept mail s := by simp [retireMirrored]

@[simp] theorem kept_applyDone (op tag code) : kept mail (applyDone op tag code s) = kept mail s :=
  kept_congr rfl rfl rfl

@[simp] theorem kept_applyCue (i kind obj time period tag) :
    kept mail (applyCue i kind obj time period tag s) = kept mail s := by
  simp [applyCue]

@[simp] theorem kept_applyPm (kind obj b15 b24) : kept mail (applyPm kind obj b15 b24 s) = kept mail s :=
  kept_congr rfl rfl rfl

@[simp] theorem kept_confirm : kept mail (confirm s) = kept mail s := kept_congr rfl rfl rfl
@[simp] theorem kept_applyLease (time) : kept mail (applyLease time s) = kept mail s := kept_congr rfl rfl rfl

@[simp] theorem kept_applyHub (p at_ d) : kept mail (applyHub p at_ d s) = kept mail s := by
  unfold applyHub
  split <;> simp

/-! Arm. -/

@[simp] theorem kept_startTimed (pt) : kept mail (startTimed pt s) = kept mail s := kept_congr rfl rfl rfl

@[simp] theorem kept_timedEffect (pt arg) : kept mail (timedEffect pt arg s) = kept mail s := by
  unfold timedEffect
  split
  · simp
  · split <;> simp

@[simp] theorem kept_effectAtOnce (pt arg) : kept false (effectAtOnce pt arg s) = kept false s := by
  simp [effectAtOnce]
  split <;> simp

@[simp] theorem kept_faultInject (r) : kept mail (faultInject r s).st = kept mail s := by simp [faultInject]
@[simp] theorem kept_actAtOnce (r) : kept false (actAtOnce r s) = kept false s := by simp [actAtOnce]

@[simp] theorem kept_endEffect (pt arg) : kept mail (endEffect pt arg s) = kept mail s := by
  unfold endEffect
  split <;> simp

@[simp] theorem kept_injectionEnd (pt) : kept mail (injectionEnd pt s) = kept mail s := by simp [injectionEnd]

/-! Control. -/

@[simp] theorem kept_overrun (mb) : kept mail (overrun mb s) = kept mail s := kept_congr rfl rfl rfl
@[simp] theorem kept_ring (path mb) : kept mail (ring path mb s) = kept mail s := by simp [ring]
@[simp] theorem kept_doorbell (path val) : kept mail (doorbell path val s) = kept mail s := by simp [doorbell]
@[simp] theorem kept_ownerWrite (path val) : kept mail (ownerWrite path val s) = kept mail s := kept_congr rfl rfl rfl

@[simp] theorem kept_intStatusClear (val causes) : kept mail (intStatusClear val causes s) = kept mail s := by
  simp [intStatusClear]

@[simp] theorem kept_intMaskWrite (val) : kept mail (intMaskWrite val s) = kept mail s := by simp [intMaskWrite]
@[simp] theorem kept_evrEnable : kept mail (evrEnable s) = kept mail s := kept_congr rfl rfl rfl
@[simp] theorem kept_evrDisable : kept mail (evrDisable s) = kept mail s := kept_congr rfl rfl rfl
@[simp] theorem kept_evrTailWrite (val) : kept mail (evrTailWrite val s) = kept mail s := kept_congr rfl rfl rfl
@[simp] theorem kept_msixWrite (off val) : kept mail (msixWrite off val s) = kept mail s := kept_congr rfl rfl rfl
@[simp] theorem kept_writeEntry (ev) : kept mail (writeEntry ev s) = kept mail s := by simp [writeEntry]
@[simp] theorem kept_queueLost : kept mail (queueLost s) = kept mail s := kept_congr rfl rfl rfl
@[simp] theorem kept_rejectEntry : kept mail (rejectEntry s) = kept mail s := kept_congr rfl rfl rfl

@[simp] theorem kept_writeNext : kept mail (writeNext s) = kept mail s := by
  unfold writeNext
  split <;> simp

@[simp] theorem kept_ringWrite : kept mail (ringWrite s) = kept mail s := by simp [ringWrite]

end Sys2Proof.Machine
end

section
/-! SUPPORT of O60: what a write of bulk memory leaves. -/
namespace Sys2Proof.Machine

variable {mail : Bool} {s t u : State}

theorem bulkByte_of_kept (h : kept mail t = kept mail s) (a : Nat) : bulkByte t a = bulkByte s a :=
  congrFun (congrArg Prod.fst h) a

theorem mail_of_kept (h : kept true t = kept true s) : t.ctrl.mail = s.ctrl.mail := congrArg Prod.snd h

/-! A write (R331, R333/11): the bytes it names take their values where their region is valid, every other byte is as it was. -/

/-- A word made ready for a write: its region filled, its status settled (R331, R333). -/
def readyWord (addr len syms : Nat) (s : State) : State :=
  if len = 64 ∨ regionHeld s (regionOf addr) = false then setStatus (addr / 64) .clean (fillRegion (regionOf addr) s)
  else mergeWord addr syms (fillRegion (regionOf addr) s)

theorem storeWord_eq (addr data syms) (s : State) : storeWord addr data syms s =
    onBulk (fun m => { m with mem := memPutAll m.mem addr data }) (readyWord addr data.length syms s) := rfl

@[simp] theorem kept_readyWord (addr len syms) : kept mail (readyWord addr len syms s) = kept mail s := by
  simp [readyWord]

theorem readyWord_mem (addr len syms) : (readyWord addr len syms s).bulk.mem = (fillRegion (regionOf addr) s).bulk.mem := by
  unfold readyWord
  split
  · exact setStatus_mem ..
  · exact mergeWord_mem ..

theorem readyWord_canonical (addr len syms) (h : MemoryCanonical s) : MemoryCanonical (readyWord addr len syms s) := by
  rw [MemoryCanonical, readyWord_mem]
  exact fillRegion_canonical _ h

theorem bulkByte_storeWord (addr data syms a) (h : MemoryCanonical s) :
    bulkByte (storeWord addr data syms s) a =
      if addr ≤ a ∧ a < addr + data.length then
        if regionValid (readyWord addr data.length syms s) (regionOf a) then data.getD (a - addr) 0 else 0
      else bulkByte s a := by
  have hkept : bulkByte (readyWord addr data.length syms s) a = bulkByte s a := bulkByte_of_kept (mail := true) (by simp) a
  have hbyte := memByte_memPutAll addr a data (readyWord_canonical addr data.length syms h)
  rw [← hkept, storeWord_eq, bulkByte, bulkByte, onBulk_bulk, hbyte]
  change (if regionValid (readyWord addr data.length syms s) (regionOf a) then _ else _) = _
  split_ifs <;> rfl

theorem bulkByte_storeFrom {n addr : Nat} {data : List Byte} {syms a : Nat} (hc : MemoryCanonical s)
    (ha : a < addr ∨ addr + data.length ≤ a) : bulkByte (storeFrom n addr data syms s) a = bulkByte s a := by
  induction n generalizing addr data syms s with
  | zero => rfl
  | succ n ih =>
    simp only [storeFrom]
    split
    · rfl
    · rw [ih (storeWord_canonical _ _ _ hc), bulkByte_storeWord _ _ _ _ hc, if_neg] <;> simp <;> omega

/-- A write changes no byte outside it. -/
theorem bulkByte_store {addr : Nat} {data : List Byte} {syms a : Nat} (hc : MemoryCanonical s)
    (ha : a < addr ∨ addr + data.length ≤ a) : bulkByte (store addr data syms s) a = bulkByte s a :=
  bulkByte_storeFrom hc ha

theorem store_mail (addr data syms) (s : State) : (store addr data syms s).ctrl.mail = s.ctrl.mail := by
  unfold store
  generalize data.length / 64 + 2 = n
  induction n generalizing addr data syms s with
  | zero => rfl
  | succ n ih =>
    simp only [storeFrom]
    split
    · rfl
    · exact (ih ..).trans (mail_of_kept (t := readyWord ..) (kept_readyWord ..))

end Sys2Proof.Machine
end

section
/-! SUPPORT and PROOF of O60: the bytes that each storing command may change, and that no other command changes one. -/
namespace Sys2Proof.Machine

variable {mail : Bool} {s t u : State}

/-- A byte of another line lies outside what is written to a counter line. -/
theorem outside_line {line a : Nat} (data : List Byte) (hd : data.length = 64) (ha : a / 64 ≠ counterBase / 64 + line) :
    a < counterBase + 64 * line ∨ counterBase + 64 * line + data.length ≤ a := by
  rw [hd]
  simp only [counterBase] at ha ⊢
  omega

/-! Counter lines (R275/09, R337/11): one is zeroed where a checked read finds it uncorrectable, one leaves a full cache. -/

theorem bulkByte_zeroCounterLine {line a : Nat} (hc : MemoryCanonical s) (ha : a / 64 ≠ counterBase / 64 + line) :
    bulkByte (zeroCounterLine line s) a = bulkByte s a := by
  have hforget : kept true (forgetCounts line s) = kept true s := kept_forgetCounts ..
  have hout := outside_line (zeros 64) (zeros_length 64) ha
  exact (bulkByte_store (s := forgetCounts line s) hc hout).trans (bulkByte_of_kept hforget a)

theorem zeroCounterLine_canonical (line : Nat) (hc : MemoryCanonical s) : MemoryCanonical (zeroCounterLine line s) :=
  store_canonical (s := forgetCounts line s) _ _ _ hc

theorem within_setStatus (w : Nat) (st : WordStatus) (s : State) : Within [.bulk, .log] s (setStatus w st s) := by
  unfold setStatus
  split
  · exact (within_onLog _ s).mono (by simp)
  · exact (within_onBulk _ s).mono (by simp)

theorem within_uncorrectableWord (c addr : Nat) (s : State) :
    Within [.ev, .bulk, .flt, .log] s (uncorrectableWord c addr s) :=
  ((((within_onSandOf _ _ s).andThen (within_onBulk _ _)).andThen (within_raise _ _ _ _ _ _)).andThen
    (within_unitFault _ _ _)).mono (by simp)

/-- What a read leaves before what follows for its consumer: bulk memory as it reads, and all but events, faults, log and
word states. -/
def ReadKeeps (s u : State) : Prop :=
  kept true u = kept true s ∧ u.bulk.mem = s.bulk.mem ∧ Within [.ev, .bulk, .flt, .log] s u

theorem readKeeps_refl (s : State) : ReadKeeps s s := ⟨rfl, rfl, within_refl _ s⟩

theorem ReadKeeps.trans (h : ReadKeeps s t) (k : ReadKeeps t u) : ReadKeeps s u :=
  ⟨k.1.trans h.1, k.2.1.trans h.2.1, h.2.2.trans k.2.2⟩

theorem readKeeps_setStatus (w : Nat) (st : WordStatus) (s : State) : ReadKeeps s (setStatus w st s) :=
  ⟨by simp, setStatus_mem .., (within_setStatus w st s).mono (by simp)⟩

theorem readKeeps_correctedWord (addr : Nat) (s : State) : ReadKeeps s (correctedWord addr s) :=
  ⟨by simp, correctedWord_mem .., within_correctedWord addr s⟩

theorem readKeeps_uncorrectableWord (c addr : Nat) (s : State) : ReadKeeps s (uncorrectableWord c addr s) :=
  ⟨by simp, uncorrectableWord_mem .., within_uncorrectableWord c addr s⟩

theorem readKeeps_injAct (pt : Nat) (s : State) : ReadKeeps s (injAct pt s) :=
  ⟨by simp, congrArg Bulk.mem (within_injAct pt s .bulk (by simp)), (within_injAct pt s).mono (by simp)⟩

/-- A read is followed by the consequence for its consumer or by nothing. -/
theorem readMore_cases (c addr syms inj : Nat) (s : State) :
    ∃ u, ReadKeeps s u ∧ (readMore c addr syms inj s = u ∨ readMore c addr syms inj s = consequence c addr u) := by
  unfold readMore
  split
  · exact ⟨s, readKeeps_refl s, .inl rfl⟩
  · split
    · exact ⟨s, readKeeps_refl s, .inl rfl⟩
    · refine ⟨_, .trans ?_ (readKeeps_correctedWord ..), .inl rfl⟩
      split
      · exact readKeeps_refl s
      · exact readKeeps_setStatus ..
    · exact ⟨_, (onlyIf_keeps (P := ReadKeeps s) _ _ (fun _ => readKeeps_setStatus ..) (readKeeps_refl s)).trans
        (readKeeps_uncorrectableWord ..), .inr rfl⟩
    · exact ⟨_, readKeeps_uncorrectableWord .., .inr rfl⟩

theorem readInjected_cases (c addr syms : Nat) (s : State) :
    ∃ u, ReadKeeps s u ∧ (readInjected c addr syms s = u ∨ readInjected c addr syms s = consequence c addr u) := by
  unfold readInjected
  split
  · exact readMore_cases ..
  next pt _ =>
    obtain ⟨u, hu, hread⟩ := readMore_cases c addr syms (if pt % 2 = 0 then 1 else 2) (injAct pt s)
    exact ⟨u, (readKeeps_injAct pt s).trans hu, hread⟩

theorem consequence_five (addr : Nat) (s : State) : consequence 5 addr s = zeroCounterLine ((addr - counterBase) / 64) s := by
  unfold consequence
  split <;> trivial

theorem line_of_counterAddr {addr : Nat} (hlo : counterBase ≤ addr) : counterBase / 64 + (addr - counterBase) / 64 = addr / 64 := by
  simp only [counterBase] at hlo ⊢
  omega

theorem readyWord_ctrCache (addr len syms) (s : State) : (readyWord addr len syms s).svc.ctrCache = s.svc.ctrCache := by
  have hfill : (fillRegion (regionOf addr) s).svc = s.svc := within_onlyIf _ _ (within_onBulk _ s) .svc (by simp)
  have hset (w st) (u : State) : (setStatus w st u).svc = u.svc := within_setStatus w st u .svc (by simp)
  have hunc (c a) (u : State) : (uncorrectableWord c a u).svc = u.svc := within_uncorrectableWord c a u .svc (by simp)
  have hcor (a) (u : State) : (correctedWord a u).svc = u.svc := within_correctedWord a u .svc (by simp)
  have hlose (w) (u : State) : (losesLine w u).svc.ctrCache = u.svc.ctrCache := rfl
  unfold readyWord mergeWord
  split
  · rw [hset, hfill]
  · split
    · rw [hset, hfill]
    · rw [hcor, hset, hfill]
    · unfold onlyIf
      split <;> simp [hlose, hunc, hset, hfill]
    · simp [hfill]

/-- A write leaves the counter cache. -/
theorem store_ctrCache (addr data syms) (s : State) : (store addr data syms s).svc.ctrCache = s.svc.ctrCache := by
  unfold store
  generalize data.length / 64 + 2 = n
  induction n generalizing addr data syms s with
  | zero => rfl
  | succ n ih =>
    simp only [storeFrom]
    split
    · rfl
    · exact (ih ..).trans (readyWord_ctrCache ..)

/-- A read by consumer 5 leaves every line but its own, the memory's form and the counter cache. -/
theorem readInjected_five {addr syms : Nat} (hc : MemoryCanonical s) (hlo : counterBase ≤ addr) :
    MemoryCanonical (readInjected 5 addr syms s)
      ∧ (readInjected 5 addr syms s).svc.ctrCache = s.svc.ctrCache
      ∧ ∀ a, a / 64 ≠ addr / 64 → bulkByte (readInjected 5 addr syms s) a = bulkByte s a := by
  obtain ⟨u, ⟨hkept, hmem, hwithin⟩, hread⟩ := readInjected_cases 5 addr syms s
  have hu : MemoryCanonical u := by rwa [MemoryCanonical, hmem]
  have hcache : u.svc.ctrCache = s.svc.ctrCache := congrArg Service.ctrCache (hwithin .svc (by simp))
  rcases hread with hread | hread <;> rw [hread]
  · exact ⟨hu, hcache, fun a _ => bulkByte_of_kept hkept a⟩
  · rw [consequence_five]
    refine ⟨zeroCounterLine_canonical _ hu, (store_ctrCache ..).trans hcache, fun a ha => ?_⟩
    exact (bulkByte_zeroCounterLine hu (by rwa [line_of_counterAddr hlo])).trans (bulkByte_of_kept hkept a)

theorem counterBytes_length (s : State) (set : Nat) : (counterBytes s set).length = 32 := by
  simp [counterBytes, counterValues]

theorem bulkByte_evictCounter {line a : Nat} (hc : MemoryCanonical s) (ha : a / 64 ≠ counterBase / 64 + line) :
    bulkByte (evictCounter line s) a = bulkByte s a := by
  have hlen : (counterBytes s (2 * line) ++ counterBytes s (2 * line + 1)).length = 64 := by simp [counterBytes_length]
  have hkept (u : State) :
      kept true (forgetCounts line u |> onSvc (fun v => { v with ctrCache := without line v.ctrCache })) = kept true u := by simp
  unfold evictCounter
  rw [bulkByte_of_kept (hkept _), bulkByte_store hc (outside_line _ hlen ha)]

/-- A full counter cache gives up one of its own lines (R275/09). -/
theorem bulkByte_makeRoom {a : Nat} (hc : MemoryCanonical s)
    (ha : s.svc.ctrCache.length < 131072 ∨ ∀ l, l ∈ s.svc.ctrCache → a / 64 ≠ counterBase / 64 + l) :
    bulkByte (makeRoom s) a = bulkByte s a := by
  unfold makeRoom
  split
  · rfl
  next hfull =>
    have hlt : freeBelow s.svc.ctrCache.length s < s.svc.ctrCache.length := Nat.mod_lt _ (by omega)
    have hmem : s.svc.ctrCache.getD (freeBelow s.svc.ctrCache.length s) 0 ∈ s.svc.ctrCache := by
      rw [List.getD_eq_getElem _ _ hlt]
      exact List.getElem_mem hlt
    have hfree (u : State) : kept true (useFree u) = kept true u := by simp
    rw [bulkByte_of_kept (hfree _), bulkByte_evictCounter hc ((ha.resolve_left hfull) _ hmem)]

/-- A counter line fill changes its own line and, from a full cache, the line that leaves it (R275/09). -/
theorem bulkByte_counterFillDone {line a : Nat} {bad : Bool} (hc : MemoryCanonical s) (ha : a / 64 ≠ counterBase / 64 + line)
    (hl : s.svc.ctrCache.length < 131072 ∨ ∀ l, l ∈ s.svc.ctrCache → a / 64 ≠ counterBase / 64 + l) :
    bulkByte (counterFillDone line bad s) a = bulkByte s a := by
  have hline : (counterBase + 64 * line) / 64 = counterBase / 64 + line := by simp only [counterBase]; omega
  obtain ⟨hcanon, hcache, hbyte⟩ :=
    readInjected_five (syms := if bad then 2 else 0) hc (Nat.le_add_right counterBase (64 * line))
  have hkept (u : State) : kept true (useFree (chipPut 66 (freeBelow 131072 u) 1 u)
      |> takePending line |> onSvc (fun v => { v with ctrCache := line :: v.ctrCache, ctrFull := false })) = kept true u := by
    simp
  unfold counterFillDone
  split
  · rfl
  · rw [bulkByte_of_kept (hkept _), bulkByte_makeRoom hcanon (by rwa [hcache]), hbyte a (by rwa [hline])]

end Sys2Proof.Machine
end

section
/-! SUPPORT and PROOF of O60: the bytes that each storing command may change, and that no other command changes one. -/
namespace Sys2Proof.Machine

variable {mail : Bool} {s t u : State}

/-! Labels and counter sets (R273, R275/09). -/

theorem overlay_length {off n : Nat} {new old : List Byte} (ho : old.length = n) (h : off + new.length ≤ n) :
    (overlay off new old).length = n := by
  simp [overlay]
  omega

theorem newLine_length {label : Nat} {entry : List Byte} {lost : Bool} (he : entry.length ≤ 16) :
    (newLine s label entry lost).length = 64 := by
  refine overlay_length ?_ (by omega)
  split <;> simp [bulkBytes]

theorem bulkByte_writeLabel {label a : Nat} {entry : List Byte} (hc : MemoryCanonical s) (he : entry.length ≤ 16)
    (ha : a / 64 ≠ labelBase / 64 + label / 4) : bulkByte (writeLabel label entry s) a = bulkByte s a := by
  have hkept (lost : Bool) (u : State) : kept true (onSvc (fun v => { v with ueLines := without (label / 4) v.ueLines }) u
      |> onlyIf lost (raise 0x0681 23 0 0 (natBE 4 (4 * (label / 4))))) = kept true u := by simp
  unfold writeLabel
  rw [bulkByte_of_kept (hkept _ _), bulkByte_store hc]
  rw [newLine_length he]
  simp only [labelBase] at ha ⊢
  omega

theorem bulkByte_labelSet {r : Req} {a : Nat} (hc : MemoryCanonical s) (ha : r.u 0 4 ≤ lastLabel → a / 64 ≠ labelBase / 64 + r.u 0 4 / 4) :
    bulkByte (labelSet r s).st a = bulkByte s a := by
  unfold labelSet
  dsimp only
  split
  · rfl
  · split
    · rfl
    next hok =>
      have hlabel : r.u 0 4 ≤ lastLabel := by omega
      have hkept : kept true (okay (mirror (.label (r.u 0 4) (field 4 16 r.pay))
          (writeLabel (r.u 0 4) (field 4 16 r.pay) s))).st = kept true (writeLabel (r.u 0 4) (field 4 16 r.pay) s) := by simp
      rw [bulkByte_of_kept hkept, bulkByte_writeLabel hc (field_length_le ..) (ha hlabel)]

theorem bulkByte_clearCounters {set a : Nat} (hc : MemoryCanonical s) (ha : a < setAddr set ∨ setAddr set + 32 ≤ a) :
    bulkByte (clearCounters set s) a = bulkByte s a := by
  unfold clearCounters
  refine (bulkByte_store (s := onSvc _ s) hc ?_).trans (bulkByte_of_kept (mail := true) (by simp) a)
  rwa [zeros_length]

theorem bulkByte_labelCounters {r : Req} {a : Nat} (hc : MemoryCanonical s)
    (ha : a < setAddr (r.u 0 4) ∨ setAddr (r.u 0 4) + 32 ≤ a) : bulkByte (labelCounters r s).st a = bulkByte s a := by
  have hclear : bulkByte (onlyIf (r.u 4 1 == 1) (clearCounters (r.u 0 4)) s) a = bulkByte s a :=
    onlyIf_keeps (P := fun t => bulkByte t a = bulkByte s a) _ _ (fun _ => bulkByte_clearCounters hc ha) rfl
  unfold labelCounters
  dsimp only
  split
  · rfl
  · split
    · rfl
    · split
      · rfl
      · split
        · rfl
        · rw [bulkByte_of_kept (mail := true) (kept_okWith _), hclear]

/-! The staging area (R79, R331/11). -/

theorem tabGet_filter {α : Type} (d : α) (p : Nat → Bool) (m : Tab α) (k : Nat) (hk : p k = true) :
    tabGet d (m.filter (fun e => p e.1)) k = tabGet d m k := by
  induction m with
  | nil => rfl
  | cons e m ih =>
    obtain ⟨j, v⟩ := e
    by_cases hj : p j = true
    · simp [hj, tabGet, ih]
    · have hjk : j ≠ k := fun h => hj (h ▸ hk)
      simp [hj, tabGet, ih, hjk]

theorem bulkByte_clearStaging {a : Nat} (ha : a < stagingBase ∨ stagingBase + stagingSize ≤ a) :
    bulkByte (clearStaging s) a = bulkByte s a := by
  have hvalid : regionValid (clearStaging s) (regionOf a) = regionValid s (regionOf a) := by
    have hregion : regionOf a < stagingBase / 4096 ∨ 96256 ≤ regionOf a := by
      simp only [regionOf, stagingBase, stagingSize] at ha ⊢
      omega
    exact tabGet_filter false (fun r => decide (r < stagingBase / 4096) || decide (96256 ≤ r)) s.bulk.valid _
      (by simpa using hregion)
  have hbyte : memByte (clearStaging s).bulk.mem a = memByte s.bulk.mem a := by
    refine (memByte_memDrop s.bulk.mem stagingBase stagingSize a).trans (if_neg ?_)
    omega
  rw [bulkByte, bulkByte, hvalid, hbyte]

theorem bulkByte_fwBegin {r : Req} {a : Nat} (ha : a < stagingBase ∨ stagingBase + stagingSize ≤ a) :
    bulkByte (fwBegin r s).st a = bulkByte s a := by
  unfold fwBegin
  split
  · rfl
  · split
    · rfl
    · rw [bulkByte_of_kept (mail := true) (s := clearStaging s) (by simp), bulkByte_clearStaging ha]

theorem bulkByte_fwWrite {r : Req} {a : Nat} (hc : MemoryCanonical s) (hsize : s.fw.size ≤ stagingSize)
    (ha : a < stagingBase ∨ stagingBase + stagingSize ≤ a) : bulkByte (fwWrite r s).st a = bulkByte s a := by
  unfold fwWrite
  dsimp only
  split
  · rfl
  · split
    · rfl
    · split
      · rfl
      next hfit =>
        have hn := field_length_le 8 (r.u 4 2) r.pay
        rw [bulkByte_of_kept (mail := true) kept_okay]
        refine (bulkByte_store (s := onFw _ s) hc ?_).trans (bulkByte_of_kept (mail := true) (by simp) a)
        omega

theorem bulkByte_recovery {a : Nat} (ha : a < stagingBase ∨ stagingBase + stagingSize ≤ a) :
    bulkByte (recovery s) a = bulkByte s a := by
  unfold recovery
  rw [bulkByte_clearStaging ha, bulkByte_of_kept (mail := true) (s := s) (by simp)]

theorem bulkByte_imageFails {a : Nat} (ha : a < stagingBase ∨ stagingBase + stagingSize ≤ a) :
    bulkByte (imageFails s) a = bulkByte s a := by
  unfold imageFails
  split
  · exact bulkByte_recovery ha
  · exact bulkByte_of_kept (mail := true) (by simp) a

theorem bulkByte_imageCheck {ok : Bool} {a : Nat} (ha : a < stagingBase ∨ stagingBase + stagingSize ≤ a) :
    bulkByte (imageCheck ok s) a = bulkByte s a := by
  unfold imageCheck
  split
  · split
    · exact bulkByte_of_kept (mail := true) (by simp) a
    · exact bulkByte_imageFails ha
  · rfl

theorem bulkByte_bootWatchdog {a : Nat} (ha : a < stagingBase ∨ stagingBase + stagingSize ≤ a) :
    bulkByte (bootWatchdog s) a = bulkByte s a := by
  unfold bootWatchdog
  rw [bulkByte_imageFails ha, bulkByte_of_kept (mail := true) (s := s) (by simp)]

theorem bulkByte_warmFails {a : Nat} (ha : a < stagingBase ∨ stagingBase + stagingSize ≤ a) :
    bulkByte (warmFails s) a = bulkByte s a := by
  unfold warmFails
  dsimp only
  split
  · rw [bulkByte_recovery ha, bulkByte_of_kept (mail := true) (s := s) (by simp)]
  · exact bulkByte_of_kept (mail := true) (by simp) a

/-! Resets and power-on: no region is valid (R331). -/

theorem bulkByte_blank (role : Bool) (s : State) (a : Nat) : bulkByte (blank role s) a = 0 := rfl

theorem bulkByte_powerOn (vin : Nat) (role : Bool) (addr : Nat) (s : State) (a : Nat) :
    bulkByte (powerOn vin role addr s) a = 0 := by
  unfold powerOn
  rw [bulkByte_of_kept (mail := true) (s := blank role s) (by simp), bulkByte_blank]

theorem bulkByte_resetModule (role : Bool) (s : State) (a : Nat) : bulkByte (resetModule role s) a = 0 := by
  have hold (u : State) : kept true (keepSincePower u (blank role s)) = kept true (blank role s) := kept_congr rfl rfl rfl
  unfold resetModule
  rw [bulkByte_of_kept (mail := true) (s := blank role s) (by simp [hold]), bulkByte_blank]

theorem bulkByte_vinRise (vin : Nat) (role : Bool) (addr : Nat) (s : State) :
    (∀ a, bulkByte (vinRise vin role addr s) a = bulkByte s a) ∨ ∀ a, bulkByte (vinRise vin role addr s) a = 0 := by
  unfold vinRise
  split
  · exact .inl fun _ => rfl
  · split
    · exact .inr (bulkByte_powerOn vin role addr s)
    · split
      · exact .inr (bulkByte_powerOn vin role addr s)
      · exact .inr (bulkByte_resetModule role s)
    · exact .inl fun _ => rfl

theorem bulkByte_resetAssert (low : Nat) (s : State) :
    (∀ a, bulkByte (resetAssert low s) a = bulkByte s a) ∨ ∀ a, bulkByte (resetAssert low s) a = 0 := by
  unfold resetAssert
  dsimp only
  split
  · split
    · exact .inr (bulkByte_resetModule _ _)
    · exact .inl fun _ => rfl
    · exact .inl fun _ => rfl
  · exact .inl fun _ => rfl

/-! Mirrored records (R393/13). -/

/-- Of the mirrored commands label.set alone writes bulk memory. -/
theorem kept_mirroredBody {op : Nat} (hop : op ≠ 0x0680) (r : Req) (s : State) :
    kept false (mirroredBody op r s).st = kept false s := by
  unfold mirroredBody
  split <;> simp_all

theorem bulkByte_mirroredBody {op a : Nat} {r : Req} (hc : MemoryCanonical s) (ha : pmBase ≤ a) :
    bulkByte (mirroredBody op r s).st a = bulkByte s a := by
  by_cases hop : op = 0x0680
  · subst hop
    refine bulkByte_labelSet hc fun hlabel => ?_
    simp only [lastLabel, labelBase, pmBase] at hlabel ha ⊢
    omega
  · exact bulkByte_of_kept (kept_mirroredBody hop r s) a

theorem bulkByte_atInstant {at_ a : Nat} {f : State → State} (hf : ∀ u, u.bulk = s.bulk → bulkByte (f u) a = bulkByte u a) :
    bulkByte (atInstant at_ f s) a = bulkByte s a := by
  have h := hf { s with timing := { s.timing with tc := at_ } } rfl
  unfold atInstant
  dsimp only
  split <;> exact h

theorem bulkByte_applyRecord {r : MirrorRecord} {a : Nat} (hc : MemoryCanonical s) (hr : okRecord r = true)
    (he : ∀ n e, r = .label n e → e.length = 16) (ha : pmBase ≤ a) : bulkByte (applyRecord r s) a = bulkByte s a := by
  cases r with
  | command op tag gen at_ pay =>
    refine (bulkByte_of_kept (mail := false) (kept_false_onCtrl _) a).trans (bulkByte_atInstant fun u hu => ?_)
    exact bulkByte_mirroredBody (by rwa [MemoryCanonical, hu]) ha
  | label n entry =>
    refine bulkByte_writeLabel hc (he n entry rfl).le ?_
    simp only [okRecord, decide_eq_true_eq, labelBase, pmBase] at hr ha ⊢
    omega
  | hub | commandDone | cuePlace | cueCancel | counters | protection | ltune | pmBins | pmEvent | admission | lease | versions =>
    exact bulkByte_of_kept (mail := true) (by simp [applyRecord]) a

theorem bulkByte_mirrorReceive {r : MirrorRecord} {a : Nat} (hc : MemoryCanonical s) (hr : okRecord r = true)
    (he : ∀ n e, r = .label n e → e.length = 16) (ha : pmBase ≤ a) : bulkByte (mirrorReceive r s) a = bulkByte s a := by
  unfold mirrorReceive
  split
  · exact bulkByte_of_kept (mail := true) (by simp) a
  · exact bulkByte_applyRecord hc hr he ha

end Sys2Proof.Machine
end

section
/-! PROOF of O60, command by command. -/
namespace Sys2Proof.Machine

variable {mail : Bool} {s t u : State}

/-! What a command answers keeps what its rules keep. -/

theorem serve_keeps {P : State → Prop} {h : Shape} {body : Req → State → Reply} {mb : Nat} (hs : P s)
    (hb : P (body (requestOf s mb) s).st) (hr : ∀ a, P a.st → P (respond (requestOf s mb) a)) : P (serve h body mb s) := by
  unfold serve answer
  split
  · apply hr
    split
    · exact hs
    · exact hb
  · exact hs

@[simp] theorem kept_respond (r : Req) (a : Reply) : kept false (respond r a) = kept false a.st := by
  simp [respond]

/-- The bytes of bulk memory, and with `mail` the mailboxes, are as they were in every next state. -/
def Keeps (mail : Bool) (s : State) (o : Res) : Prop := ∀ t, o = .next t → kept mail t = kept mail s

theorem keeps_next (h : kept mail t = kept mail s) : Keeps mail s (.next t) := by
  rintro _ ⟨⟩
  exact h

theorem keeps_need {kind : String} {ok : Bool} (h : kept mail t = kept mail s) : Keeps mail s (need kind ok t) := by
  intro u hu
  obtain ⟨-, rfl⟩ := need_next.mp hu
  exact h

theorem kept_serve {h : Shape} {body : Req → State → Reply} {mb : Nat}
    (hb : ∀ r, kept false (body r s).st = kept false s) : kept false (serve h body mb s) = kept false s :=
  serve_keeps (P := fun t => kept false t = kept false s) rfl (hb _) fun _ ha => (kept_respond ..).trans ha

theorem keeps_mailbox {h : Shape} {body : Req → State → Reply} {mb : Nat}
    (hb : ∀ r, kept false (body r s).st = kept false s) : Keeps false s (mailbox h body mb s) := keeps_need (kept_serve hb)

theorem keeps_mailboxThen {h : Shape} {body : Req → State → Reply} {after : Req → State → State} {mb : Nat}
    (hb : ∀ r, kept false (body r s).st = kept false s) (ha : ∀ r u, kept false (after r u) = kept false u) :
    Keeps false s (mailboxThen h body after mb s) :=
  keeps_need (by simp [serveThen, ha, kept_serve hb])

theorem kept_serveUnknown (mb : Nat) (s : State) : kept false (serveUnknown mb s) = kept false s := by
  simp [serveUnknown]

/-! Register writes (R47, R48/02) write no bulk memory. -/

theorem kept_regWrite (path : Path) (off : Nat) (val : Word) (s : State) :
    kept false (regWrite path off val s) = kept false s := by
  simp [regWrite, mailWrite, kept_false_onCtrl]

theorem kept_i2cWrite (addr first : Nat) (data : List Byte) (s : State) :
    kept false (i2cWrite addr first data s) = kept false s := by
  simp [i2cWrite, kept_regWrite]

theorem kept_accessWrite (a : Access) (s : State) : kept false (accessWrite a s) = kept false s := by
  cases a with
  | pcie off val => simp [accessWrite, kept_regWrite]
  | i2c addr first data => exact kept_i2cWrite ..

/-! Storing commands, up to the response. -/

theorem bulkByte_mailbox {h : Shape} {body : Req → State → Reply} {mb a : Nat} (hexec : mailbox h body mb s = .next t)
    (hb : bulkByte (body (requestOf s mb) s).st a = bulkByte s a) : bulkByte t a = bulkByte s a := by
  obtain ⟨-, rfl⟩ := need_next.mp hexec
  exact serve_keeps (P := fun t => bulkByte t a = bulkByte s a) rfl hb
    fun x hx => (bulkByte_of_kept (kept_respond _ x) a).trans hx

theorem bulkByte_onlyIf {a : Nat} (c : Bool) (f : State → State) (h : bulkByte (f s) a = bulkByte s a) :
    bulkByte (onlyIf c f s) a = bulkByte s a :=
  onlyIf_keeps (P := fun t => bulkByte t a = bulkByte s a) c f (fun _ => h) rfl

theorem bulkByte_onlyIf_or_zero (c : Bool) (f : State → State)
    (h : (∀ a, bulkByte (f s) a = bulkByte s a) ∨ ∀ a, bulkByte (f s) a = 0) :
    (∀ a, bulkByte (onlyIf c f s) a = bulkByte s a) ∨ ∀ a, bulkByte (onlyIf c f s) a = 0 := by
  cases c
  · exact .inl fun _ => rfl
  · exact h

theorem bulkByte_execBootWatchdog {a : Nat} (hexec : exec .bootWatchdog s = .next t)
    (ha : a < stagingBase ∨ stagingBase + stagingSize ≤ a) : bulkByte t a = bulkByte s a := by
  obtain rfl : onlyIf _ _ s = t := Host.Outcome.next.inj hexec
  refine bulkByte_onlyIf _ _ ?_
  split
  · exact bulkByte_bootWatchdog ha
  · split
    · exact (bulkByte_warmFails ha).trans (bulkByte_of_kept (mail := true) (by simp) a)
    · rfl

theorem bulkByte_execBulkRead {k addr syms : Nat} (hc : MemoryCanonical s) (hexec : exec (.bulkRead k addr syms) s = .next t)
    (hk : k ≠ 5 ∨ (counterBase ≤ addr ∧ addr < pmBase)) {a : Nat} (ha : k ≠ 5 ∨ a / 64 ≠ addr / 64) :
    bulkByte t a = bulkByte s a := by
  change execBulkRead k addr syms s = _ at hexec
  unfold execBulkRead at hexec
  split at hexec
  · obtain rfl := Host.Outcome.next.inj hexec
    by_cases h5 : k = 5
    · subst h5
      obtain ⟨-, -, hbyte⟩ := readInjected_five (syms := syms) hc (hk.resolve_left (by simp)).1
      exact hbyte a (ha.resolve_left (by simp))
    · exact bulkByte_of_kept (mail := true) (kept_readInjected h5 ..) a
  · cases hexec

theorem bulkByte_execBulkPartialWrite {addr syms : Nat} {data : List Byte} (hc : MemoryCanonical s)
    (hexec : exec (.bulkPartialWrite addr data syms) s = .next t) {a : Nat} (ha : a < addr ∨ addr + data.length ≤ a) :
    bulkByte t a = bulkByte s a := by
  change execBulkPartialWrite addr data syms s = _ at hexec
  unfold execBulkPartialWrite at hexec
  split at hexec
  · cases hexec
  · obtain rfl := Host.Outcome.next.inj hexec
    have hinj (c : Bool) : MemoryCanonical (onlyIf c (injAct 0x104) s) :=
      (within_onlyIf c _ (within_injAct 0x104 s)).memoryCanonical (by simp) hc
    exact (bulkByte_store (hinj _) ha).trans (bulkByte_onlyIf _ _ (bulkByte_of_kept (mail := true) (by simp) a))

theorem bulkByte_execMirrorRecordReceive {r : MirrorRecord} (hc : MemoryCanonical s)
    (hexec : exec (.mirrorRecordReceive r) s = .next t) (he : ∀ n e, r = .label n e → e.length = 16) {a : Nat}
    (ha : pmBase ≤ a) : bulkByte t a = bulkByte s a := by
  obtain ⟨hr, rfl⟩ := need_next.mp hexec
  exact bulkByte_onlyIf _ _ (bulkByte_mirrorReceive hc hr he ha)

/-- Settles O60, command by command: a command that stores changes the bytes its writes cover, and every other command keeps
all of them. -/
theorem onlyStoresChangeBulkMemory : Obligations.OnlyStoresChangeBulkMemory := by
  unfold Obligations.OnlyStoresChangeBulkMemory
  intro c s t hc hexec
  cases c with
  | fwBegin mb => exact fun _ a ha => bulkByte_mailbox hexec (bulkByte_fwBegin ha)
  | fwWrite mb => exact fun hsize a ha => bulkByte_mailbox hexec (bulkByte_fwWrite hc hsize ha)
  | bootImageCheck ok =>
    intro _ a ha
    obtain rfl : onlyIf _ _ s = t := Host.Outcome.next.inj hexec
    exact bulkByte_onlyIf _ _ ((bulkByte_imageCheck ha).trans (bulkByte_of_kept (mail := true) (by simp) a))
  | bootWatchdog => exact fun _ a ha => bulkByte_execBootWatchdog hexec ha
  | labelSet mb => exact fun a ha => bulkByte_mailbox hexec (bulkByte_labelSet hc fun _ => ha)
  | labelCounters mb => exact fun a ha => bulkByte_mailbox hexec (bulkByte_labelCounters hc ha)
  | counterLineFillDone line bad =>
    intro a ha hl
    obtain ⟨-, rfl⟩ := need_next.mp hexec
    exact bulkByte_counterFillDone hc ha hl
  | bulkRead k addr syms => exact fun hk a ha => bulkByte_execBulkRead hc hexec hk ha
  | bulkPartialWrite addr data syms => exact fun a ha => bulkByte_execBulkPartialWrite hc hexec ha
  | mirrorRecordReceive r => exact fun he a ha => bulkByte_execMirrorRecordReceive hc hexec he ha
  | sysResetDelayEnd role =>
    obtain rfl : onlyIf _ (resetAndBoot role) s = t := Host.Outcome.next.inj hexec
    refine bulkByte_onlyIf_or_zero _ _ (.inr fun a => ?_)
    exact (bulkByte_of_kept (mail := true) kept_startBoot a).trans (bulkByte_resetModule role s a)
  | vinRiseUvlo vin role addr =>
    obtain rfl : vinRise vin role addr s = t := Host.Outcome.next.inj hexec
    exact bulkByte_vinRise ..
  | resetNAssert low =>
    obtain rfl : resetAssert low s = t := Host.Outcome.next.inj hexec
    exact bulkByte_resetAssert ..
  | powerFailPathEnd vin role addr =>
    obtain rfl : onlyIf _ (pathEnd vin role addr) s = t := Host.Outcome.next.inj hexec
    exact bulkByte_onlyIf_or_zero _ _ (bulkByte_vinRise vin role addr _)
  | ovRecover vin role addr =>
    obtain rfl : onlyIf _ (ovRecover vin role addr) s = t := Host.Outcome.next.inj hexec
    exact bulkByte_onlyIf_or_zero _ _ (bulkByte_vinRise vin role addr _)
  | eventRaise code src tag data =>
    change execEventRaise code src tag data s = _ at hexec
    unfold execEventRaise at hexec
    split at hexec
    · exact bulkByte_of_kept (keeps_next (mail := true) rfl t hexec)
    · exact bulkByte_of_kept (keeps_next (mail := true) (by simp) t hexec)
  | sweepStep onChip addr syms =>
    change execSweepStep onChip addr syms s = _ at hexec
    unfold execSweepStep at hexec
    split at hexec
    · exact bulkByte_of_kept (keeps_next (mail := true) (by simp) t hexec)
    · cases hexec
  | paceSample dom i o =>
    cases dom
    · exact bulkByte_of_kept (keeps_need (mail := true) (by simp) t hexec)
    · exact bulkByte_of_kept (keeps_need (mail := true) (by simp) t hexec)
  | hlLossOfSignal pair l =>
    cases pair
    · exact bulkByte_of_kept (keeps_need (mail := false) (by simp) t hexec)
    · exact bulkByte_of_kept (keeps_need (mail := false) (by simp) t hexec)
  | doorbellWrite | mbOwnerWrite | mb7OwnerTimeout | intStatusClear | evrEnable | evrDisable | evrTailWrite
  | tcSecLoRead | keyInstall | keyClear | keyInstallDone | keyStageTimeout | bar2Write | fwActivateDone
  | warmRestartStart | warmRestartDone | softStartAbort | railsInRegulation | bootThermalWait | bootLoadDone
  | bootReady | resetNRelease | powerFailDetect | ovShutdown | vinWarnTimer | coreRailTick | eventRingWrite
  | evrDmaReject | defectTick | pmSecond | pmBinFinal | packetAdmission | packetEncrypt | packetDecrypt | sweepPassEnd
  | migrationRegionCopy | candidateMeasure | timingLock | loscActivityLoss | loscWarmupDone | hourglassTick
  | tcSourceCompare | ppsInEdge | todReceive | todTimeout | ppsOutEdge | leaseFrameReceive | leaseExpiry
  | partnerLeaseExpiry | heartbeatSend | arbLostTimer | pairLinkUp | commitWindow | commitRecordReceive
  | mirrorInterval | resyncCopyDone | rehearsalReleaseTimeout | thermSample | flashWindowChange | flashPageDone
  | calMeasureDone | logCopy | tracerRecord | perstRelease =>
    exact bulkByte_of_kept (keeps_next (mail := false) (by simp [kept_false_onCtrl]) t hexec)
  | registerWrite | keyStageWrite | unknownOpcode | paceMarginLow | streamFifoFullWrite | streamFifoEmptyRead
  | smallFifoFullWrite | mergedEventSample | holdFlagValue | holdFlagAck | fifoResetRequest | fifoResetTimeout
  | islandClockReturn | msixModerationTimer | txEnableDone | txFeedLoss | biasAlarm | formatChangeCue
  | rxCalibrationDone | ltuneSlewStep | lightPresent | lightAbsent | afcDone | afcTimeout | cdScanDone
  | convergeTimeout | scConverge | scUnconverge | trackLossTimer | bgCalStep | shadowRotate | adcSliceFault
  | adcSliceRetire | cdLoadDone | dissolveStartCue | dissolveEnd | cdTrackEstimate | ltuneUpdate | linkQualityRefresh
  | rxClassChange | codewordEncode | codewordDecode | codewordReadPoint | fecTruncatingRearm | fecCapTick
  | fecEngineRetire | prefecBerWindow | frameTransmit | pilotCorrelation | candidateConvergeTimeout | frameReceive
  | pmBinBoundary | castingSlot | burstDetection | burstHeaderCheck | burstPayloadEnd | joinReceive | keepaliveReceive
  | leaveReceive | leafNumberTimeout | leafSilentTimeout | adjustAverage | hubDispersionScan | beaconReceive
  | beaconLockLoss | joinSend | ackTimeout | joinRetryWait | keepaliveSend | leaveSend | leafGrantApply
  | capabilityReceive | hostLowpower | hostLowpowerDone | hlWakeOnSignal | hlDetectTest | hlTrainingFrame
  | hlTrainTimeout | hlExchangeTimeout | hlSwitchTimeout | hlMarkerReceive | hlRsCodeword | hlSerSecond
  | hostLaneRetire | hostPacketIngress | labelLookup | labelFillDone | slotFrameMap | creditReturn | tpeHeaderReceive
  | slotFrameRelease | slotFrameDeadline | packetReceive | egressSend | tribRemapCue | rolloverCue
  | rolloverAnnounceReceive | cipherLaneRetire | sandglassLeak | pseudoChannelRetire | candidateActivityLoss
  | waitToRestoreExpiry | timeTransferTick | cueAnnounceRepeat | cueAckReceive | cueAnnounceReceive | cueUnackedCheck
  | contextMirrorReceive | scheduleReceive | digestReceive | emptyPointReceive | rehearsalCue | monSyncReset
  | monOutput | monHousekeepingSlot | diodeValidityTimer | calSlewStep | pairLaneRetire | d2dLaneFault | d2dLaneRetire
  | subcarrierRetire | cueCoreRetire | watchdogExpiry | illegalInstruction | coreFetchUe | coreRestartDone
  | injectionEnd | tracerWindowCue | portResetDone | candidateActivityReturn | sliceRetryRecheck =>
    exact bulkByte_of_kept (keeps_need (mail := false) (by simp [kept_false_onCtrl, kept_accessWrite, kept_serveUnknown]) t hexec)
  | sysIdentify | sysStatus | sysReset | sysQuiet | sysEvmask | sysEcho | fwInfo | fwVerify | fwActivate | portLaser
  | portTxdisable | portTxpower | portFormat | portTxstatus | scTxpower | scTxstatus | portRxdisable | portRxconfig
  | portCdset | portCdwrite | portCdstart | portCdstatus | portRxstatus | portLtune | scRxconfig | scRxstatus
  | scResync | portFecconfig | portFecstatus | scFecstats | frameTrace | frameDefcfg | framePcset | frameChan
  | frameKcsend | frameKcrecv | frameStamp | frameStatus | frameDefects | frameTribdef | pmConfig | pmTcaConfig
  | pmRead | pmClear | hubRole | hubGrant | hubRelease | hubJoin | hubLeave | hubStatus | castConfig | castStatus
  | hostPortcfg | hostEnable | hostTxtaps | hostRetrain | hostLanestatus | hostPortstatus | tribConfig | tribStage
  | tribCommit | tribStatus | labelGet | labelProfile | labelStats | labelTsread | ctxConfig | ctxLimits | ctxRollover
  | ctxErase | ctxStatus | ctxLanes | bulkSweep | bulkSandglassSet | bulkStatus | bulkMemstatus | bulkBudgetRead
  | clkCandidate | clkConfig | clkForce | clkHoldoverSet | clkRefout | clkStatus | tcSet | tcSource | tcIo
  | tcTransfer | tcStatus | cueRead | cueCancel | cueStats | pairConfig | pairRehearse | pairStatus | pairResync
  | monConfig | monSync | monRead | monStatus | monValue | thermStatus | thermSensor | thermWarnSet | calRead
  | calWrite | calMeasure | calApply | calClear | faultPolicy | faultStatus | faultClear | faultInjstatus
  | faultTestpattern | faultTeststatus | faultDmarestart | logStatus | logRead | logFreeze | logRearm | logErase
  | perfSelect | perfRead | perfTracer | perfTrdeliver | perfTrstatus | portReset =>
    exact bulkByte_of_kept (keeps_mailbox (by simp) t hexec)
  | fwRestart | portTxenable | portRxenable | bulkRetire | faultInject =>
    exact bulkByte_of_kept (keeps_mailboxThen (by simp) (by simp) t hexec)

end Sys2Proof.Machine
end

section
/-! SUPPORT and PROOF of O59: what a read-only command leaves, and whose mailbox a command writes. -/
namespace Sys2Proof.Machine

variable {s t u : State}

/-! Read-only commands (R61/02) leave the state as it was, the counter of free values apart. -/

/-- The state but for the model's own counter of free values. -/
def sansFree (s : State) : State := { s with free := 0 }

@[simp] theorem sansFree_useFree (s : State) : sansFree (useFree s) = sansFree s := rfl
@[simp] theorem sansFree_useFrees (n : Nat) (s : State) : sansFree (useFrees n s) = sansFree s := rfl
@[simp] theorem sansFree_okWith (p : List Byte) (s : State) : sansFree (okWith p s).st = sansFree s := rfl
@[simp] theorem sansFree_refuse (c : Code) (s : State) : sansFree (refuse c s).st = sansFree s := rfl

@[simp] theorem sansFree_ite {c : Prop} [Decidable c] :
    sansFree (if c then t else u) = if c then sansFree t else sansFree u := apply_ite ..

theorem within_sansFree (s : State) : Within [.free] s (sansFree s) := by
  intro q hq
  cases q <;> simp_all [Part.same, sansFree]

theorem within_of_sansFree (h : sansFree t = sansFree s) : Within [.free] s t :=
  (within_sansFree s).trans fun q hq => Part.same_symm (h ▸ within_sansFree t q hq)

@[simp] theorem sansFree_sysIdentify (r : Req) (s : State) : sansFree (sysIdentify r s).st = sansFree s := by
  simp [sysIdentify]
@[simp] theorem sansFree_sysStatus (r : Req) (s : State) : sansFree (sysStatus r s).st = sansFree s := by
  simp [sysStatus]
@[simp] theorem sansFree_portTxstatus (r : Req) (s : State) : sansFree (portTxstatus r s).st = sansFree s := by
  simp [portTxstatus, onPort]
@[simp] theorem sansFree_portCdstatus (r : Req) (s : State) : sansFree (portCdstatus r s).st = sansFree s := by
  simp [portCdstatus, onPort]
@[simp] theorem sansFree_portRxstatus (r : Req) (s : State) : sansFree (portRxstatus r s).st = sansFree s := by
  simp [portRxstatus, onPort]
@[simp] theorem sansFree_portFecstatus (r : Req) (s : State) : sansFree (portFecstatus r s).st = sansFree s := by
  simp [portFecstatus, onPort]
@[simp] theorem sansFree_scTxstatus (r : Req) (s : State) : sansFree (scTxstatus r s).st = sansFree s := by
  simp [scTxstatus, onSc]
@[simp] theorem sansFree_scRxstatus (r : Req) (s : State) : sansFree (scRxstatus r s).st = sansFree s := by
  simp [scRxstatus, onSc]
@[simp] theorem sansFree_scFecstats (r : Req) (s : State) : sansFree (scFecstats r s).st = sansFree s := by
  simp [scFecstats, onSc]
@[simp] theorem sansFree_frameStatus (r : Req) (s : State) : sansFree (frameStatus r s).st = sansFree s := by
  simp [frameStatus, onSc]
@[simp] theorem sansFree_frameDefects (r : Req) (s : State) : sansFree (frameDefects r s).st = sansFree s := by
  simp [frameDefects]
@[simp] theorem sansFree_frameTribdef (r : Req) (s : State) : sansFree (frameTribdef r s).st = sansFree s := by
  simp [frameTribdef]
@[simp] theorem sansFree_pmRead (r : Req) (s : State) : sansFree (pmRead r s).st = sansFree s := by
  simp [pmRead]
@[simp] theorem sansFree_hubStatus (r : Req) (s : State) : sansFree (hubStatus r s).st = sansFree s := by
  simp [hubStatus, onPort]
@[simp] theorem sansFree_castStatus (r : Req) (s : State) : sansFree (castStatus r s).st = sansFree s := by
  simp [castStatus, onPort]
@[simp] theorem sansFree_hostLanestatus (r : Req) (s : State) : sansFree (hostLanestatus r s).st = sansFree s := by
  simp [hostLanestatus, onNn]
@[simp] theorem sansFree_hostPortstatus (r : Req) (s : State) : sansFree (hostPortstatus r s).st = sansFree s := by
  simp [hostPortstatus, onNn]
@[simp] theorem sansFree_tribStatus (r : Req) (s : State) : sansFree (tribStatus r s).st = sansFree s := by
  simp [tribStatus]
@[simp] theorem sansFree_labelGet (r : Req) (s : State) : sansFree (labelGet r s).st = sansFree s := by
  simp [labelGet]
@[simp] theorem sansFree_ctxStatus (r : Req) (s : State) : sansFree (ctxStatus r s).st = sansFree s := by
  simp [ctxStatus, onCtx]
@[simp] theorem sansFree_ctxLanes (r : Req) (s : State) : sansFree (ctxLanes r s).st = sansFree s := by
  simp [ctxLanes]
@[simp] theorem sansFree_bulkStatus (r : Req) (s : State) : sansFree (bulkStatus r s).st = sansFree s := by
  simp [bulkStatus]
@[simp] theorem sansFree_bulkMemstatus (r : Req) (s : State) : sansFree (bulkMemstatus r s).st = sansFree s := by
  simp [bulkMemstatus]
@[simp] theorem sansFree_bulkBudget (r : Req) (s : State) : sansFree (bulkBudget r s).st = sansFree s := by
  simp [bulkBudget]
@[simp] theorem sansFree_clkStatus (r : Req) (s : State) : sansFree (clkStatus r s).st = sansFree s := by
  simp [clkStatus]
@[simp] theorem sansFree_tcStatus (r : Req) (s : State) : sansFree (tcStatus r s).st = sansFree s := by
  simp [tcStatus]
@[simp] theorem sansFree_cueRead (r : Req) (s : State) : sansFree (cueRead r s).st = sansFree s := by
  simp [cueRead]
@[simp] theorem sansFree_cueStats (r : Req) (s : State) : sansFree (cueStats r s).st = sansFree s := by
  simp [cueStats]
@[simp] theorem sansFree_pairStatus (r : Req) (s : State) : sansFree (pairStatus r s).st = sansFree s := by
  simp [pairStatus]
@[simp] theorem sansFree_monValue (r : Req) (s : State) : sansFree (monValue r s).st = sansFree s := by
  simp [monValue]
@[simp] theorem sansFree_thermStatus (r : Req) (s : State) : sansFree (thermStatus r s).st = sansFree s := by
  simp [thermStatus]
@[simp] theorem sansFree_calRead (r : Req) (s : State) : sansFree (calRead r s).st = sansFree s := by
  simp [calRead, onCal]
@[simp] theorem sansFree_faultStatus (r : Req) (s : State) : sansFree (faultStatus r s).st = sansFree s := by
  simp [faultStatus]
@[simp] theorem sansFree_faultInjstatus (r : Req) (s : State) : sansFree (faultInjstatus r s).st = sansFree s := by
  simp [faultInjstatus]
@[simp] theorem sansFree_faultTeststatus (r : Req) (s : State) : sansFree (faultTeststatus r s).st = sansFree s := by
  simp [faultTeststatus]
@[simp] theorem sansFree_logStatus (r : Req) (s : State) : sansFree (logStatus r s).st = sansFree s := by
  simp [logStatus]
@[simp] theorem sansFree_perfRead (r : Req) (s : State) : sansFree (perfRead r s).st = sansFree s := by
  simp [perfRead]
@[simp] theorem sansFree_perfTrstatus (r : Req) (s : State) : sansFree (perfTrstatus r s).st = sansFree s := by
  simp [perfTrstatus]
@[simp] theorem sansFree_fwInfo (r : Req) (s : State) : sansFree (fwInfo r s).st = sansFree s := by
  simp [fwInfo]

@[simp] theorem sansFree_sysEcho (r : Req) (s : State) : sansFree (sysEcho r s).st = sansFree s := rfl

@[simp] theorem sansFree_frameStamp (r : Req) (s : State) : sansFree (frameStamp r s).st = sansFree s := by
  unfold frameStamp onSc
  dsimp only
  split
  · split
    · rfl
    · simp
  · rfl

theorem sansFree_labelCounters {r : Req} (hr : r.u 4 1 ≠ 1) (s : State) :
    sansFree (labelCounters r s).st = sansFree s := by
  have hclear : (r.u 4 1 == 1) = false := by simp [hr]
  simp [labelCounters, hclear]

theorem sansFree_logRead {r : Req} (hinj : injArmed s 0x1E1 = false) (h1 : r.u 0 1 ≠ 1) (h2 : r.u 0 1 ≠ 2) :
    sansFree (logRead r s).st = sansFree s := by
  have haddrs (is : List Nat) : logAddrs s (r.u 0 1) is = [] := by
    unfold logAddrs
    split <;> simp_all
  have harm : (injOf s 0x1E1).armed = false := hinj
  simp [logRead, haddrs, injFor, harm, readWords]

/-- Each read-only command is a mailbox command whose rules leave the state as it was. -/
theorem readOnly_mailbox {c : Instr} {h : Shape} {mb : Nat} (hreq : requestFor c = some (h, mb))
    (hclass : cmdClass h.op = some .readOnly) (hcount : ∀ m, c = .labelCounters m → arg s m 4 1 ≠ 1)
    (hstats : ∀ m, c ≠ .labelStats m)
    (hlog : ∀ m, c = .logRead m → injArmed s 0x1E1 = false ∧ arg s m 0 1 ≠ 1 ∧ arg s m 0 1 ≠ 2) :
    ∃ body, exec c s = mailbox h body mb s ∧ sansFree (body (requestOf s mb) s).st = sansFree s := by
  cases c with
  | sysIdentify | sysStatus | portTxstatus | portCdstatus | portRxstatus | portFecstatus | scTxstatus | scRxstatus
  | scFecstats | frameStatus | frameDefects | frameTribdef | pmRead | hubStatus | castStatus | hostLanestatus
  | hostPortstatus | tribStatus | labelGet | ctxStatus | ctxLanes | bulkStatus | bulkMemstatus | bulkBudgetRead
  | clkStatus | tcStatus | cueRead | cueStats | pairStatus | monValue | thermStatus | calRead | faultStatus
  | faultInjstatus | faultTeststatus | logStatus | perfRead | perfTrstatus | fwInfo | sysEcho | frameStamp =>
    obtain ⟨rfl, rfl⟩ := Prod.mk.inj (Option.some.inj hreq)
    exact ⟨_, rfl, by simp⟩
  | labelCounters m =>
    obtain ⟨rfl, rfl⟩ := Prod.mk.inj (Option.some.inj hreq)
    exact ⟨_, rfl, sansFree_labelCounters (hcount m rfl) s⟩
  | logRead m =>
    obtain ⟨rfl, rfl⟩ := Prod.mk.inj (Option.some.inj hreq)
    obtain ⟨hinj, h1, h2⟩ := hlog m rfl
    exact ⟨_, rfl, sansFree_logRead hinj h1 h2⟩
  | labelStats m => exact absurd rfl (hstats m)
  | sysReset | sysQuiet | sysEvmask | fwBegin | fwWrite | fwVerify | fwActivate | portLaser | portTxdisable
  | portTxpower | portFormat | scTxpower | portRxdisable | portRxconfig | portCdset | portCdwrite | portCdstart
  | portLtune | scRxconfig | scResync | portFecconfig | frameTrace | frameDefcfg | framePcset | frameChan
  | frameKcsend | frameKcrecv | pmConfig | pmTcaConfig | pmClear | hubRole | hubGrant | hubRelease | hubJoin
  | hubLeave | castConfig | hostPortcfg | hostEnable | hostTxtaps | hostRetrain | tribConfig | tribStage
  | tribCommit | labelSet | labelProfile | labelTsread | ctxConfig | ctxLimits | ctxRollover | ctxErase | bulkSweep
  | bulkSandglassSet | clkCandidate | clkConfig | clkForce | clkHoldoverSet | clkRefout | tcSet | tcSource | tcIo
  | tcTransfer | cueCancel | pairConfig | pairRehearse | pairResync | monConfig | monSync | monRead | monStatus
  | thermSensor | thermWarnSet | calWrite | calMeasure | calApply | calClear | faultPolicy | faultClear
  | faultTestpattern | faultDmarestart | logFreeze | logRearm | logErase | perfSelect | perfTracer | perfTrdeliver
  | portReset | fwRestart | portTxenable | portRxenable | bulkRetire | faultInject | hostLowpower =>
    obtain ⟨rfl, rfl⟩ := Prod.mk.inj (Option.some.inj hreq)
    exact absurd hclass (by decide)
  | _ => cases hreq

/-- A response to a read-only command changes the mailbox registers and the interrupt flags alone. -/
theorem respond_readOnly {r : Req} {a : Reply} (hclass : cmdClass r.op = some .readOnly) :
    (respond r a).ctrl.cfgGen = a.st.ctrl.cfgGen ∧ (respond r a).ctrl.deferred = a.st.ctrl.deferred
      ∧ (respond r a).ctrl.stage = a.st.ctrl.stage ∧ Within [.ctrl, .ev] a.st (respond r a) := by
  have hstate : (cmdClass r.op == some .stateChanging) = false := by simp [hclass]
  have hmirror : mirrorCommand r a = a.st := by simp [mirrorCommand, hstate]
  have hgen : genAfter r a = a.st.ctrl.cfgGen := by simp [genAfter, hclass]
  refine ⟨by rw [respond_ctrl, hgen], by rw [respond_ctrl], by rw [respond_ctrl], ?_⟩
  unfold respond
  rw [hmirror]
  exact ((within_onCtrl _ _).andThen (within_raiseVector _ _)).mono (by simp)

theorem mailbox_readOnly {h : Shape} {body : Req → State → Reply} {mb : Nat} (hclass : cmdClass h.op = some .readOnly)
    (hbody : sansFree (body (requestOf s mb) s).st = sansFree s) (hexec : mailbox h body mb s = .next t) :
    t.ctrl.cfgGen = s.ctrl.cfgGen ∧ t.ctrl.deferred = s.ctrl.deferred ∧ t.ctrl.stage = s.ctrl.stage
      ∧ Within [.ctrl, .ev, .free] s t := by
  obtain ⟨-, rfl⟩ := need_next.mp hexec
  have hanswer : sansFree (answer h body (requestOf s mb) s).st = sansFree s := by
    unfold answer
    split
    · rfl
    · exact hbody
  have hctrl := within_of_sansFree hanswer .ctrl (by simp)
  unfold serve
  split
  next hacc =>
    have hop : (requestOf s mb).op = h.op := by simp_all [accepts, requestOf, mailOp]
    obtain ⟨hgen, hdef, hstage, hwithin⟩ := respond_readOnly (a := answer h body (requestOf s mb) s) (hop ▸ hclass)
    rw [hgen, hdef, hstage, show (answer h body (requestOf s mb) s).st.ctrl = s.ctrl from hctrl]
    exact ⟨rfl, rfl, rfl, ((within_of_sansFree hanswer).andThen hwithin).mono (by simp)⟩
  · exact ⟨rfl, rfl, rfl, within_refl _ s⟩

/-! A mailbox command writes its own mailbox. -/

theorem mailOf_of_mail (h : t.ctrl.mail = s.ctrl.mail) (m : Nat) : mailOf t m = mailOf s m := by rw [mailOf, mailOf, h]

theorem mailOf_serve {h : Shape} {body : Req → State → Reply} {mb m : Nat} (hm : m ≠ mb)
    (hb : (body (requestOf s mb) s).st.ctrl.mail = s.ctrl.mail) : mailOf (serve h body mb s) m = mailOf s m :=
  serve_keeps (P := fun t => mailOf t m = mailOf s m) rfl (mailOf_of_mail hb m)
    fun a ha => (mailOf_respond_other (requestOf s mb) a hm).trans ha

theorem mailOf_mailbox {h : Shape} {body : Req → State → Reply} {mb m : Nat} (hm : m ≠ mb)
    (hb : (body (requestOf s mb) s).st.ctrl.mail = s.ctrl.mail) (hexec : mailbox h body mb s = .next t) :
    mailOf t m = mailOf s m := by
  obtain ⟨-, rfl⟩ := need_next.mp hexec
  exact mailOf_serve hm hb

theorem mailOf_mailboxThen {h : Shape} {body : Req → State → Reply} {after : Req → State → State} {mb m : Nat}
    (hm : m ≠ mb) (hb : (body (requestOf s mb) s).st.ctrl.mail = s.ctrl.mail)
    (ha : ∀ r u, (after r u).ctrl.mail = u.ctrl.mail) (hexec : mailboxThen h body after mb s = .next t) :
    mailOf t m = mailOf s m := by
  obtain ⟨-, rfl⟩ := need_next.mp hexec
  exact onlyIf_keeps (P := fun t => mailOf t m = mailOf s m) _ _
    (fun h => (mailOf_of_mail (ha ..) m).trans h) (mailOf_serve hm hb)

theorem writeLabel_mail (label : Nat) (entry : List Byte) (s : State) :
    (writeLabel label entry s).ctrl.mail = s.ctrl.mail := by
  have hafter (lost : Bool) (u : State) : (onSvc (fun v => { v with ueLines := without (label / 4) v.ueLines }) u
      |> onlyIf lost (raise 0x0681 23 0 0 (natBE 4 (4 * (label / 4))))).ctrl.mail = u.ctrl.mail :=
    mail_of_kept (by simp)
  unfold writeLabel
  exact (hafter ..).trans (store_mail ..)

theorem labelSet_mail (r : Req) (s : State) : (labelSet r s).st.ctrl.mail = s.ctrl.mail := by
  unfold labelSet
  dsimp only
  split
  · rfl
  · split
    · rfl
    · exact (congrArg Ctrl.mail (mirror_ctrl ..)).trans (writeLabel_mail ..)

theorem labelCounters_mail (r : Req) (s : State) : (labelCounters r s).st.ctrl.mail = s.ctrl.mail := by
  have hclear (c : Bool) : (onlyIf c (clearCounters (r.u 0 4)) s).ctrl.mail = s.ctrl.mail :=
    onlyIf_keeps (P := fun t => t.ctrl.mail = s.ctrl.mail) _ _ (fun _ => store_mail ..) rfl
  unfold labelCounters
  dsimp only
  split
  · rfl
  · split
    · rfl
    · split
      · rfl
      · split
        · rfl
        · exact hclear _

theorem fwBegin_mail (r : Req) (s : State) : (fwBegin r s).st.ctrl.mail = s.ctrl.mail := by
  unfold fwBegin
  split
  · rfl
  · split <;> rfl

theorem fwWrite_mail (r : Req) (s : State) : (fwWrite r s).st.ctrl.mail = s.ctrl.mail := by
  unfold fwWrite
  dsimp only
  split
  · rfl
  · split
    · rfl
    · split
      · rfl
      · exact store_mail ..

/-- The host commands and fault.inject apart, a mailbox command leaves every other mailbox as it was. -/
theorem mailOf_exec_other {c : Instr} {h : Shape} {mb m : Nat} (hreq : requestFor c = some (h, mb))
    (hexec : exec c s = .next t) (hcfg : ∀ m, c ≠ .hostPortcfg m) (hen : ∀ m, c ≠ .hostEnable m)
    (hlow : ∀ m, c ≠ .hostLowpower m) (hre : ∀ m, c ≠ .hostRetrain m) (hinj : ∀ m, c ≠ .faultInject m) (hm : m ≠ mb) :
    mailOf t m = mailOf s m := by
  cases c with
  | labelSet n =>
    obtain ⟨rfl, rfl⟩ := Prod.mk.inj (Option.some.inj hreq)
    exact mailOf_mailbox hm (labelSet_mail ..) hexec
  | labelCounters n =>
    obtain ⟨rfl, rfl⟩ := Prod.mk.inj (Option.some.inj hreq)
    exact mailOf_mailbox hm (labelCounters_mail ..) hexec
  | fwBegin n =>
    obtain ⟨rfl, rfl⟩ := Prod.mk.inj (Option.some.inj hreq)
    exact mailOf_mailbox hm (fwBegin_mail ..) hexec
  | fwWrite n =>
    obtain ⟨rfl, rfl⟩ := Prod.mk.inj (Option.some.inj hreq)
    exact mailOf_mailbox hm (fwWrite_mail ..) hexec
  | hostPortcfg n => exact absurd rfl (hcfg n)
  | hostEnable n => exact absurd rfl (hen n)
  | hostLowpower n => exact absurd rfl (hlow n)
  | hostRetrain n => exact absurd rfl (hre n)
  | faultInject n => exact absurd rfl (hinj n)
  | sysIdentify | sysStatus | sysReset | sysQuiet | sysEvmask | sysEcho | fwInfo | fwVerify | fwActivate | portLaser
  | portTxdisable | portTxpower | portFormat | portTxstatus | scTxpower | scTxstatus | portRxdisable | portRxconfig
  | portCdset | portCdwrite | portCdstart | portCdstatus | portRxstatus | portLtune | scRxconfig | scRxstatus
  | scResync | portFecconfig | portFecstatus | scFecstats | frameTrace | frameDefcfg | framePcset | frameChan
  | frameKcsend | frameKcrecv | frameStamp | frameStatus | frameDefects | frameTribdef | pmConfig | pmTcaConfig
  | pmRead | pmClear | hubRole | hubGrant | hubRelease | hubJoin | hubLeave | hubStatus | castConfig | castStatus
  | hostTxtaps | hostLanestatus | hostPortstatus | tribConfig | tribStage | tribCommit | tribStatus | labelGet
  | labelProfile | labelStats | labelTsread | ctxConfig | ctxLimits | ctxRollover | ctxErase | ctxStatus | ctxLanes
  | bulkSweep | bulkSandglassSet | bulkStatus | bulkMemstatus | bulkBudgetRead | clkCandidate | clkConfig | clkForce
  | clkHoldoverSet | clkRefout | clkStatus | tcSet | tcSource | tcIo | tcTransfer | tcStatus | cueRead | cueCancel
  | cueStats | pairConfig | pairRehearse | pairStatus | pairResync | monConfig | monSync | monRead | monStatus
  | monValue | thermStatus | thermSensor | thermWarnSet | calRead | calWrite | calMeasure | calApply | calClear
  | faultPolicy | faultStatus | faultClear | faultInjstatus | faultTestpattern | faultTeststatus | faultDmarestart
  | logStatus | logRead | logFreeze | logRearm | logErase | perfSelect | perfRead | perfTracer | perfTrdeliver
  | perfTrstatus | portReset =>
    obtain ⟨rfl, rfl⟩ := Prod.mk.inj (Option.some.inj hreq)
    exact mailOf_mailbox hm (mail_of_kept (by simp)) hexec
  | fwRestart | portTxenable | portRxenable | bulkRetire =>
    obtain ⟨rfl, rfl⟩ := Prod.mk.inj (Option.some.inj hreq)
    exact mailOf_mailboxThen hm (mail_of_kept (by simp)) (fun _ _ => mail_of_kept (by simp)) hexec
  | _ => cases hreq

/-- Settles O59: a read-only command's rules leave the state as it was, and a response is written to its own mailbox. -/
theorem mailboxCommandsLeaveTheRest : Obligations.MailboxCommandsLeaveTheRest := by
  unfold Obligations.MailboxCommandsLeaveTheRest
  constructor
  · intro c h mb s t hreq hclass hcount hstats hlog hexec
    obtain ⟨body, hbody, hkeep⟩ := readOnly_mailbox hreq hclass hcount hstats hlog
    obtain ⟨hgen, hdef, hstage, hwithin⟩ := mailbox_readOnly hclass hkeep (hbody ▸ hexec)
    exact ⟨hgen, hdef, hstage, fun p hc he hf => hwithin p (by simp [hc, he, hf])⟩
  · intro c h mb s t hreq hexec hcfg hen hlow hre hinj m hm
    exact mailOf_exec_other hreq hexec hcfg hen hlow hre hinj hm

end Sys2Proof.Machine
end

section
/-! SUPPORT and PROOF of O55: what a common check that stops a command leaves. -/
namespace Sys2Proof.Machine

variable {s t u : State}

theorem mailbox_refused {h : Shape} {body : Req → State → Reply} {mb : Nat} {code : Code} (hm : okMb mb = true)
    (hacc : accepts h.op mb s = true) (hg : gate h (requestOf s mb) s = some code) :
    mailbox h body mb s = .next (respond (requestOf s mb) (refuse code s)) := by
  simp [mailbox, serve, hm, hacc, answer_of_gate hg]

theorem mailboxThen_refused {h : Shape} {body : Req → State → Reply} {after : Req → State → State} {mb : Nat} {code : Code}
    (hm : okMb mb = true) (hacc : accepts h.op mb s = true) (hg : gate h (requestOf s mb) s = some code) :
    mailboxThen h body after mb s = .next (respond (requestOf s mb) (refuse code s)) := by
  have hsame : (refuse code s).same = true := rfl
  simp [mailboxThen, serveThen, serve, hm, hacc, answer_of_gate hg, hsame]

theorem hostLowpower_refused {mb : Nat} {code : Code} (hm : okMb mb = true) (hacc : accepts 0x0503 mb s = true)
    (hg : gate ⟨0x0503, some 4, [(2, 2)]⟩ (requestOf s mb) s = some code) :
    execHostLowpower mb s = .next (respond (requestOf s mb) (refuse code s)) := by
  simp [execHostLowpower, hostLowpower, hm, hacc, hg]

/-- A mailbox command that a common check stops is answered with the check's code, and nothing more. -/
theorem exec_refused {c : Instr} {h : Shape} {mb : Nat} {code : Code} (hreq : requestFor c = some (h, mb))
    (hm : okMb mb = true) (hacc : accepts h.op mb s = true) (hg : gate h (requestOf s mb) s = some code) :
    exec c s = .next (respond (requestOf s mb) (refuse code s)) := by
  cases c with
  | sysIdentify | sysStatus | sysReset | sysQuiet | sysEvmask | sysEcho | fwInfo | fwBegin | fwWrite | fwVerify
  | fwActivate | portLaser | portTxdisable | portTxpower | portFormat | portTxstatus | scTxpower | scTxstatus
  | portRxdisable | portRxconfig | portCdset | portCdwrite | portCdstart | portCdstatus | portRxstatus | portLtune
  | scRxconfig | scRxstatus | scResync | portFecconfig | portFecstatus | scFecstats | frameTrace | frameDefcfg
  | framePcset | frameChan | frameKcsend | frameKcrecv | frameStamp | frameStatus | frameDefects | frameTribdef
  | pmConfig | pmTcaConfig | pmRead | pmClear | hubRole | hubGrant | hubRelease | hubJoin | hubLeave | hubStatus
  | castConfig | castStatus | hostPortcfg | hostEnable | hostTxtaps | hostRetrain | hostLanestatus | hostPortstatus
  | tribConfig | tribStage | tribCommit | tribStatus | labelSet | labelGet | labelCounters | labelProfile
  | labelStats | labelTsread | ctxConfig | ctxLimits | ctxRollover | ctxErase | ctxStatus | ctxLanes | bulkSweep
  | bulkSandglassSet | bulkStatus | bulkMemstatus | bulkBudgetRead | clkCandidate | clkConfig | clkForce
  | clkHoldoverSet | clkRefout | clkStatus | tcSet | tcSource | tcIo | tcTransfer | tcStatus | cueRead | cueCancel
  | cueStats | pairConfig | pairRehearse | pairStatus | pairResync | monConfig | monSync | monRead | monStatus
  | monValue | thermStatus | thermSensor | thermWarnSet | calRead | calWrite | calMeasure | calApply | calClear
  | faultPolicy | faultStatus | faultClear | faultInjstatus | faultTestpattern | faultTeststatus | faultDmarestart
  | logStatus | logRead | logFreeze | logRearm | logErase | perfSelect | perfRead | perfTracer | perfTrdeliver
  | perfTrstatus | portReset =>
    obtain ⟨rfl, rfl⟩ := Prod.mk.inj (Option.some.inj hreq)
    exact mailbox_refused hm hacc hg
  | fwRestart | portTxenable | portRxenable | bulkRetire | faultInject =>
    obtain ⟨rfl, rfl⟩ := Prod.mk.inj (Option.some.inj hreq)
    exact mailboxThen_refused hm hacc hg
  | hostLowpower =>
    obtain ⟨rfl, rfl⟩ := Prod.mk.inj (Option.some.inj hreq)
    exact hostLowpower_refused hm hacc hg
  | _ => cases hreq

/-- The answer to a command that was turned away changes the registers and the interrupt flags alone. -/
theorem within_respond_refused {r : Req} {code : Code} (hok : code ≠ .ok) (hdef : code ≠ .deferred) :
    Within [.ctrl, .ev] s (respond r (refuse code s)) := by
  have hmirror : mirrorCommand r (refuse code s) = s := by
    simp [mirrorCommand, refuse, beq_false_of_ne hok, beq_false_of_ne hdef]
  unfold respond
  rw [hmirror]
  exact ((within_onCtrl _ _).andThen (within_raiseVector _ _)).mono (by simp)

theorem genAfter_refused (r : Req) (code : Code) (s : State) : genAfter r (refuse code s) = s.ctrl.cfgGen := by
  simp [genAfter, refuse]

theorem gate_generation {h : Shape} {r : Req} (hstage : stageGate r s = none) (hfits : h.fits r = true)
    (hrole : roleGate r s = none) (hcheck : r.checkGen = true) (hgen : r.gen ≠ r.acc.toNat) :
    gate h r s = some .generation := by
  simp [gate, hstage, hfits, hrole, hcheck, hgen]

/-- Settles O55: the check for the generation is the last of the common checks, and stops the command. -/
theorem generationStopsACommand : Obligations.GenerationStopsACommand := by
  unfold Obligations.GenerationStopsACommand
  intro c h mb s hreq hm hacc hstage hfits hrole hcheck hgen
  have hg : gate h (requestOf s mb) s = some .generation := gate_generation hstage hfits hrole hcheck hgen
  refine ⟨_, exec_refused hreq hm hacc hg, answered_respond (requestOf s mb) (refuse .generation s) hm, ?_⟩
  refine ⟨?_, ?_, ?_, ?_, fun p hc he => within_respond_refused (by simp) (by simp) p (by simp [hc, he])⟩
  · exact (gen_respond (requestOf s mb) _).trans (congrArg _ (genAfter_refused ..))
  · rw [respond_ctrl]
    exact genAfter_refused ..
  · rw [respond_ctrl]
    rfl
  · rw [respond_ctrl]
    rfl

end Sys2Proof.Machine
end

section
/-! SUPPORT and PROOF of O7: the doorbell and the ownership of MB7 (R53, R54, R57/02). -/
namespace Sys2Proof.Machine

variable {s t u : State} {path : Path} {k n : Nat}

/-- What a doorbell sees and changes of a mailbox: how often it waits, BUSY, its overrun bit, and whether it is closed. -/
def mailboxView (path : Path) (n : Nat) (s : State) : Nat × Bool × Bool × Bool :=
  (s.ctrl.rung.count n, bvBit s.ctrl.mbBusy n, bvBit s.ctrl.mbOverrun n, mbClosed path n s)

theorem ring_closed (h : mbClosed path n s = true) : ring path n s = overrun n s := by simp [ring, h]

theorem ring_open (h : mbClosed path n s = false) :
    ring path n s = onCtrl (fun c => { c with rung := c.rung ++ [n], mbBusy := bvSet c.mbBusy n }) s := by simp [ring, h]

theorem mailboxView_ring_other (hn : n < 8) (hkn : k ≠ n) : mailboxView path n (ring path k s) = mailboxView path n s := by
  cases hclosed : mbClosed path k s
  · rw [ring_open hclosed]
    simp [mailboxView, mbClosed, foreign, bvBit_bvSet _ _ hn, hkn, hkn.symm]
  · rw [ring_closed hclosed]
    simp [mailboxView, mbClosed, foreign, overrun, bvBit_bvSet _ _ hn, hkn.symm]

theorem mailboxView_forAll_not_mem (hn : n < 8) {l : List Nat} (hl : n ∉ l) :
    mailboxView path n (forAll (ring path) l s) = mailboxView path n s := by
  induction l generalizing s with
  | nil => rfl
  | cons k l ih =>
    rw [List.mem_cons, not_or] at hl
    exact (ih hl.2).trans (mailboxView_ring_other hn (Ne.symm hl.1))

/-- A closed mailbox keeps its overrun bit set; an open one is busy and waits once more. -/
theorem mailboxView_ring_same (hn : n < 8) : mailboxView path n (ring path n s) =
    (s.ctrl.rung.count n + (if mbClosed path n s then 0 else 1), bvBit s.ctrl.mbBusy n || !mbClosed path n s,
      bvBit s.ctrl.mbOverrun n || mbClosed path n s, true) := by
  cases hclosed : mbClosed path n s
  · rw [ring_open hclosed]
    simp [mailboxView, mbClosed, bvBit_bvSet _ _ hn]
  · rw [ring_closed hclosed]
    have hstays : mbClosed path n (overrun n s) = true := hclosed
    simp [mailboxView, hstays]
    simp [overrun, bvBit_bvSet _ _ hn]

theorem mailboxView_ring_congr (hn : n < 8) (h : mailboxView path n s = mailboxView path n t) :
    mailboxView path n (ring path n s) = mailboxView path n (ring path n t) := by
  rw [mailboxView_ring_same hn, mailboxView_ring_same hn]
  simp only [mailboxView, Prod.mk.injEq] at h
  obtain ⟨hcount, hbusy, hover, hclosed⟩ := h
  rw [hcount, hbusy, hover, hclosed]

/-- A doorbell rings each of its mailboxes once. -/
theorem mailboxView_forAll_mem (hn : n < 8) {l : List Nat} (hl : n ∈ l) (hd : l.Nodup) :
    mailboxView path n (forAll (ring path) l s) = mailboxView path n (ring path n s) := by
  induction l generalizing s with
  | nil => simp at hl
  | cons k l ih =>
    obtain ⟨hk, hd⟩ := List.nodup_cons.mp hd
    by_cases hkn : k = n
    · subst hkn
      exact mailboxView_forAll_not_mem hn hk
    · have hnl : n ∈ l := (List.mem_cons.mp hl).resolve_left (Ne.symm hkn)
      exact (ih hnl hd).trans (mailboxView_ring_congr hn (mailboxView_ring_other hn hkn))

theorem maskList_nodup (w n : Nat) : (maskList w n).Nodup := List.Nodup.filter _ List.nodup_range

theorem mailboxView_doorbell {val : Word} (hn : n < 8) :
    mailboxView path n (doorbell path val s) = if bvBit val n then mailboxView path n (ring path n s) else mailboxView path n s := by
  have hmem : n ∈ maskList 8 val.toNat ↔ bvBit val n = true := by
    simp [mem_maskList, hn, bvBit, BitVec.testBit_toNat]
  split
  next hbit => exact mailboxView_forAll_mem hn (hmem.mpr hbit) (maskList_nodup ..)
  next hbit => exact mailboxView_forAll_not_mem hn fun h => hbit (hmem.mp h)

/-! The owner register (R57/02). -/

theorem ownerWrite_i2cOwns (val : Word) (s : State) : (ownerWrite path val s).ctrl.i2cOwns =
    if path = .pcie then s.ctrl.i2cOwns
    else if bvBit val 0 then s.ctrl.i2cOwns || !(bvBit s.ctrl.mbBusy 7 || bvBit s.ctrl.mbDone 7) else false := rfl

/-- A write that leaves the owner as it is changes nothing. -/
theorem ownerWrite_of_owner {val : Word} (h : (ownerWrite path val s).ctrl.i2cOwns = s.ctrl.i2cOwns) :
    ownerWrite path val s = s := by
  have hset : ownerWrite path val s = onCtrl (fun c => { c with i2cOwns := (ownerWrite path val s).ctrl.i2cOwns }) s := rfl
  rw [hset, h]
  rfl

/-- Settles O7: what a doorbell does to each mailbox, and the four cases of the owner register. -/
theorem doorbellSubmits : Obligations.DoorbellSubmits := by
  unfold Obligations.DoorbellSubmits
  constructor
  · intro path val s hbus
    refine ⟨doorbell path val s, congrArg Host.Outcome.next (by simp [hbus]), fun n hn => ?_⟩
    have hview : mailboxView path n (doorbell path val s) = _ := mailboxView_doorbell hn
    rw [mailboxView_ring_same hn] at hview
    refine ⟨fun hbit => ?_, fun hbit hclosed => ?_, fun hbit hclosed => ?_⟩
    · simp only [hbit, mailboxView, Bool.false_eq_true, if_false, Prod.mk.injEq] at hview
      obtain ⟨hcount, hbusy, hover, -⟩ := hview
      exact ⟨hcount, hbusy, hover⟩
    · simp only [hbit, hclosed, mailboxView, if_true, Prod.mk.injEq, Bool.or_true] at hview
      obtain ⟨hcount, -, hover, -⟩ := hview
      exact ⟨hcount, hover⟩
    · simp only [hbit, hclosed, mailboxView, if_true, Prod.mk.injEq, Bool.or_false, Bool.not_false, Bool.or_true] at hview
      obtain ⟨hcount, hbusy, hover, -⟩ := hview
      exact ⟨hcount, hbusy, hover⟩
  · intro val s
    refine ⟨fun hbus hbit hbusy hdone => ?_, fun hbit hclosed => ?_, fun hbus hbit => ?_, ?_, fun hbusy hdone => ?_⟩
    · refine ⟨ownerWrite .i2c val s, congrArg Host.Outcome.next (by simp [hbus]), ?_⟩
      simp [ownerWrite_i2cOwns, hbit, hbusy, hdone]
    · refine congrArg Host.Outcome.next (onlyIf_self (ownerWrite_of_owner ?_))
      simp [ownerWrite_i2cOwns, hbit, hclosed]
    · refine ⟨ownerWrite .i2c val s, congrArg Host.Outcome.next (by simp [hbus]), ?_⟩
      simp [ownerWrite_i2cOwns, hbit]
    · exact congrArg Host.Outcome.next (onlyIf_self (ownerWrite_of_owner (by simp [ownerWrite_i2cOwns])))
    · exact ⟨_, rfl, by simp [hbusy, hdone]⟩

end Sys2Proof.Machine
end

section
/-! SUPPORT and PROOF of O8: the event backlog and the event ring (R63 to R68, R84, R490/02). -/
namespace Sys2Proof.Machine

variable {s t u : State}

/-! A raised vector leaves the ring and the backlog. -/

@[simp] theorem raiseVector_ring (v : Nat) (s : State) : (raiseVector v s).ev.ring = s.ev.ring := by
  unfold raiseVector onlyIf
  split <;> rfl

@[simp] theorem raiseVector_head (v : Nat) (s : State) : (raiseVector v s).ev.head = s.ev.head := by
  unfold raiseVector onlyIf
  split <;> rfl

@[simp] theorem raiseVector_enable (v : Nat) (s : State) : (raiseVector v s).ev.enable = s.ev.enable := by
  unfold raiseVector onlyIf
  split <;> rfl

@[simp] theorem raiseVector_backlog (v : Nat) (s : State) : (raiseVector v s).ev.backlog = s.ev.backlog := by
  unfold raiseVector onlyIf
  split <;> rfl

@[simp] theorem raiseVector_lost (v : Nat) (s : State) : (raiseVector v s).ev.lost = s.ev.lost := by
  unfold raiseVector onlyIf
  split <;> rfl

/-! EVENT_RAISE. -/

theorem exec_eventRaise_known {code src tag v : Nat} {data : List Byte} (hv : vectorOf code src data = some v) :
    exec (.eventRaise code src tag data) s = .next (readSmall .eventIngress (raise code v src tag data s)) := by
  change execEventRaise code src tag data s = _
  rw [execEventRaise, hv]

theorem exec_eventRaise_unknown {code src tag : Nat} {data : List Byte} (hv : vectorOf code src data = none) :
    exec (.eventRaise code src tag data) s = .next s := by
  change execEventRaise code src tag data s = _
  rw [execEventRaise, hv]

theorem raise_ev_queued (code vector src tag : Nat) (data : List Byte) (hs : suppressed s code = false)
    (hroom : s.ev.backlog.length < 512) : (raise code vector src tag data s).ev = { s.ev with
      seq := (s.ev.seq + 1) % 2 ^ 32, backlog := s.ev.backlog ++ [eventOf s code vector src tag data false] } := by
  have hd : discards s code = false := by simp [discards, hs, backlogSize, Nat.not_le.mpr hroom]
  simp [raise, raiseEvent, hs, hd]

theorem raise_ev_discarded (code vector src tag : Nat) (data : List Byte) (hs : suppressed s code = false)
    (hfull : 512 ≤ s.ev.backlog.length) : (raise code vector src tag data s).ev = { s.ev with
      seq := (s.ev.seq + 1) % 2 ^ 32, lost := satAdd max32 s.ev.lost 1, lostSince := satAdd max32 s.ev.lostSince 1 } := by
  have hd : discards s code = true := by simp [discards, hs, backlogSize, hfull]
  simp [raise, raiseEvent, hs, hd]

theorem raise_ev_suppressed (code vector src tag : Nat) (data : List Byte) (hs : suppressed s code = true) :
    (raise code vector src tag data s).ev = { s.ev with seq := (s.ev.seq + 1) % 2 ^ 32 } := by
  have hd : discards s code = false := by simp [discards, hs]
  simp [raise, raiseEvent, hs, hd]

/-! The ring's registers. -/

theorem evrEnable_of_enabled (h : s.ev.enable = true) : evrEnable s = s := by
  have hev : { s.ev with enable := true } = s.ev := by rw [← h]
  simp only [evrEnable, onEv, h, if_true]
  rw [hev]

theorem evrTailWrite_ignored {val : Word}
    (h : (s.ev.head + 4096 - s.ev.tail) % 4096 < (val.toNat % 4096 + 4096 - s.ev.tail) % 4096) : evrTailWrite val s = s := by
  simp [evrTailWrite, onEv, ringSize, Nat.not_le.mpr h]

theorem evrTailWrite_taken {val : Word}
    (h : (val.toNat % 4096 + 4096 - s.ev.tail) % 4096 ≤ (s.ev.head + 4096 - s.ev.tail) % 4096) :
    (evrTailWrite val s).ev.tail = val.toNat % 4096 ∧ (evrTailWrite val s).ev.head = s.ev.head := by
  simp [evrTailWrite, ringSize, h]

/-! Delivery. -/

theorem writeEntry_ring (ev : Event) (s : State) : (writeEntry ev s).ev.ring =
    tabSet none s.ev.ring s.ev.head (some ⟨ev, s.ev.phase, s.ev.base + 32 * s.ev.head⟩) :=
  (onlyIf_apply (·.ev.ring) _ rfl).trans (raiseVector_ring ..)

theorem writeEntry_head (ev : Event) (s : State) : (writeEntry ev s).ev.head = (s.ev.head + 1) % 4096 :=
  (onlyIf_apply (·.ev.head) _ rfl).trans (raiseVector_head ..)

theorem writeEntry_backlog (ev : Event) (s : State) : (writeEntry ev s).ev.backlog = s.ev.backlog :=
  (onlyIf_apply (·.ev.backlog) _ rfl).trans (raiseVector_backlog ..)

theorem writeEntry_intStatus (ev : Event) (s : State) : (writeEntry ev s).ctrl.intStatus = bvSet s.ctrl.intStatus ev.vector :=
  (onlyIf_apply (·.ctrl.intStatus) _ rfl).trans (congrArg Ctrl.intStatus (raiseVector_ctrl ..))

theorem ringWrite_next {e : Event} {rest : List Event} (hd : canDeliver s = true) (hl : lostDue s = false)
    (hb : s.ev.backlog = e :: rest) (h3 : injArmed s 0x1A3 = false) (h2 : injFor s 0x1A2 0 = false) :
    ringWrite s = writeEntry e (onEv (fun e => { e with backlog := rest, rejected := false }) s) := by
  simp [ringWrite, writeNext, hd, hl, hb, h3, h2]

theorem rejectEntry_of_room (h : s.ev.backlog.length ≤ 512) :
    (rejectEntry s).ev.enable = false ∧ (rejectEntry s).ev.backlog = s.ev.backlog ∧ (rejectEntry s).ev.lost = s.ev.lost
      ∧ bvBit (rejectEntry s).ctrl.intStatus 31 = true := by
  simp [rejectEntry, backlogSize, Nat.not_lt.mpr h, bvBit_bvSet]

/-- Settles O8: one lemma for each form of a raised event, of a register write and of a delivery. -/
theorem eventRingDelivery : Obligations.EventRingDelivery := by
  unfold Obligations.EventRingDelivery
  refine ⟨?_, ?_, ?_, ?_, ?_, ?_, ?_, ?_, ?_, ?_⟩
  case refine_1 =>
    intro code src tag v data s hv
    refine ⟨fun hs hroom => runs_of_exec (exec_eventRaise_known hv) ?_,
      fun hs hfull => runs_of_exec (exec_eventRaise_known hv) ?_, fun hs => runs_of_exec (exec_eventRaise_known hv) ?_⟩
    · rw [readSmall_ev, raise_ev_queued _ _ _ _ _ hs hroom]
      exact ⟨rfl, rfl, _, rfl, rfl, rfl, rfl, rfl, rfl, rfl, rfl⟩
    · rw [readSmall_ev, raise_ev_discarded _ _ _ _ _ hs hfull]
      exact ⟨rfl, rfl, rfl⟩
    · exact ⟨raise_ev_suppressed _ _ _ _ _ hs, rfl⟩
  case refine_2 => exact fun code src tag data s hv => exec_eventRaise_unknown hv
  case refine_3 =>
    intro s hw he
    exact ⟨evrEnable s, congrArg Host.Outcome.next (by simp [hw]), by simp [evrEnable, he]⟩
  case refine_4 =>
    intro s hw he
    exact congrArg Host.Outcome.next (onlyIf_self (evrEnable_of_enabled he))
  case refine_5 =>
    intro s hw
    exact ⟨evrDisable s, congrArg Host.Outcome.next (by simp [hw]), rfl⟩
  case refine_6 =>
    intro val s hw
    exact ⟨congrArg Host.Outcome.next (by simp [hw]), congrArg Host.Outcome.next (by simp [hw]),
      congrArg Host.Outcome.next (by simp [hw])⟩
  case refine_7 =>
    intro s hd
    exact ⟨congrArg Host.Outcome.next (by simp [ringWrite, hd]), congrArg Host.Outcome.next (by simp [hd])⟩
  case refine_8 =>
    intro e rest s hd hl hb h3 h2
    refine ⟨_, congrArg Host.Outcome.next (ringWrite_next hd hl hb h3 h2), ?_, writeEntry_head .., writeEntry_backlog ..,
      fun hv => ?_⟩
    · rw [writeEntry_ring]
      exact tabGet_set_same ..
    · rw [writeEntry_intStatus, bvBit_bvSet _ _ hv]
      simp
  case refine_9 =>
    intro s hd hl hb hroom
    have hsome : s.ev.backlog.isEmpty = false := by simpa using hb
    exact ⟨rejectEntry s, congrArg Host.Outcome.next (by simp [hd, hl, hsome]), rejectEntry_of_room hroom⟩
  case refine_10 =>
    intro val s hw
    exact ⟨fun h => ⟨evrTailWrite val s, congrArg Host.Outcome.next (by simp [hw]), evrTailWrite_taken h⟩,
      fun h => congrArg Host.Outcome.next (onlyIf_self (evrTailWrite_ignored h))⟩

end Sys2Proof.Machine
end

section
/-! SUPPORT and PROOF of O35: the key window (R72, R73/02) and the placing of a captured key (R302 to R304). -/
namespace Sys2Proof.Machine

variable {s t u : State} {j : KeyJob}

/-! The window's registers. -/

theorem exec_keyStageWrite {off : Nat} {val : Word} (hbus : busWorks .pcie s = true) (hoff : okOffset off = true) :
    exec (.keyStageWrite off val) s = .next (onCtrl (keyWrite off val) s) := by
  change execKeyStageWrite off val s = _
  simp [execKeyStageWrite, hbus, hoff]

theorem keyWrite_data {k : Nat} (hk : k < 8) (val : Word) (c : Ctrl) :
    keyWrite (0x1010 + 4 * k) val c = { c with keyData := tabSet 0 c.keyData k val, keyStaged := true } := by
  have hsel : 0x1010 + 4 * k ≠ 0x1000 := by omega
  have hsalt : 0x1010 + 4 * k ≠ 0x1004 := by omega
  have hin : 0x1010 ≤ 0x1010 + 4 * k ∧ 0x1010 + 4 * k ≤ 0x102C := by omega
  have hword : (0x1010 + 4 * k - 0x1010) / 4 = k := by omega
  rw [keyWrite, if_neg hsel, if_neg hsalt, if_pos hin, hword]

theorem exec_keyInstall (hbus : busWorks .pcie s = true) : exec (.keyInstall false) s = .next (onCtrl keyCapture s) :=
  congrArg Host.Outcome.next (by simp [hbus])

theorem keyCapture_idle {c : Ctrl} (h : c.keyJob = none) : keyCapture c = { clearStaged c with
    keyJob := some
      { ctx := c.keySel.toNat % 65536, an := c.keySel.toNat / 65536 % 4
        key := (List.range 8).foldl (fun k i => 2 ^ 32 * k + (tabGet 0 c.keyData i).toNat) 0
        salt := c.keySalt.toNat } } := by
  rw [keyCapture, h]

theorem keyCapture_pending {c : Ctrl} (h : c.keyJob ≠ none) : keyCapture c = { c with keyResult := 1 } := by
  obtain ⟨j, hj⟩ := Option.ne_none_iff_exists'.mp h
  rw [keyCapture, hj]

/-! The captured key is placed. -/

theorem keyInstallDone_of_job (hj : s.ctrl.keyJob = some j) : keyInstallDone s =
    onCtrl (fun c => { c with keyJob := none, keyResult := (installKey j s).1 })
      (onlyIf ((installKey j s).1 == 0) (contextPut j.ctx) (installKey j s).2) := by
  rw [keyInstallDone, hj]

/-- Where the key goes into a slot, the context is the one the installation leaves. -/
theorem keyInstallDone_placed (hj : s.ctrl.keyJob = some j) (hi : installKey j s = (0, u)) :
    Runs .keyInstallDone s (fun t => t.ctrl.keyJob = none ∧ t.ctrl.keyResult = 0 ∧ t.cipher = u.cipher) := by
  refine ⟨_, congrArg Host.Outcome.next (keyInstallDone_of_job hj), ?_⟩
  rw [hi]
  exact ⟨rfl, rfl, rfl⟩

theorem ctxOf_congr (h : t.cipher = s.cipher) (c : Nat) : ctxOf t c = ctxOf s c := by rw [ctxOf, ctxOf, h]

section
variable (hctx : j.ctx < 40960)
include hctx

theorem installKey_current (hroll : (ctxOf s j.ctx).roll = none)
    (hnxt : holdsKey (ctxOf s j.ctx).nxt j.key = false) (hempty : (ctxOf s j.ctx).cur = none)
    (han : holdsAn (ctxOf s j.ctx).nxt j.an = false) : installKey j s = (0, onCtxOf j.ctx (fun x => { x with
      cur := some (freshSlot j.key j.salt j.an), pn := 1, bytes := 0, retired := false, softP := false, softB := false }) s) := by
  have hrange : ¬ 40959 < j.ctx := by omega
  have hnone : holdsKey none j.key = false := rfl
  simp [installKey, hrange, hnxt, rolloverPending, hroll, hempty, han, hnone]

theorem installKey_next (hroll : (ctxOf s j.ctx).roll = none) (hcur : holdsKey (ctxOf s j.ctx).cur j.key = false)
    (hnxt : holdsKey (ctxOf s j.ctx).nxt j.key = false) (hsome : (ctxOf s j.ctx).cur ≠ none)
    (han : holdsAn (ctxOf s j.ctx).cur j.an = false) (hret : (ctxOf s j.ctx).retired = false) :
    installKey j s = (0, onCtxOf j.ctx (fun x => { x with nxt := some (freshSlot j.key j.salt j.an) }) s) := by
  have hrange : ¬ 40959 < j.ctx := by omega
  simp [installKey, hrange, hcur, hnxt, rolloverPending, hroll, hsome, han, hret]

theorem installKey_held
    (hheld : holdsKey (ctxOf s j.ctx).cur j.key = true ∨ holdsKey (ctxOf s j.ctx).nxt j.key = true) :
    installKey j s = (3, s) := by
  have hrange : ¬ 40959 < j.ctx := by omega
  rcases hheld with hheld | hheld <;> simp [installKey, hrange, hheld]

end

/-- Settles O35: the window's registers one by one, then the three outcomes of a captured key. -/
theorem keyWindowStages : Obligations.KeyWindowStages := by
  unfold Obligations.KeyWindowStages
  refine ⟨fun val s hbus => ⟨?_, ?_, fun k hk => ?_⟩, fun s hbus hidle => ?_, fun s hbus hpend => ?_, fun s hbus => ?_,
    fun s hstaged => ?_, fun j s hj hctx hroll hcur hnxt => ⟨fun hempty han => ?_, fun hsome han hret => ?_⟩,
    fun j s hj hctx hheld => ?_⟩
  · exact ⟨_, exec_keyStageWrite hbus rfl, rfl⟩
  · exact ⟨_, exec_keyStageWrite hbus rfl, rfl, rfl⟩
  · have hoff : okOffset (0x1010 + 4 * k) = true := by simp [okOffset]; omega
    refine runs_of_exec (exec_keyStageWrite hbus hoff) ?_
    rw [onCtrl_ctrl, keyWrite_data hk]
    exact ⟨tabGet_set_same .., rfl, fun q hq => tabGet_set_other _ _ _ hq⟩
  · refine runs_of_exec (exec_keyInstall hbus) ?_
    rw [onCtrl_ctrl, keyCapture_idle hidle]
    exact ⟨rfl, rfl, rfl, rfl, _, rfl, rfl, rfl, rfl⟩
  · refine ⟨_, exec_keyInstall hbus, ?_, rfl⟩
    rw [onCtrl_ctrl, keyCapture_pending hpend]
  · exact ⟨onCtrl keyErase s, congrArg Host.Outcome.next (by simp [hbus]), rfl, rfl, rfl, rfl, rfl, rfl⟩
  · refine ⟨_, rfl, ?_⟩
    simp [hstaged, clearStaged]
  · obtain ⟨t, hexec, hjob, hres, hcip⟩ := keyInstallDone_placed hj (installKey_current hctx hroll hnxt hempty han)
    refine ⟨t, hexec, hjob, hres, ?_⟩
    rw [ctxOf_congr hcip, ctxOf_same]
    exact ⟨rfl, rfl, rfl⟩
  · obtain ⟨t, hexec, hjob, hres, hcip⟩ := keyInstallDone_placed hj (installKey_next hctx hroll hcur hnxt hsome han hret)
    refine ⟨t, hexec, hjob, hres, ?_⟩
    rw [ctxOf_congr hcip, ctxOf_same]
    exact ⟨rfl, rfl⟩
  · refine ⟨_, congrArg Host.Outcome.next (keyInstallDone_of_job hj), ?_⟩
    rw [installKey_held hctx hheld]
    exact ⟨rfl, rfl, rfl⟩

end Sys2Proof.Machine
end

section
/-! SUPPORT of O51, O52 and O54: an accepted command is answered, and the fields of its response. -/
namespace Sys2Proof.Machine

variable {s t u : State}

theorem runs_mailbox {c : Instr} {h : Shape} {body : Req → State → Reply} {mb : Nat} {P : State → Prop}
    (acc : Accepted h mb s) (hc : exec c s = mailbox h body mb s)
    (hp : P (respond (requestOf s mb) (body (requestOf s mb) s))) : Runs c s P :=
  ⟨_, hc.trans (mailbox_accepted body acc), hp⟩

theorem answered_of_accepted {h : Shape} {mb : Nat} {c : Code} {a : Reply} (acc : Accepted h mb s) (ha : a.code = c) :
    AnsweredWith c mb (respond (requestOf s mb) a) := ha ▸ answered_respond (requestOf s mb) a acc.1

@[simp] theorem respond_quiet (r : Req) (a : Reply) : (respond r a).quiet = a.st.quiet :=
  respond_same (q := .quiet) r a (by simp)

theorem respond_evSuppressed (r : Req) (a : Reply) : (respond r a).ev.suppressed = a.st.ev.suppressed := by
  have hvec (v : Nat) (u : State) : (raiseVector v u).ev.suppressed = u.ev.suppressed := onlyIf_apply (·.ev.suppressed) _ rfl
  have hmirror : (mirrorCommand r a).ev = a.st.ev := within_mirrorCommand r a .ev (by simp)
  unfold respond writeResponse
  rw [hvec, onCtrl_ev, hmirror]

/-! Fields of a list of bytes put together from parts. -/

theorem padTo_length (n : Nat) (b : List Byte) : (padTo n b).length = n := by
  simp [padTo]
  omega

theorem getU_append_left {off n : Nat} {a b : List Byte} (h : off + n ≤ a.length) : getU off n (a ++ b) = getU off n a := by
  rw [getU, getU, field, field, List.drop_append_of_le_length (by omega),
    List.take_append_of_le_length (by simp only [List.length_drop]; omega)]

theorem getU_append_right {off n : Nat} {a b : List Byte} (h : a.length ≤ off) :
    getU off n (a ++ b) = getU (off - a.length) n b := by
  rw [getU, getU, field, field, List.drop_append, List.drop_of_length_le h, List.nil_append]

theorem getU_natBE (n v : Nat) : getU 0 n (natBE n v) = v % 256 ^ n := by
  rw [getU, field, List.drop_zero, List.take_of_length_le (natBE_length n v).le, beNat_natBE]

theorem getU_cons_zero (x : Byte) (b : List Byte) : getU 0 1 (x :: b) = x.toNat := by simp [getU, field, beNat]

theorem getU_cons_succ (off n : Nat) (x : Byte) (b : List Byte) : getU (off + 1) n (x :: b) = getU off n b := rfl

@[simp] theorem byteOf_toNat (n : Nat) : (byteOf n).toNat = n % 256 := BitVec.toNat_ofNat ..

end Sys2Proof.Machine
end

section
/-! SUPPORT and PROOF of O51: the sys commands (R82 to R84/02). -/
namespace Sys2Proof.Machine

variable {s t u : State}

/-! The fields of the responses. -/

theorem sysIdentify_pay (r : Req) (s : State) :
    getU 32 2 (sysIdentify r s).pay = Config.revision.toNat ∧ getU 46 1 (sysIdentify r s).pay = s.ctrl.running % 256
      ∧ getU 47 1 (sysIdentify r s).pay = 2 ∧ getU 48 1 (sysIdentify r s).pay = 2 := by
  have hrev : Config.revision.toNat % 65536 = Config.revision.toNat := Nat.mod_eq_of_lt Config.revision.isLt
  simp [sysIdentify, okWith, getU_append_left, getU_append_right, padTo_length, getU_natBE, getU_cons_zero, getU_cons_succ,
    hrev, linkGeneration, pairGeneration]

theorem sysIdentify_pay_length (r : Req) (s : State) : (sysIdentify r s).pay.length = 52 := by
  simp [sysIdentify, okWith, padTo_length]

theorem stageCode_lt (st : Stage) : stageCode st < 256 := by cases st <;> decide

theorem sysStatus_pay (r : Req) (s : State) :
    getU 0 1 (sysStatus r s).pay = stageCode s.ctrl.stage ∧ getU 1 1 (sysStatus r s).pay = s.pair.role % 256
      ∧ getU 2 4 (sysStatus r s).pay = s.ctrl.cfgGen.toNat ∧ getU 6 4 (sysStatus r s).pay = tcSec (upTime s) % 2 ^ 32 := by
  have hgen : s.ctrl.cfgGen.toNat % 4294967296 = s.ctrl.cfgGen.toNat := Nat.mod_eq_of_lt s.ctrl.cfgGen.isLt
  have hstage : stageCode s.ctrl.stage % 256 = stageCode s.ctrl.stage := Nat.mod_eq_of_lt (stageCode_lt _)
  simp [sysStatus, okWith, getU_append_left, getU_append_right, getU_natBE, getU_cons_zero, getU_cons_succ, hgen, hstage]

theorem sysStatus_pay_length (r : Req) (s : State) : 10 ≤ (sysStatus r s).pay.length := by
  simp [sysStatus, okWith]

/-! sys.evmask (R84). -/

theorem sysEvmask_accepted {r : Req} {v : Nat} (hv : eventVector (r.u 0 2) = some v) (hu : isUrgent v = false)
    (hone : r.u 2 1 ≤ 1) : sysEvmask r s = okWith [byteOf (b2n (!suppressed s (r.u 0 2))), 0, 0, 0]
      (onEv (fun e => { e with
        suppressed := if r.u 2 1 = 0 then including (r.u 0 2) e.suppressed else without (r.u 0 2) e.suppressed }) s) := by
  simp [sysEvmask, hv, hu, Nat.not_lt.mpr hone]

/-! sys.quiet (R83, R468/18). -/

/-- A change of a port that leaves its receiver's state leaves every receiver's state. -/
theorem rxPort_st_of_keeps {f : RxPort → RxPort} (hf : ∀ x, (f x).st = x.st) (q p : Nat) (s : State) :
    (rxPort (onRxPort q f s) p).st = (rxPort s p).st := by
  rw [rxPort_apply]
  split
  next h => rw [hf, h]
  · rfl

/-- A change of a port that leaves its transmitter's state leaves every transmitter's state. -/
theorem txPort_tx_of_keeps {f : TxPort → TxPort} (hf : ∀ x, (f x).tx = x.tx) (q p : Nat) (s : State) :
    (txPort (onTxPort q f s) p).tx = (txPort s p).tx := by
  rw [txPort_apply]
  split
  next h => rw [hf, h]
  · rfl

theorem closeTx_tx (q p : Nat) (s : State) : (txPort (closeTx q s) p).tx = if p = q then .off else (txPort s p).tx := by
  rw [txPort_closeTx, txPort_shutTx_tx]

theorem closeRx_st (q p : Nat) (s : State) : (rxPort (closeRx q s) p).st = if p = q then .off else (rxPort s p).st := by
  rw [rxPort_closeRx, rxPort_shutRx_st]

theorem endPortReset_tx (q p : Nat) (s : State) : (txPort (endPortReset q s) p).tx = (txPort s p).tx := by
  have hdone (f g) : Part.txp.same (onTxPort q f s) (finishDeferred 0x0211 q .denied (onRxPort q g (onTxPort q f s))) := by
    simp
  rw [endPortReset, txPort_congr (hdone ..), txPort_tx_of_keeps (by simp)]

theorem endPortReset_st (q p : Nat) (s : State) : (rxPort (endPortReset q s) p).st = (rxPort s p).st := by
  have hdone (g) (u : State) : Part.rxp.same (onRxPort q g u) (finishDeferred 0x0211 q .denied (onRxPort q g u)) := by simp
  have htx (f) : rxPort (onTxPort q f s) p = rxPort s p := rxPort_congr (by simp) p
  rw [endPortReset, rxPort_congr (hdone ..), rxPort_st_of_keeps (by simp), htx]

theorem closeTx_unless_off_tx (q p : Nat) (s : State) :
    (txPort (onlyIf ((txPort s q).tx != .off) (closeTx q) s) p).tx = if p = q then .off else (txPort s p).tx := by
  unfold onlyIf
  split
  · exact closeTx_tx q p s
  next h =>
    have hoff : (txPort s q).tx = .off := by simpa using h
    split
    next hpq => rw [hpq, hoff]
    · rfl

theorem closeRx_unless_off_st (q p : Nat) (s : State) :
    (rxPort (onlyIf ((rxPort s q).st != .off) (closeRx q) s) p).st = if p = q then .off else (rxPort s p).st := by
  unfold onlyIf
  split
  · exact closeRx_st q p s
  next h =>
    have hoff : (rxPort s q).st = .off := by simpa using h
    split
    next hpq => rw [hpq, hoff]
    · rfl

theorem darkPort_tx (q p : Nat) (s : State) : (txPort (darkPort q s) p).tx = if p = q then .off else (txPort s p).tx := by
  have hrx (c : Bool) (u : State) : txPort (onlyIf c (closeRx q) u) p = txPort u p :=
    onlyIf_apply (txPort · p) c (txPort_congr (by simp) p)
  unfold darkPort
  rw [endPortReset_tx, hrx, closeTx_unless_off_tx]

theorem darkPort_st (q p : Nat) (s : State) : (rxPort (darkPort q s) p).st = if p = q then .off else (rxPort s p).st := by
  have htx (c : Bool) : rxPort (onlyIf c (closeTx q) s) p = rxPort s p :=
    onlyIf_apply (rxPort · p) c (rxPort_congr (by simp) p)
  unfold darkPort
  rw [endPortReset_st]
  refine (closeRx_unless_off_st q p _).trans ?_
  rw [htx]

theorem quietPort_tx (q p : Nat) (s : State) : (txPort (quietPort q s) p).tx = if p = q then .off else (txPort s p).tx := by
  have hrx (g) (u : State) : txPort (onRxPort q g u) p = txPort u p := txPort_congr (by simp) p
  unfold quietPort
  rw [darkPort_tx, hrx, txPort_tx_of_keeps (by simp)]

theorem quietPort_st (q p : Nat) (s : State) : (rxPort (quietPort q s) p).st = if p = q then .off else (rxPort s p).st := by
  have htx (f) : rxPort (onTxPort q f s) p = rxPort s p := rxPort_congr (by simp) p
  unfold quietPort
  rw [darkPort_st, rxPort_st_of_keeps (by simp), htx]

theorem closed_forAll_quietPort {p : Nat} {l : List Nat} (h : p ∈ l ∨ Closed s p) : Closed (forAll quietPort l s) p := by
  induction l generalizing s with
  | nil => exact h.resolve_left (by simp)
  | cons q l ih =>
    refine ih (or_iff_not_imp_left.mpr fun hp => ?_)
    unfold Closed
    rw [quietPort_tx, quietPort_st]
    split
    · exact ⟨rfl, rfl⟩
    next hpq => exact h.resolve_left (by simp [hp, hpq])

theorem sysQuiet_on {los : List Int} {r : Req} (h1 : r.u 0 1 = 1) (hq : s.quiet = false) :
    sysQuiet los r s = okay { (forAll quietPort allPorts s) with quiet := true } := by
  simp [sysQuiet, h1, hq]

theorem sysQuiet_off {los : List Int} {r : Req} (h0 : r.u 0 1 = 0) (hq : s.quiet = true) :
    sysQuiet los r s = okay { (forAll (unquietPort los) allPorts s) with quiet := false } := by
  simp [sysQuiet, h0, hq]

/-- Settles O51, command by command: the reply of each is read from its response. -/
theorem sysCommands : Obligations.SysCommands := by
  unfold Obligations.SysCommands
  refine ⟨fun mb s acc => ?_, fun mb s acc => ?_, fun mb s acc hkey => ?_, fun mb los s acc hone hq => ?_,
    fun mb los s acc hzero hq => ?_, fun mb v s acc hv hu hone => ?_, fun mb s acc => ?_⟩
  · obtain ⟨hrev, hrun, hlink, hpair⟩ := sysIdentify_pay (requestOf s mb) s
    have hlen := sysIdentify_pay_length (requestOf s mb) s
    refine runs_mailbox acc rfl ⟨answered_of_accepted acc rfl, ?_, ?_, ?_, ?_⟩
    · exact (resp_respond (requestOf s mb) _ (by omega)).trans hrev
    · exact (resp_respond (requestOf s mb) _ (by omega)).trans hrun
    · exact (resp_respond (requestOf s mb) _ (by omega)).trans hlink
    · exact (resp_respond (requestOf s mb) _ (by omega)).trans hpair
  · obtain ⟨hstage, hrole, hgen, hup⟩ := sysStatus_pay (requestOf s mb) s
    have hlen := sysStatus_pay_length (requestOf s mb) s
    refine runs_mailbox acc rfl ⟨answered_of_accepted acc rfl, ?_, ?_, ?_, ?_⟩
    · exact (resp_respond (requestOf s mb) _ (by omega)).trans hstage
    · exact (resp_respond (requestOf s mb) _ (by omega)).trans hrole
    · exact (resp_respond (requestOf s mb) _ (by omega)).trans hgen
    · exact (resp_respond (requestOf s mb) _ (by omega)).trans hup
  · have hreply : sysReset (requestOf s mb) s = okay (onCtrl (fun c => { c with resetDue := true }) s) :=
      if_neg (not_not.mpr hkey)
    refine runs_mailbox acc rfl ?_
    rw [hreply]
    exact ⟨answered_of_accepted acc rfl, congrArg Ctrl.resetDue (respond_ctrl ..)⟩
  · refine runs_mailbox acc rfl ?_
    rw [sysQuiet_on hone hq]
    refine ⟨answered_of_accepted acc rfl, respond_quiet .., fun p hp => ?_⟩
    obtain ⟨htx, hrx⟩ := closed_forAll_quietPort (s := s) (l := allPorts) (.inl (show p ∈ allPorts by simpa [allPorts] using hp))
    rw [txPort_congr (respond_same _ _ (q := .txp) (by simp)), rxPort_congr (respond_same _ _ (q := .rxp) (by simp))]
    have htxq (u : State) : txPort (okay { u with quiet := true }).st p = txPort u p := rfl
    have hrxq (u : State) : rxPort (okay { u with quiet := true }).st p = rxPort u p := rfl
    rw [htxq, hrxq]
    exact ⟨htx, hrx⟩
  · refine runs_mailbox acc rfl ?_
    rw [sysQuiet_off hzero hq]
    exact ⟨answered_of_accepted acc rfl, respond_quiet ..⟩
  · refine runs_mailbox acc rfl ?_
    rw [sysEvmask_accepted hv hu hone]
    have hsup (code : Nat) (a : Reply) : suppressed (respond (requestOf s mb) a) code = a.st.ev.suppressed.contains code := by
      rw [suppressed, respond_evSuppressed]
    refine ⟨answered_of_accepted acc rfl, ?_, fun code hcode => ?_⟩
    · rw [hsup]
      by_cases hz : (requestOf s mb).u 2 1 = 0 <;> simp [okWith, hz, arg]
    · have hne : ¬ code = (requestOf s mb).u 0 2 := hcode
      rw [hsup]
      by_cases hz : (requestOf s mb).u 2 1 = 0 <;> simp [okWith, hz, suppressed, hne]
  · refine runs_mailbox acc rfl ⟨answered_of_accepted acc rfl, ?_⟩
    refine (respBytes_respond (requestOf s mb) _ (by simp [sysEcho, okWith])).trans ?_
    simp [sysEcho, okWith, field]

end Sys2Proof.Machine
end

section
/-! PROOF of O52: it fails, at fw.write in a state that no run reaches. The state's list of snapshot entries has no bound of
its own (a snapshot has at most 16,384, R447/16), and a list long enough counts the staging area as filled by the log, so
that the write does not set the region's valid bit and the byte reads as zero (R331/11). -/
namespace Sys2Proof.Machine

variable {s : State}

/-! A write into a region that counts as filled does not make it valid. -/

theorem setStatus_valid (w : Nat) (st : WordStatus) (s : State) : (setStatus w st s).bulk.valid = s.bulk.valid := by
  unfold setStatus
  split
  · rw [onLog_bulk]
  · rfl

theorem correctedWord_valid (addr : Nat) (s : State) : (correctedWord addr s).bulk.valid = s.bulk.valid := by
  unfold correctedWord sandAdd
  exact onlyIf_apply (·.bulk.valid) _ (congrArg Bulk.valid (unitFault_bulk ..))

theorem uncorrectableWord_valid (c addr : Nat) (s : State) : (uncorrectableWord c addr s).bulk.valid = s.bulk.valid := by
  unfold uncorrectableWord
  rw [unitFault_bulk]
  rfl

theorem mergeWord_valid (addr syms : Nat) (s : State) : (mergeWord addr syms s).bulk.valid = s.bulk.valid := by
  unfold mergeWord
  split
  · exact setStatus_valid ..
  · rw [correctedWord_valid, setStatus_valid]
  · refine (onlyIf_apply (·.bulk.valid) _ rfl).trans ?_
    exact (uncorrectableWord_valid ..).trans (setStatus_valid ..)
  · rfl

theorem readyWord_valid_of_held {addr len syms : Nat} (h : regionHeld s (regionOf addr) = true) :
    (readyWord addr len syms s).bulk.valid = s.bulk.valid := by
  have hfill : fillRegion (regionOf addr) s = s := by simp [fillRegion, h]
  unfold readyWord
  rw [hfill]
  split
  · exact setStatus_valid ..
  · exact mergeWord_valid ..

/-- A byte written alone into a region that counts as filled but is not valid reads as zero. -/
theorem bulkByte_store_one_of_invalid {addr : Nat} {b : Byte} (hc : MemoryCanonical s)
    (hheld : regionHeld s (regionOf addr) = true) (hinv : regionValid s (regionOf addr) = false) :
    bulkByte (store addr [b] 0 s) addr = 0 := by
  have hstore : store addr [b] 0 s = storeWord addr ([b].take (64 - addr % 64)) 0 s := by
    have hdrop : [b].drop (64 - addr % 64) = [] := List.drop_of_length_le (by simp; omega)
    simp [store, storeFrom, hdrop]
  have htake : [b].take (64 - addr % 64) = [b] := List.take_of_length_le (by simp; omega)
  have hvalid : regionValid (readyWord addr 1 0 s) (regionOf addr) = false := by
    rwa [regionValid, readyWord_valid_of_held hheld]
  rw [hstore, htake, bulkByte_storeWord _ _ _ _ hc, if_pos (by simp), if_neg (by simp [hvalid])]

/-! The counterexample. -/

/-- A ready module with an open session of one byte, and an fw.write of the byte 1 at offset 0 in mailbox 0. -/
def writesOneByte (snap : List LogEntry) : State :=
  { State.reset with
    ctrl := {
      stage := .ready, rung := [0]
      mail := [(0, [0x0F, 2, 0, 0, 0, 9] ++ zeros 10 ++ [0, 0, 0, 0, 0, 1, 0, 0, 1] ++ zeros 231)] }
    power := { phase := .good, powered := true }
    fw := { session := 1, size := 1 }
    log := { snap := snap } }

theorem writesOneByte_accepted (snap : List LogEntry) : Accepted ⟨0x0F02, none, [(6, 2)]⟩ 0 (writesOneByte snap) := by
  have hgate : gate ⟨0x0F02, none, [(6, 2)]⟩ (requestOf (writesOneByte []) 0) (writesOneByte []) = none := by decide +kernel
  exact ⟨rfl, rfl, hgate⟩

theorem writesOneByte_request (snap : List LogEntry) : arg (writesOneByte snap) 0 0 4 = 0
    ∧ arg (writesOneByte snap) 0 4 2 = 1 ∧ (requestOf (writesOneByte snap) 0).len = 9
    ∧ field 8 1 (requestOf (writesOneByte snap) 0).pay = [1] := by
  have h : arg (writesOneByte []) 0 0 4 = 0 ∧ arg (writesOneByte []) 0 4 2 = 1 ∧ (requestOf (writesOneByte []) 0).len = 9
      ∧ field 8 1 (requestOf (writesOneByte []) 0).pay = [1] := by decide +kernel
  exact h

theorem writesOneByte_reply (snap : List LogEntry) :
    fwWrite (requestOf (writesOneByte snap) 0) (writesOneByte snap) = okay (store (stagingBase + 0) [1] 0
      (onFw (fun f => { f with staged := addRange 0 1 f.staged }) (writesOneByte snap))) := by
  obtain ⟨hoff, hn, hlen, hdata⟩ := writesOneByte_request snap
  have hu0 : (requestOf (writesOneByte snap) 0).u 0 4 = 0 := hoff
  have hu4 : (requestOf (writesOneByte snap) 0).u 4 2 = 1 := hn
  have hsession : (writesOneByte snap).fw.session = 1 := rfl
  have hsize : (writesOneByte snap).fw.size = 1 := rfl
  simp [fwWrite, hu0, hu4, hlen, hdata, hsession, hsize]

/-- A list of 1,114,177 entries reaches from the snapshot's first region to the staging area's. -/
theorem stagingHeld {snap : List LogEntry} (h : snap.length = 1114177) :
    regionHeld (writesOneByte snap) (regionOf stagingBase) = true := by
  have hlog : logRegion (writesOneByte snap) (regionOf stagingBase) = true := by
    simp [logRegion, snapRegions, writesOneByte, h, regionOf, stagingBase, snapRegion]
  simp [regionHeld, hlog]

/-- Refutes O52: with such a list, fw.write of the byte 1 at offset 0 leaves that byte of the staging area reading zero. -/
theorem not_firmwareUpdate : ¬ Obligations.FirmwareUpdate := by
  unfold Obligations.FirmwareUpdate
  rintro ⟨-, hwrite, -⟩
  obtain ⟨snap, hsnap⟩ : ∃ snap : List LogEntry, snap.length = 1114177 :=
    ⟨List.replicate 1114177 (logEntryOf State.reset 0 0 0 0 0 0 [] []), List.length_replicate⟩
  obtain ⟨hoff, hn, hlen, hdata⟩ := writesOneByte_request snap
  have hmail : (mailOf (writesOneByte snap) 0).length = 256 := by simp [mailOf, writesOneByte, tabGet]
  obtain ⟨t, hexec, -, hin, -⟩ := hwrite 0 (writesOneByte snap) (writesOneByte_accepted snap) hn.ge (by omega) (by omega)
    rfl (by rw [hoff, hn]; rfl) hmail reset_canonical
  have hone : bulkByte t (stagingBase + 0) = 1 := by
    have h := hin 0 (by omega)
    rw [hoff, hn, hdata] at h
    exact h
  have hexec' := hexec.symm.trans (mailbox_accepted fwWrite (writesOneByte_accepted snap))
  have hzero : bulkByte t (stagingBase + 0) = 0 := by
    rw [Host.Outcome.next.inj hexec', bulkByte_of_kept (kept_respond ..), writesOneByte_reply]
    exact bulkByte_store_one_of_invalid (s := onFw _ _) reset_canonical (stagingHeld hsnap) rfl
  rw [hzero] at hone
  exact absurd hone (by decide)

end Sys2Proof.Machine
end

section
/-! SUPPORT of O53 and O54: what a reset and a power-on make of the module (R465, R472/18). -/
namespace Sys2Proof.Machine

variable {s t u : State}

theorem runs_of_next {c : Instr} {P : State → Prop} (h : exec c s = .next u) (e : u = t) (hp : P t) : Runs c s P :=
  runs_of_exec (e ▸ h) hp

/-! A retirement brought back marks its unit and changes the parts it is held in. -/

theorem within_onCipher (f : Cipher → Cipher) (s : State) : Within [.cipher] s (onCipher f s) := by
  intro q hq; cases q <;> simp_all [Part.same]

theorem within_onPower (f : PowerSt → PowerSt) (s : State) : Within [.power] s (onPower f s) := by
  intro q hq; cases q <;> simp_all [Part.same]

theorem within_onRxPort (k : Nat) (f : RxPort → RxPort) (s : State) : Within [.rxp] s (onRxPort k f s) := by
  intro q hq; cases q <;> simp_all [Part.same]

theorem within_onRxSc (k : Nat) (f : RxSc → RxSc) (s : State) : Within [.rxs] s (onRxSc k f s) := by
  intro q hq; cases q <;> simp_all [Part.same]

theorem within_onFecPort (k : Nat) (f : FecPort → FecPort) (s : State) : Within [.fecp] s (onFecPort k f s) := by
  intro q hq; cases q <;> simp_all [Part.same]

theorem within_onCoreOf (k : Nat) (f : Core → Core) (s : State) : Within [.flt] s (onCoreOf k f s) := by
  intro q hq; cases q <;> simp_all [Part.same]

/-- The parts in which retirements are held. -/
def retireParts : List Part := [.flt, .rxp, .rxs, .fecp, .cipher, .bulk]

theorem within_restoreSlice (i : Nat) (s : State) : Within [.rxp] s (restoreSlice i s) := by
  unfold restoreSlice
  dsimp only
  split <;> exact within_onRxPort _ _ _

theorem within_restoreEngine (i : Nat) (s : State) : Within [.fecp] s (restoreEngine i s) := by
  unfold restoreEngine
  dsimp only
  split
  · exact (within_onFecPort _ _ _).trans (within_onFecPort _ _ _)
  · exact (within_onFecPort _ _ _).trans (within_onFecPort _ _ _)
  · exact within_onFecPort _ _ _

theorem within_restoreLane (i : Nat) (s : State) : Within [.cipher] s (restoreLane i s) := by
  unfold restoreLane onLanes
  exact within_onCipher _ s

theorem within_restorePc (g : Nat) (s : State) : Within [.bulk] s (restorePc g s) := by
  unfold restorePc
  exact within_onBulk _ s

theorem restorePc_mem (g : Nat) (s : State) : (restorePc g s).bulk.mem = s.bulk.mem := rfl

theorem within_restoreUnit (x : Nat × Nat) (s : State) : Within retireParts s (restoreUnit x s) := by
  have hunit := within_onUnitRec (unitKey x.1 x.2) (fun x => { x with retired := true }) s
  unfold restoreUnit
  dsimp only
  split
  · exact (hunit.andThen (within_restoreSlice _ _)).mono (by simp [retireParts])
  · exact (hunit.andThen (within_restoreEngine _ _)).mono (by simp [retireParts])
  · exact (hunit.andThen (within_restoreLane _ _)).mono (by simp [retireParts])
  · exact (hunit.andThen (within_restorePc _ _)).mono (by simp [retireParts])
  · exact (hunit.andThen (within_onFlt _ _)).mono (by simp [retireParts])
  · exact (hunit.andThen (within_onRxSc _ _ _)).mono (by simp [retireParts])
  · exact (hunit.andThen (within_onCoreOf _ _ _)).mono (by simp [retireParts])
  · exact hunit.mono (by simp [retireParts])

theorem within_restoreUnits (l : List (Nat × Nat)) (s : State) : Within retireParts s (forAll restoreUnit l s) :=
  within_forAll _ _ within_restoreUnit s

theorem restoreSlice_st (i p : Nat) (s : State) : (rxPort (restoreSlice i s) p).st = (rxPort s p).st := by
  unfold restoreSlice
  dsimp only
  split <;> exact rxPort_st_of_keeps (by simp) _ _ _

/-- A retirement brought back leaves every receiver's state. -/
theorem restoreUnit_st (x : Nat × Nat) (p : Nat) (s : State) : (rxPort (restoreUnit x s) p).st = (rxPort s p).st := by
  have hunit (k : Nat) (f : UnitRec → UnitRec) : rxPort (onUnitRec k f s) p = rxPort s p :=
    rxPort_congr (within_onUnitRec k f s .rxp (by simp)) p
  unfold restoreUnit
  dsimp only
  split
  · rw [restoreSlice_st, hunit]
  · rw [rxPort_congr (within_restoreEngine _ _ .rxp (by simp)), hunit]
  · rw [rxPort_congr (within_restoreLane _ _ .rxp (by simp)), hunit]
  · rw [rxPort_congr (within_restorePc _ _ .rxp (by simp)), hunit]
  · rw [rxPort_congr (within_onFlt _ _ .rxp (by simp)), hunit]
  · rw [rxPort_congr (within_onRxSc _ _ _ .rxp (by simp)), hunit]
  · rw [rxPort_congr (within_onCoreOf _ _ _ .rxp (by simp)), hunit]
  · rw [hunit]

theorem closed_restoreUnits (l : List (Nat × Nat)) {p : Nat} (h : Closed s p) : Closed (forAll restoreUnit l s) p :=
  forAll_keeps (P := fun u => Closed u p) _ _ (fun x u hu =>
    ⟨(congrArg TxPort.tx (txPort_congr (within_restoreUnit x u .txp (by simp [retireParts])) p)).trans hu.1,
      (restoreUnit_st x p u).trans hu.2⟩) s h

theorem restoreUnit_mem (x : Nat × Nat) (s : State) : (restoreUnit x s).bulk.mem = s.bulk.mem := by
  have hunit (k : Nat) (f : UnitRec → UnitRec) : (onUnitRec k f s).bulk = s.bulk := within_onUnitRec k f s .bulk (by simp)
  unfold restoreUnit
  dsimp only
  split
  · rw [within_restoreSlice _ _ .bulk (by simp), hunit]
  · rw [within_restoreEngine _ _ .bulk (by simp), hunit]
  · rw [within_restoreLane _ _ .bulk (by simp), hunit]
  · rw [restorePc_mem, hunit]
  · rw [within_onFlt _ _ .bulk (by simp), hunit]
  · rw [within_onRxSc _ _ _ .bulk (by simp), hunit]
  · rw [within_onCoreOf _ _ _ .bulk (by simp), hunit]
  · rw [hunit]

theorem restoreUnits_mem (l : List (Nat × Nat)) (s : State) : (forAll restoreUnit l s).bulk.mem = s.bulk.mem :=
  forAll_keeps (P := fun t => t.bulk.mem = s.bulk.mem) _ _ (fun x u hu => (restoreUnit_mem x u).trans hu) s rfl

/-! Retirements that are brought back. -/

theorem restoreSlice_flt (i : Nat) (s : State) : (restoreSlice i s).flt = s.flt := within_restoreSlice i s .flt (by simp)

theorem restoreEngine_flt (i : Nat) (s : State) : (restoreEngine i s).flt = s.flt := within_restoreEngine i s .flt (by simp)

/-- The fault records after a retirement brought back are those with its unit marked. -/
theorem restoreUnit_unit (x : Nat × Nat) (s : State) :
    (restoreUnit x s).flt.unit = (onUnitRec (unitKey x.1 x.2) (fun x => { x with retired := true }) s).flt.unit := by
  unfold restoreUnit
  dsimp only
  split
  · rw [restoreSlice_flt]
  · rw [restoreEngine_flt]
  all_goals rfl

theorem isRetired_restoreUnit (x : Nat × Nat) (typ idx : Nat) (s : State) :
    isRetired (restoreUnit x s) typ idx = (decide (unitKey typ idx = unitKey x.1 x.2) || isRetired s typ idx) := by
  rw [isRetired_of_unit (restoreUnit_unit x s), isRetired, unitRec_apply, isRetired]
  split
  next h => simp [h]
  next h => simp [h]

theorem isRetired_restoreUnits {l : List (Nat × Nat)} {typ idx : Nat} (h : (typ, idx) ∈ l ∨ isRetired s typ idx = true) :
    isRetired (forAll restoreUnit l s) typ idx = true := by
  induction l generalizing s with
  | nil => exact h.resolve_left (by simp)
  | cons x l ih =>
    refine ih (or_iff_not_imp_left.mpr fun hl => ?_)
    rw [isRetired_restoreUnit]
    rcases h with hx | hs
    · obtain rfl | hin := List.mem_cons.mp hx
      · simp
      · exact absurd hin hl
    · simp [hs]

/-- A unit that is retired, of a kind whose retirement RESET_N keeps, is in the list of those kept. -/
theorem mem_keptRetirements {typ idx : Nat} (hidx : idx < 65536) (h6 : typ ≠ 6) (h7 : typ ≠ 7)
    (h : isRetired s typ idx = true) : (typ, idx) ∈ keptRetirements s := by
  have hentry (m : Tab UnitRec) (k : Nat) (hr : (tabGet {} m k).retired = true) : (k, tabGet {} m k) ∈ m := by
    induction m with
    | nil => simp [tabGet] at hr
    | cons e m ih =>
      obtain ⟨j, v⟩ := e
      by_cases hj : j = k
      · simp [tabGet, hj]
      · simp only [tabGet, hj, if_false] at hr ⊢
        exact List.mem_cons_of_mem _ (ih hr)
  have htyp : unitKey typ idx / 65536 = typ := by unfold unitKey; omega
  have hmod : unitKey typ idx % 65536 = idx := by unfold unitKey; omega
  refine List.mem_map.mpr ⟨_, List.mem_filter.mpr ⟨hentry _ _ h, ?_⟩, by rw [htyp, hmod]⟩
  have hret : (tabGet {} s.flt.unit (unitKey typ idx)).retired = true := h
  simp [htyp, h6, h7, hret]

/-! The reset values. -/

/-- What holds of the default and of every entry holds of each unit. -/
theorem tabGet_of_forall {α : Type} {P : α → Prop} {d : α} (hd : P d) {m : Tab α} (hm : ∀ e ∈ m, P e.2) (k : Nat) :
    P (tabGet d m k) := by
  induction m with
  | nil => exact hd
  | cons e m ih =>
    obtain ⟨j, v⟩ := e
    rw [tabGet]
    split
    · exact hm (j, v) (by simp)
    · exact ih fun x hx => hm x (List.mem_cons_of_mem _ hx)

/-- What holds of the default and of every entry cut down holds of each unit after the counts are kept. -/
theorem tabGet_keepCounts {α : Type} [DecidableEq α] {P : α → Prop} {d : α} {cut : α → α} (hd : P d) (hcut : ∀ x, P (cut x))
    (old : Tab α) (k : Nat) : P (tabGet d (keepCounts d cut old) k) := by
  refine tabGet_of_forall hd (fun e he => ?_) k
  obtain ⟨x, -, rfl⟩ := List.mem_map.mp (List.mem_filter.mp he).1
  exact hcut x.2

theorem closed_blank (role : Bool) (s : State) (p : Nat) : Closed (blank role s) p := ⟨rfl, rfl⟩

theorem closed_keepSincePower (s u : State) (p : Nat) : Closed (keepSincePower s u) p := by
  constructor
  · exact tabGet_keepCounts (P := fun x : TxPort => x.tx = .off) (d := {})
      (cut := fun x => { replaced := x.replaced }) rfl (fun _ => rfl) s.txp p
  · exact tabGet_keepCounts (P := fun x : RxPort => x.st = .off) (d := {})
      (cut := fun x => { cd := { overwrites := x.cd.overwrites, dissolves := x.cd.dissolves, tracks := x.cd.tracks } })
      rfl (fun _ => rfl) s.rxp p

end Sys2Proof.Machine
end

section
/-! SUPPORT and PROOF of O53: power-up and boot (R45, R77, R78/02, R465/18). -/
namespace Sys2Proof.Machine

variable {s t u : State}

/-! The power-on (R465). -/

theorem within_powerOn (vin : Nat) (role : Bool) (addr : Nat) (s : State) :
    Within (retireParts ++ [.power]) (blank role s) (powerOn vin role addr s) :=
  (within_restoreUnits s.flt.fldRetired (blank role s)).andThen (within_onPower _ _)

theorem powerOn_mem (vin : Nat) (role : Bool) (addr : Nat) (s : State) : (powerOn vin role addr s).bulk.mem = [] :=
  restoreUnits_mem s.flt.fldRetired (blank role s)

theorem closed_powerOn (vin : Nat) (role : Bool) (addr p : Nat) (s : State) : Closed (powerOn vin role addr s) p :=
  closed_restoreUnits s.flt.fldRetired (closed_blank role s p)

theorem vinRise_off {vin : Nat} (hvin : 3400 ≤ vin) (hoff : s.power.phase = .off) (hsw : s.power.switchOpen = false)
    (role : Bool) (addr : Nat) : vinRise vin role addr s = powerOn vin role addr s := by
  have hlow : decide (vin < uvloOn) = false := decide_eq_false (Nat.not_lt.mpr hvin)
  simp [vinRise, hoff, hsw, hlow]

/-! The boot (R77, R78/02). -/

theorem imageFails_other (h : s.fw.otherTried = false) : imageFails s =
    onCtrl (fun c => { c with stage := .rom, running := 0, fwVersion := 0 })
      (onFw (fun f => { f with trying := otherSlot s.fw.trying, otherTried := true, bootStep := 1 }) s) := by
  simp [imageFails, h]

theorem imageFails_both (h : s.fw.otherTried = true) : imageFails s = recovery s := by simp [imageFails, h]

theorem imageCheck_bad (hstep : s.fw.bootStep = 1) (hwait : s.power.thermWait = false) :
    imageCheck false s = imageFails s := by simp [imageCheck, hstep, hwait]

theorem imageCheck_good (hstep : s.fw.bootStep = 1) (hwait : s.power.thermWait = false)
    (hslot : (slotOf s.fw s.fw.trying).state = 1) : imageCheck true s =
    onCtrl (fun c => { c with stage := .load, fallback := s.fw.trying != s.fw.active })
      (onFw (fun f => { f with bootStep := 2 }) s) := by simp [imageCheck, hstep, hwait, hslot]

theorem imageFails_pcieUp (s : State) : (imageFails s).ctrl.pcieUp = s.ctrl.pcieUp := by
  cases h : s.fw.otherTried
  · rw [imageFails_other h]; rfl
  · rw [imageFails_both h]; rfl

/-- The check of an image leaves the PCIe endpoint as it is. -/
theorem imageCheck_pcieUp (ok : Bool) (s : State) : (imageCheck ok s).ctrl.pcieUp = s.ctrl.pcieUp := by
  unfold imageCheck
  split
  · split
    · rfl
    · exact imageFails_pcieUp s
  · rfl

theorem exec_bootImageCheck (h : booting s = true) (ok : Bool) :
    exec (.bootImageCheck ok) s = .next (imageCheck ok (linkStarts s)) := by
  change Host.Outcome.next (onlyIf (booting s) _ s) = _
  rw [h, onlyIf_true]

theorem exec_bootReady (hstage : s.ctrl.stage = .init) (hpow : s.power.phase = .good) (calOk : Bool) :
    exec (.bootReady calOk) s = .next (bootReady calOk s) := by
  change Host.Outcome.next (onlyIf (s.ctrl.stage == .init && s.power.phase == .good) _ s) = _
  rw [hstage, hpow]
  rfl

theorem exec_bootWatchdog_init (hbox : mailboxesWork s = true) (hstage : s.ctrl.stage = .init) :
    exec .bootWatchdog s = .next (bootWatchdog s) := by
  change Host.Outcome.next (onlyIf (mailboxesWork s) _ s) = _
  rw [hbox, onlyIf_true]
  exact congrArg Host.Outcome.next (if_pos (by simp [hstage]))

/-- Settles O53, row by row of the boot's stages. -/
theorem powerUpAndBoot : Obligations.PowerUpAndBoot := by
  unfold Obligations.PowerUpAndBoot
  refine ⟨fun vin addr role s hvin hoff hsw => ?_, fun vin s hvin hsoft => ?_, fun s hsoft hheld => ?_, fun ok s hboot => ?_,
    fun s hboot hwait hdies hcool => ?_, fun s hboot hstep hwait => ⟨fun hslot => ?_, fun hother => ?_, fun hother => ?_⟩,
    fun s hboot hstep => ?_, fun calOk s hstage hpow => ⟨fun hshut => ?_, fun hshut => ?_⟩,
    fun s hstage hbox hother htry => ?_, fun s hpow hheld => ?_⟩
  · have hpart {q : Part} (hq : q ∉ retireParts ++ [.power]) : q.same (blank role s) (powerOn vin role addr s) :=
      within_powerOn vin role addr s q hq
    have hctrl : (powerOn vin role addr s).ctrl = (blank role s).ctrl := hpart (q := .ctrl) (by simp [retireParts])
    have hev : (powerOn vin role addr s).ev = (blank role s).ev := hpart (q := .ev) (by simp [retireParts])
    have hfw : (powerOn vin role addr s).fw = (blank role s).fw := hpart (q := .fw) (by simp [retireParts])
    have hpair : (powerOn vin role addr s).pair = (blank role s).pair := hpart (q := .pair) (by simp [retireParts])
    refine runs_of_next rfl (vinRise_off hvin hoff hsw role addr) ?_
    rw [hctrl, hev, hfw, hpair]
    exact ⟨rfl, rfl, rfl, powerOn_mem .., rfl, rfl, rfl, rfl, rfl, fun p => closed_powerOn vin role addr p s⟩
  · have hlow : vin < uvloOff := hvin
    exact runs_of_exec rfl (by simp [softStartAbort, hlow, hsoft])
  · have hrun : exec .railsInRegulation s = .next (startBoot (onCtrl (fun c => { c with stage := .rom })
        (onPower (fun w => { w with phase := .good, powered := true }) s))) := by
      change Host.Outcome.next (onlyIf (s.power.phase == .softStart) railsGood s) = _
      rw [hsoft, show (PowerPhase.softStart == PowerPhase.softStart) = true from rfl, onlyIf_true, railsGood, hheld]
      rfl
    exact runs_of_exec hrun ⟨rfl, rfl, rfl, rfl, rfl⟩
  · exact runs_of_exec (exec_bootImageCheck hboot ok) (imageCheck_pcieUp ok (linkStarts s))
  · have hnow : (s.power.thermWait && !(storedDies s).isEmpty && decide ((hottest s).2 < 1400)) = true := by
      simp [hwait, hdies, hcool]
    have hrun : exec .bootThermalWait s = .next (onPower (fun w => { w with thermWait := false }) (linkStarts s)) := by
      change Host.Outcome.next (onlyIf (booting s) (fun s => linkStarts s |> onlyIf (s.power.thermWait && !(storedDies s).isEmpty
        && decide ((hottest s).2 < 1400)) _) s) = _
      rw [hboot, onlyIf_true, hnow, onlyIf_true]
    exact runs_of_exec hrun rfl
  · exact runs_of_next (exec_bootImageCheck hboot true) (imageCheck_good hstep hwait hslot) ⟨rfl, rfl, rfl, rfl⟩
  · exact runs_of_next (exec_bootImageCheck hboot false)
      ((imageCheck_bad (s := linkStarts s) hstep hwait).trans (imageFails_other hother)) ⟨rfl, rfl, rfl, rfl⟩
  · exact runs_of_next (exec_bootImageCheck hboot false)
      ((imageCheck_bad (s := linkStarts s) hstep hwait).trans (imageFails_both hother)) rfl
  · have hrun : exec .bootLoadDone s = .next (loadDone s) := by
      change Host.Outcome.next (onlyIf (booting s && s.fw.bootStep == 2) loadDone s) = _
      rw [hboot, hstep]
      rfl
    exact runs_of_exec hrun ⟨rfl, rfl, rfl⟩
  · refine runs_of_exec (exec_bootReady hstage hpow calOk) ?_
    rw [bootReady, hshut]
    exact ⟨rfl, logged_raise ..⟩
  · refine runs_of_exec (exec_bootReady hstage hpow calOk) ?_
    rw [bootReady, hshut]
    rfl
  · have hmark : (markFailed s).fw.otherTried = false := by simp [markFailed, setSlot, hother]
    have hlog : Logged 0x0F01 0 [1] (markFailed s) := by
      unfold markFailed
      rw [htry]
      exact logged_raise ..
    refine runs_of_next (exec_bootWatchdog_init hbox hstage) (imageFails_other hmark) ?_
    refine ⟨?_, ?_, rfl, hlog⟩
    · simp [markFailed, setSlot, htry]
    · simp [markFailed, setSlot, htry, otherSlot]
  · exact runs_of_exec rfl ⟨rfl, by simp [hpow, hheld]⟩

end Sys2Proof.Machine
end

section
/-! SUPPORT of O54: RESET_N, sys.reset, the power-fail path, over-voltage and VIN warnings (R82/02, R461 to R472/18). -/
namespace Sys2Proof.Machine

variable {s t u : State}

/-! RESET_N and sys.reset (R472). -/

/-- The parts in which a reset differs from the blank module with its counts since power-on. -/
theorem within_resetModule (role : Bool) (s : State) :
    Within (retireParts ++ [.therm, .power, .ctrl]) (keepSincePower s (blank role s)) (resetModule role s) :=
  ((((within_restoreUnits _ _).andThen (within_onTherm _ _)).andThen (within_onPower _ _)).andThen (within_onCtrl _ _)).mono
    (by simp)

theorem resetModule_ctrl (role : Bool) (s : State) : (resetModule role s).ctrl =
    { (blank role s).ctrl with restarts := s.ctrl.restarts, stage := if s.power.powered then .rom else .power } := by
  have hunits : (forAll restoreUnit (keptRetirements s) (keepSincePower s (blank role s))).ctrl
      = (keepSincePower s (blank role s)).ctrl := within_restoreUnits _ _ .ctrl (by simp [retireParts])
  exact congrArg (fun c : Ctrl => { c with stage := if s.power.powered then .rom else .power }) hunits

theorem resetModule_ev (role : Bool) (s : State) : (resetModule role s).ev = (blank role s).ev :=
  within_resetModule role s .ev (by simp [retireParts])

theorem resetModule_fw (role : Bool) (s : State) : (resetModule role s).fw = (blank role s).fw :=
  within_resetModule role s .fw (by simp [retireParts])

theorem closed_resetModule (role : Bool) (p : Nat) (s : State) : Closed (resetModule role s) p :=
  closed_restoreUnits (keptRetirements s) (closed_keepSincePower s (blank role s) p)

theorem resetModule_retired {typ idx : Nat} (hidx : idx < 65536) (h6 : typ ≠ 6) (h7 : typ ≠ 7)
    (h : isRetired s typ idx = true) (role : Bool) : isRetired (resetModule role s) typ idx = true :=
  isRetired_restoreUnits (.inl (mem_keptRetirements hidx h6 h7 h))

theorem resetAssert_good {low : Nat} (hlow : 1020 ≤ low) (hgood : s.power.phase = .good) : resetAssert low s =
    onPower (fun w => { w with resetHeld := true }) (resetModule s.power.rolePin (useFree s)) := by
  have hpass : passesFilter low (freeNat s) = true := by simp [passesFilter, hlow]
  have hphase : (useFree s).power.phase = .good := hgood
  simp only [resetAssert, hpass, hphase, if_true]
  rfl

/-! The power-fail path (R466). -/

/-- A frozen log, with the cause of its first freeze. -/
def FrozenFor (cause : Nat) (s : State) : Prop := s.log.frozen = true ∧ s.log.cause = cause

theorem frozenFor_of_same {cause : Nat} (hq : Part.log.same s t) (h : FrozenFor cause s) : FrozenFor cause t := by
  have hlog : t.log = s.log := hq
  unfold FrozenFor
  rw [hlog]
  exact h

theorem frozenFor_raiseIf {cause : Nat} (c : Bool) (code v src tag : Nat) (d : List Byte) (h : FrozenFor cause s) :
    FrozenFor cause (onlyIf c (raise code v src tag d) s) :=
  onlyIf_keeps c _ (fun hs => hs) h

theorem frozenFor_freezeLog (cause : Nat) (h : s.log.frozen = false) : FrozenFor cause (freezeLog cause s) := by
  rw [freezeLog, if_neg (by simp [h])]
  exact ⟨rfl, rfl⟩

theorem frozenFor_stopSc {cause : Nat} (quiet : Bool) (sc : Nat) (h : FrozenFor cause s) :
    FrozenFor cause (stopSc quiet sc s) :=
  frozenFor_raiseIf (s := onRxSc sc (fun x => { x with conv := false, lqi := 0 }) s) _ _ _ _ _ _ h

theorem frozenFor_endDissolve {cause : Nat} (p : Nat) (h : FrozenFor cause s) : FrozenFor cause (endDissolve p s) :=
  frozenFor_raiseIf _ _ _ _ _ _ (frozenFor_of_same (by simp) h)

theorem frozenFor_shutRx {cause : Nat} (p : Nat) (h : FrozenFor cause s) : FrozenFor cause (shutRx p s) := by
  have hscs : FrozenFor cause (forAll (stopSc true) (portScs p) s) :=
    forAll_keeps _ _ (fun sc _ hu => frozenFor_stopSc true sc hu) s h
  have hhunt : FrozenFor cause (forAll rehunt (portScs p) (forAll (stopSc true) (portScs p) s)) :=
    frozenFor_of_same (by simp) hscs
  exact frozenFor_of_same (by simp [shutRx]) (frozenFor_endDissolve p hhunt)

theorem frozenFor_dropPort {cause : Nat} (p : Nat) (h : FrozenFor cause s) : FrozenFor cause (dropPort p s) := by
  have htx : FrozenFor cause (onHubPort p (fun h => { h with join := .idle })
      (onTxPort p (fun t => { t with len := false }) (shutTx p .off s))) := frozenFor_of_same (by simp) h
  exact frozenFor_of_same (by simp [dropPort]) (frozenFor_shutRx p htx)

theorem frozenFor_allDark {cause : Nat} (h : FrozenFor cause s) : FrozenFor cause (allDark s) :=
  forAll_keeps _ _ (fun p _ hu => frozenFor_dropPort p hu) s h

/-- The record of a power fail goes to the log's flash areas alone. -/
theorem writeFailRecord_keeps (was : Bool) (s : State) : ∃ f : LogSt → LogSt, writeFailRecord was s = onLog f s
    ∧ (f s.log).frozen = s.log.frozen ∧ (f s.log).cause = s.log.cause := by
  unfold writeFailRecord
  dsimp only
  split
  · exact ⟨id, rfl, rfl, rfl⟩
  · split
    · exact ⟨_, rfl, rfl, rfl⟩
    · split
      · exact ⟨_, rfl, rfl, rfl⟩
      · exact ⟨id, rfl, rfl, rfl⟩

theorem frozenFor_writeFailRecord {cause : Nat} (was : Bool) (h : FrozenFor cause s) :
    FrozenFor cause (writeFailRecord was s) := by
  obtain ⟨f, hf, hfrozen, hcause⟩ := writeFailRecord_keeps was s
  rw [hf]
  exact ⟨hfrozen.trans h.1, hcause.trans h.2⟩

@[simp] theorem same_onHostPort {q : Part} (k : Nat) (f : HPort → HPort) (h : q ∉ [Part.hport]) :
    q.same s (onHostPort k f t) ↔ q.same s t := by cases q <;> simp_all [Part.same]

@[simp] theorem same_dropPort {q : Part} (p : Nat)
    (h : q ∉ [Part.free, .ev, .txp, .rxp, .rxs, .fecp, .frame, .hub, .cues, .log]) :
    q.same s (dropPort p t) ↔ q.same s t := by
  simp_all [dropPort]

@[simp] theorem same_lanesIdle {q : Part} (h : q ∉ [Part.lane, .hport, .pair]) : q.same s (lanesIdle t) ↔ q.same s t := by
  simp_all [lanesIdle]

theorem dropPort_tx (q p : Nat) (s : State) : (txPort (dropPort q s) p).tx = if p = q then .off else (txPort s p).tx := by
  have hrest (u : State) : txPort (onFecPort q fecZero (shutRx q (onHubPort q (fun h => { h with join := .idle }) u))) p
      = txPort u p := txPort_congr (by simp) p
  unfold dropPort
  rw [hrest, txPort_tx_of_keeps (by simp), txPort_shutTx_tx]

theorem dropPort_st (q p : Nat) (s : State) : (rxPort (dropPort q s) p).st = if p = q then .off else (rxPort s p).st := by
  have hfec (u : State) : rxPort (onFecPort q fecZero u) p = rxPort u p := rxPort_congr (by simp) p
  have htx : rxPort (onHubPort q (fun h => { h with join := .idle })
      (onTxPort q (fun t => { t with len := false }) (shutTx q .off s))) p = rxPort s p := rxPort_congr (by simp) p
  unfold dropPort
  rw [hfec, rxPort_shutRx_st, htx]

theorem closed_forAll_dropPort {p : Nat} {l : List Nat} (h : p ∈ l ∨ Closed s p) : Closed (forAll dropPort l s) p := by
  induction l generalizing s with
  | nil => exact h.resolve_left (by simp)
  | cons q l ih =>
    refine ih (or_iff_not_imp_left.mpr fun hp => ?_)
    unfold Closed
    rw [dropPort_tx, dropPort_st]
    split
    · exact ⟨rfl, rfl⟩
    next hpq => exact h.resolve_left (by simp [hp, hpq])

theorem closed_allDark {p : Nat} (hp : p < 6) (s : State) : Closed (allDark s) p :=
  closed_forAll_dropPort (.inl (by simpa [allPorts] using hp))

theorem Closed.dark {p : Nat} (h : Closed s p) : transmitting s p = false ∧ receiving s p = false := by
  obtain ⟨htx, hst⟩ := h
  simp [transmitting, receiving, htx, hst]

/-- The module as the power-fail path finds it, before its ports go dark (R466). -/
def failLogged (vin : Nat) (s : State) : State :=
  onPower (fun w => { w with phase := .failPath, powered := false, vin := vin, belowOff := belowUvlo vin s }) s
    |> raise 0x0104 28 0 0 ([0, 0] ++ natBE 2 vin)
    |> freezeLog 2
    |> writeFailRecord s.log.frozen

theorem powerFail_eq (vin : Nat) (s : State) : powerFail vin s =
    onCtrl (fun c => { c with stage := .power, pcieUp := false }) (onPower (fun w => { w with picRails := [], rail := 620 })
      (lanesIdle (allDark (failLogged vin s)))) := rfl

theorem failLogged_power (vin : Nat) (s : State) : (failLogged vin s).power =
    { s.power with phase := .failPath, powered := false, vin := vin, belowOff := belowUvlo vin s } := by
  have hrec (b : Bool) (u : State) : (writeFailRecord b u).power = u.power := by
    obtain ⟨f, hf, -⟩ := writeFailRecord_keeps b u
    rw [hf, onLog_power]
  have hfreeze (u : State) : (freezeLog 2 u).power = u.power := within_freezeLog 2 u .power (by simp)
  unfold failLogged
  rw [hrec, hfreeze]
  rfl

theorem powerFail_power (vin : Nat) (s : State) : (powerFail vin s).power.phase = .failPath
    ∧ (powerFail vin s).power.powered = false := by
  have hdark : (lanesIdle (allDark (failLogged vin s))).power = (failLogged vin s).power :=
    show Part.power.same _ _ by simp [allDark]
  rw [powerFail_eq, onCtrl_power, onPower_power, hdark, failLogged_power]
  exact ⟨rfl, rfl⟩

theorem powerFail_frozen (vin : Nat) (h : s.log.frozen = false) : FrozenFor 2 (powerFail vin s) := by
  have hlogged : FrozenFor 2 (failLogged vin s) :=
    frozenFor_writeFailRecord s.log.frozen (frozenFor_freezeLog 2 ((raise_frozen ..).trans h))
  exact frozenFor_of_same (by simp [powerFail_eq]) (frozenFor_allDark hlogged)

theorem powerFail_dark (vin : Nat) {p : Nat} (hp : p < 6) (s : State) :
    transmitting (powerFail vin s) p = false ∧ receiving (powerFail vin s) p = false := by
  have hclosed : Closed (powerFail vin s) p := by
    unfold Closed
    rw [txPort_congr (s := allDark (failLogged vin s)) (by simp [powerFail_eq]),
      rxPort_congr (s := allDark (failLogged vin s)) (by simp [powerFail_eq])]
    exact closed_allDark hp _
  exact hclosed.dark

/-! VIN too low, too high, or near a limit (R461, R462, R467). -/

theorem vinRise_low {vin : Nat} (h : vin < 3400) (role : Bool) (addr : Nat) (s : State) : vinRise vin role addr s = s := by
  have hlow : decide (vin < uvloOn) = true := decide_eq_true h
  simp [vinRise, hlow]

theorem powerOn_switchOpen (vin : Nat) (role : Bool) (addr : Nat) (s : State) :
    (powerOn vin role addr s).power.switchOpen = false := by
  have hunits : (forAll restoreUnit s.flt.fldRetired (blank role s)).power = (blank role s).power :=
    within_restoreUnits _ _ .power (by simp [retireParts])
  have hkept : (powerOn vin role addr s).power.switchOpen
      = (forAll restoreUnit s.flt.fldRetired (blank role s)).power.switchOpen := rfl
  rw [hkept, hunits]
  rfl

theorem ovShutdown_open {vin : Nat} (h : 7800 ≤ vin) (s : State) : (ovShutdown vin s).power.switchOpen = true
    ∧ (s.power.phase = .softStart → (ovShutdown vin s).power.phase = .off) := by
  have hlow : ¬ vin < ovShutdownAt := Nat.not_lt.mpr h
  rw [ovShutdown, if_neg hlow]
  refine ⟨?_, fun hsoft => by simp [hsoft]⟩
  dsimp only
  split <;> rfl

end Sys2Proof.Machine
end

section
/-! SUPPORT and PROOF of O54: warm restart (R80 to R82/02, R399/13), port reset (R471/18), and the statement. -/
namespace Sys2Proof.Machine

variable {s t u : State}

/-! Warm restart (R80). -/

@[simp] theorem same_onFlt {q : Part} (f : Faults → Faults) (h : q ∉ [Part.flt]) : q.same s (onFlt f t) ↔ q.same s t :=
  same_iff_of_within h (within_onFlt f t)

/-- The parts that the start of a warm restart changes. -/
theorem within_warmStart (s : State) : Within [.fw, .ctrl, .flt, .pair, .ev, .therm, .log] s (warmStart s) := by
  intro q hq
  simp only [List.mem_cons, List.not_mem_nil, or_false, not_or] at hq
  simp [warmStart, hq]

theorem warmStart_ctrl (s : State) : (warmStart s).ctrl = { s.ctrl with
    stage := .restart, restarts := min 15 (s.ctrl.restarts + 1), running := 0, fwVersion := 0
    fallback := imageToRun s.fw != s.fw.active } :=
  onlyIf_apply (·.ctrl) _ (show Part.ctrl.same _ _ by simp)

theorem warmStart_fw (s : State) : (warmStart s).fw =
    { s.fw with warmDue := false, trying := imageToRun s.fw, otherTried := false } :=
  onlyIf_apply (·.fw) _ (show Part.fw.same _ _ by simp)

theorem exec_warmRestartStart (hdue : s.fw.warmDue = true) (hbox : mailboxesWork s = true) (hready : s.ctrl.stage = .ready) :
    exec .warmRestartStart s = .next (warmStart s) := by
  change Host.Outcome.next (onlyIf (s.fw.warmDue && mailboxesWork s) _ s) = _
  rw [hdue, hbox]
  simp [hready]

@[simp] theorem same_onUnitRec {q : Part} (k : Nat) (f : UnitRec → UnitRec) (h : q ∉ [Part.flt]) :
    q.same s (onUnitRec k f t) ↔ q.same s t := same_iff_of_within h (within_onUnitRec k f t)

@[simp] theorem same_coresRun {q : Part} (h : q ∉ [Part.flt]) : q.same s (coresRun t) ↔ q.same s t := by
  simp_all [coresRun, retryDone]

/-- The restarted firmware, before a stand-in resynchronizes. -/
def firmwareUp (s : State) : State :=
  onCtrl (fun c => { c with running := s.fw.trying, fwVersion := (slotOf s.fw s.fw.trying).version }) s
    |> onFw (fun f => { f with trying := 0 })
    |> coresRun

theorem firmwareRuns_eq (s : State) : firmwareRuns s = onlyIf (isStandIn s && s.pair.up) startResync (firmwareUp s) := rfl

theorem within_firmwareUp (s : State) : Within [.ctrl, .fw, .flt] s (firmwareUp s) := by
  intro q hq
  simp only [List.mem_cons, List.not_mem_nil, or_false, not_or] at hq
  simp [firmwareUp, hq]

theorem within_firmwareRuns (s : State) : Within [.ctrl, .fw, .flt, .svc, .pair] s (firmwareRuns s) :=
  ((within_firmwareUp s).andThen (within_onlyIf _ _ (within_startResync _))).mono (by simp)

theorem firmwareRuns_ctrl (s : State) : (firmwareRuns s).ctrl =
    { s.ctrl with running := s.fw.trying, fwVersion := (slotOf s.fw s.fw.trying).version } := by
  have hcores (u : State) : (coresRun u).ctrl = u.ctrl := show Part.ctrl.same _ _ by simp
  have hresync : (startResync (firmwareUp s)).ctrl = (firmwareUp s).ctrl := within_startResync _ .ctrl (by simp)
  rw [firmwareRuns_eq, onlyIf_apply (·.ctrl) _ hresync, firmwareUp, hcores]
  rfl

theorem startResync_pair (s : State) : (startResync s).pair =
    { s.pair with inStep := false, resync := 1, resyncAt := upTime s, matched := 0, decisions := [] } := by
  have htribs (u : State) (l : List Nat) : (forAll (fun t => onTribOf t (fun x => { x with emptyKnown := false })) l u).pair
      = u.pair := within_forAll _ _ (fun _ _ => within_onTribOf _ _ _) u .pair (by simp)
  unfold startResync
  rw [htribs]
  rfl

/-- The end of a warm restart, but for the event that reports it. -/
def warmReady (s : State) : State := bootMarker (onCtrl (fun c => { c with stage := .ready }) (firmwareRuns s))

theorem warmDone_eq (s : State) : warmDone s =
    raise 0x0F00 10 0 0 (natBE 4 (slotOf s.fw s.fw.trying).version.toNat) (warmReady s) := by
  have hctrl : (warmReady s).ctrl.fwVersion = (firmwareRuns s).ctrl.fwVersion := rfl
  have hdone : warmDone s = raise 0x0F00 10 0 0 (natBE 4 (warmReady s).ctrl.fwVersion.toNat) (warmReady s) := rfl
  rw [hdone, hctrl, firmwareRuns_ctrl]

/-- The end of a warm restart follows the firmware's start with STAGE, the boot marker and the event. -/
theorem within_warmDone_firmwareRuns (s : State) : Within [.ctrl, .ev, .log] (firmwareRuns s) (warmDone s) := by
  intro q hq
  simp only [List.mem_cons, List.not_mem_nil, or_false, not_or] at hq
  simp [warmDone_eq, warmReady, bootMarker, hq]

theorem within_warmDone (s : State) : Within [.ctrl, .fw, .flt, .svc, .pair, .ev, .log] s (warmDone s) :=
  ((within_firmwareRuns s).andThen (within_warmDone_firmwareRuns s)).mono (by simp)

theorem warmDone_pair (s : State) : (warmDone s).pair = (firmwareRuns s).pair :=
  within_warmDone_firmwareRuns s .pair (by simp)

theorem warmDone_svc (s : State) : (warmDone s).svc = (firmwareRuns s).svc :=
  within_warmDone_firmwareRuns s .svc (by simp)

theorem firmwareRuns_resync (h : (isStandIn s && s.pair.up) = true) : firmwareRuns s = startResync (firmwareUp s) := by
  rw [firmwareRuns_eq, h, onlyIf_true]

theorem firmwareRuns_alone (h : (isStandIn s && s.pair.up) = false) : firmwareRuns s = firmwareUp s := by
  rw [firmwareRuns_eq, h, onlyIf_false]

theorem warmDone_ctrl (s : State) : (warmDone s).ctrl = { (firmwareRuns s).ctrl with stage := .ready } := by
  rw [warmDone_eq]
  rfl

theorem exec_warmRestartDone (hstage : s.ctrl.stage = .restart) (hbox : mailboxesWork s = true) :
    exec .warmRestartDone s = .next (warmDone s) := by
  change Host.Outcome.next (onlyIf (mailboxesWork s) _ s) = _
  rw [hbox]
  simp [hstage]

/-! Port reset (R471). -/

theorem onPort_ok {body : Nat → Req → State → Reply} {r : Req} (h : okPort (r.u 0 1) = true) :
    onPort body r s = body (r.u 0 1) r s := if_pos h

theorem portReset_dark {r : Req} {lo : Int} (hport : okPort (r.u 0 1) = true) (hfree : enabling s (r.u 0 1) = false)
    (hdark : portLit s (r.u 0 1) = false) : portReset lo r s = okay (emptyPort (r.u 0 1) s) := by
  obtain ⟨htx, hrx⟩ := Bool.or_eq_false_iff.mp hdark
  rw [portReset, onPort_ok hport]
  simp [hfree, htx, hrx]

theorem portReset_lit {r : Req} {lo : Int} (hport : okPort (r.u 0 1) = true) (hfree : enabling s (r.u 0 1) = false)
    (hlit : portLit s (r.u 0 1) = true) : portReset lo r s = { defer r (r.u 0 1) s with
      st := reenable (r.u 0 1) lo (transmitting s (r.u 0 1)) (receiving s (r.u 0 1))
        (emptyPort (r.u 0 1) (portDark (r.u 0 1) (defer r (r.u 0 1) s).st)) } := by
  rw [portReset, onPort_ok hport]
  rcases Bool.or_eq_true_iff.mp hlit with h | h <;> simp [hfree, h]

theorem zeroFec_debt (p : Nat) (s : State) : (fecPort (zeroFec p s) p).debt = [] := by
  have hraise (c : Bool) (u : State) : fecPort (onlyIf c (raisePort 0x020D p [byteOf p]) u) p = fecPort u p :=
    onlyIf_apply (fecPort · p) c rfl
  unfold zeroFec
  rw [hraise, fecPort_same]
  rfl

theorem emptyPort_fifo (p : Nat) (s : State) : fifoOf (emptyPort p s) (fifoKey (.stream (.adcToCore p))) = {} := by
  have hfec (u : State) : fifoOf (zeroFec p u) (fifoKey (.stream (.adcToCore p))) = fifoOf u (fifoKey (.stream (.adcToCore p))) := by
    have hcross : (zeroFec p u).cross = u.cross := show Part.cross.same _ _ by simp
    rw [fifoOf, hcross, fifoOf]
  have hother (u : State) : fifoOf (emptyFifo (.stream (.coreToDac p)) u) (fifoKey (.stream (.adcToCore p)))
      = fifoOf u (fifoKey (.stream (.adcToCore p))) :=
    fifoOf_other _ _ (by simp [fifoKey, streamKey])
  unfold emptyPort
  rw [hfec, hother, emptyFifo_fifoOf]

@[simp] theorem same_emptyStream {q : Part} (x : Stream) (h : q ∉ [Part.cross]) :
    q.same s (emptyFifo (.stream x) t) ↔ q.same s t := by cases q <;> simp_all [Part.same, emptyFifo, discardWords]

@[simp] theorem same_emptyPort {q : Part} (p : Nat) (h : q ∉ [Part.cross, .fecp, .ev, .log]) :
    q.same s (emptyPort p t) ↔ q.same s t := by simp_all [emptyPort]

theorem closed_portDark (p : Nat) (s : State) : Closed (portDark p s) p := by
  have hrx (c : Bool) (u : State) : txPort (onlyIf c (closeRx p) u) p = txPort u p :=
    onlyIf_apply (txPort · p) c (txPort_congr (by simp) p)
  unfold portDark Closed
  constructor
  · rw [hrx, closeTx_unless_off_tx, if_pos rfl]
  · exact (closeRx_unless_off_st p p _).trans (if_pos rfl)

@[simp] theorem same_relit {q : Part} (sc : Nat) (h : q ∉ [Part.frame, .fecs]) : q.same s (relit sc t) ↔ q.same s t := by
  cases q <;> simp_all [Part.same, relit]

@[simp] theorem same_startRx {q : Part} (p : Nat) (lo : Int) (h : q ∉ [Part.rxp, .rxs, .frame, .fecs, .power]) :
    q.same s (startRx p lo t) ↔ q.same s t := by simp_all [startRx]

theorem rxPort_startRx (p : Nat) (lo : Int) (s : State) : rxPort (startRx p lo s) p =
    { rxPort s p with st := .calibrate, acq := 0, loTap := loReading s p lo } := by
  rw [rxPort_congr (s := onRxPort p (fun r => { r with st := .calibrate, acq := 0, loTap := loReading s p lo }) s)
    (by simp [startRx]), rxPort_same]

theorem txPort_startTx (p : Nat) (lo : Int) (s : State) : txPort (startTx p lo s) p = { txPort s p with
    tx := .starting, bias := 1, attn := 350, attnFrom := 350, drivers := true, loTap := loReading s p lo } := by
  rw [txPort_congr (s := onTxPort p (fun t => { t with
    tx := .starting, bias := 1, attn := 350, attnFrom := 350, drivers := true, loTap := loReading s p lo }) s)
    (by simp [startTx]), txPort_same]

@[simp] theorem same_startTx {q : Part} (p : Nat) (lo : Int) (h : q ∉ [Part.txp, .power]) :
    q.same s (startTx p lo t) ↔ q.same s t := by simp_all [startTx]

/-- A port whose directions are both off, re-enabled: neither is back yet, and each one that was on is to come back. -/
theorem reenable_starts (p : Nat) (lo : Int) (tx rx : Bool) (h : Closed s p) :
    (txPort (reenable p lo tx rx s) p).tx ≠ .on ∧ (rxPort (reenable p lo tx rx s) p).st ≠ .track
      ∧ (txPort (reenable p lo tx rx s) p).resetOn = tx ∧ (rxPort (reenable p lo tx rx s) p).resetOn = rx := by
  have htx (c : Bool) (u : State) : txPort (onlyIf c (startRx p lo) u) p = txPort u p :=
    onlyIf_apply (txPort · p) c (txPort_congr (by simp) p)
  have hrx (c : Bool) (u : State) : rxPort (onlyIf c (startTx p lo) u) p = rxPort u p :=
    onlyIf_apply (rxPort · p) c (rxPort_congr (by simp) p)
  have htx0 (f : RxPort → RxPort) (u : State) : txPort (onRxPort p f u) p = txPort u p := txPort_congr (by simp) p
  have hrx0 (f : TxPort → TxPort) (u : State) : rxPort (onTxPort p f u) p = rxPort u p := rxPort_congr (by simp) p
  obtain ⟨hoff, hst⟩ := h
  have htxNew : (txPort (reenable p lo tx rx s) p).tx ≠ .on ∧ (txPort (reenable p lo tx rx s) p).resetOn = tx := by
    unfold reenable
    rw [htx]
    unfold onlyIf
    split
    · rw [txPort_startTx, htx0, txPort_same]
      exact ⟨by simp, rfl⟩
    · rw [htx0, txPort_same]
      exact ⟨by simp [hoff], rfl⟩
  have hrxNew : (rxPort (reenable p lo tx rx s) p).st ≠ .track ∧ (rxPort (reenable p lo tx rx s) p).resetOn = rx := by
    unfold reenable
    generalize hu : onlyIf (tx && feedGood s p lo) (startTx p lo) (onRxPort p (fun r => { r with resetOn := rx })
      (onTxPort p (fun t => { t with resetOn := tx }) s)) = u
    have hkept : rxPort u p = { rxPort s p with resetOn := rx } := by rw [← hu, hrx, rxPort_same, hrx0]
    unfold onlyIf
    split
    · rw [rxPort_startRx, hkept]
      exact ⟨by simp, rfl⟩
    · rw [hkept]
      exact ⟨by simp [hst], rfl⟩
  exact ⟨htxNew.1, hrxNew.1, htxNew.2, hrxNew.2⟩

theorem portResetDone_back {p : Nat} {ok : Bool} {d : Deferred} (hd : findDeferred s 0x0211 p = some d)
    (hback : portBack s p = true) : portResetDone p ok s = onRxPort p (fun r => { r with resetOn := false })
      (onTxPort p (fun t => { t with resetOn := false }) (commandDone d .ok s)) := by
  simp [portResetDone, resetting, finishDeferred, hd, hback]

theorem commandDone_ok_deferred (d : Deferred) (s : State) :
    (commandDone d .ok s).ctrl.deferred = s.ctrl.deferred.erase d :=
  (congrArg Ctrl.deferred (onlyIf_apply (·.ctrl) _ (mirror_ctrl ..))).trans rfl

theorem logged_commandDone (d : Deferred) (c : Code) (s : State) :
    Logged 0x0100 0 (natBE 2 d.op ++ [byteOf (codeNum c)]) (commandDone d c s) := by
  unfold commandDone
  refine (logged_congr (onlyIf_apply (·.log) _ ?_)).mpr (logged_raise ..)
  exact within_mirror _ _ .log (by simp)

/-- Settles O54: the resets and the power-fail path, then the restarts and the port reset. -/
theorem resetsAndPowerFail : Obligations.ResetsAndPowerFail := by
  unfold Obligations.ResetsAndPowerFail
  refine ⟨⟨fun low s hlow hgood => ?_, fun role s hheld hgood => ?_, fun role s hdue hbox => ?_,
    fun vin s hgood hvin hfrozen => ?_, fun vin addr role s hpath hvin => ?_, fun vin s hvin => ?_,
    fun vin addr role s hopen hon hrel hoff => ?_, fun vin s hpow hnew => ?_⟩,
    fun s hdue hbox hready => ?_, fun s hstage hbox => ?_,
    fun mb lo s acc hport hfree => ⟨fun hdark => ?_, fun hlit => ?_⟩, fun p ok d s hport hd hback => ?_⟩
  · have hfw := resetModule_fw s.power.rolePin (useFree s)
    refine runs_of_next rfl (resetAssert_good hlow hgood) ?_
    rw [onPower_ctrl, onPower_ev, onPower_fw, resetModule_ctrl, resetModule_ev, hfw]
    refine ⟨rfl, hgood, rfl, rfl, rfl, rfl, rfl, rfl, rfl, fun p => closed_resetModule _ p _, ?_⟩
    intro typ idx _ hidx h6 h7 hret
    exact resetModule_retired (s := useFree s) hidx h6 h7 hret _
  · have hrun : exec (.resetNRelease role) s = .next (startBoot (onPair (fun p => { p with role := if role then 3 else 0 })
        (onPower (fun w => { w with resetHeld := false, rolePin := role }) s))) := by
      change Host.Outcome.next (onlyIf s.power.resetHeld (resetRelease role) s) = _
      simp [hheld, resetRelease, hgood]
    exact runs_of_exec hrun ⟨rfl, rfl, rfl, rfl⟩
  · have hrun : exec (.sysResetDelayEnd role) s = .next (startBoot (resetModule role s)) := by
      change Host.Outcome.next (onlyIf (s.ctrl.resetDue && mailboxesWork s) (resetAndBoot role) s) = _
      rw [hdue, hbox]
      rfl
    have hboot : (startBoot (resetModule role s)).ctrl = { (resetModule role s).ctrl with
      stage := .rom, fallback := false, running := 0, fwVersion := 0 } := rfl
    have htry : (startBoot (resetModule role s)).fw.trying = (resetModule role s).fw.active := rfl
    refine runs_of_exec hrun ?_
    rw [hboot, htry, resetModule_ctrl, resetModule_fw]
    exact ⟨rfl, rfl, rfl, rfl, fun p => closed_resetModule role p s⟩
  · have hrun : exec (.powerFailDetect vin) s = .next (powerFail vin s) := by
      have hlow : decide (vin < powerFailAt) = true := decide_eq_true hvin
      change Host.Outcome.next (onlyIf (s.power.phase == .good && (belowUvlo vin s || decide (vin < powerFailAt))) _ s) = _
      simp [hgood, hlow]
    obtain ⟨hphase, hpow⟩ := powerFail_power vin s
    obtain ⟨hfroze, hcause⟩ := powerFail_frozen vin hfrozen
    exact runs_of_exec hrun ⟨hphase, hpow, hfroze, hcause, fun p hp => powerFail_dark vin hp s⟩
  · have hrun : exec (.powerFailPathEnd vin role addr) s = .next (pathEnd vin role addr s) := by
      change Host.Outcome.next (onlyIf (s.power.phase == .failPath) _ s) = _
      simp [hpath]
    refine runs_of_next hrun (vinRise_low hvin role addr _) ⟨rfl, (Bool.or_assoc ..).symm⟩
  · exact runs_of_exec rfl (ovShutdown_open hvin s)
  · have hrun : exec (.ovRecover vin role addr) s = .next (ovRecover vin role addr s) := by
      have hlow : decide (vin < ovRelease) = true := decide_eq_true hrel
      change Host.Outcome.next (onlyIf (s.power.switchOpen && decide (vin < ovRelease)) _ s) = _
      simp [hopen, hlow]
    have hclosed := vinRise_off (s := onPower (fun w => { w with vin := vin, switchOpen := false }) s) hon hoff rfl role addr
    exact runs_of_next hrun hclosed ⟨powerOn_switchOpen .., rfl⟩
  · have hrun : exec (.vinWarnTimer vin) s = .next (vinWarn vin s) := by
      change Host.Outcome.next (onlyIf s.power.powered _ s) = _
      rw [hpow, onlyIf_true]
    have hwarn : vinWarn vin s = raise 0x0103 28 0 0 ([byteOf (vinWarnOf vin s.power.vinWarn), 0] ++ natBE 2 vin)
        (onPower (fun w => { w with vin := vin, vinWarn := vinWarnOf vin s.power.vinWarn }) s) := by
      rw [vinWarn, bne_iff_ne.mpr hnew, onlyIf_true]
    exact runs_of_next hrun hwarn ⟨rfl, logged_raise ..⟩
  · have hsame {q : Part} (hq : q ∉ [Part.fw, .ctrl, .flt, .pair, .ev, .therm, .log]) : q.same s (warmStart s) :=
      within_warmStart s q hq
    refine runs_of_exec (exec_warmRestartStart hdue hbox hready) ?_
    rw [warmStart_ctrl, warmStart_fw]
    exact ⟨rfl, rfl, rfl, rfl, hsame (q := .txp) (by simp), hsame (q := .rxp) (by simp), hsame (q := .bulk) (by simp),
      hsame (q := .cipher) (by simp), hsame (q := .svc) (by simp), hsame (q := .cues) (by simp)⟩
  · have hsame {q : Part} (hq : q ∉ [Part.ctrl, .fw, .flt, .svc, .pair, .ev, .log]) : q.same s (warmDone s) :=
      within_warmDone s q hq
    refine runs_of_exec (exec_warmRestartDone hstage hbox) ?_
    rw [warmDone_ctrl, firmwareRuns_ctrl, warmDone_pair, warmDone_svc]
    refine ⟨rfl, rfl, warmDone_eq s ▸ logged_raise .., hsame (q := .txp) (by simp), hsame (q := .rxp) (by simp),
      hsame (q := .bulk) (by simp), hsame (q := .cipher) (by simp), fun hstand hup => ?_, fun halone => ?_⟩
    · rw [firmwareRuns_resync (by rw [hstand, hup]; rfl), startResync_pair]
      exact ⟨rfl, rfl⟩
    · rw [firmwareRuns_alone halone]
      exact ⟨within_firmwareUp s .svc (by simp), within_firmwareUp s .pair (by simp)⟩
  · refine runs_mailbox acc rfl ?_
    rw [portReset_dark hport hfree hdark]
    refine ⟨answered_of_accepted acc rfl, ?_, ?_⟩
    · rw [fecPort, respond_same (q := .fecp) _ _ (by simp)]
      exact zeroFec_debt _ _
    · rw [fifoOf, respond_same (q := .cross) _ _ (by simp)]
      exact emptyPort_fifo _ s
  · refine runs_mailbox acc rfl ?_
    rw [portReset_lit hport hfree hlit]
    have hclosed (u : State) (p : Nat) : Closed (emptyPort p (portDark p u)) p := by
      unfold Closed
      rw [txPort_congr (s := portDark p u) (by simp), rxPort_congr (s := portDark p u) (by simp)]
      exact closed_portDark p u
    refine ⟨answered_of_accepted acc rfl, ?_⟩
    rw [txPort_congr (respond_same _ _ (q := .txp) (by simp)), rxPort_congr (respond_same _ _ (q := .rxp) (by simp))]
    exact reenable_starts _ lo _ _ (hclosed _ _)
  · have hrun : exec (.portResetDone p ok) s = .next (portResetDone p ok s) := by
      change need "port" (okPort p) _ = _
      rw [hport]
      rfl
    refine runs_of_next hrun (portResetDone_back hd hback) ⟨?_, ?_, commandDone_ok_deferred d s, ?_⟩
    · rw [txPort_congr (s := onTxPort p (fun t => { t with resetOn := false }) (commandDone d .ok s)) (by simp), txPort_same]
    · rw [rxPort_same]
    · exact logged_commandDone d .ok s

end Sys2Proof.Machine
end

section
/-! SUPPORT and PROOF of O56: what the I2C path reaches (R46, R47/02). -/
namespace Sys2Proof.Machine

variable {s t u : State} {off : Nat} {val : Word}

theorem i2cReaches_iff : i2cReaches off = true ↔ off < 0x0500 ∨ (0x0F00 ≤ off ∧ off < 0x1000) := by
  simp [i2cReaches]

theorem bar0Read_unreached {path : Path} (h : reaches path off s = false) : bar0Read path off s = 0 := if_pos h

/-- A register's value does not depend on the path that reads it, but for the timecode captures. -/
theorem bar0Read_path {p q : Path} (hp : reaches p off s = true) (hq : reaches q off s = true)
    (hcap : off < 0x0410 ∨ 0x0420 ≤ off) : bar0Read p off s = bar0Read q off s := by
  simp only [bar0Read, hp, hq, Bool.true_eq_false, if_false]
  refine if_congr Iff.rfl rfl (if_congr Iff.rfl rfl ?_)
  split
  case h_22 | h_23 | h_24 | h_25 => omega
  all_goals rfl

/-! A write of one aligned word on the I2C path (R47). -/

/-- The four bytes of an aligned word that is written whole are the transaction's own. -/
theorem i2cBytes_word (off : Nat) {data : List Byte} (hlen : data.length = 4) : i2cBytes off data off = data.map some := by
  obtain ⟨a, b, c, d, rfl⟩ := List.length_eq_four.mp hlen
  have hge (k : Nat) : ¬ off + k < off := by omega
  have hsub (k : Nat) : off + k - off = k := by omega
  simp [i2cBytes, List.range_succ, hge, hsub]

theorem i2cWord_whole (off : Nat) (val : Word) (s : State) : i2cWord off (natBE 4 val.toNat) off s = val := by
  have hlen := natBE_length 4 val.toNat
  have hval : beNat (natBE 4 val.toNat) = val.toNat := by
    rw [beNat_natBE]
    exact Nat.mod_eq_of_lt val.isLt
  have hbytes (b : Byte → Nat → Byte) : (List.range 4).map (fun k =>
      ((i2cBytes off (natBE 4 val.toNat) off).getD k none).getD (b 0 k)) = natBE 4 val.toNat := by
    rw [i2cBytes_word off hlen]
    obtain ⟨x0, x1, x2, x3, hx⟩ := List.length_eq_four.mp hlen
    rw [hx]
    rfl
  unfold i2cWord
  dsimp only
  rw [hbytes (fun _ k => if keepsBytes off then (natBE 4 (bar0Read .i2c off s).toNat).getD k 0 else 0), getU, field,
    List.drop_zero, List.take_of_length_le hlen.le, hval, BitVec.ofNat_toNat, BitVec.setWidth_eq]

theorem exec_registerWrite_i2c {s : State} (hoff : okOffset off = true) (hreach : reaches .i2c off s = true) (val : Word) :
    exec (.registerWrite (.i2c (i2cAddress s) off (natBE 4 val.toNat))) s = .next (regWrite .i2c off val s) := by
  obtain ⟨hlt, halign⟩ := okOffset_lt hoff
  have hok : okAccess (.i2c (i2cAddress s) off (natBE 4 val.toNat)) = true := by simp [okAccess, i2cAddress_lt, hlt]
  have hone : (off % 4 + (natBE 4 val.toNat).length + 3) / 4 = 1 := by rw [natBE_length]; omega
  have hword : 4 * (off / 4 + 0) = off := by omega
  have hdata : (i2cAddress s == i2cAddress s && !(natBE 4 val.toNat).isEmpty) = true := by
    simp [← List.length_eq_zero_iff]
  change execRegisterWrite (.i2c (i2cAddress s) off (natBE 4 val.toNat)) s = _
  simp only [execRegisterWrite, hok, need_true, accessWrite, i2cWrite, hdata, onlyIf_true, hone, List.range_one, forAll,
    hword, Nat.mod_eq_of_lt hlt, hreach, i2cWord_whole]

/-- A transaction at another module's address is not for this one. -/
theorem exec_registerWrite_i2c_elsewhere {addr : Nat} {data : List Byte} (haddr : addr < 128) (hother : addr ≠ i2cAddress s)
    (hoff : off < 65536) : exec (.registerWrite (.i2c addr off data)) s = .next s := by
  have hok : okAccess (.i2c addr off data) = true := by simp [okAccess, haddr, hoff]
  have hnot : (addr == i2cAddress s && !data.isEmpty) = false := by simp [hother]
  change execRegisterWrite (.i2c addr off data) s = _
  simp only [execRegisterWrite, hok, need_true, accessWrite, i2cWrite, hnot, onlyIf_false]

/-- Below the mailboxes, the doorbell and the owner register apart, a register takes the same from either path. -/
theorem regWrite_path (p q : Path) (hlow : off < 0x0500) (hbell : off ≠ 0x0200) (howner : off ≠ 0x0210) :
    regWrite p off val s = regWrite q off val s := by
  have hmail : ¬ (0x0800 ≤ off ∧ off < 0x1000) := by omega
  simp only [regWrite, hbell, howner, hmail, if_false]

/-- Settles O56: what is read by the offset, what is written by the word, and the address. -/
theorem i2cReachesTheMarkedBlocks : Obligations.I2cReachesTheMarkedBlocks := by
  unfold Obligations.I2cReachesTheMarkedBlocks
  intro off val s
  refine ⟨fun hout => ?_, fun hin hi2c hpcie hcap => ?_, fun hlow hok hbell howner hi2c hpcie => ?_, fun addr data => ?_⟩
  · have hnot : i2cReaches off = false := Bool.eq_false_iff.mpr (i2cReaches_iff.not.mpr hout)
    exact ⟨bar0Read_unreached (reaches_i2c_beyond hnot s), fun hok => exec_registerWrite_i2c_beyond hok hnot val s⟩
  · have hreach : reaches .i2c off s = true := by simp [reaches, hi2c, i2cReaches_iff.mpr hin]
    exact bar0Read_path hreach ((reaches_pcie off s).trans hpcie) hcap
  · have hreach : reaches .i2c off s = true := by simp [reaches, hi2c, i2cReaches_iff.mpr (.inl hlow)]
    refine ⟨regWrite .i2c off val s, exec_registerWrite_i2c hok hreach val, ?_⟩
    rw [exec_registerWrite_pcie hok hpcie, regWrite_path .i2c .pcie hlow hbell howner]
  · exact exec_registerWrite_i2c_elsewhere

end Sys2Proof.Machine
end

section
/-! SUPPORT of O58: what leaves the line state of the other ports as it is. One lemma for each function of the state that
a line command runs, in the order of the model; a function of a subcarrier leaves the other ports where the subcarrier
is one of the port, a command's body where its request names the port. -/
namespace Sys2Proof.Machine

/-- The line state of every port but `p`, and of the subcarriers of every port but `p`. -/
def elsewhere (p : Nat) (s : State) : (Nat → Option (TxPort × RxPort × FecPort × HubPort × FrPort))
    × (Nat → Option (TxSc × RxSc × FecSc × TxFrame × RxFramer)) :=
  (fun q => if q = p then none else some (txPort s q, rxPort s q, fecPort s q, hubPort s q, frPort s q),
    fun sc => if scPort sc = p then none else some (txSc s sc, rxSc s sc, fecSc s sc, txFrame s sc, rxFramer s sc))

variable {p sc : Nat} {s t u : State}

theorem elsewhere_eq_iff : elsewhere p t = elsewhere p s ↔ OtherPortsKept p s t := by
  rw [elsewhere, elsewhere, Prod.mk.injEq, funext_iff, funext_iff, OtherPortsKept]
  refine and_congr (forall_congr' fun q => ?_) (forall_congr' fun k => ?_)
  · by_cases hq : q = p <;> simp [hq]
  · by_cases hk : scPort k = p <;> simp [hk]

theorem elsewhere_congr (h : (t.txp, t.txs, t.rxp, t.rxs, t.fecp, t.fecs, t.frame, t.hub)
    = (s.txp, s.txs, s.rxp, s.rxs, s.fecp, s.fecs, s.frame, s.hub)) : elsewhere p t = elsewhere p s := by
  simp only [Prod.mk.injEq] at h
  obtain ⟨htxp, htxs, hrxp, hrxs, hfecp, hfecs, hframe, hhub⟩ := h
  simp only [elsewhere, txPort, rxPort, fecPort, hubPort, frPort, txSc, rxSc, fecSc, txFrame, rxFramer, htxp, htxs,
    hrxp, hrxs, hfecp, hfecs, hframe, hhub]

/-- The parts of the state that hold line state. -/
def lineParts : List Part := [.txp, .txs, .rxp, .rxs, .fecp, .fecs, .frame, .hub]

/-- What changes no line state at all changes none of the other ports. -/
theorem elsewhere_of_within {ps : List Part} (h : Within ps s t) (hps : ∀ q ∈ lineParts, q ∉ ps) :
    elsewhere p t = elsewhere p s := by
  have hq (q : Part) (hm : q ∈ lineParts) : q.same s t := h q (hps q hm)
  simp only [lineParts, List.forall_mem_cons, Part.same] at hq
  obtain ⟨htxp, htxs, hrxp, hrxs, hfecp, hfecs, hframe, hhub, -⟩ := hq
  exact elsewhere_congr (by rw [htxp, htxs, hrxp, hrxs, hfecp, hfecs, hframe, hhub])

@[simp] theorem elsewhere_ite {c : Prop} [Decidable c] :
    elsewhere p (if c then t else u) = if c then elsewhere p t else elsewhere p u := apply_ite ..

@[simp] theorem elsewhere_onlyIf (c : Bool) (f : State → State) :
    elsewhere p (onlyIf c f s) = if c then elsewhere p (f s) else elsewhere p s := by cases c <;> rfl

theorem elsewhere_forAll_mem {α : Type} (f : α → State → State) (l : List α)
    (h : ∀ a ∈ l, ∀ u, elsewhere p (f a u) = elsewhere p u) : elsewhere p (forAll f l s) = elsewhere p s := by
  induction l generalizing s with
  | nil => rfl
  | cons a l ih => exact (ih fun b hb => h b (List.mem_cons_of_mem a hb)).trans (h a List.mem_cons_self s)

@[simp] theorem elsewhere_forAll {α : Type} (f : α → State → State) (l : List α)
    (h : ∀ a u, elsewhere p (f a u) = elsewhere p u) : elsewhere p (forAll f l s) = elsewhere p s :=
  elsewhere_forAll_mem f l fun a _ => h a

/-! The subcarriers of a port. -/

theorem mem_portScs : sc ∈ portScs p ↔ scPort sc = p := by
  simp only [portScs, scPort, List.mem_map, List.mem_range]
  constructor
  · rintro ⟨k, hk, rfl⟩
    omega
  · rintro rfl
    exact ⟨sc % 16, by omega, by omega⟩

@[simp] theorem scPort_mul_add {k : Nat} (h : k < 16) : scPort (16 * p + k) = p := by
  unfold scPort
  omega

@[simp] theorem elsewhere_forAll_portScs (f : Nat → State → State)
    (h : ∀ sc u, scPort sc = p → elsewhere p (f sc u) = elsewhere p u) :
    elsewhere p (forAll f (portScs p) s) = elsewhere p s :=
  elsewhere_forAll_mem f _ fun sc hsc u => h sc u (mem_portScs.1 hsc)

@[simp] theorem elsewhere_forAll_range (f : Nat → State → State)
    (h : ∀ k u, scPort (16 * p + k) = p → elsewhere p (f k u) = elsewhere p u) :
    elsewhere p (forAll f (List.range 16) s) = elsewhere p s :=
  elsewhere_forAll_mem f _ fun k hk u => h k u (scPort_mul_add (List.mem_range.1 hk))

@[simp] theorem elsewhere_forAll_maskList (f : Nat → State → State) (m : Nat)
    (h : ∀ k u, scPort (16 * p + k) = p → elsewhere p (f k u) = elsewhere p u) :
    elsewhere p (forAll f (maskList 16 m) s) = elsewhere p s :=
  elsewhere_forAll_mem f _ fun k hk u => h k u (scPort_mul_add (mem_maskList.1 hk).1)

/-! The tables. -/

@[simp] theorem elsewhere_onTxPort (f) : elsewhere p (onTxPort p f s) = elsewhere p s :=
  elsewhere_eq_iff.2 ⟨fun _ hq => ⟨txPort_other f s hq, rfl, rfl, rfl, rfl⟩,
    fun _ _ => ⟨rfl, rfl, rfl, rfl, rfl⟩⟩

@[simp] theorem elsewhere_onRxPort (f) : elsewhere p (onRxPort p f s) = elsewhere p s :=
  elsewhere_eq_iff.2 ⟨fun _ hq => ⟨rfl, rxPort_other f s hq, rfl, rfl, rfl⟩,
    fun _ _ => ⟨rfl, rfl, rfl, rfl, rfl⟩⟩

@[simp] theorem elsewhere_onFecPort (f) : elsewhere p (onFecPort p f s) = elsewhere p s :=
  elsewhere_eq_iff.2 ⟨fun _ hq => ⟨rfl, rfl, fecPort_other f s hq, rfl, rfl⟩,
    fun _ _ => ⟨rfl, rfl, rfl, rfl, rfl⟩⟩

@[simp] theorem elsewhere_onHubPort (f) : elsewhere p (onHubPort p f s) = elsewhere p s :=
  elsewhere_eq_iff.2 ⟨fun _ hq => ⟨rfl, rfl, rfl, hubPort_other f s hq, rfl⟩,
    fun _ _ => ⟨rfl, rfl, rfl, rfl, rfl⟩⟩

@[simp] theorem elsewhere_onFrPort (f) : elsewhere p (onFrPort p f s) = elsewhere p s :=
  elsewhere_eq_iff.2 ⟨fun _ hq => ⟨rfl, rfl, rfl, rfl, frPort_other f s hq⟩,
    fun _ _ => ⟨rfl, rfl, rfl, rfl, rfl⟩⟩

section
variable (h : scPort sc = p)
include h

theorem ne_of_scPort_ne {k : Nat} (hk : scPort k ≠ p) : k ≠ sc := by
  rintro rfl
  exact hk h

@[simp] theorem elsewhere_onTxSc (f) : elsewhere p (onTxSc sc f s) = elsewhere p s :=
  elsewhere_eq_iff.2 ⟨fun _ _ => ⟨rfl, rfl, rfl, rfl, rfl⟩,
    fun _ hk => ⟨txSc_other f s (ne_of_scPort_ne h hk), rfl, rfl, rfl, rfl⟩⟩

@[simp] theorem elsewhere_onRxSc (f) : elsewhere p (onRxSc sc f s) = elsewhere p s :=
  elsewhere_eq_iff.2 ⟨fun _ _ => ⟨rfl, rfl, rfl, rfl, rfl⟩,
    fun _ hk => ⟨rfl, rxSc_other f s (ne_of_scPort_ne h hk), rfl, rfl, rfl⟩⟩

@[simp] theorem elsewhere_onFecSc (f) : elsewhere p (onFecSc sc f s) = elsewhere p s :=
  elsewhere_eq_iff.2 ⟨fun _ _ => ⟨rfl, rfl, rfl, rfl, rfl⟩,
    fun _ hk => ⟨rfl, rfl, fecSc_other f s (ne_of_scPort_ne h hk), rfl, rfl⟩⟩

@[simp] theorem elsewhere_onTxFrame (f) : elsewhere p (onTxFrame sc f s) = elsewhere p s :=
  elsewhere_eq_iff.2 ⟨fun _ _ => ⟨rfl, rfl, rfl, rfl, rfl⟩,
    fun _ hk => ⟨rfl, rfl, rfl, txFrame_other f s (ne_of_scPort_ne h hk), rfl⟩⟩

@[simp] theorem elsewhere_onRxFramer (f) : elsewhere p (onRxFramer sc f s) = elsewhere p s :=
  elsewhere_eq_iff.2 ⟨fun _ _ => ⟨rfl, rfl, rfl, rfl, rfl⟩,
    fun _ hk => ⟨rfl, rfl, rfl, rfl, rxFramer_other f s (ne_of_scPort_ne h hk)⟩⟩

end

@[simp] theorem elsewhere_onPmObj (k f) : elsewhere p (onPmObj k f s) = elsewhere p s :=
  elsewhere_eq_iff.2 ⟨fun _ _ => ⟨rfl, rfl, rfl, rfl, rfl⟩, fun _ _ => ⟨rfl, rfl, rfl, rfl, rfl⟩⟩

@[simp] theorem elsewhere_onTribOf (k f) : elsewhere p (onTribOf k f s) = elsewhere p s := elsewhere_congr rfl
@[simp] theorem elsewhere_onSlotOwner (k f) : elsewhere p (onSlotOwner k f s) = elsewhere p s := elsewhere_congr rfl
@[simp] theorem elsewhere_onPaceUnit (k f) : elsewhere p (onPaceUnit k f s) = elsewhere p s := elsewhere_congr rfl
@[simp] theorem elsewhere_onTransferOf (k f) : elsewhere p (onTransferOf k f s) = elsewhere p s := elsewhere_congr rfl
@[simp] theorem elsewhere_onCtrl (f) : elsewhere p (onCtrl f s) = elsewhere p s := elsewhere_congr rfl
@[simp] theorem elsewhere_onPower (f) : elsewhere p (onPower f s) = elsewhere p s := elsewhere_congr rfl
@[simp] theorem elsewhere_onSvc (f) : elsewhere p (onSvc f s) = elsewhere p s := elsewhere_congr rfl
@[simp] theorem elsewhere_onBulk (f) : elsewhere p (onBulk f s) = elsewhere p s := elsewhere_congr rfl
@[simp] theorem elsewhere_onTiming (f) : elsewhere p (onTiming f s) = elsewhere p s := elsewhere_congr rfl
@[simp] theorem elsewhere_onCues (f) : elsewhere p (onCues f s) = elsewhere p s := elsewhere_congr rfl
@[simp] theorem elsewhere_onPair (f) : elsewhere p (onPair f s) = elsewhere p s := elsewhere_congr rfl
@[simp] theorem elsewhere_onFifoOf (k f) : elsewhere p (onFifoOf k f s) = elsewhere p s := elsewhere_congr rfl

@[simp] theorem elsewhere_useFree : elsewhere p (useFree s) = elsewhere p s := elsewhere_congr rfl
@[simp] theorem elsewhere_chipPut (g k n) : elsewhere p (chipPut g k n s) = elsewhere p s := elsewhere_congr rfl
@[simp] theorem elsewhere_clockTo (at_) : elsewhere p (clockTo at_ s) = elsewhere p s := elsewhere_congr rfl
@[simp] theorem elsewhere_paceEvent (u ev n) : elsewhere p (paceEvent u ev n s) = elsewhere p s := elsewhere_congr rfl
@[simp] theorem elsewhere_paceToken (u) : elsewhere p (paceToken u s) = elsewhere p s := elsewhere_congr rfl
@[simp] theorem elsewhere_setCue (i c) : elsewhere p (setCue i c s) = elsewhere p s := elsewhere_congr rfl
@[simp] theorem elsewhere_clearCue (i) : elsewhere p (clearCue i s) = elsewhere p s := elsewhere_congr rfl
@[simp] theorem elsewhere_holdValue (x v) : elsewhere p (holdValue x v s) = elsewhere p s := elsewhere_congr rfl
@[simp] theorem elsewhere_placeCue (i c) : elsewhere p (placeCue i c s) = elsewhere p s := elsewhere_congr rfl
@[simp] theorem elsewhere_queueCells (n) : elsewhere p (queueCells n s) = elsewhere p s := by simp [queueCells]

@[simp] theorem elsewhere_clearFarCue (q b) : elsewhere p (clearFarCue q b s) = elsewhere p s := by
  unfold clearFarCue
  split <;> simp

/-! Flags. -/

@[simp] theorem elsewhere_raise (code vector src tag data) :
    elsewhere p (raise code vector src tag data s) = elsewhere p s := elsewhere_congr rfl

@[simp] theorem elsewhere_raisePort (code q data) :
    elsewhere p (raisePort code q data s) = elsewhere p s := elsewhere_congr rfl

@[simp] theorem elsewhere_raiseSc (code sc data) :
    elsewhere p (raiseSc code sc data s) = elsewhere p s := elsewhere_congr rfl

@[simp] theorem elsewhere_unitFault (typ idx) : elsewhere p (unitFault typ idx s) = elsewhere p s :=
  elsewhere_of_within (within_unitFault typ idx s) (by decide)

@[simp] theorem elsewhere_retired (typ idx) : elsewhere p (retired typ idx s) = elsewhere p s :=
  elsewhere_of_within (within_retired typ idx s) (by decide)

@[simp] theorem elsewhere_notRetired (typ idx) : elsewhere p (notRetired typ idx s) = elsewhere p s :=
  elsewhere_of_within (within_notRetired typ idx s) (by decide)

@[simp] theorem elsewhere_injAct (pt) : elsewhere p (injAct pt s) = elsewhere p s :=
  elsewhere_of_within (within_injAct pt s) (by decide)

@[simp] theorem elsewhere_mirror (r) : elsewhere p (mirror r s) = elsewhere p s :=
  elsewhere_of_within (within_mirror r s) (by decide)

@[simp] theorem elsewhere_startResync : elsewhere p (startResync s) = elsewhere p s :=
  elsewhere_of_within (within_startResync s) (by decide)

@[simp] theorem elsewhere_retryDone (typ idx) : elsewhere p (retryDone typ idx s) = elsewhere p s := elsewhere_congr rfl
@[simp] theorem elsewhere_noteGauge (sc k v) : elsewhere p (noteGauge sc k v s) = elsewhere p s := by simp [noteGauge]
@[simp] theorem elsewhere_tellPartner (m) : elsewhere p (tellPartner m s) = elsewhere p s := by simp [tellPartner]

/-! Operands. -/

@[simp] theorem elsewhere_okay : elsewhere p (okay s).st = elsewhere p s := elsewhere_congr rfl
@[simp] theorem elsewhere_okSame : elsewhere p (okSame s).st = elsewhere p s := elsewhere_congr rfl
@[simp] theorem elsewhere_okWith (pay) : elsewhere p (okWith pay s).st = elsewhere p s := elsewhere_congr rfl
@[simp] theorem elsewhere_refuse (c) : elsewhere p (refuse c s).st = elsewhere p s := elsewhere_congr rfl
@[simp] theorem elsewhere_defer (r obj) : elsewhere p (defer r obj s).st = elsewhere p s := elsewhere_congr rfl
@[simp] theorem elsewhere_commandDone (d c) : elsewhere p (commandDone d c s) = elsewhere p s := by simp [commandDone]

@[simp] theorem elsewhere_finishDeferred (op obj c) : elsewhere p (finishDeferred op obj c s) = elsewhere p s := by
  unfold finishDeferred
  split <;> simp

@[simp] theorem elsewhere_finishEach (op obj c) : elsewhere p (finishEach op obj c s) = elsewhere p s := by
  simp [finishEach]

@[simp] theorem elsewhere_onPort {body r} (h : r.u 0 1 = p)
    (hb : ∀ r s, elsewhere p (body p r s).st = elsewhere p s) : elsewhere p (onPort body r s).st = elsewhere p s := by
  simp [onPort, h, hb]

@[simp] theorem elsewhere_onSc {body r} (h : scPort (r.u 0 1) = p)
    (hb : ∀ sc r s, scPort sc = p → elsewhere p (body sc r s).st = elsewhere p s) :
    elsewhere p (onSc body r s).st = elsewhere p s := by simp [onSc, hb _ _ _ h]

@[simp] theorem elsewhere_onFrameSt (f) (h : ∀ x, ((f x).tx, (f x).rx, (f x).port) = (x.tx, x.rx, x.port)) :
    elsewhere p (onFrameSt f s) = elsewhere p s := by
  obtain ⟨htx, hrx, hport⟩ := by simpa only [Prod.mk.injEq] using h s.frame
  simp only [elsewhere, txPort, rxPort, fecPort, hubPort, frPort, txSc, rxSc, fecSc, txFrame, rxFramer,
    onFrameSt, htx, hrx, hport]

@[simp] theorem elsewhere_onConvOf (k f) : elsewhere p (onConvOf k f s) = elsewhere p s := elsewhere_congr rfl
@[simp] theorem elsewhere_reserve (t) : elsewhere p (reserve t s) = elsewhere p s := elsewhere_congr rfl
@[simp] theorem elsewhere_zeroFec : elsewhere p (zeroFec p s) = elsewhere p s := by simp [zeroFec]
@[simp] theorem elsewhere_railsOff : elsewhere p (railsOff p s) = elsewhere p s := by simp [railsOff]
@[simp] theorem elsewhere_darkCheck : elsewhere p (darkCheck p s) = elsewhere p s := by simp [darkCheck]
@[simp] theorem elsewhere_shutTx (st) : elsewhere p (shutTx p st s) = elsewhere p s := by simp [shutTx]
@[simp] theorem elsewhere_retarget : elsewhere p (retarget p s) = elsewhere p s := by simp [retarget]
@[simp] theorem elsewhere_endJoin (c) : elsewhere p (endJoin p c s) = elsewhere p s := by simp [endJoin]
@[simp] theorem elsewhere_closeTx : elsewhere p (closeTx p s) = elsewhere p s := by simp [closeTx]
@[simp] theorem elsewhere_startTx (lo) : elsewhere p (startTx p lo s) = elsewhere p s := by simp [startTx]
@[simp] theorem elsewhere_feedLost (cause) : elsewhere p (feedLost p cause s) = elsewhere p s := by simp [feedLost]
@[simp] theorem elsewhere_startExchange : elsewhere p (startExchange p s) = elsewhere p s := by simp [startExchange]

@[simp] theorem elsewhere_portLaser {r} (h : r.u 0 1 = p) : elsewhere p (portLaser r s).st = elsewhere p s := by
  simp [portLaser, h]

@[simp] theorem elsewhere_portTxenable {r} (h : r.u 0 1 = p) (lo) :
    elsewhere p (portTxenable lo r s).st = elsewhere p s := by
  simp [portTxenable, h]

@[simp] theorem elsewhere_deniedEnable {r} (h : r.u 0 1 = p) : elsewhere p (deniedEnable r s) = elsewhere p s := by
  simp [deniedEnable, h]

@[simp] theorem elsewhere_settleAttn : elsewhere p (settleAttn p s) = elsewhere p s := by simp [settleAttn]
@[simp] theorem elsewhere_txEnableDone : elsewhere p (txEnableDone p s) = elsewhere p s := by simp [txEnableDone]

@[simp] theorem elsewhere_portTxdisable {r} (h : r.u 0 1 = p) : elsewhere p (portTxdisable r s).st = elsewhere p s := by
  simp [portTxdisable, h]

@[simp] theorem elsewhere_txFeedLoss (lo) : elsewhere p (txFeedLoss p lo s) = elsewhere p s := by simp [txFeedLoss]

@[simp] theorem elsewhere_portTxpower {r} (h : r.u 0 1 = p) (feed) :
    elsewhere p (portTxpower feed r s).st = elsewhere p s := by
  simp [portTxpower, h]

@[simp] theorem elsewhere_dropChange (c) : elsewhere p (dropChange p c s) = elsewhere p s := by simp [dropChange]

theorem elsewhere_placeChange {mask classes boundary tag origin}
    (h : placeChange p mask classes boundary tag origin s = some t) :
    elsewhere p t = elsewhere p s := by
  unfold placeChange at h
  split at h
  · cases h
  · dsimp only at h
    split at h <;> cases h
    simp

@[simp] theorem elsewhere_mergeChange (old mask classes) :
    elsewhere p (mergeChange p old mask classes s) = elsewhere p s := by
  simp [mergeChange]

theorem elsewhere_mergeOrPlace {mask classes boundary tag x} (h : mergeOrPlace p mask classes boundary tag s = some x) :
    elsewhere p x.2.2 = elsewhere p s := by
  unfold mergeOrPlace at h
  split at h
  · cases h
    simp
  · obtain ⟨t, ht, rfl⟩ := Option.map_eq_some_iff.1 h
    exact elsewhere_placeChange ht

@[simp] theorem elsewhere_formatReply (b placement) : elsewhere p (formatReply b placement s).st = elsewhere p s := by
  simp [formatReply]

@[simp] theorem elsewhere_portFormat {r} (h : r.u 0 1 = p) : elsewhere p (portFormat r s).st = elsewhere p s := by
  refine elsewhere_onPort h fun r s => ?_
  dsimp only
  split
  · rfl
  · split
    · split
      · rfl
      next h => simpa using elsewhere_mergeOrPlace h
    · split
      · rfl
      · split
        · rfl
        · split
          · split
            · rfl
            next h => simpa using elsewhere_mergeOrPlace h
          · split
            · split
              · rfl
              next h => simp [elsewhere_placeChange h]
            · split
              · rfl
              · split
                · rfl
                next h => simp [elsewhere_placeChange h]

@[simp] theorem elsewhere_scTxpower {r} (h : scPort (r.u 0 1) = p) : elsewhere p (scTxpower r s).st = elsewhere p s :=
  elsewhere_onSc h fun sc r s hsc => by simp [hsc]

/-! LineRx. -/

@[simp] theorem elsewhere_onCd (f) : elsewhere p (onCd p f s) = elsewhere p s := by simp [onCd]

@[simp] theorem elsewhere_freeCdCues (e) : elsewhere p (freeCdCues e s) = elsewhere p s := by
  unfold freeCdCues
  dsimp only
  split <;> simp

@[simp] theorem elsewhere_endDissolve : elsewhere p (endDissolve p s) = elsewhere p s := by simp [endDissolve]

@[simp] theorem elsewhere_unconverge (h : scPort sc = p) (quiet) :
    elsewhere p (unconverge quiet sc s) = elsewhere p s := by
  simp [unconverge, h]

@[simp] theorem elsewhere_stopSc (h : scPort sc = p) (quiet) : elsewhere p (stopSc quiet sc s) = elsewhere p s := by
  simp [stopSc, h]

@[simp] theorem elsewhere_rehunt (h : scPort sc = p) : elsewhere p (rehunt sc s) = elsewhere p s := by simp [rehunt, h]

@[simp] theorem elsewhere_resyncSc (h : scPort sc = p) : elsewhere p (resyncSc sc s) = elsewhere p s := by
  simp [resyncSc, h]

@[simp] theorem elsewhere_freezeGain : elsewhere p (freezeGain p s) = elsewhere p s := by simp [freezeGain]
@[simp] theorem elsewhere_releaseGain : elsewhere p (releaseGain p s) = elsewhere p s := by simp [releaseGain]
@[simp] theorem elsewhere_enterAfc : elsewhere p (enterAfc p s) = elsewhere p s := by simp +contextual [enterAfc]
@[simp] theorem elsewhere_acqFail (state) : elsewhere p (acqFail p state s) = elsewhere p s := by simp [acqFail]
@[simp] theorem elsewhere_shutRx : elsewhere p (shutRx p s) = elsewhere p s := by simp +contextual [shutRx]
@[simp] theorem elsewhere_closeRx : elsewhere p (closeRx p s) = elsewhere p s := by simp [closeRx]
@[simp] theorem elsewhere_relit (h : scPort sc = p) : elsewhere p (relit sc s) = elsewhere p s := by simp [relit, h]
@[simp] theorem elsewhere_startRx (lo) : elsewhere p (startRx p lo s) = elsewhere p s := by simp +contextual [startRx]

@[simp] theorem elsewhere_portRxenable {r} (h : r.u 0 1 = p) (lo) :
    elsewhere p (portRxenable lo r s).st = elsewhere p s := by
  simp [portRxenable, h]

@[simp] theorem elsewhere_deniedRxenable {r} (h : r.u 0 1 = p) : elsewhere p (deniedRxenable r s) = elsewhere p s := by
  simp [deniedRxenable, h]

@[simp] theorem elsewhere_rxCalibrationDone : elsewhere p (rxCalibrationDone p s) = elsewhere p s := by
  simp [rxCalibrationDone]

@[simp] theorem elsewhere_portRxdisable {r} (h : r.u 0 1 = p) : elsewhere p (portRxdisable r s).st = elsewhere p s := by
  simp [portRxdisable, h]

@[simp] theorem elsewhere_lightPresent (power) : elsewhere p (lightPresent p power s) = elsewhere p s := by
  simp [lightPresent]

@[simp] theorem elsewhere_loseLight : elsewhere p (loseLight p s) = elsewhere p s := by simp +contextual [loseLight]

@[simp] theorem elsewhere_lightAbsent (power) : elsewhere p (lightAbsent p power s) = elsewhere p s := by
  simp [lightAbsent]

@[simp] theorem elsewhere_loadActive (base) : elsewhere p (loadActive p base s) = elsewhere p s := by simp [loadActive]
@[simp] theorem elsewhere_afcDone (off) : elsewhere p (afcDone p off s) = elsewhere p s := by simp [afcDone]

@[simp] theorem elsewhere_cdScanDone (o) : elsewhere p (cdScanDone p o s) = elsewhere p s := by
  unfold cdScanDone
  split
  · split <;> simp
  · simp

@[simp] theorem elsewhere_scConverge (h : scPort sc = p) (snr) : elsewhere p (scConverge sc snr s) = elsewhere p s := by
  simp [scConverge, h]

@[simp] theorem elsewhere_scUnconverge (h : scPort sc = p) (snr) :
    elsewhere p (scUnconverge sc snr s) = elsewhere p s := by
  simp [scUnconverge, h]

@[simp] theorem elsewhere_sendTrim (i t) : elsewhere p (sendTrim p i t s) = elsewhere p s := by simp [sendTrim]

@[simp] theorem elsewhere_bgCalStep (a sl skew gain off fir) :
    elsewhere p (bgCalStep p a sl skew gain off fir s) = elsewhere p s := by
  simp [bgCalStep]

@[simp] theorem elsewhere_shadowRotate : elsewhere p (shadowRotate p s) = elsewhere p s := by simp [shadowRotate]

@[simp] theorem elsewhere_adcSliceFault (a sl) : elsewhere p (adcSliceFault p a sl s) = elsewhere p s := by
  simp [adcSliceFault]

@[simp] theorem elsewhere_adcSliceRetire (a) : elsewhere p (adcSliceRetire p a s) = elsewhere p s := by
  unfold adcSliceRetire
  dsimp only
  repeat' split
  all_goals simp

@[simp] theorem elsewhere_portRxconfig {r} (h : r.u 0 1 = p) : elsewhere p (portRxconfig r s).st = elsewhere p s := by
  simp [portRxconfig, h]

@[simp] theorem elsewhere_dissolveCue (i origin start tag) :
    elsewhere p (dissolveCue p i origin start tag s) = elsewhere p s := by
  simp [dissolveCue]

@[simp] theorem elsewhere_cueDissolve (i origin start tag len) :
    elsewhere p (cueDissolve p i origin start tag len s) = elsewhere p s := by
  simp [cueDissolve]

@[simp] theorem elsewhere_portCdset {r} (h : r.u 0 1 = p) : elsewhere p (portCdset r s).st = elsewhere p s := by
  refine elsewhere_onPort h fun r s => ?_
  dsimp only
  repeat' split
  all_goals simp

@[simp] theorem elsewhere_portCdwrite {r} (h : r.u 0 1 = p) : elsewhere p (portCdwrite r s).st = elsewhere p s := by
  simp [portCdwrite, h]

@[simp] theorem elsewhere_portCdstart {r} (h : r.u 0 1 = p) : elsewhere p (portCdstart r s).st = elsewhere p s := by
  refine elsewhere_onPort h fun r s => ?_
  dsimp only
  repeat' split
  all_goals simp

@[simp] theorem elsewhere_cdLoadDone (staged) : elsewhere p (cdLoadDone p staged s) = elsewhere p s := by
  simp [cdLoadDone]

@[simp] theorem elsewhere_dissolveEnd (at_) : elsewhere p (dissolveEnd p at_ s) = elsewhere p s := by
  unfold dissolveEnd
  dsimp only
  split
  · split <;> simp
  · simp

@[simp] theorem elsewhere_ownDissolve (len set) : elsewhere p (ownDissolve p len set s) = elsewhere p s := by
  unfold ownDissolve
  split <;> simp

@[simp] theorem elsewhere_cdTrackEstimate (res) : elsewhere p (cdTrackEstimate p res s) = elsewhere p s := by
  simp +contextual [cdTrackEstimate]

@[simp] theorem elsewhere_ltuneUpdate : elsewhere p (ltuneUpdate p s) = elsewhere p s := by simp [ltuneUpdate]

@[simp] theorem elsewhere_portLtune {r} (h : r.u 0 1 = p) : elsewhere p (portLtune r s).st = elsewhere p s := by
  simp [portLtune, h]

@[simp] theorem elsewhere_ltuneSlew : elsewhere p (ltuneSlew p s) = elsewhere p s := by
  unfold ltuneSlew
  split <;> simp

@[simp] theorem elsewhere_timingLoop (h : scPort sc = p) (q) : elsewhere p (timingLoop sc q s) = elsewhere p s := by
  simp [timingLoop, h]

@[simp] theorem elsewhere_linkRefresh (h : scPort sc = p) (q) : elsewhere p (linkRefresh sc q s) = elsewhere p s := by
  simp [linkRefresh, h]

@[simp] theorem elsewhere_hubGain : elsewhere p (hubGain p s) = elsewhere p s := by simp [hubGain]

@[simp] theorem elsewhere_setFarClass (h : scPort sc = p) (k) : elsewhere p (setFarClass sc k s) = elsewhere p s := by
  simp [setFarClass, h]

@[simp] theorem elsewhere_rxClassChange (h : scPort sc = p) (stamp) :
    elsewhere p (rxClassChange sc stamp s) = elsewhere p s := by
  unfold rxClassChange
  dsimp only
  split <;> simp [h]

@[simp] theorem elsewhere_scRxconfig {r} (h : scPort (r.u 0 1) = p) : elsewhere p (scRxconfig r s).st = elsewhere p s :=
  elsewhere_onSc h fun sc r s hsc => by simp [hsc]

@[simp] theorem elsewhere_scResync {r} (h : scPort (r.u 0 1) = p) : elsewhere p (scResync r s).st = elsewhere p s :=
  elsewhere_onSc h fun sc r s hsc => by simp [hsc]

/-! Fec. -/

@[simp] theorem elsewhere_encoderRetire : elsewhere p (encoderRetire p s) = elsewhere p s := by simp [encoderRetire]
@[simp] theorem elsewhere_encoderFault : elsewhere p (encoderFault p s) = elsewhere p s := by simp [encoderFault]

@[simp] theorem elsewhere_sendCodeword (h : scPort sc = p) (c cw) :
    elsewhere p (sendCodeword sc c cw s) = elsewhere p s := by
  simp [sendCodeword, h]

@[simp] theorem elsewhere_codewordEncode (h : scPort sc = p) (c) :
    elsewhere p (codewordEncode sc c s) = elsewhere p s := by
  simp [codewordEncode, h]

@[simp] theorem elsewhere_setCap (k) : elsewhere p (setCap p k s) = elsewhere p s := by simp [setCap]
@[simp] theorem elsewhere_lowerCap : elsewhere p (lowerCap p s) = elsewhere p s := by simp [lowerCap]
@[simp] theorem elsewhere_paceLow (u m) : elsewhere p (paceLow u m s) = elsewhere p s := by simp [paceLow]

@[simp] theorem elsewhere_rearmUnit (u) : elsewhere p (rearmUnit u s) = elsewhere p s := by
  unfold rearmUnit
  split <;> simp

@[simp] theorem elsewhere_lowUnit {u} (h : u / 6 = p) : elsewhere p (lowUnit u s) = elsewhere p s := by
  unfold lowUnit
  split <;> simp [h]

@[simp] theorem elsewhere_capTick (iters) : elsewhere p (capTick p iters s) = elsewhere p s := by
  have hu : (6 * p + 2) / 6 = p := by omega
  unfold capTick
  dsimp only
  split <;> simp [hu]

@[simp] theorem elsewhere_leaveSlots : elsewhere p (leaveSlots p s) = elsewhere p s := by simp [leaveSlots]

@[simp] theorem elsewhere_engineRetire : elsewhere p (engineRetire p s) = elsewhere p s := by
  unfold engineRetire
  dsimp only
  repeat' split
  all_goals simp

@[simp] theorem elsewhere_berWindow (h : scPort sc = p) : elsewhere p (berWindow sc s) = elsewhere p s := by
  simp [berWindow, h]

@[simp] theorem elsewhere_portFecconfig {r} (h : r.u 0 1 = p) : elsewhere p (portFecconfig r s).st = elsewhere p s := by
  simp [portFecconfig, h]

/-! Decoder. -/

@[simp] theorem elsewhere_actDecode : elsewhere p (actDecode p s) = elsewhere p s := by simp [actDecode]
@[simp] theorem elsewhere_engineFault (e) : elsewhere p (engineFault p e s) = elsewhere p s := by simp [engineFault]
@[simp] theorem elsewhere_truncation : elsewhere p (truncation p s) = elsewhere p s := by simp [truncation]

@[simp] theorem elsewhere_countTokens (used late trunc) :
    elsewhere p (countTokens p used late trunc s) = elsewhere p s := by
  simp [countTokens]

@[simp] theorem elsewhere_settleDecode (h : scPort sc = p) (slot d checker memUe trunc) :
    elsewhere p (settleDecode sc slot d checker memUe trunc s).1 = elsewhere p s := by
  simp [settleDecode, h]

@[simp] theorem elsewhere_slotsLeave (h : scPort sc = p) (c) : elsewhere p (slotsLeave sc c s) = elsewhere p s := by
  simp [slotsLeave, h]

@[simp] theorem elsewhere_decodeNext (h : scPort sc = p) (c r trunc s0) :
    elsewhere p (decodeNext sc c r trunc s0).1 = elsewhere p s0 := by
  simp [decodeNext, h]

@[simp] theorem elsewhere_codewordDecode (h : scPort sc = p) (c r) :
    elsewhere p (codewordDecode sc c r s) = elsewhere p s := by
  simp [codewordDecode, h]

@[simp] theorem elsewhere_handOver {w : CwOut} (h : scPort w.sc = p) : elsewhere p (handOver w s) = elsewhere p s := by
  simp [handOver, h]

@[simp] theorem elsewhere_readPoint (h : scPort sc = p) (c r) : elsewhere p (readPoint sc c r s) = elsewhere p s := by
  unfold readPoint
  split
  next o ho =>
    obtain ⟨hsc, -⟩ : o.sc = sc ∧ o.c = c := by simpa using List.find?_some ho
    simp [h, hsc]
  · simp [elsewhere_handOver (w := (decodeNext sc c r true s).2) h, h]

/-! Frame. -/

@[simp] theorem elsewhere_egressPut (nn k) : elsewhere p (egressPut nn k s) = elsewhere p s := by simp [egressPut]
@[simp] theorem elsewhere_diverge (kind src) : elsewhere p (diverge kind src s) = elsewhere p s := by simp [diverge]

@[simp] theorem elsewhere_queueControl (h : scPort sc = p) (typ data) :
    elsewhere p (queueControl sc typ data s) = elsewhere p s := by
  simp [queueControl, h]

@[simp] theorem elsewhere_scheduleFrame (h : scPort sc = p) (dep) :
    elsewhere p (scheduleFrame sc dep s) = elsewhere p s := by
  simp [scheduleFrame, h]

@[simp] theorem elsewhere_buildFrame (h : scPort sc = p) (at_ s0) :
    elsewhere p (buildFrame sc at_ s0) = elsewhere p s0 := by
  simp [buildFrame, h]

@[simp] theorem elsewhere_falseCandidate (h : scPort sc = p) : elsewhere p (falseCandidate sc s) = elsewhere p s := by
  simp [falseCandidate, h]

@[simp] theorem elsewhere_pilotCorrelation (h : scPort sc = p) (phase corr) :
    elsewhere p (pilotCorrelation sc phase corr s) = elsewhere p s := by
  simp [pilotCorrelation, h]

@[simp] theorem elsewhere_alignFrame (h : scPort sc = p) (ok) : elsewhere p (alignFrame sc ok s) = elsewhere p s := by
  unfold alignFrame
  dsimp only
  split <;> simp [h]

@[simp] theorem elsewhere_compareDigest (h : scPort sc = p) : elsewhere p (compareDigest sc s) = elsewhere p s := by
  simp [compareDigest, h]

@[simp] theorem elsewhere_endMultiframe (h : scPort sc = p) : elsewhere p (endMultiframe sc s) = elsewhere p s := by
  simp [endMultiframe, h]

@[simp] theorem elsewhere_kcDeliver (h : scPort sc = p) (num data) :
    elsewhere p (kcDeliver sc num data s) = elsewhere p s := by
  simp [kcDeliver, h]

@[simp] theorem elsewhere_kcCellIn (h : scPort sc = p) (cell) : elsewhere p (kcCellIn sc cell s) = elsewhere p s := by
  unfold kcCellIn
  dsimp only
  repeat' split
  all_goals simp [h]

@[simp] theorem elsewhere_channelDeliver (nn label body) :
    elsewhere p (channelDeliver nn label body s) = elsewhere p s := by
  simp [channelDeliver]

@[simp] theorem elsewhere_gccIn (h : scPort sc = p) (bytes) : elsewhere p (gccIn sc bytes s) = elsewhere p s := by
  simp [gccIn, h]

@[simp] theorem elsewhere_uocIn (h : scPort sc = p) (bytes) : elsewhere p (uocIn sc bytes s) = elsewhere p s := by
  simp [uocIn, h]

@[simp] theorem elsewhere_slotBlock (sc bad k) : elsewhere p (slotBlock sc bad k s) = elsewhere p s := by
  simp [slotBlock]

@[simp] theorem elsewhere_takeOverhead (h : scPort sc = p) (f o) :
    elsewhere p (takeOverhead sc f o s) = elsewhere p s := by
  simp [takeOverhead, h]

@[simp] theorem elsewhere_takeErrored (h : scPort sc = p) : elsewhere p (takeErrored sc s) = elsewhere p s := by
  simp [takeErrored, h]

@[simp] theorem elsewhere_takePayload (h : scPort sc = p) (f viol m) :
    elsewhere p (takePayload sc f viol m s) = elsewhere p s := by
  simp [takePayload, h]

@[simp] theorem elsewhere_frameArrives (t f) : elsewhere p (frameArrives t f s) = elsewhere p s := by
  simp [frameArrives, fillRegion]

@[simp] theorem elsewhere_takeSlots (sc dep arr frame bad) :
    elsewhere p (takeSlots sc dep arr frame bad s) = elsewhere p s := by
  simp [takeSlots]

@[simp] theorem elsewhere_takeStamped (h : scPort sc = p) (arr frame bad dep) :
    elsewhere p (takeStamped sc arr frame bad dep s) = elsewhere p s := by
  unfold takeStamped
  split <;> simp [h]

@[simp] theorem elsewhere_frameReceive (h : scPort sc = p) (f) : elsewhere p (frameReceive sc f s) = elsewhere p s := by
  simp [frameReceive, h]

@[simp] theorem elsewhere_deframe (h : scPort sc = p) (o) : elsewhere p (deframe sc o s) = elsewhere p s := by
  simp [deframe, h]

/-! Service. -/

@[simp] theorem elsewhere_timestamp (r) : elsewhere p (timestamp r s) = elsewhere p s := by simp [timestamp]

@[simp] theorem elsewhere_startPacket (t dep) : elsewhere p (startPacket t dep s) = elsewhere p s := by
  unfold startPacket
  dsimp only
  split <;> simp

@[simp] theorem elsewhere_cellsFreed (t dep) : elsewhere p (cellsFreed t dep s) = elsewhere p s := by simp [cellsFreed]

@[simp] theorem elsewhere_streamBytes (fuel tr dep n acc) :
    elsewhere p (streamBytes fuel tr dep n acc s).2 = elsewhere p s := by
  induction fuel generalizing n acc s with
  | zero => rfl
  | succ fuel ih =>
    unfold streamBytes
    dsimp only
    split
    · rfl
    · split
      · simp [ih]
      · split <;> simp [ih]

@[simp] theorem elsewhere_slotBytes (t dep) : elsewhere p (slotBytes t dep s).2 = elsewhere p s := by
  unfold slotBytes
  dsimp only
  split
  · simp
  · split <;> simp

@[simp] theorem elsewhere_slotMap (h : scPort sc = p) (k at_) : elsewhere p (slotMap sc k at_ s) = elsewhere p s := by
  simp [slotMap, h]

/-! Hub. -/

@[simp] theorem elsewhere_onLeaf (n f) : elsewhere p (onLeaf p n f s) = elsewhere p s := by simp [onLeaf]

@[simp] theorem elsewhere_pushRecord (typ ident n rest) :
    elsewhere p (pushRecord p typ ident n rest s) = elsewhere p s := by
  simp [pushRecord]

theorem elsewhere_darken {mask tag} (h : darken p mask tag s = some t) : elsewhere p t = elsewhere p s := by
  obtain ⟨x, hx, rfl⟩ := Option.map_eq_some_iff.1 h
  exact elsewhere_mergeOrPlace hx

@[simp] theorem elsewhere_darkenNow (mask) : elsewhere p (darkenNow p mask s) = elsewhere p s := by simp [darkenNow]

@[simp] theorem elsewhere_hubRole {r} (h : r.u 0 1 = p) : elsewhere p (hubRole r s).st = elsewhere p s :=
  elsewhere_onPort h fun r s => by simp +contextual

@[simp] theorem elsewhere_hubGrant {r} (h : r.u 0 1 = p) : elsewhere p (hubGrant r s).st = elsewhere p s := by
  refine elsewhere_onPort h fun r s => ?_
  dsimp only
  split
  · rfl
  · split
    · rfl
    · split
      · rfl
      next h => simpa using elsewhere_mergeOrPlace h

@[simp] theorem elsewhere_hubRelease {r} (h : r.u 0 1 = p) : elsewhere p (hubRelease r s).st = elsewhere p s := by
  refine elsewhere_onPort h fun r s => ?_
  dsimp only
  split
  · rfl
  · split
    · rfl
    next v h =>
      have hv : elsewhere p v = elsewhere p s := by
        generalize hm : (if r.u 2 2 = 0 then (leafOf s p (r.u 1 1)).mask
          else r.u 2 2 &&& (leafOf s p (r.u 1 1)).mask) = mask at h
        split_ifs at h
        · cases h
          rfl
        · exact elsewhere_darken h
      split <;> simp [hv]

@[simp] theorem elsewhere_castConfig {r} (h : r.u 0 1 = p) : elsewhere p (castConfig r s).st = elsewhere p s := by
  simp [castConfig, h]

@[simp] theorem elsewhere_castingSlot (at_) : elsewhere p (castingSlot p at_ s) = elsewhere p s := by
  unfold castingSlot
  dsimp only
  split
  · split <;> simp
  · simp

@[simp] theorem elsewhere_headerCheck (hdr) : elsewhere p (headerCheck p hdr s) = elsewhere p s := by simp [headerCheck]

@[simp] theorem elsewhere_takeBurst (x f) (h : ∀ s, elsewhere p (f s) = elsewhere p s) :
    elsewhere p (takeBurst p x f s) = elsewhere p s := by simp [takeBurst, h]

@[simp] theorem elsewhere_joinEvent (n ident rejoin) : elsewhere p (joinEvent p n ident rejoin s) = elsewhere p s := by
  simp [joinEvent]

@[simp] theorem elsewhere_joinActs (ident rec) : elsewhere p (joinActs p ident rec s) = elsewhere p s := by
  unfold joinActs
  dsimp only
  repeat' split
  all_goals simp

@[simp] theorem elsewhere_keepActs (ident) : elsewhere p (keepActs p ident s) = elsewhere p s := by
  unfold keepActs
  split <;> simp

@[simp] theorem elsewhere_leaveActs (ident) : elsewhere p (leaveActs p ident s) = elsewhere p s := by
  unfold leaveActs
  split
  · rfl
  · simp only [elsewhere_raisePort]
    split
    · simp
    · rename_i n _ _
      cases h : darken p (leafOf s p n).mask 0 (onLeaf p n (fun _ => {}) s)
      · simp
      · simp [elsewhere_darken h]

@[simp] theorem elsewhere_numberEnds (n) : elsewhere p (numberEnds p n s) = elsewhere p s := by simp [numberEnds]
@[simp] theorem elsewhere_leafSilent (n) : elsewhere p (leafSilent p n s) = elsewhere p s := by simp [leafSilent]

@[simp] theorem elsewhere_averageActs (n off adjust) : elsewhere p (averageActs p n off adjust s) = elsewhere p s := by
  simp [averageActs]

@[simp] theorem elsewhere_hubActs (d) : elsewhere p (hubActs p d s) = elsewhere p s := by
  unfold hubActs
  split <;> simp

@[simp] theorem elsewhere_hubDecides (d) : elsewhere p (hubDecides p d s) = elsewhere p s := by simp [hubDecides]

@[simp] theorem elsewhere_adjustAverage (n off powers) :
    elsewhere p (adjustAverage p n off powers s) = elsewhere p s := by
  simp [adjustAverage]

@[simp] theorem elsewhere_hubScan (n disp) : elsewhere p (hubScan p n disp s) = elsewhere p s := by simp [hubScan]

@[simp] theorem elsewhere_hubJoin {r} (h : r.u 0 1 = p) (lo) : elsewhere p (hubJoin lo r s).st = elsewhere p s := by
  simp [hubJoin, h]

@[simp] theorem elsewhere_hubLeave {r} (h : r.u 0 1 = p) : elsewhere p (hubLeave r s).st = elsewhere p s := by
  simp [hubLeave, h]

@[simp] theorem elsewhere_joinSend (k) : elsewhere p (joinSend p k s) = elsewhere p s := by simp [joinSend]
@[simp] theorem elsewhere_ackTimeout : elsewhere p (ackTimeout p s) = elsewhere p s := by simp [ackTimeout]
@[simp] theorem elsewhere_leaveSend (k) : elsewhere p (leaveSend p k s) = elsewhere p s := by simp [leaveSend]
@[simp] theorem elsewhere_takeShift : elsewhere p (takeShift p s) = elsewhere p s := by simp [takeShift]

@[simp] theorem elsewhere_leafChange (mask cls granted) :
    elsewhere p (leafChange p mask cls granted s) = elsewhere p s := by
  simp [leafChange]

@[simp] theorem elsewhere_leafLoses (lost) : elsewhere p (leafLoses p lost s) = elsewhere p s := by simp [leafLoses]

@[simp] theorem elsewhere_recordActs (rec) : elsewhere p (recordActs p rec s) = elsewhere p s := by
  unfold recordActs
  split <;> simp +contextual

@[simp] theorem elsewhere_goodBeacon (slot off msg) : elsewhere p (goodBeacon p slot off msg s) = elsewhere p s := by
  simp [goodBeacon]

@[simp] theorem elsewhere_roleMismatch (far) : elsewhere p (roleMismatch p far s) = elsewhere p s := by
  simp [roleMismatch]

@[simp] theorem elsewhere_beaconReceive (hdr llrs off) :
    elsewhere p (beaconReceive p hdr llrs off s) = elsewhere p s := by
  unfold beaconReceive
  dsimp only
  repeat' split
  all_goals simp

@[simp] theorem elsewhere_exchangeDone (rec) : elsewhere p (exchangeDone p rec s) = elsewhere p s := by
  unfold exchangeDone
  dsimp only
  cases openChange s p
  all_goals
    simp +contextual
    intro _
    split
    next h => simp [elsewhere_placeChange h]
    · simp

@[simp] theorem elsewhere_capabilityActs (ack rec) : elsewhere p (capabilityActs p ack rec s) = elsewhere p s := by
  simp [capabilityActs]

@[simp] theorem elsewhere_capabilityReceive (hdr llrs) :
    elsewhere p (capabilityReceive p hdr llrs s) = elsewhere p s := by
  unfold capabilityReceive
  split
  · split <;> simp
  · simp

/-! Timing. -/

theorem scPort_of_channelSc {i} (h : channelSc s p = some i) : scPort i = p :=
  mem_portScs.1 (List.mem_of_find?_eq_some h)

@[simp] theorem elsewhere_sendCell (typ) : elsewhere p (sendCell p typ s) = elsewhere p s := by
  unfold sendCell
  split
  next hi => simp [scPort_of_channelSc hi]
  · simp

@[simp] theorem elsewhere_timeTransferTick (mOut far) :
    elsewhere p (timeTransferTick p mOut far s) = elsewhere p s := by
  simp +contextual [timeTransferTick]

@[simp] theorem elsewhere_classAnnounce (a) : elsewhere p (classAnnounce p a s) = elsewhere p s := by
  simp [classAnnounce]
  split <;> simp

/-! Power. -/

@[simp] theorem elsewhere_discardWords (x) : elsewhere p (discardWords x s) = elsewhere p s := by
  unfold discardWords
  split <;> simp

@[simp] theorem elsewhere_emptyFifo (x) : elsewhere p (emptyFifo x s) = elsewhere p s := by simp [emptyFifo]
@[simp] theorem elsewhere_emptyPort : elsewhere p (emptyPort p s) = elsewhere p s := by simp [emptyPort]
@[simp] theorem elsewhere_portDark : elsewhere p (portDark p s) = elsewhere p s := by simp [portDark]

@[simp] theorem elsewhere_reenable (lo tx rx) : elsewhere p (reenable p lo tx rx s) = elsewhere p s := by
  simp [reenable]

@[simp] theorem elsewhere_portReset {r} (h : r.u 0 1 = p) (lo) : elsewhere p (portReset lo r s).st = elsewhere p s := by
  simp [portReset, h]

@[simp] theorem elsewhere_portResetDone (ok) : elsewhere p (portResetDone p ok s) = elsewhere p s := by
  simp [portResetDone]

/-! Inject. -/

@[simp] theorem elsewhere_freeQueued (l) : elsewhere p (freeQueued l s) = elsewhere p s := by simp [freeQueued]
@[simp] theorem elsewhere_discardQueues (t) : elsewhere p (discardQueues t s) = elsewhere p s := by simp [discardQueues]
@[simp] theorem elsewhere_cutPacket (t) : elsewhere p (cutPacket t s) = elsewhere p s := by simp [cutPacket]
@[simp] theorem elsewhere_lostCapacity (t) : elsewhere p (lostCapacity t s) = elsewhere p s := by simp [lostCapacity]

@[simp] theorem elsewhere_installMap (m) : elsewhere p (installMap m s) = elsewhere p s := by
  simp [installMap, budgetCheck]

@[simp] theorem elsewhere_removeSlots (scs) : elsewhere p (removeSlots scs s) = elsewhere p s := by
  simp [removeSlots]

@[simp] theorem elsewhere_stageSlots (d sc t n) : elsewhere p (stageSlots d sc t n s).2 = elsewhere p s := by
  unfold stageSlots
  dsimp only
  split <;> simp

@[simp] theorem elsewhere_stageLost (sc l r) : elsewhere p (stageLost sc l r s).2 = elsewhere p s := by
  induction l generalizing r s with
  | nil => rfl
  | cons a l ih => simp [stageLost, ih]

theorem elsewhere_placeCommit {boundary tag origin} (h : placeCommit boundary tag origin s = some t) :
    elsewhere p t = elsewhere p s := by
  unfold placeCommit at h
  dsimp only at h
  split at h
  · cases h
  · cases h
    simp
    split <;> simp

theorem elsewhere_placeCommit_getD (boundary tag origin) :
    elsewhere p ((placeCommit boundary tag origin s).getD s) = elsewhere p s := by
  cases hc : placeCommit boundary tag origin s
  · rfl
  · exact elsewhere_placeCommit hc

@[simp] theorem elsewhere_commitFill : elsewhere p (commitFill s) = elsewhere p s := by
  unfold commitFill
  split
  · split
    · simp
    · exact elsewhere_placeCommit_getD _ _ _
  · exact elsewhere_placeCommit_getD _ _ _

@[simp] theorem elsewhere_fillSlots (sc ls) : elsewhere p (fillSlots sc ls s).2 = elsewhere p s := by
  unfold fillSlots
  split <;> simp

@[simp] theorem elsewhere_subcarrierRetire (h : scPort sc = p) :
    elsewhere p (subcarrierRetire sc s) = elsewhere p s := by
  simp [subcarrierRetire, h]

/-! What a command of the line leaves. -/

theorem elsewhere_respond (r : Req) (a : Reply) : elsewhere p (respond r a) = elsewhere p a.st :=
  elsewhere_of_within (within_respond r a) (by decide)

theorem elsewhere_serve {sh : Shape} {body : Req → State → Reply} {mb : Nat}
    (hb : elsewhere p (body (requestOf s mb) s).st = elsewhere p s) :
    elsewhere p (serve sh body mb s) = elsewhere p s :=
  serve_keeps (P := fun u => elsewhere p u = elsewhere p s) rfl hb fun a ha => (elsewhere_respond _ a).trans ha

theorem elsewhere_of_need {n : String} {ok : Bool} (h : need n ok u = .next t) (hu : elsewhere p u = elsewhere p s) :
    elsewhere p t = elsewhere p s := (need_next.1 h).2 ▸ hu

theorem elsewhere_of_mailbox {sh : Shape} {body : Req → State → Reply} {mb : Nat} (h : mailbox sh body mb s = .next t)
    (hb : elsewhere p (body (requestOf s mb) s).st = elsewhere p s) : elsewhere p t = elsewhere p s :=
  elsewhere_of_need h (elsewhere_serve hb)

theorem elsewhere_of_mailboxThen {sh : Shape} {body : Req → State → Reply} {after : Req → State → State} {mb : Nat}
    (h : mailboxThen sh body after mb s = .next t)
    (hb : elsewhere p (body (requestOf s mb) s).st = elsewhere p s)
    (ha : ∀ u, elsewhere p (after (requestOf s mb) u) = elsewhere p u) : elsewhere p t = elsewhere p s :=
  elsewhere_of_need h (by simp [serveThen, elsewhere_serve hb, ha])

/-- A command that names its port or subcarrier runs the function of its row there; a mailbox command answers what its body
leaves. -/
theorem elsewhere_exec {c : Instr} (hp : portOf s c = some p) (h : exec c s = .next t) :
    elsewhere p t = elsewhere p s := by
  cases c with
  | txEnableDone | txFeedLoss | biasAlarm | rxCalibrationDone | ltuneSlewStep | lightPresent | lightAbsent | afcDone
  | afcTimeout | cdScanDone | convergeTimeout | trackLossTimer | bgCalStep | shadowRotate | adcSliceFault
  | adcSliceRetire | cdLoadDone | dissolveEnd | cdTrackEstimate | ltuneUpdate | fecTruncatingRearm | fecCapTick
  | fecEngineRetire | castingSlot | burstDetection | burstHeaderCheck | burstPayloadEnd | joinReceive
  | keepaliveReceive | leaveReceive | leafNumberTimeout | leafSilentTimeout | adjustAverage | hubDispersionScan
  | beaconReceive | beaconLockLoss | joinSend | ackTimeout | joinRetryWait | keepaliveSend | leaveSend
  | capabilityReceive | timeTransferTick | cueAnnounceReceive | portResetDone | scConverge | scUnconverge
  | linkQualityRefresh | rxClassChange | codewordEncode | codewordDecode | codewordReadPoint | prefecBerWindow
  | frameTransmit | pilotCorrelation | candidateConvergeTimeout | frameReceive | slotFrameMap | subcarrierRetire =>
    obtain rfl := Option.some.inj hp
    exact elsewhere_of_need h (by simp)
  | portTxenable | portRxenable =>
    have hr := Option.some.inj hp
    unfold arg at hr
    exact elsewhere_of_mailboxThen h (by simp [hr]) (by simp [hr])
  | portLaser | portTxdisable | portTxpower | portFormat | portRxdisable | portRxconfig | portCdset | portCdwrite
  | portCdstart | portLtune | portFecconfig | hubRole | hubGrant | hubRelease | hubJoin | hubLeave | castConfig
  | portReset | scTxpower | scRxconfig | scResync =>
    have hr := Option.some.inj hp
    unfold arg at hr
    exact elsewhere_of_mailbox h (by simp [hr])
  | _ => cases hp

/-- Settles O58: a line command's functions leave `elsewhere` of its port as it is. -/
theorem lineCommandsKeepOtherPorts : Obligations.LineCommandsKeepOtherPorts := by
  unfold Obligations.LineCommandsKeepOtherPorts
  exact fun _ _ _ _ hp h => elsewhere_eq_iff.1 (elsewhere_exec hp h)

end Sys2Proof.Machine
end

section
/-! SUPPORT and PROOF of O11: lasers, enable and disable, launch power (R103 to R108/03). -/
namespace Sys2Proof.Machine

variable {s t u : State} {p : Nat} {r : Req}

theorem exec_need {n : String} {ok : Bool} {c : Instr} (h : exec c s = need n ok t) (hok : ok = true) : exec c s = .next t :=
  h.trans (need_next.2 ⟨hok, rfl⟩)

theorem txPort_respond (r : Req) (a : Reply) (q : Nat) : txPort (respond r a) q = txPort a.st q :=
  txPort_congr (respond_same r a (by simp)) q

/-- A line command of another port leaves the transmitter of this one. -/
theorem txPort_exec_other {c : Instr} {q : Nat} (hp : portOf s c = some p) (h : exec c s = .next t) (hq : q ≠ p) :
    txPort t q = txPort s q := ((elsewhere_eq_iff.1 (elsewhere_exec hp h)).1 q hq).1

/-! The laser and the feed. -/

theorem txPort_useFree (q : Nat) : txPort (useFree s) q = txPort s q := rfl

theorem txPort_shutTx (st : TxState) : txPort (shutTx p st s) p = { txPort s p with
    tx := st, bias := 0, attn := 350, attnFrom := 350, drivers := false, power := offPower s } := by
  rw [shutTx, txPort_useFree, txPort_same]

theorem txPort_feedLost (cause : Nat) : txPort (feedLost p cause s) p = txPort (shutTx p .feedLost s) p :=
  txPort_congr (by simp [feedLost]) p

theorem offPower_le : offPower s ≤ -4500 := by
  unfold offPower
  omega

theorem portLaser_assert (hport : okPort (r.u 0 1) = true) (hon : r.u 1 1 = 1) :
    portLaser r s = okay (onTxPort (r.u 0 1) (fun t => { t with len := true }) s) := by
  rw [portLaser, onPort_ok hport]
  simp [hon]

theorem portLaser_deassert (hport : okPort (r.u 0 1) = true) (hoff : r.u 1 1 = 0)
    (htx : transmitting s (r.u 0 1) = true) :
    portLaser r s = okay (feedLost (r.u 0 1) 1 (onTxPort (r.u 0 1) (fun t => { t with len := false }) s)) := by
  rw [portLaser, onPort_ok hport]
  simp [hoff, htx]

theorem txFeedLoss_low {lo : Int} (htx : transmitting s p = true) (hinj : (injOf s (0x01E + p)).running = false)
    (hlow : lo < 900) : txFeedLoss p lo s = feedLost p 2 (onTxPort p (fun t => { t with loTap := lo }) s) := by
  simp [txFeedLoss, loReading, hinj, htx, hlow]

/-! Enable and disable. -/

theorem portTxenable_starts {lo : Int} (hport : okPort (r.u 0 1) = true)
    (hleaf : (hubPort s (r.u 0 1)).role = .leaf → (hubPort s (r.u 0 1)).owned ≠ 0)
    (htx : (txPort s (r.u 0 1)).tx = .off ∨ (txPort s (r.u 0 1)).tx = .feedLost)
    (hreset : resetting s (r.u 0 1) = false) (hfeed : feedGood s (r.u 0 1) lo = true) :
    portTxenable lo r s = { defer r (r.u 0 1) s with
      st := startExchange (r.u 0 1) (startTx (r.u 0 1) lo (defer r (r.u 0 1) s).st) } := by
  have hidle : (txPort s (r.u 0 1)).tx ≠ .on ∧ (txPort s (r.u 0 1)).tx ≠ .starting := by
    rcases htx with h | h <;> simp [h]
  have hgranted : ¬((hubPort s (r.u 0 1)).role = .leaf ∧ (hubPort s (r.u 0 1)).owned = 0) :=
    fun h => hleaf h.1 h.2
  rw [portTxenable, onPort_ok hport]
  simp [hidle, hgranted, hreset, hfeed]

theorem txPort_startExchange (q : Nat) : txPort (startExchange p s) q = txPort s q :=
  txPort_congr (by simp [startExchange]) q

/-- An enable that has started is not ended by the check that follows its response. -/
theorem deniedEnable_started (h : (txPort s (r.u 0 1)).tx = .starting) : deniedEnable r s = s := by
  simp [deniedEnable, h]

theorem launchAim_congr (ht : (txPort t p).target = (txPort s p).target) (hh : hubPort t p = hubPort s p) :
    launchAim t p = launchAim s p := by simp only [launchAim, castPower, ht, hh]

/-- An attenuator that moves nowhere holds the output at its aim. -/
theorem outputPower_settled (hon : (txPort s p).tx = .on) (h : (txPort s p).attnFrom = (txPort s p).attn) :
    outputPower s p = launchAim s p := by
  have hstands : attenuation s p = (txPort s p).attn := by simp [attenuation, h]
  simp [outputPower, hon, hstands]

theorem txPort_settleAttn : ∃ raw attn, txPort (settleAttn p s) p =
    { txPort s p with raw := raw, attn := attn, attnFrom := attn } := by
  refine ⟨freeNat s, aimedAttn (useFree (onTxPort p (fun t => { t with raw := freeNat s }) s)) p, ?_⟩
  rw [settleAttn, txPort_same, txPort_useFree, txPort_same]

/-- What the end of the enable sequence leaves of the transmitter, but for the attenuator's new place. -/
theorem txPort_txEnableDone (h : (txPort s p).tx = .starting) : ∃ raw attn, txPort (txEnableDone p s) p =
    { txPort s p with tx := .on, bias := 2, raw := raw, attn := attn, attnFrom := attn } := by
  obtain ⟨raw, attn, hsettled⟩ :=
    txPort_settleAttn (p := p) (s := onTxPort p (fun t => { t with tx := .on, bias := 2 }) s)
  refine ⟨raw, attn, ?_⟩
  rw [txEnableDone, if_pos h,
    txPort_congr (s := settleAttn p (onTxPort p (fun t => { t with tx := .on, bias := 2 }) s)) (by simp), hsettled,
    txPort_same]

theorem hubPort_txEnableDone (q : Nat) : hubPort (txEnableDone p s) q = hubPort s q := by
  have hhub : Part.hub.same s (txEnableDone p s) := by simp [txEnableDone, settleAttn]
  exact congrArg (tabGet {} · q) hhub

theorem portTxdisable_closes (hport : okPort (r.u 0 1) = true) (htx : (txPort s (r.u 0 1)).tx ≠ .off) :
    portTxdisable r s = okay (closeTx (r.u 0 1) s) := (onPort_ok hport).trans (if_neg htx)

/-! Launch power. -/

/-- A new aim moves the attenuator alone. -/
theorem retarget_keeps : (txPort (retarget p s) p).target = (txPort s p).target
    ∧ (txPort (retarget p s) p).cdPre = (txPort s p).cdPre := by
  unfold retarget onlyIf
  split
  · rw [txPort_same]
    exact ⟨rfl, rfl⟩
  · exact ⟨rfl, rfl⟩

theorem portTxpower_accepts {feed : Int} (hport : okPort (r.u 0 1) = true) (hflag : r.u 1 1 ≤ 1)
    (hlow : -150 ≤ r.i 2 2) (hhigh : r.i 2 2 ≤ 10) (hfeed : r.i 2 2 ≤ -10 ∨ 1900 ≤ feed)
    (hcd : r.u 1 1 = 1 → -20000 ≤ r.i 4 4 ∧ r.i 4 4 ≤ 20000 ∧ transmitting s (r.u 0 1) = false) :
    portTxpower feed r s = okay (retarget (r.u 0 1) (onTxPort (r.u 0 1) (fun t => { t with
      target := r.i 2 2, cdPre := if r.u 1 1 = 1 then r.i 4 4 else t.cdPre }) s)) := by
  have hrange : ¬(r.i 2 2 < -150 ∨ 10 < r.i 2 2 ∨ (-10 < r.i 2 2 ∧ feed < 1900)) := by omega
  rw [portTxpower, onPort_ok hport]
  by_cases hboth : r.u 1 1 = 1
  · obtain ⟨hmin, hmax, hidle⟩ := hcd hboth
    have hcdRange : ¬(r.i 4 4 < -20000 ∨ 20000 < r.i 4 4) := by omega
    simp [hboth, hrange, hcdRange, hidle]
  · simp [hboth, hrange, hflag]

theorem scTxpower_accepts (hsc : okSc (r.u 0 1) = true) (hlow : -60 ≤ r.i 2 2) (hhigh : r.i 2 2 ≤ 30) :
    scTxpower r s = okay (onTxSc (r.u 0 1) (fun x => { x with offset := r.i 2 2 }) s) := by
  have hrange : ¬(r.i 2 2 < -60 ∨ 30 < r.i 2 2) := by omega
  exact (if_pos hsc).trans (if_neg hrange)

theorem txSc_respond (r : Req) (a : Reply) (q : Nat) : txSc (respond r a) q = txSc a.st q := by
  rw [txSc, respond_same r a (q := .txs) (by simp), txSc]

/-! Status. -/

theorem portTxstatus_fields (hport : okPort (r.u 0 1) = true) :
    (portTxstatus r s).code = .ok ∧ (portTxstatus r s).st = s ∧ 8 ≤ (portTxstatus r s).pay.length
      ∧ getU 0 1 (portTxstatus r s).pay = txStateNum (txPort s (r.u 0 1)).tx
      ∧ getU 6 2 (portTxstatus r s).pay = attenuation s (r.u 0 1) % 65536 := by
  rw [portTxstatus, onPort_ok hport]
  dsimp only [okWith]
  refine ⟨rfl, rfl, by simp; omega, ?_, ?_⟩
  · refine (getU_cons_zero ..).trans ((byteOf_toNat _).trans ?_)
    cases (txPort s (r.u 0 1)).tx <;> rfl
  · change beNat (natBE 2 (attenuation s (r.u 0 1))) = _
    exact beNat_natBE ..

theorem scTxstatus_fields (hsc : okSc (r.u 0 1) = true) :
    (scTxstatus r s).code = .ok ∧ 16 ≤ (scTxstatus r s).pay.length
      ∧ getU 0 1 (scTxstatus r s).pay = txClass s (r.u 0 1) % 256
      ∧ getU 8 8 (scTxstatus r s).pay = (txSc s (r.u 0 1)).frames % 2 ^ 64 := by
  rw [scTxstatus, onSc, if_pos hsc]
  dsimp only [okWith]
  refine ⟨rfl, by simp, (getU_cons_zero ..).trans (byteOf_toNat _), ?_⟩
  change beNat (natBE 8 (txSc s (r.u 0 1)).frames) = _
  exact beNat_natBE ..

/-- Settles O11: each command's reply, and what it leaves of the transmitter. -/
theorem lineTransmit : Obligations.LineTransmit := by
  unfold Obligations.LineTransmit
  refine ⟨fun mb s acc hport => ⟨fun hon => ?_, fun hoff htx => ?_⟩,
    fun mb lo s acc hport hleaf htx hreset hfeed => ?_, fun p s hport htx => ?_, fun mb s acc hport htx => ?_,
    fun p lo s hport htx hinj hlow => ?_, fun p child s hport hchild htx => ?_,
    fun mb feed s acc hport hflag hlow hhigh hfeed hcd => ?_, fun mb s acc hport => ?_,
    fun mb s acc hsc hlow hhigh => ?_, fun mb s acc hsc => ?_⟩
  · refine runs_mailbox acc rfl ?_
    rw [portLaser_assert hport hon]
    refine ⟨answered_of_accepted acc rfl, ?_⟩
    rw [txPort_respond, okay, arg, txPort_same]
    exact ⟨rfl, rfl⟩
  · refine runs_mailbox acc rfl ?_
    rw [portLaser_deassert hport hoff htx]
    refine ⟨answered_of_accepted acc rfl, ?_⟩
    rw [txPort_respond, okay, arg, txPort_feedLost, txPort_shutTx, txPort_same]
    exact ⟨rfl, rfl⟩
  · have hrun := mailboxThen_accepted (portTxenable lo) deniedEnable acc
    rw [portTxenable_starts hport hleaf htx hreset hfeed] at hrun
    generalize ha : ({ defer _ _ s with st := _ } : Reply) = a at hrun
    have hstarted : txPort (respond (requestOf s mb) a) (arg s mb 0 1) = { txPort s (arg s mb 0 1) with
        tx := .starting, bias := 1, attn := 350, attnFrom := 350, drivers := true
        loTap := loReading s (arg s mb 0 1) lo } := by
      rw [txPort_respond, ← ha]
      exact (txPort_startExchange _).trans (txPort_startTx ..)
    have hkeep : onlyIf (!a.same) (deniedEnable (requestOf s mb)) (respond (requestOf s mb) a)
        = respond (requestOf s mb) a := onlyIf_self (deniedEnable_started (congrArg TxPort.tx hstarted))
    rw [hkeep] at hrun
    refine runs_of_exec hrun ⟨answered_of_accepted acc (ha ▸ rfl), ?_, ?_, ?_,
      fun q hq => txPort_exec_other (c := .portTxenable mb lo) rfl hrun hq⟩
    all_goals rw [hstarted]
  · have hrun : exec (.txEnableDone p) s = .next (txEnableDone p s) := exec_need rfl hport
    obtain ⟨raw, attn, hdone⟩ := txPort_txEnableDone htx
    have haim : launchAim (txEnableDone p s) p = launchAim s p := launchAim_congr (by rw [hdone]) (hubPort_txEnableDone p)
    refine runs_of_exec hrun ⟨by rw [hdone], by rw [hdone], ?_, fun q hq => txPort_exec_other rfl hrun hq⟩
    rw [outputPower_settled (by rw [hdone]) (by rw [hdone]), haim]
  · refine runs_mailbox acc rfl ?_
    rw [portTxdisable_closes hport htx]
    refine ⟨answered_of_accepted acc rfl, ?_⟩
    rw [txPort_respond, okay, arg, txPort_closeTx, txPort_shutTx]
    exact ⟨rfl, rfl, rfl, offPower_le⟩
  · refine runs_of_next (exec_need rfl hport) (txFeedLoss_low htx hinj hlow) ?_
    rw [txPort_feedLost, txPort_shutTx, txPort_same]
    exact ⟨rfl, rfl⟩
  · have hok : (okPort p && decide (child < 4)) = true := by simp [hport, hchild]
    refine runs_of_next (t := raisePort 0x0203 p [byteOf p, byteOf child] (onTxPort p (fun t => { t with bias := 3 }) s))
      (exec_need rfl hok) (by rw [htx, onlyIf_true]) ⟨?_, ?_, logged_raise ..⟩
    all_goals rw [txPort_congr (s := onTxPort p (fun t => { t with bias := 3 }) s) (by simp), txPort_same]
  · refine runs_mailbox acc rfl ?_
    rw [portTxpower_accepts hport hflag hlow hhigh hfeed hcd]
    refine ⟨answered_of_accepted acc rfl, ?_⟩
    rw [txPort_respond, okay, arg, retarget_keeps.1, retarget_keeps.2, txPort_same]
    simp only [arg, argI, true_and]
    rfl
  · obtain ⟨hcode, hst, hlen, hstate, hattn⟩ := portTxstatus_fields (s := s) (r := requestOf s mb) hport
    refine runs_mailbox acc rfl ⟨answered_of_accepted acc hcode, ?_, ?_, ?_⟩
    · exact (resp_respond _ _ (by omega)).trans hstate
    · exact (resp_respond _ _ (by omega)).trans hattn
    · exact (respond_same _ _ (q := .txp) (by simp)).trans (congrArg State.txp hst)
  · refine runs_mailbox acc rfl ?_
    rw [scTxpower_accepts hsc hlow hhigh]
    refine ⟨answered_of_accepted acc rfl, ?_, fun q hq => ?_⟩
    · rw [txSc_respond, okay, arg, argI, txSc_same]
    · exact (txSc_respond ..).trans (txSc_other _ s hq)
  · obtain ⟨hcode, hlen, hcls, hframes⟩ := scTxstatus_fields (s := s) (r := requestOf s mb) hsc
    refine runs_mailbox acc rfl ⟨answered_of_accepted acc hcode, ?_, ?_⟩
    · exact (resp_respond _ _ (by omega)).trans hcls
    · exact (resp_respond _ _ (by omega)).trans hframes

end Sys2Proof.Machine
end

section
/-! SUPPORT and PROOF of O12: where a format change is placed, and what it does at its boundary (R96 to R99/03). -/
namespace Sys2Proof.Machine

variable {s t u : State} {p i j : Nat} {r : Req}

/-! Common boundaries. -/

theorem le_boundaryAfter (x : Nat) : x ≤ boundaryAfter x := by
  simp only [boundaryAfter, gridAfter, ceilDiv, boundaryTicks, ticksNs]
  omega

theorem boundaryAfter_mod (x : Nat) : boundaryAfter x % (537600 * 65536) = 0 := by
  rw [boundaryAfter, gridAfter, boundaryTicks, ticksNs, Nat.mul_comm 65536]
  exact Nat.mul_mod_left ..

/-- The boundary a request gets is the one at or after some instant, at least 2.0 ms ahead. -/
theorem wantedBoundary_some {off b : Nat} (h : wantedBoundary off r s = some b) :
    (∃ x, b = boundaryAfter x) ∧ now s + ticksMs 2 ≤ b := by
  unfold wantedBoundary at h
  split at h
  · cases h
  · cases h
    exact ⟨⟨_, rfl⟩, le_boundaryAfter _⟩
  · split at h
    next hle =>
      cases h
      exact ⟨⟨_, rfl⟩, hle⟩
    · cases h

/-! Cues. -/

theorem state_of_firstFrom {f : Nat → Bool} {lo n : Nat} (h : firstFrom f lo n = some i) : f i = true := by
  induction n generalizing lo with
  | zero => cases h
  | succ n ih =>
    unfold firstFrom at h
    split at h
    next hlo =>
      cases h
      exact hlo
    · exact ih h

theorem cueAt_of_freeShared (h : freeShared s = some i) : (cueAt s i).state = 0 := by
  simpa using state_of_firstFrom h

theorem cueAt_congr (h : Part.cues.same s t) (i : Nat) : cueAt t i = cueAt s i := by
  have hcues : t.cues = s.cues := h
  rw [cueAt, hcues, cueAt]

theorem cueAt_placeCue_same (c : Cue) : ∃ origin, cueAt (placeCue i c s) i = { c with origin := origin } :=
  ⟨_, cueAt_setCue_same ..⟩

theorem cueAt_placeCue_other (h : j ≠ i) (c : Cue) : cueAt (placeCue i c s) j = cueAt s j :=
  (cueAt_setCue i j _ s).trans (if_neg h)

theorem cueAt_noteLate (late : Nat) : cueAt (noteLate late s) i = cueAt s i :=
  onlyIf_apply (cueAt · i) _ rfl

/-- A cue that is done is free. -/
theorem cueAt_cueDone (at_ first : Nat) : cueAt (cueDone i at_ first s) i = {} := by
  unfold cueDone
  rw [onlyIf_apply (cueAt · i) _ (cueAt_noteLate _)]
  exact cueAt_clearCue_same i s

/-! Placing a change. -/

/-- The cue of a format change and its companion remap cue, as placed. -/
def formatCue (p b tag : Nat) : Cue := { state := 1, kind := 1, origin := 0, obj := p, time := b, tag := tag }
def remapCue (p b : Nat) : Cue := { state := 1, kind := 4, origin := 1, obj := p, time := b }

/-- The state with the two cues in entries `i` and `j`, and the change added to its port's. -/
def withChange (p b tag i j : Nat) (c : FormatChange) (s : State) : State :=
  onTxPort p (fun t => { t with changes := t.changes ++ [c] })
    (placeCue j (remapCue p b) (placeCue i (formatCue p b tag) s))

theorem placeChange_free {mask b tag : Nat} {classes : List Nat} (hi : freeShared s = some i)
    (hj : freeShared (placeCue i (formatCue p b tag) s) = some j) :
    placeChange p mask classes b tag 0 s = some (withChange p b tag i j ⟨b, mask, classes, i, j⟩ s) := by
  unfold formatCue at hj
  simp only [placeChange, hi, hj]
  rfl

theorem cueAt_withChange {b tag : Nat} {c : FormatChange}
    (hj : freeShared (placeCue i (formatCue p b tag) s) = some j) :
    (cueAt (withChange p b tag i j c s) i).kind = 1 ∧ (cueAt (withChange p b tag i j c s) i).time = b
      ∧ (cueAt (withChange p b tag i j c s) j).kind = 4 ∧ (cueAt (withChange p b tag i j c s) j).time = b := by
  obtain ⟨o, hplaced⟩ := cueAt_placeCue_same (i := i) (s := s) (formatCue p b tag)
  have hne : i ≠ j := by
    rintro rfl
    have hfree := cueAt_of_freeShared hj
    rw [hplaced] at hfree
    cases hfree
  obtain ⟨o', hremap⟩ := cueAt_placeCue_same (i := j) (s := placeCue i (formatCue p b tag) s) (remapCue p b)
  have hfmt : cueAt (withChange p b tag i j c s) i = { formatCue p b tag with origin := o } :=
    (cueAt_placeCue_other hne _).trans hplaced
  have hrem : cueAt (withChange p b tag i j c s) j = { remapCue p b with origin := o' } := hremap
  rw [hfmt, hrem]
  exact ⟨rfl, rfl, rfl, rfl⟩

/-- On a point-to-point port without a change, permitted classes at a permitted boundary are placed. -/
theorem portFormat_places {b : Nat} (hport : okPort (r.u 0 1) = true) (hrole : (hubPort s (r.u 0 1)).role = .p2p)
    (hnone : (txPort s (r.u 0 1)).changes = [])
    (hcls : ∀ k, k < 16 → bitOf (r.u 2 2) k = true → classOk (((field 14 16 r.pay).map (·.toNat)).getD k 0) = true)
    (hb : wantedBoundary 4 r s = some b)
    (hplace : placeChange (r.u 0 1) (r.u 2 2) ((field 14 16 r.pay).map (·.toNat)) b r.tag 0 s = some t) :
    portFormat r s = formatReply b 0 t := by
  have hok : (maskList 16 (r.u 2 2)).any (fun k => !classOk (((field 14 16 r.pay).map (·.toNat)).getD k 0)) = false := by
    rw [List.any_eq_false]
    intro k hk
    obtain ⟨hlt, hbit⟩ := mem_maskList.1 hk
    rw [hcls k hlt hbit]
    decide
  have hopen : openChange s (r.u 0 1) = none := by rw [openChange, hnone]; rfl
  have hmerge : merges s (r.u 0 1) = false := by simp [merges, hrole]
  have hlights : lightsUngranted s (r.u 0 1) (r.u 2 2) ((field 14 16 r.pay).map (·.toNat)) = false := by
    simp [lightsUngranted, hrole]
  rw [portFormat, onPort_ok hport]
  simp only [hok, hmerge, hb, hlights, hrole, hopen, hnone, hplace]
  rfl

/-! The boundary. -/

theorem getD_map_range {n k : Nat} (f : Nat → Nat) (hk : k < n) : ((List.range n).map f).getD k 0 = f k := by
  simp [List.getD, hk]

/-- What a format change leaves in its port's transmitter, whose classes were `old`: the new classes, and the change taken
out. -/
def formatted (c : FormatChange) (old : List Nat) (t : TxPort) : TxPort :=
  { t with
    classes := applyClasses c old, changes := t.changes.erase c
    goneDark := t.goneDark ||| listMask ((maskList 16 c.mask).filter (fun k =>
      decide (0 < old.getD k 0) && decide (c.classes.getD k 0 = 0))) }

theorem formatted_classes {c : FormatChange} {old : List Nat} {x : TxPort} {k : Nat} (hk : k < 16) :
    (formatted c old x).classes.getD k 0 = if bitOf c.mask k then c.classes.getD k 0 else old.getD k 0 :=
  getD_map_range _ hk

theorem same_restartFrames {q : Part} (c : FormatChange) (old : List Nat) (k : Nat) (hq : q = .txp ∨ q = .hub) :
    q.same s (restartFrames p c old k u) ↔ q.same s u := by
  unfold restartFrames onlyIf
  rcases hq with rfl | rfl <;> split_ifs <;> rfl

theorem same_cueDone {q : Part} (at_ first : Nat) (hq : q ∉ [Part.ev, .cues, .log]) :
    q.same s (cueDone i at_ first u) ↔ q.same s u := same_iff_of_within hq (within_cueDone i at_ first u)

section
variable {c : FormatChange} {at_ : Nat}
  (hfind : (txPort s (cueAt s i).obj).changes.find? (fun c => c.cue == i) = some c)
include hfind

/-- Of the ports' transmitters and roles, a format change changes what `formatted` says. -/
theorem same_applyFormat {q : Part} (hq : q = .txp ∨ q = .hub) :
    q.same (onTxPort (cueAt s i).obj (formatted c (txPort s (cueAt s i).obj).classes) s) (applyFormat i at_ s) := by
  have hcue : q ∉ [Part.ev, .cues, .log] := by rcases hq with rfl | rfl <;> decide
  have hraise : q ∉ [Part.ev, .log] := by rcases hq with rfl | rfl <;> decide
  unfold applyFormat
  dsimp only
  rw [hfind]
  dsimp only
  rw [same_cueDone _ _ hcue, same_raisePort _ _ _ hraise, same_forAll _ _ fun k _ => same_restartFrames c _ k hq]
  rcases hq with rfl | rfl <;> rfl

theorem cueAt_applyFormat : cueAt (applyFormat i at_ s) i = {} := by
  unfold applyFormat
  dsimp only
  rw [hfind]
  exact cueAt_cueDone ..

end

/-- A far end that names no classes, or supports the port's, limits none. -/
theorem limitClasses_supported (h : (hubPort s p).far = []
    ∨ ∀ k, k < 16 → supports (getU 1 1 (hubPort s p).far) ((txPort s p).classes.getD k 0) = true) :
    limitClasses p s = s := by
  refine if_pos (h.imp_right fun hall => ?_)
  rw [List.filter_eq_nil_iff]
  intro k hk
  have hlt : k < 16 := List.mem_range.1 hk
  rw [classesNow, getD_map_range _ hlt, hall k hlt]
  decide

/-- A point-to-point port whose far end plays that role too and supports the new classes changes as placed. -/
theorem formatChange_placed {at_ : Nat} (hrole : (hubPort s (cueAt s i).obj).role = .p2p)
    (hmism : (hubPort s (cueAt s i).obj).mism = false)
    (hlimit : limitClasses (cueAt s i).obj (applyFormat i at_ s) = applyFormat i at_ s) :
    formatChange i at_ s = applyFormat i at_ s := by
  have hhub : isHub s (cueAt s i).obj = false := by simp [isHub, hrole]
  simp [formatChange, hhub, hrole, hmism, hlimit]

/-- Settles O12: what port.format places, where boundaries lie, and what the change's cue leaves. -/
theorem formatChanges : Obligations.FormatChanges := by
  unfold Obligations.FormatChanges
  refine ⟨fun mb b i j s acc hport hrole hnone hcls hb hi hj => ?_, fun r s off b hb => ?_,
    fun i at_ c s hcue hdue hrole hmism hfar hone hc => ?_⟩
  · have hplace := placeChange_free (mask := arg s mb 2 2)
      (classes := (field 14 16 (requestOf s mb).pay).map (·.toNat)) hi hj
    refine runs_mailbox acc rfl ?_
    rw [portFormat_places hport hrole hnone hcls hb hplace]
    refine ⟨answered_of_accepted acc rfl, ?_, ?_, ?_⟩
    · rw [txPort_respond, formatReply, okWith, withChange, txPort_same, txPort_congr (s := s) (by simp), hnone]
      rfl
    · rw [txPort_respond, formatReply, okWith, withChange, txPort_same, txPort_congr (s := s) (by simp)]
    · rw [cueAt_congr (respond_same _ _ (q := .cues) (by simp)), cueAt_congr (respond_same _ _ (q := .cues) (by simp))]
      exact cueAt_withChange hj
  · obtain ⟨⟨x, rfl⟩, hahead⟩ := wantedBoundary_some hb
    exact ⟨boundaryAfter_mod x, hahead⟩
  · have hfind : (txPort s (cueAt s i).obj).changes.find? (fun c => c.cue == i) = some c := by simp [hone, hc]
    have htx (q : Nat) := txPort_congr (same_applyFormat (at_ := at_) hfind (.inl rfl)) q
    have hhub : hubPort (applyFormat i at_ s) (cueAt s i).obj = hubPort s (cueAt s i).obj := by
      rw [hubPort, same_applyFormat (at_ := at_) hfind (.inr rfl)]
      rfl
    have hport : txPort (applyFormat i at_ s) (cueAt s i).obj
        = formatted c (txPort s (cueAt s i).obj).classes (txPort s (cueAt s i).obj) := (htx _).trans (txPort_same ..)
    have hclass (k : Nat) (hk : k < 16) : (txPort (applyFormat i at_ s) (cueAt s i).obj).classes.getD k 0
        = if bitOf c.mask k then c.classes.getD k 0 else (txPort s (cueAt s i).obj).classes.getD k 0 := by
      rw [hport, formatted_classes hk]
    have hlimit : limitClasses (cueAt s i).obj (applyFormat i at_ s) = applyFormat i at_ s := by
      refine limitClasses_supported ?_
      rw [hhub]
      exact hfar.imp_right fun hall k hk => hclass k hk ▸ hall k hk
    have hrun : exec (.formatChangeCue i at_) s = .next (formatChange i at_ s) :=
      (exec_need (t := onlyIf (dueOnGrid s i 1 at_) (formatChange i at_) s) rfl hcue).trans (by rw [hdue, onlyIf_true])
    refine runs_of_next hrun (formatChange_placed hrole hmism hlimit) ⟨?_, hclass, ?_, fun q hq => ?_⟩
    · rw [hport, formatted, hone]
      simp
    · rw [cueAt_applyFormat hfind]
    · exact (htx q).trans (txPort_other _ s hq)

end Sys2Proof.Machine
end

section
/-! SUPPORT of O13 to O16: what the receiver's operations leave of a port's receiver and of its subcarriers. -/
namespace Sys2Proof.Machine

variable {s t : State} {p k sc : Nat} {quiet : Bool}

/-! Flags and responses leave the receivers. -/

@[simp] theorem rxPort_raisePort (code p data q) : rxPort (raisePort code p data s) q = rxPort s q := rfl
@[simp] theorem rxPort_raiseSc (code k data q) : rxPort (raiseSc code k data s) q = rxPort s q := rfl
@[simp] theorem rxSc_raiseSc (code k data q) : rxSc (raiseSc code k data s) q = rxSc s q := rfl
@[simp] theorem rxSc_raisePort (code p data q) : rxSc (raisePort code p data s) q = rxSc s q := rfl
@[simp] theorem rxPort_onRxSc (k f q) : rxPort (onRxSc k f s) q = rxPort s q := rfl
@[simp] theorem rxSc_onRxPort (p f q) : rxSc (onRxPort p f s) q = rxSc s q := rfl
@[simp] theorem rxSc_onRxFramer (k f q) : rxSc (onRxFramer k f s) q = rxSc s q := rfl
@[simp] theorem rxPort_useFree (q) : rxPort (useFree s) q = rxPort s q := rfl
@[simp] theorem hubPort_onRxPort (p f q) : hubPort (onRxPort p f s) q = hubPort s q := rfl

theorem hubPort_congr (h : Part.hub.same s t) (q : Nat) : hubPort t q = hubPort s q := by
  simp only [hubPort, show t.hub = s.hub from h]

theorem rxPort_respond (r : Req) (a : Reply) (q : Nat) : rxPort (respond r a) q = rxPort a.st q :=
  rxPort_congr (respond_same r a (by simp)) q

theorem rxSc_respond (r : Req) (a : Reply) (q : Nat) : rxSc (respond r a) q = rxSc a.st q :=
  rxSc_congr (respond_same r a (by simp)) q

@[simp] theorem rxPort_mirror (m : MirrorRecord) (q : Nat) : rxPort (mirror m s) q = rxPort s q :=
  rxPort_congr (by simp) q

@[simp] theorem rxPort_finishDeferred (op obj : Nat) (c : Code) (q : Nat) :
    rxPort (finishDeferred op obj c s) q = rxPort s q := rxPort_congr (by simp) q

/-- A line command of another port leaves the receiver of this one. -/
theorem rxPort_exec_other {c : Instr} {q : Nat} (hp : portOf s c = some p) (h : exec c s = .next t) (hq : q ≠ p) :
    rxPort t q = rxPort s q := ((elsewhere_eq_iff.1 (elsewhere_exec hp h)).1 q hq).2.1

theorem clampInt_mem {lo hi : Int} (h : lo ≤ hi) (v : Int) : lo ≤ clampInt lo hi v ∧ clampInt lo hi v ≤ hi := by
  unfold clampInt
  split_ifs <;> omega

/-! The equalizer of a port. -/

theorem rxPort_onCd (f : CdEq → CdEq) : rxPort (onCd p f s) p = { rxPort s p with cd := f (rxPort s p).cd } :=
  rxPort_same ..

@[simp] theorem cdOf_onCd (f : CdEq → CdEq) : cdOf (onCd p f s) p = f (cdOf s p) := congrArg RxPort.cd (rxPort_onCd f)

theorem cdOf_congr (h : Part.rxp.same s t) (p : Nat) : cdOf t p = cdOf s p := congrArg RxPort.cd (rxPort_congr h p)

/-- Ending a dissolve changes nothing of its port but the equalizer. -/
theorem rxPort_endDissolve : ∃ cd, rxPort (endDissolve p s) p = { rxPort s p with cd := cd } := by
  have hcues : rxPort (freeCdCues (cdOf s p) s) p = rxPort s p := rxPort_congr (by simp) p
  refine ⟨?cd, ?_⟩
  case cd => exact cdOf (endDissolve p s) p
  unfold cdOf endDissolve
  rw [onlyIf_apply (rxPort · p) _ rfl, rxPort_onCd, hcues]

theorem rxPort_endDissolveIf (c : Bool) :
    ∃ cd, rxPort (onlyIf c (endDissolve p) s) p = { rxPort s p with cd := cd } := by
  cases c
  · exact ⟨(rxPort s p).cd, by rw [onlyIf_false]⟩
  · rw [onlyIf_true]
    exact rxPort_endDissolve

/-! Stopping a subcarrier's loops (R135, R149, R153). -/

/-- A subcarrier whose loops have stopped. -/
def stoppedSc (x : RxSc) : RxSc :=
  { x with conv := false, lqi := 0, mimo := [], phase := 0, ted := 0, clk := 0, freq := 0, freqs := [] }

theorem rxSc_stopSc (j : Nat) : rxSc (stopSc quiet k s) j = if j = k then stoppedSc (rxSc s k) else rxSc s j := by
  have hquiet : rxSc (unconverge quiet k s) j = rxSc (onRxSc k (fun x => { x with conv := false, lqi := 0 }) s) j :=
    onlyIf_apply (rxSc · j) _ rfl
  rw [stopSc, rxSc_apply]
  split
  next h =>
    subst h
    rw [hquiet, rxSc_same]
    rfl
  next h => rw [hquiet, rxSc_other _ _ h]

theorem rxSc_forAll_stopSc (l : List Nat) (j : Nat) :
    rxSc (forAll (stopSc quiet) l s) j = if j ∈ l then stoppedSc (rxSc s j) else rxSc s j := by
  induction l generalizing s with
  | nil => rfl
  | cons k l ih =>
    rw [forAll, ih, rxSc_stopSc]
    by_cases hk : j = k <;> by_cases hl : j ∈ l <;> simp [hk, hl, stoppedSc]

@[simp] theorem rxPort_forAll_stopSc (l : List Nat) (q : Nat) : rxPort (forAll (stopSc quiet) l s) q = rxPort s q :=
  rxPort_congr (by simp) q

@[simp] theorem hubPort_forAll_stopSc (l : List Nat) (q : Nat) : hubPort (forAll (stopSc quiet) l s) q = hubPort s q :=
  hubPort_congr (by simp) q

/-! Receive classes. -/

/-- A subcarrier's class follows from its settings, what the far end announces, and the role of its port. -/
theorem rxClass_congr (hhub : hubPort t (scPort sc) = hubPort s (scPort sc))
    (hsc : ((rxSc t sc).oos, (rxSc t sc).far, (rxSc t sc).cfg) = ((rxSc s sc).oos, (rxSc s sc).far, (rxSc s sc).cfg)) :
    rxClass t sc = rxClass s sc := by
  simp only [Prod.mk.injEq] at hsc
  obtain ⟨hoos, hfar, hcfg⟩ := hsc
  simp only [rxClass, hhub, hoos, hfar, hcfg]

theorem rxClass_forAll_stopSc (l : List Nat) : rxClass (forAll (stopSc quiet) l s) sc = rxClass s sc := by
  refine rxClass_congr (by simp) ?_
  rw [rxSc_forAll_stopSc]
  split <;> rfl

@[simp] theorem rxClass_onRxPort (p f) : rxClass (onRxPort p f s) sc = rxClass s sc := rfl

/-! The gain control (R110, R217/07). -/

theorem gainParked_congr (hhub : hubPort t p = hubPort s p) (hrx : receiving t p = receiving s p)
    (hcls : ∀ sc, rxClass t sc = rxClass s sc) : gainParked t p = gainParked s p := by
  have hlit : (portScs p).any (rxLit t) = (portScs p).any (rxLit s) := by
    rw [Bool.eq_iff_iff, List.any_eq_true, List.any_eq_true]
    refine exists_congr fun sc => and_congr_right fun hsc => ?_
    rw [rxLit, rxLit, mem_portScs.1 hsc, hrx, hcls]
  rw [gainParked, gainParked, hhub, hlit]

/-- Where light is present the gain is held only where a hub parks it. -/
theorem rxPort_releaseGain : ∃ gain, rxPort (releaseGain p s) p =
    { rxPort s p with gain := gain, gainAt := now s, gainFrozen := gainParked s p } := by
  unfold releaseGain
  split
  next h => exact ⟨3000, (rxPort_same ..).trans (by rw [h])⟩
  next h => exact ⟨gainNow s p, (rxPort_same ..).trans (by rw [Bool.eq_false_iff.2 h])⟩

theorem rxPort_freezeGain : rxPort (freezeGain p s) p =
    { rxPort s p with gain := gainNow s p, gainAt := now s, gainFrozen := true } := rxPort_same ..

/-! Acquisition (R151). -/

/-- The port as it enters AFC, before its gain is released and its equalizer idled. -/
def inAfc (p : Nat) (s : State) : State :=
  onRxPort p (fun r => { r with st := .afc, acq := satAdd max32 r.acq 1 }) (forAll (stopSc false) (portScs p) s)

theorem rxPort_inAfc : rxPort (inAfc p s) p = { rxPort s p with st := .afc, acq := satAdd max32 (rxPort s p).acq 1 } := by
  rw [inAfc, rxPort_same, rxPort_forAll_stopSc]

theorem gainParked_inAfc (hrx : receiving s p = true) : gainParked (inAfc p s) p = gainParked s p :=
  gainParked_congr (by simp [inAfc]) (by rw [hrx]; simp [receiving, rxPort_inAfc]) (by simp [inAfc, rxClass_forAll_stopSc])

/-- Entering AFC counts an acquisition and releases the gain; of the rest of the port only the equalizer may change. -/
theorem rxPort_enterAfc (hrx : receiving s p = true) : ∃ gain gainAt cd, rxPort (enterAfc p s) p = { rxPort s p with
    st := .afc, acq := satAdd max32 (rxPort s p).acq 1, gain := gain, gainAt := gainAt, gainFrozen := gainParked s p
    cd := cd } := by
  obtain ⟨gain, hgain⟩ := rxPort_releaseGain (p := p) (s := inAfc p s)
  rw [gainParked_inAfc hrx, rxPort_inAfc] at hgain
  obtain ⟨cd, hcd⟩ := rxPort_endDissolveIf (p := p) (s := releaseGain p (inAfc p s)) (!(rxPort s p).manual)
  exact ⟨gain, _, cd, hcd.trans (by rw [hgain])⟩

end Sys2Proof.Machine
end

section
/-! SUPPORT and PROOF of O13: the states of a receiver (R111, R115, R126, R139, R149, R151/04). -/
namespace Sys2Proof.Machine

variable {s : State} {p sc : Nat} {r : Req}

theorem receiving_of_st {st : RxState} (h : (rxPort s p).st = st) (hon : st ≠ .off) : receiving s p = true := by
  simp [receiving, h, hon]

theorem enterAfc_acquires (hrx : receiving s p = true) : (rxPort (enterAfc p s) p).st = .afc
    ∧ (rxPort (enterAfc p s) p).acq = min max32 ((rxPort s p).acq + 1) := by
  obtain ⟨_, _, _, hafc⟩ := rxPort_enterAfc hrx
  rw [hafc]
  exact ⟨rfl, rfl⟩

/-- A failed acquisition step starts the next acquisition. -/
theorem acqFail_acquires (state : Nat) (hrx : receiving s p = true) : (rxPort (acqFail p state s) p).st = .afc
    ∧ (rxPort (acqFail p state s) p).acq = min max32 ((rxPort s p).acq + 1) :=
  enterAfc_acquires (s := raisePort 0x0206 p [byteOf p, byteOf state] s) hrx

/-! Enable, calibration and disable. -/

theorem portRxenable_starts {lo : Int} (hport : okPort (r.u 0 1) = true) (hoff : (rxPort s (r.u 0 1)).st = .off)
    (hreset : resetting s (r.u 0 1) = false) (hfeed : feedGood s (r.u 0 1) lo = true) :
    portRxenable lo r s = { defer r (r.u 0 1) s with
      st := startExchange (r.u 0 1) (startRx (r.u 0 1) lo (defer r (r.u 0 1) s).st) } := by
  rw [portRxenable, onPort_ok hport]
  simp [hoff, hreset, hfeed]

theorem rxPort_startExchange (q : Nat) : rxPort (startExchange p s) q = rxPort s q :=
  rxPort_congr (by simp [startExchange]) q

/-- An enable whose calibration has started is not ended by the check that follows its response. -/
theorem deniedRxenable_started (h : (rxPort s (r.u 0 1)).st = .calibrate) : deniedRxenable r s = s := by
  simp [deniedRxenable, h]

theorem rxCalibrationDone_st (h : (rxPort s p).st = .calibrate) :
    (rxPort (rxCalibrationDone p s) p).st = if (rxPort s p).light then .afc else .noLight := by
  rw [rxCalibrationDone, if_pos h]
  cases hlight : (rxPort s p).light
  · simp
  · exact (enterAfc_acquires (by simp [receiving])).1

theorem portRxdisable_closes (hport : okPort (r.u 0 1) = true) (hon : (rxPort s (r.u 0 1)).st ≠ .off) :
    portRxdisable r s = okay (closeRx (r.u 0 1) s) := (onPort_ok hport).trans (if_neg hon)

/-! Light (R111). -/

@[simp] theorem hubPort_releaseGain (q : Nat) : hubPort (releaseGain p s) q = hubPort s q := by
  unfold releaseGain
  split <;> rfl

@[simp] theorem rxClass_releaseGain : rxClass (releaseGain p s) sc = rxClass s sc := by
  unfold releaseGain
  split <;> rfl

@[simp] theorem afterCalibrate_noLight : afterCalibrate .noLight = true := rfl

theorem lightPresent_enters {power : Int} (hst : (rxPort s p).st = .noLight) (hlight : lightForced s p = false)
    (hpower : 10 * (rxPort s p).lolThr + 100 ≤ power) : lightPresent p power s =
      enterAfc p (releaseGain p (onRxPort p (fun r => { r with light := true, power := power }) s)) := by
  simp [lightPresent, hst, hlight, hpower]

/-- Light found in NO_LIGHT starts an acquisition; the gain is held only where a hub parks it. -/
theorem rxPort_lightPresent {power : Int} (hst : (rxPort s p).st = .noLight) (hlight : lightForced s p = false)
    (hpower : 10 * (rxPort s p).lolThr + 100 ≤ power) : (rxPort (lightPresent p power s) p).st = .afc
      ∧ (rxPort (lightPresent p power s) p).light = true ∧ (rxPort (lightPresent p power s) p).power = power
      ∧ (rxPort (lightPresent p power s) p).gainFrozen = gainParked s p := by
  rw [lightPresent_enters hst hlight hpower]
  generalize hu : onRxPort p (fun r => { r with light := true, power := power }) s = u
  have hport : rxPort u p = { rxPort s p with light := true, power := power } := hu ▸ rxPort_same ..
  obtain ⟨gain, hgain⟩ := rxPort_releaseGain (p := p) (s := u)
  have hst' : (rxPort (releaseGain p u) p).st = .noLight := by rw [hgain, hport]; exact hst
  have hrx : receiving (releaseGain p u) p = true := receiving_of_st hst' nofun
  have hpark : gainParked (releaseGain p u) p = gainParked s p :=
    gainParked_congr (by simp [← hu]) (hrx.trans (receiving_of_st hst nofun).symm) (by simp [← hu])
  obtain ⟨_, _, _, hafc⟩ := rxPort_enterAfc hrx
  rw [hafc, hpark, hgain, hport]
  exact ⟨rfl, rfl, rfl, rfl⟩

/-- Light lost after the calibration: the gain is held, and every subcarrier's loops stop. -/
theorem lightAbsent_leaves {power : Int} (hst : afterCalibrate (rxPort s p).st = true)
    (hpower : power < 10 * (rxPort s p).lolThr) : (rxPort (lightAbsent p power s) p).st = .noLight
      ∧ (rxPort (lightAbsent p power s) p).light = false ∧ (rxPort (lightAbsent p power s) p).gainFrozen = true
      ∧ ∀ sc ∈ portScs p, (rxSc (lightAbsent p power s) sc).conv = false := by
  have hlost : lightAbsent p power s = onRxPort p (fun r => { r with power := power })
      (onRxPort p (fun r => { r with st := .noLight }) (forAll (stopSc false) (portScs p)
        (onRxPort p (fun r => { r with light := false }) (freezeGain p s)))) := by
    simp [lightAbsent, loseLight, hst, hpower]
  rw [hlost]
  refine ⟨?_, ?_, ?_, fun sc hsc => ?_⟩
  · simp
  · simp
  · simp [rxPort_freezeGain]
  · rw [rxSc_onRxPort, rxSc_onRxPort, rxSc_forAll_stopSc, if_pos hsc]
    rfl

/-! The estimates of AFC and CD_SCAN (R126, R139). -/

theorem cdOf_loadActive (base : Int) : (cdOf (loadActive p base s) p).active.base = base
    ∧ ((hubPort s p).role ≠ .hub → (cdOf (loadActive p base s) p).active.offsets = []) := by
  rw [loadActive, cdOf_onCd]
  exact ⟨rfl, fun h => if_neg h⟩

/-- A point-to-point port freezes the estimate; in AUTO it goes on to CD_SCAN. -/
theorem afcDone_p2p {off : Int} (hst : (rxPort s p).st = .afc) (hlow : -10000 ≤ off) (hhigh : off ≤ 10000)
    (hrole : (hubPort s p).role = .p2p) : afcDone p off s = onRxPort p (fun r => { r with
      afc := off, st := if r.manual then .converge else .cdScan }) s := by
  have hhub : (Role.p2p == .hub) = false := rfl
  have hleaf : (Role.p2p == .leaf) = false := rfl
  simp [afcDone, ungrantedLeaf, hst, hlow, hhigh, hrole, hhub, hleaf]

/-- A base that a scan finds lies in the scan window. -/
theorem scanBase_mem {x : RxPort} {o : CdScores} {b : Int} (h : scanBase x o = some b) :
    x.scanCentre - x.scanHalf ≤ b ∧ b ≤ x.scanCentre + x.scanHalf := by
  simp only [scanBase] at h
  split at h
  · cases h
  · cases h
    exact clampInt_mem (by omega) _

theorem cdScanDone_found {o : CdScores} {b : Int} (hst : (rxPort s p).st = .cdScan)
    (h : scanBase (rxPort s p) o = some b) :
    cdScanDone p o s = onRxPort p (fun r => { r with st := .converge }) (loadActive p b s) := by
  rw [cdScanDone, if_pos hst, h]

theorem cdScanDone_failed {o : CdScores} (hst : (rxPort s p).st = .cdScan) (h : scanBase (rxPort s p) o = none) :
    cdScanDone p o s = acqFail p 4 s := by
  rw [cdScanDone, if_pos hst, h]

/-! Convergence (R149). -/

/-- A subcarrier that converges is marked, and its port is in TRACK after it. -/
theorem scConverge_marks {snr : Int} (hlit : rxLit s sc = true) (hconv : (rxSc s sc).conv = false)
    (hst : (rxPort s (scPort sc)).st = .converge ∨ (rxPort s (scPort sc)).st = .track)
    (hsnr : requiredSnr (rxClass s sc) - 300 ≤ snr) : (rxSc (scConverge sc snr s) sc).conv = true
      ∧ (rxSc (scConverge sc snr s) sc).snr = snr ∧ (rxPort (scConverge sc snr s) (scPort sc)).st = .track := by
  rcases hst with hst | hst
  · simp [scConverge, hlit, hconv, hst, hsnr]
  · have htrack : (RxState.track == .converge) = false := rfl
    simp [scConverge, hlit, hconv, hst, hsnr, htrack]

theorem rxSc_unconverge (j : Nat) (quiet : Bool) :
    rxSc (unconverge quiet sc s) j = rxSc (onRxSc sc (fun x => { x with conv := false, lqi := 0 }) s) j :=
  onlyIf_apply (rxSc · j) _ rfl

theorem scUnconverge_unmarks {snr : Int} (hconv : (rxSc s sc).conv = true)
    (hsnr : snr < requiredSnr (rxClass s sc) - 400) : (rxSc (scUnconverge sc snr s) sc).conv = false
      ∧ ∀ q, q ≠ sc → rxSc (scUnconverge sc snr s) q = rxSc s q := by
  have hrun : scUnconverge sc snr s = unconverge false sc (onRxSc sc (fun x => { x with snr := snr }) s) := by
    simp [scUnconverge, hconv, hsnr]
  rw [hrun]
  refine ⟨?_, fun q hq => ?_⟩
  · rw [rxSc_unconverge, rxSc_same]
  · rw [rxSc_unconverge, rxSc_other _ _ hq, rxSc_other _ _ hq]

/-- Settles O13: where each moment leads a receiver. -/
theorem receiverAcquisition : Obligations.ReceiverAcquisition := by
  unfold Obligations.ReceiverAcquisition
  refine ⟨fun mb lo s acc hport hoff hreset hfeed => ?enable, fun p s hport hst => ?calibrated,
    fun mb s acc hport hon => ?disable, fun p power s hport hst hlight hpower => ?present,
    fun p power s hport hst hpower => ?absent, fun p off s hport hst hlow hhigh hrole => ?afc,
    fun p s hport hst => ?afcTimeout, fun p o s hport hst => ⟨fun b hb => ?found, fun hb => ?failed⟩,
    fun p s hport hst hleaf hnone => ?convergeTimeout, fun sc snr s hsc hlit hconv hst hsnr => ?converge,
    fun sc snr s hsc hconv hsnr => ?unconverge, fun p s hport hst hnone => ?trackLoss⟩
  case enable =>
    have hrun := mailboxThen_accepted (portRxenable lo) deniedRxenable acc
    rw [portRxenable_starts hport hoff hreset hfeed] at hrun
    generalize ha : ({ defer _ _ s with st := _ } : Reply) = a at hrun
    have hst : (rxPort (respond (requestOf s mb) a) (arg s mb 0 1)).st = .calibrate := by
      rw [rxPort_respond, ← ha]
      exact (congrArg RxPort.st ((rxPort_startExchange _).trans (rxPort_startRx ..)))
    have hkeep : onlyIf (!a.same) (deniedRxenable (requestOf s mb)) (respond (requestOf s mb) a)
        = respond (requestOf s mb) a := onlyIf_self (deniedRxenable_started hst)
    rw [hkeep] at hrun
    exact runs_of_exec hrun ⟨answered_of_accepted acc (ha ▸ rfl), hst,
      fun q hq => rxPort_exec_other (c := .portRxenable mb lo) rfl hrun hq⟩
  case calibrated => exact runs_of_exec (exec_need rfl hport) (rxCalibrationDone_st hst)
  case disable =>
    refine runs_mailbox acc rfl ?_
    rw [portRxdisable_closes hport hon]
    refine ⟨answered_of_accepted acc rfl, ?_⟩
    rw [rxPort_respond, okay, arg, closeRx_st, if_pos rfl]
  case present => exact runs_of_exec (exec_need rfl hport) (rxPort_lightPresent hst hlight hpower)
  case absent => exact runs_of_exec (exec_need rfl hport) (lightAbsent_leaves hst hpower)
  case afc =>
    refine runs_of_next (exec_need rfl hport) (afcDone_p2p hst hlow hhigh hrole) ?_
    rw [rxPort_same]
    exact ⟨rfl, rfl⟩
  case afcTimeout =>
    exact runs_of_next (exec_need rfl hport) (by rw [hst]; rfl) (acqFail_acquires 3 (receiving_of_st hst nofun))
  case found =>
    refine runs_of_next (exec_need rfl hport) (cdScanDone_found hst hb) ?_
    obtain ⟨hbase, hoffsets⟩ := cdOf_loadActive (s := s) (p := p) b
    rw [cdOf, rxPort_same]
    exact ⟨rfl, hbase, hoffsets, scanBase_mem hb⟩
  case failed =>
    exact runs_of_next (exec_need rfl hport) (cdScanDone_failed hst hb) (acqFail_acquires 4 (receiving_of_st hst nofun))
  case convergeTimeout =>
    exact runs_of_next (exec_need rfl hport) (by rw [hst, hleaf, hnone]; rfl)
      (acqFail_acquires 5 (receiving_of_st hst nofun)).1
  case converge => exact runs_of_exec (exec_need rfl hsc) (scConverge_marks hlit hconv hst hsnr)
  case unconverge => exact runs_of_exec (exec_need rfl hsc) (scUnconverge_unmarks hconv hsnr)
  case trackLoss =>
    exact runs_of_next (exec_need rfl hport) (by rw [hst, hnone]; rfl)
      (enterAfc_acquires (s := raisePort 0x0205 p [byteOf p] s) (receiving_of_st hst nofun)).1

end Sys2Proof.Machine
end

section
/-! SUPPORT and PROOF of O14: receive settings, link quality and class changes (R112, R146 to R148, R152, R153/04). -/
namespace Sys2Proof.Machine

variable {s : State} {p k sc : Nat} {r : Req}

theorem onSc_ok {body : Nat → Req → State → Reply} (h : okSc (r.u 0 1) = true) :
    onSc body r s = body (r.u 0 1) r s := if_pos h

/-! port.rxconfig. -/

/-- The fields of a port.rxconfig request lie within their ranges. -/
def rxFieldsOk (r : Req) : Prop :=
  (r.u 1 1 ≤ 1 ∧ r.u 2 1 ≤ 1 ∧ r.u 3 1 ≤ 1) ∧ (1000 ≤ r.u 8 4 ∧ r.u 8 4 ≤ 60000)
    ∧ (-60000 ≤ r.i 4 4 - (r.u 8 4 : Int) ∧ r.i 4 4 + (r.u 8 4 : Int) ≤ 60000)
    ∧ (20 ≤ r.u 12 2 ∧ r.u 12 2 ≤ 1000) ∧ dissolveLenOk (r.u 14 2) = true
    ∧ (-350 ≤ r.i 16 2 ∧ r.i 16 2 ≤ -200) ∧ (100 ≤ r.u 18 2 ∧ r.u 18 2 ≤ 1000) ∧ (10 ≤ r.u 20 1 ∧ r.u 20 1 ≤ 50)

/-- The settings that a request gives a receiver. -/
def rxConfigured (r : Req) (x : RxPort) : RxPort := { x with
  manual := r.u 1 1 == 1, follower := r.u 2 1 == 1, polarity := r.u 3 1
  scanCentre := r.i 4 4, scanHalf := r.u 8 4, trackThr := r.u 12 2, trackLen := r.u 14 2
  lolThr := r.i 16 2, ltThr := r.u 18 2, ltStep := r.u 20 1
  conflict := x.conflict && r.u 2 1 == 1 }

theorem portRxconfig_stores (hport : okPort (r.u 0 1) = true) (hok : rxFieldsOk r)
    (hrole : r.u 2 1 = 0 ∨ (hubPort s (r.u 0 1)).role ≠ .hub) :
    portRxconfig r s = okay (onRxPort (r.u 0 1) (rxConfigured r) s) := by
  obtain ⟨hflags, hhalf, hwindow, hthr, hlen, hlol, hlt, hstep⟩ := hok
  rw [portRxconfig, onPort_ok hport]
  dsimp only
  rw [if_neg (by omega), if_neg (by rw [hlen]; simp only [Bool.true_eq_false, false_or]; omega), if_neg]
  · rfl
  · rintro ⟨hone, hhub⟩
    exact hrole.elim (by omega) fun h => h hhub

/-! Status. -/

theorem portRxstatus_fields (hport : okPort (r.u 0 1) = true) :
    (portRxstatus r s).code = .ok ∧ (portRxstatus r s).st = useFree s ∧ (portRxstatus r s).pay.length = 64
      ∧ getU 0 1 (portRxstatus r s).pay = rxStateNum (rxPort s (r.u 0 1)).st
      ∧ getU 60 4 (portRxstatus r s).pay = (rxPort s (r.u 0 1)).acq % 2 ^ 32 := by
  have hnum (st : RxState) : rxStateNum st % 256 = rxStateNum st := by cases st <;> rfl
  rw [portRxstatus, onPort_ok hport]
  dsimp only [okWith]
  refine ⟨rfl, rfl, ?_, ?_, ?_⟩
  · simp [apply_ite List.length]
  · simp [getU_cons_zero, hnum]
  · rw [getU_append_right (by simp [apply_ite List.length])]
    simp [apply_ite List.length, getU_natBE]

theorem scRxstatus_fields (hsc : okSc (r.u 0 1) = true) :
    (scRxstatus r s).code = .ok ∧ (scRxstatus r s).st = s ∧ 6 ≤ (scRxstatus r s).pay.length
      ∧ getU 0 1 (scRxstatus r s).pay = scState s (r.u 0 1)
      ∧ getU 4 2 (scRxstatus r s).pay = (rxSc s (r.u 0 1)).evm % 65536 := by
  have hnum : scState s (r.u 0 1) % 256 = scState s (r.u 0 1) := by
    unfold scState
    split_ifs <;> rfl
  rw [scRxstatus, onSc_ok hsc]
  dsimp only [okWith]
  refine ⟨rfl, rfl, ?_, ?_, ?_⟩
  · simp
  · simp [getU_cons_zero, hnum]
  · simp [getU_append_left, getU_natBE, getU_cons_succ]

/-! Resynchronization (R153). -/

@[simp] theorem rxSc_relit (q : Nat) : rxSc (relit k s) q = rxSc s q := rfl
@[simp] theorem rxSc_rehunt (q : Nat) : rxSc (rehunt k s) q = rxSc s q := rfl

theorem rxSc_resyncSc : rxSc (resyncSc sc s) sc =
    { stoppedSc (rxSc s sc) with resyncs := satAdd max32 (rxSc s sc).resyncs 1 } := by
  rw [resyncSc, rxSc_rehunt, rxSc_same, rxSc_stopSc, if_pos rfl]
  rfl

theorem rxFramer_resyncSc : (rxFramer (resyncSc sc s) sc).st = .hunt := by
  rw [resyncSc, rehunt, rxFramer_same]

/-- The settings of sc.rxconfig stay through the acquisition that a change of class starts. -/
theorem scRxconfig_stores (hsc : okSc (r.u 0 1) = true) (hcls : r.u 1 1 ≤ 6) (hmin : 6 ≤ r.u 2 1) (hmax : r.u 2 1 ≤ 14)
    (howned : (hubPort s (scPort (r.u 0 1))).role = .leaf →
      bitOf (hubPort s (scPort (r.u 0 1))).owned (scIdx (r.u 0 1)) = true) :
    (scRxconfig r s).code = .ok ∧ (rxSc (scRxconfig r s).st (r.u 0 1)).cfg = r.u 1 1
      ∧ (rxSc (scRxconfig r s).st (r.u 0 1)).m = r.u 2 1 := by
  have hrange : ¬(6 < r.u 1 1 ∨ r.u 2 1 < 6 ∨ 14 < r.u 2 1) := by omega
  have hresync (c : Bool) (u : State) : (rxSc (onlyIf c (resyncSc (r.u 0 1)) u) (r.u 0 1)).cfg = (rxSc u (r.u 0 1)).cfg
      ∧ (rxSc (onlyIf c (resyncSc (r.u 0 1)) u) (r.u 0 1)).m = (rxSc u (r.u 0 1)).m := by
    cases c
    · exact ⟨rfl, rfl⟩
    · rw [onlyIf_true, rxSc_resyncSc]
      exact ⟨rfl, rfl⟩
  rw [scRxconfig, onSc_ok hsc, if_neg hrange, if_neg]
  · dsimp only [okay]
    rw [onlyIf_apply (rxSc · (r.u 0 1)) _ (rxSc_relit _), (hresync _ _).1, (hresync _ _).2, rxSc_same]
    exact ⟨rfl, rfl, rfl⟩
  · rintro ⟨hleaf, hnot⟩
    rw [howned hleaf] at hnot
    cases hnot

theorem scResync_restarts (hsc : okSc (r.u 0 1) = true) (hlit : rxLit s (r.u 0 1) = true)
    (hreset : resetting s (scPort (r.u 0 1)) = false) : scResync r s = okay (resyncSc (r.u 0 1) s) := by
  rw [scResync, onSc_ok hsc]
  simp [hlit, hreset]

theorem rxFramer_respond (r : Req) (a : Reply) (q : Nat) : rxFramer (respond r a) q = rxFramer a.st q := by
  have hframe : (respond r a).frame = a.st.frame := respond_same r a (q := .frame) (by simp)
  rw [rxFramer, hframe, rxFramer]

/-! Link quality (R146 to R148). -/

/-- The timing loops leave of their subcarrier all but its phase, detector and clock offset. -/
theorem rxSc_timingLoop (q : LinkObs) : ∃ phase ted clk, rxSc (timingLoop sc q s) sc =
    { rxSc s sc with phase := phase, ted := ted, clk := clk } := by
  unfold timingLoop
  dsimp only
  split_ifs
  · exact ⟨_, _, _, by rw [rxSc_same, rxSc_same]⟩
  · exact ⟨_, _, _, by rw [rxSc_onRxPort, rxSc_same]⟩
  · exact ⟨_, _, _, by rw [rxSc_same]⟩

/-- New taps move the timing phase and nothing else. -/
theorem retap_eq (l : List (Int × Int)) (x : RxSc) :
    ∃ mimo phase, retap l x = { x with mimo := mimo, phase := phase } := by
  unfold retap
  split_ifs <;> exact ⟨_, _, rfl⟩

theorem lqiOf_le (conv : Bool) (m : Int) : lqiOf conv m ≤ 255 := by
  have := (clampInt_mem (lo := 1) (hi := 255) (by omega) (roundDiv (6400 + 16 * m) 100)).2
  unfold lqiOf
  split <;> omega

theorem rxSc_linkRefresh {q : LinkObs} (hlit : rxLit s sc = true) (hevm : q.evm ≠ 0) :
    (rxSc (linkRefresh sc q s) sc).evm = q.evm ∧ (rxSc (linkRefresh sc q s) sc).snr = snrOfEvm q.evm
      ∧ (rxSc (linkRefresh sc q s) sc).margin = snrOfEvm q.evm - requiredSnr (rxClass s sc)
      ∧ (rxSc (linkRefresh sc q s) sc).lqi = lqiOf (rxSc s sc).conv (snrOfEvm q.evm - requiredSnr (rxClass s sc))
      ∧ (rxSc (linkRefresh sc q s) sc).freq = clampInt (-3500) 3500 q.freq := by
  obtain ⟨_, _, _, hloop⟩ := rxSc_timingLoop (s := s) (sc := sc) q
  rw [linkRefresh, if_pos hlit]
  dsimp only
  rw [if_neg hevm, decide_eq_false hevm, onlyIf_false, rxSc_same, hloop]
  obtain ⟨_, _, htaps⟩ := retap_eq q.taps _
  rw [htaps]
  exact ⟨rfl, rfl, rfl, rfl, rfl⟩

/-! Announced classes (R152). -/

@[simp] theorem rxSc_hubGain (q : Nat) : rxSc (hubGain p s) q = rxSc s q := by
  unfold hubGain releaseGain
  refine onlyIf_apply (rxSc · q) _ ?_
  split <;> rfl

@[simp] theorem rxSc_clearFarCue (b q : Nat) : rxSc (clearFarCue p b s) q = rxSc s q := by
  unfold clearFarCue
  split <;> rfl

theorem rxSc_setFarClass : (rxSc (setFarClass sc k s) sc).far = k
    ∧ ∀ q, q ≠ sc → rxSc (setFarClass sc k s) q = rxSc s q := by
  unfold setFarClass
  dsimp only
  refine ⟨?_, fun q hq => ?_⟩
  · split_ifs <;> simp [rxSc_stopSc, stoppedSc]
  · split_ifs <;> simp [rxSc_stopSc, hq, rxSc_other]

theorem rxSc_rxClassChange {stamp : Nat} {a : Announce} (hann : (rxPort s (scPort sc)).ann.find? (fun a =>
      a.boundary == stamp && bitOf a.mask (scIdx sc)) = some a) :
    (rxSc (rxClassChange sc stamp s) sc).far = a.classes.getD (scIdx sc) 0
      ∧ ∀ q, q ≠ sc → rxSc (rxClassChange sc stamp s) q = rxSc s q := by
  rw [rxClassChange]
  dsimp only
  rw [hann]
  refine ⟨rxSc_setFarClass.1, fun q hq => (rxSc_setFarClass.2 q hq).trans ?_⟩
  exact onlyIf_apply (rxSc · q) _ (rxSc_clearFarCue ..)

/-- Settles O14: what each command and moment leaves of the settings and the figures of a receiver. -/
theorem receiveSettingsAndQuality : Obligations.ReceiveSettingsAndQuality := by
  unfold Obligations.ReceiveSettingsAndQuality
  refine ⟨fun mb s acc hport hauto hfollow hpol hhalf hhalf' hlow hhigh hthr hthr' hlen hlol hlol' hlt hlt' hstep hstep'
      hrole => ?config,
    fun mb s acc hport => ?status, fun mb s acc hsc hcls hmin hmax howned => ?scConfig, fun mb s acc hsc => ?scStatus,
    fun mb s acc hsc hlit hreset => ?resync, fun sc q s hsc hlit hevm => ?quality, fun sc stamp a s hsc hann => ?announced⟩
  case config =>
    have hok : rxFieldsOk (requestOf s mb) := ⟨⟨hauto, hfollow, hpol⟩, ⟨hhalf, hhalf'⟩, ⟨hlow, hhigh⟩, ⟨hthr, hthr'⟩,
      hlen, ⟨hlol, hlol'⟩, ⟨hlt, hlt'⟩, hstep, hstep'⟩
    refine runs_mailbox acc rfl ?_
    rw [portRxconfig_stores hport hok hrole]
    refine ⟨answered_of_accepted acc rfl, ?_⟩
    rw [rxPort_respond, okay, arg, rxPort_same]
    simp only [rxConfigured, arg, argI, and_self]
  case status =>
    obtain ⟨hcode, hst, hlen, hstate, hacq⟩ := portRxstatus_fields (s := s) (r := requestOf s mb) hport
    refine runs_mailbox acc rfl ⟨answered_of_accepted acc hcode, ?_, ?_, ?_, ?_⟩
    · exact (resp_respond _ _ (by omega)).trans hstate
    · exact (resp_respond _ _ (by omega)).trans hacq
    · exact (respond_same _ _ (q := .rxp) (by simp)).trans (by rw [hst]; rfl)
    · exact (respond_same _ _ (q := .rxs) (by simp)).trans (by rw [hst]; rfl)
  case scConfig =>
    obtain ⟨hcode, hcfg, hm⟩ := scRxconfig_stores (s := s) (r := requestOf s mb) hsc hcls hmin hmax howned
    refine runs_mailbox acc rfl ⟨answered_of_accepted acc hcode, ?_⟩
    rw [rxSc_respond]
    exact ⟨hcfg, hm⟩
  case scStatus =>
    obtain ⟨hcode, hst, hlen, hstate, hevm⟩ := scRxstatus_fields (s := s) (r := requestOf s mb) hsc
    refine runs_mailbox acc rfl ⟨answered_of_accepted acc hcode, ?_, ?_, ?_⟩
    · exact (resp_respond _ _ (by omega)).trans hstate
    · exact (resp_respond _ _ (by omega)).trans hevm
    · exact (respond_same _ _ (q := .rxs) (by simp)).trans (congrArg State.rxs hst)
  case resync =>
    refine runs_mailbox acc rfl ?_
    rw [scResync_restarts hsc hlit hreset]
    refine ⟨answered_of_accepted acc rfl, ?_⟩
    rw [rxSc_respond, rxFramer_respond, okay, arg, rxSc_resyncSc]
    exact ⟨rfl, rfl, rxFramer_resyncSc⟩
  case quality =>
    obtain ⟨hevm', hsnr, hmargin, hlqi, hfreq⟩ := rxSc_linkRefresh hlit hevm
    refine runs_of_exec (exec_need rfl hsc) ⟨hevm', hsnr, hmargin, hlqi, fun hconv => ?_, hlqi ▸ lqiOf_le .., hfreq⟩
    rw [hlqi, hconv]
    rfl
  case announced => exact runs_of_exec (exec_need rfl hsc) (rxSc_rxClassChange hann)

end Sys2Proof.Machine
end

section
/-! SUPPORT and PROOF of O15: coefficient sets, dissolves and tracking (R121 to R123, R125, R127 to R130/04). -/
namespace Sys2Proof.Machine

variable {s t : State} {p i : Nat} {r : Req}

theorem cdOf_respond (r : Req) (a : Reply) (q : Nat) : cdOf (respond r a) q = cdOf a.st q :=
  congrArg RxPort.cd (rxPort_respond r a q)

theorem cueAt_respond (r : Req) (a : Reply) (j : Nat) : cueAt (respond r a) j = cueAt a.st j :=
  cueAt_congr (respond_same r a (by simp)) j

/-! A cued dissolve. -/

theorem cdOf_cueDissolve (origin start tag len : Nat) : cdOf (cueDissolve p i origin start tag len s) p =
    { cdOf s p with state := 1, len := len, start := start, cue := i } := by
  rw [cueDissolve, cdOf_onCd, cdOf_congr (s := s) (by simp [dissolveCue])]

theorem cueAt_cueDissolve (origin start tag len : Nat) :
    (cueAt (cueDissolve p i origin start tag len s) i).kind = 3
      ∧ (cueAt (cueDissolve p i origin start tag len s) i).time = start := by
  obtain ⟨_, hplaced⟩ := cueAt_placeCue_same (i := i) (s := s)
    { state := 1, kind := 3, origin := origin, obj := p, time := start, tag := tag }
  rw [cueDissolve, cueAt_congr (s := dissolveCue p i origin start tag s) (by simp), dissolveCue, hplaced]
  exact ⟨rfl, rfl⟩

/-! The commands. -/

/-- On an idle equalizer port.cdset loads its set and cues a dissolve to it. -/
theorem portCdset_cues {c : Nat} (hport : okPort (r.u 0 1) = true) (hlen : dissolveLenOk (r.u 2 2) = true)
    (htotals : totalsOk (readSet 16 20 r) = true) (hcue : cdCue 4 r s = some c) (hdenied : cdDenied s (r.u 0 1) = false)
    (hidle : (cdOf s (r.u 0 1)).state = 0) (hfree : freeShared s = some i) : ∃ pay start, portCdset r s =
      okWith pay (cueDissolve (r.u 0 1) i 0 start r.tag (r.u 2 2)
        (onCd (r.u 0 1) (fun e => { e with incoming := readSet 16 20 r, loading := true }) s)) := by
  rw [portCdset, onPort_ok hport]
  simp only [hlen, htotals, hcue, hdenied, hidle, hfree, or_self, Bool.true_eq_false, Bool.false_eq_true, if_true, if_false]
  exact ⟨_, _, rfl⟩

theorem portCdwrite_loads (hport : okPort (r.u 0 1) = true) (htotals : totalsOk (readSet 4 8 r) = true)
    (hdenied : cdDenied s (r.u 0 1) = false) (hidle : (cdOf s (r.u 0 1)).state = 0) : portCdwrite r s =
      okay (onCd (r.u 0 1) (fun e => { e with incoming := readSet 4 8 r, loading := true, lastWrite := now s }) s) := by
  rw [portCdwrite, onPort_ok hport]
  simp [htotals, hdenied, hidle]

theorem portCdstart_cues {c : Nat} (hport : okPort (r.u 0 1) = true) (hlen : dissolveLenOk (r.u 2 2) = true)
    (hcue : cdCue 4 r s = some c) (hdenied : cdDenied s (r.u 0 1) = false)
    (hidle : (cdOf s (r.u 0 1)).state = 0) (hfree : freeShared s = some i) :
    ∃ pay start, portCdstart r s = okWith pay (cueDissolve (r.u 0 1) i 0 start r.tag (r.u 2 2) s) := by
  rw [portCdstart, onPort_ok hport]
  simp only [hlen, hcue, hdenied, hidle, hfree, Bool.true_eq_false, if_false]
  exact ⟨_, _, rfl⟩

theorem portCdstatus_fields (hport : okPort (r.u 0 1) = true) :
    (portCdstatus r s).code = .ok ∧ (portCdstatus r s).st = s ∧ 8 ≤ (portCdstatus r s).pay.length
      ∧ getU 0 1 (portCdstatus r s).pay = (cdOf s (r.u 0 1)).state % 256
      ∧ field 4 4 (portCdstatus r s).pay = intBE 4 (cdOf s (r.u 0 1)).active.base := by
  rw [portCdstatus, onPort_ok hport]
  dsimp only [okWith]
  refine ⟨rfl, rfl, ?_, ?_, ?_⟩
  · simp
  · simp [getU_cons_zero]
  · simp [field]

/-! Loads and dissolves. -/

/-- The end of a load that no cued dissolve waits for changes nothing else. -/
theorem cdLoadDone_ends (hload : (cdOf s p).loading = true) (hidle : (cdOf s p).state = 0) :
    cdLoadDone p false s = onCd p (fun e => { e with loading := false }) s := by
  simp [cdLoadDone, hload, hidle]

/-- A cued dissolve that is due starts at its block, and its cue is free. -/
theorem dissolveStart_starts {at_ : Nat} (hdue : cueDue s i 3 at_ = true) (hblock : onBlock at_ = true)
    (hnow : now s ≤ at_) (hready : s.ctrl.stage = .ready) (hfirst : firstDue s i at_ (sameObj s i) = true)
    (hcued : (cdOf s (cueAt s i).obj).state = 1) (hcue : (cdOf s (cueAt s i).obj).cue = i)
    (hplaced : 0 < (cdOf s (cueAt s i).obj).start) (hstart : (cdOf s (cueAt s i).obj).start ≤ at_) :
    ∃ first, dissolveStart i at_ s = cueDone i at_ first
      (onCd (cueAt s i).obj (fun e => { e with state := 2, start := at_, loading := false }) (clockTo at_ s)) := by
  refine ⟨blockTime (blockAfter (cueAt s i).time), if_pos ?_⟩
  simp [hdue, hblock, hnow, hready, hfirst, hcued, hcue, hplaced, hstart]

/-- A dissolve with nothing staged ends with its stores exchanged. -/
theorem dissolveEnd_exchanges {at_ : Nat} (hrun : (cdOf s p).state = 2) (hstaged : (cdOf s p).staged = none)
    (hend : blockTime (blockAfter (cdOf s p).start + (cdOf s p).len) ≤ at_) (hnow : now s ≤ at_) :
    dissolveEnd p at_ s = raisePort 0x0207 p ([byteOf p, 0, 0, 0] ++ intBE 4 (cdOf s p).incoming.base)
      (onCd p (fun e => { e with
        active := e.incoming, incoming := e.active, state := 0, dissolves := satAdd max32 e.dissolves 1 })
        (clockTo at_ s)) := by
  rw [dissolveEnd]
  dsimp only
  rw [if_pos ⟨hrun, hend, hnow⟩, hstaged]

/-! Tracking (R127). -/

theorem freeOwn_congr (h : Part.cues.same s t) : freeOwn t = freeOwn s := by
  simp only [freeOwn, cueAt_congr h]

theorem ownDissolve_cues {len : Nat} {set : CdSet} (hfree : freeOwn s = some i) :
    ∃ start, ownDissolve p len set s = cueDissolve p i 1 start 0 len
      (onCd p (fun e => { e with incoming := set, loading := true, tracks := satAdd max32 e.tracks 1 }) s) := by
  rw [ownDissolve, hfree]
  exact ⟨_, rfl⟩

/-- The state with the residuals of an estimate recorded. -/
def withResiduals (p : Nat) (res : List Int) (s : State) : State :=
  forAll (fun sc => onlyIf (rxLit s sc) (onRxSc sc (fun x => { x with resid := res.getD (scIdx sc) 0 }))) (portScs p) s

theorem same_withResiduals {q : Part} (res : List Int) (h : q ∉ [Part.rxs]) : q.same s (withResiduals p res s) := by
  refine (same_forAll _ _ fun sc u => ?_).2 (q.same_refl s)
  simp [h]

/-- In TRACK and AUTO a residual beyond the threshold asks for a dissolve to the corrected set. -/
theorem cdTrackEstimate_corrects {sc : Nat} {res : List Int} (hst : (rxPort s p).st = .track)
    (hauto : (rxPort s p).manual = false) (hidle : (cdOf s p).state = 0) (hsc : sc ∈ portScs p)
    (hlit : rxLit s sc = true) (hbig : (rxPort s p).trackThr < (res.getD (scIdx sc) 0).natAbs) :
    cdTrackEstimate p res s = ownDissolve p (rxPort s p).trackLen (trackSet s p res) (withResiduals p res s) := by
  have hany : (portScs p).any (fun sc => rxLit s sc
      && decide ((rxPort s p).trackThr < (res.getD (scIdx sc) 0).natAbs)) = true :=
    List.any_eq_true.2 ⟨sc, hsc, by rw [hlit, decide_eq_true hbig]; rfl⟩
  have hcd : (rxPort s p).cd.state = 0 := hidle
  simp only [cdTrackEstimate, hst, hauto, hany, hcd]
  rfl

/-- Settles O15: what each command and moment leaves of the equalizer and of the cue table. -/
theorem dispersionEqualizer : Obligations.DispersionEqualizer := by
  unfold Obligations.DispersionEqualizer
  refine ⟨fun mb c i s acc hport hlen htotals hcue hdenied hidle hfree => ?cdset,
    fun mb s acc hport htotals hdenied hidle => ?cdwrite,
    fun mb c i s acc hport hlen hcue hdenied hidle hfree => ?cdstart, fun mb s acc hport => ?status,
    fun p s hport hload hidle => ?loaded,
    fun i at_ s hok hdue hblock hnow hready hfirst hcued hcue hplaced hstart => ?starts,
    fun p at_ s hport hrun hstaged hend hnow => ?ends,
    fun p i sc res s hport hst hauto hidle hsc hlit hbig hfree => ?track⟩
  case cdset =>
    obtain ⟨pay, start, hcues⟩ := portCdset_cues hport hlen htotals hcue hdenied hidle hfree
    obtain ⟨hkind, htime⟩ := cueAt_cueDissolve (p := arg s mb 0 1) (i := i) 0 start (requestOf s mb).tag (arg s mb 2 2)
      (s := onCd (arg s mb 0 1) (fun e => { e with incoming := readSet 16 20 (requestOf s mb), loading := true }) s)
    refine runs_mailbox acc rfl ?_
    rw [hcues]
    refine ⟨answered_of_accepted acc rfl, ?_⟩
    rw [cdOf_respond, cueAt_respond, okWith, arg, cdOf_cueDissolve, cdOf_onCd]
    exact ⟨rfl, rfl, rfl, rfl, rfl, rfl, hkind, htime⟩
  case cdwrite =>
    refine runs_mailbox acc rfl ?_
    rw [portCdwrite_loads hport htotals hdenied hidle]
    refine ⟨answered_of_accepted acc rfl, ?_⟩
    rw [cdOf_respond, okay, arg, cdOf_onCd]
    exact ⟨rfl, rfl, hidle⟩
  case cdstart =>
    obtain ⟨pay, start, hcues⟩ := portCdstart_cues hport hlen hcue hdenied hidle hfree
    refine runs_mailbox acc rfl ?_
    rw [hcues]
    refine ⟨answered_of_accepted acc rfl, ?_⟩
    rw [cdOf_respond, cueAt_respond, okWith, arg, cdOf_cueDissolve]
    exact ⟨rfl, rfl, rfl, (cueAt_cueDissolve ..).1⟩
  case status =>
    obtain ⟨hcode, hst, hlen, hstate, hbase⟩ := portCdstatus_fields (s := s) (r := requestOf s mb) hport
    refine runs_mailbox acc rfl ⟨answered_of_accepted acc hcode, ?_, ?_, ?_⟩
    · exact (resp_respond _ _ (by omega)).trans hstate
    · exact (respBytes_respond _ _ (by omega)).trans hbase
    · exact (respond_same _ _ (q := .rxp) (by simp)).trans (congrArg State.rxp hst)
  case loaded => exact runs_of_next (exec_need rfl hport) (cdLoadDone_ends hload hidle) (cdOf_onCd _)
  case starts =>
    obtain ⟨first, hrun⟩ := dissolveStart_starts hdue hblock hnow hready hfirst hcued hcue hplaced hstart
    refine runs_of_next (exec_need rfl hok) hrun ?_
    rw [cdOf_congr ((same_cueDone at_ first (by simp)).2 (Part.same_refl .rxp _)), cdOf_onCd, cueAt_cueDone]
    exact ⟨rfl, rfl, rfl⟩
  case ends =>
    refine runs_of_next (exec_need rfl hport) (dissolveEnd_exchanges hrun hstaged hend hnow) ?_
    rw [cdOf_congr ((same_raisePort _ _ _ (by simp)).2 (Part.same_refl .rxp _)), cdOf_onCd]
    exact ⟨rfl, rfl, rfl, rfl, logged_raise ..⟩
  case track =>
    have hown : freeOwn (withResiduals p res s) = some i := (freeOwn_congr (same_withResiduals res (by simp))).trans hfree
    obtain ⟨start, hcues⟩ := ownDissolve_cues (p := p) (len := (rxPort s p).trackLen) (set := trackSet s p res) hown
    refine runs_of_next (exec_need rfl hport)
      ((cdTrackEstimate_corrects hst hauto hidle hsc hlit hbig).trans hcues) ?_
    rw [cdOf_cueDissolve, cdOf_onCd]
    exact ⟨rfl, rfl, rfl, rfl⟩

end Sys2Proof.Machine
end

section
/-! SUPPORT and PROOF of O16: ADC slices (R116 to R119/04, R436/16) and the tuning of the local oscillator (R142, R143/04). -/
namespace Sys2Proof.Machine

variable {s : State} {p a sl : Nat} {r : Req}

@[simp] theorem rxPort_holdValue (x : Hold) (v q : Nat) : rxPort (holdValue x v s) q = rxPort s q := rfl
@[simp] theorem rxPort_unitFault (typ idx q : Nat) : rxPort (unitFault typ idx s) q = rxPort s q := rxPort_congr (by simp) q
@[simp] theorem rxPort_retired (typ idx q : Nat) : rxPort (retired typ idx s) q = rxPort s q :=
  rxPort_congr (within_retired typ idx s .rxp (by simp)) q

@[simp] theorem isRetired_raisePort (code q data typ idx) :
    isRetired (raisePort code q data s) typ idx = isRetired s typ idx := rfl

/-! Trims and the background calibration (R116). -/

/-- A trim set is read back; the other slices keep theirs. -/
theorem trimOf_set (x : RxPort) (i k : Nat) (trim : SliceTrim) (good : Tab (Option SliceTrim)) :
    trimOf { x with trims := tabSet none x.trims i (some trim), goodTrims := good } k
      = if k = i then trim else trimOf x k := by
  rw [trimOf, tabGet_set]
  split <;> rfl

theorem bgCalStep_steps {skew gain off : Int} {fir : Int × Int × Int} {trim : SliceTrim}
    (hlight : (rxPort s p).light = true) (hcal : afterCalibrate (rxPort s p).st = true)
    (hst : (rxPort s p).st ≠ .noLight) (hin : (66 * a + sl) ∉ (rxPort s p).retired)
    (htrim : stepTrim skew gain off fir (trimOf (rxPort s p) (66 * a + sl)) = trim) (hend : trimAtEnd trim = false) :
    bgCalStep p a sl skew gain off fir s = sendTrim p (66 * a + sl) trim (onRxPort p (fun r => { r with
      trims := tabSet none r.trims (66 * a + sl) (some trim)
      goodTrims := tabSet none r.goodTrims (66 * a + sl) (some trim) }) s) := by
  simp [bgCalStep, hlight, hcal, hst, hin, htrim, hend]

/-- A trim that is sent across while none is in flight is in flight. -/
theorem sendTrim_inFlight (i : Nat) (trim : SliceTrim) (h : (holdOf s (holdKey (.sliceTrims p))).inFlight = none) :
    (holdOf (sendTrim p i trim s) (holdKey (.sliceTrims p))).inFlight ≠ none := by
  rw [sendTrim, holdValue_idle h]
  simp

/-! Shadowing (R117). -/

theorem mem_spareSlices_lt {x : RxPort} (h : sl ∈ spareSlices x a) : sl < 66 :=
  List.mem_range.1 (List.mem_of_mem_filter h)

theorem portSpares_nodup (x : RxPort) : (portSpares x).Nodup := by
  refine List.nodup_flatMap.2 ⟨fun a _ => ?_, List.nodup_range.pairwise_of_forall_ne fun a _ b _ hab => ?_⟩
  · exact (List.nodup_range.filter _).map fun _ _ h => Nat.add_left_cancel h
  · intro k hka hkb
    obtain ⟨i, hi, rfl⟩ := List.mem_map.1 hka
    obtain ⟨j, hj, hij⟩ := List.mem_map.1 hkb
    have := mem_spareSlices_lt hi
    have := mem_spareSlices_lt hj
    omega

/-- Every spare of a list without repeats goes on by one phase. -/
theorem tabGet_foldl_nextPhase {l : List Nat} (hl : l.Nodup) (x : Tab Nat) (k : Nat) :
    tabGet 0 (l.foldl (fun t i => tabMod 0 t i (fun ph => (ph + 1) % 64)) x) k =
      if k ∈ l then (tabGet 0 x k + 1) % 64 else tabGet 0 x k := by
  induction l generalizing x with
  | nil => rfl
  | cons i l ih =>
    obtain ⟨hi, hl⟩ := List.nodup_cons.1 hl
    rw [List.foldl_cons, ih hl, tabGet_mod]
    by_cases hk : k = i
    · subst hk
      simp [hi]
    · simp [hk]

/-! Faults and retirements (R118, R119, R436/16). -/

theorem adcSliceFault_real (hinj : injFor s (4 * p + a) sl = false) : adcSliceFault p a sl s =
    unitFault 1 (sliceIndex p a sl) (onRxPort p (fun r => { r with
      trims := tabSet none r.trims (66 * a + sl) (tabGet none r.goodTrims (66 * a + sl)) }) s) := by
  simp only [adcSliceFault, hinj, onlyIf_false]

theorem sliceRecheck_passed (h : (unitRec s (unitKey 1 (sliceIndex p a sl))).retrying = true) :
    sliceRecheck p a sl false s = retryDone 1 (sliceIndex p a sl) s := if_pos h

/-- The port once slice `sl` of ADC `a` is retired and its phase handed to the spare `sp`. -/
def handedOver (a sl ph sp : Nat) (x : RxPort) : RxPort := { x with
  phaseOf := tabSet 0 x.phaseOf (64 * a + ph) (if sp = ph then 0 else sp + 1)
  retired := including (66 * a + sl) x.retired }

theorem phaseSlice_handedOver (ph sp : Nat) (x : RxPort) : phaseSlice (handedOver a sl ph sp x) a ph = sp := by
  simp only [phaseSlice, handedOver, tabGet_set_same]
  split_ifs with h
  · exact h.symm
  · rfl

theorem adcSliceRetire_hands {ph sp : Nat} {rest : List Nat} (hsl : sl < 66)
    (hnext : nextRetirement s 1 = some (sliceIndex p a sl)) (hph : phaseOfSlice (rxPort s p) a sl = some ph)
    (hspare : spareSlices (rxPort s p) a = sp :: rest) : ∃ data, adcSliceRetire p a s =
      raisePort 0x0208 p data (retired 1 (sliceIndex p a sl) (onRxPort p (handedOver a sl ph sp) s)) := by
  have hadc : sliceIndex p a sl / 66 = 4 * p + a := by
    unfold sliceIndex
    omega
  have hslice : sliceIndex p a sl % 66 = sl := by
    unfold sliceIndex
    omega
  rw [adcSliceRetire, hnext]
  dsimp only
  rw [if_neg (not_not.2 hadc), hslice, hph, hspare]
  exact ⟨_, rfl⟩

/-! LTUNE (R142, R143). -/

/-- An offset within the threshold moves C not at all. -/
theorem ltuneStep_within {x : RxPort} {f : Int} (h : (f.natAbs : Int) ≤ x.ltThr) : ltuneStep x f = x.c :=
  if_neg h.not_gt

/-- C keeps its range, and moves by the configured step at most. -/
theorem ltuneStep_bounds {x : RxPort} (f : Int) (hlow : -2000 ≤ x.c) (hhigh : x.c ≤ 2000) :
    -2000 ≤ ltuneStep x f ∧ ltuneStep x f ≤ 2000 ∧ (ltuneStep x f - x.c).natAbs ≤ x.ltStep := by
  unfold ltuneStep clampInt
  have := Nat.min_le_right f.natAbs x.ltStep
  split_ifs <;> omega

theorem ltuneUpdate_c (hruns : ltuneRuns s p = true) (hleaf : ungrantedLeaf s p = false) :
    (rxPort (ltuneUpdate p s) p).c = ltuneStep (rxPort s p) (averagedOffset s p) := by
  rw [ltuneUpdate, if_pos hruns]
  dsimp only
  rw [rxPort_mirror, onlyIf_apply (rxPort · p) _ rfl, rxPort_same, hleaf]
  rfl

theorem portLtune_targets (hport : okPort (r.u 0 1) = true) (hlow : -2000 ≤ r.i 2 2) (hhigh : r.i 2 2 ≤ 2000)
    (hlead : isFollower s (r.u 0 1) = false) :
    portLtune r s = okay (onRxPort (r.u 0 1) (fun x => { x with cTarget := some (r.i 2 2) }) s) := by
  rw [portLtune, onPort_ok hport, if_neg (by omega), if_neg (by simp [hlead])]

theorem rxPort_ltuneSlew {v : Int} (h : (rxPort s p).cTarget = some v) : rxPort (ltuneSlew p s) p =
    { rxPort s p with
      c := (rxPort s p).c + clampInt (-50) 50 (v - (rxPort s p).c)
      cTarget := if (rxPort s p).c + clampInt (-50) 50 (v - (rxPort s p).c) = v then none else some v } := by
  rw [ltuneSlew, h]
  dsimp only
  rw [rxPort_mirror, rxPort_same]

/-- A target within one step is reached. -/
theorem add_clampInt_near {c v : Int} (h : (v - c).natAbs ≤ 50) : c + clampInt (-50) 50 (v - c) = v := by
  unfold clampInt
  split_ifs <;> omega

/-- Settles O16: what each moment leaves of the slices' trims, phases and records, and of C. -/
theorem slicesAndLtune : Obligations.SlicesAndLtune := by
  unfold Obligations.SlicesAndLtune
  refine ⟨fun p a sl skew gain off fir s hport hadc hslice hlight hcal hst hin hend => ?step, fun p s hport hcal => ?rotate,
    fun p a sl s hport hadc hslice hrx hinj hret hing => ?fault, fun p a sl s hport hadc hslice hretry => ?recheck,
    fun p a sl ph sp rest s hport hadc hslice hnext hph hspare => ?retire, fun p s hport hruns hleaf => ?update,
    fun mb s acc hport hlow hhigh hlead => ?target, fun p v s hport hready hrole hlead htarget => ?slew⟩
  case step =>
    have hok : (okPort p && okAdc a && okSlice sl) = true := by simp [hport, hadc, hslice]
    refine runs_of_next (exec_need rfl hok) (bgCalStep_steps hlight hcal hst hin rfl hend) ⟨?_, fun k hk => ?_, fun hidle => ?_⟩
    · rw [sendTrim, rxPort_holdValue, rxPort_same, trimOf_set, if_pos rfl]
    · rw [sendTrim, rxPort_holdValue, rxPort_same, trimOf_set, if_neg hk]
    · exact sendTrim_inFlight _ _ hidle
  case rotate =>
    refine runs_of_next (exec_need rfl hport) (by rw [hcal, onlyIf_true]) fun k => ?_
    rw [shadowRotate, rxPort_same, tabGet_foldl_nextPhase (portSpares_nodup _)]
  case fault =>
    have hok : (okPort p && okAdc a && okSlice sl) = true := by simp [hport, hadc, hslice]
    refine runs_of_next (exec_need rfl hok) (by rw [hrx, onlyIf_true, adcSliceFault_real hinj]) ⟨?_, ?_⟩
    · rw [rxPort_unitFault, rxPort_same, tabGet_set_same]
    · exact congrArg UnitRec.total (unitFault_unitRec (s := onRxPort p _ s) hret hing)
  case recheck =>
    have hok : (okPort p && okAdc a && okSlice sl) = true := by simp [hport, hadc, hslice]
    refine runs_of_next (exec_need rfl hok) (sliceRecheck_passed hretry) ?_
    rw [retryDone, unitRec_same]
  case retire =>
    have hok : (okPort p && okAdc a) = true := by simp [hport, hadc]
    obtain ⟨data, hhands⟩ := adcSliceRetire_hands (of_decide_eq_true hslice) hnext hph hspare
    refine runs_of_next (exec_need rfl hok) hhands ⟨?_, ?_, ?_⟩
    · rw [rxPort_raisePort, rxPort_retired, rxPort_same, phaseSlice_handedOver]
    · rw [rxPort_raisePort, rxPort_retired, rxPort_same]
      exact (mem_including ..).2 (.inl rfl)
    · rw [isRetired_raisePort, isRetired_retired]
  case update =>
    refine runs_of_exec (exec_need rfl hport) ?_
    rw [ltuneUpdate_c hruns hleaf]
    exact ⟨rfl, ltuneStep_within, ltuneStep_bounds _⟩
  case target =>
    refine runs_mailbox acc rfl ?_
    rw [portLtune_targets hport hlow hhigh hlead]
    refine ⟨answered_of_accepted acc rfl, ?_⟩
    rw [rxPort_respond, okay, arg, rxPort_same]
    exact ⟨rfl, rfl⟩
  case slew =>
    refine runs_of_next (t := ltuneSlew p s) (exec_need rfl hport) (by rw [hready, hlead, decide_eq_true hrole]; rfl) ?_
    rw [rxPort_ltuneSlew htarget]
    refine ⟨rfl, fun hnear => ?_⟩
    dsimp only
    rw [add_clampInt_near hnear]
    exact ⟨rfl, if_pos rfl⟩

end Sys2Proof.Machine
end

section
/-! SUPPORT and PROOF of O17: the blocks of a codeword, the bounds of its partial syndromes, and the accumulated parity that
makes every row block of H sum to zero (R156 to R159/05). -/
namespace Sys2Proof.Machine

variable {blocks : List Nat} {bits : List Bool}

/-! Bits in blocks of 60. -/

theorem testBit_listMask (ks : List Nat) (x : Nat) : (listMask ks).testBit x = decide (x ∈ ks) := by
  induction ks using List.reverseRecOn with
  | nil => simp [listMask]
  | append_singleton ks k ih =>
    have h : listMask (ks ++ [k]) = listMask ks ||| 2 ^ k := by simp [listMask]
    simp [h, ih, Nat.testBit_two_pow, eq_comm (a := x)]

theorem testBit_blockOf (bits : List Bool) (b x : Nat) :
    (blockOf bits b).testBit x = (decide (x < 60) && bits.getD (60 * b + x) false) := by
  rw [blockOf, testBit_listMask]
  simp

theorem blockOf_lt (bits : List Bool) (b : Nat) : blockOf bits b < 2 ^ 60 := by
  refine Nat.lt_pow_two_of_testBit _ fun x hx => ?_
  rw [testBit_blockOf, decide_eq_false (by omega), Bool.false_and]

/-- A block is the number whose bits stand at its positions. -/
theorem blockOf_eq_of_bits {b v : Nat} (hv : v < 2 ^ 60) (h : ∀ x < 60, bits.getD (60 * b + x) false = bitOf v x) :
    blockOf bits b = v := by
  refine Nat.eq_of_testBit_eq fun x => ?_
  rw [testBit_blockOf]
  by_cases hx : x < 60
  · rw [decide_eq_true hx, Bool.true_and, h x hx, bitOf]
  · rw [decide_eq_false hx, Bool.false_and, Nat.testBit_lt_two_pow (hv.trans_le (Nat.pow_le_pow_right two_pos (by omega)))]

/-- A block that ends within the first part is a block of that part. -/
theorem blockOf_append_left {tail : List Bool} {b : Nat} (h : 60 * (b + 1) ≤ bits.length) :
    blockOf (bits ++ tail) b = blockOf bits b := by
  refine blockOf_eq_of_bits (blockOf_lt ..) fun x hx => ?_
  rw [List.getD_append _ _ _ _ (by omega), bitOf, testBit_blockOf, decide_eq_true hx, Bool.true_and]

/-- A block after a first part of whole blocks is a block of the rest. -/
theorem blockOf_append_right {tail : List Bool} {n b : Nat} (h : bits.length = 60 * n) :
    blockOf (bits ++ tail) (n + b) = blockOf tail b := by
  refine blockOf_eq_of_bits (blockOf_lt ..) fun x hx => ?_
  rw [List.getD_append_right _ _ _ _ (by omega), show 60 * (n + b) + x - bits.length = 60 * b + x by omega, bitOf,
    testBit_blockOf, decide_eq_true hx, Bool.true_and]

@[simp] theorem blockBits_length (v : Nat) : (blockBits v).length = 60 := by simp [blockBits]

theorem blockBits_getD {v x : Nat} (hx : x < 60) : (blockBits v).getD x false = bitOf v x := by
  simp [blockBits, hx]

/-- The blocks of bits made of blocks are those blocks. -/
theorem blockOf_flatMap_blockBits {ps : List Nat} (hps : ∀ v ∈ ps, v < 2 ^ 60) (b : Nat) :
    blockOf (ps.flatMap blockBits) b = ps.getD b 0 := by
  induction ps generalizing b with
  | nil => exact blockOf_eq_of_bits (by simp) (by simp [bitOf])
  | cons p ps ih =>
    obtain ⟨hp, hps⟩ := List.forall_mem_cons.1 hps
    rw [List.flatMap_cons]
    cases b with
    | zero =>
      refine blockOf_eq_of_bits hp fun x hx => ?_
      rw [List.getD_append _ _ _ _ (by simpa using hx), Nat.mul_zero, Nat.zero_add, blockBits_getD hx]
      rfl
    | succ b => rw [Nat.add_comm b 1, blockOf_append_right (n := 1) (by simp), ih hps b, Nat.add_comm 1 b]; rfl

/-! Partial syndromes and accumulated parity (R158). -/

theorem circulant_lt {h v : Nat} (hv : v < 2 ^ 60) : circulant h v < 2 ^ 60 :=
  Nat.or_lt_two_pow ((Nat.div_le_self ..).trans_lt hv) (Nat.mod_lt _ (by positivity))

/-- A sum of terms within a width stays within it. -/
theorem foldl_lt_two_pow {α : Type} {w : Nat} {f : Nat → α → Nat} (hf : ∀ a x, a < 2 ^ w → f a x < 2 ^ w) (l : List α)
    {a : Nat} (ha : a < 2 ^ w) : l.foldl f a < 2 ^ w := by
  induction l generalizing a with
  | nil => exact ha
  | cons x l ih => exact ih (hf a x ha)

theorem partialSyndrome_lt (hb : ∀ b, blocks.getD b 0 < 2 ^ 60) (r : Nat) : partialSyndrome blocks r < 2 ^ 60 := by
  refine foldl_lt_two_pow (fun a b ha => foldl_lt_two_pow (fun a c ha => ?_) _ ha) _ (by positivity)
  split
  · exact Nat.xor_lt_two_pow ha (circulant_lt (hb b))
  · exact ha

/-- A partial syndrome is over the information blocks alone. -/
theorem partialSyndrome_congr {blocks' : List Nat} (h : ∀ b < 323, blocks.getD b 0 = blocks'.getD b 0) (r : Nat) :
    partialSyndrome blocks r = partialSyndrome blocks' r := by
  refine List.foldl_ext _ _ _ fun a b hb => ?_
  rw [h b (List.mem_range.1 hb)]

@[simp] theorem parityBlocks_length (blocks : List Nat) (n prev : Nat) : (parityBlocks blocks n prev).length = n := by
  induction n generalizing prev with
  | zero => rfl
  | succ n ih => exact congrArg (· + 1) (ih _)

theorem parityBlocks_lt (hb : ∀ b, blocks.getD b 0 < 2 ^ 60) {n prev : Nat} (hprev : prev < 2 ^ 60) :
    ∀ v ∈ parityBlocks blocks n prev, v < 2 ^ 60 := by
  induction n generalizing prev with
  | zero => exact fun v hv => absurd hv List.not_mem_nil
  | succ n ih =>
    have hp := Nat.xor_lt_two_pow (partialSyndrome_lt hb (35 - n)) hprev
    exact List.forall_mem_cons.2 ⟨hp, ih hp⟩

/-- Each parity block is its partial syndrome and the parity block before it: p_r = s_r XOR p_(r-1). -/
theorem parityBlocks_getD {n r : Nat} (hn : n ≤ 36) (hr : r < n) (prev : Nat) :
    (parityBlocks blocks n prev).getD r 0 =
      partialSyndrome blocks (36 - n + r) ^^^ if r = 0 then prev else (parityBlocks blocks n prev).getD (r - 1) 0 := by
  induction n generalizing r prev with
  | zero => omega
  | succ n ih =>
    cases r with
    | zero => rw [if_pos rfl, show 36 - (n + 1) + 0 = 35 - n by omega]; rfl
    | succ r =>
      have h := ih (by omega) (show r < n by omega) (partialSyndrome blocks (35 - n) ^^^ prev)
      rw [show 36 - n + r = 36 - (n + 1) + (r + 1) by omega] at h
      rw [if_neg (Nat.succ_ne_zero r), parityBlocks, List.getD_cons_succ, h]
      cases r <;> rfl

/-! The codeword (R157). -/

@[simp] theorem bitsMsb_length (w n : Nat) : (bitsMsb w n).length = w := by
  induction w with
  | zero => rfl
  | succ w ih => exact congrArg (· + 1) ih

/-- The 19 BCH codewords of an LDPC codeword. -/
def outerBits (info : List Bool) : List Bool := (List.range 19).flatMap (fun j => bchEncode (bchInfo info j))

/-- The 323 information blocks of an LDPC codeword, and its 36 parity blocks. -/
def outerBlocks (info : List Bool) : List Nat := (List.range 323).map (blockOf (outerBits info))
def encodedParity (info : List Bool) : List Nat := parityBlocks (outerBlocks info) 36 0

theorem ldpcEncode_eq (info : List Bool) : ldpcEncode info = outerBits info ++ (encodedParity info).flatMap blockBits := rfl

theorem outerBits_length (info : List Bool) : (outerBits info).length = 60 * 323 := by
  simp [outerBits, bchEncode, bchInfo, List.length_flatMap]

theorem outerBlocks_lt (info : List Bool) (b : Nat) : (outerBlocks info).getD b 0 < 2 ^ 60 := by
  by_cases hb : b < 323
  · simpa [outerBlocks, hb] using blockOf_lt (outerBits info) b
  · simp [outerBlocks, hb]

theorem ldpcEncode_length (info : List Bool) : (ldpcEncode info).length = 21540 := by
  simp [ldpcEncode_eq, outerBits_length, List.length_flatMap, encodedParity]

theorem blockOf_ldpcEncode_info (info : List Bool) {b : Nat} (hb : b < 323) :
    blockOf (ldpcEncode info) b = (outerBlocks info).getD b 0 := by
  rw [ldpcEncode_eq, blockOf_append_left (by rw [outerBits_length]; omega)]
  simp [outerBlocks, hb]

theorem blockOf_ldpcEncode_parity (info : List Bool) (r : Nat) :
    blockOf (ldpcEncode info) (323 + r) = (encodedParity info).getD r 0 := by
  rw [ldpcEncode_eq, blockOf_append_right (outerBits_length info)]
  exact blockOf_flatMap_blockBits (parityBlocks_lt (outerBlocks_lt info) (by positivity)) r

/-- The blocks that the syndrome checker reads. -/
theorem checkedBlocks_getD (cw : List Bool) {b : Nat} (hb : b < 359) :
    ((List.range 359).map (blockOf cw)).getD b 0 = blockOf cw b := by simp [hb]

/-- Settles O17: the row sum of block r is s_r, p_r and p_(r-1), and p_r was made of the other two. -/
theorem encodedCodewordsSatisfyTheCode : Obligations.EncodedCodewordsSatisfyTheCode := by
  refine fun info => ⟨ldpcEncode_length info, List.all_eq_true.2 fun r hr => beq_iff_eq.2 ?_⟩
  have hr : r < 36 := List.mem_range.1 hr
  have hsyn : partialSyndrome ((List.range 359).map (blockOf (ldpcEncode info))) r = partialSyndrome (outerBlocks info) r :=
    partialSyndrome_congr (fun b hb => by rw [checkedBlocks_getD _ (by omega), blockOf_ldpcEncode_info info hb]) r
  have hprev : (if r = 0 then 0 else ((List.range 359).map (blockOf (ldpcEncode info))).getD (322 + r) 0)
      = if r = 0 then 0 else (encodedParity info).getD (r - 1) 0 := by
    split
    · rfl
    · rw [checkedBlocks_getD _ (by omega), show 322 + r = 323 + (r - 1) by omega, blockOf_ldpcEncode_parity]
  have hacc := parityBlocks_getD (blocks := outerBlocks info) le_rfl hr 0
  rw [Nat.sub_self, Nat.zero_add] at hacc
  rw [hsyn, hprev, checkedBlocks_getD _ (by omega), blockOf_ldpcEncode_parity, encodedParity, hacc, ← Nat.xor_assoc,
    Nat.xor_self, Nat.zero_xor, Nat.xor_self]

end Sys2Proof.Machine
end

section
/-! SUPPORT and PROOF of O18: what the operations of the encoders, the decoder pool and the iteration budget leave of a port's
FEC state and of a subcarrier's counts (R159 to R176/05). -/
namespace Sys2Proof.Machine

variable {q : Part} {s t : State} {p u sc c e k sp : Nat} {r : Req}

theorem fecPort_congr (h : Part.fecp.same s t) (p : Nat) : fecPort t p = fecPort s p := by
  simp only [fecPort, show t.fecp = s.fecp from h]

theorem fecSc_congr (h : Part.fecs.same s t) (sc : Nat) : fecSc t sc = fecSc s sc := by
  simp only [fecSc, show t.fecs = s.fecs from h]

/-! Each operation outside the parts it writes. -/

@[simp] theorem same_onFecSc (k f) (h : q ∉ [Part.fecs]) : q.same s (onFecSc k f t) ↔ q.same s t := by
  cases q <;> simp_all [Part.same]

@[simp] theorem same_onPmObj (k f) (h : q ∉ [Part.frame]) : q.same s (onPmObj k f t) ↔ q.same s t := by
  cases q <;> simp_all [Part.same]

@[simp] theorem same_noteGauge (sc k v) (h : q ∉ [Part.frame]) : q.same s (noteGauge sc k v t) ↔ q.same s t :=
  same_onPmObj _ _ h

@[simp] theorem same_retryDone (typ idx) (h : q ∉ [Part.flt]) : q.same s (retryDone typ idx t) ↔ q.same s t :=
  same_onUnitRec _ _ h

@[simp] theorem same_retired (typ idx) (h : q ∉ [Part.therm, .flt]) : q.same s (retired typ idx t) ↔ q.same s t :=
  same_iff_of_within h (within_retired typ idx t)

@[simp] theorem same_encoderFault (p)
    (h : q ∉ [Part.free, .ctrl, .ev, .power, .txp, .fecp, .hub, .pair, .therm, .flt, .log]) :
    q.same s (encoderFault p t) ↔ q.same s t := by
  simp_all [encoderFault, encoderRetire]

@[simp] theorem same_leaveSlots (p) (h : q ∉ [Part.fecp]) : q.same s (leaveSlots p t) ↔ q.same s t := same_onFecPort _ _ h

@[simp] theorem same_slotsLeave (sc c) (h : q ∉ [Part.fecp]) : q.same s (slotsLeave sc c t) ↔ q.same s t := by
  simp_all [slotsLeave]

@[simp] theorem same_actDecode (p) (h : q ∉ [Part.ev, .flt, .log]) : q.same s (actDecode p t) ↔ q.same s t := by
  simp_all [actDecode]

@[simp] theorem same_engineFault (p e) (h : q ∉ [Part.ev, .fecp, .flt, .log]) :
    q.same s (engineFault p e t) ↔ q.same s t := by
  simp_all [engineFault]

@[simp] theorem same_truncation (p) (h : q ∉ [Part.ev, .fecp, .log]) : q.same s (truncation p t) ↔ q.same s t := by
  simp_all [truncation]

@[simp] theorem same_countTokens (p used late trunc) (h : q ∉ [Part.pace]) :
    q.same s (countTokens p used late trunc t) ↔ q.same s t := by
  simp_all [countTokens, paceToken]

@[simp] theorem same_paceLow (u m) (h : q ∉ [Part.ev, .pace, .log]) : q.same s (paceLow u m t) ↔ q.same s t := by
  simp_all [paceLow]

/-! The encoder (R159, R175). -/

/-- What is sent is the codeword, its last position inverted where the point is armed; an encoder fault does not change it. -/
theorem sent_sendCodeword (cw : List Bool) : tabGet 0 (fecSc (sendCodeword sc c cw s) sc).sent c =
    bitsNat (if injArmed s (0x078 + scPort sc) then cw.dropLast ++ [!cw.getLastD false] else cw) := by
  unfold sendCodeword
  dsimp only
  rw [onlyIf_apply (fecSc · sc) _ (fecSc_congr (by simp) sc), fecSc_same, tabGet_set_same]

/-! The output store and the truncations of a port (R165, R166, R176). -/

/-- The output store of a port, its count of truncated codewords and the arming of FEC_TRUNCATING. -/
def storeFields (f : FecPort) : List CwOut × Nat × Bool := (f.out, f.trunc, f.truncArmed)
def storeView (s : State) (p : Nat) : List CwOut × Nat × Bool := storeFields (fecPort s p)

theorem storeView_congr (h : Part.fecp.same s t) (p : Nat) : storeView t p = storeView s p :=
  congrArg storeFields (fecPort_congr h p)

/-- A change of a port's FEC state that leaves the three fields alone. -/
theorem storeView_onFecPort {f : FecPort → FecPort} (h : storeFields (f (fecPort s p)) = storeFields (fecPort s p)) :
    storeView (onFecPort p f s) p = storeView s p := (congrArg storeFields (fecPort_same ..)).trans h

theorem storeView_engineFault (e : Nat) : storeView (engineFault p e s) p = storeView s p :=
  (storeView_congr ((same_unitFault _ _ (by simp)).2 (Part.same_self ..)) p).trans (storeView_onFecPort rfl)

/-- The slots of engines that leave are no part of the output store. -/
theorem storeView_leaveSlots : storeView (leaveSlots p s) p = storeView s p := by
  refine storeView_onFecPort ?_
  refine (List.foldl_hom storeFields (g₂ := fun x _ => x) fun f e => ?_).symm.trans (List.foldl_fixed ..)
  split <;> rfl

theorem storeView_noteLatest (t q : Nat) : storeView (onFecPort p (noteLatest t sc q) s) p = storeView s p := by
  refine storeView_onFecPort ?_
  unfold noteLatest
  split <;> rfl

/-- The three fields after a codeword: a truncation is counted, and FEC_TRUNCATING is disarmed. -/
def truncatedIf (trunc : Bool) (v : List CwOut × Nat × Bool) : List CwOut × Nat × Bool :=
  if trunc then (v.1, satAdd max64 v.2.1 1, false) else v

theorem storeView_truncation (trunc : Bool) :
    storeView (onlyIf trunc (truncation p) s) p = truncatedIf trunc (storeView s p) := by
  cases trunc
  case false => rfl
  case true =>
    have hraise (b : Bool) (data : List Byte) (t : State) :
        storeView (onlyIf b (raisePort 0x0211 p data) t) p = storeView t p := onlyIf_apply (storeView · p) b rfl
    rw [onlyIf_true, truncation, hraise, storeView, fecPort_same]
    rfl

theorem storeView_settleDecode (slot : Nat) (d : Decoded) (checker memUe trunc : Bool) :
    storeView (settleDecode sc slot d checker memUe trunc s).1 (scPort sc) = truncatedIf trunc (storeView s (scPort sc)) := by
  have htokens (late : Bool) (t : State) :
      storeView (countTokens (scPort sc) d.used late trunc t) (scPort sc) = storeView t (scPort sc) :=
    storeView_congr (by simp) _
  have hfault (fault : Bool) (e : Nat) (t : State) :
      storeView (onlyIf fault (engineFault (scPort sc) e) t) (scPort sc) = storeView t (scPort sc) :=
    onlyIf_apply (storeView · (scPort sc)) fault (storeView_engineFault e)
  have hcount (f : FecSc → FecSc) (t : State) : storeView (onFecSc sc f t) (scPort sc) = storeView t (scPort sc) := rfl
  have hbefore (forced alive : Bool) (e : Nat) : storeView (onlyIf alive (retryDone 2 e)
      (onlyIf forced (injAct (0x072 + scPort sc)) s)) (scPort sc) = storeView s (scPort sc) := storeView_congr (by simp) _
  unfold settleDecode
  dsimp only
  rw [htokens, storeView_truncation, hfault, hcount, storeView_onFecPort, hbefore]
  rfl

theorem storeView_decodeNext (obs : DecodeObs) (trunc : Bool) :
    storeView (decodeNext sc c obs trunc s).1 (scPort sc) = truncatedIf trunc (storeView s (scPort sc)) := by
  have hacted (runs : Bool) (t : State) :
      storeView (onlyIf runs (actDecode (scPort sc)) t) (scPort sc) = storeView t (scPort sc) := storeView_congr (by simp) _
  unfold decodeNext
  dsimp only
  rw [storeView_noteLatest, hacted, storeView_settleDecode, slotsLeave,
    onlyIf_apply (storeView · (scPort sc)) _ storeView_leaveSlots]

/-- A codeword decoded before its read point truncates nothing; the store is left to the command. -/
theorem decodeNext_keeps_out (obs : DecodeObs) :
    (fecPort (decodeNext sc c obs false s).1 (scPort sc)).out = (fecPort s (scPort sc)).out := by
  have h := storeView_decodeNext (s := s) (sc := sc) (c := c) obs false
  simp only [storeView, storeFields, truncatedIf, Bool.false_eq_true, if_false, Prod.mk.injEq] at h
  exact h.1

theorem decodeNext_truncated (obs : DecodeObs) :
    (fecPort (decodeNext sc c obs true s).1 (scPort sc)).trunc = min max64 ((fecPort s (scPort sc)).trunc + 1)
      ∧ (fecPort (decodeNext sc c obs true s).1 (scPort sc)).truncArmed = false := by
  have h := storeView_decodeNext (s := s) (sc := sc) (c := c) obs true
  simp only [storeView, storeFields, truncatedIf, if_true, Prod.mk.injEq, satAdd] at h
  exact h.2

/-! The counts of a subcarrier (R173). -/

theorem fecSc_settleDecode (slot : Nat) (d : Decoded) (checker memUe trunc : Bool) : ∃ late short v,
    fecSc (settleDecode sc slot d checker memUe trunc s).1 sc = countCodeword d late short trunc v (fecSc s sc) := by
  have hafter (fault late : Bool) (e : Nat) (t : State) : fecSc (countTokens (scPort sc) d.used late trunc
      (onlyIf trunc (truncation (scPort sc)) (onlyIf fault (engineFault (scPort sc) e) t))) sc = fecSc t sc :=
    fecSc_congr (by simp) sc
  have hbefore (forced alive : Bool) (e : Nat) (f : FecPort → FecPort) : fecSc (onFecPort (scPort sc) f
      (onlyIf alive (retryDone 2 e) (onlyIf forced (injAct (0x072 + scPort sc)) s))) sc = fecSc s sc :=
    fecSc_congr (by simp) sc
  unfold settleDecode
  dsimp only
  rw [hafter, fecSc_same, hbefore]
  exact ⟨_, _, _, rfl⟩

theorem countCodeword_decoded {d : Decoded} {late short trunc : Bool} {v : Verdict} {f : FecSc} :
    (countCodeword d late short trunc v f).decoded = min max64 (f.decoded + 1) := rfl

theorem countCodeword_trunc {d : Decoded} {late short trunc : Bool} {v : Verdict} {f : FecSc} :
    (countCodeword d late short trunc v f).trunc = min max64 (f.trunc + b2n trunc) := rfl

/-- A codeword that is decoded, cut short or skipped is counted once. -/
theorem fecSc_decodeNext (obs : DecodeObs) (trunc : Bool) : ∃ d late short v,
    fecSc (decodeNext sc c obs trunc s).1 sc = countCodeword d late short trunc v (fecSc s sc) := by
  have hleave : fecSc (slotsLeave sc c s) sc = fecSc s sc := fecSc_congr (by simp) sc
  have hafter (runs : Bool) (f : FecPort → FecPort) (t : State) :
      fecSc (onFecPort (scPort sc) f (onlyIf runs (actDecode (scPort sc)) t)) sc = fecSc t sc := fecSc_congr (by simp) sc
  unfold decodeNext
  dsimp only
  rw [hafter, ← hleave]
  exact ⟨_, fecSc_settleDecode ..⟩

/-! The commands of a codeword (R165, R166). -/

theorem codewordDecode_stores {obs : DecodeObs} (hlit : rxLit s sc = true) (hroom : (fecPort s (scPort sc)).out.length < 192) :
    codewordDecode sc c obs s = onFecPort (scPort sc) (fun f => { f with out := f.out ++ [(decodeNext sc c obs false s).2] })
      (decodeNext sc c obs false s).1 := by
  simp [codewordDecode, hlit, outputPlaces, hroom]

theorem codewordDecode_full {obs : DecodeObs} (hfull : 192 ≤ (fecPort s (scPort sc)).out.length) :
    codewordDecode sc c obs s = s := by
  simp [codewordDecode, outputPlaces, hfull.not_gt]

theorem readPoint_finished {obs : DecodeObs} {o : CwOut}
    (h : (fecPort s (scPort sc)).out.find? (fun o => o.sc == sc && o.c == c) = some o) :
    readPoint sc c obs s = handOver o (onFecPort (scPort sc) (fun f => { f with out := f.out.erase o }) s) := by
  simp only [readPoint, h]

theorem readPoint_unfinished {obs : DecodeObs} (hlit : rxLit s sc = true)
    (h : (fecPort s (scPort sc)).out.find? (fun o => o.sc == sc && o.c == c) = none) :
    readPoint sc c obs s = handOver (decodeNext sc c obs true s).2 (decodeNext sc c obs true s).1 := by
  simp only [readPoint, h, hlit, if_true]

@[simp] theorem fecSc_onFecPort (p f sc) : fecSc (onFecPort p f s) sc = fecSc s sc := rfl
@[simp] theorem fecPort_handOver (w : CwOut) (p : Nat) : fecPort (handOver w s) p = fecPort s p := rfl
@[simp] theorem fecSc_handOver (w : CwOut) (sc : Nat) : fecSc (handOver w s) sc = fecSc s sc := rfl

/-! The cap (R170, R171). -/

/-- Every debt is limited to the ceiling less the nominal budget in effect. -/
theorem clampDebts_le {f : FecPort} {x : Nat × Nat} (h : x ∈ (clampDebts f).debt) :
    x.2 ≤ cEff (clampDebts f) - nEff (clampDebts f) := by
  obtain ⟨y, -, rfl⟩ := List.mem_map.1 (List.mem_filter.1 h).1
  exact Nat.min_le_right ..

theorem fecPort_setCap (k : Nat) : ∃ n, fecPort (setCap p k s) p = clampDebts { fecPort s p with k := k, reductions := n } := by
  unfold setCap
  dsimp only
  rw [onlyIf_apply (fecPort · p) _ rfl, onlyIf_apply (fecPort · p) _ rfl, fecPort_same]
  exact ⟨_, rfl⟩

theorem marginBelow_mono {m : Int × Nat} {a b : Int} (hab : a ≤ b) (h : marginBelow m a = true) : marginBelow m b = true := by
  simp only [marginBelow, decide_eq_true_eq] at h ⊢
  exact h.trans_le (mul_le_mul_of_nonneg_right hab (Int.natCast_nonneg _))

/-- The count of the cap's ticks has no part in a margin. -/
theorem exactMargin_capTicks (n u : Nat) :
    exactMargin (onFecPort p (fun f => { f with capTicks := n }) s) u = exactMargin s u := by
  have hreq : requiredUnits (onFecPort p (fun f => { f with capTicks := n }) s) u = requiredUnits s u :=
    requiredUnits_congr (by simp [rateParts]) u
  have hneff (k : Nat) : nEff (fecPort (onFecPort p (fun f => { f with capTicks := n }) s) k) = nEff (fecPort s k) := by
    rw [fecPort_apply]
    split
    next h => rw [h]; rfl
    next => rfl
  simp only [exactMargin, tokenCost, hreq, hneff]
  rfl

/-- A unit of decoders below 3 % lowers its cap by one while it is above 3. -/
theorem fecPort_lowUnit {m : Int × Nat} (hp : p < 6) (hm : exactMargin s (6 * p + 2) = some m) (hlow : marginBelow m 30 = true)
    (hk : 3 < (fecPort s p).k) : fecPort (lowUnit (6 * p + 2) s) p = fecPort (setCap p ((fecPort s p).k - 1) s) p := by
  have hunit : (decide (6 * p + 2 < 36) && decide ((6 * p + 2) % 6 = 2)) = true := by simp; omega
  have hport : (6 * p + 2) / 6 = p := by omega
  simp only [lowUnit, hm, hlow, if_true, hunit, onlyIf_true, hport, lowerCap, decide_eq_true hk]
  exact fecPort_congr (by simp) p

/-- The state whose margin FEC_CAP_TICK compares: the rate as measured, the wait for a rise begun anew. -/
def lowTick (p ach : Nat) (s : State) : State :=
  onFecPort p (fun f => { f with capTicks := 0 }) (onPaceUnit (6 * p + 2) (fun u => { u with ach := some ach }) s)

section CapTick
variable {ach : Nat} {m : Int × Nat}
  (hm : exactMargin (onPaceUnit (6 * p + 2) (fun u => { u with ach := some ach }) s) (6 * p + 2) = some m)
  (hlow : marginBelow m 30 = true)
include hm hlow

/-- Below 3 % the arming of PACE_LOW stands, and the tick is that of a unit whose margin is low. -/
theorem capTick_low : capTick p ach s = lowUnit (6 * p + 2) (lowTick p ach s) := by
  have harm : rearmUnit (6 * p + 2) (onPaceUnit (6 * p + 2) (fun u => { u with ach := some ach }) s)
      = onPaceUnit (6 * p + 2) (fun u => { u with ach := some ach }) s := by
    simp only [rearmUnit, hm, marginBelow_mono (show (30 : Int) ≤ 60 by decide) hlow, Bool.not_true, onlyIf_false]
  simp only [capTick, harm, hm, hlow, if_true, lowTick]

/-- Below 3 % a cap above 3 falls by one, and the debts are limited under it. -/
theorem fecPort_capTick (hp : p < 6) (hk : 3 < (fecPort s p).k) : ∃ n, fecPort (capTick p ach s) p =
    clampDebts { fecPort s p with k := (fecPort s p).k - 1, reductions := n, capTicks := 0 } := by
  have htick : fecPort (lowTick p ach s) p = { fecPort s p with capTicks := 0 } := fecPort_same ..
  have hmargin : exactMargin (lowTick p ach s) (6 * p + 2) = some m := (exactMargin_capTicks ..).trans hm
  have hkTick : 3 < (fecPort (lowTick p ach s) p).k := by rw [htick]; exact hk
  obtain ⟨n, hcap⟩ := fecPort_setCap (p := p) (s := lowTick p ach s) ((fecPort (lowTick p ach s) p).k - 1)
  refine ⟨n, ?_⟩
  rw [capTick_low hm hlow, fecPort_lowUnit hp hmargin hlow hkTick, hcap, htick]
end CapTick

/-! Retirement of an engine (R172). -/

section Retire
variable (hnext : nextRetirement s 2 = some (18 * p + e)) (he : e < 18) (hslot : (fecPort s p).engines.idxOf? e = some k)
include hnext he hslot

theorem engineRetire_spare {rest : List Nat} (hspare : spareEngines (fecPort s p) = sp :: rest) : ∃ data,
    engineRetire p s = raisePort 0x020E p data (onFecPort p (fun f => { f with engines := f.engines.set k sp })
      (onFecPort p (fun f => { f with retired := including e f.retired }) (retired 2 (18 * p + e) s))) := by
  have hport : (18 * p + e) / 18 = p := by omega
  have hengine : (18 * p + e) % 18 = e := by omega
  rw [engineRetire, hnext]
  dsimp only
  rw [if_neg (not_not.2 hport), hengine, hslot, hspare]
  exact ⟨_, rfl⟩

theorem engineRetire_none (hspare : spareEngines (fecPort s p) = []) (hlit : lowestLit s p ≠ none) : ∃ data,
    engineRetire p s = raisePort 0x020F p data (onFecPort p (fun f => { f with
      leaving := including (f.engines.getD k 18) f.leaving })
      (onFecPort p (fun f => { f with retired := including e f.retired }) (retired 2 (18 * p + e) s))) := by
  have hport : (18 * p + e) / 18 = p := by omega
  have hengine : (18 * p + e) % 18 = e := by omega
  have hdark : (lowestLit s p).isNone = false := Option.isNone_eq_false_iff.2 (Option.isSome_iff_ne_none.2 hlit)
  rw [engineRetire, hnext]
  dsimp only
  rw [if_neg (not_not.2 hport), hengine, hslot, hspare, hdark]
  exact ⟨_, rfl⟩
end Retire

@[simp] theorem fecPort_raisePort (code p data q) : fecPort (raisePort code p data s) q = fecPort s q := rfl
@[simp] theorem fecPort_retired (typ idx q : Nat) : fecPort (retired typ idx s) q = fecPort s q := fecPort_congr (by simp) q
@[simp] theorem isRetired_onFecPort (p f typ idx) : isRetired (onFecPort p f s) typ idx = isRetired s typ idx := rfl

/-! The window of the pre-FEC BER (R174). -/

/-- What a window of the estimate leaves of its subcarrier, but for the estimate's Q, bound and mean. -/
theorem fecSc_berWindow : ∃ qv lower mean, fecSc (berWindow sc s) sc = { fecSc s sc with
    ber := if (fecSc s sc).wErr = 0 then 0xFFFF else min 0xFFFE (milliLog (21540 * (fecSc s sc).wGood) (fecSc s sc).wErr)
    qv := qv, lower := lower, none := decide ((fecSc s sc).wGood = 0), mean := mean
    wErr := 0, wGood := 0, wAll := 0, wIter := 0 } := by
  have hgauges (b : Bool) (v w : Int) (t : State) :
      fecSc (onlyIf b (fun s => noteGauge sc 1 v (noteGauge sc 0 w s)) t) sc = fecSc t sc := fecSc_congr (by simp) sc
  unfold berWindow
  dsimp only
  rw [hgauges, onlyIf_apply (fecSc · sc) _ rfl, fecSc_same]
  exact ⟨_, _, _, rfl⟩

/-! The commands (R169, R173). -/

theorem fecPort_respond (r : Req) (a : Reply) (p : Nat) : fecPort (respond r a) p = fecPort a.st p :=
  fecPort_congr (respond_same r a (by simp)) p

theorem setCap_budgets (k : Nat) :
    (fecPort (setCap p k s) p).n = (fecPort s p).n ∧ (fecPort (setCap p k s) p).c = (fecPort s p).c := by
  obtain ⟨n, h⟩ := fecPort_setCap (p := p) (s := s) k
  rw [h]
  exact ⟨rfl, rfl⟩

/-- Budgets within their ranges are stored, and a cap held by heat follows the new nominal budget. -/
theorem portFecconfig_stores (hport : okPort (r.u 0 1) = true) (hlow : 4 ≤ r.u 1 1) (hhigh : r.u 1 1 ≤ 16)
    (hceil : r.u 1 1 ≤ r.u 2 1) (hmax : r.u 2 1 ≤ min 16 (2 * r.u 1 1)) : (portFecconfig r s).code = .ok
      ∧ (fecPort (portFecconfig r s).st (r.u 0 1)).n = r.u 1 1 ∧ (fecPort (portFecconfig r s).st (r.u 0 1)).c = r.u 2 1 := by
  have hbudgets (b : Bool) (k : Nat) (t : State) : let x := fecPort (onlyIf b (setCap (r.u 0 1) k) t) (r.u 0 1)
      x.n = (fecPort t (r.u 0 1)).n ∧ x.c = (fecPort t (r.u 0 1)).c := by
    cases b
    · exact ⟨rfl, rfl⟩
    · exact setCap_budgets k
  rw [portFecconfig, onPort_ok hport, if_neg (by omega)]
  refine ⟨rfl, (hbudgets _ _ _).1.trans ?_, (hbudgets _ _ _).2.trans ?_⟩
  all_goals rw [fecPort_same]; rfl

/-- The response of port.fecstatus begins with the budgets and the cap. -/
theorem portFecstatus_settings (hport : okPort (r.u 0 1) = true) : ∃ rest, portFecstatus r s = okWith
    (byteOf (fecPort s (r.u 0 1)).n :: byteOf (fecPort s (r.u 0 1)).c :: byteOf (fecPort s (r.u 0 1)).k :: rest) s := by
  rw [portFecstatus, onPort_ok hport]
  simp only [List.cons_append]
  exact ⟨_, rfl⟩

theorem portFecstatus_fields (hport : okPort (r.u 0 1) = true) :
    (portFecstatus r s).code = .ok ∧ (portFecstatus r s).st = s ∧ 3 ≤ (portFecstatus r s).pay.length
      ∧ getU 0 1 (portFecstatus r s).pay = (fecPort s (r.u 0 1)).n % 256
      ∧ getU 1 1 (portFecstatus r s).pay = (fecPort s (r.u 0 1)).c % 256
      ∧ getU 2 1 (portFecstatus r s).pay = (fecPort s (r.u 0 1)).k % 256 := by
  obtain ⟨rest, hsettings⟩ := portFecstatus_settings (s := s) hport
  rw [hsettings]
  dsimp only [okWith]
  refine ⟨rfl, rfl, by simp, ?_, ?_, ?_⟩
  · rw [getU_cons_zero, byteOf_toNat]
  · rw [getU_cons_succ, getU_cons_zero, byteOf_toNat]
  · rw [getU_cons_succ, getU_cons_succ, getU_cons_zero, byteOf_toNat]

/-- The response of sc.fecstats begins with the counts of codewords and of bits. -/
theorem scFecstats_counts (hsc : okSc (r.u 0 1) = true) : ∃ rest, scFecstats r s = okWith
    (natBE 8 (fecSc s (r.u 0 1)).decoded ++ (natBE 8 (fecSc s (r.u 0 1)).ldpc ++ (natBE 8 (fecSc s (r.u 0 1)).bch
      ++ (natBE 8 (fecSc s (r.u 0 1)).rescued ++ (natBE 8 (fecSc s (r.u 0 1)).unc ++ rest))))) s := by
  rw [scFecstats, onSc_ok hsc]
  simp only [List.append_assoc]
  exact ⟨_, rfl⟩

theorem scFecstats_fields (hsc : okSc (r.u 0 1) = true) :
    (scFecstats r s).code = .ok ∧ (scFecstats r s).st = s ∧ 40 ≤ (scFecstats r s).pay.length
      ∧ getU 0 8 (scFecstats r s).pay = (fecSc s (r.u 0 1)).decoded % 2 ^ 64
      ∧ getU 32 8 (scFecstats r s).pay = (fecSc s (r.u 0 1)).unc % 2 ^ 64 := by
  obtain ⟨rest, hcounts⟩ := scFecstats_counts (s := s) hsc
  rw [hcounts]
  dsimp only [okWith]
  refine ⟨rfl, rfl, by simp only [List.length_append, natBE_length]; omega, ?_, ?_⟩
  · rw [getU_append_left (natBE_length ..).ge, getU_natBE]
    rfl
  · iterate 4 rw [getU_append_right (by simp only [natBE_length]; decide), natBE_length]
    rw [getU_append_left (natBE_length ..).ge, getU_natBE]
    rfl

/-- Settles O18: what each command of the encoders and decoders leaves of the counts, the store, the cap and the engines. -/
theorem fecEngine : Obligations.FecEngine := by
  unfold Obligations.FecEngine
  refine ⟨fun sc c cw s hsc hcw hlit hcode => ?encode, fun sc c r s hsc hcw hlit => ⟨fun hroom => ?decode, fun hfull => ?full⟩,
    fun sc c r o s hsc hcw hfind => ?finished, fun sc c r s hsc hcw hlit hfind => ?truncated, fun p s hport => ?rearm,
    fun p ach m s hport hm hlow hk => ?cap, fun p e k sp rest s hport he hnext hslot hspare => ?spare,
    fun p e k s hport he hnext hslot hspare hlit => ?noSpare, fun sc s hsc => ?window,
    fun mb s acc hport hlow hhigh hceil hmax => ?config, fun mb s acc hport => ?status, fun mb s acc hsc => ?stats⟩
  case encode =>
    have hok : (okSc sc && okCw c) = true := by simp [hsc, hcw]
    refine runs_of_next (exec_need rfl hok) (by rw [codewordEncode, hlit, onlyIf_true, ← hcode]) ?_
    exact sent_sendCodeword _
  case decode =>
    have hok : (okSc sc && okCw c) = true := by simp [hsc, hcw]
    obtain ⟨d, late, short, v, hcount⟩ := fecSc_decodeNext (s := s) (sc := sc) (c := c) r false
    refine runs_of_next (exec_need rfl hok) (codewordDecode_stores hlit hroom) ⟨?_, ?_⟩
    · rw [fecSc_onFecPort, hcount, countCodeword_decoded]
    · rw [fecPort_same, decodeNext_keeps_out]
      exact ⟨_, _, rfl⟩
  case full =>
    have hok : (okSc sc && okCw c) = true := by simp [hsc, hcw]
    exact (exec_need rfl hok).trans (congrArg _ (codewordDecode_full hfull))
  case finished =>
    have hok : (okSc sc && okCw c) = true := by simp [hsc, hcw]
    obtain ⟨rfl, -⟩ : o.sc = sc ∧ o.c = c := by simpa using List.find?_some hfind
    refine runs_of_next (exec_need rfl hok) (readPoint_finished hfind) ⟨?_, rfl, ?_⟩
    · rw [fecPort_handOver, fecPort_same]
    · rw [handOver, rxFramer_same]
      rfl
  case truncated =>
    have hok : (okSc sc && okCw c) = true := by simp [hsc, hcw]
    obtain ⟨d, late, short, v, hcount⟩ := fecSc_decodeNext (s := s) (sc := sc) (c := c) r true
    refine runs_of_next (exec_need rfl hok) (readPoint_unfinished hlit hfind) ⟨?_, ?_⟩
    · rw [fecSc_handOver, hcount, countCodeword_trunc]
      rfl
    · rw [fecPort_handOver]
      exact decodeNext_truncated r
  case rearm =>
    refine runs_of_exec (exec_need rfl hport) ?_
    rw [fecPort_same]
    exact ⟨rfl, rfl⟩
  case cap =>
    refine runs_of_exec (exec_need rfl hport) ?_
    obtain ⟨n, hcap⟩ := fecPort_capTick hm hlow (of_decide_eq_true hport) hk
    rw [hcap]
    exact ⟨rfl, fun x => clampDebts_le⟩
  case spare =>
    obtain ⟨data, hretire⟩ := engineRetire_spare hnext he hslot hspare
    refine runs_of_next (exec_need rfl hport) hretire ⟨?_, ?_, ?_⟩
    · rw [fecPort_raisePort, fecPort_same, fecPort_same, fecPort_retired]
    · rw [fecPort_raisePort, fecPort_same, fecPort_same, fecPort_retired]
      exact (mem_including ..).2 (.inl rfl)
    · rw [isRetired_raisePort, isRetired_onFecPort, isRetired_onFecPort, isRetired_retired]
  case noSpare =>
    obtain ⟨data, hretire⟩ := engineRetire_none hnext he hslot hspare hlit
    have hengine : (fecPort s p).engines.getD k 18 = e := by
      obtain ⟨hk, hget, -⟩ := List.idxOf?_eq_some_iff.1 hslot
      rw [List.getD_eq_getElem _ _ hk, hget]
    refine runs_of_next (exec_need rfl hport) hretire ⟨?_, ?_, ?_⟩
    · rw [fecPort_raisePort, fecPort_same, fecPort_same, fecPort_retired]
    · rw [fecPort_raisePort, fecPort_same, fecPort_same, fecPort_retired]
      exact (mem_including ..).2 (.inl hengine.symm)
    · rw [isRetired_raisePort, isRetired_onFecPort, isRetired_onFecPort, isRetired_retired]
  case window =>
    obtain ⟨qv, lower, mean, hwindow⟩ := fecSc_berWindow (sc := sc) (s := s)
    refine runs_of_exec (exec_need rfl hsc) ?_
    rw [hwindow]
    refine ⟨rfl, rfl, rfl, fun h => if_pos h, fun h => ?_, rfl⟩
    exact (if_neg h).trans_le (Nat.min_le_left ..)
  case config =>
    obtain ⟨hcode, hn, hc⟩ := portFecconfig_stores (s := s) (r := requestOf s mb) hport hlow hhigh hceil hmax
    refine runs_mailbox acc rfl ⟨answered_of_accepted acc hcode, ?_, ?_⟩
    · rw [fecPort_respond]
      exact hn
    · rw [fecPort_respond]
      exact hc
  case status =>
    obtain ⟨hcode, hst, hlen, hn, hc, hk⟩ := portFecstatus_fields (s := s) (r := requestOf s mb) hport
    refine runs_mailbox acc rfl ⟨answered_of_accepted acc hcode, ?_, ?_, ?_, ?_⟩
    · exact (resp_respond _ _ (by omega)).trans hn
    · exact (resp_respond _ _ (by omega)).trans hc
    · exact (resp_respond _ _ (by omega)).trans hk
    · exact (respond_same _ _ (q := .fecp) (by simp)).trans (congrArg State.fecp hst)
  case stats =>
    obtain ⟨hcode, hst, hlen, hdecoded, hunc⟩ := scFecstats_fields (s := s) (r := requestOf s mb) hsc
    refine runs_mailbox acc rfl ⟨answered_of_accepted acc hcode, ?_, ?_, ?_⟩
    · exact (resp_respond _ _ (by omega)).trans hdecoded
    · exact (resp_respond _ _ (by omega)).trans hunc
    · exact (respond_same _ _ (q := .fecs) (by simp)).trans (congrArg State.fecs hst)

end Sys2Proof.Machine
end

section
/-! SUPPORT and PROOF of O21: the frame commands (R186, R196 to R198, R201 to R206/06). -/
namespace Sys2Proof.Machine

variable {s : State} {r : Req}

/-- A response leaves the line frame as the command's rules left it. -/
theorem frame_respond (r : Req) (a : Reply) : (respond r a).frame = a.st.frame := respond_same r a (q := .frame) (by simp)

theorem txFrame_respond (r : Req) (a : Reply) (sc : Nat) : txFrame (respond r a) sc = txFrame a.st sc := by
  rw [txFrame, frame_respond, txFrame]

theorem declared_respond (r : Req) (a : Reply) (code obj : Nat) :
    declared (respond r a) code obj = declared a.st code obj := by
  rw [declared, defSt, frame_respond, declared, defSt]

@[simp] theorem txFrame_onRxFramer (k : Nat) (f : RxFramer → RxFramer) (s : State) (sc : Nat) :
    txFrame (onRxFramer k f s) sc = txFrame s sc := rfl

/-! Bytes of a response. -/

/-- A field of one of the blocks of `n` bytes that a list is put together from. -/
theorem getU_flatMap_range {g : Nat → List Byte} {n m c j k : Nat} (hlen : ∀ c, (g c).length = n) (hc : c < m)
    (hj : j + k ≤ n) : getU (n * c + j) k ((List.range m).flatMap g) = getU j k (g c) := by
  induction m with
  | zero => omega
  | succ m ih =>
    have hblocks : ((List.range m).flatMap g).length = n * m := by simp [List.length_flatMap, hlen, Nat.mul_comm]
    rw [List.range_succ, List.flatMap_append, List.flatMap_singleton]
    by_cases hm : c = m
    · rw [hm, getU_append_right (by omega), hblocks, Nat.add_sub_cancel_left]
    · have hroom : n * c + n ≤ n * m := Nat.mul_succ n c ▸ Nat.mul_le_mul_left n (by omega : c + 1 ≤ m)
      rw [getU_append_left (by omega), ih (by omega)]

theorem bitBytes_length (n : Nat) (p : Nat → Bool) : (bitBytes n p).length = n := by simp [bitBytes]

theorem getU_byte {l : List Byte} {b : Nat} (hb : b < l.length) : getU b 1 l = l[b].toNat := by
  rw [getU, field, List.drop_eq_getElem_cons hb, List.take_succ_cons, List.take_zero]
  simp [beNat]

/-- Bit k mod 8 of byte k / 8 is that of object k. -/
theorem bitOf_bitBytes {n b j : Nat} (p : Nat → Bool) (hb : b < n) (hj : j < 8) :
    bitOf (getU b 1 (bitBytes n p)) j = p (8 * b + j) := by
  have hbyte : getU b 1 (bitBytes n p) = listMask ((List.range 8).filter fun k => p (8 * b + k)) % 2 ^ 8 := by
    rw [getU_byte (by rw [bitBytes_length]; exact hb)]
    simp [bitBytes]
  rw [hbyte, bitOf, Nat.testBit_mod_two_pow, testBit_listMask]
  simp [hj]

/-! Settings. -/

theorem frameTrace_stores (hsc : okSc (r.u 0 1) = true) (hcompare : r.u 1 1 ≤ 3) (haction : r.u 2 1 ≤ 1) :
    frameTrace r s = okay (onRxFramer (r.u 0 1)
      (fun f => { f with compare := r.u 1 1, timAct := r.u 2 1 == 1, expTrace := field 68 64 r.pay })
      (onTxFrame (r.u 0 1) (fun f => { f with trace := field 4 64 r.pay }) s)) := by
  rw [frameTrace, onSc_ok hsc, if_neg (by omega)]

/-- A restarted integration keeps what is declared, and the settings. -/
theorem restartDefect_keeps (port code : Nat) (s : State) : (restartDefect port code s).frame.defcfg = s.frame.defcfg
    ∧ ∀ k, (defSt (restartDefect port code s) k).declared = (defSt s k).declared := by
  refine forAll_keeps (P := fun t => t.frame.defcfg = s.frame.defcfg ∧ ∀ k, (defSt t k).declared = (defSt s k).declared)
    (fun j => onDefSt j (fun d => { d with ctr := 0 })) _ (fun j t ht => ⟨ht.1, fun k => ?_⟩) s ⟨rfl, fun _ => rfl⟩
  rw [defSt_apply, ← ht.2 k]
  split_ifs with hk
  · rw [hk]
  · rfl

/-- The settings that a request gives a defect. -/
def defectSettings (r : Req) : DefCfg :=
  { set := some (r.u 4 4), clear := some (r.u 8 4), thr := if r.u 1 1 = 4 ∨ r.u 1 1 = 5 then some (r.u 12 4) else none }

/-- The settings of a defect are replaced. -/
def withDefectSettings (r : Req) : State → State := onFrameSt (fun f => { f with
  defcfg := tabSet {} f.defcfg (16 * min 6 (r.u 0 1) + r.u 1 1) (defectSettings r) })

theorem withDefectSettings_defcfg :
    tabGet {} (withDefectSettings r s).frame.defcfg (16 * min 6 (r.u 0 1) + r.u 1 1) = defectSettings r := by
  rw [withDefectSettings, onFrameSt_frame, tabGet_set_same]

theorem declared_withDefectSettings (code obj : Nat) :
    declared (withDefectSettings r s) code obj = declared s code obj := rfl

theorem frameDefcfg_stores (hobj : (r.u 1 1 ≤ 7 ∧ r.u 0 1 < 6) ∨ (8 ≤ r.u 1 1 ∧ r.u 1 1 ≤ 9 ∧ r.u 0 1 = 0xFF))
    (hset : defectTimeOk (r.u 1 1) (r.u 4 4) = true) (hclear : defectTimeOk (r.u 1 1) (r.u 8 4) = true)
    (hthr : if r.u 1 1 = 4 ∨ r.u 1 1 = 5 then 100 ≤ r.u 12 4 ∧ r.u 12 4 ≤ 10000000 else r.u 12 4 = 0) :
    frameDefcfg r s = okay (restartDefect (r.u 0 1) (r.u 1 1) (withDefectSettings r s)) := by
  have hport : ¬(if r.u 1 1 ≤ 7 then 5 < r.u 0 1 else r.u 0 1 ≠ 0xFF) := by split_ifs <;> omega
  have hnone : ¬(r.u 1 1 ≠ 4 ∧ r.u 1 1 ≠ 5 ∧ r.u 12 4 ≠ 0) := by split_ifs at hthr <;> omega
  have hrange : ¬((r.u 1 1 = 4 ∨ r.u 1 1 = 5) ∧ (r.u 12 4 < 100 ∨ 10000000 < r.u 12 4)) := by split_ifs at hthr <;> omega
  rw [frameDefcfg]
  rw [if_neg, if_neg]
  · rfl
  · simp [hset, hclear, hrange]
  · rintro (h | h | h)
    · omega
    · exact hport h
    · exact hnone h

theorem frameChan_stores (hsc : okSc (r.u 0 1) = true) (hgcc : r.u 1 1 ≤ 1) (huoc : r.u 2 1 ≤ 1)
    (hgccNn : r.u 1 1 = 1 → portDefined s (r.u 4 2) = true) (huocNn : r.u 2 1 = 1 → portDefined s (r.u 6 2) = true) :
    frameChan r s = okay (onTxFrame (r.u 0 1) (fun f => { f with
      gcc := r.u 1 1 == 1, uoc := r.u 2 1 == 1, gccNn := r.u 4 2, uocNn := r.u 6 2
      gccQ := if r.u 1 1 = 1 then f.gccQ else [], uocQ := if r.u 2 1 = 1 then f.uocQ else [] }) s) := by
  rw [frameChan, onSc_ok hsc, if_neg (by omega), if_neg]
  rintro (⟨hone, hundefined⟩ | ⟨hone, hundefined⟩)
  · simp [hgccNn hone] at hundefined
  · simp [huocNn hone] at hundefined

theorem frameKcsend_queues (hsc : okSc (r.u 0 1) = true) (hlow : 1 ≤ r.u 1 1) (hhigh : r.u 1 1 ≤ 224)
    (hlen : r.len = 4 + r.u 1 1) (hclass : txClass s (r.u 0 1) ≠ 0) (hroom : (txFrame s (r.u 0 1)).kcq.length < 4) :
    frameKcsend r s = okay (onTxFrame (r.u 0 1) (fun f => { f with
      kcq := f.kcq ++ [⟨f.kcNum, field 4 (r.u 1 1) r.pay, 0⟩], kcNum := (f.kcNum + 1) % 16 }) s) := by
  rw [frameKcsend, onSc_ok hsc]
  dsimp only
  rw [if_neg (by omega), if_neg (by omega), if_neg hclass, if_neg (by omega)]

/-! Received messages and status. -/

theorem respBytes_okWith {pay : List Byte} {n : Nat} (h : n ≤ pay.length) :
    respBytes (respond r (okWith pay s)) r.mb 0 n = pay.take n := by
  rw [respBytes_respond _ _ (by rw [Nat.zero_add]; exact h), field, okWith, List.drop_zero]

theorem frameStamp_last {dep arr m : Nat} (hsc : okSc (r.u 0 1) = true) (hst : (rxFramer s (r.u 0 1)).st = .inFrame)
    (hlit : rxLit s (r.u 0 1) = true) (hstamp : (rxFramer s (r.u 0 1)).stamp = some (dep, arr, m)) :
    frameStamp r s = okWith (tcBytes12 dep ++ tcBytes12 arr ++ [byteOf m, 0, 0, 0]) s := by
  rw [frameStamp, onSc_ok hsc]
  simp [hst, hlit, hstamp]

theorem tcBytes12_length (t : Nat) : (tcBytes12 t).length = 12 := by simp [tcBytes12]

/-- The response of frame.status begins with the alignment, the multiframe lock, the defects and the counts. -/
theorem frameStatus_counts (hsc : okSc (r.u 0 1) = true) : ∃ m x rest, frameStatus r s = okWith
    (byteOf (if rxLit s (r.u 0 1) then alignNum (rxFramer s (r.u 0 1)).st else 5) :: byteOf (b2n (rxFramer s (r.u 0 1)).mf)
      :: (natBE 2 (defectMask s (r.u 0 1)) ++ m :: x :: 0 :: 0 :: (natBE 4 (rxFramer s (r.u 0 1)).falseC
        ++ (natBE 4 (rxFramer s (r.u 0 1)).lossC ++ rest)))) s := by
  rw [frameStatus, onSc_ok hsc]
  simp only [List.cons_append, List.nil_append, List.append_assoc]
  exact ⟨_, _, _, rfl⟩

theorem frameStatus_fields (hsc : okSc (r.u 0 1) = true) :
    (frameStatus r s).code = .ok ∧ 16 ≤ (frameStatus r s).pay.length
      ∧ getU 0 1 (frameStatus r s).pay = (if rxLit s (r.u 0 1) then alignNum (rxFramer s (r.u 0 1)).st else 5) % 256
      ∧ getU 1 1 (frameStatus r s).pay = b2n (rxFramer s (r.u 0 1)).mf
      ∧ getU 2 2 (frameStatus r s).pay = defectMask s (r.u 0 1) % 65536
      ∧ getU 8 4 (frameStatus r s).pay = (rxFramer s (r.u 0 1)).falseC % 2 ^ 32
      ∧ getU 12 4 (frameStatus r s).pay = (rxFramer s (r.u 0 1)).lossC % 2 ^ 32 := by
  have hbit (b : Bool) : b2n b % 256 = b2n b := by cases b <;> rfl
  obtain ⟨m, x, rest, hcounts⟩ := frameStatus_counts (s := s) hsc
  rw [hcounts]
  dsimp only [okWith]
  refine ⟨rfl, by simp; omega, ?_, ?_, ?_, ?_, ?_⟩
  · rw [getU_cons_zero, byteOf_toNat]
  · rw [getU_cons_succ, getU_cons_zero, byteOf_toNat, hbit]
  all_goals simp [getU_cons_succ, getU_append_left, getU_append_right, getU_natBE]

/-- The response of frame.defects: a byte of ports for loss of light, 12 bytes of subcarriers for every other defect. -/
theorem frameDefects_bits :
    (∀ p, p < 6 → bitOf (getU 0 1 (frameDefects r s).pay) p = declared s 0 p)
      ∧ ∀ c sc, 1 ≤ c → c ≤ 7 → sc < 96 →
        bitOf (getU (4 + 12 * (c - 1) + sc / 8) 1 (frameDefects r s).pay) (sc % 8) = declared s c sc := by
  have hlen : (bitBytes 1 (fun p => decide (p < 6) && declared s 0 p) ++ zeros 3).length = 4 := rfl
  dsimp only [frameDefects, okWith]
  refine ⟨fun p hp => ?_, fun c sc hlow hhigh hsc => ?_⟩
  · rw [List.append_assoc, getU_append_left (bitBytes_length ..).ge, bitOf_bitBytes _ (by omega) (by omega)]
    simp [hp]
  · rw [getU_append_right (by omega), hlen, show 4 + 12 * (c - 1) + sc / 8 - 4 = 12 * (c - 1) + sc / 8 by omega,
      getU_flatMap_range (fun _ => bitBytes_length ..) (by omega) (by omega), bitOf_bitBytes _ (by omega) (by omega),
      Nat.sub_add_cancel hlow, Nat.div_add_mod]

theorem frameDefects_length : (frameDefects r s).pay.length = 88 := by
  simp [frameDefects, okWith, bitBytes_length, List.length_flatMap]

theorem frameTribdef_defects (hlow : r.u 0 2 ≤ 3072) (hmod : r.u 0 2 % 768 = 0) : frameTribdef r s = okWith
    (bitBytes 96 (fun k => declared s 8 (r.u 0 2 + k)) ++ bitBytes 96 (fun k => declared s 9 (r.u 0 2 + k))) s := by
  rw [frameTribdef, if_neg (by omega)]

/-- Settles O21: what each frame command stores or answers. -/
theorem frameCommands : Obligations.FrameCommands := by
  unfold Obligations.FrameCommands
  refine ⟨fun mb s acc hsc hcompare haction => ?trace, fun mb s acc hobj hset hclear hthr => ?defcfg,
    fun mb s acc hsc => ?pcset, fun mb s acc hsc hgcc huoc hgccNn huocNn => ?chan,
    fun mb s acc hsc hlow hhigh hlen hclass hroom => ?kcsend, fun mb s acc => ?kcrecv,
    fun mb s acc hsc hst hlit dep arr m hstamp => ?stamp, fun mb s acc hsc => ?status, fun mb s acc => ?defects,
    fun mb s acc hlow hmod => ?tribdef⟩
  case trace =>
    refine runs_mailbox acc rfl ?_
    rw [frameTrace_stores hsc hcompare haction]
    refine ⟨answered_of_accepted acc rfl, ?_⟩
    rw [txFrame_respond, rxFramer_respond, okay, arg, rxFramer_same, txFrame_onRxFramer, txFrame_same]
    exact ⟨rfl, rfl, rfl, rfl⟩
  case defcfg =>
    refine runs_mailbox acc rfl ?_
    rw [frameDefcfg_stores hobj hset hclear hthr]
    obtain ⟨hcfg, hkept⟩ := restartDefect_keeps (arg s mb 0 1) (arg s mb 1 1) (withDefectSettings (requestOf s mb) s)
    have hstored := (congrArg (tabGet {} · _) hcfg).trans withDefectSettings_defcfg
    refine ⟨answered_of_accepted acc rfl, ?_, ?_, fun code obj => ?_⟩
    · rw [frame_respond]
      exact congrArg DefCfg.set hstored
    · rw [frame_respond]
      exact congrArg DefCfg.clear hstored
    · rw [declared_respond]
      exact (hkept _).trans (declared_withDefectSettings ..)
  case pcset =>
    refine runs_mailbox acc rfl ?_
    rw [framePcset, onSc_ok hsc]
    refine ⟨answered_of_accepted acc rfl, ?_⟩
    rw [txFrame_respond, okay, arg, txFrame_same]
    exact Nat.mod_eq_of_lt (getU_lt ..)
  case chan =>
    refine runs_mailbox acc rfl ?_
    rw [frameChan_stores hsc hgcc huoc hgccNn huocNn]
    refine ⟨answered_of_accepted acc rfl, ?_⟩
    rw [txFrame_respond, okay, arg, txFrame_same]
    exact ⟨rfl, rfl, rfl, rfl⟩
  case kcsend =>
    refine runs_mailbox acc rfl ?_
    rw [frameKcsend_queues hsc hlow hhigh hlen hclass hroom]
    refine ⟨answered_of_accepted acc rfl, ?_⟩
    rw [txFrame_respond, okay, arg, txFrame_same]
    exact ⟨_, rfl, rfl, rfl, rfl⟩
  case kcrecv =>
    refine runs_mailbox acc rfl ?_
    cases hqueue : s.frame.kcRx with
    | nil =>
      simp only [frameKcrecv, hqueue]
      refine ⟨answered_of_accepted acc rfl, fun _ => ⟨respBytes_okWith le_rfl, ?_⟩, nofun⟩
      rw [frame_respond]
      exact hqueue
    | cons m rest =>
      simp only [frameKcrecv, hqueue]
      refine ⟨answered_of_accepted acc rfl, nofun, fun m' rest' hcons => ?_⟩
      obtain ⟨rfl, rfl⟩ := List.cons.inj hcons
      refine ⟨by rw [frame_respond]; rfl, (respBytes_okWith ?_).trans (List.take_of_length_le ?_)⟩ <;> simp <;> omega
  case stamp =>
    refine runs_mailbox acc rfl ?_
    rw [frameStamp_last hsc hst hlit hstamp]
    refine ⟨answered_of_accepted acc rfl, (respBytes_okWith (by simp [tcBytes12_length])).trans ?_⟩
    simp [List.take_append, List.take_of_length_le, tcBytes12_length]
  case status =>
    obtain ⟨hcode, hlen, halign, hmf, hmask, hfalse, hloss⟩ := frameStatus_fields (s := s) (r := requestOf s mb) hsc
    refine runs_mailbox acc rfl ⟨answered_of_accepted acc hcode, ?_, ?_, ?_, ?_, ?_⟩
    · exact (resp_respond _ _ (by omega)).trans halign
    · exact (resp_respond _ _ (by omega)).trans hmf
    · exact (resp_respond _ _ (by omega)).trans hmask
    · exact (resp_respond _ _ (by omega)).trans hfalse
    · exact (resp_respond _ _ (by omega)).trans hloss
  case defects =>
    have hlen := frameDefects_length (s := s) (r := requestOf s mb)
    obtain ⟨hports, hscs⟩ := frameDefects_bits (s := s) (r := requestOf s mb)
    refine runs_mailbox acc rfl ⟨answered_of_accepted acc rfl, fun p hp => ?_, fun c sc hlow hhigh hsc => ?_⟩
    · exact (congrArg (bitOf · p) (resp_respond _ _ (by omega))).trans (hports p hp)
    · exact (congrArg (bitOf · (sc % 8)) (resp_respond _ _ (by omega))).trans (hscs c sc hlow hhigh hsc)
  case tribdef =>
    refine runs_mailbox acc rfl ?_
    rw [frameTribdef_defects hlow hmod]
    refine ⟨answered_of_accepted acc rfl, fun k hk => ⟨?_, ?_⟩⟩
    · refine (congrArg (bitOf · (k % 8)) (resp_respond _ _ (by simp [okWith, bitBytes_length]; omega))).trans ?_
      dsimp only [okWith]
      rw [getU_append_left (by rw [bitBytes_length]; omega), bitOf_bitBytes _ (by omega) (by omega), Nat.div_add_mod]
      rfl
    · refine (congrArg (bitOf · (k % 8)) (resp_respond _ _ (by simp [okWith, bitBytes_length]; omega))).trans ?_
      dsimp only [okWith]
      rw [getU_append_right (by rw [bitBytes_length]; omega), bitBytes_length, Nat.add_sub_cancel_left,
        bitOf_bitBytes _ (by omega) (by omega), Nat.div_add_mod]
      rfl

end Sys2Proof.Machine
end

section
/-! SUPPORT and PROOF of O19: the frame that a subcarrier sends, and its scrambling (R177 to R183, R193, R196, R201, R202/06). -/
namespace Sys2Proof.Machine

variable {s : State} {sc : Nat}

/-! Scrambling (R183): the same bytes are added whatever the content. -/

theorem scrambleFrom_length (r : Nat) (l : List Byte) : (scrambleFrom r l).length = l.length := by
  induction l generalizing r with
  | nil => rfl
  | cons b l ih => simp [scrambleFrom, ih]

theorem scrambleFrom_scrambleFrom (r : Nat) (l : List Byte) : scrambleFrom r (scrambleFrom r l) = l := by
  induction l generalizing r with
  | nil => rfl
  | cons b l ih => simp [scrambleFrom, ih]

theorem scramble_take (sc : Nat) {l : List Byte} (h : 6 ≤ l.length) : (scramble sc l).take 6 = l.take 6 := by
  rw [scramble, List.take_append_of_le_length (by simp [h]), List.take_take, min_self]

theorem scramble_drop (sc : Nat) {l : List Byte} (h : 6 ≤ l.length) :
    (scramble sc l).drop 6 = scrambleFrom ((0x13570000 + sc) % 2 ^ 31) (l.drop 6) := by
  rw [scramble, List.drop_left' (by simp [h])]

theorem scramble_length (sc : Nat) (l : List Byte) : (scramble sc l).length = l.length := by
  simp [scramble, scrambleFrom_length]
  omega

theorem scramble_scramble (sc : Nat) {l : List Byte} (h : 6 ≤ l.length) : scramble sc (scramble sc l) = l := by
  rw [scramble, scramble_take sc h, scramble_drop sc h, scrambleFrom_scrambleFrom, List.take_append_drop]

/-! The sizes of the parts of a frame (R177, R179). -/

theorem fillerFrom_length (ph n : Nat) : (fillerFrom ph n).length = n := by simp [fillerFrom]

theorem channelTake_length (n : Nat) (idle queue : List Byte) : (channelTake n idle queue).1.length = n := by
  simp [channelTake, fillerFrom_length, ceilDiv]
  omega

theorem kcCell_length (m : KcMsg) : (kcCell m).length = 16 := by simp [kcCell, padTo_length]

theorem keyCell_length (s : State) (sc : Nat) : (keyCell s sc).length = 16 := by
  unfold keyCell
  dsimp only
  split
  · exact padTo_length ..
  · split_ifs
    · exact zeros_length _
    · exact kcCell_length _
  · exact zeros_length _

theorem controlCell_length (f : TxFrame) : (controlCell f).length = 8 := by
  unfold controlCell
  split
  · simp [idleControl]
  · simp [padTo_length]

theorem payload_length (f : TxFrame) (phase : Nat) : (payload f phase).length = 9240 := by
  rw [payload, List.length_flatMap, List.map_congr_left (g := fun _ => 231)]
  · simp
  · intro k _
    split
    · exact padTo_length ..
    · exact fillerFrom_length ..

/-! The frame before scrambling. -/

/-- The frame that a single module builds for the departure `at_`, as of the state `s` at that instant. -/
def rawFrame (s : State) (sc at_ : Nat) : List Byte :=
  let f := txFrame s sc
  overhead s sc (at_ / frameTicks (txClass s sc) % 256) (frameCells s sc at_)
    (channelTake 32 f.gccIdle (if f.gcc then f.gccQ else [])).1 (channelTake 64 f.uocIdle (if f.uoc then f.uocQ else [])).1
    ++ payload f (freeNat s % 6)

theorem frameCells_single (h : isSingle s = true) (sc dep : Nat) : frameCells s sc dep =
    ⟨sc, dep, keyCell s sc, controlCell (txFrame s sc), ownStatus s sc, (txFrame s sc).pc⟩ := if_pos h

theorem rawFrame_length (h : isSingle s = true) (sc at_ : Nat) : (rawFrame s sc at_).length = 9405 := by
  simp [rawFrame, overhead, frameCells_single h, faw, channelTake_length, keyCell_length, controlCell_length,
    payload_length, tcBytes12_length]

/-- How a frame begins: the alignment word, the multiframe count, the parity, the status, the trace byte, two bytes of the
map, the protection value and the departure (R177). -/
theorem rawFrame_begins (h : isSingle s = true) (hbip : injFor s 0x031 sc = false) (at_ : Nat) :
    ∃ status desc rest, rawFrame s sc at_ = faw ++ ([byteOf (at_ / frameTicks (txClass s sc) % 256), (txFrame s sc).bip, status,
      (padTo 64 (txFrame s sc).trace).getD (at_ / frameTicks (txClass s sc) % 256 % 64) 0]
      ++ (natBE 2 desc ++ (natBE 4 (txFrame s sc).pc.toNat ++ (tcBytes12 at_ ++ rest)))) := by
  rw [rawFrame, overhead, frameCells_single h]
  simp only [hbip, Bool.false_eq_true, if_false, List.append_assoc]
  exact ⟨_, _, _, rfl⟩

theorem rawFrame_fields (h : isSingle s = true) (hbip : injFor s 0x031 sc = false) (at_ : Nat) :
    (rawFrame s sc at_).take 6 = faw
      ∧ getU 6 1 (rawFrame s sc at_) = at_ / frameTicks (txClass s sc) % 256
      ∧ (rawFrame s sc at_).getD 7 0 = (txFrame s sc).bip
      ∧ (rawFrame s sc at_).getD 9 0
        = (padTo 64 (txFrame s sc).trace).getD (at_ / frameTicks (txClass s sc) % 256 % 64) 0
      ∧ field 12 4 (rawFrame s sc at_) = natBE 4 (txFrame s sc).pc.toNat
      ∧ field 16 12 (rawFrame s sc at_) = tcBytes12 at_ := by
  obtain ⟨status, desc, rest, hraw⟩ := rawFrame_begins h hbip at_
  have hfaw : faw.length = 6 := rfl
  rw [hraw]
  refine ⟨List.take_left' hfaw, ?_, ?_, ?_, ?_, ?_⟩
  · rw [getU_append_right (by omega), hfaw, List.cons_append, getU_cons_zero, byteOf_toNat, Nat.mod_mod]
  · rw [List.getD_append_right _ _ _ _ (by omega), hfaw]
    rfl
  · rw [List.getD_append_right _ _ _ _ (by omega), hfaw]
    rfl
  · simp [field, List.drop_append, List.take_append, hfaw]
  · simp [field, List.drop_append, List.drop_of_length_le, hfaw, tcBytes12_length]

/-! The framer after the frame. -/

/-- What a transmit framer shows of the frame it sent last. -/
def sentFields (f : TxFrame) : List Byte × Byte × Nat × Nat × Tab (List Byte) := (f.frame, f.bip, f.mfc, f.dep, f.slots)

theorem sentFields_keyAdvance (f : TxFrame) : sentFields (keyAdvance f) = sentFields f := by
  unfold keyAdvance
  split <;> rfl

theorem sentFields_controlAdvance (f : TxFrame) : sentFields (controlAdvance f) = sentFields f := by
  unfold controlAdvance
  split <;> rfl

theorem sentFields_digestFrame (m : Nat) (frame : List Byte) (f : TxFrame) :
    sentFields (digestFrame m frame f) = sentFields f := rfl

theorem sentFields_cellsSent (scheduled : Bool) (dep : Nat) (f : TxFrame) :
    sentFields (cellsSent true scheduled dep f) = sentFields f :=
  (sentFields_keyAdvance _).trans (sentFields_controlAdvance f)

theorem not_schedules_of_single (h : isSingle s = true) : schedules s = false := by
  have hrole : s.pair.role = 0 := by simpa [isSingle] using h
  simp [schedules, isLead, hrole]

theorem not_standIn_of_single (h : isSingle s = true) : isStandIn s = false := by
  have hrole : s.pair.role = 0 := by simpa [isSingle] using h
  simp [isStandIn, hrole]

theorem txFrame_paceToken (u q : Nat) : txFrame (paceToken u s) q = txFrame s q := rfl
theorem txFrame_onTxSc (k : Nat) (f : TxSc → TxSc) (q : Nat) : txFrame (onTxSc k f s) q = txFrame s q := rfl
theorem txSc_paceToken (u q : Nat) : txSc (paceToken u s) q = txSc s q := rfl
theorem txSc_onTxFrame (k : Nat) (f : TxFrame → TxFrame) (q : Nat) : txSc (onTxFrame k f s) q = txSc s q := rfl

theorem buildFrame_sends {at_ : Nat} (h : isSingle s = true) (hbip : injFor s 0x031 sc = false)
    (hdesc : injFor s 0x033 sc = false) (hkey : injFor s 0x034 sc = false) :
    sentFields (txFrame (buildFrame sc at_ s) sc) = (scramble sc (rawFrame (clockTo at_ s) sc at_),
        bip8 (payloadOf (scramble sc (rawFrame (clockTo at_ s) sc at_))),
        (at_ / frameTicks (txClass (clockTo at_ s) sc) % 256 + 1) % 256, at_, [])
      ∧ (txSc (buildFrame sc at_ s) sc).frames = satAdd max64 (txSc s sc).frames 1
      ∧ now (buildFrame sc at_ s) = max (now s) at_ := by
  have hsingle : isSingle (clockTo at_ s) = true := h
  have hbip' : injFor (clockTo at_ s) 0x031 sc = false := hbip
  have hdesc' : injFor (clockTo at_ s) 0x033 sc = false := hdesc
  have hdrop : dropsFragment (clockTo at_ s) sc = false := by
    have hkey' : injFor (clockTo at_ s) 0x034 sc = false := hkey
    rw [dropsFragment, hkey', Bool.and_false]
  unfold buildFrame
  simp only [hsingle, hbip', hdesc', hdrop, not_schedules_of_single hsingle, not_standIn_of_single hsingle, Bool.and_false,
    Bool.false_and, onlyIf_false]
  refine ⟨?_, ?_, rfl⟩
  · rw [txFrame_paceToken, txFrame_onTxSc, txFrame_same, sentFields_cellsSent, sentFields_digestFrame]
    simp only [sentFields, rawFrame]
  · rw [txSc_paceToken, txSc_same, txSc_onTxFrame]
    rfl

/-- Settles O19: a frame is built from the state at its departure, and what scrambles it descrambles it. -/
theorem framesCarryTheirOverhead : Obligations.FramesCarryTheirOverhead := by
  unfold Obligations.FramesCarryTheirOverhead
  refine ⟨fun sc at_ s hsc hlit hgrid hnow hsingle hbip hdesc hkey => ?_,
    fun sc l h => ⟨scramble_scramble sc h, scramble_take sc h, scramble_length sc l⟩⟩
  have hexec : exec (.frameTransmit sc at_) s = .next (buildFrame sc at_ s) := by
    refine exec_need (n := "subcarrier") ?_ hsc
    show execFrameTransmit sc at_ s = _
    rw [execFrameTransmit, hlit, hgrid, decide_eq_true hnow]
    rfl
  obtain ⟨hsent, hframes, htime⟩ := buildFrame_sends (at_ := at_) hsingle hbip hdesc hkey
  obtain ⟨hfaw, hmfc, hparity, htrace, hpc, hdep⟩ := rawFrame_fields (s := clockTo at_ s) hsingle hbip at_
  simp only [sentFields, Prod.mk.injEq] at hsent
  obtain ⟨hframe, hbip', hmfc', hdep', hslots⟩ := hsent
  refine runs_of_exec hexec ⟨rawFrame (clockTo at_ s) sc at_, hframe, rawFrame_length hsingle .., hfaw, hmfc, hparity,
    ?_, hpc, hdep, ?_, ?_, hdep', hslots, hframes, htime.trans (max_eq_right hnow)⟩
  · rw [htrace, hmfc]
    rfl
  · rw [hbip', hframe]
    rfl
  · rw [hmfc', hmfc]

end Sys2Proof.Machine
end

section
/-! SUPPORT and PROOF of O22: one evaluation of every defect (R197 to R199/06). -/
namespace Sys2Proof.Machine

variable {s t u : State}

/-! One element among those of a list. -/

/-- An invariant that each element of a list keeps, all of them keep. -/
theorem forAll_keeps_mem {α : Type} {P : State → Prop} {f : α → State → State} {l : List α}
    (h : ∀ a ∈ l, ∀ u, P u → P (f a u)) (hs : P s) : P (forAll f l s) := by
  induction l generalizing s with
  | nil => exact hs
  | cons a l ih => exact ih (fun b hb => h b (List.mem_cons_of_mem _ hb)) (h a List.mem_cons_self s hs)

/-- What the step of one element achieves, where the other elements keep its premise before it and its achievement after. -/
theorem forAll_at {α : Type} {P Q : State → Prop} {f : α → State → State} {l : List α} {a : α} (hl : l.Nodup) (ha : a ∈ l)
    (hbefore : ∀ b ∈ l, b ≠ a → ∀ u, P u → P (f b u)) (hat : ∀ u, P u → Q (f a u))
    (hafter : ∀ b ∈ l, b ≠ a → ∀ u, Q u → Q (f b u)) (hs : P s) : Q (forAll f l s) := by
  induction l generalizing s with
  | nil => cases ha
  | cons b l ih =>
    obtain ⟨hb, hl⟩ := List.nodup_cons.1 hl
    by_cases h : b = a
    · subst h
      exact forAll_keeps_mem (P := Q) (l := l) (fun c hc => hafter c (List.mem_cons_of_mem _ hc) (fun e => hb (e ▸ hc))) (hat s hs)
    · exact ih hl (List.mem_of_ne_of_mem (Ne.symm h) ha) (fun c hc => hbefore c (List.mem_cons_of_mem _ hc))
        (fun c hc => hafter c (List.mem_cons_of_mem _ hc)) (hbefore b List.mem_cons_self h s hs)

/-! One evaluation of one defect (R197, R199). -/

/-- The set or clear time that a defect waits for. -/
def defectTime (c : DefCfg) (code : Nat) (d : DefSt) : Nat :=
  if d.declared then c.clear.getD (clearDefault code) else c.set.getD (setDefault code)

/-- A defect toggles: unmasked, its raw indication has differed for the whole time. -/
def defectToggles (c : DefCfg) (code : Nat) (raw masked : Bool) (d : DefSt) : Bool :=
  !masked && raw != d.declared && decide (defectTime c code d ≤ d.ctr)

/-- The integration of a defect after one evaluation. -/
def steppedDefect (c : DefCfg) (code : Nat) (raw masked : Bool) (d : DefSt) : DefSt :=
  { declared := if masked then false else if defectToggles c code raw masked d then raw else d.declared
    ctr := if masked || defectToggles c code raw masked d || raw == d.declared then 0 else d.ctr + 1 }

section Stepped
variable {c : DefCfg} {code : Nat} {raw : Bool} {d : DefSt}

theorem steppedDefect_masked : steppedDefect c code raw true d = ⟨false, 0⟩ := rfl

theorem steppedDefect_agrees (h : raw = d.declared) : steppedDefect c code raw false d = ⟨d.declared, 0⟩ := by
  simp [steppedDefect, h]

theorem steppedDefect_toggles (h : raw ≠ d.declared) (hlong : defectTime c code d ≤ d.ctr) :
    steppedDefect c code raw false d = ⟨raw, 0⟩ := by
  simp [steppedDefect, defectToggles, h, hlong]

theorem steppedDefect_counts (h : raw ≠ d.declared) (hshort : d.ctr < defectTime c code d) :
    steppedDefect c code raw false d = ⟨d.declared, d.ctr + 1⟩ := by
  simp [steppedDefect, defectToggles, h, hshort]

end Stepped

theorem defSt_stepDefect (code obj port vec : Nat) (raw masked : Bool) (s : State) (k : Nat) :
    defSt (stepDefect code obj port vec raw masked s) k = if k = 4096 * code + obj
      then steppedDefect (defectCfg s port code) code raw masked (defSt s (4096 * code + obj)) else defSt s k := by
  unfold stepDefect
  dsimp only
  rw [onlyIf_apply (defSt · k) _ rfl, onlyIf_apply (defSt · k) _ rfl, defSt_apply]
  rfl

/-- The state but for the integration of defects and the events and log entries it gives rise to. -/
def sansDefects (s : State) : State := { s with frame := { s.frame with defects := [] }, ev := {}, log := {} }

theorem sansDefects_stepDefect (code obj port vec : Nat) (raw masked : Bool) (s : State) :
    sansDefects (stepDefect code obj port vec raw masked s) = sansDefects s :=
  (onlyIf_apply sansDefects _ rfl).trans ((onlyIf_apply sansDefects _ rfl).trans rfl)

/-! Raw indications and settings rest on nothing that an evaluation changes. -/

theorem lolRaw_congr (h : sansDefects t = sansDefects s) (p : Nat) : lolRaw t p = lolRaw s p := by
  show lolRaw (sansDefects t) p = lolRaw (sansDefects s) p
  rw [h]

theorem scRaw_congr (h : sansDefects t = sansDefects s) (sc code : Nat) : scRaw t sc code = scRaw s sc code := by
  show scRaw (sansDefects t) sc code = scRaw (sansDefects s) sc code
  rw [h]

theorem defectCfg_congr (h : sansDefects t = sansDefects s) (p code : Nat) : defectCfg t p code = defectCfg s p code := by
  show defectCfg (sansDefects t) p code = defectCfg (sansDefects s) p code
  rw [h]

/-! The rounds of a tick. -/

/-- Loss of light of every port. -/
def lolRound : State → State := forAll (fun p s => stepDefect 0 p p (16 + p) (lolRaw s p) false s) allPorts

theorem sansDefects_lolRound (s : State) : sansDefects (lolRound s) = sansDefects s :=
  forAll_keeps (P := fun u => sansDefects u = sansDefects s) _ _
    (fun _ _ hu => (sansDefects_stepDefect ..).trans hu) s rfl

theorem defSt_lolRound {p : Nat} (hp : p < 6) :
    defSt (lolRound s) p = steppedDefect (defectCfg s p 0) 0 (lolRaw s p) false (defSt s p) := by
  refine forAll_at (P := fun u => sansDefects u = sansDefects s ∧ defSt u p = defSt s p)
    (Q := fun t => defSt t p = steppedDefect (defectCfg s p 0) 0 (lolRaw s p) false (defSt s p)) (a := p)
    List.nodup_range (List.mem_range.2 hp) (fun q _ hq u hu => ⟨(sansDefects_stepDefect ..).trans hu.1, ?_⟩) (fun u hu => ?_)
    (fun q _ hq u hu => ?_) ⟨rfl, rfl⟩
  · rw [defSt_stepDefect, if_neg (by omega), hu.2]
  · rw [defSt_stepDefect, if_pos (by omega), lolRaw_congr hu.1, defectCfg_congr hu.1, Nat.mul_zero, Nat.zero_add, hu.2]
  · rw [defSt_stepDefect, if_neg (by omega), hu]

theorem defSt_lolRound_other {k : Nat} (hk : 6 ≤ k) : defSt (lolRound s) k = defSt s k := by
  refine forAll_keeps_mem (P := fun u => defSt u k = defSt s k) (fun q hq u hu => ?_) rfl
  have hport : q < 6 := List.mem_range.1 hq
  rw [defSt_stepDefect, if_neg (by omega), hu]

theorem sansDefects_tickSc (sc : Nat) (s : State) : sansDefects (tickSc sc s) = sansDefects s :=
  forAll_keeps (P := fun u => sansDefects u = sansDefects s) _ _
    (fun _ _ hu => (sansDefects_stepDefect ..).trans hu) s rfl

theorem defSt_tickSc_other {sc k : Nat} (h : ∀ j < 7, k ≠ 4096 * (j + 1) + sc) : defSt (tickSc sc s) k = defSt s k := by
  refine forAll_keeps_mem (P := fun u => defSt u k = defSt s k) (fun j hj u hu => ?_) rfl
  rw [defSt_stepDefect, if_neg (h j (List.mem_range.1 hj)), hu]

/-- Loss of light of the port masks every defect of a subcarrier, and nothing else masks loss of pilot lock (R197). -/
theorem scMasked_of_lol {sc n : Nat} (hn : 1 ≤ n) (h : declared s 0 (scPort sc) = true) : scMasked s sc n = true :=
  List.any_eq_true.2 ⟨0, List.mem_range.2 (by omega), h⟩

theorem scMasked_one (sc : Nat) : scMasked s sc 1 = declared s 0 (scPort sc) := Bool.or_false _

/-- Where loss of light is declared of the port, a defect of a subcarrier is masked; loss of pilot lock only there. -/
def MaskedAs (lol : Bool) (code : Nat) (masked : Bool) : Prop := (lol = true → masked = true) ∧ (code = 1 → masked = lol)

theorem defSt_tickSc {sc code : Nat} (hlow : 1 ≤ code) (hhigh : code ≤ 7) :
    ∃ masked, MaskedAs (declared s 0 (scPort sc)) code masked ∧ defSt (tickSc sc s) (4096 * code + sc)
      = steppedDefect (defectCfg s (scPort sc) code) code (scRaw s sc code) masked (defSt s (4096 * code + sc)) := by
  have hport : scPort sc ≤ sc := Nat.div_le_self ..
  refine forAll_at (P := fun u => sansDefects u = sansDefects s ∧ declared u 0 (scPort sc) = declared s 0 (scPort sc)
      ∧ defSt u (4096 * code + sc) = defSt s (4096 * code + sc))
    (Q := fun t => ∃ masked, MaskedAs (declared s 0 (scPort sc)) code masked ∧ defSt t (4096 * code + sc)
      = steppedDefect (defectCfg s (scPort sc) code) code (scRaw s sc code) masked (defSt s (4096 * code + sc)))
    (a := code - 1) List.nodup_range (List.mem_range.2 (by omega))
    (fun j _ hj u ⟨hu, hlol, hown⟩ => ⟨(sansDefects_stepDefect ..).trans hu, ?_, ?_⟩) (fun u ⟨hu, hlol, hown⟩ => ?_)
    (fun j _ hj u ⟨masked, hmasked, hu⟩ => ⟨masked, hmasked, ?_⟩) ⟨rfl, rfl, rfl⟩
  · rw [declared, defSt_stepDefect, if_neg (by omega)]
    exact hlol
  · rw [defSt_stepDefect, if_neg (by omega), hown]
  · refine ⟨scMasked u sc code, ⟨fun h => scMasked_of_lol hlow (hlol.trans h), fun h => ?_⟩, ?_⟩
    · rw [h, scMasked_one, hlol]
    · rw [Nat.sub_add_cancel hlow, defSt_stepDefect, if_pos rfl, hown, defectCfg_congr hu, scRaw_congr hu]
  · rw [defSt_stepDefect, if_neg (by omega), hu]

/-- The defects of every subcarrier. -/
def scRound : State → State := forAll tickSc allScs

theorem defSt_scRound_other {k : Nat} (hk : k < 4096 ∨ 96 ≤ k % 4096 ∨ 32768 ≤ k) : defSt (scRound s) k = defSt s k := by
  refine forAll_keeps_mem (P := fun u => defSt u k = defSt s k) (fun sc hsc u hu => ?_) rfl
  have hbound : sc < 96 := List.mem_range.1 hsc
  rw [defSt_tickSc_other (fun j hj => by omega), hu]

theorem declared_lol_tickSc (sc p : Nat) (hp : p < 4096) : declared (tickSc sc s) 0 p = declared s 0 p :=
  congrArg DefSt.declared (defSt_tickSc_other (fun j hj => by omega))

theorem defSt_scRound {sc code : Nat} (hsc : sc < 96) (hlow : 1 ≤ code) (hhigh : code ≤ 7) :
    ∃ masked, MaskedAs (declared s 0 (scPort sc)) code masked ∧ defSt (scRound s) (4096 * code + sc)
      = steppedDefect (defectCfg s (scPort sc) code) code (scRaw s sc code) masked (defSt s (4096 * code + sc)) := by
  have hport : scPort sc ≤ sc := Nat.div_le_self ..
  have hother (q : Nat) (hq : q ∈ allScs) (hne : q ≠ sc) (u : State) :
      defSt (tickSc q u) (4096 * code + sc) = defSt u (4096 * code + sc) := by
    have hbound : q < 96 := List.mem_range.1 hq
    exact defSt_tickSc_other (fun j hj => by omega)
  refine forAll_at (P := fun u => sansDefects u = sansDefects s ∧ declared u 0 (scPort sc) = declared s 0 (scPort sc)
      ∧ defSt u (4096 * code + sc) = defSt s (4096 * code + sc))
    (Q := fun t => ∃ masked, MaskedAs (declared s 0 (scPort sc)) code masked ∧ defSt t (4096 * code + sc)
      = steppedDefect (defectCfg s (scPort sc) code) code (scRaw s sc code) masked (defSt s (4096 * code + sc)))
    (a := sc) List.nodup_range (List.mem_range.2 hsc)
    (fun q hq hne u ⟨hu, hlol, hown⟩ => ⟨(sansDefects_tickSc ..).trans hu, ?_, (hother q hq hne u).trans hown⟩)
    (fun u ⟨hu, hlol, hown⟩ => ?_)
    (fun q hq hne u ⟨masked, hmasked, hu⟩ => ⟨masked, hmasked, (hother q hq hne u).trans hu⟩) ⟨rfl, rfl, rfl⟩
  · rw [declared_lol_tickSc _ _ (by omega), hlol]
  · rw [← hlol, ← hown, ← defectCfg_congr hu, ← scRaw_congr hu]
    exact defSt_tickSc hlow hhigh

theorem defSt_noteMasks (sc k : Nat) : defSt (noteMasks sc s) k = defSt s k := rfl

theorem defSt_tickTrib_other (o : Nat) {k : Nat} (hk : k < 32768) : defSt (tickTrib o s) k = defSt s k := by
  rw [tickTrib, defSt_stepDefect, if_neg (by omega), defSt_stepDefect, if_neg (by omega)]

/-! The tick (R197). -/

/-- The 10 ms interval of EXC is counted on, and compared where it ends. -/
def excCounted (s : State) : State :=
  let due := decide (99 ≤ s.frame.excTicks)
  onlyIf due (forAll excInterval allScs) (onFrameSt (fun f => { f with excTicks := if due then 0 else f.excTicks + 1 }) s)

theorem excCounted_eq (s : State) :
    ∃ n fecs, excCounted s = { s with frame := { s.frame with excTicks := n }, fecs := fecs } := by
  refine onlyIf_keeps (P := fun u => ∃ n fecs, u = { s with frame := { s.frame with excTicks := n }, fecs := fecs })
    _ _ (fun h => forAll_keeps (P := fun u => ∃ n fecs, u = { s with frame := { s.frame with excTicks := n }, fecs := fecs })
      _ _ (fun sc u ⟨n, fecs, hu⟩ => ?_) _ h) ⟨_, _, rfl⟩
  subst hu
  exact ⟨_, _, rfl⟩

theorem defectTick_eq (s : State) : defectTick s = forAll tickTrib (s.svc.trib.map (·.1))
    (forAll noteMasks allScs (scRound (lolRound (excCounted s)))) := rfl

/-- The defects of ports and subcarriers are those that their own rounds leave. -/
theorem defSt_defectTick {k : Nat} (hk : k < 32768) :
    defSt (defectTick s) k = defSt (scRound (lolRound (excCounted s))) k := by
  have htrib (l : List Nat) (u : State) : defSt (forAll tickTrib l u) k = defSt u k :=
    forAll_keeps (P := fun t => defSt t k = defSt u k) _ _ (fun o _ h => (defSt_tickTrib_other o hk).trans h) u rfl
  have hnote (l : List Nat) (u : State) : defSt (forAll noteMasks l u) k = defSt u k :=
    forAll_keeps (P := fun t => defSt t k = defSt u k) _ _ (fun sc _ h => (defSt_noteMasks sc k).trans h) u rfl
  rw [defectTick_eq, htrib, hnote]

theorem defSt_defectTick_lol {p : Nat} (hp : p < 6) :
    defSt (defectTick s) p = steppedDefect (defectCfg s p 0) 0 (lolRaw s p) false (defSt s p) := by
  obtain ⟨n, fecs, hexc⟩ := excCounted_eq s
  rw [defSt_defectTick (by omega), defSt_scRound_other (by omega), defSt_lolRound hp, hexc]
  rfl

/-- Loss of light stands as its own round leaves it when the subcarriers are evaluated. -/
theorem declared_lolRound {p : Nat} (hp : p < 4096) :
    declared (lolRound (excCounted s)) 0 p = declared (defectTick s) 0 p := by
  rw [declared, declared, defSt_defectTick (by omega), defSt_scRound_other (by omega)]

theorem defSt_defectTick_sc {sc code : Nat} (hsc : sc < 96) (hlow : 1 ≤ code) (hhigh : code ≤ 7) :
    ∃ masked, MaskedAs (declared (defectTick s) 0 (scPort sc)) code masked ∧ defSt (defectTick s) (4096 * code + sc)
      = steppedDefect (defectCfg s (scPort sc) code) code (scRaw (excCounted s) sc code) masked
        (defSt s (4096 * code + sc)) := by
  have hport : scPort sc ≤ sc := Nat.div_le_self ..
  obtain ⟨n, fecs, hexc⟩ := excCounted_eq s
  have hcfg : defectCfg (excCounted s) (scPort sc) code = defectCfg s (scPort sc) code := by rw [hexc]; rfl
  have hdef : defSt (excCounted s) (4096 * code + sc) = defSt s (4096 * code + sc) := by rw [hexc]; rfl
  have hlol := sansDefects_lolRound (excCounted s)
  obtain ⟨masked, hmasked, hround⟩ := defSt_scRound (s := lolRound (excCounted s)) hsc hlow hhigh
  rw [declared_lolRound (by omega)] at hmasked
  rw [defectCfg_congr hlol, scRaw_congr hlol, defSt_lolRound_other (by omega), hcfg, hdef] at hround
  exact ⟨masked, hmasked, (defSt_defectTick (by omega)).trans hround⟩

theorem scRaw_one_excCounted (sc : Nat) : scRaw (excCounted s) sc 1 = scRaw s sc 1 := by
  obtain ⟨n, fecs, hexc⟩ := excCounted_eq s
  rw [hexc]
  rfl

/-- Settles O22: what a tick leaves of loss of light, and of the defects of the subcarriers that it masks or does not. -/
theorem defectsIntegrateAndMask : Obligations.DefectsIntegrateAndMask := by
  unfold Obligations.DefectsIntegrateAndMask
  intro s hrun
  have hexec : exec .defectTick s = .next (defectTick s) := by
    show execDefectTick s = _
    rw [execDefectTick, hrun, onlyIf_true]
  refine runs_of_exec hexec ⟨fun p hp => ?_, fun sc code hsc hlow hhigh hlol => ?_, fun sc hsc hlol => ?_⟩
  · simp only [declared, Nat.mul_zero, Nat.zero_add, defSt_defectTick_lol hp]
    refine ⟨fun h => ?_, fun h hlong => ?_, fun h hshort => ?_⟩
    · rw [steppedDefect_agrees h]
      exact ⟨rfl, rfl⟩
    · rw [steppedDefect_toggles (c := defectCfg s p 0) (code := 0) h hlong]
      exact ⟨rfl, rfl⟩
    · rw [steppedDefect_counts (c := defectCfg s p 0) (code := 0) h hshort]
      exact ⟨rfl, rfl⟩
  · obtain ⟨masked, ⟨hmasked, -⟩, hdef⟩ := defSt_defectTick_sc (s := s) hsc hlow hhigh
    rw [declared, hdef, hmasked hlol, steppedDefect_masked]
    exact ⟨rfl, rfl⟩
  · obtain ⟨masked, ⟨-, hone⟩, hdef⟩ := defSt_defectTick_sc (s := s) (code := 1) hsc le_rfl (by omega)
    rw [hone rfl, hlol, scRaw_one_excCounted, Nat.mul_one] at hdef
    simp only [declared, Nat.mul_one, hdef]
    refine ⟨fun h => ?_, fun h hlong => ?_⟩
    · rw [steppedDefect_agrees h]
      exact ⟨rfl, rfl⟩
    · rw [steppedDefect_toggles (c := defectCfg s (scPort sc) 1) (code := 1) h hlong]
      exact ⟨rfl, rfl⟩

end Sys2Proof.Machine
end

section
/-! SUPPORT and PROOF of O20: hunting, confirmation and loss of alignment, and what a frame in alignment gives (R184 to R188,
R193, R202/06). -/
namespace Sys2Proof.Machine

variable {s t : State} {sc : Nat}

/-! What a receive framer shows of its alignment and of the last good overhead. -/

/-- The codewords at hand, the alignment state, the error run and the counts of false candidates and losses. -/
def alignFields (f : RxFramer) : List CwOut × Align × Nat × Nat × Nat := (f.cws, f.st, f.run, f.falseC, f.lossC)

/-- The status byte, the violations and the stamps of the last good overhead. -/
def overheadFields (f : RxFramer) : Byte × Nat × Option (Nat × Nat × Nat) := (f.status, f.bipV, f.stamp)

/-- Both, and nothing else, of a subcarrier's receive framer. -/
def framerView (sc : Nat) (s : State) : (List CwOut × Align × Nat × Nat × Nat) × Byte × Nat × Option (Nat × Nat × Nat) :=
  (alignFields (rxFramer s sc), overheadFields (rxFramer s sc))

/-- A change of the framer that neither view shows. -/
def KeepsView (f : RxFramer → RxFramer) : Prop :=
  ∀ x, alignFields (f x) = alignFields x ∧ overheadFields (f x) = overheadFields x

theorem KeepsView.comp {f g : RxFramer → RxFramer} (hf : KeepsView f) (hg : KeepsView g) : KeepsView (fun x => f (g x)) :=
  fun x => ⟨(hf _).1.trans (hg x).1, (hf _).2.trans (hg x).2⟩

theorem keepsView_controlIn (cell : List Byte) : KeepsView (controlIn cell) := by
  intro x
  unfold controlIn
  dsimp only
  split_ifs <;> exact ⟨rfl, rfl⟩

theorem keepsView_traceCopy : KeepsView traceCopy := by
  intro x
  unfold traceCopy
  split_ifs <;> exact ⟨rfl, rfl⟩

theorem keepsView_traceByte (prev : Option Nat) (m : Nat) (b : Byte) : KeepsView (traceByte prev m b) := by
  intro x
  unfold traceByte
  split_ifs <;> exact ⟨rfl, rfl⟩

theorem keepsView_descriptorIn (m v : Nat) : KeepsView (descriptorIn m v) := by
  intro x
  unfold descriptorIn
  split_ifs
  · exact ⟨rfl, rfl⟩
  · split <;> exact ⟨rfl, rfl⟩

theorem keepsView_pcValue (v : Word) : KeepsView (pcValue v) := fun _ => ⟨rfl, rfl⟩
theorem keepsView_mfcGood (m : Nat) : KeepsView (mfcGood m) := fun _ => ⟨rfl, rfl⟩
theorem keepsView_rxDigestFrame (m : Nat) (f : RxFrame) : KeepsView (rxDigestFrame m f) := fun _ => ⟨rfl, rfl⟩

theorem keepsView_kcDiscard : KeepsView kcDiscard := by
  intro x
  unfold kcDiscard
  split <;> exact ⟨rfl, rfl⟩

theorem keepsView_kcStray (num : Nat) : KeepsView (kcStray num) := by
  intro x
  unfold kcStray
  split_ifs <;> exact ⟨rfl, rfl⟩

/-! What leaves the view of a framer as it was. -/

theorem framerView_onRxFramer {f : RxFramer → RxFramer} (h : KeepsView f := by exact fun _ => ⟨rfl, rfl⟩) :
    framerView sc (onRxFramer sc f s) = framerView sc s := by
  rw [framerView, rxFramer_same, (h _).1, (h _).2, framerView]

theorem framerView_congr (h : t.frame.rx = s.frame.rx) : framerView sc t = framerView sc s := by
  rw [framerView, rxFramer, h, framerView, rxFramer]

@[simp] theorem framerView_onlyIf (c : Bool) (f : State → State) :
    framerView sc (onlyIf c f s) = if c then framerView sc (f s) else framerView sc s := apply_ite (framerView sc) ..

@[simp] theorem framerView_forAll {α : Type} {f : α → State → State} {l : List α}
    (h : ∀ a s, framerView sc (f a s) = framerView sc s) : framerView sc (forAll f l s) = framerView sc s :=
  forAll_keeps (P := fun u => framerView sc u = framerView sc s) f l (fun a u hu => (h a u).trans hu) s rfl

@[simp] theorem framerView_onTxFrame (k f) : framerView sc (onTxFrame k f s) = framerView sc s := rfl
@[simp] theorem framerView_onFrPort (k f) : framerView sc (onFrPort k f s) = framerView sc s := rfl
@[simp] theorem framerView_onPmObj (k f) : framerView sc (onPmObj k f s) = framerView sc s := rfl
@[simp] theorem framerView_onTribOf (k f) : framerView sc (onTribOf k f s) = framerView sc s := rfl
@[simp] theorem framerView_raiseSc (code k data) : framerView sc (raiseSc code k data s) = framerView sc s := rfl
@[simp] theorem framerView_raisePort (code k data) : framerView sc (raisePort code k data s) = framerView sc s := rfl
@[simp] theorem framerView_egressPut (nn p) : framerView sc (egressPut nn p s) = framerView sc s := by
  have hcells (n : Nat) : (queueCells n s).frame = s.frame :=
    forAll_keeps (P := fun u => u.frame = s.frame) (fun _ u => useFree (chipPut 64 (4 * freeBelow 393216 u) 4 u)) _
      (fun _ _ hu => hu) s rfl
  exact framerView_congr (congrArg FrameSt.rx (hcells _))

@[simp] theorem framerView_fillRegion (r) : framerView sc (fillRegion r s) = framerView sc s :=
  onlyIf_apply (framerView sc) _ rfl

@[simp] theorem framerView_endMultiframe : framerView sc (endMultiframe sc s) = framerView sc s := by
  have hcompare : framerView sc (compareDigest sc s) = framerView sc s := by
    unfold compareDigest
    dsimp only
    split
    · simp
    · rfl
  exact (framerView_onRxFramer).trans hcompare

@[simp] theorem framerView_kcDeliver (num data) : framerView sc (kcDeliver sc num data s) = framerView sc s := by
  unfold kcDeliver
  split_ifs
  · rfl
  · rfl
  · exact framerView_onRxFramer

@[simp] theorem framerView_kcCellIn (cell) : framerView sc (kcCellIn sc cell s) = framerView sc s := by
  have hdiscard (c : Bool) : framerView sc (onlyIf c (onRxFramer sc kcDiscard) s) = framerView sc s :=
    onlyIf_apply (framerView sc) c (framerView_onRxFramer keepsView_kcDiscard)
  have hset {u : State} (f : RxFramer → Option KcPart) : framerView sc (onRxFramer sc (fun x => { x with
      kc := f x, kcSkip := none }) u) = framerView sc u := framerView_onRxFramer
  unfold kcCellIn
  dsimp only
  split
  · rfl
  · split
    · rw [framerView_onRxFramer (keepsView_kcStray _), hdiscard]
    · split
      · rw [framerView_kcDeliver, hset (fun _ => none), hdiscard]
      · rw [hset (fun _ => some _), hdiscard]

@[simp] theorem framerView_channelDeliver (nn label body) :
    framerView sc (channelDeliver nn label body s) = framerView sc s := onlyIf_apply (framerView sc) _ (framerView_egressPut ..)

@[simp] theorem framerView_gccIn (bytes) : framerView sc (gccIn sc bytes s) = framerView sc s :=
  (onlyIf_apply (framerView sc) _ (by simp)).trans framerView_onRxFramer

@[simp] theorem framerView_uocIn (bytes) : framerView sc (uocIn sc bytes s) = framerView sc s :=
  (onlyIf_apply (framerView sc) _ (by simp)).trans framerView_onRxFramer

theorem framerView_takeErrored : framerView sc (takeErrored sc s) = framerView sc s := by
  unfold takeErrored
  simp [framerView_onRxFramer (f := fun x => mfcErrored { x with trOk := false }) fun _ => ⟨rfl, rfl⟩]

theorem framerView_slotBlock (bad k) : framerView sc (slotBlock sc bad k s) = framerView sc s :=
  onlyIf_apply (framerView sc) _ rfl

theorem framerView_takePayload (f viol m) : framerView sc (takePayload sc f viol m s) = framerView sc s := by
  unfold takePayload
  dsimp only
  rw [onlyIf_apply (framerView sc) _ (framerView_onRxFramer (keepsView_rxDigestFrame m f)),
    framerView_forAll fun k u => framerView_slotBlock f.bad k, framerView_onTxFrame]
  exact framerView_onRxFramer

@[simp] theorem framerView_frameArrives (o f) : framerView sc (frameArrives o f s) = framerView sc s :=
  onlyIf_apply (framerView sc) _ (by simp)

theorem framerView_takeStamped (arr frame bad dep) :
    framerView sc (takeStamped sc arr frame bad dep s) = framerView sc s := by
  unfold takeStamped
  split
  · rfl
  · rw [framerView_onRxFramer, takeSlots]
    simp

/-! Good overhead (R193, R202). -/

theorem parity_afterPrevious (dep : Nat) (f : RxFramer) :
    (afterPrevious dep f).parity = if f.nextDep = some dep then f.parity else none := by
  unfold afterPrevious
  split_ifs <;> rfl

/-- The violations of a frame rest on the parity of the payload before it, and on whether that was the last frame. -/
theorem violations_congr {x y : RxFramer} (hparity : x.parity = y.parity) (hdep : x.nextDep = y.nextDep) (dep : Nat)
    (bip : Byte) : violations (afterPrevious dep x) bip = violations (afterPrevious dep y) bip := by
  rw [violations, violations, parity_afterPrevious, parity_afterPrevious, hparity, hdep]

theorem framerView_takeOverhead {o : List Byte} {dep : Nat} (f : RxFrame) (hdep : stampOf true o {} = some dep) :
    framerView sc (takeOverhead sc f o s) = (alignFields (rxFramer s sc), o.getD 8 0,
      satAdd max64 (rxFramer s sc).bipV (violations (afterPrevious dep (rxFramer s sc)) (o.getD 7 0)),
      some (dep, f.arr, getU 6 1 o)) := by
  obtain rfl : ticksSec (getU 16 6 o) + ticksNs (getU 22 4 o) + getU 26 2 o = dep := Option.some.inj hdep
  have hend (c : Bool) : framerView sc (onlyIf c (endMultiframe sc) s) = framerView sc s :=
    onlyIf_apply (framerView sc) c framerView_endMultiframe
  have hkeeps (cell : List Byte) (prev : Option Nat) (m d : Nat) (b : Byte) (pc : Word) : KeepsView (fun x =>
      controlIn cell (traceCopy (traceByte prev m b (pcValue pc (descriptorIn m d (mfcGood m x)))))) :=
    (keepsView_controlIn cell).comp <| keepsView_traceCopy.comp <| (keepsView_traceByte prev m b).comp <|
      (keepsView_pcValue pc).comp <| (keepsView_descriptorIn m d).comp (keepsView_mfcGood m)
  unfold takeOverhead
  dsimp only
  rw [framerView_uocIn, framerView_gccIn, framerView_kcCellIn, onlyIf_apply (framerView sc) _ rfl,
    onlyIf_apply (framerView sc) _ rfl, framerView_onTxFrame, framerView, rxFramer_same]
  obtain ⟨halign, hover⟩ := Prod.mk.inj (hend (newMultiframe (getU 6 1 o) (afterPrevious
    (ticksSec (getU 16 6 o) + ticksNs (getU 22 4 o) + getU 26 2 o) (rxFramer s sc))))
  obtain ⟨-, hbip, -⟩ : _ ∧ _ ∧ _ := by simpa only [overheadFields, Prod.mk.injEq] using hover
  refine Prod.ext (((hkeeps _ _ _ _ _ _ _).1).trans halign) (((hkeeps _ _ _ _ _ _ _).2).trans ?_)
  rw [overheadFields, hbip]

/-! Alignment after a frame (R186). -/

section Align
variable {k : Nat}

theorem alignFrame_confirms (h : (rxFramer s sc).st = .confirm k) : rxFramer (alignFrame sc true s) sc =
    { rxFramer s sc with st := if k < 3 then .confirm (k + 1) else .inFrame, run := 0 } := by
  rw [alignFrame, h]
  exact rxFramer_same ..

theorem alignFrame_false (h : (rxFramer s sc).st = .confirm k) : rxFramer (alignFrame sc false s) sc =
    { rxFramer s sc with
      st := .hunt, phase := ((rxFramer s sc).phase + 1) % symbolPhases s sc
      falseC := satAdd max32 (rxFramer s sc).falseC 1, lastMfc := none } := by
  rw [alignFrame, h]
  exact rxFramer_same ..

theorem alignFrame_stays (h : (rxFramer s sc).st = .inFrame) : rxFramer (alignFrame sc true s) sc =
    { rxFramer s sc with run := 0 } := by
  rw [alignFrame, h]
  exact rxFramer_same ..

theorem alignFrame_errs (h : (rxFramer s sc).st = .inFrame)
    (hrun : (rxFramer s sc).run + 1 < (frPort s (scPort sc)).lossCount) : rxFramer (alignFrame sc false s) sc =
    { rxFramer s sc with run := (rxFramer s sc).run + 1 } := by
  rw [alignFrame, h]
  simp only [Bool.false_eq_true, if_false, if_neg (Nat.not_le.2 hrun), rxFramer_same]

theorem alignFrame_loses (h : (rxFramer s sc).st = .inFrame)
    (hrun : (frPort s (scPort sc)).lossCount ≤ (rxFramer s sc).run + 1) : rxFramer (alignFrame sc false s) sc =
    { rxFramer s sc with
      st := .hunt, run := 0, lossC := satAdd max32 (rxFramer s sc).lossC 1, mf := false, lastMfc := none, parity := none } := by
  rw [alignFrame, h]
  simp only [Bool.false_eq_true, if_false, if_pos hrun, rxFramer_same]

theorem alignFrame_cws (ok : Bool) : (rxFramer (alignFrame sc ok s) sc).cws = (rxFramer s sc).cws := by
  have hset {f : RxFramer → RxFramer} (h : (f (rxFramer s sc)).cws = (rxFramer s sc).cws) :
      (rxFramer (onRxFramer sc f s) sc).cws = (rxFramer s sc).cws := (congrArg _ (rxFramer_same ..)).trans h
  unfold alignFrame
  dsimp only
  split
  · rfl
  · split_ifs <;> exact hset rfl
  · split_ifs <;> exact hset rfl

end Align

/-! A frame at the deframer (R185 to R207). -/

section Receive
variable {f : RxFrame} (hinj : injFor s 0x030 sc = false)
include hinj

/-- What a frame gives beside its alignment leaves the alignment as it was. -/
theorem frameReceive_align : alignFields (rxFramer (frameReceive sc f s) sc)
    = alignFields (rxFramer (alignFrame sc (frameCorrect s sc f) s) sc) := by
  have hover (o : List Byte) (u : State) : alignFields (rxFramer (takeOverhead sc f o u) sc) = alignFields (rxFramer u sc) :=
    congrArg Prod.fst (framerView_takeOverhead f rfl)
  have herr (u : State) : alignFields (rxFramer (takeErrored sc u) sc) = alignFields (rxFramer u sc) :=
    congrArg Prod.fst framerView_takeErrored
  have hpay (viol : Bool) (m : Nat) (u : State) :
      alignFields (rxFramer (takePayload sc f viol m u) sc) = alignFields (rxFramer u sc) :=
    congrArg Prod.fst (framerView_takePayload ..)
  have hslots (plain : List Byte) (dep : Option Nat) (u : State) :
      alignFields (rxFramer (takeStamped sc f.arr plain f.bad dep u) sc) = alignFields (rxFramer u sc) :=
    congrArg Prod.fst (framerView_takeStamped ..)
  unfold frameReceive
  simp only [hinj, Bool.false_and, onlyIf_false]
  by_cases hin : (rxFramer (alignFrame sc (frameCorrect s sc f) s) sc).st = .inFrame ∧ f.bytes.length = 9405
  · rw [if_pos hin, hslots, hpay, onlyIf_apply (fun u => alignFields (rxFramer u sc)) _ (herr _),
      onlyIf_apply (fun u => alignFields (rxFramer u sc)) _ (hover _ _)]
  · rw [if_neg hin]
    by_cases hgood : ((rxFramer (alignFrame sc (frameCorrect s sc f) s) sc).st != .hunt && !f.bad.getD 0 true) = true
    · rw [if_pos hgood, rxFramer_same]
      rfl
    · rw [if_neg hgood, rxFramer_same]
      rfl

/-- A correct frame in alignment gives what its overhead carries. -/
theorem frameReceive_overhead {dep : Nat} (hst : (rxFramer s sc).st = .inFrame) (hcorrect : frameCorrect s sc f = true)
    (hlen : f.bytes.length = 9405) (hdep : stampOf true ((scramble sc f.bytes).take 165) {} = some dep) :
    overheadFields (rxFramer (frameReceive sc f s) sc) = (((scramble sc f.bytes).take 165).getD 8 0,
      satAdd max64 (rxFramer s sc).bipV
        (violations (afterPrevious dep (rxFramer s sc)) (((scramble sc f.bytes).take 165).getD 7 0)),
      some (dep, f.arr, getU 6 1 ((scramble sc f.bytes).take 165))) := by
  have hgood : (!f.bad.getD 0 true) = true := by
    simp only [frameCorrect, Bool.and_eq_true] at hcorrect
    exact hcorrect.1.1.2
  have halign := alignFrame_stays hst
  unfold frameReceive
  simp only [hinj, Bool.false_and, onlyIf_false, hcorrect, hgood, Bool.not_true, onlyIf_true]
  rw [if_pos ⟨by rw [halign]; exact hst, hlen⟩]
  refine (congrArg Prod.snd ((framerView_takeStamped ..).trans ((framerView_takePayload ..).trans
    (framerView_takeOverhead f hdep)))).trans ?_
  rw [violations_congr (y := rxFramer s sc) (by rw [halign]) (by rw [halign]), halign]

/-- A frame that leaves the subcarrier hunting changes its multiframe lock no more. -/
theorem frameReceive_hunting (hst : (rxFramer (alignFrame sc (frameCorrect s sc f) s) sc).st = .hunt) :
    (rxFramer (frameReceive sc f s) sc).mf = (rxFramer (alignFrame sc (frameCorrect s sc f) s) sc).mf := by
  unfold frameReceive
  simp only [hinj, Bool.false_and, onlyIf_false, hst]
  rw [if_neg (by simp), if_neg (by simp), rxFramer_same]

end Receive

/-- The framer whose codewords at hand make a frame. -/
def taken (sc : Nat) (s : State) : State := paceToken (6 * scPort sc + 3) (onRxFramer sc (fun x => { x with cws := [] }) s)

theorem rxFramer_taken : rxFramer (taken sc s) sc = { rxFramer s sc with cws := [] } := rxFramer_same ..

theorem frameCorrect_taken (f : RxFrame) : frameCorrect (taken sc s) sc f = frameCorrect s sc f := rfl

theorem deframe_judged {o : FrameObs} (hcws : (rxFramer s sc).cws.length = 4) (hjudged : isJudged s sc o.arr = true) :
    deframe sc o s = frameReceive sc (frameOf (rxFramer s sc).cws o) (taken sc s) := by
  unfold deframe
  simp only [hcws, if_true, hjudged, onlyIf_true]
  rfl

theorem exec_frameReceive {o : FrameObs} (hsc : okSc sc = true) (hlit : rxLit s sc = true)
    (hcws : (rxFramer s sc).cws.length = 4) (hjudged : isJudged s sc o.arr = true) :
    exec (.frameReceive sc o) s = .next (frameReceive sc (frameOf (rxFramer s sc).cws o) (taken sc s)) := by
  refine exec_need (n := "subcarrier") ?_ hsc
  show execFrameReceive sc o s = _
  rw [execFrameReceive, hlit, onlyIf_true, deframe_judged hcws hjudged]

theorem pilotCorrelation_tests {phase corr : Nat} (hlit : rxLit s sc = true) (hst : (rxFramer s sc).st = .hunt)
    (hphase : phase = (rxFramer s sc).phase % symbolPhases s sc) : rxFramer (pilotCorrelation sc phase corr s) sc =
    if (frPort s (scPort sc)).pilotThr ≤ corr then { rxFramer s sc with st := .confirm 1, phase := phase }
    else { rxFramer s sc with phase := (phase + 1) % symbolPhases s sc } := by
  unfold pilotCorrelation
  dsimp only
  rw [if_pos (by simp [hlit, hst, ← hphase]), rxFramer_same]

/-- Settles O20: each step of the hunt, and each frame judged, leaves the alignment that R184 to R188 give. -/
theorem frameAlignment : Obligations.FrameAlignment := by
  unfold Obligations.FrameAlignment
  refine ⟨fun sc phase corr s hsc hlit hst hphase => ?correlation, fun sc s hsc hst hconv => ?timeout,
    fun sc o f s hsc hlit hcws hjudged hf hinj => ?frame⟩
  case correlation =>
    refine runs_of_exec (exec_need rfl hsc) ?_
    rw [pilotCorrelation_tests hlit hst hphase]
    refine ⟨fun hcorr => ?_, fun hcorr => ?_⟩
    · rw [if_pos hcorr]
      exact ⟨rfl, rfl⟩
    · rw [if_neg (Nat.not_le.2 hcorr)]
      exact ⟨hst, rfl⟩
  case timeout =>
    have hwaits : ((rxFramer s sc).st == .confirm 1 && !(rxSc s sc).conv) = true := by simp [hst, hconv]
    refine runs_of_next (exec_need rfl hsc) (by rw [hwaits, onlyIf_true]) ?_
    rw [falseCandidate, rxFramer_same]
    exact ⟨rfl, rfl, rfl⟩
  case frame =>
    subst hf
    have hinj' : injFor (taken sc s) 0x030 sc = false := hinj
    have htaken : (rxFramer (taken sc s) sc).st = (rxFramer s sc).st := by rw [rxFramer_taken]
    obtain ⟨hcws', hst', hrun', hfalse', hloss'⟩ : _ ∧ _ ∧ _ ∧ _ ∧ _ := by
      simpa only [alignFields, Prod.mk.injEq, frameCorrect_taken] using
        frameReceive_align (f := frameOf (rxFramer s sc).cws o) hinj'
    refine runs_of_exec (exec_frameReceive hsc hlit hcws hjudged) ⟨?_, fun k hst hok => ?_, fun k hst hbad => ?_,
      fun hst hok => ?_, fun hst hbad hrun => ?_, fun hst hbad hrun => ?_, fun hst hok hlen dep hdep => ?_⟩
    · rw [hcws', alignFrame_cws, rxFramer_taken]
    · rw [hst', hok, alignFrame_confirms (htaken.trans hst)]
    · rw [hst', hfalse', hbad, alignFrame_false (htaken.trans hst), rxFramer_taken]
      exact ⟨rfl, rfl⟩
    · rw [hst', hrun', hok, alignFrame_stays (htaken.trans hst)]
      exact ⟨htaken.trans hst, rfl⟩
    · rw [hst', hrun', hbad, alignFrame_errs (htaken.trans hst) (by rw [rxFramer_taken]; exact hrun), rxFramer_taken]
      exact ⟨hst, rfl⟩
    · have hlost := alignFrame_loses (htaken.trans hst) (by rw [rxFramer_taken]; exact hrun)
      rw [hst', hloss', frameReceive_hunting hinj' (by rw [frameCorrect_taken, hbad, hlost]), frameCorrect_taken, hbad,
        hlost, rxFramer_taken]
      exact ⟨rfl, rfl, rfl⟩
    · have hover := frameReceive_overhead hinj' (htaken.trans hst) hok hlen hdep
      rw [violations_congr (y := rxFramer s sc) (by rw [rxFramer_taken]) (by rw [rxFramer_taken]), rxFramer_taken] at hover
      obtain ⟨hstatus, hbip, hstamp⟩ : _ ∧ _ ∧ _ := by simpa only [overheadFields, Prod.mk.injEq] using hover
      exact ⟨hstatus, hbip, hstamp⟩

end Sys2Proof.Machine
end

section
/-! SUPPORT and PROOF of O23: seconds, bins and the pm commands (R209 to R214/06). -/
namespace Sys2Proof.Machine

variable {s t u : State} {sc k : Nat} {r : Req}

theorem pmKey_injective (typ : Nat) : Function.Injective (pmKey typ) := fun a b h => by
  simp only [pmKey] at h
  omega

theorem pmKey_typ_ne (hsc : sc < 96) (o : Nat) : pmKey 0 sc ≠ pmKey 1 o := by
  simp only [pmKey]
  omega

theorem getD_binHead (f : PmBin → PmBin) (l : List PmBin) : (binHead f l).getD 0 {} = f (l.getD 0 {}) := by
  cases l <;> rfl

/-! The class of a second, counted (R209, R210). -/

/-- What an object shows of its availability and of its current 15-minute bin: seconds, errored seconds, severely errored
seconds, background block errors and unavailable seconds. -/
def shownFigures (o : PmObj) : Bool × Nat × Nat × Nat × Nat × Nat :=
  let b := o.bins15.getD 0 {}
  (o.uas, b.secs, b.es, b.ses, b.bbe, b.uas)

/-- The second is the tenth severely errored one in a row. -/
def TenthSevere (x : PmSec) (o : PmObj) : Prop := x.ses = true ∧ o.recent.length = 9 ∧ ∀ r ∈ o.recent, r.ses = true

theorem tenthSevere_iff {x : PmSec} {o : PmObj} :
    (x.ses && (o.recent.length == 9 && o.recent.all (fun r => r.ses == true))) = true ↔ TenthSevere x o := by
  simp [TenthSevere]

theorem countSecond_begins {x : PmSec} {o : PmObj} (huas : o.uas = false) (h : TenthSevere x o) :
    (countSecond x o).uas = true := by
  simp only [countSecond, huas, Bool.false_eq_true, if_false, if_pos (tenthSevere_iff.2 h)]
  rfl

theorem countSecond_adds {x : PmSec} {o : PmObj} (huas : o.uas = false) (h : ¬TenthSevere x o) :
    countSecond x o = { bothBins (binAdd x) o with recent := (x :: o.recent).take 9 } := by
  simp only [countSecond, huas, Bool.false_eq_true, if_false, if_neg (mt tenthSevere_iff.1 h)]

/-- What one second does to an available object. -/
def SecondCounted (x : PmSec) (o : PmObj) (v : Bool × Nat × Nat × Nat × Nat × Nat) : Prop :=
  (TenthSevere x o → v.1 = true)
    ∧ (¬TenthSevere x o → v = (false, (o.bins15.getD 0 {}).secs + 1, (o.bins15.getD 0 {}).es + b2n x.es,
      (o.bins15.getD 0 {}).ses + b2n x.ses, (o.bins15.getD 0 {}).bbe + x.bbe, (o.bins15.getD 0 {}).uas))

theorem secondCounted_countRest {x : PmSec} {o : PmObj} (huas : o.uas = false) (corr unc : Nat) :
    SecondCounted x o (shownFigures (countRest corr unc (countSecond x o))) := by
  refine ⟨countSecond_begins huas, fun h => ?_⟩
  rw [countSecond_adds huas h]
  simp only [shownFigures, countRest, bothBins, getD_binHead, binAdd, huas]

theorem SecondCounted.of_input {x : PmSec} {o o' : PmObj} {v : Bool × Nat × Nat × Nat × Nat × Nat}
    (hfigures : shownFigures o' = shownFigures o) (hrecent : o'.recent = o.recent) (h : SecondCounted x o' v) :
    SecondCounted x o v := by
  simp only [shownFigures, Prod.mk.injEq] at hfigures
  obtain ⟨-, hsecs, hes, hses, hbbe, huas⟩ := hfigures
  simpa only [SecondCounted, TenthSevere, hrecent, hsecs, hes, hses, hbbe, huas] using h

/-! One second of a subcarrier. -/

/-- A gauge's value changes neither the figures of an object nor its last seconds. -/
theorem noteGauge_shown (q g : Nat) (v : Int) (s : State) (j : Nat) :
    shownFigures (pmObj (noteGauge q g v s) j) = shownFigures (pmObj s j)
      ∧ (pmObj (noteGauge q g v s) j).recent = (pmObj s j).recent := by
  rw [noteGauge, pmObj_apply]
  split_ifs with h
  · subst h
    simp only [shownFigures, getD_binHead, gaugeSet, and_self]
  · exact ⟨rfl, rfl⟩

/-- What every gauge's value and the end of the sums keep, the means of a second keep. -/
theorem secondMeans_keeps {P : State → Prop} {q : Nat} (hgauge : ∀ g v u, P u → P (noteGauge q g v u))
    (hsums : ∀ u, P u → P (onRxSc q (fun x => { x with sums := [], nSum := 0 }) u)) (hs : P s) : P (secondMeans q s) :=
  hsums _ (onlyIf_keeps _ _ (fun h => forAll_keeps _ _ (fun g u => hgauge (g + 2) _ u) _ h) hs)

theorem secondMeans_shown (q : Nat) (s : State) (j : Nat) :
    shownFigures (pmObj (secondMeans q s) j) = shownFigures (pmObj s j)
      ∧ (pmObj (secondMeans q s) j).recent = (pmObj s j).recent :=
  secondMeans_keeps (P := fun u => shownFigures (pmObj u j) = shownFigures (pmObj s j)
    ∧ (pmObj u j).recent = (pmObj s j).recent)
    (fun _ _ _ hu => ⟨(noteGauge_shown ..).1.trans hu.1, (noteGauge_shown ..).2.trans hu.2⟩) (fun _ hu => hu) ⟨rfl, rfl⟩

/-- What the second of a subcarrier rests on. -/
def secondInput (sc : Nat) (s : State) : Nat × Tab DefSt × Tab HubPort × RxFramer × RxSc × PmObj :=
  (s.frame.sesThr, s.frame.defects, s.hub, rxFramer s sc, rxSc s sc, pmObj s (pmKey 0 sc))

theorem secondInput_onPmObj {j : Nat} (h : j ≠ pmKey 0 sc) (f : PmObj → PmObj) :
    secondInput sc (onPmObj j f s) = secondInput sc s := by
  rw [secondInput, pmObj_other _ _ h.symm]
  rfl

theorem secondInput_secondTrib (hsc : sc < 96) (o : Nat) : secondInput sc (secondTrib o s) = secondInput sc s :=
  secondInput_onPmObj (pmKey_typ_ne hsc o).symm _

theorem secondInput_onRxSc {q : Nat} (h : q ≠ sc) (f : RxSc → RxSc) :
    secondInput sc (onRxSc q f s) = secondInput sc s := by
  rw [secondInput, rxSc_other _ _ h.symm]
  rfl

theorem secondInput_onRxFramer {q : Nat} (h : q ≠ sc) (f : RxFramer → RxFramer) :
    secondInput sc (onRxFramer q f s) = secondInput sc s := by
  rw [secondInput, rxFramer_other _ _ h.symm]
  rfl

theorem secondInput_secondSc {q : Nat} (h : q ≠ sc) : secondInput sc (secondSc q s) = secondInput sc s := by
  have hkey : pmKey 0 q ≠ pmKey 0 sc := fun e => h (pmKey_injective 0 e)
  unfold secondSc
  dsimp only
  rw [secondInput_onRxFramer h, secondInput_onPmObj hkey]
  exact secondMeans_keeps (P := fun u => secondInput sc u = secondInput sc s)
    (fun _ _ _ hu => (secondInput_onPmObj hkey _).trans hu) (fun _ hu => (secondInput_onRxSc h _).trans hu) rfl

/-- The class of a subcarrier's second. -/
def secondClass (s : State) (sc : Nat) : PmSec :=
  classify s.frame.sesThr (rxFramer s sc).secFrames (rxFramer s sc).secErr ((rxFramer s sc).secLom || lomMasked s sc)

theorem lomMasked_congr (h : t.frame.defects = s.frame.defects) (sc : Nat) : lomMasked t sc = lomMasked s sc := by
  simp only [lomMasked, scMasked, declared, defSt, h]

theorem secondClass_congr (h : secondInput sc t = secondInput sc s) : secondClass t sc = secondClass s sc := by
  simp only [secondInput, Prod.mk.injEq] at h
  obtain ⟨hthr, hdefects, -, hframer, -, -⟩ := h
  rw [secondClass, hthr, hframer, lomMasked_congr hdefects, secondClass]

theorem rxClass_of_input (h : secondInput sc t = secondInput sc s) : rxClass t sc = rxClass s sc := by
  simp only [secondInput, Prod.mk.injEq] at h
  obtain ⟨-, -, hhub, -, hrx, -⟩ := h
  exact rxClass_congr (by rw [hubPort, hhub, hubPort]) (by rw [hrx])

/-- What a subcarrier shows when its second has ended. -/
def secondResult (sc : Nat) (s : State) : Nat × Nat × Nat × Bool × Nat × Nat × Nat × Nat × Nat :=
  ((rxFramer s sc).secFrames, (rxFramer s sc).secErr, (rxFramer s sc).secBip, shownFigures (pmObj s (pmKey 0 sc)))

theorem secondResult_secondSc {q : Nat} (h : q ≠ sc) : secondResult sc (secondSc q s) = secondResult sc s := by
  have hinput := secondInput_secondSc (s := s) h
  simp only [secondInput, Prod.mk.injEq] at hinput
  obtain ⟨-, -, -, hframer, -, hobj⟩ := hinput
  rw [secondResult, hframer, hobj, secondResult]

theorem within_raisePm (code vector src : Nat) (data : List Byte) (s : State) :
    Within [.ev, .pair, .log] s (raisePm code vector src data s) := by
  unfold raisePm
  split
  · exact within_refl _ s
  · exact (within_onPair _ s).mono (by simp)
  · exact ((within_mirror _ s).andThen (within_raise _ _ _ _ _ _)).mono (by simp)

theorem secondResult_congr (h : t.frame = s.frame) : secondResult sc t = secondResult sc s := by
  rw [secondResult, rxFramer, pmObj, h]
  rfl

theorem secondResult_checkTca (seen : Nat → Bool) (e : Nat × Tca) :
    secondResult sc (checkTca seen e s) = secondResult sc s := by
  unfold checkTca
  dsimp only
  split
  · rw [secondResult_congr (within_raisePm _ _ _ _ _ .frame (by simp)), secondResult, pmObj_apply]
    split_ifs with h
    · rw [← h]
      rfl
    · rfl
  · rfl

theorem secondResult_sendBins : secondResult sc (sendBins s) = secondResult sc s :=
  forAll_keeps (P := fun u => secondResult sc u = secondResult sc s) _ _
    (fun e u hu => (secondResult_congr (within_mirror _ u .frame (by simp))).trans hu) s rfl

/-- A second of a subcarrier as it ends: its counts are zero, and a lit and available one has been counted by its class. -/
def SecondEnded (s : State) (sc : Nat) (v : Nat × Nat × Nat × Bool × Nat × Nat × Nat × Nat × Nat) : Prop :=
  (v.1 = 0 ∧ v.2.1 = 0 ∧ v.2.2.1 = 0) ∧ (2 ≤ rxClass s sc → (pmObj s (pmKey 0 sc)).uas = false →
    SecondCounted (secondClass s sc) (pmObj s (pmKey 0 sc)) v.2.2.2)

theorem shownFigures_secondSc (hclass : 2 ≤ rxClass s sc) : ∃ corr unc,
    shownFigures (pmObj (secondSc sc s) (pmKey 0 sc)) = shownFigures (countRest corr unc
      (countSecond (secondClass s sc) (pmObj (secondMeans sc s) (pmKey 0 sc)))) := by
  have hframer (f : RxFramer → RxFramer) (u : State) (j : Nat) : pmObj (onRxFramer sc f u) j = pmObj u j := rfl
  unfold secondSc
  dsimp only
  rw [hframer, pmObj_same, if_pos hclass]
  exact ⟨_, _, rfl⟩

theorem secondSc_ends : SecondEnded s sc (secondResult sc (secondSc sc s)) := by
  obtain ⟨hfigures, hrecent⟩ := secondMeans_shown sc s (pmKey 0 sc)
  refine ⟨?_, fun hclass huas => ?_⟩
  · unfold secondResult secondSc
    dsimp only
    rw [rxFramer_same]
    exact ⟨rfl, rfl, rfl⟩
  · obtain ⟨corr, unc, hcounted⟩ := shownFigures_secondSc hclass
    rw [secondResult, hcounted]
    exact (secondCounted_countRest ((congrArg Prod.fst hfigures).trans huas) corr unc).of_input hfigures hrecent

theorem secondResult_pmSecond {at_ : Nat} (hsc : sc < 96) : SecondEnded s sc (secondResult sc (pmSecond at_ s)) := by
  have hround : SecondEnded s sc (secondResult sc
      (forAll secondSc allScs (forAll secondTrib (s.svc.trib.map (·.1)) (clockTo at_ s)))) := by
    refine forAll_at (P := fun u => secondInput sc u = secondInput sc s)
      (Q := fun u => SecondEnded s sc (secondResult sc u)) (a := sc) List.nodup_range (List.mem_range.2 hsc)
      (fun q _ hq u hu => (secondInput_secondSc hq).trans hu) (fun u hu => ?_)
      (fun q _ hq u hu => by rw [secondResult_secondSc hq]; exact hu) ?_
    · have hobj : pmObj u (pmKey 0 sc) = pmObj s (pmKey 0 sc) := by
        simp only [secondInput, Prod.mk.injEq] at hu
        obtain ⟨-, -, -, -, -, hobj⟩ := hu
        exact hobj
      have hended := secondSc_ends (s := u) (sc := sc)
      simp only [SecondEnded, rxClass_of_input hu, secondClass_congr hu, hobj] at hended
      exact hended
    · exact forAll_keeps (P := fun u => secondInput sc u = secondInput sc s) _ _
        (fun o u hu => (secondInput_secondTrib hsc o).trans hu) _ rfl
  have hkeep (seen : Nat → Bool) (u : State) :
      secondResult sc (sendBins (forAll (checkTca seen) u.frame.tca u)) = secondResult sc u :=
    secondResult_sendBins.trans (forAll_keeps (P := fun t => secondResult sc t = secondResult sc u) _ _
      (fun e t ht => (secondResult_checkTca seen e).trans ht) u rfl)
  unfold pmSecond
  dsimp only
  rw [hkeep]
  exact hround

/-! Time goes on to the end of the second. -/

theorem timing_pmSecond (at_ : Nat) : (pmSecond at_ s).timing = (clockTo at_ s).timing := by
  have hmeans (q : Nat) (u : State) : (secondMeans q u).timing = u.timing :=
    secondMeans_keeps (P := fun t => t.timing = u.timing) (fun _ _ _ ht => ht) (fun _ ht => ht) rfl
  have htca (seen : Nat → Bool) (e : Nat × Tca) (u : State) : (checkTca seen e u).timing = u.timing := by
    unfold checkTca
    dsimp only
    split
    · exact within_raisePm _ _ _ _ _ .timing (by simp)
    · rfl
  have hround {α : Type} (f : α → State → State) (l : List α) (h : ∀ a u, (f a u).timing = u.timing) (u : State) :
      (forAll f l u).timing = u.timing :=
    forAll_keeps (P := fun t => t.timing = u.timing) f l (fun a t ht => (h a t).trans ht) u rfl
  unfold pmSecond sendBins
  dsimp only
  rw [hround _ _ fun e u => within_mirror _ u .timing (by simp), hround _ _ (htca _), hround secondSc _ hmeans,
    hround secondTrib _ fun _ _ => rfl]

/-! Bins (R211, R212). -/

/-- An object after the boundary of a 15-minute bin. -/
def closed15 (o : PmObj) : PmObj := { o with
  bins15 := ({} :: o.bins15).take 33, recent := o.recent.map older15, raised := o.raised.filter (fun r => r / 32 == 1) }

/-- An object after the boundary of a 24-hour bin. -/
def closed24 (o : PmObj) : PmObj := { o with
  bins24 := ({} :: o.bins24).take 2, recent := o.recent.map older24, raised := o.raised.filter (fun r => r / 32 == 0) }

/-- An entry of a table whose every entry is changed: changed, or the default where it is not listed. -/
theorem tabGet_map_values {α : Type} (d : α) (g : α → α) (t : Tab α) (k : Nat) :
    tabGet d (t.map (fun e => (e.1, g e.2))) k = g (tabGet d t k)
      ∨ (tabGet d (t.map (fun e => (e.1, g e.2))) k = d ∧ tabGet d t k = d) := by
  induction t with
  | nil => exact .inr ⟨rfl, rfl⟩
  | cons e t ih =>
    simp only [List.map_cons, tabGet]
    split_ifs
    · exact .inl rfl
    · exact ih

/-- After a boundary the current bin is a new one, and what was current is the newest of the history. -/
theorem getD_new_bin {l : List PmBin} {n m : Nat} (h : n < m) :
    (({} :: l).take (m + 1)).getD 0 {} = ({} : PmBin) ∧ (({} :: l).take (m + 1)).getD (n + 1) {} = l.getD n {} := by
  simp [List.getD_eq_getElem?_getD, h]

theorem bins15_closeBins (start : Nat) (irr : Bool) (k : Nat) {n : Nat} (hn : n < 32) :
    (pmObj (closeBins false start irr s) k).bins15.getD 0 {} = {}
      ∧ (pmObj (closeBins false start irr s) k).bins15.getD (n + 1) {} = (pmObj s k).bins15.getD n {} := by
  have hpm : (closeBins false start irr s).frame.pm = s.frame.pm.map (fun e => (e.1, closed15 e.2)) := rfl
  rw [pmObj, pmObj, hpm]
  rcases tabGet_map_values {} closed15 s.frame.pm k with h | ⟨h, hdefault⟩
  · rw [h]
    exact getD_new_bin hn
  · rw [h, hdefault]
    exact ⟨rfl, rfl⟩

theorem bins24_closeBins (start : Nat) (irr : Bool) (k : Nat) :
    (pmObj (closeBins true start irr s) k).bins24.getD 0 {} = {}
      ∧ (pmObj (closeBins true start irr s) k).bins24.getD 1 {} = (pmObj s k).bins24.getD 0 {} := by
  have hpm : (closeBins true start irr s).frame.pm = s.frame.pm.map (fun e => (e.1, closed24 e.2)) := rfl
  rw [pmObj, pmObj, hpm]
  rcases tabGet_map_values {} closed24 s.frame.pm k with h | ⟨h, hdefault⟩
  · rw [h]
    exact getD_new_bin (m := 1) (n := 0) Nat.one_pos
  · rw [h, hdefault]
    exact ⟨rfl, rfl⟩

/-- The end of a 24-hour bin leaves the 15-minute bins as they were. -/
theorem bins15_closeBins_day (start : Nat) (irr : Bool) (k : Nat) :
    (pmObj (closeBins true start irr s) k).bins15 = (pmObj s k).bins15 := by
  have hpm : (closeBins true start irr s).frame.pm = s.frame.pm.map (fun e => (e.1, closed24 e.2)) := rfl
  rw [pmObj, pmObj, hpm]
  rcases tabGet_map_values {} closed24 s.frame.pm k with h | ⟨h, hdefault⟩
  · rw [h]
    rfl
  · rw [h, hdefault]

theorem cueAt_closeBins (day : Bool) (start : Nat) (irr : Bool) (j : Nat) :
    cueAt (closeBins day start irr s) j = cueAt s j := rfl

theorem ep15_closeBins_day (start : Nat) (irr : Bool) : (closeBins true start irr s).frame.ep15 = s.frame.ep15 := rfl

theorem applyDayOffset_keeps15 (sec : Nat) (s : State) : (applyDayOffset sec s).frame.ep15 = s.frame.ep15
    ∧ (∀ k, (pmObj (applyDayOffset sec s) k).bins15 = (pmObj s k).bins15)
    ∧ cueAt (applyDayOffset sec s) 0 = cueAt s 0 := by
  have hset (c : Cue) (u : State) (j : Nat) : pmObj (setCue 1 c u) j = pmObj u j := rfl
  unfold applyDayOffset
  split
  · exact ⟨rfl, fun _ => rfl, rfl⟩
  · refine ⟨?_, fun k => ?_, ?_⟩
    · rw [setCue_frame, ep15_closeBins_day, onFrameSt_frame]
    · rw [hset, bins15_closeBins_day]
      rfl
    · rw [cueAt_setCue, if_neg (by decide), cueAt_closeBins]
      rfl

theorem frame_cueAgain (i at_ first : Nat) (s : State) : (cueAgain i at_ first s).frame = s.frame := by
  unfold cueAgain
  dsimp only
  refine Part.same_trans (q := .frame) ?_ (within_onlyIf _ _ (within_noteLate _ _) .frame (by simp))
  simp [pulseStrobe]

theorem cueAt_cueAgain (i at_ first : Nat) (s : State) :
    (cueAt (cueAgain i at_ first s) i).nominal = (cueAt s i).nominal + ticksMs (cueAt s i).period := by
  obtain ⟨origin, hplaced⟩ := cueAt_placeCue_same (i := i) (s := s) { cueAt s i with
    nominal := (cueAt s i).nominal + ticksMs (cueAt s i).period
    time := max ((cueAt s i).nominal + ticksMs (cueAt s i).period) (at_ + ticksMs (cueAt s i).period / 2)
    late := decide (first < at_), lateness := min max32 ((at_ - first) / 65536) }
  unfold cueAgain
  dsimp only
  rw [onlyIf_apply (cueAt · i) _ (cueAt_noteLate ..)]
  exact congrArg Cue.nominal hplaced

theorem pmBoundary_quarter (at_ : Nat) (irr : Bool) (s : State) :
    ((pmBoundary 0 at_ irr s).frame.ep15.getD 0 ⟨0, false, false⟩).start = tcSec (cueAt s 0).nominal
      ∧ (∀ k n, n < 32 → (pmObj (pmBoundary 0 at_ irr s) k).bins15.getD 0 {} = {}
        ∧ (pmObj (pmBoundary 0 at_ irr s) k).bins15.getD (n + 1) {} = (pmObj s k).bins15.getD n {})
      ∧ (cueAt (pmBoundary 0 at_ irr s) 0).nominal = (cueAt s 0).nominal + ticksMs (cueAt s 0).period := by
  obtain ⟨hep, hbins, hcue⟩ := applyDayOffset_keeps15 (tcSec (cueAt s 0).nominal)
    (cueAgain 0 at_ (cueAt s 0).time (closeBins false (tcSec (cueAt s 0).nominal) irr s))
  have hround : pmBoundary 0 at_ irr s = applyDayOffset (tcSec (cueAt s 0).nominal)
    (cueAgain 0 at_ (cueAt s 0).time (closeBins false (tcSec (cueAt s 0).nominal) irr s)) := rfl
  rw [hround, hep, hcue, cueAt_cueAgain, frame_cueAgain]
  refine ⟨rfl, fun k n hn => ?_, rfl⟩
  rw [hbins, pmObj, frame_cueAgain]
  exact bins15_closeBins _ _ k hn

theorem pmBoundary_day (at_ : Nat) (irr : Bool) (s : State) :
    ((pmBoundary 1 at_ irr s).frame.ep24.getD 0 ⟨0, false, false⟩).start = tcSec (cueAt s 1).nominal
      ∧ (∀ k, (pmObj (pmBoundary 1 at_ irr s) k).bins24.getD 0 {} = {}
        ∧ (pmObj (pmBoundary 1 at_ irr s) k).bins24.getD 1 {} = (pmObj s k).bins24.getD 0 {})
      ∧ (cueAt (pmBoundary 1 at_ irr s) 1).nominal = (cueAt s 1).nominal + ticksMs (cueAt s 1).period := by
  have hround : pmBoundary 1 at_ irr s =
    cueAgain 1 at_ (cueAt s 1).time (closeBins true (tcSec (cueAt s 1).nominal) irr s) := rfl
  rw [hround, cueAt_cueAgain, frame_cueAgain]
  refine ⟨rfl, fun k => ?_, rfl⟩
  rw [pmObj, frame_cueAgain]
  exact bins24_closeBins _ _ k

/-! The oldest closed period that is not final (R211). -/

theorem finalize_final {l : List PmEpoch} (h : ∀ x ∈ l, x.final = true) : finalize l = none := by
  induction l with
  | nil => rfl
  | cons e l ih =>
    rw [finalize, ih fun x hx => h x (List.mem_cons_of_mem _ hx)]
    exact if_pos (h e List.mem_cons_self)

theorem finalize_oldest {e : PmEpoch} {rest : List PmEpoch} (he : e.final = false) (h : ∀ x ∈ rest, x.final = true) :
    finalize (e :: rest) = some (e.irregular, { e with final := true } :: rest) := by
  rw [finalize, finalize_final h]
  simp [he]

theorem pmBinFinal_marks {day : Bool} {cur e : PmEpoch} {rest : List PmEpoch}
    (hl : (if day then s.frame.ep24 else s.frame.ep15) = cur :: e :: rest) (he : e.final = false)
    (h : ∀ x ∈ rest, x.final = true) : (if day then (pmBinFinal day s).frame.ep24 else (pmBinFinal day s).frame.ep15)
      = cur :: { e with final := true } :: rest := by
  have hraised (data : List Byte) (u : State) : (raisePm 0x0380 23 0xFFFF data
      (forAll (fun p => raisePm 0x0380 (16 + p) p data) allPorts u)).frame = u.frame :=
    (within_raisePm _ _ _ _ _ .frame (by simp)).trans (forAll_keeps (P := fun t => t.frame = u.frame) _ _
      (fun p t ht => (within_raisePm _ _ _ _ t .frame (by simp)).trans ht) u rfl)
  unfold pmBinFinal
  dsimp only
  rw [hl]
  dsimp only
  rw [finalize_oldest he h]
  dsimp only
  rw [hraised]
  cases day <;> rfl

/-! The commands. -/

theorem pmConfig_stores (hlow : 1 ≤ r.u 0 1) (hhigh : r.u 0 1 ≤ 50) (hoff : r.u 2 2 ≤ 95) :
    pmConfig r s = okay (onFrameSt (fun f => { f with
      sesThr := r.u 0 1, dayOffNext := if r.u 2 2 = f.dayOff then none else some (r.u 2 2) }) s) := by
  rw [pmConfig, if_neg (by omega)]

theorem pmTca_stores (htyp : r.u 0 1 ≤ 1) (hbin : r.u 1 1 ≤ 1) (hparam : r.u 2 1 ≤ 13)
    (hdir : 6 ≤ r.u 2 1 ∨ r.u 3 1 % 2 = 0) (htrib : r.u 0 1 = 0 ∨ (r.u 2 1 ≠ 4 ∧ r.u 2 1 < 6))
    (hobj : r.u 4 2 < pmObjects (r.u 0 1)) : pmTca r s = okay (onFrameSt (fun f => { f with
      tca := tabSet {} f.tca (tcaKey (r.u 0 1) (r.u 1 1) (r.u 2 1) (r.u 3 1 % 2) (r.u 4 2))
        { enabled := 128 ≤ r.u 3 1, thr := r.i 8 8 } }) s) := by
  rw [pmTca, if_neg (by omega)]

theorem pmRead_begins (htyp : r.u 0 1 ≤ 1) (hbin : r.u 1 1 ≤ 1) (hidx : r.u 2 1 ≤ (if r.u 1 1 = 0 then 32 else 1))
    (hobj : r.u 4 2 < pmObjects (r.u 0 1)) {kept b : PmBin}
    (hkept : kept = (if r.u 1 1 = 0 then (pmObj s (pmKey (r.u 0 1) (r.u 4 2))).bins15
      else (pmObj s (pmKey (r.u 0 1) (r.u 4 2))).bins24).getD (r.u 2 1) {})
    (hb : b = if kept.lost then {} else kept) : ∃ flags start rest, pmRead r s = okWith
      ([byteOf (r.u 0 1), byteOf (r.u 1 1), byteOf (r.u 2 1), 0, flags, 0] ++ (natBE 6 start ++ (natBE 4 b.secs
        ++ (natBE 4 b.bbe ++ (natBE 4 b.es ++ (natBE 4 b.ses ++ (natBE 4 b.uas ++ (natBE 8 b.corr ++ (natBE 8 b.unc
          ++ rest))))))))) s := by
  subst hb hkept
  rw [pmRead, if_neg (by omega), if_neg (by omega)]
  simp only [List.append_assoc]
  exact ⟨_, _, _, rfl⟩

theorem pmRead_fields (htyp : r.u 0 1 ≤ 1) (hbin : r.u 1 1 ≤ 1) (hidx : r.u 2 1 ≤ (if r.u 1 1 = 0 then 32 else 1))
    (hobj : r.u 4 2 < pmObjects (r.u 0 1)) {kept b : PmBin}
    (hkept : kept = (if r.u 1 1 = 0 then (pmObj s (pmKey (r.u 0 1) (r.u 4 2))).bins15
      else (pmObj s (pmKey (r.u 0 1) (r.u 4 2))).bins24).getD (r.u 2 1) {})
    (hb : b = if kept.lost then {} else kept) : (pmRead r s).code = .ok ∧ 48 ≤ (pmRead r s).pay.length
      ∧ getU 12 4 (pmRead r s).pay = b.secs % 2 ^ 32 ∧ getU 16 4 (pmRead r s).pay = b.bbe % 2 ^ 32
      ∧ getU 20 4 (pmRead r s).pay = b.es % 2 ^ 32 ∧ getU 24 4 (pmRead r s).pay = b.ses % 2 ^ 32
      ∧ getU 28 4 (pmRead r s).pay = b.uas % 2 ^ 32 ∧ getU 32 8 (pmRead r s).pay = b.corr % 2 ^ 64
      ∧ getU 40 8 (pmRead r s).pay = b.unc % 2 ^ 64 := by
  obtain ⟨flags, start, rest, hread⟩ := pmRead_begins htyp hbin hidx hobj hkept hb
  rw [hread]
  dsimp only [okWith]
  refine ⟨rfl, by simp; omega, ?_⟩
  simp [getU_append_right, getU_append_left, getU_cons_succ, getU_natBE]

/-- The current bins are zero but for their cleared flag, and no alert is raised. -/
def Cleared (o : PmObj) : Prop :=
  o.bins15.getD 0 {} = { cleared := true } ∧ o.bins24.getD 0 {} = { cleared := true } ∧ o.raised = []

theorem cleared_clearPm (o : PmObj) : Cleared (clearPm o) :=
  ⟨getD_binHead (fun _ => { cleared := true }) o.bins15, getD_binHead (fun _ => { cleared := true }) o.bins24, rfl⟩

theorem pmClear_one (htyp : r.u 0 1 ≤ 1) (hobj : r.u 2 2 < pmObjects (r.u 0 1)) :
    pmClear r s = okay (onPmObj (pmKey (r.u 0 1) (r.u 2 2)) clearPm s) := by
  have hbound : pmObjects (r.u 0 1) ≤ 3840 := by
    unfold pmObjects
    split_ifs <;> omega
  rw [pmClear, if_neg (by omega), if_neg (by omega), if_neg (by omega)]

theorem pmClear_all (htyp : r.u 0 1 ≤ 1) (hobj : r.u 2 2 = 0xFFFF) :
    pmClear r s = okay (forAll (fun k => onPmObj (pmKey (r.u 0 1) k) clearPm) (List.range (pmObjects (r.u 0 1))) s) := by
  rw [pmClear, if_neg (by omega), if_pos hobj]

theorem cleared_all {typ n : Nat} (hk : k < n) :
    Cleared (pmObj (forAll (fun j => onPmObj (pmKey typ j) clearPm) (List.range n) s) (pmKey typ k)) := by
  refine forAll_at (P := fun _ => True) (Q := fun u => Cleared (pmObj u (pmKey typ k))) (a := k) List.nodup_range
    (List.mem_range.2 hk) (fun _ _ _ _ _ => trivial) (fun u _ => ?_) (fun j _ hj u hu => ?_) trivial
  · rw [pmObj_same]
    exact cleared_clearPm _
  · rw [pmObj_other _ _ fun h => hj (pmKey_injective typ h.symm)]
    exact hu

theorem pmObj_respond (r : Req) (a : Reply) (k : Nat) : pmObj (respond r a) k = pmObj a.st k := by
  rw [pmObj, frame_respond, pmObj]

/-- Settles O23: what the end of a second, the boundaries of the bins and the pm commands leave. -/
theorem performanceMonitoring : Obligations.PerformanceMonitoring := by
  unfold Obligations.PerformanceMonitoring
  refine ⟨fun at_ s hrun hsec hnow => ?second, fun i at_ s hi htime hnow hready hfirst => ?boundary,
    fun day cur e rest s hrun hl he hrest => ?final, fun mb s acc hlow hhigh hoff => ?config,
    fun mb s acc htyp hbin hparam hdir htrib hobj => ?tca,
    fun mb o kept b s acc htyp hbin hidx hobj ho hkept hb => ?read, fun mb s acc htyp hobj => ?clear,
    fun mb s acc htyp hobj => ?clearAll⟩
  case second =>
    have hexec : exec (.pmSecond at_) s = .next (pmSecond at_ s) := by
      show execPmSecond at_ s = _
      rw [execPmSecond, hrun, hsec, decide_eq_true hnow]
      rfl
    refine runs_of_exec hexec ⟨?_, fun sc hsc => ?_⟩
    · rw [now, timing_pmSecond]
      exact max_eq_right hnow
    · obtain ⟨⟨hframes, herr, hbip⟩, hcounted⟩ := secondResult_pmSecond (s := s) (at_ := at_) hsc
      simp only [secondResult] at hframes herr hbip hcounted
      refine ⟨hframes, herr, hbip, fun x hx hclass huas => ?_⟩
      obtain rfl : x = secondClass s sc := hx
      obtain ⟨hbegins, hadds⟩ := hcounted hclass huas
      simp only [shownFigures] at hbegins hadds
      refine ⟨hbegins, fun h => ?_⟩
      have hnot : ¬TenthSevere (secondClass s sc) (pmObj s (pmKey 0 sc)) := by
        rintro ⟨hses, hlen, hall⟩
        rcases h with h | h | ⟨r, hr, hnses⟩
        · exact Bool.noConfusion (hses.symm.trans h)
        · omega
        · exact Bool.noConfusion ((hall r hr).symm.trans hnses)
      obtain ⟨huas', hsecs, hes, hses, hbbe, huass⟩ : _ ∧ _ ∧ _ ∧ _ ∧ _ ∧ _ := by
        simpa only [Prod.mk.injEq] using hadds hnot
      refine ⟨huas', fun o v ho hv => ?_⟩
      rw [ho, hv]
      exact ⟨hsecs, hes, hses, hbbe, huass⟩
  case boundary =>
    have hbound : i < 4096 := by omega
    have hexec : exec (.pmBinBoundary i at_) s = .next (pmBoundary i at_ false (clockTo at_ s)) := by
      refine exec_need (n := "cue") ?_ (decide_eq_true hbound)
      show execPmBinBoundary i at_ s = _
      rw [execPmBinBoundary, decide_eq_true hi, decide_eq_true htime, decide_eq_true hnow, hready, hfirst]
      rfl
    refine runs_of_exec hexec ?_
    obtain rfl | rfl : i = 0 ∨ i = 1 := by omega
    · obtain ⟨hstart, hbins, hcue⟩ := pmBoundary_quarter at_ false (clockTo at_ s)
      exact ⟨fun _ => ⟨hstart, hbins⟩, nofun, hcue⟩
    · obtain ⟨hstart, hbins, hcue⟩ := pmBoundary_day at_ false (clockTo at_ s)
      exact ⟨nofun, fun _ => ⟨hstart, hbins⟩, hcue⟩
  case final => exact runs_of_next rfl (by rw [hrun, onlyIf_true]) (pmBinFinal_marks hl he hrest)
  case config =>
    refine runs_mailbox acc rfl ?_
    rw [pmConfig_stores hlow hhigh hoff]
    refine ⟨answered_of_accepted acc rfl, ?_⟩
    rw [frame_respond]
    exact ⟨rfl, rfl, rfl⟩
  case tca =>
    refine runs_mailbox acc rfl ?_
    rw [pmTca_stores htyp hbin hparam hdir htrib hobj]
    refine ⟨answered_of_accepted acc rfl, ?_⟩
    rw [frame_respond, okay, onFrameSt_frame]
    exact tabGet_set_same ..
  case read =>
    subst ho
    obtain ⟨hcode, hlen, hsecs, hbbe, hes, hses, huas, hcorr, hunc⟩ :=
      pmRead_fields (r := requestOf s mb) htyp hbin hidx hobj hkept hb
    refine runs_mailbox acc rfl ⟨answered_of_accepted acc hcode, ?_, ?_, ?_, ?_, ?_, ?_, ?_⟩
    · exact (resp_respond _ _ (by omega)).trans hsecs
    · exact (resp_respond _ _ (by omega)).trans hbbe
    · exact (resp_respond _ _ (by omega)).trans hes
    · exact (resp_respond _ _ (by omega)).trans hses
    · exact (resp_respond _ _ (by omega)).trans huas
    · exact (resp_respond _ _ (by omega)).trans hcorr
    · exact (resp_respond _ _ (by omega)).trans hunc
  case clear =>
    refine runs_mailbox acc rfl ?_
    rw [pmClear_one htyp hobj]
    refine ⟨answered_of_accepted acc rfl, fun o ho => ?_⟩
    rw [ho, pmObj_respond, okay, arg, arg, pmObj_same]
    exact cleared_clearPm _
  case clearAll =>
    refine runs_mailbox acc rfl ?_
    rw [pmClear_all htyp hobj]
    refine ⟨answered_of_accepted acc rfl, fun k o hk ho => ?_⟩
    rw [ho, pmObj_respond, okay]
    exact cleared_all hk

end Sys2Proof.Machine
end

section
/-! SUPPORT of O24 to O27: what reads a line port's casting state, across changes made elsewhere. -/
namespace Sys2Proof.Machine

variable {s t : State} {p n : Nat} {r : Req}

theorem padTo_self {n : Nat} {b : List Byte} (h : b.length = n) : padTo n b = b := by
  simp [padTo, zeros, ← h]

theorem hubPort_respond (r : Req) (a : Reply) (q : Nat) : hubPort (respond r a) q = hubPort a.st q :=
  hubPort_congr (respond_same r a (by simp)) q

@[simp] theorem hubPort_raisePort (code p : Nat) (data : List Byte) (q : Nat) :
    hubPort (raisePort code p data s) q = hubPort s q := rfl

@[simp] theorem hubPort_mirror (m : MirrorRecord) (q : Nat) : hubPort (mirror m s) q = hubPort s q :=
  hubPort_congr (by simp) q

@[simp] theorem mirror_log (m : MirrorRecord) (s : State) : (mirror m s).log = s.log :=
  within_mirror m s .log (by simp)

/-! The leaves of a hub. -/

theorem leafOf_congr (h : (hubPort t p).leaves = (hubPort s p).leaves) (n : Nat) : leafOf t p n = leafOf s p n := by
  rw [leafOf, leafOf, h]

theorem leafOf_onLeaf_same (f : Leaf → Leaf) : leafOf (onLeaf p n f s) p n = f (leafOf s p n) := by
  rw [leafOf, onLeaf, hubPort_same]
  exact tabGet_mod_same ..

theorem leafOf_onLeaf_other {m : Nat} (h : m ≠ n) (f : Leaf → Leaf) : leafOf (onLeaf p n f s) p m = leafOf s p m := by
  rw [leafOf, onLeaf, hubPort_same]
  exact tabGet_mod_other _ _ _ h

theorem recs_onLeaf (f : Leaf → Leaf) : (hubPort (onLeaf p n f s) p).recs = (hubPort s p).recs := by
  rw [onLeaf, hubPort_same]

/-! Records for the beacon (R227). -/

section PushRecord
variable (typ ident num : Nat) (rest : List Byte)

theorem recs_pushRecord : (hubPort (pushRecord p typ ident num rest s) p).recs
    = (hubPort s p).recs ++ [(byteOf typ :: natBE 6 ident ++ [byteOf num] ++ padTo 8 rest, 4)] := by
  rw [pushRecord, hubPort_same]

theorem leaves_pushRecord : (hubPort (pushRecord p typ ident num rest s) p).leaves = (hubPort s p).leaves := by
  rw [pushRecord, hubPort_same]

theorem leafOf_pushRecord (m : Nat) : leafOf (pushRecord p typ ident num rest s) p m = leafOf s p m :=
  leafOf_congr (leaves_pushRecord ..) m

end PushRecord

end Sys2Proof.Machine
end

section
/-! SUPPORT and PROOF of O24: the burst receiver of a hub (R228 to R230/07). -/
namespace Sys2Proof.Machine

variable {s : State} {p : Nat} {x : HubPort}

/-! A detection (R229), by the receiver's state. -/

section Detect
variable {pw fq pc : Int}

theorem burstDetect_idle (h : x.burst = .idle) :
    burstDetect pw fq x = { x with burst := .preamble pw, freq := burstFreq fq } := by
  rw [burstDetect, h]

theorem burstDetect_captures (h : x.burst = .preamble pc) (hstrong : pc + 600 ≤ pw) :
    burstDetect pw fq x = { x with
      collision := sat64 x.collision
      lost := if x.pend.isSome then sat64 x.lost else x.lost
      pend := none, burst := .preamble pw, freq := burstFreq fq } := by
  rw [burstDetect, h]
  exact if_pos hstrong

theorem burstDetect_waits (h : x.burst = .preamble pc) (hweak : pw < pc + 600) (hnone : x.pend = none) :
    burstDetect pw fq x = { x with pend := some (pw, burstFreq fq) } := by
  rw [burstDetect, h]
  exact (if_neg hweak.not_ge).trans (if_pos (by rw [hnone]; rfl))

theorem burstDetect_second (h : x.burst = .preamble pc) (hweak : pw < pc + 600) (hsome : x.pend ≠ none) :
    burstDetect pw fq x = { x with lost := sat64 x.lost } := by
  rw [burstDetect, h]
  exact (if_neg hweak.not_ge).trans (if_neg (by simpa using hsome))

theorem burstDetect_payload (h : x.burst = .payload) : burstDetect pw fq x = { x with lost := sat64 x.lost } := by
  rw [burstDetect, h]

end Detect

/-! The end of the header time (R229, R230). -/

section Header
variable {hdr : List Byte} {pc : Int}

theorem burstHeader_mirage (h : x.burst = .preamble pc) (hbad : headerGood hdr = false) :
    (burstHeader hdr false x).mirages = sat64 x.mirages ∧ (burstHeader hdr false x).pend = none
      ∧ (burstHeader hdr false x).burst = x.pend.elim .idle (fun w => .preamble w.1) := by
  cases hpend : x.pend <;> simp [burstHeader, h, hbad, hpend]

theorem burstHeader_rejects (h : x.burst = .preamble pc) (hgood : headerGood hdr = true) (hinvalid : headerValid hdr = false) :
    burstHeader hdr false x = { x with
      lost := if x.pend.isSome then sat64 x.lost else x.lost, pend := none
      rejected := sat64 x.rejected, burst := .idle } := by
  simp [burstHeader, h, hgood, hinvalid]

theorem burstHeader_enters (h : x.burst = .preamble pc) (hgood : headerGood hdr = true) (hvalid : headerValid hdr = true) :
    burstHeader hdr false x = { x with
      lost := if x.pend.isSome then sat64 x.lost else x.lost, pend := none, burst := .payload
      hdrType := getU 6 1 hdr, hdrIdent := getU 0 6 hdr, hdrLen := getU 8 2 hdr } := by
  simp [burstHeader, h, hgood, hvalid]

end Header

/-! The end of a payload (R229). -/

section Payload
variable {llrs : List Int}

theorem burstEnd_delivers {msg : List Byte} (h : x.burst = .payload)
    (hmsg : castPayload (burstBlocks x.hdrLen) x.hdrLen llrs = some msg) :
    burstEnd llrs x = { x with
      delivered := sat64 x.delivered, inbox := x.inbox ++ [(x.hdrType, x.hdrIdent, msg)], burst := .idle } := by
  simp only [burstEnd, h, hmsg]

theorem burstEnd_fails (h : x.burst = .payload) (hbad : castPayload (burstBlocks x.hdrLen) x.hdrLen llrs = none) :
    burstEnd llrs x = { x with payErr := sat64 x.payErr, burst := .idle } := by
  simp only [burstEnd, h, hbad]

end Payload

/-! The commands, on a hub whose casting receiver runs. -/

section Commands
variable (hport : okPort p = true)
include hport

theorem exec_burstDetection_below {pw fq : Int} {corr : Nat} (h : corr < (hubPort s p).thr) :
    exec (.burstDetection p pw corr fq) s = .next s :=
  (exec_need rfl hport).trans (by simp [h.not_ge])

variable (hruns : bursts s p = true)
include hruns

theorem exec_burstDetection {pw fq : Int} {corr : Nat} (h : (hubPort s p).thr ≤ corr) :
    exec (.burstDetection p pw corr fq) s = .next (onHubPort p (burstDetect pw fq) s) :=
  (exec_need rfl hport).trans (by simp [hruns, h])

theorem exec_burstHeaderCheck {hdr : List Byte} (hlen : hdr.length = 16) (hinj : injArmed s (0x080 + p) = false) :
    exec (.burstHeaderCheck p hdr) s = .next (onHubPort p (burstHeader hdr false) s) :=
  (exec_need rfl hport).trans (by simp [hruns, headerCheck, hinj, padTo_self hlen])

theorem exec_burstPayloadEnd {llrs : List Int} :
    exec (.burstPayloadEnd p llrs) s = .next (onHubPort p (burstEnd llrs) s) :=
  (exec_need rfl hport).trans (by simp [hruns])

end Commands

/-- Settles O24: each command changes the port's receiver alone, by its state. -/
theorem hubBurstReceiver : Obligations.HubBurstReceiver := by
  unfold Obligations.HubBurstReceiver
  refine fun p s hport hruns => ⟨fun pw fq corr hlow => exec_burstDetection_below hport hlow, fun pw fq corr hcorr => ?_,
    fun hdr q hlen hpre hinj => ?_, fun llrs hpay => ⟨fun msg hmsg => ?_, fun hbad => ?_⟩⟩
  · refine runs_of_exec (exec_burstDetection hport hruns hcorr) ?_
    rw [hubPort_same]
    refine ⟨fun h => ?_, fun q h hstrong => ?_, fun q h hweak hnone => ?_, fun q h hweak hsome => ?_, fun h => ?_⟩
    · rw [burstDetect_idle h]
      exact ⟨rfl, rfl⟩
    · rw [burstDetect_captures h hstrong]
      exact ⟨rfl, rfl, rfl, rfl⟩
    · rw [burstDetect_waits h hweak hnone]
      exact ⟨h, rfl, rfl, rfl⟩
    · rw [burstDetect_second h hweak hsome]
      exact ⟨h, rfl⟩
    · rw [burstDetect_payload h]
      exact ⟨h, rfl⟩
  · refine runs_of_exec (exec_burstHeaderCheck hport hruns hlen hinj) ?_
    rw [hubPort_same]
    refine ⟨fun hbad => ?_, fun hgood hinvalid => ?_, fun hgood hvalid => ?_⟩
    · obtain ⟨hcount, hnone, hburst⟩ := burstHeader_mirage hpre hbad
      refine ⟨hcount, hnone, hburst.trans ?_⟩
      cases (hubPort s p).pend <;> rfl
    · rw [burstHeader_rejects hpre hgood hinvalid]
      exact ⟨rfl, rfl⟩
    · rw [burstHeader_enters hpre hgood hvalid]
      exact ⟨rfl, rfl, rfl, rfl, rfl⟩
  · refine runs_of_exec (exec_burstPayloadEnd hport hruns) ?_
    rw [hubPort_same, burstEnd_delivers hpay hmsg]
    exact ⟨rfl, rfl, rfl⟩
  · refine runs_of_exec (exec_burstPayloadEnd hport hruns) ?_
    rw [hubPort_same, burstEnd_fails hpay hbad]
    exact ⟨rfl, rfl, rfl⟩

end Sys2Proof.Machine
end

section
/-! SUPPORT of O25 to O27: the parts that the operations of hubs and leaves leave as they were. -/
namespace Sys2Proof.Machine

variable {q : Part} {s t u : State} {p : Nat}

@[simp] theorem same_onTxSc (k f) (h : q ∉ [Part.txs]) : q.same s (onTxSc k f t) ↔ q.same s t := by
  cases q <;> simp_all [Part.same]

@[simp] theorem same_onTxFrame (k f) (h : q ∉ [Part.frame]) : q.same s (onTxFrame k f t) ↔ q.same s t := by
  cases q <;> simp_all [Part.same]

@[simp] theorem same_onLeaf (n f) (h : q ∉ [Part.hub]) : q.same s (onLeaf p n f t) ↔ q.same s t := by
  simp_all [onLeaf]

/-! Format changes: placed, merged, dropped, or made at once (R98). -/

theorem same_placeChange {mask classes b tag origin} (e : placeChange p mask classes b tag origin t = some u)
    (h : q ∉ [Part.txp, .cues]) : q.same s u ↔ q.same s t := by
  revert e
  unfold placeChange
  dsimp only
  split
  · simp
  · split
    · simp
    · rintro ⟨⟩
      simp_all

theorem same_mergeOrPlace {mask classes b tag x} (e : mergeOrPlace p mask classes b tag t = some x)
    (h : q ∉ [Part.txp, .cues]) : q.same s x.2.2 ↔ q.same s t := by
  revert e
  unfold mergeOrPlace
  split
  · rintro ⟨⟩
    simp_all [mergeChange]
  · intro e
    obtain ⟨v, hv, rfl⟩ := Option.map_eq_some_iff.1 e
    exact same_placeChange hv h

theorem same_darken {mask tag} (e : darken p mask tag t = some u) (h : q ∉ [Part.txp, .cues]) :
    q.same s u ↔ q.same s t := by
  obtain ⟨x, hx, rfl⟩ := Option.map_eq_some_iff.1 e
  exact same_mergeOrPlace hx h

@[simp] theorem same_darkenNow (mask) (h : q ∉ [Part.txp]) : q.same s (darkenNow p mask t) ↔ q.same s t := by
  simp_all [darkenNow]

@[simp] theorem same_dropChange (c) (h : q ∉ [Part.txp, .cues]) : q.same s (dropChange p c t) ↔ q.same s t := by
  simp_all [dropChange]

@[simp] theorem same_retarget (h : q ∉ [Part.txp]) : q.same s (retarget p t) ↔ q.same s t := by
  simp_all [retarget]

/-! Dissolves and receive classes. -/

@[simp] theorem same_ownDissolve (len set) (h : q ∉ [Part.rxp, .cues]) :
    q.same s (ownDissolve p len set t) ↔ q.same s t := by
  unfold ownDissolve
  split <;> simp_all [cueDissolve, dissolveCue]

@[simp] theorem same_releaseGain (h : q ∉ [Part.rxp]) : q.same s (releaseGain p t) ↔ q.same s t := by
  unfold releaseGain
  split <;> simp_all

@[simp] theorem same_setFarClass (sc k) (h : q ∉ [Part.ev, .rxp, .rxs, .fecs, .frame, .log]) :
    q.same s (setFarClass sc k t) ↔ q.same s t := by
  unfold setFarClass
  dsimp only
  split_ifs <;> simp_all [hubGain]

/-! The casting state of a port, across them. -/

@[simp] theorem hubPort_onTxPort (k f j) : hubPort (onTxPort k f s) j = hubPort s j := rfl
@[simp] theorem hubPort_clockTo (at_ j) : hubPort (clockTo at_ s) j = hubPort s j := rfl
@[simp] theorem hubPort_retarget (j) : hubPort (retarget p s) j = hubPort s j := hubPort_congr (by simp) j

@[simp] theorem hubPort_finishEach (op obj c j) : hubPort (finishEach op obj c s) j = hubPort s j :=
  hubPort_congr (by simp) j

@[simp] theorem hubPort_ownDissolve (len set j) : hubPort (ownDissolve p len set s) j = hubPort s j :=
  hubPort_congr (by simp) j

end Sys2Proof.Machine
end

section
/-! SUPPORT and PROOF of O25: what a hub decides about its leaves, and what it sends them (R218, R222, R226, R227, R233, R235,
R236/07). -/
namespace Sys2Proof.Machine

variable {s t u : State} {p n ident : Nat} {rec : List Byte}

/-! A decision is carried out and mirrored; the mirror leaves the port and the log. -/

@[simp] theorem logged_mirror {code src : Nat} {data : List Byte} (m : MirrorRecord) :
    Logged code src data (mirror m s) ↔ Logged code src data s := logged_congr (mirror_log m s)

@[simp] theorem leafOf_mirror (m : MirrorRecord) (k : Nat) : leafOf (mirror m s) p k = leafOf s p k :=
  leafOf_congr (by rw [hubPort_mirror]) k

@[simp] theorem leafOf_raisePort (code : Nat) (data : List Byte) (k : Nat) :
    leafOf (raisePort code p data s) p k = leafOf s p k := rfl

theorem runs_of_decision {c : Instr} {d : HubDecision} {P : State → Prop} (h : exec c s = .next (hubDecides p d u))
    (hacts : hubActs p d u = t) (hp : ∀ m, P (mirror m t)) : Runs c s P :=
  runs_of_next h (congrArg (mirror _) hacts) (hp _)

/-! A delivered burst is taken out of the inbox (R229). -/

def burstTaken (p : Nat) (b : Nat × Nat × List Byte) : State → State :=
  onHubPort p (fun h => { h with inbox := h.inbox.erase b })

section Taken
variable (b : Nat × Nat × List Byte)

@[simp] theorem leaves_burstTaken : (hubPort (burstTaken p b s) p).leaves = (hubPort s p).leaves := by
  rw [burstTaken, hubPort_same]

@[simp] theorem recs_burstTaken : (hubPort (burstTaken p b s) p).recs = (hubPort s p).recs := by
  rw [burstTaken, hubPort_same]

@[simp] theorem leafOf_burstTaken (k : Nat) : leafOf (burstTaken p b s) p k = leafOf s p k :=
  leafOf_congr (leaves_burstTaken b) k

@[simp] theorem ownGen_burstTaken : ownGen (burstTaken p b s) = ownGen s := rfl

@[simp] theorem leafByIdent_burstTaken (ident : Nat) : leafByIdent (burstTaken p b s) p ident = leafByIdent s p ident := by
  simp [leafByIdent]

@[simp] theorem freeLeaf_burstTaken (lim : Nat) : freeLeaf (burstTaken p b s) p lim = freeLeaf s p lim := by
  simp [freeLeaf]

end Taken

section Received
variable (hport : okPort p = true) (hhub : isHub s p = true) (hdec : decides s = true)
include hhub hdec

theorem takeBurst_delivered {b : Nat × Nat × List Byte} (f : State → State) (h : b ∈ (hubPort s p).inbox) :
    takeBurst p b f s = f (burstTaken p b s) := by
  have hcond : (isHub s p && decides s && (hubPort s p).inbox.contains b) = true := by simp [hhub, hdec, h]
  exact if_pos hcond

include hport

theorem exec_joinReceive (h : (3, ident, rec) ∈ (hubPort s p).inbox) :
    exec (.joinReceive p ident rec) s = .next (hubDecides p (.join ident rec) (burstTaken p (3, ident, rec) s)) :=
  (exec_need rfl hport).trans (congrArg _ (takeBurst_delivered hhub hdec _ h))

theorem exec_keepaliveReceive {msg : List Byte} (h : (4, ident, msg) ∈ (hubPort s p).inbox) :
    exec (.keepaliveReceive p ident msg) s = .next (hubDecides p (.keepalive ident) (burstTaken p (4, ident, msg) s)) :=
  (exec_need rfl hport).trans (congrArg _ (takeBurst_delivered hhub hdec _ h))

theorem exec_leaveReceive (h : (5, ident, []) ∈ (hubPort s p).inbox) :
    exec (.leaveReceive p ident) s = .next (hubDecides p (.leave ident) (burstTaken p (5, ident, []) s)) :=
  (exec_need rfl hport).trans (congrArg _ (takeBurst_delivered hhub hdec _ h))

end Received

/-! JOIN (R233, R240). -/

/-- A leaf as its JOIN describes it. -/
def joinedLeaf (s : State) (ident : Nat) (rec : List Byte) (l : Leaf) : Leaf :=
  { l with ident := ident, gen := min (ownGen s) (getU 0 1 rec), classes := getU 1 1 rec }

/-- A leaf newly given its number. -/
def newLeaf (s : State) (ident : Nat) (rec : List Byte) : Leaf := { joinedLeaf s ident rec {} with state := 1 }

theorem joinActs_otherRole (hrole : getU 6 1 rec ≠ 2) :
    joinActs p ident rec s = raisePort 0x0481 p [byteOf (getU 6 1 rec)] s := if_pos hrole

section Join
variable (hrole : getU 6 1 rec = 2)
include hrole

theorem joinActs_known (hknown : leafByIdent s p ident = some n) : joinActs p ident rec s =
    joinEvent p n ident true (pushRecord p 1 ident n [] (onLeaf p n (joinedLeaf s ident rec) s)) := by
  simp only [joinActs, hrole, hknown]
  rfl

variable (hnew : leafByIdent s p ident = none)
include hnew

theorem joinActs_new (hfree : freeLeaf s p 16 = some n)
    (hlow : 1 < min (ownGen s) (getU 0 1 rec) ∨ freeLeaf s p 8 ≠ none) : joinActs p ident rec s =
    joinEvent p n ident false (pushRecord p 1 ident n [] (onLeaf p n (fun _ => newLeaf s ident rec) s)) := by
  have hroom : ¬(min (ownGen s) (getU 0 1 rec) ≤ 1 ∧ freeLeaf s p 8 = none) :=
    fun h => hlow.elim (Nat.not_lt.2 h.1) (· h.2)
  simp only [joinActs, hrole, hnew, if_neg hroom, hfree]
  rfl

theorem joinActs_full (hfull : freeLeaf s p 16 = none) (hgen : 1 < min (ownGen s) (getU 0 1 rec)) :
    joinActs p ident rec s = pushRecord p 5 ident 0xFF [1] s := by
  have hroom : ¬(min (ownGen s) (getU 0 1 rec) ≤ 1 ∧ freeLeaf s p 8 = none) := fun h => Nat.not_lt.2 h.1 hgen
  simp only [joinActs, hrole, hnew, if_neg hroom, hfull]
  rfl

theorem joinActs_fullLow (hfull : freeLeaf s p 8 = none) (hgen : min (ownGen s) (getU 0 1 rec) ≤ 1) :
    joinActs p ident rec s = pushRecord p 5 ident 0xFF [3] s := by
  simp only [joinActs, hrole, hnew, if_pos (And.intro hgen hfull)]
  rfl

end Join

@[simp] theorem leafOf_joinEvent (num ident : Nat) (rejoin : Bool) (k : Nat) :
    leafOf (joinEvent p num ident rejoin s) p k = leafOf s p k := rfl

@[simp] theorem hubPort_joinEvent (num ident : Nat) (rejoin : Bool) (q : Nat) :
    hubPort (joinEvent p num ident rejoin s) q = hubPort s q := rfl

theorem logged_joinEvent (num ident : Nat) (rejoin : Bool) : Logged 0x0400 p
    ([byteOf num, byteOf (b2n rejoin)] ++ natBE 6 ident) (joinEvent p num ident rejoin s) := logged_raise ..

/-! KEEPALIVE and LEAVE (R236). -/

/-- A leaf that is heard. -/
def heardLeaf (l : Leaf) : Leaf :=
  { l with
    keeps := satAdd max32 l.keeps 1, silentArmed := true
    state := if l.state = 3 then (if l.mask = 0 then 1 else 2) else l.state }

theorem heardLeaf_state (l : Leaf) : (heardLeaf l).state ≠ 3 := by
  unfold heardLeaf
  dsimp only
  split_ifs <;> simp_all

theorem keepActs_known (h : leafByIdent s p ident = some n) : keepActs p ident s = onLeaf p n heardLeaf s := by
  simp only [keepActs, h]
  rfl

/-- A leaf that leaves is freed; beyond that its subcarriers' classes and cues change alone. -/
theorem leaveActs_known (h : leafByIdent s p ident = some n) : ∃ v, leaveActs p ident s = raisePort 0x0404 p [byteOf n] v
    ∧ Part.hub.same (onLeaf p n (fun _ => {}) s) v := by
  simp only [leaveActs, h]
  refine ⟨_, rfl, ?_⟩
  split
  · exact Part.same_refl ..
  · cases hd : darken p (leafOf s p n).mask 0 (onLeaf p n (fun _ => {}) s) with
    | none => simp
    | some v => exact (same_darken hd (by simp)).2 (Part.same_refl ..)

/-! The timers of a leaf (R233, R236). -/

section Timers
variable (hport : okPort p = true) (hleaf : okLeaf n = true) (hhub : isHub s p = true) (hdec : decides s = true)
include hport hleaf

theorem exec_need_leaf {c : Instr} (h : exec c s = need "leaf" (okPort p && okLeaf n) t) : exec c s = .next t :=
  exec_need h (by rw [hport, hleaf]; rfl)

include hhub hdec

theorem exec_leafNumberTimeout (hstate : (leafOf s p n).state ≠ 0) (hmask : (leafOf s p n).mask = 0) :
    exec (.leafNumberTimeout p n) s = .next (hubDecides p (.numberEnds n) s) := by
  have hcond : (isHub s p && decides s && (leafOf s p n).state != 0 && (leafOf s p n).mask == 0) = true := by
    simp [hhub, hdec, hstate, hmask]
  exact (exec_need_leaf hport hleaf rfl).trans (congrArg _ (if_pos hcond))

theorem exec_leafSilentTimeout (hstate : (leafOf s p n).state ≠ 0) (harmed : (leafOf s p n).silentArmed = true) :
    exec (.leafSilentTimeout p n) s = .next (hubDecides p (.silent n) s) := by
  have hcond : (isHub s p && decides s && (leafOf s p n).state != 0 && (leafOf s p n).silentArmed) = true := by
    simp [hhub, hdec, hstate, harmed]
  exact (exec_need_leaf hport hleaf rfl).trans (congrArg _ (if_pos hcond))

end Timers

/-! ADJUST (R235). -/

/-- The frequency field of an ADJUST: the offset taken back beyond 20 MHz. -/
def adjustFreq (off : Int) : Int := if 20000 < off.natAbs then -off else 0

theorem adjustFreq_eq_zero {off : Int} (h : off.natAbs ≤ 20000) : adjustFreq off = 0 := if_neg h.not_gt

theorem adjustFreq_beyond {off : Int} (h : 20000 < off.natAbs) : adjustFreq off = -off := if_pos h

theorem adjustFreq_ne_zero {off : Int} (h : 20000 < off.natAbs) : adjustFreq off ≠ 0 := by
  rw [adjustFreq_beyond h]
  omega

section Average
variable {off : Int} {pws : List Int} (hhub : isHub s p = true) (hdec : decides s = true) (hmask : (leafOf s p n).mask ≠ 0)
  (hconv : ∀ k, k < 16 → bitOf (leafOf s p n).mask k = true → (rxSc s (16 * p + k)).conv = true)
include hhub hdec hmask hconv

theorem adjustAverage_decides : (isHub s p && decides s && (leafOf s p n).mask != 0
    && (maskList 16 (leafOf s p n).mask).all (fun k => (rxSc s (16 * p + k)).conv)) = true := by
  have hall : (maskList 16 (leafOf s p n).mask).all (fun k => (rxSc s (16 * p + k)).conv) = true :=
    List.all_eq_true.2 fun k hk => hconv k (mem_maskList.1 hk).1 (mem_maskList.1 hk).2
  simp [hhub, hdec, hmask, hall]

/-- Without a power to correct, an ADJUST goes out for the frequency alone. -/
theorem adjustAverage_frequency (h : powerOff s p (leafOf s p n).mask pws = false ∨ (leafOf s p n).gen ≠ 2) :
    adjustAverage p n off pws s = hubDecides p
      (.average n off (if adjustFreq off ≠ 0 then intBE 4 (adjustFreq off) ++ intBE 2 0 else [])) s := by
  have hpower : ((leafOf s p n).gen == 2 && powerOff s p (leafOf s p n).mask pws) = false := by
    rcases h with h | h <;> simp [h]
  refine (if_pos (adjustAverage_decides hhub hdec hmask hconv)).trans ?_
  simp [hpower, adjustFreq]

/-- With one, an ADJUST goes out whatever the offset; its power field is open. -/
theorem adjustAverage_power (h : powerOff s p (leafOf s p n).mask pws = true) (hgen : (leafOf s p n).gen = 2) :
    ∃ v : Int, adjustAverage p n off pws s =
      hubDecides p (.average n off (intBE 4 (adjustFreq off) ++ intBE 2 v)) (useFree s) := by
  have hpower : ((leafOf s p n).gen == 2 && powerOff s p (leafOf s p n).mask pws) = true := by simp [h, hgen]
  refine ⟨toSigned 16 (freeNat s % 65536), (if_pos (adjustAverage_decides hhub hdec hmask hconv)).trans ?_⟩
  simp [hpower, adjustFreq]

end Average

section AverageActs
variable (off : Int) {adjust : List Byte}

theorem averageActs_adjusts (h : adjust ≠ []) : averageActs p n off adjust s =
    pushRecord p 3 (leafOf s p n).ident n adjust (onLeaf p n (fun l => { l with off := off }) s) := by
  have hsent : (adjust != []) = true := by simpa using h
  exact if_pos hsent

theorem leafOf_averageActs : leafOf (averageActs p n off adjust s) p n = { leafOf s p n with off := off } := by
  unfold averageActs
  refine (onlyIf_apply (leafOf · p n) _ (leafOf_pushRecord ..)).trans ?_
  exact leafOf_onLeaf_same _

theorem recs_averageActs_adjusts (h : adjust ≠ []) : (hubPort (averageActs p n off adjust s) p).recs =
    (hubPort s p).recs ++ [(3 :: natBE 6 (leafOf s p n).ident ++ [byteOf n] ++ padTo 8 adjust, 4)] := by
  rw [averageActs_adjusts off h, recs_pushRecord, recs_onLeaf]
  rfl

theorem recs_averageActs_silent : (hubPort (averageActs p n off [] s) p).recs = (hubPort s p).recs := recs_onLeaf _

end AverageActs

theorem intBE_append_ne_nil (n : Nat) (v : Int) (b : List Byte) : intBE (n + 1) v ++ b ≠ [] := by
  refine List.append_ne_nil_of_left_ne_nil (List.ne_nil_of_length_pos ?_) _
  rw [intBE_length]
  exact Nat.succ_pos n

/-! The dispersion of a leaf (R218). -/

theorem active_ownDissolve (len : Nat) (set : CdSet) :
    (cdOf (ownDissolve p len set s) p).active = (cdOf s p).active := by
  cases h : freeOwn s with
  | none => rw [ownDissolve, h]
  | some i =>
    obtain ⟨start, hcued⟩ := ownDissolve_cues (len := len) (set := set) (p := p) h
    rw [hcued, cdOf_cueDissolve, cdOf_onCd]

theorem hubScan_scans {d : Int} (hhub : isHub s p = true) (hstage : s.ctrl.stage = .ready)
    (hmask : (leafOf s p n).mask ≠ 0) (hauto : (rxPort s p).manual = false) (hrx : castReceives s p = true)
    (hidle : (cdOf s p).state = 0) : hubScan p n d s =
      ownDissolve p 64 (leafSet (cdOf s p).active (leafOf s p n).mask d)
        (onLeaf p n (fun l => { l with disp := clampInt (-60000) 60000 ((cdOf s p).active.base + d) }) s) := by
  have hcond : (isHub s p && s.ctrl.stage == .ready && (leafOf s p n).mask != 0 && !(rxPort s p).manual && castReceives s p
      && (cdOf s p).state == 0) = true := by simp [hhub, hstage, hmask, hauto, hrx, hidle]
  exact if_pos hcond

/-! Casting slots (R222, R226, R239). -/

theorem now_clockTo {at_ : Nat} (h : now s ≤ at_) : now (clockTo at_ s) = at_ := Nat.max_eq_right h

section Slot
variable {at_ : Nat} (hslot : at_ % slotTicks = 0) (hnow : now s ≤ at_) (hon : (txPort s p).tx = .on)
  (hruns : running s = true) (hinj : injArmed s (0x086 + p) = false)
include hslot hnow hon hruns hinj

theorem castingSlot_hub (hhub : isHub s p = true) : castingSlot p at_ s = onHubPort p (fun h => { h with
    slot := at_ / slotTicks % 160
    sent := beaconFrame p 1 0 (at_ / slotTicks % 160) false (beaconMessage s p), recs := afterBeacon h.recs })
      (clockTo at_ s) := by
  have hrole : (hubPort s p).role = .hub := by simpa [isHub] using hhub
  simp only [castingSlot, hslot, hnow, hon, hruns, hinj, hrole, and_self, if_true, onlyIf_false]

theorem castingSlot_p2p (hrole : (hubPort s p).role = .p2p) (hexch : (hubPort s p).exch ≠ 0) :
    castingSlot p at_ s = onHubPort p (fun h => { h with
      slot := at_ / slotTicks % 160
      sent := beaconFrame p 2 (if h.exch = 2 then 1 else 0) (at_ / slotTicks % 160) false (capRecord s p) })
        (clockTo at_ s) := by
  simp only [castingSlot, hslot, hnow, hon, hruns, hinj, hrole, and_self, if_true, if_neg hexch, onlyIf_false]

end Slot

/-! The statement, command by command. -/

section Clauses
variable (hport : okPort p = true) (hhub : isHub s p = true) (hdec : decides s = true)
include hport hhub hdec

section JoinClauses
variable (hin : (3, ident, rec) ∈ (hubPort s p).inbox)
include hin

/-- A JOIN that finds no number is answered with a DENY of its reason. -/
theorem runs_join_denied {reason : Byte}
    (hacts : joinActs p ident rec (burstTaken p (3, ident, rec) s)
      = pushRecord p 5 ident 0xFF [reason] (burstTaken p (3, ident, rec) s)) :
    Runs (.joinReceive p ident rec) s (fun t => (hubPort t p).leaves = (hubPort s p).leaves
      ∧ (hubPort t p).recs = (hubPort s p).recs ++ [(5 :: natBE 6 ident ++ [255] ++ (reason :: zeros 7), 4)]) := by
  refine runs_of_decision (exec_joinReceive hport hhub hdec hin) hacts fun m => ⟨?_, ?_⟩
  · rw [hubPort_mirror, leaves_pushRecord, leaves_burstTaken]
  · rw [hubPort_mirror, recs_pushRecord, recs_burstTaken]
    rfl

variable (hrole : getU 6 1 rec = 2)
include hrole

theorem runs_join_known (hknown : leafByIdent s p ident = some n) : Runs (.joinReceive p ident rec) s (fun t =>
    leafOf t p n = joinedLeaf s ident rec (leafOf s p n) ∧ Logged 0x0400 p ([byteOf n, 1] ++ natBE 6 ident) t) := by
  refine runs_of_decision (exec_joinReceive hport hhub hdec hin) (joinActs_known hrole (by simpa using hknown))
    fun m => ⟨?_, (logged_mirror m).2 (logged_joinEvent ..)⟩
  rw [leafOf_mirror, leafOf_joinEvent, leafOf_pushRecord, leafOf_onLeaf_same, leafOf_burstTaken]
  rfl

variable (hnew : leafByIdent s p ident = none)
include hnew

theorem runs_join_new (hfree : freeLeaf s p 16 = some n)
    (hlow : 1 < min (ownGen s) (getU 0 1 rec) ∨ freeLeaf s p 8 ≠ none) : Runs (.joinReceive p ident rec) s (fun t =>
      leafOf t p n = newLeaf s ident rec ∧ (∀ m, m ≠ n → leafOf t p m = leafOf s p m)
        ∧ (hubPort t p).recs = (hubPort s p).recs ++ [(1 :: natBE 6 ident ++ [byteOf n] ++ zeros 8, 4)]
        ∧ Logged 0x0400 p ([byteOf n, 0] ++ natBE 6 ident) t) := by
  refine runs_of_decision (exec_joinReceive hport hhub hdec hin)
    (joinActs_new hrole (by simpa using hnew) (by simpa using hfree) (by simpa using hlow))
    fun m => ⟨?_, fun k hk => ?_, ?_, (logged_mirror m).2 (logged_joinEvent ..)⟩
  · rw [leafOf_mirror, leafOf_joinEvent, leafOf_pushRecord, leafOf_onLeaf_same]
    rfl
  · rw [leafOf_mirror, leafOf_joinEvent, leafOf_pushRecord, leafOf_onLeaf_other hk, leafOf_burstTaken]
  · rw [hubPort_mirror, hubPort_joinEvent, recs_pushRecord, recs_onLeaf, recs_burstTaken]
    rfl

end JoinClauses

end Clauses

/-- Settles O25: each decision of the hub is read off the leaf and the records it changes. -/
theorem hubKeepsItsLeaves : Obligations.HubKeepsItsLeaves := by
  unfold Obligations.HubKeepsItsLeaves
  refine ⟨fun p ident rec s hport hhub hdec hin => ⟨fun hrole hnew => ⟨fun n hfree hlow => ?joinNew, fun hfull hgen => ?full,
      fun hfull hgen => ?fullLow⟩, fun hrole n hknown => ?joinKnown, fun hrole => ?otherRole⟩,
    fun p ident n msg s hport hhub hdec hknown => ⟨fun hin => ?keepalive, fun hin => ?leave⟩,
    fun p n s hport hleaf hhub hdec => ⟨fun hstate hmask => ?numberEnds, fun hstate harmed => ?silent⟩,
    fun p n off pws s hport hleaf hhub hdec hmask hconv => ⟨fun hpower => ?frequency, fun hpower hgen => ?power⟩,
    fun p n d s hport hleaf hhub hstage hmask hauto hrx hidle => ?dispersion,
    fun p at_ s hport hslot hnow hon hruns hinj => ⟨fun hhub => ?beacon, fun hrole hexch => ?capability⟩⟩
  case joinNew =>
    obtain ⟨t, hrun, hleaf, hothers, hrecs, hlog⟩ := runs_join_new hport hhub hdec hin hrole hnew hfree hlow
    refine runs_of_exec hrun ?_
    rw [hleaf]
    exact ⟨rfl, rfl, rfl, rfl, hothers, hrecs, hlog⟩
  case full =>
    exact runs_join_denied hport hhub hdec hin
      (joinActs_full hrole (by simpa using hnew) (by simpa using hfull) (by simpa using hgen))
  case fullLow =>
    exact runs_join_denied hport hhub hdec hin
      (joinActs_fullLow hrole (by simpa using hnew) (by simpa using hfull) (by simpa using hgen))
  case joinKnown => exact runs_join_known hport hhub hdec hin hrole hknown
  case otherRole =>
    refine runs_of_decision (exec_joinReceive hport hhub hdec hin) (joinActs_otherRole hrole)
      fun m => ⟨?_, (logged_mirror m).2 (logged_raise ..)⟩
    rw [hubPort_mirror, hubPort_raisePort, leaves_burstTaken]
  case keepalive =>
    refine runs_of_decision (exec_keepaliveReceive hport hhub hdec hin) (keepActs_known (by simpa using hknown)) fun m => ?_
    rw [leafOf_mirror, leafOf_onLeaf_same, leafOf_burstTaken]
    exact ⟨rfl, rfl, heardLeaf_state _, rfl⟩
  case leave =>
    obtain ⟨v, hacts, hsame⟩ := leaveActs_known (p := p) (s := burstTaken p (5, ident, []) s) (by simpa using hknown)
    refine runs_of_decision (exec_leaveReceive hport hhub hdec hin) hacts fun m => ⟨?_, (logged_mirror m).2 (logged_raise ..)⟩
    rw [leafOf_mirror, leafOf_raisePort, leafOf_congr (congrArg HubPort.leaves (hubPort_congr hsame p)), leafOf_onLeaf_same]
  case numberEnds =>
    refine runs_of_decision (exec_leafNumberTimeout hport hleaf hhub hdec hstate hmask)
      (t := numberEnds p n s) rfl fun m => ⟨?_, ?_⟩
    · rw [leafOf_mirror, numberEnds, leafOf_pushRecord, leafOf_onLeaf_same]
    · rw [hubPort_mirror, numberEnds, recs_pushRecord, recs_onLeaf]
      rfl
  case silent =>
    refine runs_of_decision (exec_leafSilentTimeout hport hleaf hhub hdec hstate harmed)
      (t := leafSilent p n s) rfl fun m => ⟨?_, (logged_mirror m).2 (logged_raise ..)⟩
    rw [leafOf_mirror, leafSilent, leafOf_raisePort, leafOf_onLeaf_same]
  case frequency =>
    refine runs_of_decision ((exec_need_leaf hport hleaf rfl).trans
      (congrArg _ (adjustAverage_frequency hhub hdec hmask hconv hpower))) rfl fun m => ⟨?_, fun hin => ?_, fun hout => ?_⟩
    · rw [leafOf_mirror]
      exact leafOf_averageActs off
    · rw [adjustFreq_eq_zero hin, hubPort_mirror]
      exact recs_averageActs_silent off
    · rw [if_pos (adjustFreq_ne_zero hout), adjustFreq_beyond hout, hubPort_mirror]
      exact recs_averageActs_adjusts off (intBE_append_ne_nil _ _ _)
  case power =>
    obtain ⟨v, hadjust⟩ := adjustAverage_power (off := off) hhub hdec hmask hconv hpower hgen
    refine runs_of_decision ((exec_need_leaf hport hleaf rfl).trans (congrArg _ hadjust)) rfl fun m => ⟨?_, v, ?_⟩
    · rw [leafOf_mirror]
      exact leafOf_averageActs off
    · rw [hubPort_mirror]
      exact recs_averageActs_adjusts off (intBE_append_ne_nil _ _ _)
  case dispersion =>
    refine runs_of_next (exec_need_leaf hport hleaf rfl) (hubScan_scans hhub hstage hmask hauto hrx hidle) ⟨?_, ?_⟩
    · rw [leafOf_congr (congrArg HubPort.leaves (hubPort_ownDissolve ..)), leafOf_onLeaf_same]
    · rw [active_ownDissolve, cdOf_congr (s := s) (by simp)]
  case beacon =>
    refine runs_of_next (exec_need rfl hport) (castingSlot_hub hslot hnow hon hruns hinj hhub) ⟨now_clockTo hnow, ?_⟩
    rw [hubPort_same]
    exact ⟨rfl, rfl, rfl⟩
  case capability =>
    refine runs_of_next (exec_need rfl hport) (castingSlot_p2p hslot hnow hon hruns hinj hrole hexch) ?_
    rw [hubPort_same]
    rfl

end Sys2Proof.Machine
end

section
/-! SUPPORT and PROOF of O26: the beacon at a leaf, and the exchange of capabilities (R227, R231, R234, R239, R240/07). -/
namespace Sys2Proof.Machine

variable {s u : State} {p : Nat} {hdr msg rec : List Byte} {llrs : List Int} {off : Int}

/-! A frame of another role (R240). -/

section RoleMismatch
variable (far : Nat)

theorem hubPort_roleMismatch :
    hubPort (roleMismatch p far s) p = { hubPort s p with exch := 0, mism := true } := by
  rw [roleMismatch, hubPort_congr (s := onHubPort p (fun h => { h with exch := 0, mism := true }) s) (by simp), hubPort_same]

theorem logged_roleMismatch (h : (hubPort s p).mism = false) : Logged 0x0481 p [byteOf far] (roleMismatch p far s) := by
  have hlog : (roleMismatch p far s).log
      = (raisePort 0x0481 p [byteOf far] (onHubPort p (fun h => { h with exch := 0, mism := true }) s)).log := by
    have hsame (l : List FormatChange) (v : State) : Part.log.same v (forAll (dropChange p) l v) := by simp
    unfold roleMismatch
    rw [hsame, h]
    rfl
  exact (logged_congr hlog).2 (logged_raise ..)

end RoleMismatch

/-! BEACON_RECEIVE on a leaf in READY (R227). -/

section Beacon
variable (hleaf : isLeaf s p = true) (hstage : s.ctrl.stage = .ready)
include hleaf hstage

theorem leafListens : (isLeaf s p && s.ctrl.stage == .ready) = true := by simp [hleaf, hstage]

theorem beaconReceive_missed (h : castReceives s p = false ∨ frameRead hdr llrs = none) :
    beaconReceive p hdr llrs off s = onHubPort p badBeacon s := by
  refine (if_pos (leafListens hleaf hstage)).trans ?_
  rcases h with h | h
  · rw [h]
    rfl
  · simp only [h, ite_self]

variable (hrx : castReceives s p = true) (hread : frameRead hdr llrs = some msg)
include hrx hread

theorem beaconReceive_beacon (htyp : getU 6 1 hdr = 1) :
    beaconReceive p hdr llrs off s = goodBeacon p (getU 10 2 hdr) off msg s := by
  refine (if_pos (leafListens hleaf hstage)).trans ?_
  simp only [hrx, hread, htyp, if_true]

theorem beaconReceive_capability (htyp : getU 6 1 hdr = 2) :
    beaconReceive p hdr llrs off s = roleMismatch p (getU 6 1 msg)
      (onHubPort p (fun h => { h with good := sat64 h.good }) (onHubPort p badBeacon s)) := by
  refine (if_pos (leafListens hleaf hstage)).trans ?_
  simp only [hrx, hread, htyp, if_true]
  rfl

end Beacon

theorem hubPort_takeShift : hubPort (takeShift p s) p =
    { hubPort s p with shift := shiftOf (hubPort s p).beaconOff (hubPort s p).adj } := by
  unfold takeShift
  exact (onlyIf_apply (hubPort · p) _ rfl).trans (hubPort_same ..)

/-- A good beacon is heard before its records are acted on. -/
theorem goodBeacon_hears (slot : Nat) : ∃ v, goodBeacon p slot off msg s =
      forAll (recordActs p) (newRecords p (hubPort s p) msg) v ∧ Part.timing.same s v
    ∧ hubPort v p = { hubPort s p with
        good := sat64 (hubPort s p).good, goodRun := (hubPort s p).goodRun + 1, badRun := 0
        lock := (hubPort s p).lock || decide (3 ≤ (hubPort s p).goodRun + 1)
        slot := slot, beaconOff := off, mism := false, inSince := (hubPort v p).inSince
        keep := getU 34 2 msg, gen := min (ownGen s) (getU 32 1 msg), seen := (hubPort v p).seen
        shift := shiftOf off (hubPort s p).adj } := by
  refine ⟨takeShift p (onHubPort p _ s), rfl, by simp [takeShift], ?_⟩
  rw [hubPort_takeShift, hubPort_same]

theorem earliestBoundary_congr (h : Part.timing.same s u) : earliestBoundary u = earliestBoundary s := by
  have htc : now u = now s := congrArg Timing.tc h
  rw [earliestBoundary, htc, earliestBoundary]

/-- A leaf's port once it has taken a GRANT (R234). -/
def grantTaken (p : Nat) (rec : List Byte) (s : State) : State :=
  onHubPort p (fun h => { h with join := .idle, leafNum := getU 7 1 rec })
    (leafChange p (getU 8 2 rec) (getU 10 1 rec) true s)

theorem recordActs_grant (h : getU 0 1 rec = 2) : recordActs p rec s = finishEach 0x0403 p .ok (grantTaken p rec s) := by
  unfold recordActs
  rw [h]
  rfl

theorem hubPort_recordActs_grant (h : getU 0 1 rec = 2) : hubPort (recordActs p rec s) p = { hubPort s p with
    grants := (hubPort s p).grants ++ [(getU 8 2 rec, getU 10 1 rec, earliestBoundary s, true)]
    join := .idle, leafNum := getU 7 1 rec } := by
  rw [recordActs_grant h, hubPort_finishEach, grantTaken, hubPort_same, leafChange, hubPort_same]

/-! LEAF_GRANT_APPLY (R234). -/

/-- The leaf's port once a change is applied. -/
def grantApplied (p at_ mask cls : Nat) (rest : List (Nat × Nat × Nat × Bool)) (s : State) : State :=
  onTxPort p (fun t => { t with classes := leafClasses (txPort s p).classes (hubPort s p).owned mask cls })
    (retarget p (onHubPort p (fun h => { h with grants := rest, owned := mask, ownedCls := cls }) (clockTo at_ s)))

/-- At its boundary the first change is applied; what follows leaves the port's classes and grants, and an event ends it. -/
theorem leafGrantApply_applies {at_ mask cls b : Nat} {granted : Bool} {rest : List (Nat × Nat × Nat × Bool)}
    (hgrants : (hubPort s p).grants = (mask, cls, b, granted) :: rest) (hleaf : isLeaf s p = true)
    (hgrid : at_ % boundaryTicks = 0) (hdue : b ≤ at_) (hnow : now s ≤ at_) (hstage : s.ctrl.stage = .ready) :
    ∃ v, leafGrantApply p at_ s = onlyIf granted (raisePort 0x0401 p (natBE 2 mask ++ [byteOf cls])) v
      ∧ ∀ q : Part, q = .txp ∨ q = .hub → q.same (grantApplied p at_ mask cls rest s) v := by
  have hcond : (isLeaf s p && at_ % boundaryTicks == 0 && decide (b ≤ at_) && decide (now s ≤ at_)
      && s.ctrl.stage == .ready) = true := by simp [hleaf, hgrid, hdue, hnow, hstage]
  unfold leafGrantApply
  dsimp only
  rw [hgrants]
  refine ⟨_, if_pos hcond, fun q hq => ?_⟩
  rcases hq with rfl | rfl <;> simp [grantApplied]

theorem hubPort_grantApplied {at_ mask cls : Nat} {rest : List (Nat × Nat × Nat × Bool)} :
    hubPort (grantApplied p at_ mask cls rest s) p =
      { hubPort s p with grants := rest, owned := mask, ownedCls := cls } := by
  rw [grantApplied, hubPort_onTxPort, hubPort_retarget, hubPort_same, hubPort_clockTo]

theorem classes_grantApplied {at_ mask cls k : Nat} {rest : List (Nat × Nat × Nat × Bool)} (hk : k < 16) :
    (txPort (grantApplied p at_ mask cls rest s) p).classes.getD k 0 = if bitOf mask k then cls
      else if bitOf (hubPort s p).owned k then 0 else (txPort s p).classes.getD k 0 := by
  rw [grantApplied, txPort_same]
  exact getD_map_range _ hk

/-! CAPABILITY_RECEIVE in the exchange (R239, R240). -/

/-- A port that has counted a good capability frame, the `n`th in a row and the `a`th acknowledged. -/
def countedFrame (n a : Nat) (h : HubPort) : HubPort :=
  { h with good := sat64 h.good, goodRun := n, ackRun := a, exch := if 3 ≤ n then 2 else h.exch }

theorem isFollower_countedFrame {n a : Nat} : isFollower (onHubPort p (countedFrame n a) s) p = isFollower s p := by
  simp only [isFollower, hubPort_same]
  rfl

section Capability
variable (hrole : (hubPort s p).role = .p2p) (hexch : (hubPort s p).exch ≠ 0) (hrx : castReceives s p = true)
  (hdec : decides s = true)
include hrole hexch hrx hdec

theorem exchangeListens : ((hubPort s p).role == .p2p && (hubPort s p).exch != 0 && castReceives s p && decides s) = true := by
  simp [hrole, hexch, hrx, hdec]

theorem capabilityReceive_bad (hread : frameRead hdr llrs = none) :
    capabilityReceive p hdr llrs s = onHubPort p (fun h => { h with goodRun := 0, ackRun := 0 }) s := by
  refine (if_pos (exchangeListens hrole hexch hrx hdec)).trans ?_
  simp only [hread]

theorem capabilityReceive_record (hread : frameRead hdr llrs = some msg) (htyp : getU 6 1 hdr = 2) :
    capabilityReceive p hdr llrs s = capabilityActs p (bitOf (getU 7 1 hdr) 0) (padTo 32 msg) s := by
  refine (if_pos (exchangeListens hrole hexch hrx hdec)).trans ?_
  simp only [hread, htyp, if_true]

theorem capabilityReceive_beacon (hread : frameRead hdr llrs = some msg) (htyp : getU 6 1 hdr = 1) :
    capabilityReceive p hdr llrs s = roleMismatch p 1 (onHubPort p (fun h => { h with good := sat64 h.good }) s) := by
  refine (if_pos (exchangeListens hrole hexch hrx hdec)).trans ?_
  simp only [hread, htyp, if_true]
  rfl

end Capability

section CapabilityActs
variable {ack : Bool}

theorem capabilityActs_otherRole (h : getU 6 1 rec ≠ 0) : ∃ n a, capabilityActs p ack rec s =
    roleMismatch p (getU 6 1 rec) (onHubPort p (fun h => { h with far := rec }) (onHubPort p (countedFrame n a) s)) :=
  ⟨_, _, if_pos h⟩

variable (hfar : getU 6 1 rec = 0)
include hfar

theorem capabilityActs_counts (h : (hubPort s p).exch = 1) : ∃ a, capabilityActs p ack rec s =
    onHubPort p (countedFrame ((hubPort s p).goodRun + 1) a) s := by
  refine ⟨if ack then (hubPort s p).ackRun + 1 else 0, (if_neg (not_not_intro hfar)).trans ?_⟩
  rw [h]
  rfl

theorem capabilityActs_completes (h : (hubPort s p).exch = 2) (hacks : 2 ≤ (hubPort s p).ackRun) (hack : ack = true) :
    ∃ n a, capabilityActs p ack rec s = exchangeDone p rec (onHubPort p (countedFrame n a) s) := by
  refine ⟨(hubPort s p).goodRun + 1, (hubPort s p).ackRun + 1, (if_neg (not_not_intro hfar)).trans ?_⟩
  have hthree : ((hubPort s p).exch == 2 && decide (3 ≤ (hubPort s p).ackRun + 1)) = true := by simp [h, hacks]
  rw [hack]
  exact if_pos hthree

end CapabilityActs

/-! The end of the exchange (R239). -/

/-- The port that has taken the far end's record. -/
def linkedPort (s : State) (rec : List Byte) (h : HubPort) : HubPort :=
  { h with exch := 0, gen := min (ownGen s) (getU 0 1 rec), far := rec }

theorem same_hub_onHubPort {f : HubPort → HubPort} (h : Part.hub.same s u) :
    Part.hub.same (onHubPort p f s) (onHubPort p f u) := by
  simp_all [Part.same, onHubPort]

/-- The exchange ends: the port has the record, LINK_UP is raised, and both ends being followers is one event more. -/
theorem exchangeDone_links : ∃ (v : State) (f : RxPort → RxPort), exchangeDone p rec s =
      onlyIf (isFollower s p && getU 5 1 rec == 1) (raisePort 0x020B p [byteOf p])
        (onRxPort p f (raisePort 0x0480 p [byteOf (min (ownGen s) (getU 0 1 rec))] v))
    ∧ Part.hub.same (onHubPort p (linkedPort s rec) s) v := by
  unfold exchangeDone
  dsimp only
  refine ⟨_, _, rfl, ?_⟩
  rw [same_forAll _ _ fun k v => same_setFarClass _ _ (by decide), same_onlyIf]
  split
  · split
    next t ht =>
      refine (same_placeChange ht (by decide)).2 (same_hub_onHubPort ?_)
      split <;> simp
    next => exact Part.same_refl ..
  · exact Part.same_refl ..

theorem hubPort_exchangeDone : hubPort (exchangeDone p rec s) p = linkedPort s rec (hubPort s p) := by
  obtain ⟨v, f, hdone, hhub⟩ := exchangeDone_links (p := p) (rec := rec) (s := s)
  rw [hdone, onlyIf_apply (hubPort · p) _ (hubPort_raisePort ..),
    hubPort_congr (s := v) (by simp), hubPort_congr hhub, hubPort_same]

theorem logged_exchangeDone (hlead : isFollower s p = false) :
    Logged 0x0480 p [byteOf (min (ownGen s) (getU 0 1 rec))] (exchangeDone p rec s) := by
  obtain ⟨v, f, hdone, _⟩ := exchangeDone_links (p := p) (rec := rec) (s := s)
  rw [hdone, hlead]
  exact logged_raise ..

/-! Each frame as the statement has it. -/

section Frames
variable (hport : okPort p = true) (hlen : hdr.length = 16)
include hport hlen

theorem exec_beaconReceive : exec (.beaconReceive p hdr llrs off) s = .next (beaconReceive p hdr llrs off s) :=
  (exec_need rfl hport).trans (by rw [padTo_self hlen])

theorem exec_capabilityReceive : exec (.capabilityReceive p hdr llrs) s = .next (capabilityReceive p hdr llrs s) :=
  (exec_need rfl hport).trans (by rw [padTo_self hlen])

end Frames

/-- 32 frames in a row that are not good lose the lock (R227). -/
theorem exec_beaconLockLoss (hport : okPort p = true) (hleaf : isLeaf s p = true) (hlock : (hubPort s p).lock = true)
    (hbad : 32 ≤ (hubPort s p).badRun) : exec (.beaconLockLoss p) s =
      .next (raisePort 0x0406 p [byteOf p] (onHubPort p (fun h => { h with lock := false, inSince := none }) s)) := by
  have hcond : (isLeaf s p && (hubPort s p).lock && decide (32 ≤ (hubPort s p).badRun)) = true := by
    simp [hleaf, hlock, hbad]
  exact (exec_need rfl hport).trans (by rw [hcond, onlyIf_true])

/-! Joining and leaving (R231, R232, R236). -/

section Bursts
variable {k : Nat} (hport : okPort p = true) (hmay : mayBurst s p = true)
include hport hmay

theorem exec_joinSend (hk : k < (hubPort s p).window)
    (hjoin : (hubPort s p).join = .backoff ∨ ((hubPort s p).join = .bringUp ∧ beaconSettled s p = true)) :
    exec (.joinSend p k) s = .next (onHubPort p (fun h => { h with
      sent := burstFrame p 3 h.slot (capRecord s p), join := .waitAck }) s) := by
  have hcond : (mayBurst s p && decide (k < (hubPort s p).window) && ((hubPort s p).join == .backoff
      || ((hubPort s p).join == .bringUp && beaconSettled s p))) = true := by simp [hmay, hk, hjoin]
  exact (exec_need rfl hport).trans (congrArg _ (if_pos hcond))

theorem exec_keepaliveSend (hk : k < 8) (hnum : (hubPort s p).leafNum ≠ 0xFF) : exec (.keepaliveSend p k) s =
    .next (onHubPort p (fun h => { h with sent := burstFrame p 4 h.slot (keepMessage s p) }) s) := by
  have hcond : (mayBurst s p && decide (k < 8) && (hubPort s p).leafNum != 0xFF) = true := by simp [hmay, hk, hnum]
  exact (exec_need rfl hport).trans (by rw [hcond, onlyIf_true])

theorem runs_leaveSend (hk : k < (hubPort s p).window) (harmed : 0 < (hubPort s p).leaves3) :
    Runs (.leaveSend p k) s (fun t => (hubPort t p).sent = burstFrame p 5 (hubPort s p).slot []
      ∧ (hubPort t p).leaves3 = (hubPort s p).leaves3 - 1
      ∧ ((hubPort s p).leaves3 = 1 → (hubPort t p).leafNum = 0xFF)) := by
  have hcond : (mayBurst s p && decide (k < (hubPort s p).window) && decide (0 < (hubPort s p).leaves3)) = true := by
    simp [hmay, hk, harmed]
  refine runs_of_next (exec_need rfl hport) (if_pos hcond) ?_
  rw [hubPort_same]
  exact ⟨rfl, rfl, fun hlast => if_pos hlast⟩

end Bursts

section AckTimeout
variable (hport : okPort p = true) (hwait : (hubPort s p).join = .waitAck) (hdec : decides s = true)
include hport hwait hdec

theorem runs_ackTimeout_last (htries : (hubPort s p).tries + 1 = 16) :
    Runs (.ackTimeout p) s (fun t => (hubPort t p).join = .waitRetry ∧ (hubPort t p).tries = 0) := by
  refine runs_of_next (exec_need rfl hport) ((if_pos ⟨hwait, hdec⟩).trans (if_pos htries)) ?_
  rw [onlyIf_apply (hubPort · p) _ (hubPort_finishEach ..), hubPort_raisePort, hubPort_same]
  exact ⟨rfl, rfl⟩

theorem runs_ackTimeout_again (htries : (hubPort s p).tries + 1 ≠ 16) :
    Runs (.ackTimeout p) s (fun t => (hubPort t p).join = .backoff ∧ (hubPort t p).tries = (hubPort s p).tries + 1
      ∧ (hubPort t p).window = min (2 * (hubPort s p).window) 256) := by
  refine runs_of_next (exec_need rfl hport) ((if_pos ⟨hwait, hdec⟩).trans (if_neg htries)) ?_
  rw [hubPort_same]
  exact ⟨rfl, rfl, rfl⟩

end AckTimeout

/-- Settles O26: what each frame, timer and boundary makes of a leaf's casting state. -/
theorem leafJoinsAndFollows : Obligations.LeafJoinsAndFollows := by
  unfold Obligations.LeafJoinsAndFollows
  refine ⟨fun p off hdr llrs s hport hleaf hstage hlen => ⟨fun hmiss => ?missed, fun msg hrx hread =>
      ⟨fun htyp hnone => ?beacon, fun r htyp hone hgrant => ?grant, fun htyp => ?otherFrame⟩⟩,
    fun p s hport hleaf hlock hbad => ?lockLoss,
    fun p k s hport hmay => ⟨fun hk hjoin => ?join, fun hk hnum => ?keepalive, fun hk harmed => ?leave⟩,
    fun p s hport hwait hdec => ?ackTimeout,
    fun p s hport hwait => ?retry,
    fun p at_ mask cls b granted rest s hport hgrants hleaf hgrid hdue hnow hstage => ?apply,
    fun p hdr llrs s hport hrole hexch hrx hdec hlen => ⟨fun hread => ?bad, fun msg rec hread hrec htyp =>
      ⟨fun hfar hone => ?counts, fun hfar htwo hacks hack => ?completes, fun hfar => ?otherRole⟩,
      fun msg hread htyp => ?fromHub⟩⟩
  case missed =>
    refine runs_of_next (exec_beaconReceive hport hlen) (beaconReceive_missed hleaf hstage hmiss) ?_
    rw [hubPort_same]
    exact ⟨rfl, rfl⟩
  case beacon =>
    obtain ⟨v, hheard, _, hhub⟩ := goodBeacon_hears (s := s) (p := p) (off := off) (msg := msg) (getU 10 2 hdr)
    rw [hnone] at hheard
    refine runs_of_next (exec_beaconReceive hport hlen)
      ((beaconReceive_beacon hleaf hstage hrx hread htyp).trans hheard) (t := v) ?_
    have hthird (n : Nat) : 3 ≤ n + 1 ↔ 2 ≤ n := by omega
    rw [hhub]
    exact ⟨rfl, rfl, rfl, by simp [hthird], rfl, rfl, rfl, rfl⟩
  case grant =>
    obtain ⟨v, hheard, htime, hhub⟩ := goodBeacon_hears (s := s) (p := p) (off := off) (msg := msg) (getU 10 2 hdr)
    rw [hone] at hheard
    refine runs_of_next (exec_beaconReceive hport hlen)
      ((beaconReceive_beacon hleaf hstage hrx hread htyp).trans hheard) (t := recordActs p r v) ?_
    rw [hubPort_recordActs_grant hgrant, earliestBoundary_congr htime, hhub]
    exact ⟨rfl, rfl⟩
  case otherFrame =>
    refine runs_of_next (exec_beaconReceive hport hlen) (beaconReceive_capability hleaf hstage hrx hread htyp)
      ⟨?_, ?_, fun hfirst => logged_roleMismatch _ ?_⟩
    · rw [hubPort_roleMismatch]
    · rw [hubPort_roleMismatch, hubPort_same, hubPort_same]
      rfl
    · rw [hubPort_same, hubPort_same]
      exact hfirst
  case lockLoss =>
    refine runs_of_exec (exec_beaconLockLoss hport hleaf hlock hbad) ⟨?_, logged_raise ..⟩
    rw [hubPort_raisePort, hubPort_same]
  case join =>
    refine runs_of_exec (exec_joinSend hport hmay hk hjoin) ?_
    rw [hubPort_same]
    exact ⟨rfl, rfl⟩
  case keepalive =>
    refine runs_of_exec (exec_keepaliveSend hport hmay hk hnum) ?_
    rw [hubPort_same]
  case leave => exact runs_leaveSend hport hmay hk harmed
  case ackTimeout =>
    by_cases htries : (hubPort s p).tries + 1 = 16
    · obtain ⟨t, hrun, hlast⟩ := runs_ackTimeout_last hport hwait hdec htries
      exact runs_of_exec hrun ⟨fun _ => hlast, fun h => absurd htries h⟩
    · obtain ⟨t, hrun, hagain⟩ := runs_ackTimeout_again hport hwait hdec htries
      exact runs_of_exec hrun ⟨fun h => absurd h htries, fun _ => hagain⟩
  case retry =>
    have hcond : ((hubPort s p).join == .waitRetry) = true := by simp [hwait]
    refine runs_of_next (exec_need rfl hport) (by rw [hcond, onlyIf_true]) ?_
    rw [hubPort_same]
    exact ⟨rfl, rfl, rfl⟩
  case apply =>
    obtain ⟨v, happly, hsame⟩ := leafGrantApply_applies hgrants hleaf hgrid hdue hnow hstage
    have hhub := hubPort_congr (hsame .hub (.inr rfl)) p
    have htx := txPort_congr (hsame .txp (.inl rfl)) p
    rw [hubPort_grantApplied] at hhub
    refine runs_of_next (exec_need rfl hport) happly ?_
    rw [onlyIf_apply (hubPort · p) _ (hubPort_raisePort ..), onlyIf_apply (txPort · p) _ rfl, hhub, htx]
    refine ⟨rfl, rfl, rfl, fun k hk => classes_grantApplied hk, ?_⟩
    rintro rfl
    exact logged_raise ..
  case bad =>
    refine runs_of_next (exec_capabilityReceive hport hlen) (capabilityReceive_bad hrole hexch hrx hdec hread) ?_
    rw [hubPort_same]
    exact ⟨rfl, rfl⟩
  case counts =>
    obtain ⟨a, hcount⟩ := capabilityActs_counts (ack := bitOf (getU 7 1 hdr) 0) hfar hone
    subst hrec
    refine runs_of_next (exec_capabilityReceive hport hlen)
      ((capabilityReceive_record hrole hexch hrx hdec hread htyp).trans hcount) ?_
    have hthird : 3 ≤ (hubPort s p).goodRun + 1 ↔ 2 ≤ (hubPort s p).goodRun := by omega
    rw [hubPort_same]
    exact ⟨rfl, by simp only [countedFrame, hthird, hone]⟩
  case completes =>
    obtain ⟨n, a, hdone⟩ := capabilityActs_completes hfar htwo hacks hack
    subst hrec
    refine runs_of_next (exec_capabilityReceive hport hlen)
      ((capabilityReceive_record hrole hexch hrx hdec hread htyp).trans hdone) ?_
    rw [hubPort_exchangeDone, hubPort_same]
    exact ⟨rfl, rfl, rfl, fun hlead => logged_exchangeDone (isFollower_countedFrame.trans hlead)⟩
  case otherRole =>
    obtain ⟨n, a, hother⟩ := capabilityActs_otherRole (s := s) (p := p) (ack := bitOf (getU 7 1 hdr) 0) hfar
    subst hrec
    refine runs_of_next (exec_capabilityReceive hport hlen)
      ((capabilityReceive_record hrole hexch hrx hdec hread htyp).trans hother) ⟨?_, ?_, fun hfirst => logged_roleMismatch _ ?_⟩
    · rw [hubPort_roleMismatch]
    · rw [hubPort_roleMismatch]
    · rw [hubPort_same, hubPort_same]
      exact hfirst
  case fromHub =>
    refine runs_of_next (exec_capabilityReceive hport hlen) (capabilityReceive_beacon hrole hexch hrx hdec hread htyp)
      ⟨?_, ?_, fun hfirst => logged_roleMismatch _ ?_⟩
    · rw [hubPort_roleMismatch]
    · rw [hubPort_roleMismatch]
    · rw [hubPort_same]
      exact hfirst

end Sys2Proof.Machine
end

section
/-! SUPPORT and PROOF of O27: the hub and cast commands (R215, R216, R221, R229, R231, R233, R234, R236/07). -/
namespace Sys2Proof.Machine

variable {s t u : State} {p n : Nat} {r : Req}

/-- An accepted command answers with its reply's code, and the rest is what its reply leaves. -/
theorem runs_answers {c : Instr} {h : Shape} {body : Req → State → Reply} {mb : Nat} {a : Reply} {P : State → Prop}
    (acc : Accepted h mb s) (hc : exec c s = mailbox h body mb s) (ha : body (requestOf s mb) s = a)
    (hp : P (respond (requestOf s mb) a)) : Runs c s (fun t => AnsweredWith a.code mb t ∧ P t) :=
  runs_mailbox acc hc (by rw [ha]; exact ⟨answered_of_accepted acc rfl, hp⟩)

theorem leafOf_respond (a : Reply) : leafOf (respond r a) p n = leafOf a.st p n :=
  leafOf_congr (congrArg HubPort.leaves (hubPort_respond ..)) n

theorem txPort_onRxPort (k : Nat) (f : RxPort → RxPort) (q : Nat) : txPort (onRxPort k f s) q = txPort s q := rfl

/-! hub.role (R216). -/

/-- The role that a number asks for. -/
def askedRole (k : Nat) : Role := if k = 0 then .p2p else if k = 1 then .hub else .leaf

theorem roleNum_askedRole {k : Nat} (h : k ≤ 2) : roleNum (askedRole k) = k := by
  match k, h with
  | 0, _ => rfl
  | 1, _ => rfl
  | 2, _ => rfl

theorem changes_forAll_dropChange {l : List FormatChange} (h : (txPort s p).changes = l) :
    (txPort (forAll (dropChange p) l s) p).changes = [] := by
  induction l generalizing s with
  | nil => exact h
  | cons c l ih =>
    refine ih (s := dropChange p c s) ?_
    rw [dropChange, txPort_same]
    exact (congrArg (List.erase · c) h).trans (List.erase_cons_head ..)

theorem far_onRxSc_dark {sc : Nat} (k : Nat) (h : (rxSc s sc).far = 0) :
    (rxSc (onRxSc k (fun x => { x with far := 0 }) s) sc).far = 0 := by
  by_cases hk : sc = k
  · subst hk
    rw [rxSc_same]
  · rw [rxSc_other _ _ hk, h]

theorem far_forAll_dark {l : List Nat} {sc : Nat} (h : sc ∈ l) :
    (rxSc (forAll (fun sc => onRxSc sc (fun x => { x with far := 0 })) l s) sc).far = 0 := by
  induction l generalizing s with
  | nil => cases h
  | cons k l ih =>
    rcases List.mem_cons.1 h with rfl | hl
    · exact forAll_keeps (P := fun u => (rxSc u sc).far = 0) _ l (fun k u => far_onRxSc_dark k) _ (by rw [rxSc_same])
    · exact ih hl

/-- A port in a new role: what it had settled is kept, nothing else. -/
def freshPort (new : Role) (h : HubPort) : HubPort :=
  { ({} : HubPort) with role := new, thr := h.thr, level := h.level, keep := h.keep, ackT := h.ackT }

/-- A port whose changes are void, dark in both directions. -/
def unlitPort (p : Nat) (changes : List FormatChange) (s : State) : State :=
  forAll (fun sc => onRxSc sc (fun x => { x with far := 0 })) (portScs p)
    (onTxPort p (fun t => { t with classes := List.replicate 16 0 }) (forAll (dropChange p) changes s))

theorem unlitPort_dark {l : List FormatChange} (h : (txPort s p).changes = l) :
    (txPort (unlitPort p l s) p).changes = []
      ∧ ∀ k, k < 16 → (txPort (unlitPort p l s) p).classes.getD k 0 = 0 ∧ (rxSc (unlitPort p l s) (16 * p + k)).far = 0 := by
  have hlight (v : State) : txPort (forAll (fun sc => onRxSc sc (fun x => { x with far := 0 })) (portScs p) v) p = txPort v p :=
    txPort_congr (by simp) p
  rw [unlitPort, hlight, txPort_same]
  refine ⟨changes_forAll_dropChange h, fun k hk => ⟨List.getD_replicate _ hk, far_forAll_dark ?_⟩⟩
  exact List.mem_map_of_mem (List.mem_range.2 hk)

theorem hubPort_unlitPort (l : List FormatChange) : hubPort (unlitPort p l s) p = hubPort s p :=
  hubPort_congr (by simp [unlitPort]) p

/-- The state of a port in a new role (R216). -/
def newRole (p : Nat) (new : Role) (s : State) : State :=
  unlitPort p (txPort s p).changes (onHubPort p (freshPort new) (endJoin p .denied s))

theorem hubPort_newRole (new : Role) : hubPort (newRole p new s) p = freshPort new (hubPort (endJoin p .denied s) p) := by
  rw [newRole, hubPort_unlitPort, hubPort_same]

theorem newRole_dark (new : Role) : (txPort (newRole p new s) p).changes = []
    ∧ ∀ k, k < 16 → (txPort (newRole p new s) p).classes.getD k 0 = 0 ∧ (rxSc (newRole p new s) (16 * p + k)).far = 0 :=
  unlitPort_dark (congrArg TxPort.changes (txPort_congr (by simp) p))

theorem hubRole_sets (hport : okPort (r.u 0 1) = true) (hrole : r.u 1 1 ≤ 2) (hdark : portLit s (r.u 0 1) = false)
    (hnew : roleNum (hubPort s (r.u 0 1)).role ≠ r.u 1 1) : hubRole r s =
      okay (onRxPort (r.u 0 1) (fun x => { x with conflict := false, ann := [] }) (newRole (r.u 0 1) (askedRole (r.u 1 1)) s)) := by
  have hother : (hubPort s (r.u 0 1)).role ≠ askedRole (r.u 1 1) := fun h => hnew (by rw [h, roleNum_askedRole hrole])
  have hunlit : ¬ portLit s (r.u 0 1) = true := by simp [hdark]
  exact (onPort_ok hport).trans ((if_neg hrole.not_gt).trans ((if_neg hunlit).trans (if_neg hother)))

/-- An accepted hub.role makes the port fresh and dark. -/
theorem hubRole_freshens (hport : okPort (r.u 0 1) = true) (hrole : r.u 1 1 ≤ 2) (hdark : portLit s (r.u 0 1) = false)
    (hnew : roleNum (hubPort s (r.u 0 1)).role ≠ r.u 1 1) : ∃ v h, hubRole r s = okay v
      ∧ hubPort v (r.u 0 1) = freshPort (askedRole (r.u 1 1)) h ∧ (txPort v (r.u 0 1)).changes = []
      ∧ ∀ k, k < 16 → (txPort v (r.u 0 1)).classes.getD k 0 = 0 ∧ (rxSc v (16 * r.u 0 1 + k)).far = 0 := by
  refine ⟨_, _, hubRole_sets hport hrole hdark hnew, (hubPort_onRxPort ..).trans (hubPort_newRole _), ?_⟩
  obtain ⟨hvoid, hunlit⟩ := newRole_dark (s := s) (p := r.u 0 1) (askedRole (r.u 1 1))
  rw [txPort_onRxPort]
  refine ⟨hvoid, fun k hk => ?_⟩
  rw [rxSc_onRxPort]
  exact hunlit k hk

/-! hub.grant and hub.release (R233, R234, R236). -/

section Pushed
variable {typ ident num : Nat} {rest : List Byte} {f : Leaf → Leaf} (h : Part.hub.same s u)
include h

/-- A leaf is changed and a record goes out for it, after something that leaves the casting state. -/
theorem leafOf_pushed : leafOf (pushRecord p typ ident num rest (onLeaf p n f u)) p n = f (leafOf s p n) := by
  rw [leafOf_pushRecord, leafOf_onLeaf_same, leafOf_congr (congrArg HubPort.leaves (hubPort_congr h p))]

theorem recs_pushed : (hubPort (pushRecord p typ ident num rest (onLeaf p n f u)) p).recs
    = (hubPort s p).recs ++ [(byteOf typ :: natBE 6 ident ++ [byteOf num] ++ padTo 8 rest, 4)] := by
  rw [recs_pushRecord, recs_onLeaf, hubPort_congr h]

end Pushed

theorem tcBytes10_length (b : Nat) : (tcBytes10 b).length = 10 := by simp [tcBytes10, natBE_length]

theorem hubGrant_grants {b w : Nat} (hport : okPort (r.u 0 1) = true) (hn : r.u 1 1 ≤ 15) (hlo : 2 ≤ r.u 4 1)
    (hhi : r.u 4 1 ≤ 6) (hmask : r.u 2 2 ≠ 0) (hhub : isHub s (r.u 0 1) = true)
    (hknown : (leafOf s (r.u 0 1) (r.u 1 1)).state ≠ 0)
    (hcls : bitOf (leafOf s (r.u 0 1) (r.u 1 1)).classes (r.u 4 1) = true)
    (howner : ∀ k, k < 16 → bitOf (r.u 2 2) k = true →
      ownerOf s (r.u 0 1) k = none ∨ ownerOf s (r.u 0 1) k = some (r.u 1 1))
    (hplace : mergeOrPlace (r.u 0 1) (r.u 2 2 ||| (leafOf s (r.u 0 1) (r.u 1 1)).mask) (grantClasses (r.u 2 2) (r.u 4 1))
      (earliestBoundary s) r.tag s = some (b, w, u)) :
    hubGrant r s = okWith (tcBytes10 b ++ [0, 0])
      (pushRecord (r.u 0 1) 2 (leafOf s (r.u 0 1) (r.u 1 1)).ident (r.u 1 1) (natBE 2 (r.u 2 2) ++ [byteOf (r.u 4 1)])
        (onLeaf (r.u 0 1) (r.u 1 1) (fun l => { l with
          mask := r.u 2 2, cls := r.u 4 1, state := if l.state = 3 then 3 else 2 }) u)) := by
  have hrange : ¬ (15 < r.u 1 1 ∨ r.u 4 1 < 2 ∨ 6 < r.u 4 1 ∨ r.u 2 2 = 0) := by omega
  have hfree : ((maskList 16 (r.u 2 2)).any fun k => (ownerOf s (r.u 0 1) k).any (· != r.u 1 1)) = false := by
    refine List.any_eq_false.2 fun k hk => ?_
    obtain ⟨hlt, hbit⟩ := mem_maskList.1 hk
    rcases howner k hlt hbit with h | h <;> simp [h]
  have hgranted : ¬ (isHub s (r.u 0 1) = false ∨ (leafOf s (r.u 0 1) (r.u 1 1)).state = 0
      ∨ supports (leafOf s (r.u 0 1) (r.u 1 1)).classes (r.u 4 1) = false
      ∨ (maskList 16 (r.u 2 2)).any (fun k => (ownerOf s (r.u 0 1) k).any (· != r.u 1 1)) = true) := by
    simp [hhub, hknown, supports, hcls, hfree]
  refine (onPort_ok hport).trans ((if_neg hrange).trans ((if_neg hgranted).trans ?_))
  simp only [hplace]

/-- The subcarriers of a release go dark in a change, or there are none; the casting state is not touched. -/
theorem release_darkens {mask tag : Nat} (h : mask = 0 ∨ (darken p mask tag s).isSome = true) :
    ∃ v, (if mask = 0 then some s else darken p mask tag s) = some v ∧ Part.hub.same s v := by
  by_cases hmask : mask = 0
  · exact ⟨s, if_pos hmask, Part.same_refl ..⟩
  · obtain ⟨v, hv⟩ := Option.isSome_iff_exists.1 (h.resolve_left hmask)
    exact ⟨v, (if_neg hmask).trans hv, (same_darken hv (by decide)).2 (Part.same_refl ..)⟩

/-- A leaf that subcarriers of `mask` are taken from. -/
def releasedLeaf (mask : Nat) (l : Leaf) : Leaf :=
  { l with mask := l.mask ^^^ mask, state := if l.mask = mask ∧ l.state = 2 then 1 else l.state }

section Release
variable (hport : okPort (r.u 0 1) = true) (hhub : isHub s (r.u 0 1) = true)
  (hknown : (leafOf s (r.u 0 1) (r.u 1 1)).state ≠ 0)
include hport hhub hknown

theorem hubRelease_whole (hwhole : r.u 2 2 = 0) (hdark : (leafOf s (r.u 0 1) (r.u 1 1)).mask = 0
      ∨ (darken (r.u 0 1) (leafOf s (r.u 0 1) (r.u 1 1)).mask r.tag s).isSome = true) :
    ∃ v, hubRelease r s = okay (pushRecord (r.u 0 1) 5 (leafOf s (r.u 0 1) (r.u 1 1)).ident 0xFF [4]
        (onLeaf (r.u 0 1) (r.u 1 1) (fun _ => {}) v)) ∧ Part.hub.same s v := by
  obtain ⟨v, hv, hsame⟩ := release_darkens hdark
  refine ⟨v, (onPort_ok hport).trans ((if_neg (by simp [hhub, hknown])).trans ?_), hsame⟩
  simp only [hwhole, if_true, hv]

theorem hubRelease_part (hpart : r.u 2 2 ≠ 0)
    (hdark : (darken (r.u 0 1) (r.u 2 2 &&& (leafOf s (r.u 0 1) (r.u 1 1)).mask) r.tag s).isSome = true) :
    ∃ v, hubRelease r s = okay (pushRecord (r.u 0 1) 4 (leafOf s (r.u 0 1) (r.u 1 1)).ident (r.u 1 1) (natBE 2 (r.u 2 2))
        (onLeaf (r.u 0 1) (r.u 1 1) (releasedLeaf (r.u 2 2 &&& (leafOf s (r.u 0 1) (r.u 1 1)).mask)) v))
      ∧ Part.hub.same s v := by
  obtain ⟨v, hv, hsame⟩ := release_darkens (.inr hdark)
  refine ⟨v, (onPort_ok hport).trans ((if_neg (by simp [hhub, hknown])).trans ?_), hsame⟩
  simp only [hpart, if_false, hv]
  rfl

end Release

/-! hub.join and hub.leave (R231, R236). -/

/-- A joining leaf port: the PIC bring-up comes first, then the window of 8. -/
def joiningPort (h : HubPort) : HubPort := { h with join := .bringUp, window := 8, tries := 0, rounds := 0 }

theorem hubJoin_starts {lo : Int} (hport : okPort (r.u 0 1) = true) (hleaf : isLeaf s (r.u 0 1) = true)
    (hrx : receiving s (r.u 0 1) = true) (hfeed : feedGood s (r.u 0 1) lo = true) :
    ∃ v, Part.txp.same s v ∧ hubJoin lo r s = { defer r (r.u 0 1) s with
      st := onHubPort (r.u 0 1) joiningPort (onlyIf (!transmitting s (r.u 0 1)) (startTx (r.u 0 1) lo) v) } :=
  ⟨(defer r (r.u 0 1) s).st, by simp [defer], (onPort_ok hport).trans (if_neg (by simp [hleaf, hrx, hfeed]))⟩

/-- Either the transmitter was on its way already, or it is started. -/
theorem transmitting_startTx {lo : Int} (h : Part.txp.same s u) :
    transmitting (onlyIf (!transmitting s p) (startTx p lo) u) p = true := by
  cases ht : transmitting s p with
  | true =>
    rw [transmitting, Bool.not_true, onlyIf_false, txPort_congr h]
    exact ht
  | false =>
    rw [transmitting, Bool.not_false, onlyIf_true, txPort_startTx]
    rfl

theorem hubLeave_arms (hport : okPort (r.u 0 1) = true) (hleaf : isLeaf s (r.u 0 1) = true) : hubLeave r s =
    okay (onHubPort (r.u 0 1) (fun h => { h with leaves3 := 3, window := 8 }) (endJoin (r.u 0 1) .denied s)) :=
  (onPort_ok hport).trans (if_neg (by simp [hleaf]))

/-! hub.status (R215). -/

section Entry
variable {manual : Bool} {l : Leaf}

theorem leafEntry_length : (leafEntry manual l).length = 24 := by
  simp [leafEntry, natBE_length, intBE_length]

theorem leafEntry_ident : getU 0 6 (leafEntry manual l) = l.ident % 2 ^ 48 := by
  simp only [leafEntry, List.append_assoc]
  rw [getU_append_left (natBE_length ..).ge]
  exact getU_natBE ..

theorem leafEntry_state : getU 6 1 (leafEntry manual l) = l.state % 256 := by
  simp only [leafEntry, List.append_assoc]
  rw [getU_append_right (natBE_length ..).le, natBE_length, List.cons_append, getU_cons_zero, byteOf_toNat]

theorem leafEntry_mask : getU 8 2 (leafEntry manual l) = l.mask % 65536 := by
  simp only [leafEntry, List.append_assoc]
  rw [getU_append_right (by simp [natBE_length]), getU_append_right (by simp [natBE_length]),
    getU_append_left (by simp [natBE_length]), natBE_length]
  exact getU_natBE ..

end Entry

/-- hub.status of a port that is no leaf: the entries of eight leaves. -/
theorem hubStatus_leaves (hport : okPort (r.u 0 1) = true) (hfirst : r.u 1 1 = 0 ∨ r.u 1 1 = 8)
    (hnot : isLeaf s (r.u 0 1) = false) : hubStatus r s = okWith ((List.range 8).flatMap fun i =>
      leafEntry (rxPort s (r.u 0 1)).manual (leafOf s (r.u 0 1) (r.u 1 1 + i))) s :=
  (onPort_ok hport).trans ((if_neg (by omega)).trans (if_neg (by simp [hnot])))

theorem hubStatus_own (hport : okPort (r.u 0 1) = true) (hfirst : r.u 1 1 = 0) (hleaf : isLeaf s (r.u 0 1) = true) :
    hubStatus r s = okWith (leafEntry true (ownEntry (r.u 0 1) (hubPort s (r.u 0 1))) ++ zeros 168) s :=
  (onPort_ok hport).trans ((if_neg (by omega)).trans ((if_pos hleaf).trans (by rw [if_pos hfirst])))

/-- A field of the entry of one leaf, in the response of eight. -/
theorem resp_entry {g : Nat → Leaf} {manual : Bool} {i j k : Nat} (hi : i < 8) (hj : j + k ≤ 24) :
    resp (respond r (okWith ((List.range 8).flatMap fun i => leafEntry manual (g i)) s)) r.mb (24 * i + j) k
      = getU j k (leafEntry manual (g i)) := by
  have hlen (i : Nat) : (leafEntry manual (g i)).length = 24 := leafEntry_length
  rw [resp_respond]
  · rw [okWith, getU_flatMap_range hlen hi hj]
  · simp only [okWith, List.length_flatMap, hlen, List.map_const', List.length_range, List.sum_replicate, smul_eq_mul]
    omega

theorem resp_ownEntry {l : Leaf} {j k : Nat} (hj : j + k ≤ 24) :
    resp (respond r (okWith (leafEntry true l ++ zeros 168) s)) r.mb j k = getU j k (leafEntry true l) := by
  have hin : j + k ≤ (leafEntry true l).length := by rwa [leafEntry_length]
  exact (resp_respond _ _ (hin.trans (by simp [okWith]))).trans (getU_append_left hin)

/-- A casting identity is one of 48 bits (R224). -/
theorem castIdent_lt (h : okPort p = true) : castIdent p < 2 ^ 48 := by
  have hp : p < 6 := by simpa [okPort] using h
  rw [castIdent]
  omega

/-! cast.config and cast.status (R221, R229). -/

/-- A port with the casting settings of a request; a leaf keeps the keepalive interval of its hub. -/
def settledPort (r : Req) (h : HubPort) : HubPort :=
  { h with thr := r.u 1 1, level := r.i 2 2, ackT := r.u 6 2, keep := if h.role = .leaf then h.keep else r.u 4 2 }

theorem castConfig_stores (hport : okPort (r.u 0 1) = true)
    (hrange : ¬ (r.u 1 1 < 30 ∨ 90 < r.u 1 1 ∨ r.i 2 2 < -200 ∨ 0 < r.i 2 2 ∨ r.u 4 2 < 10 ∨ 1000 < r.u 4 2
      ∨ r.u 6 2 < 2 ∨ 200 < r.u 6 2)) :
    ∃ v, castConfig r s = okay v ∧ hubPort v (r.u 0 1) = settledPort r (hubPort s (r.u 0 1)) := by
  refine ⟨_, (onPort_ok hport).trans (if_neg hrange), ?_⟩
  rw [hubPort_retarget, hubPort_same]
  rfl

/-- The counts of cast.status, eight bytes each. -/
def castCounts (h : HubPort) : List Nat :=
  [h.delivered, h.mirages, h.collision, h.lost, h.rejected, h.payErr, h.good]

/-- The reply of cast.status. -/
def castStatusBytes (h : HubPort) : List Byte :=
  (castCounts h).flatMap (natBE 8) ++ ([byteOf (b2n h.lock), byteOf h.gen, 0, 0] ++ padTo 32 h.far)

theorem castStatus_answers (hport : okPort (r.u 0 1) = true) :
    castStatus r s = okWith (castStatusBytes (hubPort s (r.u 0 1))) s := by
  refine (onPort_ok hport).trans ?_
  simp [castStatusBytes, castCounts]

/-- One number of a list of numbers of `n` bytes each. -/
theorem getU_flatMap_natBE {n i : Nat} {l : List Nat} (h : i < l.length) :
    getU (n * i) n (l.flatMap (natBE n)) = l.getD i 0 % 256 ^ n := by
  induction l generalizing i with
  | nil => cases h
  | cons v l ih =>
    rw [List.flatMap_cons]
    cases i with
    | zero => exact (getU_append_left (by simp [natBE_length])).trans (getU_natBE n v)
    | succ i =>
      rw [getU_append_right (by simp [natBE_length, Nat.mul_succ]), natBE_length, Nat.mul_succ, Nat.add_sub_cancel]
      exact ih (Nat.lt_of_succ_lt_succ h)

section CastStatus
variable (h : HubPort)

theorem castCounts_length : ((castCounts h).flatMap (natBE 8)).length = 56 := by simp [castCounts, natBE_length]

theorem castStatusBytes_length : (castStatusBytes h).length = 92 := by
  simp [castStatusBytes, castCounts, natBE_length, padTo_length]

theorem castStatusBytes_lock : getU 56 1 (castStatusBytes h) = b2n h.lock := by
  rw [castStatusBytes, getU_append_right (castCounts_length h).le, castCounts_length, List.cons_append,
    getU_cons_zero, byteOf_toNat]
  cases h.lock <;> rfl

theorem castStatusBytes_count {i : Nat} (hi : i < 7) :
    getU (8 * i) 8 (castStatusBytes h) = (castCounts h).getD i 0 % 2 ^ 64 := by
  rw [castStatusBytes, getU_append_left ((castCounts_length h).symm ▸ by omega)]
  exact getU_flatMap_natBE hi

end CastStatus

theorem resp_castCount {h : HubPort} {i : Nat} (hi : i < 7) :
    resp (respond r (okWith (castStatusBytes h) s)) r.mb (8 * i) 8 = (castCounts h).getD i 0 % 2 ^ 64 := by
  refine (resp_respond _ _ ?_).trans (castStatusBytes_count h hi)
  rw [okWith, castStatusBytes_length]
  omega

/-- Settles O27: what each accepted command leaves, and what it answers. -/
theorem hubCommands : Obligations.HubCommands := by
  unfold Obligations.HubCommands
  refine ⟨?role, ?grant, fun mb p n s acc hp hn hport hhub hknown => ⟨fun hwhole hdark => ?whole, fun hpart hdark => ?part⟩,
    ?join, ?leave, ?leaves, ?own, ?config, ?status⟩
  case role =>
    rintro mb _ s acc rfl hport hrole hdark hnew
    obtain ⟨v, h, hsets, hfresh, hdark⟩ := hubRole_freshens (r := requestOf s mb) hport hrole hdark hnew
    refine runs_answers acc rfl hsets ?_
    rw [(hubPort_respond ..).trans hfresh, txPort_respond]
    simp only [rxSc_respond]
    exact ⟨roleNum_askedRole hrole, rfl, rfl, hdark⟩
  case grant =>
    rintro mb _ _ _ _ b w u s acc rfl rfl rfl rfl hport hn hlo hhi hmask hhub hknown hcls howner hplace
    have hsame : Part.hub.same s u := (same_mergeOrPlace hplace (by decide)).2 (Part.same_refl ..)
    refine runs_answers acc rfl (hubGrant_grants (r := requestOf s mb) hport hn hlo hhi hmask hhub hknown hcls howner hplace)
      ⟨?_, ?_, ?_, ?_, ?_⟩
    · refine (respBytes_respond _ _ (by simp [okWith, tcBytes10_length])).trans ?_
      exact List.take_left' (tcBytes10_length b)
    · rw [leafOf_respond]
      exact congrArg Leaf.mask (leafOf_pushed hsame)
    · rw [leafOf_respond]
      exact congrArg Leaf.cls (leafOf_pushed hsame)
    · rw [leafOf_respond]
      exact congrArg Leaf.state (leafOf_pushed hsame)
    · rw [hubPort_respond]
      exact recs_pushed hsame
  case whole =>
    subst hp hn
    obtain ⟨v, hfreed, hsame⟩ := hubRelease_whole (r := requestOf s mb) hport hhub hknown hwhole hdark
    refine runs_answers acc rfl hfreed ⟨?_, ?_⟩
    · rw [leafOf_respond]
      exact leafOf_pushed hsame
    · rw [hubPort_respond]
      exact recs_pushed hsame
  case part =>
    subst hp hn
    obtain ⟨v, hfreed, hsame⟩ := hubRelease_part (r := requestOf s mb) hport hhub hknown hpart hdark
    refine runs_answers acc rfl hfreed ⟨?_, ?_⟩
    · rw [leafOf_respond]
      exact congrArg Leaf.mask (leafOf_pushed hsame)
    · rw [hubPort_respond]
      exact recs_pushed hsame
  case join =>
    rintro mb _ lo s acc rfl hport hleaf hrx hfeed
    obtain ⟨v, hsame, hstarts⟩ := hubJoin_starts (r := requestOf s mb) hport hleaf hrx hfeed
    refine runs_answers acc rfl hstarts ⟨?_, ?_, ?_⟩
    · rw [hubPort_respond]
      exact congrArg HubPort.join (hubPort_same ..)
    · rw [hubPort_respond]
      exact congrArg HubPort.window (hubPort_same ..)
    · rw [transmitting, txPort_respond]
      exact transmitting_startTx hsame
  case leave =>
    rintro mb _ s acc rfl hport hleaf
    refine runs_answers acc rfl (hubLeave_arms (r := requestOf s mb) hport hleaf) ?_
    rw [hubPort_respond]
    exact congrArg HubPort.leaves3 (hubPort_same ..)
  case leaves =>
    rintro mb _ s acc rfl hport hnot hfirst
    refine runs_answers acc rfl (hubStatus_leaves (r := requestOf s mb) hport hfirst hnot) fun i hi => ⟨?_, ?_, ?_⟩
    · exact (resp_entry hi (by decide)).trans leafEntry_ident
    · exact (resp_entry hi (by decide)).trans leafEntry_state
    · exact (resp_entry hi (by decide)).trans leafEntry_mask
  case own =>
    rintro mb _ s acc rfl hport hleaf hfirst
    refine runs_answers acc rfl (hubStatus_own (r := requestOf s mb) hport hfirst hleaf) ⟨?_, ?_⟩
    · exact (resp_ownEntry (by decide)).trans (leafEntry_ident.trans (Nat.mod_eq_of_lt (castIdent_lt hport)))
    · exact (resp_ownEntry (by decide)).trans leafEntry_mask
  case config =>
    rintro mb _ s acc rfl hport hthr hthr' hlevel hlevel' hkeep hkeep' hack hack'
    have hrange : ¬ (arg s mb 1 1 < 30 ∨ 90 < arg s mb 1 1 ∨ argI s mb 2 2 < -200 ∨ 0 < argI s mb 2 2
      ∨ arg s mb 4 2 < 10 ∨ 1000 < arg s mb 4 2 ∨ arg s mb 6 2 < 2 ∨ 200 < arg s mb 6 2) := by omega
    obtain ⟨v, hstores, hsettled⟩ := castConfig_stores (r := requestOf s mb) (s := s) hport hrange
    refine runs_answers acc rfl hstores ?_
    rw [(hubPort_respond ..).trans hsettled]
    refine ⟨rfl, rfl, rfl, fun hnot => if_neg fun hrole => ?_⟩
    exact Bool.false_ne_true (hnot.symm.trans (beq_iff_eq.2 hrole))
  case status =>
    rintro mb _ s acc rfl hport
    have hcount (i : Nat) (hi : i < 7) :=
      resp_castCount (r := requestOf s mb) (s := s) (h := hubPort s ((requestOf s mb).u 0 1)) hi
    refine runs_answers acc rfl (castStatus_answers (r := requestOf s mb) hport) ⟨hcount 0 (by decide), hcount 1 (by decide),
      hcount 2 (by decide), hcount 3 (by decide), hcount 4 (by decide), hcount 5 (by decide), ?_⟩
    exact (resp_respond _ _ ((castStatusBytes_length _).symm ▸ by decide)).trans (castStatusBytes_lock _)

end Sys2Proof.Machine
end
